-- ==== Sys2Proof/Word.lean ====
section
/-! DEFINITION. The word types of the CX9800 (R6, R28, R62): the manual numbers these as bits. -/

namespace Sys2Proof

/-- A byte of storage (R6). -/
abbrev Byte := BitVec 8
/-- A 32-bit register element or instruction word (R27, R62). -/
abbrev Word := BitVec 32
/-- A 64-bit register pair, address operand or system register (R30). -/
abbrev DWord := BitVec 64
/-- One bit per lane of a crew (R62). -/
abbrev Mask := BitVec 64
/-- A program counter: 57 bits (Table 3.2). -/
abbrev PcWord := BitVec 57

end Sys2Proof
end

