-- ==== Sys2Proof/Config.lean ====
section
/-! DEFINITION. What an implementation fixes, and the free values: constants with no body, of which nothing can be proved. -/

namespace Sys2Proof

/-- Free value number `n` (log 5): the machine takes the next one where the manual leaves a choice or a value open. -/
opaque Config.freeBits : Nat → DWord

/-- The device's own evaluation of RSQ, EXP2, LOG2, SINPI and COSPI (R123): the magnitude it would return for a
function number, an element-type code, an input element, a rounding code and a generator state (log 10). -/
opaque Config.approx : Nat → Nat → Nat → Nat → Nat → Nat

/-- The home hash (R482): the number by which a line is ranked within its group, for a hash version, a live set and a line (log 11). -/
opaque Config.homeKey : Nat → Nat → Nat → Nat

/-- The set of a line within its home L2 slice (R171; log 11). -/
opaque Config.l2Set : Nat → Nat

/-- How many tokens beyond one a channel track holds (R290, R313; log 44). -/
opaque Config.trackExtra : Nat

/-- The key Kr of the recorder rings' MACs in a boot (R417), as bytes (log 35). -/
opaque Config.ringKey : Nat → List Nat

/-- The certificate chain of the device identity key (R449; log 35). -/
opaque Config.certChain : List Nat

/-- The RSASSA-PSS signature under the device identity key (R426, R449; log 35). -/
opaque Config.sign : List Nat → Nat

end Sys2Proof
end

