-- ==== Sys2Proof/Machine/Num.lean ====
section
/-! DEFINITION. Number formats, exact values and the function `rnd` (R82 to R93, R110).

A value is an exact real, a signed infinity or NaN (R89).  A finite value is a sign and a magnitude n / d; the sign is
kept for zeros.  All arithmetic is exact on these values and is narrowed once, by `rndFloat` or `rndInt`. -/

namespace Sys2Proof.Machine

/-- The floating-point formats of Table 4.2. -/
inductive Fmt where
  | binary32 | binary16 | bf16 | e4m3 | e5m2 | e2m1
  deriving DecidableEq, Repr

/-- The width of an encoding, in bits. -/
def Fmt.width : Fmt → Nat
  | .binary32 => 32 | .binary16 => 16 | .bf16 => 16 | .e4m3 => 8 | .e5m2 => 8 | .e2m1 => 4

/-- M, the bits of the mantissa field. -/
def Fmt.man : Fmt → Nat
  | .binary32 => 23 | .binary16 => 10 | .bf16 => 7 | .e4m3 => 3 | .e5m2 => 2 | .e2m1 => 1

/-- B, the exponent bias. -/
def Fmt.bias : Fmt → Nat
  | .binary32 => 127 | .binary16 => 15 | .bf16 => 127 | .e4m3 => 7 | .e5m2 => 15 | .e2m1 => 1

/-- The encoding of the largest finite value, without its sign. -/
def Fmt.maxBits : Fmt → Nat
  | .binary32 => 0x7F7FFFFF | .binary16 => 0x7BFF | .bf16 => 0x7F7F | .e4m3 => 0x7E | .e5m2 => 0x7B | .e2m1 => 0x7

/-- The encoding of +infinity, where the format has one. -/
def Fmt.infBits : Fmt → Option Nat
  | .binary32 => some 0x7F800000 | .binary16 => some 0x7C00 | .bf16 => some 0x7F80 | .e4m3 => none
  | .e5m2 => some 0x7C | .e2m1 => none

/-- What a NaN result is written as: the canonical NaN, or +0 for E2M1 (R86). -/
def Fmt.nanBits : Fmt → Nat
  | .binary32 => 0x7FC00000 | .binary16 => 0x7E00 | .bf16 => 0x7FC0 | .e4m3 => 0x7F | .e5m2 => 0x7E | .e2m1 => 0

/-- The weight of the sign bit. -/
def Fmt.signBit (f : Fmt) : Nat := 2 ^ (f.width - 1)

/-- An exact value (R89): a real with a sign and magnitude `n / d`, a signed infinity, or NaN. -/
inductive Val where
  | nan
  | inf (neg : Bool)
  | num (neg : Bool) (n d : Nat)
  deriving DecidableEq, Repr

/-- The magnitude `m × 2^(e − off)` as a fraction. -/
def dyadic (neg : Bool) (m e off : Nat) : Val :=
  if off ≤ e then .num neg (m * 2 ^ (e - off)) 1 else .num neg m (2 ^ (off - e))

/-- The finite magnitude that the unsigned encoding `b` stands for, with the exponent range unbounded above
(R85, R89 step 4). -/
def Fmt.magnitude (f : Fmt) (neg : Bool) (b : Nat) : Val :=
  let e := b / 2 ^ f.man
  let m := b % 2 ^ f.man
  if e = 0 then dyadic neg m 1 (f.bias + f.man) else dyadic neg (2 ^ f.man + m) e (f.bias + f.man)

/-- The value of an encoding (R85). -/
def Fmt.value (f : Fmt) (bits : Nat) : Val :=
  let neg := decide (f.signBit ≤ bits % 2 ^ f.width)
  let b := bits % f.signBit
  if b ≤ f.maxBits then f.magnitude neg b
  else if f.infBits = some b then .inf neg
  else .nan

/-- A value is a zero. -/
def Val.isZero : Val → Bool
  | .num _ n _ => n == 0
  | _ => false

/-- A value is NaN. -/
def Val.isNan : Val → Bool
  | .nan => true
  | _ => false

/-- The sign of a value; NaN counts as positive. -/
def Val.sign : Val → Bool
  | .nan => false
  | .inf s => s
  | .num s _ _ => s

/-- A subnormal encoding: exponent field zero, mantissa not zero (R85). -/
def Fmt.subnormal (f : Fmt) (bits : Nat) : Bool :=
  let b := bits % f.signBit
  decide (b ≠ 0 ∧ b < 2 ^ f.man)

/-- The value of a source element, read under MODEX.ftz (R88): E2M1 is never flushed. -/
def Fmt.read (f : Fmt) (ftz : Bool) (bits : Nat) : Val :=
  if ftz && f.subnormal bits && decide (f ≠ .e2m1) then .num (decide (f.signBit ≤ bits % 2 ^ f.width)) 0 1
  else f.value bits

/-- How a result is rounded: MODE.rnd, MODE.sat, MODEX.ftz and, for code 5, the generator after its draw (R93). -/
structure Rnd where
  code : Nat
  sat : Bool
  ftz : Bool
  gen : Nat
  deriving DecidableEq, Repr

/-- One step of a lane's generator (R93). -/
def drawStep (g : Word) : Word :=
  let g := g ^^^ (g <<< 13)
  let g := g ^^^ (g >>> 17)
  g ^^^ (g <<< 5)

/-- Whether the next magnitude above is chosen over `m` when the fraction `rem / den` of a unit is left (R91, R93). -/
def roundsUp (r : Rnd) (neg : Bool) (m rem den : Nat) : Bool :=
  match r.code with
  | 0 => decide (den < 2 * rem) || (decide (2 * rem = den) && decide (m % 2 = 1))
  | 1 => false
  | 2 => neg && decide (rem ≠ 0)
  | 3 => !neg && decide (rem ≠ 0)
  | 4 => decide (den ≤ 2 * rem)
  | 5 => decide (2 ^ 32 ≤ rem * 2 ^ 32 / den + r.gen)
  | _ => false

/-- The overflow value of a format (R90, Table 4.3). -/
def overflowBits (f : Fmt) (r : Rnd) (neg : Bool) : Nat :=
  let towardZero := r.code = 1 ∨ (r.code = 2 ∧ neg = false) ∨ (r.code = 3 ∧ neg = true)
  let s := if neg then f.signBit else 0
  if towardZero ∨ r.sat then s + f.maxBits
  else
    match f.infBits with
    | some b => s + b
    | none => if f = .e4m3 then f.nanBits else s + f.maxBits

/-- Steps 5 and 6 of R89: the overflow value above the largest finite one, and the flush of a subnormal result. -/
def finishFloat (f : Fmt) (r : Rnd) (neg : Bool) (b : Nat) : Nat :=
  let s := if neg then f.signBit else 0
  if f.maxBits < b then overflowBits f r neg
  else if r.ftz && decide (b < 2 ^ f.man) && decide (f ≠ .e2m1) then s
  else s + b

/-- The exponent e with 2^e ≤ n / d < 2^(e+1), for n / d not zero, as an integer. -/
def floorLog2 (n d : Nat) : Int :=
  let e : Int := (Nat.log2 n : Int) - (Nat.log2 d : Int)
  -- 2^e is compared with n / d without leaving the naturals
  let below := if 0 ≤ e then decide (n < d * 2 ^ e.toNat) else decide (n * 2 ^ (-e).toNat < d)
  if below then e - 1 else e

/-- The unit in which a magnitude n / d is rounded, as a biased exponent field of at least 1 (R89 step 4). -/
def Fmt.unitField (f : Fmt) (n d : Nat) : Nat :=
  let e := floorLog2 n d + f.bias
  if e < 1 then 1 else e.toNat

/-- The magnitude n / d counted in units of its last place: quotient, remainder and divisor. -/
def Fmt.inUnits (f : Fmt) (n d : Nat) : Nat × Nat × Nat :=
  let e := f.unitField n d
  let off := f.bias + f.man
  let num := if off ≤ e then n else n * 2 ^ (off - e)
  let den := if off ≤ e then d * 2 ^ (e - off) else d
  (num / den, num % den, den)

/-- `rnd` for a floating-point result type (R89): the encoding of the result. -/
def rndFloat (f : Fmt) (r : Rnd) : Val → Nat
  | .nan => f.nanBits
  | .inf neg =>
    let s := if neg then f.signBit else 0
    match f.infBits with
    | some b => s + b
    | none => if f = .e4m3 ∧ r.sat = false then f.nanBits else s + f.maxBits
  | .num neg n d =>
    if n = 0 then (if neg then f.signBit else 0)
    else
      let (m, rem, den) := f.inUnits n d
      let m := if roundsUp r neg m rem den then m + 1 else m
      finishFloat f r neg (f.unitField n d * 2 ^ f.man + m - 2 ^ f.man)

/-- The encoding of the greatest magnitude of the format not above n / d, with the exponent range unbounded above. -/
def Fmt.truncated (f : Fmt) (n d : Nat) : Nat := f.unitField n d * 2 ^ f.man + (f.inUnits n d).1 - 2 ^ f.man

/-- An integer element type's signedness and width (R84). -/
structure IntFmt where
  signed : Bool
  width : Nat
  deriving DecidableEq, Repr

/-- The largest value of an integer type. -/
def IntFmt.max (t : IntFmt) : Int := if t.signed then 2 ^ (t.width - 1) - 1 else 2 ^ t.width - 1

/-- The smallest value of an integer type. -/
def IntFmt.min (t : IntFmt) : Int := if t.signed then -(2 ^ (t.width - 1)) else 0

/-- The low `w` bits of an integer. -/
def lowBits (w : Nat) (x : Int) : Nat := (x % (2 ^ w : Int)).toNat

/-- The value of an integer element (R84). -/
def IntFmt.read (t : IntFmt) (bits : Nat) : Int :=
  let b := bits % 2 ^ t.width
  if t.signed ∧ 2 ^ (t.width - 1) ≤ b then (b : Int) - 2 ^ t.width else (b : Int)

/-- What an out-of-range float source gives with MODE.sat = 0 (Table 4.4). -/
def IntFmt.invalidBits (t : IntFmt) : Nat := if t.signed then 2 ^ (t.width - 1) else 2 ^ t.width - 1

/-- `rnd` of an exact integer into an integer type: wrap, or saturate with MODE.sat (R92, R108). -/
def fitInt (t : IntFmt) (sat : Bool) (x : Int) : Nat :=
  if sat then lowBits t.width (if t.max < x then t.max else if x < t.min then t.min else x)
  else lowBits t.width x

/-- `rnd` of a floating-point source into an integer type (R92, Table 4.4). -/
def rndInt (t : IntFmt) (r : Rnd) : Val → Nat
  | .nan => if r.sat then 0 else t.invalidBits
  | .inf neg => if r.sat then lowBits t.width (if neg then t.min else t.max) else t.invalidBits
  | .num neg n d =>
    let m := n / d
    let m := if roundsUp r neg m (n % d) d then m + 1 else m
    let x : Int := if neg then -(m : Int) else m
    if t.min ≤ x ∧ x ≤ t.max then lowBits t.width x
    else if r.sat then lowBits t.width (if t.max < x then t.max else t.min)
    else t.invalidBits

/-- An integer as an exact value; zero is +0. -/
def Val.ofInt (x : Int) : Val := .num (decide (x < 0)) x.natAbs 1

/-- Change the sign of a value. -/
def Val.neg : Val → Val
  | .nan => .nan
  | .inf s => .inf (!s)
  | .num s n d => .num (!s) n d

/-- Clear the sign of a value. -/
def Val.abs : Val → Val
  | .nan => .nan
  | .inf _ => .inf false
  | .num _ n d => .num false n d

/-- The exact product: 0 × infinity is NaN; the sign is the XOR of the signs (R109, R110). -/
def Val.mul : Val → Val → Val
  | .nan, _ => .nan
  | _, .nan => .nan
  | .inf s, .inf t => .inf (xor s t)
  | .inf s, .num t n _ => if n = 0 then .nan else .inf (xor s t)
  | .num s n _, .inf t => if n = 0 then .nan else .inf (xor s t)
  | .num s n d, .num t m e => .num (xor s t) (n * m) (d * e)

/-- The exact quotient (R109, R116): 0 ÷ 0 and infinity ÷ infinity are NaN.  Every zero and infinite quotient takes the XOR of the signs,
also where Table 5.4 does not name the sign (log 62). -/
def Val.div : Val → Val → Val
  | .nan, _ => .nan
  | _, .nan => .nan
  | .inf _, .inf _ => .nan
  | .inf s, .num t _ _ => .inf (xor s t)
  | .num s _ _, .inf t => .num (xor s t) 0 1
  | .num s n d, .num t m e =>
    if m = 0 then (if n = 0 then .nan else .inf (xor s t)) else .num (xor s t) (n * e) (d * m)

/-- The exact sum of two signed fractions. -/
def fracAdd (a b : Int × Nat) : Int × Nat :=
  if a.2 = b.2 then (a.1 + b.1, a.2)
  else
    let g := Nat.gcd a.2 b.2
    (a.1 * ((b.2 / g : Nat) : Int) + b.1 * ((a.2 / g : Nat) : Int), a.2 / g * b.2)

/-- A finite value as a signed fraction. -/
def Val.frac : Val → Int × Nat
  | .num s n d => (if s then -(n : Int) else n, d)
  | _ => (0, 1)

/-- The exact sum of terms, with the sign of a zero sum by R110 (`rdn`: MODE.rnd is 2). -/
def sumVals (rdn : Bool) (ts : List Val) : Val :=
  if ts.any Val.isNan then .nan
  else
    let pos := ts.any (fun t => decide (t = .inf false))
    let neg := ts.any (fun t => decide (t = .inf true))
    if pos && neg then .nan
    else if pos then .inf false
    else if neg then .inf true
    else
      let f := (ts.map Val.frac).foldl fracAdd (0, 1)
      if f.1 = 0 then
        if ts.all (fun t => t.isZero && !t.sign) then .num false 0 1
        else if ts.all (fun t => t.isZero && t.sign) then .num true 0 1
        else .num rdn 0 1
      else .num (decide (f.1 < 0)) f.1.natAbs f.2

/-- x < y for values that are not NaN; −0 equals +0. -/
def Val.lt (x y : Val) : Bool :=
  match x, y with
  | .nan, _ => false
  | _, .nan => false
  | .inf s, .inf t => s && !t
  | .inf s, .num _ _ _ => s
  | .num _ _ _, .inf t => !t
  | .num s n d, .num t m e =>
    decide ((if s then -(n : Int) else n) * e < (if t then -(m : Int) else m) * d)

/-- x = y as numbers: −0 equals +0, and NaN equals nothing (R117). -/
def Val.eqv (x y : Val) : Bool :=
  match x, y with
  | .nan, _ => false
  | _, .nan => false
  | x, y => !(Val.lt x y) && !(Val.lt y x)

/-- x is at most y with −0 below +0 (R114), for values that are not NaN. -/
def Val.leZ (x y : Val) : Bool :=
  if x.isZero && y.isZero then x.sign || !y.sign else Val.lt x y || Val.eqv x y

/-- The smaller of two floats under R114. -/
def Val.min (x y : Val) : Val :=
  if x.isNan then y else if y.isNan then x else if x.leZ y then x else y

/-- The larger of two floats under R114. -/
def Val.max (x y : Val) : Val :=
  if x.isNan then y else if y.isNan then x else if y.leZ x then x else y

/-- The integer square root of `n`, by `fuel` halvings of the interval [lo, lo + 2^fuel). -/
def isqrtFrom (n lo : Nat) : Nat → Nat
  | 0 => lo
  | fuel + 1 =>
    let mid := lo + 2 ^ fuel
    if mid * mid ≤ n then isqrtFrom n mid fuel else isqrtFrom n lo fuel

/-- The greatest r with r × r ≤ n. -/
def isqrt (n : Nat) : Nat := isqrtFrom n 0 (Nat.log2 n / 2 + 1)

/-- √(n / d) held to 320 fractional bits, with one more bit that is 1 when the value is not exact: it lies on the same
side of every representable value, of every midpoint and of every step of R93 as the root itself. -/
def sqrtFrac (n d : Nat) : Nat × Nat :=
  let q := n * 4 ^ 320 / d
  let t := isqrt q
  let exact := decide (t * t = q) && decide (n * 4 ^ 320 % d = 0)
  (2 * t + (if exact then 0 else 1), 2 ^ 321)

/-- √x with the special values of Table 5.5. -/
def Val.sqrt : Val → Val
  | .nan => .nan
  | .inf s => if s then .nan else .inf false
  | .num s n d =>
    if n = 0 then .num s 0 1
    else if s then .nan
    else .num false (sqrtFrac n d).1 (sqrtFrac n d).2

end Sys2Proof.Machine
end

