-- ==== Sys2Proof/Machine/Approx.lean ====
section
/-! DEFINITION. The approximated functions RSQ, EXP2, LOG2, SINPI and COSPI (R123, R124).

The exact function value is held as an interval of width about 2^−290; the value the device returns is free within the
bound of R123: `Config.approx` proposes an encoding, which is taken where the bound permits it. -/

namespace Sys2Proof.Machine

/-- The functions of R123. -/
inductive ApproxFn where
  | rsq | exp2 | log2 | sinpi | cospi
  deriving DecidableEq, Repr

/-- The number by which `Config.approx` knows a function. -/
def ApproxFn.code : ApproxFn → Nat
  | .rsq => 0 | .exp2 => 1 | .log2 => 2 | .sinpi => 3 | .cospi => 4

/-- One in the fixed point of this file: 320 fractional bits. -/
def fxOne : Nat := 2 ^ 320

/-- ln 2 in fixed point, rounded down. -/
def fxLn2 : Nat :=
  1480553391661173448385607439722553250922680800745876974795605978609098082859138712941075737848984

/-- π in fixed point, rounded down. -/
def fxPi : Nat :=
  6710401180212168915155840974220003240804194089427148950727106424351713218671805380099500388914039

/-- How far a fixed-point result of this file may lie from the real value, in units of its last place. -/
def fxSlack : Nat := 2 ^ 20

/-- The sum of t^k / k! from the term `term` = t^k / k! on, for `fuel` terms. -/
def fxExpFrom (t term k acc : Nat) : Nat → Nat
  | 0 => acc
  | fuel + 1 => fxExpFrom t (term * t / (fxOne * (k + 1))) (k + 1) (acc + term) fuel

/-- e^t for 0 ≤ t < 1. -/
def fxExp (t : Nat) : Nat := fxExpFrom t fxOne 0 0 90

/-- The sum of z^k / k over odd k, for `fuel` terms, where `pw` = z^k. -/
def fxAtanhFrom (z pw k acc : Nat) : Nat → Nat
  | 0 => acc
  | fuel + 1 => fxAtanhFrom z (pw * z / fxOne * z / fxOne) (k + 2) (acc + pw / k) fuel

/-- ln (n / d) for 1 ≤ n / d < 2. -/
def fxLn (n d : Nat) : Nat :=
  let z := (n - d) * fxOne / (n + d)
  2 * fxAtanhFrom z z 1 0 110

/-- The alternating sum of t^k / k! over odd k, for `fuel` terms, where `term` = t^k / k!. -/
def fxSinFrom (t term k : Nat) (acc : Int) (odd : Bool) : Nat → Int
  | 0 => acc
  | fuel + 1 =>
    fxSinFrom t (term * t / fxOne * t / (fxOne * ((k + 1) * (k + 2)))) (k + 2)
      (if odd then acc - term else acc + term) (!odd) fuel

/-- An interval that holds an exact function value: sign, lower and upper magnitude, and their common divisor. -/
structure Enclosure where
  neg : Bool
  lo : Nat
  hi : Nat
  den : Nat
  deriving DecidableEq, Repr

/-- sin (π n / d), for n / d not a multiple of one half. -/
def sinPiEnclosure (neg : Bool) (n d : Nat) : Enclosure :=
  let r := n % (2 * d)
  let flip := decide (d < r)
  let r := if d < r then r - d else r
  let r := if d < 2 * r then d - r else r
  let t := fxPi * r / d
  let y := (fxSinFrom t t 1 0 false 70).toNat
  ⟨xor neg flip, y - fxSlack, y + fxSlack, fxOne⟩

/-- What a function of R123 gives for an input: an exact value (Table 5.5), or an interval around the exact value. -/
inductive FnValue where
  | exact (v : Val)
  | near (e : Enclosure)
  deriving DecidableEq, Repr

/-- The exact power of two 2^k; the exponent is held within ±2000, beyond every format's range, where `rnd` gives the
same result for every value. -/
def pow2Val (k : Int) : Val :=
  let k := if k < -2000 then -2000 else if 2000 < k then 2000 else k
  if 0 ≤ k then .num false (2 ^ k.toNat) 1 else .num false 1 (2 ^ (-k).toNat)

/-- The signed floor of a fraction. -/
def floorVal (neg : Bool) (n d : Nat) : Int :=
  if neg then -(((n + d - 1) / d : Nat) : Int) else ((n / d : Nat) : Int)

/-- The value of a function of R123 for a source value read under ftz (R124).  LOG2 of 1 is +0 under every rounding code: the model's choice, as
Table 5.5 names no sign (log 10).  2^x for x below −2000 is held as a positive number smaller than a unit of every format; the bound of R123 permits
the same results around each such number. -/
def ApproxFn.eval : ApproxFn → Val → FnValue
  | _, .nan => .exact .nan
  | .rsq, .inf s => .exact (if s then .nan else .num false 0 1)
  | .rsq, .num s n d =>
    if n = 0 then .exact (.inf s)
    else if s then .exact .nan
    else
      let r := sqrtFrac d n
      .near ⟨false, r.1 - 1, r.1 + 1, r.2⟩
  | .exp2, .inf s => .exact (if s then .num false 0 1 else .inf false)
  | .exp2, .num s n d =>
    let i := floorVal s n d
    if n % d = 0 then .exact (pow2Val i)
    else if 2000 < i then .exact (pow2Val i)
    else if i < -2000 then .near ⟨false, 1, 2, 2 ^ 2000⟩
    else
      let fr := (((if s then -(n : Int) else n) - i * d) % d).toNat
      let y := fxExp (fxLn2 * fr / d)
      if 0 ≤ i then .near ⟨false, (y - fxSlack) * 2 ^ i.toNat, (y + fxSlack) * 2 ^ i.toNat, fxOne⟩
      else .near ⟨false, y - fxSlack, y + fxSlack, fxOne * 2 ^ (-i).toNat⟩
  | .log2, .inf s => .exact (if s then .nan else .inf false)
  | .log2, .num s n d =>
    if n = 0 then .exact (.inf true)
    else if s then .exact .nan
    else
      let e := floorLog2 n d
      let n' := if 0 ≤ e then n else n * 2 ^ (-e).toNat
      let d' := if 0 ≤ e then d * 2 ^ e.toNat else d
      if n' = d' then .exact (.ofInt e)
      else
        let y : Int := e * fxOne + ((fxLn n' d' * fxOne / fxLn2 : Nat) : Int)
        .near ⟨decide (y < 0), y.natAbs - fxSlack, y.natAbs + fxSlack, fxOne⟩
  | .sinpi, .inf _ => .exact .nan
  | .sinpi, .num s n d =>
    if n % d = 0 then .exact (.num s 0 1)
    else if 2 * n % d = 0 then
      .exact (.num (xor s (decide (n / d % 2 = 1))) 1 1)
    else .near (sinPiEnclosure s n d)
  | .cospi, .inf _ => .exact .nan
  | .cospi, .num _ n d =>
    if n % d = 0 then .exact (.num (decide (n / d % 2 = 1)) 1 1)
    else if 2 * n % d = 0 then .exact (.num false 0 1)
    else .near (sinPiEnclosure false (2 * n + d) (2 * d))

/-- The bound of R123 in units of the last place. -/
def ApproxFn.ulps (fn : ApproxFn) (f : Fmt) : Nat :=
  match fn, f with
  | .rsq, _ => 1
  | _, .binary32 => 2
  | _, _ => 1

/-- One unit of the last place at the magnitude n / d, as a fraction. -/
def Fmt.ulp (f : Fmt) (n d : Nat) : Int × Nat := (dyadic false 1 (f.unitField n d) (f.bias + f.man)).frac

/-- The candidate encoding `c` (sign in bit 0, unbounded magnitude above it) lies within the bound of R123; at a power of two the spacing is
that of the binade above it, so it is taken at the upper end of the interval. -/
def permitted (fn : ApproxFn) (f : Fmt) (e : Enclosure) (c : Nat) : Bool :=
  let v := (f.magnitude (decide (c % 2 = 1)) (c / 2)).frac
  let u := f.ulp e.hi e.den
  let k : Int := fn.ulps f
  let lo : Int := if e.neg then -(e.hi : Int) else e.lo
  let hi : Int := if e.neg then -(e.lo : Int) else e.hi
  -- lo − k·u ≤ v ≤ hi + k·u, over the common divisor
  decide (lo * u.2 * v.2 - k * u.1 * e.den * v.2 ≤ v.1 * e.den * u.2) &&
    decide (v.1 * e.den * u.2 ≤ hi * u.2 * v.2 + k * u.1 * e.den * v.2)

/-- The result of a function of R123 for one element: exact where Table 5.5 says so, otherwise the device's own choice
among the permitted values, which overflows under R90 and is flushed under R88 (log 10). -/
def approxResult (fn : ApproxFn) (f : Fmt) (ty : Nat) (r : Rnd) (bits : Nat) : Nat :=
  match fn.eval (f.read r.ftz bits) with
  | .exact v => rndFloat f r v
  | .near e =>
    let c := Config.approx fn.code ty bits r.code r.gen
    if permitted fn f e c then finishFloat f r (decide (c % 2 = 1)) (c / 2)
    else finishFloat f r e.neg (f.truncated e.hi e.den)

end Sys2Proof.Machine
end

