-- ==== Sys2Proof/Machine/Store.lean ====
section
/-! DEFINITION. Sparse storage: a list of key and value pairs with strictly rising keys.

Memory, register files, slots, tables of handles: everything the machine numbers is held in this one form, so that
equal contents are equal data.  `getD` reads an unlisted key as its default, and `setD` writes, removing the entry
when the value written is that default. -/

namespace Sys2Proof.Machine

/-- Key and value pairs with strictly rising keys. -/
abbrev SMap (α : Type) := List (Nat × α)

/-- The value listed at key `k`. -/
def SMap.get? {α : Type} : SMap α → Nat → Option α
  | [], _ => none
  | (j, x) :: m, k => if k = j then some x else SMap.get? m k

/-- Write `x` at key `k`, replacing what was listed there. -/
def SMap.insert {α : Type} : SMap α → Nat → α → SMap α
  | [], k, x => [(k, x)]
  | (j, y) :: m, k, x =>
    if k < j then (k, x) :: (j, y) :: m
    else if k = j then (k, x) :: m
    else (j, y) :: SMap.insert m k x

/-- Remove what is listed at key `k`. -/
def SMap.remove {α : Type} : SMap α → Nat → SMap α
  | [], _ => []
  | (j, y) :: m, k => if k = j then SMap.remove m k else (j, y) :: SMap.remove m k

/-- The value at key `k`, where an unlisted key reads as `d`. -/
def SMap.getD {α : Type} (m : SMap α) (k : Nat) (d : α) : α :=
  match m.get? k with
  | some x => x
  | none => d

/-- Write `x` at key `k`, where an unlisted key reads as `d`: the default itself is never listed. -/
def SMap.setD {α : Type} [DecidableEq α] (m : SMap α) (k : Nat) (x d : α) : SMap α :=
  if x = d then m.remove k else m.insert k x

/-- Every key is at least `lo`, and the keys rise strictly. -/
def SMap.sortedFrom {α : Type} : Nat → SMap α → Bool
  | _, [] => true
  | lo, (j, _) :: m => decide (lo ≤ j) && SMap.sortedFrom (j + 1) m

/-- The canonical form: keys rise strictly and no entry equals the default. -/
def SMap.wf {α : Type} [DecidableEq α] (m : SMap α) (d : α) : Bool :=
  SMap.sortedFrom 0 m && m.all (fun e => decide (e.2 ≠ d))

/-- The listed keys. -/
def SMap.keys {α : Type} (m : SMap α) : List Nat := m.map (fun e => e.1)

/-- The listed values, in key order. -/
def SMap.vals {α : Type} (m : SMap α) : List α := m.map (fun e => e.2)

/-- Change every listed value. -/
def SMap.mapVals {α : Type} (f : α → α) (m : SMap α) : SMap α := m.map (fun e => (e.1, f e.2))

/-- The first listed entry that satisfies `p`. -/
def SMap.findEntry {α : Type} (p : Nat → α → Bool) (m : SMap α) : Option (Nat × α) :=
  m.find? (fun e => p e.1 e.2)

/-- The lowest key in 0 … n − 1 that is not listed. -/
def SMap.lowestFree {α : Type} (m : SMap α) (n : Nat) : Option Nat :=
  (List.range n).find? (fun k => (m.get? k).isNone)

/-- Write `x` at key `k` of a store that holds at most `cap` entries: where it is full, the entry at place `pick` leaves. -/
def SMap.insertWithin {α : Type} (m : SMap α) (cap pick k : Nat) (x : α) : SMap α :=
  if (m.get? k).isNone && decide (cap ≤ m.length) then SMap.insert (m.eraseIdx (pick % m.length)) k x else m.insert k x

end Sys2Proof.Machine
end

