-- ==== Sys2Proof/Syntax.lean ====
section
/-! DEFINITION. The instructions of the CX9800: one constructor for every row of the opcode table.

Three groups share the one type.  The crew instruction words of Table 2.2 (R32) carry their register and immediate
fields at the widths of their entries.  The spatial operator words of Table 12.5 (constructors beginning `op`) have
an opcode space of their own and are held in a core's configuration store.  The remaining constructors have no
encoding: they are the events of the machine's other agents (engines, foremen, host, peers), and their operands are
what the event brings with it. -/

namespace Sys2Proof

/-- One instruction, operator word or event of the machine. -/
inductive Instr where
  /-- NOP (R76). Does nothing except advance the PC. -/
  | nop
  /-- SETM (R68). Writes the MODE fields that fmask selects from value16. -/
  | setm (f : BitVec 6) (v : BitVec 16)
  /-- SETMX (R68). Writes the MODEX fields that fmask selects from value16. -/
  | setmx (f : BitVec 3) (v : BitVec 6)
  /-- BRA (R74). Always moves the current path to the PC-relative target. -/
  | bra (o : BitVec 24)
  /-- BRNZ (R74). Branches the current path when the scalar register is nonzero. -/
  | brnz (d : BitVec 8) (i : BitVec 16)
  /-- BRZ (R74). Branches the current path when the scalar register is zero. -/
  | brz (d : BitVec 8) (i : BitVec 16)
  /-- BRANY (R74). Branches when some active lane has the predicate set. -/
  | brany (d : BitVec 3) (i : BitVec 16)
  /-- BRALL (R74). Branches when active is non-empty and every active lane has the predicate set. -/
  | brall (d : BitVec 3) (i : BitVec 16)
  /-- BRDIV (R79). Splits the path by a predicate, pushing the not-taken lanes on the path list and running the taken lanes. -/
  | brdiv (d : BitVec 3) (i : BitVec 16)
  /-- RCSET (R78). Arms a reconvergence barrier with AM and a resume PC. -/
  | rcset (d : BitVec 3) (i : BitVec 16)
  /-- RCWAIT (R80). Arrives at a reconvergence barrier, completing it or popping the next pending path. -/
  | rcwait (a : BitVec 3)
  /-- CALL (R75). Writes the link to s0:s1 and jumps PC-relative. -/
  | call (o : BitVec 24)
  /-- CALLR (R75). Jumps to a register pair target and writes the link pair. -/
  | callr (d : BitVec 8) (a : BitVec 8)
  /-- RET (R75). Returns to the address held in a scalar pair. -/
  | ret (a : BitVec 8)
  /-- JMPR (R75). Jumps to the address held in a scalar pair. -/
  | jmpr (a : BitVec 8)
  /-- EXIT (R77). Ends the lanes of the current path, popping the next path or retiring the crew. -/
  | exit
  /-- SMOVI (R73). Sets a scalar register to the sign-extended imm16. -/
  | smovi (d : BitVec 8) (i : BitVec 16)
  /-- SMOVHI (R73). Sets a scalar register to imm16 shifted left by 16. -/
  | smovhi (d : BitVec 8) (i : BitVec 16)
  /-- SADDI (R73). Adds the sign-extended imm16 to a scalar register. -/
  | saddi (d : BitVec 8) (i : BitVec 16)
  /-- SPCHI (R73). Sets a scalar pair to PC plus the sign-extended imm16 shifted by 16. -/
  | spchi (d : BitVec 8) (i : BitVec 16)
  /-- SADD (R71). Adds two scalar registers with wrap. -/
  | sadd (d : BitVec 8) (a : BitVec 8) (b : BitVec 8)
  /-- SSUB (R71). Subtracts two scalar registers with wrap. -/
  | ssub (d : BitVec 8) (a : BitVec 8) (b : BitVec 8)
  /-- SMUL (R71). Writes the low 32 bits of the product of two scalar registers. -/
  | smul (d : BitVec 8) (a : BitVec 8) (b : BitVec 8)
  /-- SAND (R71). Bitwise AND of two scalar registers. -/
  | sand (d : BitVec 8) (a : BitVec 8) (b : BitVec 8)
  /-- SOR (R71). Bitwise OR of two scalar registers. -/
  | sor (d : BitVec 8) (a : BitVec 8) (b : BitVec 8)
  /-- SXOR (R71). Bitwise XOR of two scalar registers. -/
  | sxor (d : BitVec 8) (a : BitVec 8) (b : BitVec 8)
  /-- SSHL (R71). Shifts a scalar register left by the count modulo 32. -/
  | sshl (d : BitVec 8) (a : BitVec 8) (b : BitVec 8)
  /-- SSHR (R71). Shifts a scalar register right, zero-filled. -/
  | sshr (d : BitVec 8) (a : BitVec 8) (b : BitVec 8)
  /-- SSRA (R71). Shifts a scalar register right, copying bit 31. -/
  | ssra (d : BitVec 8) (a : BitVec 8) (b : BitVec 8)
  /-- SSLT (R71). Signed less-than comparison of two scalar registers. -/
  | sslt (d : BitVec 8) (a : BitVec 8) (b : BitVec 8)
  /-- SSLTN (R71). Unsigned less-than comparison of two scalar registers. -/
  | ssltn (d : BitVec 8) (a : BitVec 8) (b : BitVec 8)
  /-- SSEQ (R71). Equality comparison of two scalar registers. -/
  | sseq (d : BitVec 8) (a : BitVec 8) (b : BitVec 8)
  /-- SADD64 (R72). Adds a pair or a sign-extended register into a 64-bit scalar pair. -/
  | sadd64 (d : BitVec 8) (a : BitVec 8) (b : BitVec 8)
  /-- SMIN (R71). Signed minimum of two scalar registers. -/
  | smin (d : BitVec 8) (a : BitVec 8) (b : BitVec 8)
  /-- SMAX (R71). Signed maximum of two scalar registers. -/
  | smax (d : BitVec 8) (a : BitVec 8) (b : BitVec 8)
  /-- PLOG (R70). Computes a predicate from two predicates by a 4-bit truth table. -/
  | plog (d : BitVec 3) (a : BitVec 3) (f : BitVec 4) (b : BitVec 3)
  /-- PCOUNT (R70). Counts active lanes with the predicate set into a scalar register. -/
  | pcount (d : BitVec 8) (a : BitVec 3)
  /-- PTOS (R70). Copies a predicate masked by active into a scalar pair. -/
  | ptos (d : BitVec 8) (a : BitVec 3)
  /-- SFROMP (R70). Sets a predicate in active lanes from a scalar pair. -/
  | sfromp (d : BitVec 3) (a : BitVec 8)
  /-- GETM (R69). Reads MODEX and MODE into a scalar register. -/
  | getm (d : BitVec 8)
  /-- ADD (R111). Adds lane elements of the MODE type, rounding once. -/
  | add (d : BitVec 8) (a : BitVec 8) (b : BitVec 8)
  /-- SUB (R111). Subtracts lane elements of the MODE type. -/
  | sub (d : BitVec 8) (a : BitVec 8) (b : BitVec 8)
  /-- MUL (R111). Multiplies lane elements of the MODE type. -/
  | mul (d : BitVec 8) (a : BitVec 8) (b : BitVec 8)
  /-- MULHI (R112). Writes the high half of the exact integer product. -/
  | mulhi (d : BitVec 8) (a : BitVec 8) (b : BitVec 8)
  /-- FMA (R111). Fused multiply-add into the destination accumulator. -/
  | fma (d : BitVec 8) (a : BitVec 8) (b : BitVec 8)
  /-- FMS (R111). Fused multiply-subtract of the destination accumulator. -/
  | fms (d : BitVec 8) (a : BitVec 8) (b : BitVec 8)
  /-- FNMA (R111). Fused negative multiply-add from the destination accumulator. -/
  | fnma (d : BitVec 8) (a : BitVec 8) (b : BitVec 8)
  /-- MIN (R114). Element-wise minimum. -/
  | min (d : BitVec 8) (a : BitVec 8) (b : BitVec 8)
  /-- MAX (R114). Element-wise maximum. -/
  | max (d : BitVec 8) (a : BitVec 8) (b : BitVec 8)
  /-- ABS (R115). Element-wise absolute value. -/
  | abs (d : BitVec 8) (a : BitVec 8)
  /-- NEG (R115). Element-wise negation. -/
  | neg (d : BitVec 8) (a : BitVec 8)
  /-- CMPEQ (R117). Writes a predicate of equality per active lane. -/
  | cmpeq (d : BitVec 3) (a : BitVec 8) (b : BitVec 8)
  /-- CMPNE (R117). Writes a predicate of inequality per active lane. -/
  | cmpne (d : BitVec 3) (a : BitVec 8) (b : BitVec 8)
  /-- CMPLT (R117). Writes a predicate of less-than per active lane. -/
  | cmplt (d : BitVec 3) (a : BitVec 8) (b : BitVec 8)
  /-- CMPLE (R117). Writes a predicate of less-or-equal per active lane. -/
  | cmple (d : BitVec 3) (a : BitVec 8) (b : BitVec 8)
  /-- CMPUN (R117). Writes a predicate set when either f32 operand is NaN. -/
  | cmpun (d : BitVec 3) (a : BitVec 8) (b : BitVec 8)
  /-- SEL (R118). Selects per lane of AM between two registers by the guard. -/
  | sel (d : BitVec 8) (a : BitVec 8) (b : BitVec 8)
  /-- ADDI (R113). Adds a sign-extended imm8 to every element. -/
  | addi (d : BitVec 8) (a : BitVec 8) (i : BitVec 8)
  /-- MOVI (R120). Writes a typed constant from imm16 in each active lane. -/
  | movi (d : BitVec 8) (i : BitVec 16)
  /-- MOVHI (R120). Sets the high half of a register from imm16, keeping the low half. -/
  | movhi (d : BitVec 8) (i : BitVec 16)
  /-- MOV (R119). Copies register bits in each active lane. -/
  | mov (d : BitVec 8) (a : BitVec 8)
  /-- DIV (R116). Element-wise division. -/
  | div (d : BitVec 8) (a : BitVec 8) (b : BitVec 8)
  /-- REM (R116). Element-wise integer remainder. -/
  | rem (d : BitVec 8) (a : BitVec 8) (b : BitVec 8)
  /-- RCP (R122). Correctly rounded reciprocal. -/
  | rcp (d : BitVec 8) (a : BitVec 8)
  /-- RSQ (R123). Approximate reciprocal square root. -/
  | rsq (d : BitVec 8) (a : BitVec 8)
  /-- SQRT (R122). Correctly rounded square root. -/
  | sqrt (d : BitVec 8) (a : BitVec 8)
  /-- EXP2 (R123). Approximate base-2 exponential. -/
  | exp2 (d : BitVec 8) (a : BitVec 8)
  /-- LOG2 (R123). Approximate base-2 logarithm. -/
  | log2 (d : BitVec 8) (a : BitVec 8)
  /-- SINPI (R123). Approximate sin(pi x). -/
  | sinpi (d : BitVec 8) (a : BitVec 8)
  /-- COSPI (R123). Approximate cos(pi x). -/
  | cospi (d : BitVec 8) (a : BitVec 8)
  /-- DOT2 (R121). Adds two products of 16-bit elements into a 32-bit accumulator. -/
  | dot2 (d : BitVec 8) (a : BitVec 8) (b : BitVec 8)
  /-- DOT4 (R121). Adds four products of 8-bit elements into a 32-bit accumulator. -/
  | dot4 (d : BitVec 8) (a : BitVec 8) (b : BitVec 8)
  /-- FLOOR (R125). Rounds toward minus infinity to an integral float. -/
  | floor (d : BitVec 8) (a : BitVec 8)
  /-- CEIL (R125). Rounds toward plus infinity to an integral float. -/
  | ceil (d : BitVec 8) (a : BitVec 8)
  /-- TRUNC (R125). Rounds toward zero to an integral float. -/
  | trunc (d : BitVec 8) (a : BitVec 8)
  /-- RINT (R125). Rounds to an integral float by MODE.rnd. -/
  | rint (d : BitVec 8) (a : BitVec 8)
  /-- FCLASS (R126). Writes a one-hot class mask for each element. -/
  | fclass (d : BitVec 8) (a : BitVec 8)
  /-- SCALEB (R127). Multiplies each element by a power of two. -/
  | scaleb (d : BitVec 8) (a : BitVec 8) (b : BitVec 8)
  /-- COPYSIGN (R128). Gives the magnitude of x with the sign bit of y. -/
  | copysign (d : BitVec 8) (a : BitVec 8) (b : BitVec 8)
  /-- ABSDIFF (R111). Writes the absolute difference of elements. -/
  | absdiff (d : BitVec 8) (a : BitVec 8) (b : BitVec 8)
  /-- CVT (R99). Converts elements between types with the same element count. -/
  | cvt (d : BitVec 8) (a : BitVec 8)
  /-- CVTP (R100). Converts two source registers and packs them into one. -/
  | cvtp (d : BitVec 8) (a : BitVec 8) (b : BitVec 8)
  /-- CVTQ (R100). Converts four or eight source registers and packs them into one. -/
  | cvtq (d : BitVec 8) (a : BitVec 8)
  /-- UNPKLO (R101). Widens the low half of the elements. -/
  | unpklo (d : BitVec 8) (a : BitVec 8)
  /-- UNPKHI (R101). Widens the high half of the elements. -/
  | unpkhi (d : BitVec 8) (a : BitVec 8)
  /-- SEED_UNIFORM (R96). Seeds each active lane's generator from a scalar value. -/
  | seedUniform (a : BitVec 8)
  /-- SEED_PER_LANE (R96). Seeds each active lane's generator from a vector register. -/
  | seedPerLane (a : BitVec 8)
  /-- CVTSC (R102). Multiplies f32 sources by a scalar scale and rounds once to ctype. -/
  | cvtsc (d : BitVec 8) (a : BitVec 8) (b : BitVec 8)
  /-- AND (R134). Bitwise AND of two registers. -/
  | and (d : BitVec 8) (a : BitVec 8) (b : BitVec 8)
  /-- OR (R134). Bitwise OR of two registers. -/
  | or (d : BitVec 8) (a : BitVec 8) (b : BitVec 8)
  /-- XOR (R134). Bitwise XOR of two registers. -/
  | xor (d : BitVec 8) (a : BitVec 8) (b : BitVec 8)
  /-- NOT (R134). Bitwise complement of a register. -/
  | not (d : BitVec 8) (a : BitVec 8)
  /-- SHL (R135). Element-wise left shift. -/
  | shl (d : BitVec 8) (a : BitVec 8) (b : BitVec 8)
  /-- SHR (R135). Element-wise logical right shift. -/
  | shr (d : BitVec 8) (a : BitVec 8) (b : BitVec 8)
  /-- SRA (R135). Element-wise arithmetic right shift. -/
  | sra (d : BitVec 8) (a : BitVec 8) (b : BitVec 8)
  /-- ROTL (R135). Element-wise left rotate. -/
  | rotl (d : BitVec 8) (a : BitVec 8) (b : BitVec 8)
  /-- BFX (R136). Extracts a bit field given by position and length. -/
  | bfx (d : BitVec 8) (a : BitVec 8) (b : BitVec 8)
  /-- BFI (R136). Inserts a bit field into the destination. -/
  | bfi (d : BitVec 8) (a : BitVec 8) (b : BitVec 8)
  /-- POPC (R137). Counts one bits per element. -/
  | popc (d : BitVec 8) (a : BitVec 8)
  /-- CLZ (R137). Counts leading zero bits per element. -/
  | clz (d : BitVec 8) (a : BitVec 8)
  /-- BREV (R137). Reverses the bits of each element. -/
  | brev (d : BitVec 8) (a : BitVec 8)
  /-- BALLOT (R138). Collects one bit from every active lane into a 64-bit scalar mask. -/
  | ballot (d : BitVec 8) (a : BitVec 8) (i : BitVec 8)
  /-- SHUF (R140). Reads the lane named by an index register in each active lane. -/
  | shuf (d : BitVec 8) (a : BitVec 8) (b : BitVec 8)
  /-- SHUFX (R140). Reads lane l XOR k in each active lane. -/
  | shufx (d : BitVec 8) (a : BitVec 8) (i : BitVec 8)
  /-- LROT (R140). Reads lane (l + k) mod 64 in each active lane. -/
  | lrot (d : BitVec 8) (a : BitVec 8) (i : BitVec 8)
  /-- BCAST (R140). Broadcasts lane k to every active lane. -/
  | bcast (d : BitVec 8) (a : BitVec 8) (i : BitVec 8)
  /-- VGET (R141). Copies lane k of a vector register to a scalar register. -/
  | vget (d : BitVec 8) (a : BitVec 8) (i : BitVec 8)
  /-- VSET (R141). Writes a scalar into lane k of a vector register if that lane is active. -/
  | vset (d : BitVec 8) (a : BitVec 8) (i : BitVec 8)
  /-- REDADD (R142). Sums elements over active lanes, rounding once, into a scalar. -/
  | redadd (d : BitVec 8) (a : BitVec 8)
  /-- REDMIN (R142). Minimum of elements over active lanes into a scalar. -/
  | redmin (d : BitVec 8) (a : BitVec 8)
  /-- REDMAX (R142). Maximum of elements over active lanes into a scalar. -/
  | redmax (d : BitVec 8) (a : BitVec 8)
  /-- LANEID (R139). Writes the lane number into each active lane. -/
  | laneid (d : BitVec 8)
  /-- LDB (R150). Loads one byte per active lane. -/
  | ldb (d : BitVec 8) (a : BitVec 8) (i : BitVec 8)
  /-- LDH (R150). Loads two bytes per active lane. -/
  | ldh (d : BitVec 8) (a : BitVec 8) (i : BitVec 8)
  /-- LDW (R150). Loads four bytes per active lane. -/
  | ldw (d : BitVec 8) (a : BitVec 8) (i : BitVec 8)
  /-- LDD (R150). Loads eight bytes per active lane into a pair. -/
  | ldd (d : BitVec 8) (a : BitVec 8) (i : BitVec 8)
  /-- LDQ (R150). Loads sixteen bytes per active lane into four registers. -/
  | ldq (d : BitVec 8) (a : BitVec 8) (i : BitVec 8)
  /-- STB (R150). Stores one byte per active lane. -/
  | stb (d : BitVec 8) (a : BitVec 8) (i : BitVec 8)
  /-- STH (R150). Stores two bytes per active lane. -/
  | sth (d : BitVec 8) (a : BitVec 8) (i : BitVec 8)
  /-- STW (R150). Stores four bytes per active lane. -/
  | stw (d : BitVec 8) (a : BitVec 8) (i : BitVec 8)
  /-- STD (R150). Stores eight bytes per active lane from a pair. -/
  | std (d : BitVec 8) (a : BitVec 8) (i : BitVec 8)
  /-- STQ (R150). Stores sixteen bytes per active lane from four registers. -/
  | stq (d : BitVec 8) (a : BitVec 8) (i : BitVec 8)
  /-- LDX (R151). Loads a word per lane at a scalar base plus a scaled lane index. -/
  | ldx (d : BitVec 8) (a : BitVec 8) (b : BitVec 8)
  /-- STX (R151). Stores a word per lane at a scalar base plus a scaled lane index. -/
  | stx (d : BitVec 8) (a : BitVec 8) (b : BitVec 8)
  /-- SLD (R152). Loads one 4-byte scalar per crew. -/
  | sld (d : BitVec 8) (a : BitVec 8) (i : BitVec 8)
  /-- SLD64 (R152). Loads one 8-byte scalar pair per crew. -/
  | sld64 (d : BitVec 8) (a : BitVec 8) (i : BitVec 8)
  /-- SST (R152). Stores one 4-byte scalar per crew. -/
  | sst (d : BitVec 8) (a : BitVec 8) (i : BitVec 8)
  /-- SST64 (R152). Stores one 8-byte scalar pair per crew. -/
  | sst64 (d : BitVec 8) (a : BitVec 8) (i : BitVec 8)
  /-- PREF (R175). Prefetches a line per active lane into L1, L2 or the MLC. -/
  | pref (d : BitVec 8) (a : BitVec 8) (i : BitVec 8)
  /-- L2PIN (R171). Pins a range of lines in their L2 homes and returns a handle or failure status. -/
  | l2pin (d : BitVec 8) (a : BitVec 8) (b : BitVec 8)
  /-- L2UNPIN (R172). Releases a pin handle. -/
  | l2unpin (a : BitVec 8)
  /-- PAGEHINT_PREFER (R176). Records a preferred die in a first-touch page entry. -/
  | pagehintPrefer (a : BitVec 8) (b : BitVec 8)
  /-- PAGEHINT_MIGRATE (R176). Requests migration of a page to a die. -/
  | pagehintMigrate (a : BitVec 8) (b : BitVec 8)
  /-- PAGEHINT_CLEAR (R176). Clears a page's access counter and queued bit. -/
  | pagehintClear (a : BitVec 8) (b : BitVec 8)
  /-- PROBE (R177). Translates an address without faulting and reports the result. -/
  | probe (d : BitVec 8) (a : BitVec 8)
  /-- POOLMAP (R173). Maps bytes of the core pool at a global range and returns a handle. -/
  | poolmap (d : BitVec 8) (a : BitVec 8) (b : BitVec 8)
  /-- POOLUNMAP (R174). Writes back and unmaps a pool mapping. -/
  | poolunmap (a : BitVec 8)
  /-- FENCE (R196). Performs an acquire, release or full fence at a scope. -/
  | fence (k : BitVec 2) (s : BitVec 3)
  /-- LDACQ (R198). Loads per lane and then acquires at MODEX.ascope. -/
  | ldacq (d : BitVec 8) (a : BitVec 8) (i : BitVec 8)
  /-- STREL (R198). Releases at MODEX.ascope and then stores per lane. -/
  | strel (d : BitVec 8) (a : BitVec 8) (i : BitVec 8)
  /-- AADD (R200). Atomic add at the point of coherence, returning the old value. -/
  | aadd (d : BitVec 8) (a : BitVec 8) (b : BitVec 8)
  /-- AMIN (R200). Atomic minimum. -/
  | amin (d : BitVec 8) (a : BitVec 8) (b : BitVec 8)
  /-- AMAX (R200). Atomic maximum. -/
  | amax (d : BitVec 8) (a : BitVec 8) (b : BitVec 8)
  /-- AAND (R200). Atomic AND. -/
  | aand (d : BitVec 8) (a : BitVec 8) (b : BitVec 8)
  /-- AOR (R200). Atomic OR. -/
  | aor (d : BitVec 8) (a : BitVec 8) (b : BitVec 8)
  /-- AXOR (R200). Atomic XOR. -/
  | axor (d : BitVec 8) (a : BitVec 8) (b : BitVec 8)
  /-- AXCHG (R200). Atomic exchange. -/
  | axchg (d : BitVec 8) (a : BitVec 8) (b : BitVec 8)
  /-- ACAS (R200). Atomic compare-and-swap by bits. -/
  | acas (d : BitVec 8) (a : BitVec 8) (b : BitVec 8)
  /-- AINC (R200). Atomic wrapping increment bounded by c. -/
  | ainc (d : BitVec 8) (a : BitVec 8) (b : BitVec 8)
  /-- ADEC (R200). Atomic wrapping decrement bounded by c. -/
  | adec (d : BitVec 8) (a : BitVec 8) (b : BitVec 8)
  /-- AWAIT (R203). Reads a word and starts waiting until it differs from a value or a deadline passes. -/
  | await (d : BitVec 8) (a : BitVec 8) (b : BitVec 8)
  /-- FENCEJ (R197). A fence that also waits for or holds back the crew's jobs. -/
  | fencej (k : BitVec 2) (s : BitVec 3)
  /-- WAITC (R216). Waits until the crew's outstanding load, store, copy and tile counts fall to the given limits. -/
  | waitc (l : BitVec 6) (s : BitVec 6) (c : BitVec 6) (t : BitVec 6)
  /-- COPY (R217). Reads a copy card and enters a copy job from offset 0. -/
  | copy (d : BitVec 8) (a : BitVec 8)
  /-- COPYR (R217). Reads a copy card and enters a copy job from a resume offset. -/
  | copyr (d : BitVec 8) (a : BitVec 8) (b : BitVec 8)
  /-- STRM (R224). Reads and checks a stream card and enters the stream job. -/
  | strm (d : BitVec 8) (a : BitVec 8)
  /-- POP (R225). Takes one entry from a skid queue, setting p7 per lane. -/
  | pop (d : BitVec 8) (q : BitVec 2)
  /-- STRMBAR (R226). Orders later streams over a window range after earlier ones. -/
  | strmbar (a : BitVec 8) (b : BitVec 8)
  /-- JOBQ (R227). Reads a job's token or progress without waiting. -/
  | jobq (d : BitVec 8) (a : BitVec 8)
  /-- JOBCAN (R228). Requests cancellation of the job pending on a token register. -/
  | jobcan (a : BitVec 8)
  /-- MLOAD (R244). Reads an MLOAD card and enters a job that loads a macro. -/
  | mload (d : BitVec 8) (a : BitVec 8) (m : BitVec 3)
  /-- MMA (R245). Checks and reads the format block and scales, then starts a matrix multiply-accumulate into a tile. -/
  | mma (d : BitVec 8) (a : BitVec 8) (t : BitVec 3) (m : BitVec 3)
  /-- MZERO (R247). Writes +0 into every cell of a tile. -/
  | mzero (t : BitVec 3)
  /-- MSTORE (R249). Stores one tile row per active lane as FP32 or BF16. -/
  | mstore (t : BitVec 3) (a : BitVec 8) (f : BitVec 8)
  /-- MREAD (R248). Copies eight tile columns into vector registers. -/
  | mread (d : BitVec 8) (t : BitVec 3) (c : BitVec 8)
  /-- MFLAGS (R250). Reads and clears a tile's flags. -/
  | mflags (d : BitVec 8) (t : BitVec 3)
  /-- MTSC (R251). Sets the per-tensor scale latches TSA and TSB. -/
  | mtsc (a : BitVec 8) (b : BitVec 8)
  /-- GBIND (R262). Validates a grammar matrix object and binds it to the crew. -/
  | gbind (d : BitVec 8) (a : BitVec 8)
  /-- GRUN (R264). Reads a GRUN card and enters a grammar evaluation job. -/
  | grun (d : BitVec 8) (a : BitVec 8)
  /-- GSTAT (R267). Reads the grammar report, binding state or an RVF entry. -/
  | gstat (d : BitVec 8) (a : BitVec 8) (s : BitVec 8)
  /-- SPENT (R292). Reads a configuration image and stops and drains the named cores for a switch to spatial mode. -/
  | spent (d : BitVec 8) (a : BitVec 8) (b : BitVec 8)
  /-- SPEXIT (R301). Starts the return of the region to SIMT mode once it is empty. -/
  | spexit (d : BitVec 8)
  /-- SPWAIT (R320). Waits for the region's completion or a deadline. -/
  | spwait (d : BitVec 8) (a : BitVec 8)
  /-- ECW (R297). Queues a write to a slot's element constant register for its next TIDE. -/
  | ecw (a : BitVec 8) (b : BitVec 8)
  /-- TMARK (R298). Starts the next tidemark round at every SRC and INJ. -/
  | tmark (d : BitVec 8)
  /-- SPINJ (R300). Puts a pair of tokens into an INJ inject buffer. -/
  | spinj (a : BitVec 8) (b : BitVec 8)
  /-- SPTAKE (R299). Takes the oldest exit record for the handler crew, or parks. -/
  | sptake (d : BitVec 8)
  /-- SPSTOP_END (R321). Raises the end stop on the region. -/
  | spstopEnd
  /-- SPSTOP_HOLD (R321). Raises the hold stop on the region. -/
  | spstopHold
  /-- SPSTOP_QUIET (R321). Raises the quiet stop on the region. -/
  | spstopQuiet
  /-- SPSTOP_RELEASE (R321). Lifts hold and quiet stops and unpauses the sources. -/
  | spstopRelease
  /-- SPSTAT (R322). Reads region state by selector without waiting. -/
  | spstat (d : BitVec 8) (a : BitVec 8) (s : BitVec 8)
  /-- SPRCFG (R323). Checks and queues slot-entry replacements for their next TIDE. -/
  | sprcfg (d : BitVec 8) (a : BitVec 8)
  /-- LAUNCH (R332). Releases, reads a launch header and enters a launch in the die's launch queue. -/
  | launch (d : BitVec 8) (a : BitVec 8)
  /-- PHEND_NONE (R336). Ends the phase with a next phase ready at once. -/
  | phendNone (c : BitVec 4)
  /-- PHEND_BAR (R336). Ends the phase waiting on a task barrier. -/
  | phendBar (c : BitVec 4) (b : BitVec 4)
  /-- PHEND_QUEUE (R336). Ends the phase waiting until a queue holds an element. -/
  | phendQueue (c : BitVec 4) (l : BitVec 4) (p : BitVec 6)
  /-- PHEND_WORD (R336). Ends the phase waiting until bit 31 of a word is set. -/
  | phendWord (c : BitVec 4) (p : BitVec 6)
  /-- BARARR (R340). Releases and arrives at a task barrier without waiting. -/
  | bararr (a : BitVec 8)
  /-- BUFGET (R348). Allocates a pool buffer and returns its handle. -/
  | bufget (d : BitVec 8) (a : BitVec 8)
  /-- BUFPASS (R348). Passes buffer ownership to another crew of the task. -/
  | bufpass (a : BitVec 8) (b : BitVec 8)
  /-- BUFDROP (R348). Frees a buffer handle. -/
  | bufdrop (a : BitVec 8)
  /-- BUFADDR (R348). Returns a buffer's pool-window address with a core-scope acquire. -/
  | bufaddr (d : BitVec 8) (a : BitVec 8)
  /-- ENQ (R343). Adds active lanes' values to a queue, setting p7 per lane. -/
  | enq (d : BitVec 8) (a : BitVec 8) (l : BitVec 4) (w : BitVec 1) (r : BitVec 1)
  /-- DEQ (R343). Takes queue elements into active lanes, setting p7 per lane. -/
  | deq (d : BitVec 8) (a : BitVec 8) (l : BitVec 4) (q : BitVec 1)
  /-- QINIT (R346). Initialises a queue header. -/
  | qinit (a : BitVec 8) (l : BitVec 4)
  /-- QLEN (R347). Reads a queue's length. -/
  | qlen (d : BitVec 8) (a : BitVec 8) (l : BitVec 4)
  /-- SWEEP (R349). Adds a queue to the task's sweep set. -/
  | sweep (d : BitVec 8) (a : BitVec 8) (l : BitVec 4)
  /-- ESTIM (R350). Sets the task's remaining-time estimate. -/
  | estim (a : BitVec 8)
  /-- WIDRD (R355). Writes each active lane's work identifier to a pair. -/
  | widrd (d : BitVec 8)
  /-- WIDFLD (R355). Writes one work-identifier field per active lane. -/
  | widfld (d : BitVec 8) (k : BitVec 3)
  /-- QFENCE (R345). Orders the crew's earlier queue operations before later ones. -/
  | qfence
  /-- CPINIT (R362). Arms a coppice record and opens it in the die's coppice unit. -/
  | cpinit (d : BitVec 8) (a : BitVec 8)
  /-- SPROUT (R363). Creates the siblings of an armed coppice and starts its deadline. -/
  | sprout (d : BitVec 8) (a : BitVec 8) (b : BitVec 8)
  /-- REWARD (R365). Deposits a sibling's reward and ends its phase at the coppice barrier. -/
  | reward (a : BitVec 8) (c : BitVec 4)
  /-- CUT (R366). Cancels a sibling of a coppice. -/
  | cut (d : BitVec 8) (a : BitVec 8) (b : BitVec 8)
  /-- CPSTAT (R372). Reads a coppice's status, n, mu or sigma. -/
  | cpstat (d : BitVec 8) (a : BitVec 8) (s : BitVec 8)
  /-- CPADV (R373). Reads the advantage delivered to the issuing sibling. -/
  | cpadv (d : BitVec 8)
  /-- RAFTFORM (R377). Forms a raft from a descriptor, waiting for every member to join. -/
  | raftform (d : BitVec 8) (a : BitVec 8)
  /-- RAFTRE (R388). Re-forms a raft, aborting its pending collectives and raising the generation. -/
  | raftre (d : BitVec 8) (a : BitVec 8) (b : BitVec 8)
  /-- CAR (R380). Enters an all-reduce collective job. -/
  | car (d : BitVec 8) (a : BitVec 8)
  /-- CAG (R380). Enters an all-gather collective job. -/
  | cag (d : BitVec 8) (a : BitVec 8)
  /-- CRS (R380). Enters a reduce-scatter collective job. -/
  | crs (d : BitVec 8) (a : BitVec 8)
  /-- CBC (R380). Enters a broadcast collective job. -/
  | cbc (d : BitVec 8) (a : BitVec 8)
  /-- CA2A (R380). Enters an all-to-all collective job. -/
  | ca2a (d : BitVec 8) (a : BitVec 8)
  /-- CBAR (R380). Enters a barrier collective job. -/
  | cbar (d : BitVec 8) (a : BitVec 8)
  /-- CSTAT (R389). Reads a raft's status by selector. -/
  | cstat (d : BitVec 8) (a : BitVec 8) (s : BitVec 8)
  /-- CABORT (R390). Aborts every pending collective of this member on a raft. -/
  | cabort (a : BitVec 8)
  /-- RPUT (R391). Sends one-sided remote writes into a raft member's window. -/
  | rput (d : BitVec 8) (a : BitVec 8) (b : BitVec 8)
  /-- RGET (R391). Sends one-sided remote reads from a raft member's window. -/
  | rget (d : BitVec 8) (a : BitVec 8) (b : BitVec 8)
  /-- TRAP (R404). Raises the USER trap with tval imm16. -/
  | trap (i : BitVec 16)
  /-- TRAPRET (R405). Pops the top trap frame and resumes its path. -/
  | trapret
  /-- SREAD (R406). Copies a system register into a scalar register or pair. -/
  | sread (d : BitVec 8) (i : BitVec 16)
  /-- SWRITE (R406). Writes a system register from a scalar register or pair. -/
  | swrite (d : BitVec 8) (i : BitVec 16)
  /-- BRK (R404). Raises the BREAK trap or halts the crew under DBGCTL.brkhalt. -/
  | brk (i : BitVec 16)
  /-- MARK (R430). Records a user event in the core's strandline ring. -/
  | mark (d : BitVec 8) (i : BitVec 16)
  /-- TRCARM (R431). Arms or disarms the task's branch trace. -/
  | trcarm (d : BitVec 8) (a : BitVec 8) (b : BitVec 8)
  /-- CNTRD (R436). Reads a 48-bit counter into a scalar pair. -/
  | cntrd (d : BitVec 8) (k : BitVec 8)
  /-- CNTCFG (R435). Configures a programmable counter. -/
  | cntcfg (k : BitVec 8) (b : BitVec 8)
  /-- HALT (R407). Halts the crew when DBGCTL.halten is set, otherwise does nothing. -/
  | halt
  /-- CLOCK (R408). Reads the package time base in device ticks. -/
  | clock (d : BitVec 8)
  /-- TLBI (R409). Removes translations package-wide and waits for accesses that used them. -/
  | tlbi (d : BitVec 8) (a : BitVec 8) (b : BitVec 8)
  /-- CTXSV (R412). Saves a crew of the core into a context save area and unbinds it. -/
  | ctxsv (d : BitVec 8) (a : BitVec 8) (b : BitVec 8)
  /-- CTXRS (R414). Binds a crew from a context save area. -/
  | ctxrs (d : BitVec 8) (a : BitVec 8) (b : BitVec 8)
  /-- UNDEF (R33). Traps ILLOP with the word in tval. -/
  | undef (u : BitVec 24)
  /-- RESERVED_OPCODE (R33). A word with a reserved opcode traps ILLOP. -/
  | reservedOpcode (w : BitVec 32)
  /-- OP_PASS (R281). Firing of a PASS slot, forwarding its left token to both targets. -/
  | opPass (a : BitVec 8) (b : BitVec 8) (g : BitVec 1) (r : BitVec 1) (k : BitVec 1) (t : BitVec 4)
  /-- OP_COPY (R281). Firing of a COPY slot, sending its token to up to four targets. -/
  | opCopy (a : BitVec 8) (b : BitVec 8)
  /-- OP_SEL (R281). Firing of a SEL slot, choosing L or R by the predicate. -/
  | opSel (a : BitVec 8) (b : BitVec 8)
  /-- OP_STEER (R281). Firing of a STEER slot, routing L to A or B by the predicate. -/
  | opSteer (a : BitVec 8) (b : BitVec 8)
  /-- OP_MERGE (R282). Firing of a MERGE slot, taking one token from either input. -/
  | opMerge (a : BitVec 8) (b : BitVec 8) (g : BitVec 1)
  /-- OP_ADD (R275). Firing of a spatial ADD operator. -/
  | opAdd (a : BitVec 8) (b : BitVec 8) (x : BitVec 1) (g : BitVec 1) (r : BitVec 1) (k : BitVec 1) (t : BitVec 4)
  /-- OP_SUB (R275). Firing of a spatial SUB operator. -/
  | opSub (a : BitVec 8) (b : BitVec 8) (x : BitVec 1) (g : BitVec 1) (r : BitVec 1) (k : BitVec 1) (t : BitVec 4)
  /-- OP_MUL (R275). Firing of a spatial MUL operator. -/
  | opMul (a : BitVec 8) (b : BitVec 8) (x : BitVec 1) (g : BitVec 1) (r : BitVec 1) (k : BitVec 1) (t : BitVec 4)
  /-- OP_FMA (R275). Firing of a spatial FMA operator. -/
  | opFma (a : BitVec 8) (b : BitVec 8) (y : BitVec 1) (g : BitVec 1) (r : BitVec 1) (k : BitVec 1) (t : BitVec 4)
  /-- OP_MIN (R275). Firing of a spatial MIN operator. -/
  | opMin (a : BitVec 8) (b : BitVec 8) (x : BitVec 1) (g : BitVec 1) (r : BitVec 1) (k : BitVec 1) (t : BitVec 4)
  /-- OP_MAX (R275). Firing of a spatial MAX operator. -/
  | opMax (a : BitVec 8) (b : BitVec 8) (x : BitVec 1) (g : BitVec 1) (r : BitVec 1) (k : BitVec 1) (t : BitVec 4)
  /-- OP_CMPEQ (R275). Firing of a spatial CMPEQ operator. -/
  | opCmpeq (a : BitVec 8) (b : BitVec 8) (g : BitVec 1) (r : BitVec 1) (k : BitVec 1) (t : BitVec 4)
  /-- OP_CMPNE (R275). Firing of a spatial CMPNE operator. -/
  | opCmpne (a : BitVec 8) (b : BitVec 8) (g : BitVec 1) (r : BitVec 1) (k : BitVec 1) (t : BitVec 4)
  /-- OP_CMPLT (R275). Firing of a spatial CMPLT operator. -/
  | opCmplt (a : BitVec 8) (b : BitVec 8) (g : BitVec 1) (r : BitVec 1) (k : BitVec 1) (t : BitVec 4)
  /-- OP_CMPLE (R275). Firing of a spatial CMPLE operator. -/
  | opCmple (a : BitVec 8) (b : BitVec 8) (g : BitVec 1) (r : BitVec 1) (k : BitVec 1) (t : BitVec 4)
  /-- OP_AND (R275). Firing of a spatial AND operator. -/
  | opAnd (a : BitVec 8) (b : BitVec 8) (g : BitVec 1) (r : BitVec 1) (k : BitVec 1) (t : BitVec 4)
  /-- OP_OR (R275). Firing of a spatial OR operator. -/
  | opOr (a : BitVec 8) (b : BitVec 8) (g : BitVec 1) (r : BitVec 1) (k : BitVec 1) (t : BitVec 4)
  /-- OP_XOR (R275). Firing of a spatial XOR operator. -/
  | opXor (a : BitVec 8) (b : BitVec 8) (g : BitVec 1) (r : BitVec 1) (k : BitVec 1) (t : BitVec 4)
  /-- OP_SHL (R275). Firing of a spatial SHL operator. -/
  | opShl (a : BitVec 8) (b : BitVec 8) (g : BitVec 1) (r : BitVec 1) (k : BitVec 1) (t : BitVec 4)
  /-- OP_SHR (R275). Firing of a spatial SHR operator. -/
  | opShr (a : BitVec 8) (b : BitVec 8) (g : BitVec 1) (r : BitVec 1) (k : BitVec 1) (t : BitVec 4)
  /-- OP_DOT4 (R275). Firing of a spatial DOT4 operator with addend K. -/
  | opDot4 (a : BitVec 8) (b : BitVec 8) (x : BitVec 1) (g : BitVec 1) (r : BitVec 1) (k : BitVec 1) (t : BitVec 4)
  /-- OP_CVT (R284). Firing of a spatial CVT operator. -/
  | opCvt (a : BitVec 8) (b : BitVec 8) (x : BitVec 1) (r : BitVec 3) (t : BitVec 4)
  /-- OP_RATE (R285). Firing of a RATE slot pairing a scale with its block of elements. -/
  | opRate (a : BitVec 8) (b : BitVec 8)
  /-- OP_SCALEMUL (R285). Firing of a SCALEMUL slot latching a scale or scaling an element. -/
  | opScalemul (a : BitVec 8) (b : BitVec 8) (k : BitVec 1) (t : BitVec 4)
  /-- OP_LOOPGEN (R283). Firing of a LOOPGEN slot taking a bound or emitting an index, MARK or count. -/
  | opLoopgen (a : BitVec 8) (b : BitVec 8) (r : BitVec 3) (k : BitVec 1) (t : BitVec 4)
  /-- OP_COUNT (R286). Firing of a COUNT slot counting DATA and closing at a marker. -/
  | opCount (a : BitVec 8) (b : BitVec 8) (r : BitVec 3) (k : BitVec 1) (t : BitVec 4)
  /-- OP_ACC (R286). Firing of an ACC slot accumulating DATA and closing at a marker. -/
  | opAcc (a : BitVec 8) (b : BitVec 8) (r : BitVec 3) (k : BitVec 1) (t : BitVec 4)
  /-- OP_SRC (R304). Emission of a token by an SRC slot from its bound stream. -/
  | opSrc (a : BitVec 8) (b : BitVec 8)
  /-- OP_SNK (R305). Firing of an SNK slot writing an element or handling a marker, POISON or END. -/
  | opSnk
  /-- OP_MEMLD (R287). Firing of a MEMLD slot issuing a word read. -/
  | opMemld (a : BitVec 8) (b : BitVec 8)
  /-- OP_MEMST (R287). Firing of a MEMST slot writing a word. -/
  | opMemst
  /-- OP_EXITX (R288). Firing of an EXITX slot placing a record in its exit buffer and waking the handler. -/
  | opExitx
  /-- OP_INJ (R288). Firing of an INJ slot emitting an injected token pair. -/
  | opInj (a : BitVec 8) (b : BitVec 8)
  /-- OP_TGATE (R289). Firing of a TGATE slot releasing L tokens on a tidemark or END from R. -/
  | opTgate (a : BitVec 8) (b : BitVec 8)
  /-- OP_EDGETX (R291). Firing of an EDGETX slot putting a token onto a channel track. -/
  | opEdgetx (t : BitVec 4) (c : BitVec 2)
  /-- OP_EDGERX (R291). Firing of an EDGERX slot taking a token from a channel track. -/
  | opEdgerx (a : BitVec 8) (b : BitVec 8) (t : BitVec 4) (c : BitVec 2)
  /-- LOAD_COMPLETE (R215). A load's value arrives in its destination and the loads count falls. -/
  | loadComplete (core : Nat) (slot : Nat) (entry : Nat) (lanes : BitVec 64)
  /-- STORE_COMPLETE (R215). A store is acknowledged by its point of coherence and the stores count falls. -/
  | storeComplete (core : Nat) (slot : Nat) (entry : Nat) (lanes : BitVec 64)
  /-- REPLAY (R161). A parked crew's served pages let the faulting access execute again for its replay mask. -/
  | replay (core : Nat) (slot : Nat)
  /-- LANDING_PAGER_SERVE (R164). The landing pager takes a fault record and zero-fills or passes it on. -/
  | landingPagerServe (die : Nat) (entry : Nat)
  /-- PAGERIDLE (R166). The pager leaves core 23 after its fault queue stays empty for PAGERIDLE ticks. -/
  | pageridle (die : Nat)
  /-- FAULTTMO (R167). A fault record with no host answer within FAULTTMO is refused. -/
  | faulttmo (die : Nat) (entry : Nat)
  /-- MIGRATION (R170). A page is invalidated, copied and remapped to a new die. -/
  | migration (ctx : Nat) (va : Nat) (page : Nat)
  /-- PENDING_NOTIFICATION_POST (R168). A notification held by a pending bit is posted once queue space frees. -/
  | pendingNotificationPost (page : Nat)
  /-- FABTMO (R398). An access with no answer within FABTMO traps TIMEOUT. -/
  | fabtmo (core : Nat) (slot : Nat) (young : Bool) (va : BitVec 64)
  /-- ACTIVE_SET_SWAP (R59). A ready crew waiting 256 ck outside the active set replaces the earliest-admitted member. -/
  | activeSetSwap (core : Nat) (slot : Nat)
  /-- AWAIT_WAKE (R203). A waiting AWAIT re-reads its word after a write or 2,048 ck. -/
  | awaitWake (core : Nat) (slot : Nat)
  /-- AWAIT_DEADLINE (R203). An AWAIT deadline passes and it ends with status 1. -/
  | awaitDeadline (core : Nat) (slot : Nat)
  /-- JOB_START (R213). A job in the gate starts once earlier accesses and conflicting jobs have completed. -/
  | jobStart (core : Nat) (job : Nat)
  /-- COPY_CHUNK (R219). A copy moves one 512-byte chunk or stops with a status. -/
  | copyChunk (core : Nat) (job : Nat)
  /-- STREAM_ENTRY (R222). A dir 0 stream delivers a full entry into its skid queue. -/
  | streamEntry (core : Nat) (job : Nat) (read : Bool) (elem : Nat)
  /-- MLOAD_ROW (R244). An MLOAD job reads one row into its macro or stops. -/
  | mloadRow (core : Nat) (job : Nat)
  /-- GRUN_ROW (R266). A grammar job writes one row of Y for all vectors or stops. -/
  | grunRow (core : Nat) (job : Nat)
  /-- JOB_COMPLETE (R215). A job writes its token and performs its completion release. -/
  | jobComplete (core : Nat) (job : Nat)
  /-- MMA_BROADCAST (R240). A macro broadcast completes and the MMA's additions enter the tile. -/
  | mmaBroadcast (core : Nat) (entry : Nat)
  /-- MACRO_ERROR (R230). An uncorrectable error in a macro makes it invalid. -/
  | macroError (core : Nat) (mac : Nat)
  /-- TILE_CELL_ERROR (R253). An uncorrectable error in a tile cell is recorded for the next reader. -/
  | tileCellError (core : Nat) (tile : Nat) (cell : Nat)
  /-- SPENT_COMMIT (R292). After the drain, SPENT checks and loads the image and commits or aborts the switch. -/
  | spentCommit (core : Nat) (slot : Nat) (bad : Bool)
  /-- SPEXIT_COMPLETE (R301). The region's cores return to SIMT mode and the control crew resumes. -/
  | spexitComplete (core : Nat) (slot : Nat)
  /-- REGION_COMPLETION (R309). The region controller makes the completion release store once all sinks reported. -/
  | regionCompletion (core : Nat) (slot : Nat)
  /-- SPWAIT_DEADLINE (R320). An SPWAIT deadline passes before completion. -/
  | spwaitDeadline (core : Nat) (slot : Nat)
  /-- DRAIN_END (R313). A drain ends after 64 ck without a firing. -/
  | drainEnd (core : Nat) (slot : Nat)
  /-- WATCHDOG (R317). A region with tokens and no firing for WDTICKS raises an end stop. -/
  | watchdog (core : Nat) (slot : Nat)
  /-- SAVE_STOP (R314). The foreman cuts a region at a tidemark, drains it and scans it out. -/
  | saveStop (core : Nat) (slot : Nat)
  /-- DEBUG_HALT (R316). A debugger halts one core of a live region, freezing its slots. -/
  | debugHalt (core : Nat)
  /-- HALT_RELEASE (R407). The foreman releases a halted crew or core. -/
  | haltRelease (core : Nat) (slot : Nat)
  /-- CONFIG_STORE_ERROR (R318). A configuration store error is corrected, or held and reloaded from the image. -/
  | configStoreError (core : Nat) (fixed : Bool)
  /-- BIND (R329). The foreman writes a bind record and dispatch loads the crew. -/
  | bind (task : Nat) (places : List (Nat × Nat × Nat × Nat × Nat))
  /-- NEXT_PHASE_READY (R336). A phase's wait condition is met and the next phase becomes ready. -/
  | nextPhaseReady (task : Nat) (crew : Nat)
  /-- GANGWAIT (R334). A gang waiting GANGWAIT looks for phases to checkpoint. -/
  | gangwait (task : Nat) (slots : List Nat)
  /-- GANGTMO (R334). A gang still unbound at GANGTMO ends GANG_STARVED. -/
  | gangtmo (task : Nat)
  /-- PREEMPTION_CHOICE (R351). The foreman chooses drain, checkpoint, kill or wait for a newcomer lacking slots. -/
  | preemptionChoice (newcomer : Nat) (victim : Nat) (slots : List Nat)
  /-- SWEEP_TOKEN_HOP (R349). The sweep token moves on from an idle core, or terminates the task at the end of a white round. -/
  | sweepTokenHop (task : Nat)
  /-- FSLICE (R439). The current function's slice expires and the foremen switch functions. -/
  | fslice
  /-- COPPICE_DEADLINE (R367). At the deadline running siblings become LATE and the barrier completes. -/
  | coppiceDeadline (ctx : Nat) (va : Nat)
  /-- FORM (R377). A raft FORM message is taken by the coordinator-elect. -/
  | form (ix : Nat)
  /-- JOIN (R388). A raft JOIN message is taken by the coordinator. -/
  | join (ix : Nat)
  /-- CONTRIB (R381). A collective contribution segment is taken and combined. -/
  | contrib (ix : Nat)
  /-- RESULT (R380). A collective result segment is taken and written. -/
  | result (ix : Nat)
  /-- ARRIVE (R380). A barrier arrival message is taken. -/
  | arrive (ix : Nat)
  /-- ABORT (R386). An abort message is taken, forwarded by the coordinator or kept by a member. -/
  | abort (ix : Nat)
  /-- REMREQ (R392). A remote access request is performed at the target's window. -/
  | remreq (ix : Nat)
  /-- REMACK (R392). A remote access acknowledgement or reply completes a lane. -/
  | remack (ix : Nat)
  /-- COLLECTIVE_TIMEOUT (R387). A collective job's timer expires and it aborts with ABORT_TIMEOUT. -/
  | collectiveTimeout (core : Nat) (job : Nat)
  /-- RAFTFORM_TIMEOUT (R377). RAFTFORM ends ABORT_TIMEOUT when T passes before all members join. -/
  | raftformTimeout (h : Nat) (k : Nat)
  /-- RAFT_JOIN_TIMEOUT (R388). A JOIN gets no reply within T and the next rank is tried, or the coordinator's wait ends. -/
  | raftJoinTimeout (h : Nat) (k : Nat)
  /-- REMOTE_ACCESS_TIMEOUT (R392). An RPUT or RGET lane fails when T passes without a reply. -/
  | remoteAccessTimeout (core : Nat) (slot : Nat) (entry : Nat)
  /-- LINK_RETRY_FAILURE (R452). A port fails link-level retry and is taken out of service. -/
  | linkRetryFailure (port : Nat)
  /-- PORT_RETRAIN_ATTEMPT (R452). An autonomous retraining attempt of a failed port. -/
  | portRetrainAttempt (port : Nat) (ok : Bool)
  /-- FOREMAN_MEMORY_ERROR (R421). An uncorrectable error in foreman or B-die engine memory triggers a device-fatal freeze. -/
  | foremanMemoryError (ring : Nat)
  /-- FOREMAN_WATCHDOG (R421). Foreman firmware watchdog expiry triggers a device-fatal freeze. -/
  | foremanWatchdog (ring : Nat)
  /-- SYNC_PLANE_LOSS (R421). Loss of a die's sync plane to the B-die triggers a device-fatal freeze. -/
  | syncPlaneLoss (ring : Nat)
  /-- THERMAL_TRIP (R455). The thermal trip freezes with cause 0x83. -/
  | thermalTrip
  /-- FREEZE_BROADCAST (R422). The freeze broadcast reaches a ring, which writes FREEZE and stops recording. -/
  | freezeBroadcast
  /-- CAPSULE_SEAL (R425). The head foreman assembles, signs and stores the strandline capsule. -/
  | capsuleSeal
  /-- COLD_RESET (R448). Cold reset runs measured boot and sets the device ready. -/
  | coldReset (images : List (Nat × Nat × Nat × Bool)) (bad : List Nat)
  /-- WARM_RESET (R454). DEVCTL bit 0 warm-resets the package, keeping kept fields, CLOCK and the capsule region. -/
  | warmReset (images : List (Nat × Nat × Nat × Bool))
  /-- LQTAIL_DOORBELL (R441). A write to LQTAIL reads and enters the new launch headers. -/
  | lqtailDoorbell (fn : Nat) (t : Nat)
  /-- LAUNCH_QUEUE_ENTRY (R441). A host launch entry waiting for a full die launch queue is entered. -/
  | launchQueueEntry (fn : Nat)
  /-- FREPLY_SERVE (R444). The host answers a fault record as served and the foreman walks the entry again. -/
  | freplyServe (fn : Nat) (seq : Nat)
  /-- FREPLY_REFUSE (R444). The host refuses a fault record. -/
  | freplyRefuse (fn : Nat) (seq : Nat)
  /-- CONTROL_RECORD_POST (R444). The device posts a record to a control ring once room exists and raises vector 0. -/
  | controlRecordPost (fn : Nat)
  /-- CREATE (R443). Creates a context from a descriptor. -/
  | create (fn : Nat) (w : Nat)
  /-- UPDATE (R443). Writes a descriptor's registers into an existing context. -/
  | update (fn : Nat) (w : Nat)
  /-- DESTROY (R443). Kills a context's tasks, frees its resources and its number. -/
  | destroy (fn : Nat) (w : Nat)
  /-- READ (R445). Copies bytes of a capsule view into BAR2. -/
  | read (fn : Nat) (w : Nat)
  /-- RELEASE (R445). Frees a capsule slot in HBM. -/
  | release (fn : Nat) (w : Nat)
  /-- FREEZE (R445). Host request that triggers a freeze with cause 0x84. -/
  | freeze (fn : Nat) (w : Nat)
  /-- INFO (R445). Copies a capsule's header into BAR2. -/
  | info (fn : Nat) (w : Nat)
  /-- FOREMAN_FIRMWARE_UPDATE (R451). Service command 1 updates a die's foreman firmware. -/
  | foremanFirmwareUpdate (op : Nat) (size : Nat) (version : Nat)
  /-- CORE_OFFLINE (R451). Service command 2 takes a core offline. -/
  | coreOffline (op : Nat)
  /-- CORE_ONLINE (R451). Service command 2 with online set brings a core online. -/
  | coreOnline (op : Nat)
  /-- DIE_OFFLINE (R451). Service command 3 takes a die offline, migrating pages and rehashing homes. -/
  | dieOffline (op : Nat)
  /-- DIE_ONLINE (R451). Service command 3 with online set brings a die online. -/
  | dieOnline (op : Nat)
  /-- RETRAIN_HBM_STACK (R451). Service command 4 retrains an HBM4E stack. -/
  | retrainHbmStack (op : Nat)
  /-- RETRAIN_PORT (R451). Service command 5 retrains a port. -/
  | retrainPort (op : Nat)
  /-- ADD_FREE_PAGES (R165). Service command 6 adds checked page bases to a die's free-page pool. -/
  | addFreePages
  /-- CONFIG_RECORD_REPLACE (R450). A PF service command replaces a signed configuration record. -/
  | configRecordReplace (record : Nat) (version : Nat) (value : Nat) (ok : Bool)
  /-- GET_VERSION (R449). SPDM GET_VERSION request. -/
  | getVersion (fn : Nat)
  /-- GET_CAPABILITIES (R449). SPDM GET_CAPABILITIES request. -/
  | getCapabilities (fn : Nat)
  /-- NEGOTIATE_ALGORITHMS (R449). SPDM NEGOTIATE_ALGORITHMS request. -/
  | negotiateAlgorithms (fn : Nat)
  /-- GET_DIGESTS (R449). SPDM GET_DIGESTS request. -/
  | getDigests (fn : Nat)
  /-- GET_CERTIFICATE (R449). SPDM GET_CERTIFICATE request for slot 0. -/
  | getCertificate (fn : Nat) (off : Nat) (len : Nat)
  /-- CHALLENGE (R449). SPDM CHALLENGE request signed by the device identity key. -/
  | challenge (fn : Nat) (nonce : Nat)
  /-- GET_MEASUREMENTS (R449). SPDM GET_MEASUREMENTS request returning log blocks and MR. -/
  | getMeasurements (fn : Nat) (block : Nat)
  /-- HOST_BAR2_ACCESS (R442). A host read or write of BAR2 at the staging region's point of coherence. -/
  | hostBar2Access (fn : Nat) (off : Nat) (n : Nat) (write : Bool) (x : Nat)
  /-- REGISTER_WRITE (R8). A host write to a BAR0 register that has no behaviour of its own. -/
  | registerWrite (fn : Nat) (off : Nat) (x : Nat)
  /-- MEMORY_REPLY (R315). A memory reply for a spatial MEMLD lands at its core and is emitted to the slot's targets, or is discarded and counted in KILLDROP when its configuration version is stale. -/
  | memoryReply (core : Nat) (entry : Nat)
  /-- MEMORY_ERROR (R419). An error is found in L2, MLC, vault, pool or HBM data; it is corrected and counted, or the line becomes poisoned and a MEMERR event is recorded. -/
  | memoryError (wh : Nat) (idx : Nat) (fixed : Bool)
  /-- LAUNCH_QUEUE_TAKE (R334). The die's foreman takes a launch from the launch queue, creating the task or ending it at once with GANG_TOO_LARGE. -/
  | launchQueueTake (die : Nat)
  deriving DecidableEq, Repr

end Sys2Proof
end

