-- ==== Sys2Proof/Machine/State.lean ====
section
/-! DEFINITION. The state of the CX9800, its reset, and the reasons a step can stop.

Everything the manual gives the machine is held here as plain data.  `agenda`, `focusCore`, `focusSlot` and `freeIx`
are the model's own: which agent moves next, which crew or slot is executing, and the number of the next free value
(log 4, log 5). -/

namespace Sys2Proof.Machine

/-- Why a step stops with a fault. -/
inductive Fault where
  /-- The agenda names a core or slot outside the package (R13).  Raised by `step` only; safe: no such unit exists,
  so no behaviour of the hardware is cut off. -/
  | noSuchUnit
  deriving DecidableEq, Repr

/-- Why a step is refused. -/
inductive Refusal where
  /-- The named row of the opcode table has no meaning in the model.  Raised by `exec`; safe: the model stops. -/
  | notModelled (mnemonic : String)
  deriving DecidableEq, Repr

/-! ## Crews -/

/-- One entry of a crew's trap stack (R400): PC, mask, MODEX × 65,536 + MODE, cause with the path count, tval; and, where the trap came
while the crew waited, the PC at which it waits and its deadline (R204; log 67). -/
structure Frame where
  pc : DWord
  mask : Mask
  mode : Word
  cause : Word
  tval : DWord
  deadline : Option (PcWord × Nat) := none
  deriving DecidableEq, Repr

/-- A reconvergence barrier (Table 3.2). -/
structure Barrier where
  mask : Mask
  arrived : Mask
  resume : PcWord
  deriving DecidableEq, Repr

/-- A barrier as a crew is created with (Table 3.2). -/
def Barrier.zero : Barrier := ⟨0, 0, 0⟩

/-- A page a parked crew waits for (R161): 0 not answered, 1 served, 2 refused. -/
structure ParkPage where
  va : Nat
  answer : Nat
  deriving DecidableEq, Repr

/-- What a parked crew records (R161): the replay mask, the VA of its lowest lane, the pages it reported, and whether
the access was an instruction fetch. -/
structure Park where
  mask : Mask
  va : DWord
  pages : List ParkPage
  fetch : Bool
  deriving DecidableEq, Repr

/-- Where an access lands: the storage index of its point of coherence, and whether it is L1-cacheable global memory
(R146, R481; log 7). -/
structure Loc where
  idx : Nat
  cached : Bool
  deriving DecidableEq, Repr

/-- One lane's access of an outstanding instruction: lane, virtual address, place, store data or atomic operands, and
the generator value drawn at issue (R201).  `fresh` is false once the instruction has made the request for its line (R155). -/
structure LaneAcc where
  lane : Nat
  va : Nat
  loc : Loc
  data : Nat
  cmp : Nat
  gens : List Nat
  fresh : Bool := true
  deriving DecidableEq, Repr

/-- What an outstanding access does when it is performed (R215, R200, R392). -/
inductive PendKind where
  /-- A vector load: destination register, sign-extended or not, past L1 or not (R481). -/
  | load (dst : Nat) (sext past : Bool)
  /-- A scalar load: destination register. -/
  | sload (dst : Nat)
  | store
  /-- An atomic: destination, opcode, element-type code, MODE.rnd, MODE.sat, MODEX.ftz. -/
  | atomic (dst : Nat) (op ty : Nat) (code : Nat) (sat ftz : Bool)
  /-- One line of an MSTORE row (R249). -/
  | tstore
  /-- An RPUT or RGET (R392): the request number of each lane is in its `cmp`. -/
  | remote (isGet : Bool) (dst : Nat)
  deriving DecidableEq, Repr

/-- An outstanding access of a crew, with the PC and the crew's issue count at its instruction. -/
structure Pend where
  kind : PendKind
  size : Nat
  accs : List LaneAcc
  pc : PcWord
  seq : Nat
  /-- A store that a release at scope 1 or 2 has covered, and that agents outside that scope instance may not see yet (R179, R191; log 81): the
  scope; otherwise 0. -/
  acked : Nat := 0
  /-- CLOCK at its issue (R398). -/
  issuedAt : Nat := 0
  deriving DecidableEq, Repr

/-- One entry of a skid queue: the elements it holds, lane 0 first (R222). -/
structure SkidEntry where
  elems : List Word
  deriving DecidableEq, Repr

/-- A skid queue of a crew (R222): depth reserved, entries oldest first, and the job bound to it while one is pending. -/
structure Skid where
  depth : Nat
  entries : List SkidEntry
  job : Option Nat
  deriving DecidableEq, Repr

/-- A job that has completed and that its crew has not yet observed (R195). -/
structure Unobserved where
  token : Nat
  scope : Nat
  /-- A dir 1 or 2 stream, which SPEXIT observes (R301). -/
  region : Bool
  deriving DecidableEq, Repr

/-- The grammar binding of a crew (R262): object address, header bytes 4–47, maxrules. -/
structure Binding where
  base : DWord
  header : Nat
  maxrules : Nat
  deriving DecidableEq, Repr

/-- The sibling identity of a crew (R338, R360): coppice record VA, sibling index, and the advantage delivered. -/
structure Sibling where
  record : DWord
  index : Nat
  sibling : Bool
  delivered : Bool
  advantage : Word
  deriving DecidableEq, Repr

/-- A crew that is no sibling (R338). -/
def Sibling.none : Sibling := ⟨0, 0, false, false, 0⟩

/-- The kernel's carry-set descriptor (R54): the vector and scalar registers named, unused positions left out. -/
structure CarrySet where
  vregs : List Nat
  sregs : List Nat
  deriving DecidableEq, Repr

/-- A held translation (R159): context, first byte, size and physical base of the page, permissions and G. -/
structure TlbEntry where
  ctx : Nat
  va : Nat
  size : Nat
  pa : Nat
  rd : Bool
  w : Bool
  x : Bool
  glob : Bool
  deriving DecidableEq, Repr

/-- The instruction at which a crew waits (R203, R231, R292, R299, R301, R320, R377, R388). -/
inductive Waiting where
  | await (d a b : BitVec 8)
  | spent
  | spexit (d : BitVec 8)
  | spwait (d a : BitVec 8)
  | sptake (d : BitVec 8)
  /-- The handle and rank that wait. -/
  | raftform (d h k : Nat)
  | raftre (d h k : Nat)
  /-- An MMA that the stand has accepted and that waits for the MLOADs of its macro with a number below `before` (R231), with its format block
  as read. -/
  | mma (mac before block : Nat)
  /-- A CTXSV that keeps the crew at a slot of its core stopped until it can be saved (R412). -/
  | ctxsv (key : Nat)
  deriving DecidableEq, Repr

/-- A crew bound to a slot: the state of Table 3.2, the crew system state of R338 and what is outstanding. -/
structure Crew where
  -- the binding (R329)
  ctx : Nat
  task : Nat
  /-- Number of the crew within its task (R326), or of the sibling among the task's siblings. -/
  number : Nat
  prio : Nat
  rbase : Nat
  vregs : Nat
  sregs : Nat
  tiles : BitVec 8
  widbase : DWord
  carry : List CarrySet
  -- Table 3.2
  pc : PcWord
  am : Mask
  live : Mask
  mode : BitVec 16
  modex : BitVec 16
  preds : SMap Mask
  bars : SMap Barrier
  paths : List (PcWord × Mask)
  sreg : SMap Word
  vreg : SMap Word
  gens : SMap Word
  -- crew system state (R338)
  tvec : DWord
  frames : List Frame
  remstat : Word
  tsa : Word
  tsb : Word
  binding : Option Binding
  sib : Sibling
  -- engines and accesses
  /-- The report of the last grammar fault (R267): the whole value 0 when there is none, the row field of Table 11.3 too (log 106). -/
  gramReport : DWord
  gramFlags : BitVec 2
  pend : List Pend
  tokens : SMap Nat
  unobs : List Unobserved
  skids : SMap Skid
  lastPage : SMap TlbEntry
  -- waiting and stopping
  park : Option Park
  replay : Option Mask
  /-- The address that the crew was parked on, while a replay is due (R162). -/
  replayVa : DWord
  /-- CLOCK at the first issue of a RAFTFORM that has not ended (R377). -/
  firstIssue : Option Nat
  deadline : Option Nat
  waiting : Option Waiting
  released : Bool
  halted : Bool
  frozen : Bool
  /-- Its last attempt to issue found that it waits, and it has left the active set (R59). -/
  stalled : Bool
  awaitSib : Bool
  savedTrap : Option (Nat × DWord)
  -- the foreman's (R329, R334, R361)
  /-- The pool offset of the phase record that the foreman gave with the binding. -/
  recOff : Nat
  boundAt : Nat
  /-- The sibling is cut and retires at its next instruction boundary. -/
  cut : Bool
  -- the recorder (R419, R424, R432)
  path : DWord
  pathFresh : Bool
  issued : Nat
  /-- The branch outcomes of the open BMAP packet, oldest first. -/
  bmap : List Bool
  /-- CLOCK from which the next taken uniform branch is sampled. -/
  sampleAt : Nat
  /-- When it last became ready and when it last issued: CLOCK and the issue count of its quarter (R59, R330). -/
  readyAt : Nat × Nat
  /-- The issues of its quarter when it became ready for its next instruction, whether or not it has lost its place since (R331). -/
  readySince : Nat
  lastIssue : Nat × Nat
  /-- The register cache (R60): the vector registers most recently read or written, latest first. -/
  cache : List Nat
  deriving DecidableEq, Repr

/-- A crew with no binding and every field as a launch creates it (Table 3.2, R338), before what the launch sets. -/
def Crew.blank : Crew where
  ctx := 0
  task := 0
  number := 0
  prio := 0
  rbase := 0
  vregs := 8
  sregs := 1
  tiles := 0
  widbase := 0
  carry := []
  pc := 0
  am := 0
  live := 0
  mode := 0
  modex := 6
  preds := []
  bars := []
  paths := []
  sreg := []
  vreg := []
  gens := []
  tvec := 0
  frames := []
  remstat := 0
  tsa := 0x3F800000
  tsb := 0x3F800000
  binding := none
  sib := Sibling.none
  gramReport := 0
  gramFlags := 0
  pend := []
  tokens := []
  unobs := []
  skids := []
  lastPage := []
  park := none
  replay := none
  replayVa := 0
  firstIssue := none
  deadline := none
  waiting := none
  released := false
  halted := false
  frozen := false
  stalled := false
  awaitSib := false
  savedTrap := none
  recOff := 0
  boundAt := 0
  cut := false
  path := 0
  pathFresh := false
  issued := 0
  bmap := []
  sampleAt := 0
  readyAt := (0, 0)
  readySince := 0
  lastIssue := (0, 0)
  cache := []

/-! ## Cores -/

/-- The kinds of engine job that pass through a job gate (R207, R244, R264, R379). -/
inductive JobKind where
  | copy | stream | mload | grun | collective (op : Nat)
  deriving DecidableEq, Repr

/-- A region of a footprint, widened to lines (R208): first byte and length. -/
structure Range where
  base : Nat
  len : Nat
  deriving DecidableEq, Repr

/-- How far a stream has come (R222, R304): its direction and port, the next entry or element to deliver, the token of
that element, the status it stops with (0: none) and the entry before which it stops. -/
structure StreamPos where
  dir : Nat
  core : Nat
  slot : Nat
  next : Nat
  part : Nat
  stop : Nat
  limit : Nat
  deriving DecidableEq, Repr

/-- A stream that has not begun, and the place holder in other jobs. -/
def StreamPos.zero : StreamPos := ⟨0, 0, 0, 0, 0, 0, 0⟩

/-- A job in a job gate (R212): what was issued, what it may touch, and how far it has come. -/
structure Job where
  id : Nat
  kind : JobKind
  /-- The key of the crew that issued it. -/
  crew : Nat
  ctx : Nat
  /-- The card as read at issue, little-endian (R209). -/
  card : Nat
  cardVa : DWord
  /-- The token register of the crew. -/
  token : Nat
  scope : Nat
  reads : List Range
  writes : List Range
  /-- The crew's issue count at the job's instruction (R213). -/
  seq : Nat
  started : Bool
  cancelled : Bool
  /-- Byte offset, row or number of elements delivered. -/
  pos : Nat
  /-- Elements read, by element number (R222). -/
  buffer : SMap Nat
  stream : StreamPos
  /-- A range of the job has lost a pool mapping or pin while the job ran (R219, R385). -/
  lost : Bool
  /-- The value of the token, once the job has stopped. -/
  result : Option Nat
  /-- The status word that a collective has reached, with the failed port or 31, while earlier jobs of its member are pending (R384). -/
  ending : Option (Nat × Nat)
  /-- The place of a collective's end among those of its member whose tokens are not written yet; 0 where it has none (R384). -/
  ended : Nat
  /-- Further operands taken at issue: macro, region slot, raft or sequence number, by kind. -/
  aux : List Nat
  /-- Deadline in device ticks, where the kind has one. -/
  deadline : Option Nat
  /-- A GRUN has written an infinity or NaN_c (Table 11.5). -/
  nonfin : Bool
  /-- The elements of the destination that the result of a collective has reached, by the first of each segment and their number (R395). -/
  got : List (Nat × Nat) := []
  deriving DecidableEq, Repr

/-- A STRMBAR in force (R226): the listed streams of the core that touch the range go before the crew's streams from number `before` on. -/
structure StreamBar where
  crew : Nat
  range : Range
  before : Nat
  jobs : List Nat
  deriving DecidableEq, Repr

/-- A pool mapping (R173): context, VA, length, pool offset, the physical lines it is registered against as runs of
(physical address, length, pool offset), and whether it was revoked. -/
structure PoolMapping where
  ctx : Nat
  va : Nat
  len : Nat
  off : Nat
  runs : List (Nat × Nat × Nat)
  revoked : Bool
  deriving DecidableEq, Repr

/-- The task of what belongs to no crew: task numbers have 16 bits (R326). -/
def noTask : Nat := 2 ^ 16

/-- The crew key of a job whose crew was killed: slot keys lie below it. -/
def noCrew : Nat := 2 ^ 16

/-- A record of a die's fault queue (R163), when it entered, and its answer: 0 none, 1 served, 2 refused; `passed`
says that it waits for the host (R167). -/
structure FaultRec where
  va : Nat
  ctx : Nat
  kind : Nat
  access : Nat
  core : Nat
  slot : Nat
  level : Nat
  pte : Nat
  entered : Nat
  passed : Bool
  /-- The number of its control record, once one is posted (R444). -/
  seq : Nat
  /-- The who byte of its events (Table 18.1): the crew slot, a spatial slot with bit 7, or 0. -/
  who : Nat
  /-- The task whose crew, job or region sent it (Table 18.6). -/
  task : Nat
  deriving DecidableEq, Repr

/-- A CIM macro (R230): its owner context (none: invalid), format tag, and rows of 128 bytes, little-endian. -/
structure Macro where
  owner : Option Nat
  fmt : Nat
  rows : SMap Nat
  deriving DecidableEq, Repr

/-- A macro at reset: invalid. -/
def Macro.blank : Macro := ⟨none, 0, []⟩

/-- An accumulator tile (R232): FP32 cells by 128 i + n, the sticky flags (Table 10.5), and the cells with an
uncorrectable error (R253). -/
structure Tile where
  cells : SMap Word
  flags : BitVec 3
  errors : List Nat
  deriving DecidableEq, Repr

/-- A tile as a launch clears it: +0 everywhere, no flag (R232). -/
def Tile.blank : Tile := ⟨[], 0, []⟩

/-- An MMA that the stand has accepted (R245, R246): its crew and instruction, tile and macro, operand A by lane
(128 bytes, little-endian), format block, scales and latches as read at issue. -/
structure TileOp where
  crew : Nat
  pc : PcWord
  seq : Nat
  tile : Nat
  mac : Nat
  a : List Nat
  block : Nat
  sa : Nat
  sb : Nat
  tsa : Word
  tsb : Word
  deriving DecidableEq, Repr

/-! ## Spatial regions -/

/-- A token (R276): value and tag, 0 DATA, 1 SCALE, 2 MARK, 3 TIDE, 4 POISON, 5 END. -/
structure Tok where
  value : Word
  tag : Nat
  deriving DecidableEq, Repr

/-- A slot entry (Table 12.2). -/
structure SlotCfg where
  word : Word
  ecr0 : Word
  ecr1 : Word
  dl : Nat
  dr : Nat
  dp : Nat
  pre : Nat
  ii : Nat
  deriving DecidableEq, Repr

/-- A change that waits at a slot for its next TIDE (R297, R323). -/
inductive Change where
  | ecw (n : Nat) (x : Word)
  /-- A replacement entry, with the number of its SPRCFG. -/
  | entry (c : SlotCfg) (id : Nat)
  deriving DecidableEq, Repr

/-- A record of an exit buffer (R288): its number in the region, and the two tokens. -/
structure ExitRec where
  seq : Nat
  left : Tok
  right : Tok
  deriving DecidableEq, Repr

/-- A slot of a live region: its entry, its queues (oldest first), and what its operator holds. -/
structure SpSlot where
  cfg : SlotCfg
  /-- The entry has changed since the commit (R318). -/
  changed : Bool
  left : List Tok
  right : List Tok
  pred : List Tok
  /-- SCALEMUL's latch, ACC's value, COUNT's count (R285, R286). -/
  acc : Word
  /-- CVT's generator (R284). -/
  gen : Word
  /-- LOOPGEN: the bound and the next step (R283). -/
  loop : Option (Word × Nat)
  /-- RATE: the DATA tokens left in the block (R285). -/
  block : Nat
  /-- TGATE: the tag up to which L is released, or 0 (R289). -/
  gate : Nat
  exits : List ExitRec
  injects : List (Tok × Tok)
  /-- MEMLD: results in order, `none` while a reply is outstanding (R287, R313). -/
  loads : List (Option Tok)
  /-- EDGERX: tokens on its channel track (R290). -/
  track : List Tok
  /-- SRC and INJ: TIDEs placed and not yet emitted (R298). -/
  tides : List Nat
  /-- The last TIDE that INJ emitted or a slot without targets consumed (R306, R307). -/
  tide : Nat
  /-- DATA tokens consumed at the left position since the last TIDE (Table 13.2). -/
  pos : Nat
  /-- SNK: the low half of an 8-byte element (R281). -/
  half : Option Word
  /-- SNK: END has been consumed (R305). -/
  reported : Bool
  /-- SNK: its stream has stopped or was cancelled (log 40). -/
  ended : Bool
  /-- MEMLD, MEMST: the page the slot waits for (R287). -/
  fault : Option ParkPage
  changes : List Change
  /-- Lost time (R319): has fired, total, largest excess and its port. -/
  fired : Bool
  lost : Nat
  worst : Nat
  worstPort : Nat
  /-- The port whose lack was resolved last (R319). -/
  lack : Nat
  deriving DecidableEq, Repr

/-- A region (R292 to R323), from the drain of its SPENT to its SPEXIT or kill.  `slots` is keyed by
table index × 64 + slot. -/
structure Region where
  ctx : Nat
  /-- The key of the control crew. -/
  control : Nat
  cores : List Nat
  /-- The keys of the handler crews, which the EXITX slots of the image name (R296). -/
  handlers : List Nat
  imageVa : DWord
  image : Nat
  size : Nat
  scope : Nat
  regionId : Nat
  cw : DWord
  /-- The token register of SPENT. -/
  token : Nat
  /-- The commit has been made. -/
  live : Bool
  held : Bool
  quiet : Bool
  paused : Bool
  /-- An end stop under way: its POISON cause. -/
  stopping : Option Nat
  stopped : Bool
  /-- Cores halted by a debugger (R316). -/
  halted : List Nat
  round : Nat
  poisons : Nat
  cwfail : Bool
  first : Option (Word × Nat)
  complete : Bool
  cwPark : Option ParkPage
  exitSeq : Nat
  cfgSeq : Nat
  /-- A save stop: 0 none, 1 the cut is under way, 2 drained and frozen (R314). -/
  saving : Nat
  lastFire : Nat
  corrected : Nat
  reloads : Nat
  discarded : Nat
  slots : SMap SpSlot
  /-- The firing logs, newest entry first, by table index (R319). -/
  logs : SMap (List DWord)
  deriving DecidableEq, Repr

/-- A MEMLD access whose reply has not landed (R287, R315): region, core version, slot key and place. -/
structure MemReply where
  region : Nat
  version : BitVec 16
  slot : Nat
  ctx : Nat
  va : Nat
  loc : Loc
  deriving DecidableEq, Repr

/-- A live buffer of a core's pool (R348): offset and length, owner (task and crew number), and the coppices whose siblings share it, each by
the crew number of its sibling 0 (R364). -/
structure Buffer where
  off : Nat
  len : Nat
  task : Nat
  owner : Nat
  share : List Nat
  deriving DecidableEq, Repr

/-- A performance counter (R433, R435): its count, what CNTCFG selected, and the task of the CNTCFG's crew. -/
structure Counter where
  count : Nat
  cfg : Nat
  task : Nat
  deriving DecidableEq, Repr

/-- A counter that nothing has configured. -/
def Counter.zero : Counter := ⟨0, 0, 0⟩

/-- The state of one core (R16). -/
structure Core where
  macros : SMap Macro
  tiles : SMap Tile
  tileOps : List TileOp
  l1 : SMap Nat
  icache : SMap Nat
  gens : SMap Nat
  tlb : List TlbEntry
  jobs : List Job
  nextJob : Nat
  /-- The number of the next remote access of a lane, by which its answer is known (R392). -/
  remSeq : Nat
  bars : List StreamBar
  skidFree : Nat
  pools : SMap PoolMapping
  faultWait : List FaultRec
  /-- The rule-value file (R260), by context and entry (`rvfKey`). -/
  rvf : SMap Word
  /-- The context whose GRUN last wrote the rule-value file since the last reset. -/
  rvfCtx : Option Nat
  /-- The started GRUN jobs, oldest start first: the first one has the engine (R260). -/
  gramQ : List Nat
  /-- The configuration version (R294) and the count of discarded replies (R315). -/
  version : BitVec 16
  killdrop : Word
  replies : List MemReply
  /-- The buffer table (R348). -/
  buffers : SMap Buffer
  /-- Counters 0 to 10 (R433). -/
  ctrs : SMap Counter
  /-- The active sets (R59): slots, earliest admitted first. -/
  activeSet : List Nat
  /-- How often each quarter has issued (R330). -/
  issues : SMap Nat
  deriving DecidableEq, Repr

/-- A core after reset: empty caches, gate and tables. -/
def Core.blank : Core where
  macros := []
  tiles := []
  tileOps := []
  l1 := []
  icache := []
  gens := []
  tlb := []
  jobs := []
  nextJob := 0
  remSeq := 0
  bars := []
  skidFree := 256
  pools := []
  faultWait := []
  rvf := []
  rvfCtx := none
  gramQ := []
  version := 0
  killdrop := 0
  replies := []
  buffers := []
  ctrs := []
  activeSet := []
  issues := []

/-! ## Dies -/

/-- A pinned range (R171): context, base, length in bytes, and whether it was revoked. -/
structure Pin where
  ctx : Nat
  va : Nat
  len : Nat
  runs : List (Nat × Nat)
  revoked : Bool
  deriving DecidableEq, Repr

/-- The state of one compute die. -/
structure Die where
  tlb : List TlbEntry
  pins : SMap Pin
  faults : List FaultRec
  freePages : List Nat
  lowPosted : Bool
  pager : Bool
  pagerIdle : Nat
  /-- The launch queue: task numbers, oldest first (R332). -/
  launchQ : List Nat
  deriving DecidableEq, Repr

/-- A die after cold reset. -/
def Die.blank : Die where
  tlb := []
  pins := []
  faults := []
  freePages := []
  lowPosted := false
  pager := false
  pagerIdle := 0
  launchQ := []

/-- The access counter of a page at its home (R168): the count, the queued and pending bits, one count per requesting
die, and the context and VA of a pending notification. -/
structure PageCtr where
  count : Nat
  queued : Bool
  pending : Bool
  byDie : List Nat
  ctx : Nat
  va : Nat
  deriving DecidableEq, Repr

/-- A page that no other die has touched. -/
def PageCtr.zero : PageCtr := ⟨0, false, false, [0, 0, 0, 0, 0, 0, 0, 0], 0, 0⟩

/-- A page migration asked for by PAGEHINT (R176): context, VA, target die. -/
structure MigRequest where
  ctx : Nat
  va : Nat
  die : Nat
  deriving DecidableEq, Repr

/-- A migration in progress (R170): the context and VA of the page, its old and new physical bases, its size, and the entries with the leaves
that they held. -/
structure Migration where
  ctx : Nat
  va : Nat
  old : Nat
  new : Nat
  size : Nat
  leaves : List (Nat × Nat)
  deriving DecidableEq, Repr

/-! ## Contexts -/

/-- A context: privilege level, owning function and the registers of Table 17.2 held by contexts. -/
structure Ctx where
  level : Nat
  owner : Nat
  dbgctl : Word
  vaultbase : DWord
  poolbase : DWord
  ptroot : DWord
  migthr : Word
  tenant : Word
  migq : DWord
  migqht : Word
  migovf : Word
  cntctl : Word
  cntovf : Word
  capctl : Word
  trcstat : Word
  deriving DecidableEq, Repr

/-- A context with every register at its reset value (Table 17.2). -/
def Ctx.blank : Ctx where
  level := 0
  owner := 0
  dbgctl := 0
  vaultbase := 0
  poolbase := 0
  ptroot := 0
  migthr := 0
  tenant := 0
  migq := 0
  migqht := 0
  migovf := 0
  cntctl := 0
  cntovf := 0
  capctl := 0
  trcstat := 0

/-! ## Tasks (R325 to R354) -/

/-- A task barrier (R340): its generation, and the crews that have arrived in it. -/
structure TaskBar where
  gen : Nat
  arrived : List Nat
  deriving DecidableEq, Repr

/-- A barrier as a task is created with. -/
def TaskBar.zero : TaskBar := ⟨0, []⟩

/-- A phase that waits to be bound (R336, R353): its wait condition (0 none, 1 barrier, 2 queue, 3 word, 4 coppice), and
either the pool offset of its record or a context saved whole, with its suspended streams and its tiles (R339, R411). -/
structure Phase where
  kind : Nat
  addr : DWord
  depth : Nat
  bar : Nat
  gen : Nat
  /-- The core on which it is bound. -/
  core : Nat
  recOff : Option Nat
  whole : Option Crew
  jobs : List Job
  bars : List StreamBar := []
  tiles : SMap Tile
  /-- The saved region of a control crew (R413). -/
  region : Option Region
  ready : Bool
  /-- The page that an evaluation of the wait condition needs. -/
  wait : Option ParkPage
  /-- The trap that its crew takes before its first instruction. -/
  trap : Option (Nat × DWord)
  deriving DecidableEq, Repr

/-- A task: its header (Table 14.1, 128 bytes, little-endian) and what its foreman keeps for it. -/
structure Task where
  ctx : Nat
  die : Nat
  header : Nat
  carry : List CarrySet
  launched : Nat
  /-- It waits in its die's launch queue. -/
  queued : Bool
  estim : Word
  /-- The page of its carry-set descriptors that the foreman waits for. -/
  page : Option ParkPage
  /-- The core of each placement group that has been bound (R327). -/
  groups : SMap Nat
  phases : SMap Phase
  /-- Crews that have been bound: 1, or 2 once retired. -/
  seen : SMap Nat
  bars : SMap TaskBar
  /-- The unawaited arrivals: generation by crew × 16 + barrier. -/
  marks : SMap Nat
  /-- The sweep set: queue address and log2 depth (R349). -/
  sweepQs : List (Nat × Nat)
  /-- Cores whose sweep flag for the task is set. -/
  sweepFlags : List Nat
  /-- Cores that hold or have held a phase, in ascending order. -/
  cores : List Nat
  /-- The sweep token: the first core from which on it rests, and black. -/
  token : Nat × Bool
  /-- The number of the next sibling. -/
  nextSib : Nat
  /-- Crews that CTXSV has unbound and CTXRS has not bound again. -/
  away : List Nat
  /-- The advantages that came for siblings in `away` (R369). -/
  advs : SMap Word := []
  deriving DecidableEq, Repr

/-- A completion store that waits for its page (R333): context, address, value, and page. -/
structure DoneStore where
  ctx : Nat
  va : Nat
  value : Nat
  page : ParkPage
  deriving DecidableEq, Repr

/-! ## Coppices (R357 to R373) -/

/-- A sibling entry (Table 15.2), and whether the sibling's crew has not retired. -/
structure Sib where
  state : Nat
  reward : Word
  adv : Word
  tick : Word
  alive : Bool
  deriving DecidableEq, Repr

/-- A coppice in a unit (R357): `phase` 1 armed, 2 open, 3 complete and held; `status` is Table 15.3. -/
structure Coppice where
  ctx : Nat
  va : Nat
  die : Nat
  task : Nat
  core : Nat
  n : Nat
  mode : Nat
  eps : Word
  timeout : Nat
  deadline : Nat
  phase : Nat
  status : Word
  mu : Word
  sigma : Word
  /-- The crew number of sibling 0 in the task. -/
  first : Nat
  sibs : List Sib
  /-- CLOCK at the start of a suspension, and the siblings that the pre-emption choice unbinds (R370). -/
  suspended : Option (Nat × List Nat)
  deriving DecidableEq, Repr

/-- What the foreman keeps of a crew that CTXSV has saved beside what the area shows (R411, R413; log 49): it goes by the bytes of the area, wherever
they lie.  The crew's context and number (R361), the saved region, the suspended streams with the cards that they run under, the STRMBARs in
force, and what GSTAT reports (R267). -/
structure SavedArea where
  bytes : Nat
  ctx : Nat
  number : Nat
  region : Option Region
  jobs : List Job
  bars : List StreamBar
  report : DWord
  flags : BitVec 2
  deriving DecidableEq, Repr

/-! ## The recorder (R416 to R436) -/

/-- A recorder ring (R416, R417, R422): its events, newest first, how many were written, the running MAC, its position
and stamp while frozen, how many were discarded, the MAC saved with each event before it was written, newest first, and the numbers of the
held entries with an uncorrectable error, counted from 0 in the order of writing. -/
structure Ring where
  events : List (BitVec 128)
  written : Nat
  mac : DWord
  frozen : Option (Nat × Word)
  discarded : Nat
  macs : List DWord
  lost : List Nat
  deriving DecidableEq, Repr

/-- A ring at cold reset. -/
def Ring.blank : Ring := ⟨[], 0, 0, none, 0, [], []⟩

/-- An armed branch trace (R431): context, task, buffer, log2 of its size, packets written and dropped, and state. -/
structure Trace where
  ctx : Nat
  task : Nat
  va : Nat
  size : Nat
  written : Nat
  dropped : Nat
  full : Bool
  deriving DecidableEq, Repr

/-- A freeze in progress (R422, R423): origin ring, cause, tval, CLOCK at the origin, further triggers, the rings still
to freeze in order, the next position, and whether the recorders stay frozen. -/
structure Freeze where
  origin : Nat
  cause : Nat
  tval : DWord
  clock : Nat
  further : Nat
  left : List Nat
  next : Nat
  stay : Bool
  /-- A device-fatal trigger started it. -/
  fatal : Bool
  /-- The tenants with a crew on each core when its ring froze (R427). -/
  tenants : SMap (List Nat)
  deriving DecidableEq, Repr

/-- A sealed capsule (R425): header fields, the rings in freeze order, the digests, and the measurement log. -/
structure Capsule where
  number : Nat
  flags : Nat
  clock : Nat
  origin : Nat
  cause : Nat
  further : Nat
  tval : DWord
  rings : List (Nat × Ring)
  digests : List Nat
  /-- The tenants with a crew on each core at the freeze (R427). -/
  tenants : List (List Nat)
  log : List Nat
  /-- The rings whose MAC agreed when it was recomputed (R417). -/
  agreed : List Nat
  deriving DecidableEq, Repr

/-! ## Rafts (R375 to R395) -/

/-- A raft message: the header of Table 16.8 and what it carries (log 52): parameters, elements and scale bytes. -/
structure Msg where
  key : Nat
  gen : Nat
  seq : Nat
  typ : Nat
  src : Nat
  dst : Nat
  status : Nat
  offset : Nat
  sdev : Nat
  ddev : Nat
  params : List Nat
  data : List Nat
  scales : List Nat
  deriving DecidableEq, Repr

/-- A member of a raft on this device: its window, the deadline while it forms or re-forms, how many collectives it has
started in the generation, the status of the last that ended, the last abort (port, word, and its origin's device number), forwarded aborts
of collectives it has not started, and the ranks it holds to have failed. -/
structure RaftMember where
  winBase : Nat
  winLen : Nat
  deadline : Option Nat
  started : Nat
  last : Nat
  port : Nat
  abort : Nat
  abortDev : Nat
  aborts : SMap Nat
  failed : List Nat
  /-- The drop bit of its RAFTRE. -/
  drop : Nat
  /-- The deadline is that of a RAFTRE, not of the RAFTFORM that made the raft. -/
  rejoin : Bool := false
  deriving DecidableEq, Repr

/-- What a coordinator keeps of a collective (R383, R386): contributions and arrivals by rank, the first abort, and
whether the results are on their way. -/
structure Coll where
  parts : SMap Msg
  aborted : Option Nat
  sent : Bool
  /-- The segments that have come of a contribution that is not whole yet, by rank (R395). -/
  segs : SMap (List Msg) := []
  deriving DecidableEq, Repr

/-- A collective of which nothing has reached the coordinator. -/
def Coll.blank : Coll := ⟨[], none, false, []⟩

/-- A raft handle (R375): the member table by rank, generation, local members by rank, the port of the route to each
remote rank, and, at the coordinator, the collectives by sequence number, what each rank joined with at RAFTFORM (m, T and
its table), the joiners of RAFTRE with their drop bits, and the ranks named as origins in this generation. -/
structure Raft where
  ctx : Nat
  key : Nat
  kind : Nat
  timeout : Nat
  table : List Nat
  gen : Nat
  live : Bool
  members : SMap RaftMember
  routes : SMap Nat
  colls : SMap Coll
  forms : SMap (List Nat)
  joins : SMap Bool
  origins : List Nat
  /-- The earliest start of a collective among the members here, by sequence number (R387). -/
  starts : SMap Nat := []
  deriving DecidableEq, Repr

/-! ## Host attachment (R438 to R454) -/

/-- The host side of a function: the registers of Table 19.2, its control ring, the records that wait for room there
(R444), and the interrupt vectors raised, newest first. -/
structure Func where
  lqbase : Nat
  lqlog2 : Nat
  lqtail : Nat
  lqhead : Nat
  lqerr : Nat
  lqlast : Nat
  lqctx : Nat
  cmtail : Nat
  cmhead : Nat
  capstat : Nat
  capoff : Nat
  caplen : Nat
  capdst : Nat
  cxoff : Nat
  cxstat : Nat
  ring : SMap Nat
  outbox : List Nat
  seq : Nat
  irqs : List Nat
  /-- What the last host read of BAR2 returned. -/
  readback : Nat
  deriving DecidableEq, Repr

/-- A function at reset: every register 0. -/
def Func.blank : Func := ⟨0, 0, 0, 0, 0, 0, 0, 0, 0, 0, 0, 0, 0, 0, 0, [], [], 0, [], 0⟩

/-- A service action that runs (R451): its command and SVCARG. -/
structure Action where
  cmd : Nat
  arg : Nat
  deriving DecidableEq, Repr

/-- The service side of the package (R438, R446 to R453): DEVSTAT, CAPGEN, the version of the home hash, the staging region, SVCARG and
SVCSTAT, the actions that run, the measurement log with MR and the component versions, and the configuration records of
the flash (version and value by number) with the key store's counters. -/
structure Service where
  ready : Bool
  fatal : Bool
  stage : Nat
  capgen : Nat
  hashVersion : Nat
  /-- The physical base of the staging region (R483). -/
  stageBase : Nat
  svcarg : Nat
  svcstat : Nat
  actions : List Action
  log : List Nat
  mr : Nat
  fw : SMap Nat
  flash : SMap (Nat × Nat)
  keystore : SMap Nat
  deriving DecidableEq, Repr

/-- The service side before boot: every register 0, the staging region of die 0, and the flash as it leaves the factory, with an identity record alone
(log 54). -/
def Service.blank : Service := ⟨false, false, 0, 0, 0, 2 ^ 37 - 2 ^ 28, 0, 0, [], [], 0, [], [(0, 1, 0)], []⟩

/-- An answer to an SPDM request (R449): function, request by its place in the list of R449, and the answer's fields. -/
structure SpdmAnswer where
  fn : Nat
  request : Nat
  fields : List Nat
  deriving DecidableEq, Repr

/-! ## The package -/

/-- What the foreman firmware and the signed configuration records hold (R165, R166, R167, R334, R348, R351, R439, R452),
in device ticks where it is a time. -/
structure Params where
  gangWait : Nat
  gangTmo : Nat
  drainThr : Nat
  killLvl : Nat
  bufLo : Nat
  bufHi : Nat
  fslice : Nat
  pagerIdle : Nat
  faultTmo : Nat
  fpLow : Nat
  portTry : Nat
  /-- The service access record lets the PF read whole capsules (R427). -/
  access : Bool
  /-- How long an access waits for its point of coherence (R398). -/
  fabtmo : Nat
  deriving DecidableEq, Repr

/-- The defaults that the manual gives; the buffer range is the model's (log 22). -/
def Params.default : Params where
  gangWait := 2000000
  gangTmo := 100000000
  drainThr := 200
  killLvl := 192
  bufLo := 0
  bufHi := 0x20000
  fslice := 2000000
  pagerIdle := 100000
  faultTmo := 1000000000
  fpLow := 256
  portTry := 3
  access := false
  fabtmo := 10000000

/-- Whose turn a step takes (log 4). -/
inductive Turn where
  /-- The crew in a slot of a core issues its next instruction. -/
  | issue (core slot : Nat)
  /-- A spatial operator slot of a core fires. -/
  | fire (core slot : Nat)
  /-- An event of another agent happens. -/
  | event (i : Instr)
  /-- Time passes, in device ticks. -/
  | time (n : Nat)
  /-- A raft message arrives from another device: its header (Table 16.8), and what it carries. -/
  | arrive (header : Nat) (params data scales : List Nat)
  /-- An entry of a recorder ring, counted from the oldest, gets an uncorrectable error (R416). -/
  | ringError (ring entry : Nat)
  /-- A corrected error is found in a tile (5) or a macro (6) of a core (R419). -/
  | corrected (core part : Nat)
  /-- A counter of a core counts what lies below the model (R433, R435; log 32). -/
  | count (core ctr n : Nat)
  /-- The foreman kills the region of a control crew and unparks its crews (R315). -/
  | killRegion (control : Nat)
  /-- The foreman ends the task of an escalated crew (R401). -/
  | endFaulted (key : Nat)
  deriving DecidableEq, Repr

/-- What a core has sent the foreman about an escalated crew (R401): its slot key and task, the cause, the tval and the frames. -/
structure Escalation where
  key : Nat
  task : Nat
  cause : Nat
  tval : DWord
  frames : List Frame
  deriving DecidableEq, Repr

/-- The state of the package. -/
structure State where
  clock : Nat
  freeIx : Nat
  agenda : List Turn
  focusCore : Nat
  focusSlot : Nat
  mem : List Host.Cell
  poison : List Nat
  pageCtr : SMap PageCtr
  migReqs : List MigRequest
  migrations : List Migration
  crews : SMap Crew
  /-- The bind records in the slot tables (Table 14.2), as 32 bytes, little-endian, by slot key; no entry is an invalid record. -/
  bindRecs : SMap Nat
  cores : SMap Core
  dies : SMap Die
  ctxs : SMap Ctx
  /-- Keyed by the control crew's key. -/
  regions : SMap Region
  /-- The watchdog's limit in device ticks, set by the foreman (R317; log 54). -/
  wdticks : Nat
  params : Params
  tasks : SMap Task
  /-- Slots kept for a task (R334, R351), by slot key. -/
  reserved : SMap Nat
  doneStores : List DoneStore
  coppices : List Coppice
  rings : SMap Ring
  traces : List Trace
  freeze : Option Freeze
  /-- The escalations whose task the foreman has not ended yet (R401), oldest first. -/
  escalations : List Escalation
  /-- HBM slots 0 and 1, and 2 the flash copy (R428). -/
  capsules : SMap Capsule
  capsuleCount : Nat
  /-- Cold resets so far: the key of the rings' MACs follows it (R417). -/
  boots : Nat
  /-- The function that holds the package (R439), and when its slice began. -/
  current : Nat
  sliceStart : Nat
  /-- A switch to another function has begun: the crews of the current one issue nothing more (R439). -/
  switching : Bool
  /-- The times in which FABTMO was paused, each by its first CLOCK and its ticks (R451). -/
  pauses : List (Nat × Nat)
  /-- The counters of the other functions, by function × 256 + core (R433). -/
  savedCtrs : SMap (SMap Counter)
  savedAreas : List SavedArea
  funcs : SMap Func
  /-- VFs enabled (R438). -/
  vfs : Nat
  /-- The raft table (R375), messages that have arrived or are on the package, and messages sent to other devices. -/
  rafts : SMap Raft
  msgs : List Msg
  netOut : List Msg
  /-- Discarded messages (R395). -/
  msgDrops : Nat
  /-- The device number (R21) and the live ports (R446). -/
  devnum : Nat
  livePorts : Nat
  /-- Ports that retrain on their own: attempts made and the earliest CLOCK of the next (R452). -/
  retrain : SMap (Nat × Nat)
  service : Service
  spdm : List SpdmAnswer
  liveDies : Nat
  liveCores : Nat
  liveStacks : Nat
  /-- The live vaults (R14, R148), by die × 8 + vault. -/
  liveVaults : Nat
  deriving DecidableEq, Repr

/-- The machine right after cold reset: no context, no crew, nothing in memory.  Every die, core, stack, vault and port is live (R26 leaves
open which ones are; log 68), and there are 16 VFs until a signed record says otherwise (log 69). -/
def State.reset : State where
  clock := 0
  freeIx := 0
  agenda := []
  focusCore := 0
  focusSlot := 0
  mem := []
  poison := []
  pageCtr := []
  migReqs := []
  migrations := []
  crews := []
  bindRecs := []
  cores := []
  dies := []
  ctxs := []
  regions := []
  wdticks := 10000000
  params := .default
  tasks := []
  reserved := []
  doneStores := []
  coppices := []
  rings := []
  traces := []
  freeze := none
  escalations := []
  capsules := []
  capsuleCount := 0
  boots := 0
  current := 0
  sliceStart := 0
  switching := false
  pauses := []
  savedCtrs := []
  savedAreas := []
  funcs := []
  vfs := 16
  rafts := []
  msgs := []
  netOut := []
  msgDrops := 0
  devnum := 0
  livePorts := 2 ^ 28 - 1
  retrain := []
  service := .blank
  spdm := []
  liveDies := 0xFF
  liveCores := 2 ^ 192 - 1
  liveStacks := 0xFFFF
  liveVaults := 2 ^ 64 - 1

end Sys2Proof.Machine
end

