-- ==== Sys2Proof/Machine/Flags.lean ====
section
/-! DEFINITION. MODE, MODEX, predicates, the guard and the active mask (R62 to R70), the element types (R82, R83), and
which system registers exist (Table 17.2, Table 18.5). -/

namespace Sys2Proof.Machine

/-- MODE.g, the guard predicate's number (Table 3.3). -/
def modeG (m : BitVec 16) : Nat := (m.extractLsb' 0 3).toNat
/-- MODE.gneg. -/
def modeGneg (m : BitVec 16) : Bool := m.getLsbD 3
/-- MODE.type. -/
def modeType (m : BitVec 16) : Nat := (m.extractLsb' 4 4).toNat
/-- MODE.ctype. -/
def modeCtype (m : BitVec 16) : Nat := (m.extractLsb' 8 4).toNat
/-- MODE.rnd. -/
def modeRnd (m : BitVec 16) : Nat := (m.extractLsb' 12 3).toNat
/-- MODE.sat. -/
def modeSat (m : BitVec 16) : Bool := m.getLsbD 15
/-- MODEX.ftz (Table 3.4). -/
def modexFtz (mx : BitVec 16) : Bool := mx.getLsbD 0
/-- MODEX.ascope. -/
def modexScope (mx : BitVec 16) : Nat := (mx.extractLsb' 1 3).toNat
/-- MODEX.aord. -/
def modexOrd (mx : BitVec 16) : Nat := (mx.extractLsb' 4 2).toNat

/-- How the elements of a type are read (R82, R84, R85). -/
inductive ElemKind where
  | int (t : IntFmt)
  | flt (f : Fmt)
  deriving DecidableEq, Repr

/-- The element format of a type code (Table 4.1); codes 14 and 15 trap before they are read. -/
def elemKind (t : Nat) : ElemKind :=
  match t with
  | 0 => .int ⟨true, 32⟩
  | 1 => .int ⟨false, 32⟩
  | 2 => .flt .binary32
  | 3 => .int ⟨true, 16⟩
  | 4 => .int ⟨false, 16⟩
  | 5 => .flt .binary16
  | 6 => .flt .bf16
  | 7 => .int ⟨true, 8⟩
  | 8 => .int ⟨false, 8⟩
  | 9 => .flt .e4m3
  | 10 => .flt .e5m2
  | 11 => .flt .e2m1
  | 12 => .int ⟨true, 64⟩
  | _ => .int ⟨false, 64⟩

/-- The width of an element in bits. -/
def ElemKind.width : ElemKind → Nat
  | .int t => t.width
  | .flt f => f.width

/-- The width of an element of a type code. -/
def widthOf (t : Nat) : Nat := (elemKind t).width

/-- Elements in a register, or in a pair for 64-bit types (Table 4.1). -/
def countOf (t : Nat) : Nat := if widthOf t = 64 then 1 else 32 / widthOf t

/-- The registers an operand of the type spans (Table 4.1). -/
def spanOf (t : Nat) : Nat := if t = 12 ∨ t = 13 then 2 else 1

/-- Element `i` of width `w` in a register or pair (R83). -/
def elemAt (w x i : Nat) : Nat := x / 2 ^ (w * i) % 2 ^ w

/-- Pack elements of width `w`, element 0 lowest (R83). -/
def packElems (w : Nat) : List Nat → Nat
  | [] => 0
  | e :: es => e % 2 ^ w + 2 ^ w * packElems w es

/-- p[n] of a crew as a lane mask: p0 reads all ones (R70). -/
def Crew.pred (c : Crew) (n : Nat) : Mask := if n = 0 then BitVec.allOnes 64 else c.preds.getD n 0

/-- The lanes that pass the guard (R66). -/
def Crew.guard (c : Crew) : Mask :=
  let g := c.pred (modeG c.mode)
  if modeGneg c.mode then ~~~g else g

/-- `active` (R39): the active mask ANDed with the guard; during a replay, the replay mask (R161). -/
def Crew.active (c : Crew) : Mask :=
  match c.replay with
  | some f => f
  | none => c.am &&& c.guard

/-- The lanes of a mask, in ascending order. -/
def lanesOf (m : Mask) : List Nat := (List.range 64).filter (fun l => m.getLsbD l)

/-- The system registers of Table 17.2 and of the recorder (Table 18.5) that SREAD reads. -/
def sysReadable (n : Nat) : Bool :=
  decide (n ∈ [0x000, 0x001, 0x002, 0x003, 0x004, 0x005, 0x006, 0x007, 0x008, 0x009, 0x00A, 0x010, 0x011, 0x012,
    0x013, 0x014, 0x015, 0x016, 0x017, 0x018, 0x020, 0x030, 0x031, 0x032, 0x033, 0x034])

/-- The system registers that SWRITE writes at some level. -/
def sysWritable (n : Nat) : Bool :=
  decide (n ∈ [0x000, 0x002, 0x004, 0x007, 0x00A, 0x010, 0x011, 0x012, 0x013, 0x015, 0x016, 0x017, 0x030, 0x031, 0x032])

/-- The 64-bit system registers. -/
def sysWide (n : Nat) : Bool :=
  decide (n ∈ [0x000, 0x002, 0x003, 0x006, 0x010, 0x011, 0x012, 0x016, 0x033])

end Sys2Proof.Machine
end

