-- ==== Sys2Proof/Machine/Operands.lean ====
section
/-! DEFINITION. The operand forms: which registers each instruction names, with their spans and alignments (R29, R30,
R38), which MODE and MODEX values it accepts (step 5 of R36), and the limits of its other fields. -/

namespace Sys2Proof.Machine

/-- How an instruction uses a register it names; `query` is the use of JOBQ and JOBCAN, which name a token register
without reading it (R210). -/
inductive Access where
  | read | write | both | query
  deriving DecidableEq, Repr

/-- A register operand: field code (R38), vector or scalar, first register, span, alignment and use. -/
structure Opnd where
  field : Nat
  vec : Bool
  reg : Nat
  span : Nat
  align : Nat
  use : Access
  deriving DecidableEq, Repr

/-- One scalar register. -/
def Opnd.sc (f r : Nat) (u : Access) : Opnd := ⟨f, false, r, 1, 1, u⟩
/-- An even scalar pair. -/
def Opnd.sc2 (f r : Nat) (u : Access) : Opnd := ⟨f, false, r, 2, 2, u⟩
/-- One vector register. -/
def Opnd.vc (f r : Nat) (u : Access) : Opnd := ⟨f, true, r, 1, 1, u⟩
/-- An even vector pair. -/
def Opnd.vc2 (f r : Nat) (u : Access) : Opnd := ⟨f, true, r, 2, 2, u⟩
/-- Four vector registers from a multiple of 4. -/
def Opnd.vc4 (f r : Nat) (u : Access) : Opnd := ⟨f, true, r, 4, 4, u⟩
/-- A block of vector registers with its own alignment. -/
def Opnd.vb (f r span align : Nat) (u : Access) : Opnd := ⟨f, true, r, span, align, u⟩
/-- A vector operand of MODE.type: a pair for i64 and n64. -/
def Opnd.vt (m : BitVec 16) (f r : Nat) (u : Access) : Opnd :=
  ⟨f, true, r, spanOf (modeType m), spanOf (modeType m), u⟩
/-- A vector operand of MODE.ctype. -/
def Opnd.vct (m : BitVec 16) (f r : Nat) (u : Access) : Opnd :=
  ⟨f, true, r, spanOf (modeCtype m), spanOf (modeCtype m), u⟩
/-- A scalar operand of MODE.type: a pair for i64 and n64. -/
def Opnd.st (m : BitVec 16) (f r : Nat) (u : Access) : Opnd :=
  ⟨f, false, r, spanOf (modeType m), spanOf (modeType m), u⟩
/-- The k source registers of CVTSC, from a multiple of k (R102). -/
def Opnd.vkc (m : BitVec 16) (f r : Nat) (u : Access) : Opnd :=
  ⟨f, true, r, countOf (modeCtype m), countOf (modeCtype m), u⟩
/-- The scalar operand of a system-register access: a pair for a 64-bit register (R406). -/
def Opnd.sys (f r n : Nat) (u : Access) : Opnd :=
  ⟨f, false, r, if sysWide n then 2 else 1, if sysWide n then 2 else 1, u⟩

/-- MODE.type is an assigned code. -/
def tyAny (m : BitVec 16) : Bool := decide (modeType m < 14)
/-- MODE.type is one of the codes listed. -/
def tyIn (m : BitVec 16) (l : List Nat) : Bool := decide (modeType m ∈ l)
/-- MODE.type is of class I or L (R104). -/
def tyIL (m : BitVec 16) : Bool := decide (modeType m ∈ [0, 1, 3, 4, 7, 8, 12, 13])
/-- MODE.type is of class F (R104). -/
def tyF (m : BitVec 16) : Bool := decide (modeType m ∈ [2, 5, 6])
/-- MODE.rnd is an assigned code (R36). -/
def rndOk (m : BitVec 16) : Bool := decide (modeRnd m < 6)
/-- MODEX.ascope is an assigned code (R67, R180). -/
def scopeOk (mx : BitVec 16) : Bool := decide (modexScope mx < 5)

/-- A code of 32-bit single elements: i32, n32 or f32. -/
def isOne (t : Nat) : Bool := decide (t < 3)
/-- An x2 type. -/
def isTwo (t : Nat) : Bool := decide (3 ≤ t ∧ t ≤ 6)
/-- An x4 type. -/
def isFour (t : Nat) : Bool := decide (7 ≤ t ∧ t ≤ 10)
/-- The type e2m1x8. -/
def isEight (t : Nat) : Bool := decide (t = 11)
/-- A 64-bit type. -/
def isWide (t : Nat) : Bool := decide (t = 12 ∨ t = 13)

/-- The type pairs of CVT (R99). -/
def cvtPair (m : BitVec 16) : Bool :=
  let t := modeType m
  let c := modeCtype m
  ((isOne t || isWide t) && (isOne c || isWide c)) || (isTwo t && isTwo c) || (isFour t && isFour c) ||
    (isEight t && isEight c)
/-- The type pairs of CVTP (Table 4.5). -/
def cvtpPair (m : BitVec 16) : Bool :=
  let t := modeType m
  let c := modeCtype m
  (isOne t && isTwo c) || (isTwo t && isFour c) || (isFour t && isEight c)
/-- The type pairs of CVTQ (Table 4.5). -/
def cvtqPair (m : BitVec 16) : Bool :=
  let t := modeType m
  let c := modeCtype m
  (isOne t && isFour c) || (isTwo t && isEight c) || (isOne t && isEight c)
/-- The k source registers of CVTQ, from a multiple of k, for the pairs of Table 4.5; any other pair traps MODE and gives no alignment
(R100). -/
def Opnd.vk (m : BitVec 16) (f r : Nat) (u : Access) : Opnd :=
  let k := if cvtqPair m then countOf (modeCtype m) / countOf (modeType m) else 1
  ⟨f, true, r, k, k, u⟩
/-- The type pairs of UNPKLO and UNPKHI (R101). -/
def unpkPair (m : BitVec 16) : Bool :=
  let t := modeType m
  let c := modeCtype m
  (isTwo t && (isOne c || isWide c)) || (isFour t && isTwo c) || (isEight t && isFour c)
/-- The types of CVTSC (R102). -/
def cvtscPair (m : BitVec 16) : Bool := decide (modeType m = 2) && decide (modeCtype m < 12)

/-- The bits of a MODE value that an fmask selects (R68). -/
def setmBits (f : BitVec 6) : BitVec 16 :=
  (if f.getLsbD 0 then 0x0007 else 0) ||| (if f.getLsbD 1 then 0x0008 else 0) |||
  (if f.getLsbD 2 then 0x00F0 else 0) ||| (if f.getLsbD 3 then 0x0F00 else 0) |||
  (if f.getLsbD 4 then 0x7000 else 0) ||| (if f.getLsbD 5 then 0x8000 else 0)
/-- The bits of a MODEX value that an fmask selects (R68). -/
def setmxBits (f : BitVec 3) : BitVec 16 :=
  (if f.getLsbD 0 then 0x0001 else 0) ||| (if f.getLsbD 1 then 0x000E else 0) |||
  (if f.getLsbD 2 then 0x0030 else 0)
/-- SETM's value holds no bit outside the selected fields (R68). -/
def setmOk (f : BitVec 6) (v : BitVec 16) : Bool := decide (v &&& ~~~(setmBits f) = 0)
/-- SETMX's value holds no bit outside the selected fields (R68). -/
def setmxOk (f : BitVec 3) (v : BitVec 6) : Bool := decide (v.zeroExtend 16 &&& ~~~(setmxBits f) = 0)

/-- The reserved opcodes (R33). -/
def reservedOpcodes : List Nat :=
  [0x57, 0x87, 0x97, 0xA0, 0xA1, 0xA2, 0xA3, 0xAB, 0xAF, 0xBA, 0xBB, 0xCC, 0xCD, 0xCE, 0xCF, 0xD6, 0xD7,
   0xF2, 0xF3, 0xF4, 0xF5, 0xF6, 0xF7, 0xF8, 0xF9, 0xFA, 0xFB, 0xFC, 0xFD, 0xFE]

/-- A register operand keeps its limits: a scalar field is at most 63, and a span starts at its alignment (R29, R30). -/
def Opnd.ok (o : Opnd) : Bool := (o.vec || decide (o.reg < 64)) && decide (o.reg % o.align = 0)

/-- A register operand lies within the crew's allocation (R38). -/
def Opnd.allocated (vregs sregs : Nat) (o : Opnd) : Bool :=
  decide (o.reg + o.span ≤ (if o.vec then vregs else sregs))

/-- The tval of step 6 of R36: field code in bits 9:8 and register number in bits 7:0. -/
def Opnd.tval (o : Opnd) : Nat := o.field * 256 + o.reg

/-- The register operands of an instruction under the MODE in force, in the order d, a, b of R38. -/
def operands (m : BitVec 16) (i : Instr) : List Opnd :=
  match i with
  | .nop => []
  | .setm _ _ => []
  | .setmx _ _ => []
  | .bra _ => []
  | .brnz d _ => [.sc 0 d.toNat .read]
  | .brz d _ => [.sc 0 d.toNat .read]
  | .brany _ _ => []
  | .brall _ _ => []
  | .brdiv _ _ => []
  | .rcset _ _ => []
  | .rcwait _ => []
  | .call _ => [.sc2 0 0 .write]
  | .callr d a => [.sc2 0 d.toNat .write, .sc2 1 a.toNat .read]
  | .ret a => [.sc2 1 a.toNat .read]
  | .jmpr a => [.sc2 1 a.toNat .read]
  | .exit => []
  | .smovi d _ => [.sc 0 d.toNat .write]
  | .smovhi d _ => [.sc 0 d.toNat .write]
  | .saddi d _ => [.sc 0 d.toNat .both]
  | .spchi d _ => [.sc2 0 d.toNat .write]
  | .sadd d a b => [.sc 0 d.toNat .write, .sc 1 a.toNat .read, .sc 2 b.toNat .read]
  | .ssub d a b => [.sc 0 d.toNat .write, .sc 1 a.toNat .read, .sc 2 b.toNat .read]
  | .smul d a b => [.sc 0 d.toNat .write, .sc 1 a.toNat .read, .sc 2 b.toNat .read]
  | .sand d a b => [.sc 0 d.toNat .write, .sc 1 a.toNat .read, .sc 2 b.toNat .read]
  | .sor d a b => [.sc 0 d.toNat .write, .sc 1 a.toNat .read, .sc 2 b.toNat .read]
  | .sxor d a b => [.sc 0 d.toNat .write, .sc 1 a.toNat .read, .sc 2 b.toNat .read]
  | .sshl d a b => [.sc 0 d.toNat .write, .sc 1 a.toNat .read, .sc 2 b.toNat .read]
  | .sshr d a b => [.sc 0 d.toNat .write, .sc 1 a.toNat .read, .sc 2 b.toNat .read]
  | .ssra d a b => [.sc 0 d.toNat .write, .sc 1 a.toNat .read, .sc 2 b.toNat .read]
  | .sslt d a b => [.sc 0 d.toNat .write, .sc 1 a.toNat .read, .sc 2 b.toNat .read]
  | .ssltn d a b => [.sc 0 d.toNat .write, .sc 1 a.toNat .read, .sc 2 b.toNat .read]
  | .sseq d a b => [.sc 0 d.toNat .write, .sc 1 a.toNat .read, .sc 2 b.toNat .read]
  | .sadd64 d a b => [.sc2 0 d.toNat .write, .sc2 1 a.toNat .read, .st m 2 b.toNat .read]
  | .smin d a b => [.sc 0 d.toNat .write, .sc 1 a.toNat .read, .sc 2 b.toNat .read]
  | .smax d a b => [.sc 0 d.toNat .write, .sc 1 a.toNat .read, .sc 2 b.toNat .read]
  | .plog _ _ _ _ => []
  | .pcount d _ => [.sc 0 d.toNat .write]
  | .ptos d _ => [.sc2 0 d.toNat .write]
  | .sfromp _ a => [.sc2 1 a.toNat .read]
  | .getm d => [.sc 0 d.toNat .write]
  | .add d a b => [.vt m 0 d.toNat .write, .vt m 1 a.toNat .read, .vt m 2 b.toNat .read]
  | .sub d a b => [.vt m 0 d.toNat .write, .vt m 1 a.toNat .read, .vt m 2 b.toNat .read]
  | .mul d a b => [.vt m 0 d.toNat .write, .vt m 1 a.toNat .read, .vt m 2 b.toNat .read]
  | .mulhi d a b => [.vt m 0 d.toNat .write, .vt m 1 a.toNat .read, .vt m 2 b.toNat .read]
  | .fma d a b => [.vt m 0 d.toNat .both, .vt m 1 a.toNat .read, .vt m 2 b.toNat .read]
  | .fms d a b => [.vt m 0 d.toNat .both, .vt m 1 a.toNat .read, .vt m 2 b.toNat .read]
  | .fnma d a b => [.vt m 0 d.toNat .both, .vt m 1 a.toNat .read, .vt m 2 b.toNat .read]
  | .min d a b => [.vt m 0 d.toNat .write, .vt m 1 a.toNat .read, .vt m 2 b.toNat .read]
  | .max d a b => [.vt m 0 d.toNat .write, .vt m 1 a.toNat .read, .vt m 2 b.toNat .read]
  | .abs d a => [.vt m 0 d.toNat .write, .vt m 1 a.toNat .read]
  | .neg d a => [.vt m 0 d.toNat .write, .vt m 1 a.toNat .read]
  | .cmpeq _ a b => [.vt m 1 a.toNat .read, .vt m 2 b.toNat .read]
  | .cmpne _ a b => [.vt m 1 a.toNat .read, .vt m 2 b.toNat .read]
  | .cmplt _ a b => [.vt m 1 a.toNat .read, .vt m 2 b.toNat .read]
  | .cmple _ a b => [.vt m 1 a.toNat .read, .vt m 2 b.toNat .read]
  | .cmpun _ a b => [.vt m 1 a.toNat .read, .vt m 2 b.toNat .read]
  | .sel d a b => [.vt m 0 d.toNat .write, .vt m 1 a.toNat .read, .vt m 2 b.toNat .read]
  | .addi d a _ => [.vt m 0 d.toNat .write, .vt m 1 a.toNat .read]
  | .movi d _ => [.vt m 0 d.toNat .write]
  | .movhi d _ => [.vc 0 d.toNat .both]
  | .mov d a => [.vt m 0 d.toNat .write, .vt m 1 a.toNat .read]
  | .div d a b => [.vt m 0 d.toNat .write, .vt m 1 a.toNat .read, .vt m 2 b.toNat .read]
  | .rem d a b => [.vt m 0 d.toNat .write, .vt m 1 a.toNat .read, .vt m 2 b.toNat .read]
  | .rcp d a => [.vt m 0 d.toNat .write, .vt m 1 a.toNat .read]
  | .rsq d a => [.vt m 0 d.toNat .write, .vt m 1 a.toNat .read]
  | .sqrt d a => [.vt m 0 d.toNat .write, .vt m 1 a.toNat .read]
  | .exp2 d a => [.vt m 0 d.toNat .write, .vt m 1 a.toNat .read]
  | .log2 d a => [.vt m 0 d.toNat .write, .vt m 1 a.toNat .read]
  | .sinpi d a => [.vt m 0 d.toNat .write, .vt m 1 a.toNat .read]
  | .cospi d a => [.vt m 0 d.toNat .write, .vt m 1 a.toNat .read]
  | .dot2 d a b => [.vt m 0 d.toNat .both, .vt m 1 a.toNat .read, .vt m 2 b.toNat .read]
  | .dot4 d a b => [.vt m 0 d.toNat .both, .vt m 1 a.toNat .read, .vt m 2 b.toNat .read]
  | .floor d a => [.vt m 0 d.toNat .write, .vt m 1 a.toNat .read]
  | .ceil d a => [.vt m 0 d.toNat .write, .vt m 1 a.toNat .read]
  | .trunc d a => [.vt m 0 d.toNat .write, .vt m 1 a.toNat .read]
  | .rint d a => [.vt m 0 d.toNat .write, .vt m 1 a.toNat .read]
  | .fclass d a => [.vt m 0 d.toNat .write, .vt m 1 a.toNat .read]
  | .scaleb d a b => [.vt m 0 d.toNat .write, .vt m 1 a.toNat .read, .vt m 2 b.toNat .read]
  | .copysign d a b => [.vt m 0 d.toNat .write, .vt m 1 a.toNat .read, .vt m 2 b.toNat .read]
  | .absdiff d a b => [.vt m 0 d.toNat .write, .vt m 1 a.toNat .read, .vt m 2 b.toNat .read]
  | .cvt d a => [.vct m 0 d.toNat .write, .vt m 1 a.toNat .read]
  | .cvtp d a b => [.vc 0 d.toNat .write, .vc 1 a.toNat .read, .vc 2 b.toNat .read]
  | .cvtq d a => [.vc 0 d.toNat .write, .vk m 1 a.toNat .read]
  | .unpklo d a => [.vct m 0 d.toNat .write, .vc 1 a.toNat .read]
  | .unpkhi d a => [.vct m 0 d.toNat .write, .vc 1 a.toNat .read]
  | .seedUniform a => [.sc 1 a.toNat .read]
  | .seedPerLane a => [.vc 1 a.toNat .read]
  | .cvtsc d a b => [.vc 0 d.toNat .write, .vkc m 1 a.toNat .read, .sc 2 b.toNat .read]
  | .and d a b => [.vt m 0 d.toNat .write, .vt m 1 a.toNat .read, .vt m 2 b.toNat .read]
  | .or d a b => [.vt m 0 d.toNat .write, .vt m 1 a.toNat .read, .vt m 2 b.toNat .read]
  | .xor d a b => [.vt m 0 d.toNat .write, .vt m 1 a.toNat .read, .vt m 2 b.toNat .read]
  | .not d a => [.vt m 0 d.toNat .write, .vt m 1 a.toNat .read]
  | .shl d a b => [.vt m 0 d.toNat .write, .vt m 1 a.toNat .read, .vt m 2 b.toNat .read]
  | .shr d a b => [.vt m 0 d.toNat .write, .vt m 1 a.toNat .read, .vt m 2 b.toNat .read]
  | .sra d a b => [.vt m 0 d.toNat .write, .vt m 1 a.toNat .read, .vt m 2 b.toNat .read]
  | .rotl d a b => [.vt m 0 d.toNat .write, .vt m 1 a.toNat .read, .vt m 2 b.toNat .read]
  | .bfx d a b => [.vt m 0 d.toNat .write, .vt m 1 a.toNat .read, .vc 2 b.toNat .read]
  | .bfi d a b => [.vt m 0 d.toNat .both, .vt m 1 a.toNat .read, .vc 2 b.toNat .read]
  | .popc d a => [.vt m 0 d.toNat .write, .vt m 1 a.toNat .read]
  | .clz d a => [.vt m 0 d.toNat .write, .vt m 1 a.toNat .read]
  | .brev d a => [.vt m 0 d.toNat .write, .vt m 1 a.toNat .read]
  | .ballot d a _ => [.sc2 0 d.toNat .write, .vc 1 a.toNat .read]
  | .shuf d a b => [.vt m 0 d.toNat .write, .vt m 1 a.toNat .read, .vc 2 b.toNat .read]
  | .shufx d a _ => [.vt m 0 d.toNat .write, .vt m 1 a.toNat .read]
  | .lrot d a _ => [.vt m 0 d.toNat .write, .vt m 1 a.toNat .read]
  | .bcast d a _ => [.vt m 0 d.toNat .write, .vt m 1 a.toNat .read]
  | .vget d a _ => [.st m 0 d.toNat .write, .vt m 1 a.toNat .read]
  | .vset d a _ => [.vt m 0 d.toNat .write, .st m 1 a.toNat .read]
  | .redadd d a => [.st m 0 d.toNat .write, .vt m 1 a.toNat .read]
  | .redmin d a => [.st m 0 d.toNat .write, .vt m 1 a.toNat .read]
  | .redmax d a => [.st m 0 d.toNat .write, .vt m 1 a.toNat .read]
  | .laneid d => [.vc 0 d.toNat .write]
  | .ldb d a _ => [.vc 0 d.toNat .write, .vc2 1 a.toNat .read]
  | .ldh d a _ => [.vc 0 d.toNat .write, .vc2 1 a.toNat .read]
  | .ldw d a _ => [.vc 0 d.toNat .write, .vc2 1 a.toNat .read]
  | .ldd d a _ => [.vc2 0 d.toNat .write, .vc2 1 a.toNat .read]
  | .ldq d a _ => [.vc4 0 d.toNat .write, .vc2 1 a.toNat .read]
  | .stb d a _ => [.vc 0 d.toNat .read, .vc2 1 a.toNat .read]
  | .sth d a _ => [.vc 0 d.toNat .read, .vc2 1 a.toNat .read]
  | .stw d a _ => [.vc 0 d.toNat .read, .vc2 1 a.toNat .read]
  | .std d a _ => [.vc2 0 d.toNat .read, .vc2 1 a.toNat .read]
  | .stq d a _ => [.vc4 0 d.toNat .read, .vc2 1 a.toNat .read]
  | .ldx d a b => [.vc 0 d.toNat .write, .sc2 1 a.toNat .read, .vc 2 b.toNat .read]
  | .stx d a b => [.vc 0 d.toNat .read, .sc2 1 a.toNat .read, .vc 2 b.toNat .read]
  | .sld d a _ => [.sc 0 d.toNat .write, .sc2 1 a.toNat .read]
  | .sld64 d a _ => [.sc2 0 d.toNat .write, .sc2 1 a.toNat .read]
  | .sst d a _ => [.sc 0 d.toNat .read, .sc2 1 a.toNat .read]
  | .sst64 d a _ => [.sc2 0 d.toNat .read, .sc2 1 a.toNat .read]
  | .pref _ a _ => [.vc2 1 a.toNat .read]
  | .l2pin d a b => [.sc 0 d.toNat .write, .sc2 1 a.toNat .read, .sc 2 b.toNat .read]
  | .l2unpin a => [.sc 1 a.toNat .read]
  | .pagehintPrefer a b => [.sc2 1 a.toNat .read, .sc 2 b.toNat .read]
  | .pagehintMigrate a b => [.sc2 1 a.toNat .read, .sc 2 b.toNat .read]
  | .pagehintClear a b => [.sc2 1 a.toNat .read, .sc 2 b.toNat .read]
  | .probe d a => [.sc2 0 d.toNat .write, .sc2 1 a.toNat .read]
  | .poolmap d a b => [.sc 0 d.toNat .write, .sc2 1 a.toNat .read, .sc2 2 b.toNat .read]
  | .poolunmap a => [.sc 1 a.toNat .read]
  | .fence _ _ => []
  | .ldacq d a _ => [.vt m 0 d.toNat .write, .vc2 1 a.toNat .read]
  | .strel d a _ => [.vt m 0 d.toNat .read, .vc2 1 a.toNat .read]
  | .aadd d a b => [.vt m 0 d.toNat .both, .vc2 1 a.toNat .read, .vt m 2 b.toNat .read]
  | .amin d a b => [.vt m 0 d.toNat .both, .vc2 1 a.toNat .read, .vt m 2 b.toNat .read]
  | .amax d a b => [.vt m 0 d.toNat .both, .vc2 1 a.toNat .read, .vt m 2 b.toNat .read]
  | .aand d a b => [.vt m 0 d.toNat .both, .vc2 1 a.toNat .read, .vt m 2 b.toNat .read]
  | .aor d a b => [.vt m 0 d.toNat .both, .vc2 1 a.toNat .read, .vt m 2 b.toNat .read]
  | .axor d a b => [.vt m 0 d.toNat .both, .vc2 1 a.toNat .read, .vt m 2 b.toNat .read]
  | .axchg d a b => [.vt m 0 d.toNat .both, .vc2 1 a.toNat .read, .vt m 2 b.toNat .read]
  | .acas d a b => [.vt m 0 d.toNat .both, .vc2 1 a.toNat .read, .vt m 2 b.toNat .read]
  | .ainc d a b => [.vt m 0 d.toNat .both, .vc2 1 a.toNat .read, .vt m 2 b.toNat .read]
  | .adec d a b => [.vt m 0 d.toNat .both, .vc2 1 a.toNat .read, .vt m 2 b.toNat .read]
  | .await d a b => [.sc2 0 d.toNat .write, .sc2 1 a.toNat .read, .sc2 2 b.toNat .read]
  | .fencej _ _ => []
  | .waitc _ _ _ _ => []
  | .copy d a => [.sc 0 d.toNat .write, .sc2 1 a.toNat .read]
  | .copyr d a b => [.sc 0 d.toNat .write, .sc2 1 a.toNat .read, .sc 2 b.toNat .read]
  | .strm d a => [.sc 0 d.toNat .write, .sc2 1 a.toNat .read]
  | .pop d _ => [.vc 0 d.toNat .write]
  | .strmbar a b => [.sc2 1 a.toNat .read, .sc 2 b.toNat .read]
  | .jobq d a => [.sc 0 d.toNat (if d = a then .query else .write), .sc 1 a.toNat .query]
  | .jobcan a => [.sc 1 a.toNat .query]
  | .mload d a _ => [.sc 0 d.toNat .write, .sc2 1 a.toNat .read]
  | .mma d a _ _ => [.vb 0 d.toNat 16 8 .read, .sc2 1 a.toNat .read]
  | .mzero _ => []
  | .mstore _ a _ => [.vc2 1 a.toNat .read]
  | .mread d _ _ => [.vb 0 d.toNat 8 1 .write]
  | .mflags d _ => [.sc 0 d.toNat .write]
  | .mtsc a b => [.sc 1 a.toNat .read, .sc 2 b.toNat .read]
  | .gbind d a => [.sc 0 d.toNat .write, .sc2 1 a.toNat .read]
  | .grun d a => [.sc 0 d.toNat .write, .sc2 1 a.toNat .read]
  | .gstat d a s => [.sc2 0 d.toNat .write] ++ (if s = 2 then [.sc 1 a.toNat .read] else [])
  | .spent d a b => [.sc 0 d.toNat .write, .sc2 1 a.toNat .read, .sc2 2 b.toNat .read]
  | .spexit d => [.sc 0 d.toNat .write]
  | .spwait d a => [.sc2 0 d.toNat .write, .sc 1 a.toNat .read]
  | .ecw a b => [.sc 1 a.toNat .read, .sc 2 b.toNat .read]
  | .tmark d => [.sc 0 d.toNat .write]
  | .spinj a b => [.sc2 1 a.toNat .read, .sc 2 b.toNat .read]
  | .sptake d => [⟨0, false, d.toNat, 4, 4, .write⟩]
  | .spstopEnd => []
  | .spstopHold => []
  | .spstopQuiet => []
  | .spstopRelease => []
  | .spstat d a s => [.sc2 0 d.toNat .write] ++ (if s = 2 ∨ s = 3 then [.sc 1 a.toNat .read] else [])
  | .sprcfg d a => [.sc 0 d.toNat .write, .sc2 1 a.toNat .read]
  | .launch d a => [.sc 0 d.toNat .write, .sc2 1 a.toNat .read]
  | .phendNone _ => []
  | .phendBar _ _ => []
  | .phendQueue _ _ p => [.sc2 2 p.toNat .read]
  | .phendWord _ p => [.sc2 2 p.toNat .read]
  | .bararr a => [.sc 1 a.toNat .read]
  | .bufget d a => [.sc 0 d.toNat .write, .sc 1 a.toNat .read]
  | .bufpass a b => [.sc 1 a.toNat .read, .sc 2 b.toNat .read]
  | .bufdrop a => [.sc 1 a.toNat .read]
  | .bufaddr d a => [.sc2 0 d.toNat .write, .sc 1 a.toNat .read]
  | .enq d a _ _ _ => [.vc 0 d.toNat .read, .sc2 1 a.toNat .read]
  | .deq d a _ _ => [.vc 0 d.toNat .write, .sc2 1 a.toNat .read]
  | .qinit a _ => [.sc2 1 a.toNat .read]
  | .qlen d a _ => [.sc 0 d.toNat .write, .sc2 1 a.toNat .read]
  | .sweep d a _ => [.sc 0 d.toNat .write, .sc2 1 a.toNat .read]
  | .estim a => [.sc 1 a.toNat .read]
  | .widrd d => [.vc2 0 d.toNat .write]
  | .widfld d _ => [.vc 0 d.toNat .write]
  | .qfence => []
  | .cpinit d a => [.sc 0 d.toNat .write, .sc2 1 a.toNat .read]
  | .sprout d a b => [.sc 0 d.toNat .write, .sc2 1 a.toNat .read, .sc 2 b.toNat .read]
  | .reward a _ => [.sc 1 a.toNat .read]
  | .cut d a b => [.sc 0 d.toNat .write, .sc2 1 a.toNat .read, .sc 2 b.toNat .read]
  | .cpstat d a _ => [.sc2 0 d.toNat .write, .sc2 1 a.toNat .read]
  | .cpadv d => [.sc 0 d.toNat .write]
  | .raftform d a => [.sc2 0 d.toNat .write, .sc2 1 a.toNat .read]
  | .raftre d a b => [.sc2 0 d.toNat .write, .sc 1 a.toNat .read, .sc 2 b.toNat .read]
  | .car d a => [.sc 0 d.toNat .write, .sc2 1 a.toNat .read]
  | .cag d a => [.sc 0 d.toNat .write, .sc2 1 a.toNat .read]
  | .crs d a => [.sc 0 d.toNat .write, .sc2 1 a.toNat .read]
  | .cbc d a => [.sc 0 d.toNat .write, .sc2 1 a.toNat .read]
  | .ca2a d a => [.sc 0 d.toNat .write, .sc2 1 a.toNat .read]
  | .cbar d a => [.sc 0 d.toNat .write, .sc2 1 a.toNat .read]
  | .cstat d a _ => [.sc2 0 d.toNat .write, .sc 1 a.toNat .read]
  | .cabort a => [.sc 1 a.toNat .read]
  | .rput d a b => [.vc 0 d.toNat .read, .vc2 1 a.toNat .read, .sc 2 b.toNat .read]
  | .rget d a b => [.vc 0 d.toNat .write, .vc2 1 a.toNat .read, .sc 2 b.toNat .read]
  | .trap _ => []
  | .trapret => []
  | .sread d i => [.sys 0 d.toNat i.toNat .write]
  | .swrite d i => [.sys 0 d.toNat i.toNat .read]
  | .brk _ => []
  | .mark d _ => [.sc 0 d.toNat .read]
  | .trcarm d a b => [.sc 0 d.toNat .write, .sc2 1 a.toNat .read, .sc 2 b.toNat .read]
  | .cntrd d _ => [.sc2 0 d.toNat .write]
  | .cntcfg _ b => [.sc 2 b.toNat .read]
  | .halt => []
  | .clock d => [.sc2 0 d.toNat .write]
  | .tlbi _ a b => [.sc2 1 a.toNat .read, .sc 2 b.toNat .read]
  | .ctxsv d a b => [.sc 0 d.toNat .write, .sc2 1 a.toNat .read, .sc 2 b.toNat .read]
  | .ctxrs d a b => [.sc 0 d.toNat .write, .sc2 1 a.toNat .read, .sc 2 b.toNat .read]
  | .undef _ => []
  | .reservedOpcode _ => []
  | .opPass _ _ _ _ _ _ => []
  | .opCopy _ _ => []
  | .opSel _ _ => []
  | .opSteer _ _ => []
  | .opMerge _ _ _ => []
  | .opAdd _ _ _ _ _ _ _ => []
  | .opSub _ _ _ _ _ _ _ => []
  | .opMul _ _ _ _ _ _ _ => []
  | .opFma _ _ _ _ _ _ _ => []
  | .opMin _ _ _ _ _ _ _ => []
  | .opMax _ _ _ _ _ _ _ => []
  | .opCmpeq _ _ _ _ _ _ => []
  | .opCmpne _ _ _ _ _ _ => []
  | .opCmplt _ _ _ _ _ _ => []
  | .opCmple _ _ _ _ _ _ => []
  | .opAnd _ _ _ _ _ _ => []
  | .opOr _ _ _ _ _ _ => []
  | .opXor _ _ _ _ _ _ => []
  | .opShl _ _ _ _ _ _ => []
  | .opShr _ _ _ _ _ _ => []
  | .opDot4 _ _ _ _ _ _ _ => []
  | .opCvt _ _ _ _ _ => []
  | .opRate _ _ => []
  | .opScalemul _ _ _ _ => []
  | .opLoopgen _ _ _ _ _ => []
  | .opCount _ _ _ _ _ => []
  | .opAcc _ _ _ _ _ => []
  | .opSrc _ _ => []
  | .opSnk => []
  | .opMemld _ _ => []
  | .opMemst => []
  | .opExitx => []
  | .opInj _ _ => []
  | .opTgate _ _ => []
  | .opEdgetx _ _ => []
  | .opEdgerx _ _ _ _ => []
  | .loadComplete _ _ _ _ => []
  | .storeComplete _ _ _ _ => []
  | .replay _ _ => []
  | .landingPagerServe _ _ => []
  | .pageridle _ => []
  | .faulttmo _ _ => []
  | .migration _ _ _ => []
  | .pendingNotificationPost _ => []
  | .fabtmo _ _ _ _ => []
  | .activeSetSwap _ _ => []
  | .awaitWake _ _ => []
  | .awaitDeadline _ _ => []
  | .jobStart _ _ => []
  | .copyChunk _ _ => []
  | .streamEntry _ _ _ _ => []
  | .mloadRow _ _ => []
  | .grunRow _ _ => []
  | .jobComplete _ _ => []
  | .mmaBroadcast _ _ => []
  | .macroError _ _ => []
  | .tileCellError _ _ _ => []
  | .spentCommit _ _ _ => []
  | .spexitComplete _ _ => []
  | .regionCompletion _ _ => []
  | .spwaitDeadline _ _ => []
  | .drainEnd _ _ => []
  | .watchdog _ _ => []
  | .saveStop _ _ => []
  | .debugHalt _ => []
  | .haltRelease _ _ => []
  | .configStoreError _ _ => []
  | .bind _ _ => []
  | .nextPhaseReady _ _ => []
  | .gangwait _ _ => []
  | .gangtmo _ => []
  | .preemptionChoice _ _ _ => []
  | .sweepTokenHop _ => []
  | .fslice => []
  | .coppiceDeadline _ _ => []
  | .form _ => []
  | .join _ => []
  | .contrib _ => []
  | .result _ => []
  | .arrive _ => []
  | .abort _ => []
  | .remreq _ => []
  | .remack _ => []
  | .collectiveTimeout _ _ => []
  | .raftformTimeout _ _ => []
  | .raftJoinTimeout _ _ => []
  | .remoteAccessTimeout _ _ _ => []
  | .linkRetryFailure _ => []
  | .portRetrainAttempt _ _ => []
  | .foremanMemoryError _ => []
  | .foremanWatchdog _ => []
  | .syncPlaneLoss _ => []
  | .thermalTrip => []
  | .freezeBroadcast => []
  | .capsuleSeal => []
  | .coldReset _ _ => []
  | .warmReset _ => []
  | .lqtailDoorbell _ _ => []
  | .launchQueueEntry _ => []
  | .freplyServe _ _ => []
  | .freplyRefuse _ _ => []
  | .controlRecordPost _ => []
  | .create _ _ => []
  | .update _ _ => []
  | .destroy _ _ => []
  | .read _ _ => []
  | .release _ _ => []
  | .freeze _ _ => []
  | .info _ _ => []
  | .foremanFirmwareUpdate _ _ _ => []
  | .coreOffline _ => []
  | .coreOnline _ => []
  | .dieOffline _ => []
  | .dieOnline _ => []
  | .retrainHbmStack _ => []
  | .retrainPort _ => []
  | .addFreePages => []
  | .configRecordReplace _ _ _ _ => []
  | .getVersion _ => []
  | .getCapabilities _ => []
  | .negotiateAlgorithms _ => []
  | .getDigests _ => []
  | .getCertificate _ _ _ => []
  | .challenge _ _ => []
  | .getMeasurements _ _ => []
  | .hostBar2Access _ _ _ _ _ => []
  | .registerWrite _ _ _ => []
  | .memoryReply _ _ => []
  | .memoryError _ _ _ => []
  | .launchQueueTake _ => []

/-- Step 5 of R36: every MODE and MODEX field that the instruction reads holds an accepted value. -/
def modeOk (m mx : BitVec 16) (i : Instr) : Bool :=
  match i with
  | .nop => true
  | .setm _ _ => true
  | .setmx _ _ => true
  | .bra _ => true
  | .brnz _ _ => true
  | .brz _ _ => true
  | .brany _ _ => true
  | .brall _ _ => true
  | .brdiv _ _ => true
  | .rcset _ _ => true
  | .rcwait _ => true
  | .call _ => true
  | .callr _ _ => true
  | .ret _ => true
  | .jmpr _ => true
  | .exit => true
  | .smovi _ _ => true
  | .smovhi _ _ => true
  | .saddi _ _ => true
  | .spchi _ _ => true
  | .sadd _ _ _ => true
  | .ssub _ _ _ => true
  | .smul _ _ _ => true
  | .sand _ _ _ => true
  | .sor _ _ _ => true
  | .sxor _ _ _ => true
  | .sshl _ _ _ => true
  | .sshr _ _ _ => true
  | .ssra _ _ _ => true
  | .sslt _ _ _ => true
  | .ssltn _ _ _ => true
  | .sseq _ _ _ => true
  | .sadd64 _ _ _ => tyAny m
  | .smin _ _ _ => true
  | .smax _ _ _ => true
  | .plog _ _ _ _ => true
  | .pcount _ _ => true
  | .ptos _ _ => true
  | .sfromp _ _ => true
  | .getm _ => true
  | .add _ _ _ => tyIL m || (tyF m && rndOk m)
  | .sub _ _ _ => tyIL m || (tyF m && rndOk m)
  | .mul _ _ _ => tyIL m || (tyF m && rndOk m)
  | .mulhi _ _ _ => tyIL m
  | .fma _ _ _ => tyIL m || (tyF m && rndOk m)
  | .fms _ _ _ => tyIL m || (tyF m && rndOk m)
  | .fnma _ _ _ => tyIL m || (tyF m && rndOk m)
  | .min _ _ _ => tyIL m || (tyF m && rndOk m)
  | .max _ _ _ => tyIL m || (tyF m && rndOk m)
  | .abs _ _ => tyIL m || (tyF m && rndOk m)
  | .neg _ _ => tyIL m || (tyF m && rndOk m)
  | .cmpeq _ _ _ => tyIn m [0, 1, 2, 12, 13]
  | .cmpne _ _ _ => tyIn m [0, 1, 2, 12, 13]
  | .cmplt _ _ _ => tyIn m [0, 1, 2, 12, 13]
  | .cmple _ _ _ => tyIn m [0, 1, 2, 12, 13]
  | .cmpun _ _ _ => tyIn m [2]
  | .sel _ _ _ => tyAny m
  | .addi _ _ _ => tyIL m
  | .movi _ _ => tyAny m
  | .movhi _ _ => true
  | .mov _ _ => tyAny m
  | .div _ _ _ => tyIL m || (tyF m && rndOk m)
  | .rem _ _ _ => tyIL m
  | .rcp _ _ => tyF m && rndOk m
  | .rsq _ _ => tyF m && rndOk m
  | .sqrt _ _ => tyF m && rndOk m
  | .exp2 _ _ => tyF m && rndOk m
  | .log2 _ _ => tyF m && rndOk m
  | .sinpi _ _ => tyF m && rndOk m
  | .cospi _ _ => tyF m && rndOk m
  | .dot2 _ _ _ => tyIn m [3, 4] || (tyIn m [5, 6] && rndOk m)
  | .dot4 _ _ _ => tyIn m [7, 8] || (tyIn m [9, 10] && rndOk m)
  | .floor _ _ => tyF m
  | .ceil _ _ => tyF m
  | .trunc _ _ => tyF m
  | .rint _ _ => tyF m && rndOk m
  | .fclass _ _ => tyF m
  | .scaleb _ _ _ => tyF m && rndOk m
  | .copysign _ _ _ => tyF m && rndOk m
  | .absdiff _ _ _ => tyIL m || (tyF m && rndOk m)
  | .cvt _ _ => cvtPair m && rndOk m
  | .cvtp _ _ _ => cvtpPair m && rndOk m
  | .cvtq _ _ => cvtqPair m && rndOk m
  | .unpklo _ _ => unpkPair m && rndOk m
  | .unpkhi _ _ => unpkPair m && rndOk m
  | .seedUniform _ => true
  | .seedPerLane _ => true
  | .cvtsc _ _ _ => cvtscPair m && rndOk m
  | .and _ _ _ => tyAny m
  | .or _ _ _ => tyAny m
  | .xor _ _ _ => tyAny m
  | .not _ _ => tyAny m
  | .shl _ _ _ => tyIL m
  | .shr _ _ _ => tyIL m
  | .sra _ _ _ => tyIL m
  | .rotl _ _ _ => tyIL m
  | .bfx _ _ _ => tyIn m [0, 1, 12, 13]
  | .bfi _ _ _ => tyIn m [0, 1, 12, 13]
  | .popc _ _ => tyIL m
  | .clz _ _ => tyIL m
  | .brev _ _ => tyIL m
  | .ballot _ _ _ => true
  | .shuf _ _ _ => tyAny m
  | .shufx _ _ _ => tyAny m
  | .lrot _ _ _ => tyAny m
  | .bcast _ _ _ => tyAny m
  | .vget _ _ _ => tyAny m
  | .vset _ _ _ => tyAny m
  | .redadd _ _ => tyIL m || (tyF m && rndOk m)
  | .redmin _ _ => tyIL m || (tyF m && rndOk m)
  | .redmax _ _ => tyIL m || (tyF m && rndOk m)
  | .laneid _ => true
  | .ldb _ _ _ => tyAny m
  | .ldh _ _ _ => tyAny m
  | .ldw _ _ _ => true
  | .ldd _ _ _ => true
  | .ldq _ _ _ => true
  | .stb _ _ _ => true
  | .sth _ _ _ => true
  | .stw _ _ _ => true
  | .std _ _ _ => true
  | .stq _ _ _ => true
  | .ldx _ _ _ => true
  | .stx _ _ _ => true
  | .sld _ _ _ => true
  | .sld64 _ _ _ => true
  | .sst _ _ _ => true
  | .sst64 _ _ _ => true
  | .pref _ _ _ => true
  | .l2pin _ _ _ => true
  | .l2unpin _ => true
  | .pagehintPrefer _ _ => true
  | .pagehintMigrate _ _ => true
  | .pagehintClear _ _ => true
  | .probe _ _ => true
  | .poolmap _ _ _ => true
  | .poolunmap _ => true
  | .fence _ _ => true
  | .ldacq _ _ _ => tyAny m && scopeOk mx
  | .strel _ _ _ => tyAny m && scopeOk mx
  | .aadd _ _ _ => (tyIn m [0, 1, 12, 13] || (tyIn m [2, 5, 6] && rndOk m)) && scopeOk mx
  | .amin _ _ _ => tyIn m [0, 1, 2, 12, 13] && scopeOk mx
  | .amax _ _ _ => tyIn m [0, 1, 2, 12, 13] && scopeOk mx
  | .aand _ _ _ => tyIL m && scopeOk mx
  | .aor _ _ _ => tyIL m && scopeOk mx
  | .axor _ _ _ => tyIL m && scopeOk mx
  | .axchg _ _ _ => tyAny m && scopeOk mx
  | .acas _ _ _ => tyAny m && scopeOk mx
  | .ainc _ _ _ => tyIn m [1, 13] && scopeOk mx
  | .adec _ _ _ => tyIn m [1, 13] && scopeOk mx
  | .await _ _ _ => scopeOk mx
  | .fencej _ _ => true
  | .waitc _ _ _ _ => true
  | .copy _ _ => true
  | .copyr _ _ _ => true
  | .strm _ _ => true
  | .pop _ _ => true
  | .strmbar _ _ => true
  | .jobq _ _ => true
  | .jobcan _ => true
  | .mload _ _ _ => true
  | .mma _ _ _ _ => true
  | .mzero _ => true
  | .mstore _ _ _ => true
  | .mread _ _ _ => true
  | .mflags _ _ => true
  | .mtsc _ _ => true
  | .gbind _ _ => true
  | .grun _ _ => true
  | .gstat _ _ _ => true
  | .spent _ _ _ => true
  | .spexit _ => true
  | .spwait _ _ => true
  | .ecw _ _ => true
  | .tmark _ => true
  | .spinj _ _ => true
  | .sptake _ => true
  | .spstopEnd => true
  | .spstopHold => true
  | .spstopQuiet => true
  | .spstopRelease => true
  | .spstat _ _ _ => true
  | .sprcfg _ _ => true
  | .launch _ _ => true
  | .phendNone _ => true
  | .phendBar _ _ => true
  | .phendQueue _ _ _ => true
  | .phendWord _ _ => true
  | .bararr _ => true
  | .bufget _ _ => true
  | .bufpass _ _ => true
  | .bufdrop _ => true
  | .bufaddr _ _ => true
  | .enq _ _ _ _ r => r = 0 || scopeOk mx
  | .deq _ _ _ q => q = 0 || scopeOk mx
  | .qinit _ _ => true
  | .qlen _ _ _ => true
  | .sweep _ _ _ => true
  | .estim _ => true
  | .widrd _ => true
  | .widfld _ _ => true
  | .qfence => true
  | .cpinit _ _ => true
  | .sprout _ _ _ => true
  | .reward _ _ => true
  | .cut _ _ _ => true
  | .cpstat _ _ _ => true
  | .cpadv _ => true
  | .raftform _ _ => true
  | .raftre _ _ _ => true
  | .car _ _ => true
  | .cag _ _ => true
  | .crs _ _ => true
  | .cbc _ _ => true
  | .ca2a _ _ => true
  | .cbar _ _ => true
  | .cstat _ _ _ => true
  | .cabort _ => true
  | .rput _ _ _ => tyAny m
  | .rget _ _ _ => tyAny m
  | .trap _ => true
  | .trapret => true
  | .sread _ _ => true
  | .swrite _ _ => true
  | .brk _ => true
  | .mark _ _ => true
  | .trcarm _ _ _ => true
  | .cntrd _ _ => true
  | .cntcfg _ _ => true
  | .halt => true
  | .clock _ => true
  | .tlbi _ _ _ => true
  | .ctxsv _ _ _ => true
  | .ctxrs _ _ _ => true
  | .undef _ => true
  | .reservedOpcode _ => true
  | .opPass _ _ _ _ _ _ => true
  | .opCopy _ _ => true
  | .opSel _ _ => true
  | .opSteer _ _ => true
  | .opMerge _ _ _ => true
  | .opAdd _ _ _ _ _ _ _ => true
  | .opSub _ _ _ _ _ _ _ => true
  | .opMul _ _ _ _ _ _ _ => true
  | .opFma _ _ _ _ _ _ _ => true
  | .opMin _ _ _ _ _ _ _ => true
  | .opMax _ _ _ _ _ _ _ => true
  | .opCmpeq _ _ _ _ _ _ => true
  | .opCmpne _ _ _ _ _ _ => true
  | .opCmplt _ _ _ _ _ _ => true
  | .opCmple _ _ _ _ _ _ => true
  | .opAnd _ _ _ _ _ _ => true
  | .opOr _ _ _ _ _ _ => true
  | .opXor _ _ _ _ _ _ => true
  | .opShl _ _ _ _ _ _ => true
  | .opShr _ _ _ _ _ _ => true
  | .opDot4 _ _ _ _ _ _ _ => true
  | .opCvt _ _ _ _ _ => true
  | .opRate _ _ => true
  | .opScalemul _ _ _ _ => true
  | .opLoopgen _ _ _ _ _ => true
  | .opCount _ _ _ _ _ => true
  | .opAcc _ _ _ _ _ => true
  | .opSrc _ _ => true
  | .opSnk => true
  | .opMemld _ _ => true
  | .opMemst => true
  | .opExitx => true
  | .opInj _ _ => true
  | .opTgate _ _ => true
  | .opEdgetx _ _ => true
  | .opEdgerx _ _ _ _ => true
  | .loadComplete _ _ _ _ => true
  | .storeComplete _ _ _ _ => true
  | .replay _ _ => true
  | .landingPagerServe _ _ => true
  | .pageridle _ => true
  | .faulttmo _ _ => true
  | .migration _ _ _ => true
  | .pendingNotificationPost _ => true
  | .fabtmo _ _ _ _ => true
  | .activeSetSwap _ _ => true
  | .awaitWake _ _ => true
  | .awaitDeadline _ _ => true
  | .jobStart _ _ => true
  | .copyChunk _ _ => true
  | .streamEntry _ _ _ _ => true
  | .mloadRow _ _ => true
  | .grunRow _ _ => true
  | .jobComplete _ _ => true
  | .mmaBroadcast _ _ => true
  | .macroError _ _ => true
  | .tileCellError _ _ _ => true
  | .spentCommit _ _ _ => true
  | .spexitComplete _ _ => true
  | .regionCompletion _ _ => true
  | .spwaitDeadline _ _ => true
  | .drainEnd _ _ => true
  | .watchdog _ _ => true
  | .saveStop _ _ => true
  | .debugHalt _ => true
  | .haltRelease _ _ => true
  | .configStoreError _ _ => true
  | .bind _ _ => true
  | .nextPhaseReady _ _ => true
  | .gangwait _ _ => true
  | .gangtmo _ => true
  | .preemptionChoice _ _ _ => true
  | .sweepTokenHop _ => true
  | .fslice => true
  | .coppiceDeadline _ _ => true
  | .form _ => true
  | .join _ => true
  | .contrib _ => true
  | .result _ => true
  | .arrive _ => true
  | .abort _ => true
  | .remreq _ => true
  | .remack _ => true
  | .collectiveTimeout _ _ => true
  | .raftformTimeout _ _ => true
  | .raftJoinTimeout _ _ => true
  | .remoteAccessTimeout _ _ _ => true
  | .linkRetryFailure _ => true
  | .portRetrainAttempt _ _ => true
  | .foremanMemoryError _ => true
  | .foremanWatchdog _ => true
  | .syncPlaneLoss _ => true
  | .thermalTrip => true
  | .freezeBroadcast => true
  | .capsuleSeal => true
  | .coldReset _ _ => true
  | .warmReset _ => true
  | .lqtailDoorbell _ _ => true
  | .launchQueueEntry _ => true
  | .freplyServe _ _ => true
  | .freplyRefuse _ _ => true
  | .controlRecordPost _ => true
  | .create _ _ => true
  | .update _ _ => true
  | .destroy _ _ => true
  | .read _ _ => true
  | .release _ _ => true
  | .freeze _ _ => true
  | .info _ _ => true
  | .foremanFirmwareUpdate _ _ _ => true
  | .coreOffline _ => true
  | .coreOnline _ => true
  | .dieOffline _ => true
  | .dieOnline _ => true
  | .retrainHbmStack _ => true
  | .retrainPort _ => true
  | .addFreePages => true
  | .configRecordReplace _ _ _ _ => true
  | .getVersion _ => true
  | .getCapabilities _ => true
  | .negotiateAlgorithms _ => true
  | .getDigests _ => true
  | .getCertificate _ _ _ => true
  | .challenge _ _ => true
  | .getMeasurements _ _ => true
  | .hostBar2Access _ _ _ _ _ => true
  | .registerWrite _ _ _ => true
  | .memoryReply _ _ => true
  | .memoryError _ _ _ => true
  | .launchQueueTake _ => true

/-- The limits of the fields that name no register (R31, and each entry's own limits). -/
def fieldsOk (i : Instr) : Bool :=
  match i with
  | .nop => true
  | .setm f v => setmOk f v
  | .setmx f v => setmxOk f v
  | .bra _ => true
  | .brnz _ _ => true
  | .brz _ _ => true
  | .brany _ _ => true
  | .brall _ _ => true
  | .brdiv _ _ => true
  | .rcset _ _ => true
  | .rcwait _ => true
  | .call _ => true
  | .callr _ _ => true
  | .ret _ => true
  | .jmpr _ => true
  | .exit => true
  | .smovi _ _ => true
  | .smovhi _ _ => true
  | .saddi _ _ => true
  | .spchi _ _ => true
  | .sadd _ _ _ => true
  | .ssub _ _ _ => true
  | .smul _ _ _ => true
  | .sand _ _ _ => true
  | .sor _ _ _ => true
  | .sxor _ _ _ => true
  | .sshl _ _ _ => true
  | .sshr _ _ _ => true
  | .ssra _ _ _ => true
  | .sslt _ _ _ => true
  | .ssltn _ _ _ => true
  | .sseq _ _ _ => true
  | .sadd64 _ _ _ => true
  | .smin _ _ _ => true
  | .smax _ _ _ => true
  | .plog _ _ _ _ => true
  | .pcount _ _ => true
  | .ptos _ _ => true
  | .sfromp _ _ => true
  | .getm _ => true
  | .add _ _ _ => true
  | .sub _ _ _ => true
  | .mul _ _ _ => true
  | .mulhi _ _ _ => true
  | .fma _ _ _ => true
  | .fms _ _ _ => true
  | .fnma _ _ _ => true
  | .min _ _ _ => true
  | .max _ _ _ => true
  | .abs _ _ => true
  | .neg _ _ => true
  | .cmpeq _ _ _ => true
  | .cmpne _ _ _ => true
  | .cmplt _ _ _ => true
  | .cmple _ _ _ => true
  | .cmpun _ _ _ => true
  | .sel _ _ _ => true
  | .addi _ _ _ => true
  | .movi _ _ => true
  | .movhi _ _ => true
  | .mov _ _ => true
  | .div _ _ _ => true
  | .rem _ _ _ => true
  | .rcp _ _ => true
  | .rsq _ _ => true
  | .sqrt _ _ => true
  | .exp2 _ _ => true
  | .log2 _ _ => true
  | .sinpi _ _ => true
  | .cospi _ _ => true
  | .dot2 _ _ _ => true
  | .dot4 _ _ _ => true
  | .floor _ _ => true
  | .ceil _ _ => true
  | .trunc _ _ => true
  | .rint _ _ => true
  | .fclass _ _ => true
  | .scaleb _ _ _ => true
  | .copysign _ _ _ => true
  | .absdiff _ _ _ => true
  | .cvt _ _ => true
  | .cvtp _ _ _ => true
  | .cvtq _ _ => true
  | .unpklo _ _ => true
  | .unpkhi _ _ => true
  | .seedUniform _ => true
  | .seedPerLane _ => true
  | .cvtsc _ _ _ => true
  | .and _ _ _ => true
  | .or _ _ _ => true
  | .xor _ _ _ => true
  | .not _ _ => true
  | .shl _ _ _ => true
  | .shr _ _ _ => true
  | .sra _ _ _ => true
  | .rotl _ _ _ => true
  | .bfx _ _ _ => true
  | .bfi _ _ _ => true
  | .popc _ _ => true
  | .clz _ _ => true
  | .brev _ _ => true
  | .ballot _ _ i => decide (i.toNat ≤ 31)
  | .shuf _ _ _ => true
  | .shufx _ _ i => decide (i.toNat ≤ 63)
  | .lrot _ _ i => decide (i.toNat ≤ 63)
  | .bcast _ _ i => decide (i.toNat ≤ 63)
  | .vget _ _ i => decide (i.toNat ≤ 63)
  | .vset _ _ i => decide (i.toNat ≤ 63)
  | .redadd _ _ => true
  | .redmin _ _ => true
  | .redmax _ _ => true
  | .laneid _ => true
  | .ldb _ _ _ => true
  | .ldh _ _ _ => true
  | .ldw _ _ _ => true
  | .ldd _ _ _ => true
  | .ldq _ _ _ => true
  | .stb _ _ _ => true
  | .sth _ _ _ => true
  | .stw _ _ _ => true
  | .std _ _ _ => true
  | .stq _ _ _ => true
  | .ldx _ _ _ => true
  | .stx _ _ _ => true
  | .sld _ _ _ => true
  | .sld64 _ _ _ => true
  | .sst _ _ _ => true
  | .sst64 _ _ _ => true
  | .pref d _ _ => decide (d.toNat ≤ 2)
  | .l2pin _ _ _ => true
  | .l2unpin _ => true
  | .pagehintPrefer _ _ => true
  | .pagehintMigrate _ _ => true
  | .pagehintClear _ _ => true
  | .probe _ _ => true
  | .poolmap _ _ _ => true
  | .poolunmap _ => true
  | .fence k s => decide (k.toNat ≤ 2) && decide (s.toNat ≤ 4)
  | .ldacq _ _ _ => true
  | .strel _ _ _ => true
  | .aadd _ _ _ => true
  | .amin _ _ _ => true
  | .amax _ _ _ => true
  | .aand _ _ _ => true
  | .aor _ _ _ => true
  | .axor _ _ _ => true
  | .axchg _ _ _ => true
  | .acas _ _ _ => true
  | .ainc _ _ _ => true
  | .adec _ _ _ => true
  | .await _ _ _ => true
  | .fencej k s => decide (k.toNat ≤ 2) && decide (s.toNat ≤ 4)
  | .waitc _ _ _ _ => true
  | .copy _ _ => true
  | .copyr _ _ _ => true
  | .strm _ _ => true
  | .pop _ _ => true
  | .strmbar _ _ => true
  | .jobq _ _ => true
  | .jobcan _ => true
  | .mload _ _ _ => true
  | .mma _ _ _ _ => true
  | .mzero _ => true
  | .mstore _ _ f => decide (f.toNat ≤ 1)
  | .mread _ _ c => decide (c.toNat % 8 = 0) && decide (c.toNat ≤ 120)
  | .mflags _ _ => true
  | .mtsc _ _ => true
  | .gbind _ _ => true
  | .grun _ _ => true
  | .gstat _ a s => decide (s.toNat ≤ 2) && (decide (s = 2) || decide (a = 0))
  | .spent _ _ _ => true
  | .spexit _ => true
  | .spwait _ _ => true
  | .ecw _ _ => true
  | .tmark _ => true
  | .spinj _ _ => true
  | .sptake _ => true
  | .spstopEnd => true
  | .spstopHold => true
  | .spstopQuiet => true
  | .spstopRelease => true
  | .spstat _ a s => decide (s.toNat ≤ 4) && (decide (s = 2 ∨ s = 3) || decide (a = 0))
  | .sprcfg _ _ => true
  | .launch _ _ => true
  | .phendNone _ => true
  | .phendBar _ _ => true
  | .phendQueue _ l _ => decide (l ≠ 0)
  | .phendWord _ _ => true
  | .bararr _ => true
  | .bufget _ _ => true
  | .bufpass _ _ => true
  | .bufdrop _ => true
  | .bufaddr _ _ => true
  | .enq _ _ l _ _ => decide (l ≠ 0)
  | .deq _ _ l _ => decide (l ≠ 0)
  | .qinit _ l => decide (l ≠ 0)
  | .qlen _ _ l => decide (l ≠ 0)
  | .sweep _ _ l => decide (l ≠ 0)
  | .estim _ => true
  | .widrd _ => true
  | .widfld _ k => decide (k.toNat ≤ 5)
  | .qfence => true
  | .cpinit _ _ => true
  | .sprout _ _ _ => true
  | .reward _ _ => true
  | .cut _ _ _ => true
  | .cpstat _ _ s => decide (s.toNat ≤ 1)
  | .cpadv _ => true
  | .raftform _ _ => true
  | .raftre _ _ _ => true
  | .car _ _ => true
  | .cag _ _ => true
  | .crs _ _ => true
  | .cbc _ _ => true
  | .ca2a _ _ => true
  | .cbar _ _ => true
  | .cstat _ _ s => decide (s.toNat ≤ 2)
  | .cabort _ => true
  | .rput _ _ _ => true
  | .rget _ _ _ => true
  | .trap _ => true
  | .trapret => true
  | .sread d i => sysReadable i.toNat && (!sysWide i.toNat || decide (d.toNat % 2 = 0))
  | .swrite d i => sysWritable i.toNat && (!sysWide i.toNat || decide (d.toNat % 2 = 0))
  | .brk _ => true
  | .mark _ _ => true
  | .trcarm _ _ _ => true
  | .cntrd _ k => decide (k.toNat ≤ 10)
  | .cntcfg k _ => decide (k.toNat ≤ 7)
  | .halt => true
  | .clock _ => true
  | .tlbi d _ _ => decide (d.toNat ≤ 3)
  | .ctxsv _ _ _ => true
  | .ctxrs _ _ _ => true
  | .undef _ => true
  | .reservedOpcode w => decide (w.toNat / 2 ^ 24 ∈ reservedOpcodes)
  | .opPass _ _ _ _ _ _ => true
  | .opCopy _ _ => true
  | .opSel _ _ => true
  | .opSteer _ _ => true
  | .opMerge _ _ _ => true
  | .opAdd _ _ _ _ _ _ _ => true
  | .opSub _ _ _ _ _ _ _ => true
  | .opMul _ _ _ _ _ _ _ => true
  | .opFma _ _ _ _ _ _ _ => true
  | .opMin _ _ _ _ _ _ _ => true
  | .opMax _ _ _ _ _ _ _ => true
  | .opCmpeq _ _ _ _ _ _ => true
  | .opCmpne _ _ _ _ _ _ => true
  | .opCmplt _ _ _ _ _ _ => true
  | .opCmple _ _ _ _ _ _ => true
  | .opAnd _ _ _ _ _ _ => true
  | .opOr _ _ _ _ _ _ => true
  | .opXor _ _ _ _ _ _ => true
  | .opShl _ _ _ _ _ _ => true
  | .opShr _ _ _ _ _ _ => true
  | .opDot4 _ _ _ _ _ _ _ => true
  | .opCvt _ _ _ _ _ => true
  | .opRate _ _ => true
  | .opScalemul _ _ _ _ => true
  | .opLoopgen _ _ _ _ _ => true
  | .opCount _ _ _ _ _ => true
  | .opAcc _ _ _ _ _ => true
  | .opSrc _ _ => true
  | .opSnk => true
  | .opMemld _ _ => true
  | .opMemst => true
  | .opExitx => true
  | .opInj _ _ => true
  | .opTgate _ _ => true
  | .opEdgetx _ _ => true
  | .opEdgerx _ _ _ _ => true
  | .loadComplete _ _ _ _ => true
  | .storeComplete _ _ _ _ => true
  | .replay _ _ => true
  | .landingPagerServe _ _ => true
  | .pageridle _ => true
  | .faulttmo _ _ => true
  | .migration _ _ _ => true
  | .pendingNotificationPost _ => true
  | .fabtmo _ _ _ _ => true
  | .activeSetSwap _ _ => true
  | .awaitWake _ _ => true
  | .awaitDeadline _ _ => true
  | .jobStart _ _ => true
  | .copyChunk _ _ => true
  | .streamEntry _ _ _ _ => true
  | .mloadRow _ _ => true
  | .grunRow _ _ => true
  | .jobComplete _ _ => true
  | .mmaBroadcast _ _ => true
  | .macroError _ _ => true
  | .tileCellError _ _ _ => true
  | .spentCommit _ _ _ => true
  | .spexitComplete _ _ => true
  | .regionCompletion _ _ => true
  | .spwaitDeadline _ _ => true
  | .drainEnd _ _ => true
  | .watchdog _ _ => true
  | .saveStop _ _ => true
  | .debugHalt _ => true
  | .haltRelease _ _ => true
  | .configStoreError _ _ => true
  | .bind _ _ => true
  | .nextPhaseReady _ _ => true
  | .gangwait _ _ => true
  | .gangtmo _ => true
  | .preemptionChoice _ _ _ => true
  | .sweepTokenHop _ => true
  | .fslice => true
  | .coppiceDeadline _ _ => true
  | .form _ => true
  | .join _ => true
  | .contrib _ => true
  | .result _ => true
  | .arrive _ => true
  | .abort _ => true
  | .remreq _ => true
  | .remack _ => true
  | .collectiveTimeout _ _ => true
  | .raftformTimeout _ _ => true
  | .raftJoinTimeout _ _ => true
  | .remoteAccessTimeout _ _ _ => true
  | .linkRetryFailure _ => true
  | .portRetrainAttempt _ _ => true
  | .foremanMemoryError _ => true
  | .foremanWatchdog _ => true
  | .syncPlaneLoss _ => true
  | .thermalTrip => true
  | .freezeBroadcast => true
  | .capsuleSeal => true
  | .coldReset _ _ => true
  | .warmReset _ => true
  | .lqtailDoorbell _ _ => true
  | .launchQueueEntry _ => true
  | .freplyServe _ _ => true
  | .freplyRefuse _ _ => true
  | .controlRecordPost _ => true
  | .create _ _ => true
  | .update _ _ => true
  | .destroy _ _ => true
  | .read _ _ => true
  | .release _ _ => true
  | .freeze _ _ => true
  | .info _ _ => true
  | .foremanFirmwareUpdate _ _ _ => true
  | .coreOffline _ => true
  | .coreOnline _ => true
  | .dieOffline _ => true
  | .dieOnline _ => true
  | .retrainHbmStack _ => true
  | .retrainPort _ => true
  | .addFreePages => true
  | .configRecordReplace _ _ _ _ => true
  | .getVersion _ => true
  | .getCapabilities _ => true
  | .negotiateAlgorithms _ => true
  | .getDigests _ => true
  | .getCertificate _ _ _ => true
  | .challenge _ _ => true
  | .getMeasurements _ _ => true
  | .hostBar2Access _ _ _ _ _ => true
  | .registerWrite _ _ _ => true
  | .memoryReply _ _ => true
  | .memoryError _ _ _ => true
  | .launchQueueTake _ => true

/-- How spatial mode admits an instruction (R295): 0 SIMT mode only; 1 also control and handler crews; 2 also the control
crew; 3 spatial mode only, both crews; 4 spatial mode only, the control crew. -/
def spatialUse (i : Instr) : Nat :=
  match i with
  | .nop => 1
  | .setm _ _ => 1
  | .setmx _ _ => 1
  | .bra _ => 1
  | .brnz _ _ => 1
  | .brz _ _ => 1
  | .brany _ _ => 0
  | .brall _ _ => 0
  | .brdiv _ _ => 0
  | .rcset _ _ => 0
  | .rcwait _ => 0
  | .call _ => 1
  | .callr _ _ => 1
  | .ret _ => 1
  | .jmpr _ => 1
  | .exit => 0
  | .smovi _ _ => 1
  | .smovhi _ _ => 1
  | .saddi _ _ => 1
  | .spchi _ _ => 1
  | .sadd _ _ _ => 1
  | .ssub _ _ _ => 1
  | .smul _ _ _ => 1
  | .sand _ _ _ => 1
  | .sor _ _ _ => 1
  | .sxor _ _ _ => 1
  | .sshl _ _ _ => 1
  | .sshr _ _ _ => 1
  | .ssra _ _ _ => 1
  | .sslt _ _ _ => 1
  | .ssltn _ _ _ => 1
  | .sseq _ _ _ => 1
  | .sadd64 _ _ _ => 1
  | .smin _ _ _ => 1
  | .smax _ _ _ => 1
  | .plog _ _ _ _ => 0
  | .pcount _ _ => 0
  | .ptos _ _ => 0
  | .sfromp _ _ => 0
  | .getm _ => 1
  | .add _ _ _ => 0
  | .sub _ _ _ => 0
  | .mul _ _ _ => 0
  | .mulhi _ _ _ => 0
  | .fma _ _ _ => 0
  | .fms _ _ _ => 0
  | .fnma _ _ _ => 0
  | .min _ _ _ => 0
  | .max _ _ _ => 0
  | .abs _ _ => 0
  | .neg _ _ => 0
  | .cmpeq _ _ _ => 0
  | .cmpne _ _ _ => 0
  | .cmplt _ _ _ => 0
  | .cmple _ _ _ => 0
  | .cmpun _ _ _ => 0
  | .sel _ _ _ => 0
  | .addi _ _ _ => 0
  | .movi _ _ => 0
  | .movhi _ _ => 0
  | .mov _ _ => 0
  | .div _ _ _ => 0
  | .rem _ _ _ => 0
  | .rcp _ _ => 0
  | .rsq _ _ => 0
  | .sqrt _ _ => 0
  | .exp2 _ _ => 0
  | .log2 _ _ => 0
  | .sinpi _ _ => 0
  | .cospi _ _ => 0
  | .dot2 _ _ _ => 0
  | .dot4 _ _ _ => 0
  | .floor _ _ => 0
  | .ceil _ _ => 0
  | .trunc _ _ => 0
  | .rint _ _ => 0
  | .fclass _ _ => 0
  | .scaleb _ _ _ => 0
  | .copysign _ _ _ => 0
  | .absdiff _ _ _ => 0
  | .cvt _ _ => 0
  | .cvtp _ _ _ => 0
  | .cvtq _ _ => 0
  | .unpklo _ _ => 0
  | .unpkhi _ _ => 0
  | .seedUniform _ => 0
  | .seedPerLane _ => 0
  | .cvtsc _ _ _ => 0
  | .and _ _ _ => 0
  | .or _ _ _ => 0
  | .xor _ _ _ => 0
  | .not _ _ => 0
  | .shl _ _ _ => 0
  | .shr _ _ _ => 0
  | .sra _ _ _ => 0
  | .rotl _ _ _ => 0
  | .bfx _ _ _ => 0
  | .bfi _ _ _ => 0
  | .popc _ _ => 0
  | .clz _ _ => 0
  | .brev _ _ => 0
  | .ballot _ _ _ => 0
  | .shuf _ _ _ => 0
  | .shufx _ _ _ => 0
  | .lrot _ _ _ => 0
  | .bcast _ _ _ => 0
  | .vget _ _ _ => 0
  | .vset _ _ _ => 0
  | .redadd _ _ => 0
  | .redmin _ _ => 0
  | .redmax _ _ => 0
  | .laneid _ => 0
  | .ldb _ _ _ => 0
  | .ldh _ _ _ => 0
  | .ldw _ _ _ => 0
  | .ldd _ _ _ => 0
  | .ldq _ _ _ => 0
  | .stb _ _ _ => 0
  | .sth _ _ _ => 0
  | .stw _ _ _ => 0
  | .std _ _ _ => 0
  | .stq _ _ _ => 0
  | .ldx _ _ _ => 0
  | .stx _ _ _ => 0
  | .sld _ _ _ => 1
  | .sld64 _ _ _ => 1
  | .sst _ _ _ => 1
  | .sst64 _ _ _ => 1
  | .pref _ _ _ => 0
  | .l2pin _ _ _ => 0
  | .l2unpin _ => 0
  | .pagehintPrefer _ _ => 0
  | .pagehintMigrate _ _ => 0
  | .pagehintClear _ _ => 0
  | .probe _ _ => 0
  | .poolmap _ _ _ => 0
  | .poolunmap _ => 0
  | .fence _ _ => 1
  | .ldacq _ _ _ => 0
  | .strel _ _ _ => 0
  | .aadd _ _ _ => 0
  | .amin _ _ _ => 0
  | .amax _ _ _ => 0
  | .aand _ _ _ => 0
  | .aor _ _ _ => 0
  | .axor _ _ _ => 0
  | .axchg _ _ _ => 0
  | .acas _ _ _ => 0
  | .ainc _ _ _ => 0
  | .adec _ _ _ => 0
  | .await _ _ _ => 1
  | .fencej _ _ => 0
  | .waitc _ _ _ _ => 1
  | .copy _ _ => 0
  | .copyr _ _ _ => 0
  | .strm _ _ => 2
  | .pop _ _ => 0
  | .strmbar _ _ => 2
  | .jobq _ _ => 1
  | .jobcan _ => 1
  | .mload _ _ _ => 0
  | .mma _ _ _ _ => 0
  | .mzero _ => 0
  | .mstore _ _ _ => 0
  | .mread _ _ _ => 0
  | .mflags _ _ => 0
  | .mtsc _ _ => 0
  | .gbind _ _ => 0
  | .grun _ _ => 0
  | .gstat _ _ _ => 0
  | .spent _ _ _ => 0
  | .spexit _ => 4
  | .spwait _ _ => 3
  | .ecw _ _ => 4
  | .tmark _ => 4
  | .spinj _ _ => 3
  | .sptake _ => 3
  | .spstopEnd => 4
  | .spstopHold => 4
  | .spstopQuiet => 4
  | .spstopRelease => 4
  | .spstat _ _ _ => 3
  | .sprcfg _ _ => 4
  | .launch _ _ => 0
  | .phendNone _ => 0
  | .phendBar _ _ => 0
  | .phendQueue _ _ _ => 0
  | .phendWord _ _ => 0
  | .bararr _ => 0
  | .bufget _ _ => 0
  | .bufpass _ _ => 0
  | .bufdrop _ => 0
  | .bufaddr _ _ => 0
  | .enq _ _ _ _ _ => 0
  | .deq _ _ _ _ => 0
  | .qinit _ _ => 0
  | .qlen _ _ _ => 0
  | .sweep _ _ _ => 0
  | .estim _ => 1
  | .widrd _ => 0
  | .widfld _ _ => 0
  | .qfence => 0
  | .cpinit _ _ => 0
  | .sprout _ _ _ => 0
  | .reward _ _ => 0
  | .cut _ _ _ => 0
  | .cpstat _ _ _ => 0
  | .cpadv _ => 0
  | .raftform _ _ => 0
  | .raftre _ _ _ => 0
  | .car _ _ => 0
  | .cag _ _ => 0
  | .crs _ _ => 0
  | .cbc _ _ => 0
  | .ca2a _ _ => 0
  | .cbar _ _ => 0
  | .cstat _ _ _ => 0
  | .cabort _ => 0
  | .rput _ _ _ => 0
  | .rget _ _ _ => 0
  | .trap _ => 1
  | .trapret => 1
  | .sread _ _ => 1
  | .swrite _ _ => 1
  | .brk _ => 1
  | .mark _ _ => 1
  | .trcarm _ _ _ => 0
  | .cntrd _ _ => 0
  | .cntcfg _ _ => 0
  | .halt => 0
  | .clock _ => 1
  | .tlbi _ _ _ => 0
  | .ctxsv _ _ _ => 0
  | .ctxrs _ _ _ => 0
  | .undef _ => 0
  | .reservedOpcode _ => 0
  | .opPass _ _ _ _ _ _ => 0
  | .opCopy _ _ => 0
  | .opSel _ _ => 0
  | .opSteer _ _ => 0
  | .opMerge _ _ _ => 0
  | .opAdd _ _ _ _ _ _ _ => 0
  | .opSub _ _ _ _ _ _ _ => 0
  | .opMul _ _ _ _ _ _ _ => 0
  | .opFma _ _ _ _ _ _ _ => 0
  | .opMin _ _ _ _ _ _ _ => 0
  | .opMax _ _ _ _ _ _ _ => 0
  | .opCmpeq _ _ _ _ _ _ => 0
  | .opCmpne _ _ _ _ _ _ => 0
  | .opCmplt _ _ _ _ _ _ => 0
  | .opCmple _ _ _ _ _ _ => 0
  | .opAnd _ _ _ _ _ _ => 0
  | .opOr _ _ _ _ _ _ => 0
  | .opXor _ _ _ _ _ _ => 0
  | .opShl _ _ _ _ _ _ => 0
  | .opShr _ _ _ _ _ _ => 0
  | .opDot4 _ _ _ _ _ _ _ => 0
  | .opCvt _ _ _ _ _ => 0
  | .opRate _ _ => 0
  | .opScalemul _ _ _ _ => 0
  | .opLoopgen _ _ _ _ _ => 0
  | .opCount _ _ _ _ _ => 0
  | .opAcc _ _ _ _ _ => 0
  | .opSrc _ _ => 0
  | .opSnk => 0
  | .opMemld _ _ => 0
  | .opMemst => 0
  | .opExitx => 0
  | .opInj _ _ => 0
  | .opTgate _ _ => 0
  | .opEdgetx _ _ => 0
  | .opEdgerx _ _ _ _ => 0
  | .loadComplete _ _ _ _ => 0
  | .storeComplete _ _ _ _ => 0
  | .replay _ _ => 0
  | .landingPagerServe _ _ => 0
  | .pageridle _ => 0
  | .faulttmo _ _ => 0
  | .migration _ _ _ => 0
  | .pendingNotificationPost _ => 0
  | .fabtmo _ _ _ _ => 0
  | .activeSetSwap _ _ => 0
  | .awaitWake _ _ => 0
  | .awaitDeadline _ _ => 0
  | .jobStart _ _ => 0
  | .copyChunk _ _ => 0
  | .streamEntry _ _ _ _ => 0
  | .mloadRow _ _ => 0
  | .grunRow _ _ => 0
  | .jobComplete _ _ => 0
  | .mmaBroadcast _ _ => 0
  | .macroError _ _ => 0
  | .tileCellError _ _ _ => 0
  | .spentCommit _ _ _ => 0
  | .spexitComplete _ _ => 0
  | .regionCompletion _ _ => 0
  | .spwaitDeadline _ _ => 0
  | .drainEnd _ _ => 0
  | .watchdog _ _ => 0
  | .saveStop _ _ => 0
  | .debugHalt _ => 0
  | .haltRelease _ _ => 0
  | .configStoreError _ _ => 0
  | .bind _ _ => 0
  | .nextPhaseReady _ _ => 0
  | .gangwait _ _ => 0
  | .gangtmo _ => 0
  | .preemptionChoice _ _ _ => 0
  | .sweepTokenHop _ => 0
  | .fslice => 0
  | .coppiceDeadline _ _ => 0
  | .form _ => 0
  | .join _ => 0
  | .contrib _ => 0
  | .result _ => 0
  | .arrive _ => 0
  | .abort _ => 0
  | .remreq _ => 0
  | .remack _ => 0
  | .collectiveTimeout _ _ => 0
  | .raftformTimeout _ _ => 0
  | .raftJoinTimeout _ _ => 0
  | .remoteAccessTimeout _ _ _ => 0
  | .linkRetryFailure _ => 0
  | .portRetrainAttempt _ _ => 0
  | .foremanMemoryError _ => 0
  | .foremanWatchdog _ => 0
  | .syncPlaneLoss _ => 0
  | .thermalTrip => 0
  | .freezeBroadcast => 0
  | .capsuleSeal => 0
  | .coldReset _ _ => 0
  | .warmReset _ => 0
  | .lqtailDoorbell _ _ => 0
  | .launchQueueEntry _ => 0
  | .freplyServe _ _ => 0
  | .freplyRefuse _ _ => 0
  | .controlRecordPost _ => 0
  | .create _ _ => 0
  | .update _ _ => 0
  | .destroy _ _ => 0
  | .read _ _ => 0
  | .release _ _ => 0
  | .freeze _ _ => 0
  | .info _ _ => 0
  | .foremanFirmwareUpdate _ _ _ => 0
  | .coreOffline _ => 0
  | .coreOnline _ => 0
  | .dieOffline _ => 0
  | .dieOnline _ => 0
  | .retrainHbmStack _ => 0
  | .retrainPort _ => 0
  | .addFreePages => 0
  | .configRecordReplace _ _ _ _ => 0
  | .getVersion _ => 0
  | .getCapabilities _ => 0
  | .negotiateAlgorithms _ => 0
  | .getDigests _ => 0
  | .getCertificate _ _ _ => 0
  | .challenge _ _ => 0
  | .getMeasurements _ _ => 0
  | .hostBar2Access _ _ _ _ _ => 0
  | .registerWrite _ _ _ => 0
  | .memoryReply _ _ => 0
  | .memoryError _ _ _ => 0
  | .launchQueueTake _ => 0

end Sys2Proof.Machine
end

