-- ==== Sys2Proof/Decode.lean ====
section
/-! DEFINITION. Decoding and encoding of instruction words (R28 to R35, Table 2.2) and of spatial operator words
(Table 12.5).  The two have opcode spaces of their own: `decode` reads a word fetched at a PC; an
operator word is recognised by `operatorOk` (log 12). -/

namespace Sys2Proof

/-- Why a word is rejected. -/
inductive DecodeError where
  /-- A bit that the format or entry marks reserved is 1, or a selector holds no assigned value (R31). -/
  | reservedBits
  deriving DecidableEq, Repr

/-- Words with opcode 0x00 to 0x0F. -/
def decodeRow0 (w : Word) : Except DecodeError Instr :=
  match (w.extractLsb' 24 4).toNat with
  | 0 => if w &&& 0xFFFFFF = 0x0 then .ok .nop else .error .reservedBits
  | 1 => if w &&& 0xC00000 = 0x0 then .ok (.setm (w.extractLsb' 16 6) (w.extractLsb' 0 16)) else .error .reservedBits
  | 2 => if w &&& 0xF8FFC0 = 0x0 then .ok (.setmx (w.extractLsb' 16 3) (w.extractLsb' 0 6)) else .error .reservedBits
  | 3 => .ok (.bra (w.extractLsb' 0 24))
  | 4 => .ok (.brnz (w.extractLsb' 16 8) (w.extractLsb' 0 16))
  | 5 => .ok (.brz (w.extractLsb' 16 8) (w.extractLsb' 0 16))
  | 6 => if w &&& 0xF80000 = 0x0 then .ok (.brany (w.extractLsb' 16 3) (w.extractLsb' 0 16)) else .error .reservedBits
  | 7 => if w &&& 0xF80000 = 0x0 then .ok (.brall (w.extractLsb' 16 3) (w.extractLsb' 0 16)) else .error .reservedBits
  | 8 => if w &&& 0xF80000 = 0x0 then .ok (.brdiv (w.extractLsb' 16 3) (w.extractLsb' 0 16)) else .error .reservedBits
  | 9 => if w &&& 0xF80000 = 0x0 then .ok (.rcset (w.extractLsb' 16 3) (w.extractLsb' 0 16)) else .error .reservedBits
  | 10 => if w &&& 0xFFF8FF = 0x0 then .ok (.rcwait (w.extractLsb' 8 3)) else .error .reservedBits
  | 11 => .ok (.call (w.extractLsb' 0 24))
  | 12 => if w &&& 0xFF = 0x0 then .ok (.callr (w.extractLsb' 16 8) (w.extractLsb' 8 8)) else .error .reservedBits
  | 13 => if w &&& 0xFF00FF = 0x0 then .ok (.ret (w.extractLsb' 8 8)) else .error .reservedBits
  | 14 => if w &&& 0xFF00FF = 0x0 then .ok (.jmpr (w.extractLsb' 8 8)) else .error .reservedBits
  | _ => if w &&& 0xFFFFFF = 0x0 then .ok .exit else .error .reservedBits

/-- Words with opcode 0x10 to 0x1F. -/
def decodeRow1 (w : Word) : Except DecodeError Instr :=
  match (w.extractLsb' 24 4).toNat with
  | 0 => .ok (.smovi (w.extractLsb' 16 8) (w.extractLsb' 0 16))
  | 1 => .ok (.smovhi (w.extractLsb' 16 8) (w.extractLsb' 0 16))
  | 2 => .ok (.saddi (w.extractLsb' 16 8) (w.extractLsb' 0 16))
  | 3 => .ok (.spchi (w.extractLsb' 16 8) (w.extractLsb' 0 16))
  | 4 => .ok (.sadd (w.extractLsb' 16 8) (w.extractLsb' 8 8) (w.extractLsb' 0 8))
  | 5 => .ok (.ssub (w.extractLsb' 16 8) (w.extractLsb' 8 8) (w.extractLsb' 0 8))
  | 6 => .ok (.smul (w.extractLsb' 16 8) (w.extractLsb' 8 8) (w.extractLsb' 0 8))
  | 7 => .ok (.sand (w.extractLsb' 16 8) (w.extractLsb' 8 8) (w.extractLsb' 0 8))
  | 8 => .ok (.sor (w.extractLsb' 16 8) (w.extractLsb' 8 8) (w.extractLsb' 0 8))
  | 9 => .ok (.sxor (w.extractLsb' 16 8) (w.extractLsb' 8 8) (w.extractLsb' 0 8))
  | 10 => .ok (.sshl (w.extractLsb' 16 8) (w.extractLsb' 8 8) (w.extractLsb' 0 8))
  | 11 => .ok (.sshr (w.extractLsb' 16 8) (w.extractLsb' 8 8) (w.extractLsb' 0 8))
  | 12 => .ok (.ssra (w.extractLsb' 16 8) (w.extractLsb' 8 8) (w.extractLsb' 0 8))
  | 13 => .ok (.sslt (w.extractLsb' 16 8) (w.extractLsb' 8 8) (w.extractLsb' 0 8))
  | 14 => .ok (.ssltn (w.extractLsb' 16 8) (w.extractLsb' 8 8) (w.extractLsb' 0 8))
  | _ => .ok (.sseq (w.extractLsb' 16 8) (w.extractLsb' 8 8) (w.extractLsb' 0 8))

/-- Words with opcode 0x20 to 0x2F. -/
def decodeRow2 (w : Word) : Except DecodeError Instr :=
  match (w.extractLsb' 24 4).toNat with
  | 0 => .ok (.sadd64 (w.extractLsb' 16 8) (w.extractLsb' 8 8) (w.extractLsb' 0 8))
  | 1 => .ok (.smin (w.extractLsb' 16 8) (w.extractLsb' 8 8) (w.extractLsb' 0 8))
  | 2 => .ok (.smax (w.extractLsb' 16 8) (w.extractLsb' 8 8) (w.extractLsb' 0 8))
  | 3 => if w &&& 0xF8F808 = 0x0 then .ok (.plog (w.extractLsb' 16 3) (w.extractLsb' 8 3) (w.extractLsb' 4 4) (w.extractLsb' 0 3)) else .error .reservedBits
  | 4 => if w &&& 0xF8FF = 0x0 then .ok (.pcount (w.extractLsb' 16 8) (w.extractLsb' 8 3)) else .error .reservedBits
  | 5 => if w &&& 0xF8FF = 0x0 then .ok (.ptos (w.extractLsb' 16 8) (w.extractLsb' 8 3)) else .error .reservedBits
  | 6 => if w &&& 0xF800FF = 0x0 then .ok (.sfromp (w.extractLsb' 16 3) (w.extractLsb' 8 8)) else .error .reservedBits
  | 7 => if w &&& 0xFFFF = 0x0 then .ok (.getm (w.extractLsb' 16 8)) else .error .reservedBits
  | 8 => .ok (.add (w.extractLsb' 16 8) (w.extractLsb' 8 8) (w.extractLsb' 0 8))
  | 9 => .ok (.sub (w.extractLsb' 16 8) (w.extractLsb' 8 8) (w.extractLsb' 0 8))
  | 10 => .ok (.mul (w.extractLsb' 16 8) (w.extractLsb' 8 8) (w.extractLsb' 0 8))
  | 11 => .ok (.mulhi (w.extractLsb' 16 8) (w.extractLsb' 8 8) (w.extractLsb' 0 8))
  | 12 => .ok (.fma (w.extractLsb' 16 8) (w.extractLsb' 8 8) (w.extractLsb' 0 8))
  | 13 => .ok (.fms (w.extractLsb' 16 8) (w.extractLsb' 8 8) (w.extractLsb' 0 8))
  | 14 => .ok (.fnma (w.extractLsb' 16 8) (w.extractLsb' 8 8) (w.extractLsb' 0 8))
  | _ => .ok (.min (w.extractLsb' 16 8) (w.extractLsb' 8 8) (w.extractLsb' 0 8))

/-- Words with opcode 0x30 to 0x3F. -/
def decodeRow3 (w : Word) : Except DecodeError Instr :=
  match (w.extractLsb' 24 4).toNat with
  | 0 => .ok (.max (w.extractLsb' 16 8) (w.extractLsb' 8 8) (w.extractLsb' 0 8))
  | 1 => if w &&& 0xFF = 0x0 then .ok (.abs (w.extractLsb' 16 8) (w.extractLsb' 8 8)) else .error .reservedBits
  | 2 => if w &&& 0xFF = 0x0 then .ok (.neg (w.extractLsb' 16 8) (w.extractLsb' 8 8)) else .error .reservedBits
  | 3 => if w &&& 0xF80000 = 0x0 then .ok (.cmpeq (w.extractLsb' 16 3) (w.extractLsb' 8 8) (w.extractLsb' 0 8)) else .error .reservedBits
  | 4 => if w &&& 0xF80000 = 0x0 then .ok (.cmpne (w.extractLsb' 16 3) (w.extractLsb' 8 8) (w.extractLsb' 0 8)) else .error .reservedBits
  | 5 => if w &&& 0xF80000 = 0x0 then .ok (.cmplt (w.extractLsb' 16 3) (w.extractLsb' 8 8) (w.extractLsb' 0 8)) else .error .reservedBits
  | 6 => if w &&& 0xF80000 = 0x0 then .ok (.cmple (w.extractLsb' 16 3) (w.extractLsb' 8 8) (w.extractLsb' 0 8)) else .error .reservedBits
  | 7 => if w &&& 0xF80000 = 0x0 then .ok (.cmpun (w.extractLsb' 16 3) (w.extractLsb' 8 8) (w.extractLsb' 0 8)) else .error .reservedBits
  | 8 => .ok (.sel (w.extractLsb' 16 8) (w.extractLsb' 8 8) (w.extractLsb' 0 8))
  | 9 => .ok (.addi (w.extractLsb' 16 8) (w.extractLsb' 8 8) (w.extractLsb' 0 8))
  | 10 => .ok (.movi (w.extractLsb' 16 8) (w.extractLsb' 0 16))
  | 11 => .ok (.movhi (w.extractLsb' 16 8) (w.extractLsb' 0 16))
  | 12 => if w &&& 0xFF = 0x0 then .ok (.mov (w.extractLsb' 16 8) (w.extractLsb' 8 8)) else .error .reservedBits
  | 13 => .ok (.div (w.extractLsb' 16 8) (w.extractLsb' 8 8) (w.extractLsb' 0 8))
  | 14 => .ok (.rem (w.extractLsb' 16 8) (w.extractLsb' 8 8) (w.extractLsb' 0 8))
  | _ => if w &&& 0xFF = 0x0 then .ok (.rcp (w.extractLsb' 16 8) (w.extractLsb' 8 8)) else .error .reservedBits

/-- Words with opcode 0x40 to 0x4F. -/
def decodeRow4 (w : Word) : Except DecodeError Instr :=
  match (w.extractLsb' 24 4).toNat with
  | 0 => if w &&& 0xFF = 0x0 then .ok (.rsq (w.extractLsb' 16 8) (w.extractLsb' 8 8)) else .error .reservedBits
  | 1 => if w &&& 0xFF = 0x0 then .ok (.sqrt (w.extractLsb' 16 8) (w.extractLsb' 8 8)) else .error .reservedBits
  | 2 => if w &&& 0xFF = 0x0 then .ok (.exp2 (w.extractLsb' 16 8) (w.extractLsb' 8 8)) else .error .reservedBits
  | 3 => if w &&& 0xFF = 0x0 then .ok (.log2 (w.extractLsb' 16 8) (w.extractLsb' 8 8)) else .error .reservedBits
  | 4 => if w &&& 0xFF = 0x0 then .ok (.sinpi (w.extractLsb' 16 8) (w.extractLsb' 8 8)) else .error .reservedBits
  | 5 => if w &&& 0xFF = 0x0 then .ok (.cospi (w.extractLsb' 16 8) (w.extractLsb' 8 8)) else .error .reservedBits
  | 6 => .ok (.dot2 (w.extractLsb' 16 8) (w.extractLsb' 8 8) (w.extractLsb' 0 8))
  | 7 => .ok (.dot4 (w.extractLsb' 16 8) (w.extractLsb' 8 8) (w.extractLsb' 0 8))
  | 8 => if w &&& 0xFF = 0x0 then .ok (.floor (w.extractLsb' 16 8) (w.extractLsb' 8 8)) else .error .reservedBits
  | 9 => if w &&& 0xFF = 0x0 then .ok (.ceil (w.extractLsb' 16 8) (w.extractLsb' 8 8)) else .error .reservedBits
  | 10 => if w &&& 0xFF = 0x0 then .ok (.trunc (w.extractLsb' 16 8) (w.extractLsb' 8 8)) else .error .reservedBits
  | 11 => if w &&& 0xFF = 0x0 then .ok (.rint (w.extractLsb' 16 8) (w.extractLsb' 8 8)) else .error .reservedBits
  | 12 => if w &&& 0xFF = 0x0 then .ok (.fclass (w.extractLsb' 16 8) (w.extractLsb' 8 8)) else .error .reservedBits
  | 13 => .ok (.scaleb (w.extractLsb' 16 8) (w.extractLsb' 8 8) (w.extractLsb' 0 8))
  | 14 => .ok (.copysign (w.extractLsb' 16 8) (w.extractLsb' 8 8) (w.extractLsb' 0 8))
  | _ => .ok (.absdiff (w.extractLsb' 16 8) (w.extractLsb' 8 8) (w.extractLsb' 0 8))

/-- Words with opcode 0x50 to 0x5F. -/
def decodeRow5 (w : Word) : Except DecodeError Instr :=
  match (w.extractLsb' 24 4).toNat with
  | 0 => if w &&& 0xFF = 0x0 then .ok (.cvt (w.extractLsb' 16 8) (w.extractLsb' 8 8)) else .error .reservedBits
  | 1 => .ok (.cvtp (w.extractLsb' 16 8) (w.extractLsb' 8 8) (w.extractLsb' 0 8))
  | 2 => if w &&& 0xFF = 0x0 then .ok (.cvtq (w.extractLsb' 16 8) (w.extractLsb' 8 8)) else .error .reservedBits
  | 3 => if w &&& 0xFF = 0x0 then .ok (.unpklo (w.extractLsb' 16 8) (w.extractLsb' 8 8)) else .error .reservedBits
  | 4 => if w &&& 0xFF = 0x0 then .ok (.unpkhi (w.extractLsb' 16 8) (w.extractLsb' 8 8)) else .error .reservedBits
  | 5 => if w &&& 0xFF00FF = 0x0 then .ok (.seedUniform (w.extractLsb' 8 8)) else if w &&& 0xFF00FF = 0x1 then .ok (.seedPerLane (w.extractLsb' 8 8)) else .error .reservedBits
  | 6 => .ok (.cvtsc (w.extractLsb' 16 8) (w.extractLsb' 8 8) (w.extractLsb' 0 8))
  | 7 => .ok (.reservedOpcode w)
  | 8 => .ok (.and (w.extractLsb' 16 8) (w.extractLsb' 8 8) (w.extractLsb' 0 8))
  | 9 => .ok (.or (w.extractLsb' 16 8) (w.extractLsb' 8 8) (w.extractLsb' 0 8))
  | 10 => .ok (.xor (w.extractLsb' 16 8) (w.extractLsb' 8 8) (w.extractLsb' 0 8))
  | 11 => if w &&& 0xFF = 0x0 then .ok (.not (w.extractLsb' 16 8) (w.extractLsb' 8 8)) else .error .reservedBits
  | 12 => .ok (.shl (w.extractLsb' 16 8) (w.extractLsb' 8 8) (w.extractLsb' 0 8))
  | 13 => .ok (.shr (w.extractLsb' 16 8) (w.extractLsb' 8 8) (w.extractLsb' 0 8))
  | 14 => .ok (.sra (w.extractLsb' 16 8) (w.extractLsb' 8 8) (w.extractLsb' 0 8))
  | _ => .ok (.rotl (w.extractLsb' 16 8) (w.extractLsb' 8 8) (w.extractLsb' 0 8))

/-- Words with opcode 0x60 to 0x6F. -/
def decodeRow6 (w : Word) : Except DecodeError Instr :=
  match (w.extractLsb' 24 4).toNat with
  | 0 => .ok (.bfx (w.extractLsb' 16 8) (w.extractLsb' 8 8) (w.extractLsb' 0 8))
  | 1 => .ok (.bfi (w.extractLsb' 16 8) (w.extractLsb' 8 8) (w.extractLsb' 0 8))
  | 2 => if w &&& 0xFF = 0x0 then .ok (.popc (w.extractLsb' 16 8) (w.extractLsb' 8 8)) else .error .reservedBits
  | 3 => if w &&& 0xFF = 0x0 then .ok (.clz (w.extractLsb' 16 8) (w.extractLsb' 8 8)) else .error .reservedBits
  | 4 => if w &&& 0xFF = 0x0 then .ok (.brev (w.extractLsb' 16 8) (w.extractLsb' 8 8)) else .error .reservedBits
  | 5 => .ok (.ballot (w.extractLsb' 16 8) (w.extractLsb' 8 8) (w.extractLsb' 0 8))
  | 6 => .ok (.shuf (w.extractLsb' 16 8) (w.extractLsb' 8 8) (w.extractLsb' 0 8))
  | 7 => .ok (.shufx (w.extractLsb' 16 8) (w.extractLsb' 8 8) (w.extractLsb' 0 8))
  | 8 => .ok (.lrot (w.extractLsb' 16 8) (w.extractLsb' 8 8) (w.extractLsb' 0 8))
  | 9 => .ok (.bcast (w.extractLsb' 16 8) (w.extractLsb' 8 8) (w.extractLsb' 0 8))
  | 10 => .ok (.vget (w.extractLsb' 16 8) (w.extractLsb' 8 8) (w.extractLsb' 0 8))
  | 11 => .ok (.vset (w.extractLsb' 16 8) (w.extractLsb' 8 8) (w.extractLsb' 0 8))
  | 12 => if w &&& 0xFF = 0x0 then .ok (.redadd (w.extractLsb' 16 8) (w.extractLsb' 8 8)) else .error .reservedBits
  | 13 => if w &&& 0xFF = 0x0 then .ok (.redmin (w.extractLsb' 16 8) (w.extractLsb' 8 8)) else .error .reservedBits
  | 14 => if w &&& 0xFF = 0x0 then .ok (.redmax (w.extractLsb' 16 8) (w.extractLsb' 8 8)) else .error .reservedBits
  | _ => if w &&& 0xFFFF = 0x0 then .ok (.laneid (w.extractLsb' 16 8)) else .error .reservedBits

/-- Words with opcode 0x70 to 0x7F. -/
def decodeRow7 (w : Word) : Except DecodeError Instr :=
  match (w.extractLsb' 24 4).toNat with
  | 0 => .ok (.ldb (w.extractLsb' 16 8) (w.extractLsb' 8 8) (w.extractLsb' 0 8))
  | 1 => .ok (.ldh (w.extractLsb' 16 8) (w.extractLsb' 8 8) (w.extractLsb' 0 8))
  | 2 => .ok (.ldw (w.extractLsb' 16 8) (w.extractLsb' 8 8) (w.extractLsb' 0 8))
  | 3 => .ok (.ldd (w.extractLsb' 16 8) (w.extractLsb' 8 8) (w.extractLsb' 0 8))
  | 4 => .ok (.ldq (w.extractLsb' 16 8) (w.extractLsb' 8 8) (w.extractLsb' 0 8))
  | 5 => .ok (.stb (w.extractLsb' 16 8) (w.extractLsb' 8 8) (w.extractLsb' 0 8))
  | 6 => .ok (.sth (w.extractLsb' 16 8) (w.extractLsb' 8 8) (w.extractLsb' 0 8))
  | 7 => .ok (.stw (w.extractLsb' 16 8) (w.extractLsb' 8 8) (w.extractLsb' 0 8))
  | 8 => .ok (.std (w.extractLsb' 16 8) (w.extractLsb' 8 8) (w.extractLsb' 0 8))
  | 9 => .ok (.stq (w.extractLsb' 16 8) (w.extractLsb' 8 8) (w.extractLsb' 0 8))
  | 10 => .ok (.ldx (w.extractLsb' 16 8) (w.extractLsb' 8 8) (w.extractLsb' 0 8))
  | 11 => .ok (.stx (w.extractLsb' 16 8) (w.extractLsb' 8 8) (w.extractLsb' 0 8))
  | 12 => .ok (.sld (w.extractLsb' 16 8) (w.extractLsb' 8 8) (w.extractLsb' 0 8))
  | 13 => .ok (.sld64 (w.extractLsb' 16 8) (w.extractLsb' 8 8) (w.extractLsb' 0 8))
  | 14 => .ok (.sst (w.extractLsb' 16 8) (w.extractLsb' 8 8) (w.extractLsb' 0 8))
  | _ => .ok (.sst64 (w.extractLsb' 16 8) (w.extractLsb' 8 8) (w.extractLsb' 0 8))

/-- Words with opcode 0x80 to 0x8F. -/
def decodeRow8 (w : Word) : Except DecodeError Instr :=
  match (w.extractLsb' 24 4).toNat with
  | 0 => .ok (.pref (w.extractLsb' 16 8) (w.extractLsb' 8 8) (w.extractLsb' 0 8))
  | 1 => .ok (.l2pin (w.extractLsb' 16 8) (w.extractLsb' 8 8) (w.extractLsb' 0 8))
  | 2 => if w &&& 0xFF00FF = 0x0 then .ok (.l2unpin (w.extractLsb' 8 8)) else .error .reservedBits
  | 3 => if w &&& 0xFF0000 = 0x0 then .ok (.pagehintPrefer (w.extractLsb' 8 8) (w.extractLsb' 0 8)) else if w &&& 0xFF0000 = 0x10000 then .ok (.pagehintMigrate (w.extractLsb' 8 8) (w.extractLsb' 0 8)) else if w &&& 0xFF0000 = 0x20000 then .ok (.pagehintClear (w.extractLsb' 8 8) (w.extractLsb' 0 8)) else .error .reservedBits
  | 4 => if w &&& 0xFF = 0x0 then .ok (.probe (w.extractLsb' 16 8) (w.extractLsb' 8 8)) else .error .reservedBits
  | 5 => .ok (.poolmap (w.extractLsb' 16 8) (w.extractLsb' 8 8) (w.extractLsb' 0 8))
  | 6 => if w &&& 0xFF00FF = 0x0 then .ok (.poolunmap (w.extractLsb' 8 8)) else .error .reservedBits
  | 7 => .ok (.reservedOpcode w)
  | 8 => if w &&& 0xFFFFC8 = 0x0 then .ok (.fence (w.extractLsb' 4 2) (w.extractLsb' 0 3)) else .error .reservedBits
  | 9 => .ok (.ldacq (w.extractLsb' 16 8) (w.extractLsb' 8 8) (w.extractLsb' 0 8))
  | 10 => .ok (.strel (w.extractLsb' 16 8) (w.extractLsb' 8 8) (w.extractLsb' 0 8))
  | 11 => .ok (.aadd (w.extractLsb' 16 8) (w.extractLsb' 8 8) (w.extractLsb' 0 8))
  | 12 => .ok (.amin (w.extractLsb' 16 8) (w.extractLsb' 8 8) (w.extractLsb' 0 8))
  | 13 => .ok (.amax (w.extractLsb' 16 8) (w.extractLsb' 8 8) (w.extractLsb' 0 8))
  | 14 => .ok (.aand (w.extractLsb' 16 8) (w.extractLsb' 8 8) (w.extractLsb' 0 8))
  | _ => .ok (.aor (w.extractLsb' 16 8) (w.extractLsb' 8 8) (w.extractLsb' 0 8))

/-- Words with opcode 0x90 to 0x9F. -/
def decodeRow9 (w : Word) : Except DecodeError Instr :=
  match (w.extractLsb' 24 4).toNat with
  | 0 => .ok (.axor (w.extractLsb' 16 8) (w.extractLsb' 8 8) (w.extractLsb' 0 8))
  | 1 => .ok (.axchg (w.extractLsb' 16 8) (w.extractLsb' 8 8) (w.extractLsb' 0 8))
  | 2 => .ok (.acas (w.extractLsb' 16 8) (w.extractLsb' 8 8) (w.extractLsb' 0 8))
  | 3 => .ok (.ainc (w.extractLsb' 16 8) (w.extractLsb' 8 8) (w.extractLsb' 0 8))
  | 4 => .ok (.adec (w.extractLsb' 16 8) (w.extractLsb' 8 8) (w.extractLsb' 0 8))
  | 5 => .ok (.await (w.extractLsb' 16 8) (w.extractLsb' 8 8) (w.extractLsb' 0 8))
  | 6 => if w &&& 0xFFFFC8 = 0x0 then .ok (.fencej (w.extractLsb' 4 2) (w.extractLsb' 0 3)) else .error .reservedBits
  | 7 => .ok (.reservedOpcode w)
  | 8 => .ok (.waitc (w.extractLsb' 18 6) (w.extractLsb' 12 6) (w.extractLsb' 6 6) (w.extractLsb' 0 6))
  | 9 => if w &&& 0xFF = 0x0 then .ok (.copy (w.extractLsb' 16 8) (w.extractLsb' 8 8)) else .error .reservedBits
  | 10 => .ok (.copyr (w.extractLsb' 16 8) (w.extractLsb' 8 8) (w.extractLsb' 0 8))
  | 11 => if w &&& 0xFF = 0x0 then .ok (.strm (w.extractLsb' 16 8) (w.extractLsb' 8 8)) else .error .reservedBits
  | 12 => if w &&& 0xFCFF = 0x0 then .ok (.pop (w.extractLsb' 16 8) (w.extractLsb' 8 2)) else .error .reservedBits
  | 13 => if w &&& 0xFF0000 = 0x0 then .ok (.strmbar (w.extractLsb' 8 8) (w.extractLsb' 0 8)) else .error .reservedBits
  | 14 => if w &&& 0xFF = 0x0 then .ok (.jobq (w.extractLsb' 16 8) (w.extractLsb' 8 8)) else .error .reservedBits
  | _ => if w &&& 0xFF00FF = 0x0 then .ok (.jobcan (w.extractLsb' 8 8)) else .error .reservedBits

/-- Words with opcode 0xA0 to 0xAF. -/
def decodeRowA (w : Word) : Except DecodeError Instr :=
  match (w.extractLsb' 24 4).toNat with
  | 0 => .ok (.reservedOpcode w)
  | 1 => .ok (.reservedOpcode w)
  | 2 => .ok (.reservedOpcode w)
  | 3 => .ok (.reservedOpcode w)
  | 4 => if w &&& 0xF8 = 0x0 then .ok (.mload (w.extractLsb' 16 8) (w.extractLsb' 8 8) (w.extractLsb' 0 3)) else .error .reservedBits
  | 5 => if w &&& 0x88 = 0x0 then .ok (.mma (w.extractLsb' 16 8) (w.extractLsb' 8 8) (w.extractLsb' 4 3) (w.extractLsb' 0 3)) else .error .reservedBits
  | 6 => if w &&& 0xF8FFFF = 0x0 then .ok (.mzero (w.extractLsb' 16 3)) else .error .reservedBits
  | 7 => if w &&& 0xF80000 = 0x0 then .ok (.mstore (w.extractLsb' 16 3) (w.extractLsb' 8 8) (w.extractLsb' 0 8)) else .error .reservedBits
  | 8 => if w &&& 0xF800 = 0x0 then .ok (.mread (w.extractLsb' 16 8) (w.extractLsb' 8 3) (w.extractLsb' 0 8)) else .error .reservedBits
  | 9 => if w &&& 0xF8FF = 0x0 then .ok (.mflags (w.extractLsb' 16 8) (w.extractLsb' 8 3)) else .error .reservedBits
  | 10 => if w &&& 0xFF0000 = 0x0 then .ok (.mtsc (w.extractLsb' 8 8) (w.extractLsb' 0 8)) else .error .reservedBits
  | 11 => .ok (.reservedOpcode w)
  | 12 => if w &&& 0xFF = 0x0 then .ok (.gbind (w.extractLsb' 16 8) (w.extractLsb' 8 8)) else .error .reservedBits
  | 13 => if w &&& 0xFF = 0x0 then .ok (.grun (w.extractLsb' 16 8) (w.extractLsb' 8 8)) else .error .reservedBits
  | 14 => .ok (.gstat (w.extractLsb' 16 8) (w.extractLsb' 8 8) (w.extractLsb' 0 8))
  | _ => .ok (.reservedOpcode w)

/-- Words with opcode 0xB0 to 0xBF. -/
def decodeRowB (w : Word) : Except DecodeError Instr :=
  match (w.extractLsb' 24 4).toNat with
  | 0 => .ok (.spent (w.extractLsb' 16 8) (w.extractLsb' 8 8) (w.extractLsb' 0 8))
  | 1 => if w &&& 0xFFFF = 0x0 then .ok (.spexit (w.extractLsb' 16 8)) else .error .reservedBits
  | 2 => if w &&& 0xFF = 0x0 then .ok (.spwait (w.extractLsb' 16 8) (w.extractLsb' 8 8)) else .error .reservedBits
  | 3 => if w &&& 0xFF0000 = 0x0 then .ok (.ecw (w.extractLsb' 8 8) (w.extractLsb' 0 8)) else .error .reservedBits
  | 4 => if w &&& 0xFFFF = 0x0 then .ok (.tmark (w.extractLsb' 16 8)) else .error .reservedBits
  | 5 => if w &&& 0xFF0000 = 0x0 then .ok (.spinj (w.extractLsb' 8 8) (w.extractLsb' 0 8)) else .error .reservedBits
  | 6 => if w &&& 0xFFFF = 0x0 then .ok (.sptake (w.extractLsb' 16 8)) else .error .reservedBits
  | 7 => if w &&& 0xFFFFFF = 0x0 then .ok .spstopEnd else if w &&& 0xFFFFFF = 0x1 then .ok .spstopHold else if w &&& 0xFFFFFF = 0x2 then .ok .spstopQuiet else if w &&& 0xFFFFFF = 0x3 then .ok .spstopRelease else .error .reservedBits
  | 8 => .ok (.spstat (w.extractLsb' 16 8) (w.extractLsb' 8 8) (w.extractLsb' 0 8))
  | 9 => if w &&& 0xFF = 0x0 then .ok (.sprcfg (w.extractLsb' 16 8) (w.extractLsb' 8 8)) else .error .reservedBits
  | 10 => .ok (.reservedOpcode w)
  | 11 => .ok (.reservedOpcode w)
  | 12 => if w &&& 0xFF = 0x0 then .ok (.launch (w.extractLsb' 16 8) (w.extractLsb' 8 8)) else .error .reservedBits
  | 13 => if w &&& 0xF0FFFF = 0x0 then .ok (.phendNone (w.extractLsb' 16 4)) else if w &&& 0xF0FFF0 = 0x100000 then .ok (.phendBar (w.extractLsb' 16 4) (w.extractLsb' 0 4)) else if w &&& 0xF0F0C0 = 0x200000 then .ok (.phendQueue (w.extractLsb' 16 4) (w.extractLsb' 8 4) (w.extractLsb' 0 6)) else if w &&& 0xF0FFC0 = 0x300000 then .ok (.phendWord (w.extractLsb' 16 4) (w.extractLsb' 0 6)) else .error .reservedBits
  | 14 => if w &&& 0xFF00FF = 0x0 then .ok (.bararr (w.extractLsb' 8 8)) else .error .reservedBits
  | _ => if w &&& 0xFF = 0x0 then .ok (.bufget (w.extractLsb' 16 8) (w.extractLsb' 8 8)) else .error .reservedBits

/-- Words with opcode 0xC0 to 0xCF. -/
def decodeRowC (w : Word) : Except DecodeError Instr :=
  match (w.extractLsb' 24 4).toNat with
  | 0 => if w &&& 0xFF0000 = 0x0 then .ok (.bufpass (w.extractLsb' 8 8) (w.extractLsb' 0 8)) else .error .reservedBits
  | 1 => if w &&& 0xFF00FF = 0x0 then .ok (.bufdrop (w.extractLsb' 8 8)) else .error .reservedBits
  | 2 => if w &&& 0xFF = 0x0 then .ok (.bufaddr (w.extractLsb' 16 8) (w.extractLsb' 8 8)) else .error .reservedBits
  | 3 => if w &&& 0xC = 0x0 then .ok (.enq (w.extractLsb' 16 8) (w.extractLsb' 8 8) (w.extractLsb' 4 4) (w.extractLsb' 1 1) (w.extractLsb' 0 1)) else .error .reservedBits
  | 4 => if w &&& 0xE = 0x0 then .ok (.deq (w.extractLsb' 16 8) (w.extractLsb' 8 8) (w.extractLsb' 4 4) (w.extractLsb' 0 1)) else .error .reservedBits
  | 5 => if w &&& 0xFF000F = 0x0 then .ok (.qinit (w.extractLsb' 8 8) (w.extractLsb' 4 4)) else .error .reservedBits
  | 6 => if w &&& 0xF = 0x0 then .ok (.qlen (w.extractLsb' 16 8) (w.extractLsb' 8 8) (w.extractLsb' 4 4)) else .error .reservedBits
  | 7 => if w &&& 0xF = 0x0 then .ok (.sweep (w.extractLsb' 16 8) (w.extractLsb' 8 8) (w.extractLsb' 4 4)) else .error .reservedBits
  | 8 => if w &&& 0xFF00FF = 0x0 then .ok (.estim (w.extractLsb' 8 8)) else .error .reservedBits
  | 9 => if w &&& 0xFFFF = 0x0 then .ok (.widrd (w.extractLsb' 16 8)) else .error .reservedBits
  | 10 => if w &&& 0xFFF8 = 0x0 then .ok (.widfld (w.extractLsb' 16 8) (w.extractLsb' 0 3)) else .error .reservedBits
  | 11 => if w &&& 0xFFFFFF = 0x0 then .ok .qfence else .error .reservedBits
  | 12 => .ok (.reservedOpcode w)
  | 13 => .ok (.reservedOpcode w)
  | 14 => .ok (.reservedOpcode w)
  | _ => .ok (.reservedOpcode w)

/-- Words with opcode 0xD0 to 0xDF. -/
def decodeRowD (w : Word) : Except DecodeError Instr :=
  match (w.extractLsb' 24 4).toNat with
  | 0 => if w &&& 0xFF = 0x0 then .ok (.cpinit (w.extractLsb' 16 8) (w.extractLsb' 8 8)) else .error .reservedBits
  | 1 => .ok (.sprout (w.extractLsb' 16 8) (w.extractLsb' 8 8) (w.extractLsb' 0 8))
  | 2 => if w &&& 0xFF00F0 = 0x0 then .ok (.reward (w.extractLsb' 8 8) (w.extractLsb' 0 4)) else .error .reservedBits
  | 3 => .ok (.cut (w.extractLsb' 16 8) (w.extractLsb' 8 8) (w.extractLsb' 0 8))
  | 4 => .ok (.cpstat (w.extractLsb' 16 8) (w.extractLsb' 8 8) (w.extractLsb' 0 8))
  | 5 => if w &&& 0xFFFF = 0x0 then .ok (.cpadv (w.extractLsb' 16 8)) else .error .reservedBits
  | 6 => .ok (.reservedOpcode w)
  | 7 => .ok (.reservedOpcode w)
  | 8 => if w &&& 0xFF = 0x0 then .ok (.raftform (w.extractLsb' 16 8) (w.extractLsb' 8 8)) else .error .reservedBits
  | 9 => .ok (.raftre (w.extractLsb' 16 8) (w.extractLsb' 8 8) (w.extractLsb' 0 8))
  | 10 => if w &&& 0xFF = 0x0 then .ok (.car (w.extractLsb' 16 8) (w.extractLsb' 8 8)) else .error .reservedBits
  | 11 => if w &&& 0xFF = 0x0 then .ok (.cag (w.extractLsb' 16 8) (w.extractLsb' 8 8)) else .error .reservedBits
  | 12 => if w &&& 0xFF = 0x0 then .ok (.crs (w.extractLsb' 16 8) (w.extractLsb' 8 8)) else .error .reservedBits
  | 13 => if w &&& 0xFF = 0x0 then .ok (.cbc (w.extractLsb' 16 8) (w.extractLsb' 8 8)) else .error .reservedBits
  | 14 => if w &&& 0xFF = 0x0 then .ok (.ca2a (w.extractLsb' 16 8) (w.extractLsb' 8 8)) else .error .reservedBits
  | _ => if w &&& 0xFF = 0x0 then .ok (.cbar (w.extractLsb' 16 8) (w.extractLsb' 8 8)) else .error .reservedBits

/-- Words with opcode 0xE0 to 0xEF. -/
def decodeRowE (w : Word) : Except DecodeError Instr :=
  match (w.extractLsb' 24 4).toNat with
  | 0 => .ok (.cstat (w.extractLsb' 16 8) (w.extractLsb' 8 8) (w.extractLsb' 0 8))
  | 1 => if w &&& 0xFF00FF = 0x0 then .ok (.cabort (w.extractLsb' 8 8)) else .error .reservedBits
  | 2 => .ok (.rput (w.extractLsb' 16 8) (w.extractLsb' 8 8) (w.extractLsb' 0 8))
  | 3 => .ok (.rget (w.extractLsb' 16 8) (w.extractLsb' 8 8) (w.extractLsb' 0 8))
  | 4 => if w &&& 0xFF0000 = 0x0 then .ok (.trap (w.extractLsb' 0 16)) else .error .reservedBits
  | 5 => if w &&& 0xFFFFFF = 0x0 then .ok .trapret else .error .reservedBits
  | 6 => .ok (.sread (w.extractLsb' 16 8) (w.extractLsb' 0 16))
  | 7 => .ok (.swrite (w.extractLsb' 16 8) (w.extractLsb' 0 16))
  | 8 => if w &&& 0xFF0000 = 0x0 then .ok (.brk (w.extractLsb' 0 16)) else .error .reservedBits
  | 9 => .ok (.mark (w.extractLsb' 16 8) (w.extractLsb' 0 16))
  | 10 => .ok (.trcarm (w.extractLsb' 16 8) (w.extractLsb' 8 8) (w.extractLsb' 0 8))
  | 11 => if w &&& 0xFF00 = 0x0 then .ok (.cntrd (w.extractLsb' 16 8) (w.extractLsb' 0 8)) else .error .reservedBits
  | 12 => if w &&& 0xFF00 = 0x0 then .ok (.cntcfg (w.extractLsb' 16 8) (w.extractLsb' 0 8)) else .error .reservedBits
  | 13 => if w &&& 0xFFFFFF = 0x0 then .ok .halt else .error .reservedBits
  | 14 => if w &&& 0xFFFF = 0x0 then .ok (.clock (w.extractLsb' 16 8)) else .error .reservedBits
  | _ => .ok (.tlbi (w.extractLsb' 16 8) (w.extractLsb' 8 8) (w.extractLsb' 0 8))

/-- Words with opcode 0xF0 to 0xFF. -/
def decodeRowF (w : Word) : Except DecodeError Instr :=
  match (w.extractLsb' 24 4).toNat with
  | 0 => .ok (.ctxsv (w.extractLsb' 16 8) (w.extractLsb' 8 8) (w.extractLsb' 0 8))
  | 1 => .ok (.ctxrs (w.extractLsb' 16 8) (w.extractLsb' 8 8) (w.extractLsb' 0 8))
  | 2 => .ok (.reservedOpcode w)
  | 3 => .ok (.reservedOpcode w)
  | 4 => .ok (.reservedOpcode w)
  | 5 => .ok (.reservedOpcode w)
  | 6 => .ok (.reservedOpcode w)
  | 7 => .ok (.reservedOpcode w)
  | 8 => .ok (.reservedOpcode w)
  | 9 => .ok (.reservedOpcode w)
  | 10 => .ok (.reservedOpcode w)
  | 11 => .ok (.reservedOpcode w)
  | 12 => .ok (.reservedOpcode w)
  | 13 => .ok (.reservedOpcode w)
  | 14 => .ok (.reservedOpcode w)
  | _ => .ok (.undef (w.extractLsb' 0 24))

/-- The instruction a word of the instruction stream stands for (R32, R33): a reserved opcode is an instruction of its own, whose meaning is the ILLOP trap; a 1 in a reserved bit is rejected by name (R31). -/
def decode (w : Word) : Except DecodeError Instr :=
  match (w.extractLsb' 28 4).toNat with
  | 0 => decodeRow0 w
  | 1 => decodeRow1 w
  | 2 => decodeRow2 w
  | 3 => decodeRow3 w
  | 4 => decodeRow4 w
  | 5 => decodeRow5 w
  | 6 => decodeRow6 w
  | 7 => decodeRow7 w
  | 8 => decodeRow8 w
  | 9 => decodeRow9 w
  | 10 => decodeRowA w
  | 11 => decodeRowB w
  | 12 => decodeRowC w
  | 13 => decodeRowD w
  | 14 => decodeRowE w
  | _ => decodeRowF w

/-- The words of the operator table (Table 12.5): fixed bits and their values. -/
def operatorPatterns : List (Word × Word) :=
  [(0xFF000080, 0x01000000),
   (0xFF0000FF, 0x02000000),
   (0xFF0000FF, 0x03000000),
   (0xFF0000FF, 0x04000000),
   (0xFF0000BF, 0x05000000),
   (0xFF000000, 0x08000000),
   (0xFF000000, 0x09000000),
   (0xFF000000, 0x0A000000),
   (0xFF000000, 0x0B000000),
   (0xFF000000, 0x0C000000),
   (0xFF000000, 0x0D000000),
   (0xFF000080, 0x0E000000),
   (0xFF000080, 0x0F000000),
   (0xFF000080, 0x10000000),
   (0xFF000080, 0x11000000),
   (0xFF000080, 0x12000000),
   (0xFF000080, 0x13000000),
   (0xFF000080, 0x14000000),
   (0xFF000080, 0x15000000),
   (0xFF000080, 0x16000000),
   (0xFF000000, 0x17000000),
   (0xFF000000, 0x20000000),
   (0xFF0000FF, 0x21000000),
   (0xFF0000E0, 0x22000000),
   (0xFF000000, 0x28000000),
   (0xFF000000, 0x29000000),
   (0xFF000000, 0x2A000000),
   (0xFF0000FF, 0x30000000),
   (0xFFFFFFFF, 0x31030300),
   (0xFF0000FF, 0x32000000),
   (0xFFFFFFFF, 0x33030300),
   (0xFFFFFFFF, 0x34030300),
   (0xFF0000FF, 0x35000000),
   (0xFF0000FF, 0x36000000),
   (0xFFFFFF0C, 0x38030300),
   (0xFF00000C, 0x39000000)]

/-- A word of a core's configuration store is an assigned operator word: its opcode is in Table 12.5 and no reserved
bit is 1.  The operators' fields are read by `Sys2Proof.Machine.fireWord`, whose arms call the same meanings as
`exec`; `encode` gives the words. -/
def operatorOk (w : Word) : Bool := operatorPatterns.any (fun p => w &&& p.1 = p.2)

/-- The word of an instruction, from the same tables; an event has none. -/
def encode (i : Instr) : Option Word :=
  match i with
  | .nop => some ((0x0 : BitVec 8) ++ (0x0 : BitVec 24))
  | .setm f v => some ((0x1 : BitVec 8) ++ (0x0 : BitVec 2) ++ f ++ v)
  | .setmx f v => some ((0x2 : BitVec 8) ++ (0x0 : BitVec 5) ++ f ++ (0x0 : BitVec 10) ++ v)
  | .bra o => some ((0x3 : BitVec 8) ++ o)
  | .brnz d i => some ((0x4 : BitVec 8) ++ d ++ i)
  | .brz d i => some ((0x5 : BitVec 8) ++ d ++ i)
  | .brany d i => some ((0x6 : BitVec 8) ++ (0x0 : BitVec 5) ++ d ++ i)
  | .brall d i => some ((0x7 : BitVec 8) ++ (0x0 : BitVec 5) ++ d ++ i)
  | .brdiv d i => some ((0x8 : BitVec 8) ++ (0x0 : BitVec 5) ++ d ++ i)
  | .rcset d i => some ((0x9 : BitVec 8) ++ (0x0 : BitVec 5) ++ d ++ i)
  | .rcwait a => some ((0xa : BitVec 8) ++ (0x0 : BitVec 13) ++ a ++ (0x0 : BitVec 8))
  | .call o => some ((0xb : BitVec 8) ++ o)
  | .callr d a => some ((0xc : BitVec 8) ++ d ++ a ++ (0x0 : BitVec 8))
  | .ret a => some ((0xd : BitVec 8) ++ (0x0 : BitVec 8) ++ a ++ (0x0 : BitVec 8))
  | .jmpr a => some ((0xe : BitVec 8) ++ (0x0 : BitVec 8) ++ a ++ (0x0 : BitVec 8))
  | .exit => some ((0xf : BitVec 8) ++ (0x0 : BitVec 24))
  | .smovi d i => some ((0x10 : BitVec 8) ++ d ++ i)
  | .smovhi d i => some ((0x11 : BitVec 8) ++ d ++ i)
  | .saddi d i => some ((0x12 : BitVec 8) ++ d ++ i)
  | .spchi d i => some ((0x13 : BitVec 8) ++ d ++ i)
  | .sadd d a b => some ((0x14 : BitVec 8) ++ d ++ a ++ b)
  | .ssub d a b => some ((0x15 : BitVec 8) ++ d ++ a ++ b)
  | .smul d a b => some ((0x16 : BitVec 8) ++ d ++ a ++ b)
  | .sand d a b => some ((0x17 : BitVec 8) ++ d ++ a ++ b)
  | .sor d a b => some ((0x18 : BitVec 8) ++ d ++ a ++ b)
  | .sxor d a b => some ((0x19 : BitVec 8) ++ d ++ a ++ b)
  | .sshl d a b => some ((0x1a : BitVec 8) ++ d ++ a ++ b)
  | .sshr d a b => some ((0x1b : BitVec 8) ++ d ++ a ++ b)
  | .ssra d a b => some ((0x1c : BitVec 8) ++ d ++ a ++ b)
  | .sslt d a b => some ((0x1d : BitVec 8) ++ d ++ a ++ b)
  | .ssltn d a b => some ((0x1e : BitVec 8) ++ d ++ a ++ b)
  | .sseq d a b => some ((0x1f : BitVec 8) ++ d ++ a ++ b)
  | .sadd64 d a b => some ((0x20 : BitVec 8) ++ d ++ a ++ b)
  | .smin d a b => some ((0x21 : BitVec 8) ++ d ++ a ++ b)
  | .smax d a b => some ((0x22 : BitVec 8) ++ d ++ a ++ b)
  | .plog d a f b => some ((0x23 : BitVec 8) ++ (0x0 : BitVec 5) ++ d ++ (0x0 : BitVec 5) ++ a ++ f ++ (0x0 : BitVec 1) ++ b)
  | .pcount d a => some ((0x24 : BitVec 8) ++ d ++ (0x0 : BitVec 5) ++ a ++ (0x0 : BitVec 8))
  | .ptos d a => some ((0x25 : BitVec 8) ++ d ++ (0x0 : BitVec 5) ++ a ++ (0x0 : BitVec 8))
  | .sfromp d a => some ((0x26 : BitVec 8) ++ (0x0 : BitVec 5) ++ d ++ a ++ (0x0 : BitVec 8))
  | .getm d => some ((0x27 : BitVec 8) ++ d ++ (0x0 : BitVec 16))
  | .add d a b => some ((0x28 : BitVec 8) ++ d ++ a ++ b)
  | .sub d a b => some ((0x29 : BitVec 8) ++ d ++ a ++ b)
  | .mul d a b => some ((0x2a : BitVec 8) ++ d ++ a ++ b)
  | .mulhi d a b => some ((0x2b : BitVec 8) ++ d ++ a ++ b)
  | .fma d a b => some ((0x2c : BitVec 8) ++ d ++ a ++ b)
  | .fms d a b => some ((0x2d : BitVec 8) ++ d ++ a ++ b)
  | .fnma d a b => some ((0x2e : BitVec 8) ++ d ++ a ++ b)
  | .min d a b => some ((0x2f : BitVec 8) ++ d ++ a ++ b)
  | .max d a b => some ((0x30 : BitVec 8) ++ d ++ a ++ b)
  | .abs d a => some ((0x31 : BitVec 8) ++ d ++ a ++ (0x0 : BitVec 8))
  | .neg d a => some ((0x32 : BitVec 8) ++ d ++ a ++ (0x0 : BitVec 8))
  | .cmpeq d a b => some ((0x33 : BitVec 8) ++ (0x0 : BitVec 5) ++ d ++ a ++ b)
  | .cmpne d a b => some ((0x34 : BitVec 8) ++ (0x0 : BitVec 5) ++ d ++ a ++ b)
  | .cmplt d a b => some ((0x35 : BitVec 8) ++ (0x0 : BitVec 5) ++ d ++ a ++ b)
  | .cmple d a b => some ((0x36 : BitVec 8) ++ (0x0 : BitVec 5) ++ d ++ a ++ b)
  | .cmpun d a b => some ((0x37 : BitVec 8) ++ (0x0 : BitVec 5) ++ d ++ a ++ b)
  | .sel d a b => some ((0x38 : BitVec 8) ++ d ++ a ++ b)
  | .addi d a i => some ((0x39 : BitVec 8) ++ d ++ a ++ i)
  | .movi d i => some ((0x3a : BitVec 8) ++ d ++ i)
  | .movhi d i => some ((0x3b : BitVec 8) ++ d ++ i)
  | .mov d a => some ((0x3c : BitVec 8) ++ d ++ a ++ (0x0 : BitVec 8))
  | .div d a b => some ((0x3d : BitVec 8) ++ d ++ a ++ b)
  | .rem d a b => some ((0x3e : BitVec 8) ++ d ++ a ++ b)
  | .rcp d a => some ((0x3f : BitVec 8) ++ d ++ a ++ (0x0 : BitVec 8))
  | .rsq d a => some ((0x40 : BitVec 8) ++ d ++ a ++ (0x0 : BitVec 8))
  | .sqrt d a => some ((0x41 : BitVec 8) ++ d ++ a ++ (0x0 : BitVec 8))
  | .exp2 d a => some ((0x42 : BitVec 8) ++ d ++ a ++ (0x0 : BitVec 8))
  | .log2 d a => some ((0x43 : BitVec 8) ++ d ++ a ++ (0x0 : BitVec 8))
  | .sinpi d a => some ((0x44 : BitVec 8) ++ d ++ a ++ (0x0 : BitVec 8))
  | .cospi d a => some ((0x45 : BitVec 8) ++ d ++ a ++ (0x0 : BitVec 8))
  | .dot2 d a b => some ((0x46 : BitVec 8) ++ d ++ a ++ b)
  | .dot4 d a b => some ((0x47 : BitVec 8) ++ d ++ a ++ b)
  | .floor d a => some ((0x48 : BitVec 8) ++ d ++ a ++ (0x0 : BitVec 8))
  | .ceil d a => some ((0x49 : BitVec 8) ++ d ++ a ++ (0x0 : BitVec 8))
  | .trunc d a => some ((0x4a : BitVec 8) ++ d ++ a ++ (0x0 : BitVec 8))
  | .rint d a => some ((0x4b : BitVec 8) ++ d ++ a ++ (0x0 : BitVec 8))
  | .fclass d a => some ((0x4c : BitVec 8) ++ d ++ a ++ (0x0 : BitVec 8))
  | .scaleb d a b => some ((0x4d : BitVec 8) ++ d ++ a ++ b)
  | .copysign d a b => some ((0x4e : BitVec 8) ++ d ++ a ++ b)
  | .absdiff d a b => some ((0x4f : BitVec 8) ++ d ++ a ++ b)
  | .cvt d a => some ((0x50 : BitVec 8) ++ d ++ a ++ (0x0 : BitVec 8))
  | .cvtp d a b => some ((0x51 : BitVec 8) ++ d ++ a ++ b)
  | .cvtq d a => some ((0x52 : BitVec 8) ++ d ++ a ++ (0x0 : BitVec 8))
  | .unpklo d a => some ((0x53 : BitVec 8) ++ d ++ a ++ (0x0 : BitVec 8))
  | .unpkhi d a => some ((0x54 : BitVec 8) ++ d ++ a ++ (0x0 : BitVec 8))
  | .seedUniform a => some ((0x55 : BitVec 8) ++ (0x0 : BitVec 8) ++ a ++ (0x0 : BitVec 8))
  | .seedPerLane a => some ((0x55 : BitVec 8) ++ (0x0 : BitVec 8) ++ a ++ (0x1 : BitVec 8))
  | .cvtsc d a b => some ((0x56 : BitVec 8) ++ d ++ a ++ b)
  | .and d a b => some ((0x58 : BitVec 8) ++ d ++ a ++ b)
  | .or d a b => some ((0x59 : BitVec 8) ++ d ++ a ++ b)
  | .xor d a b => some ((0x5a : BitVec 8) ++ d ++ a ++ b)
  | .not d a => some ((0x5b : BitVec 8) ++ d ++ a ++ (0x0 : BitVec 8))
  | .shl d a b => some ((0x5c : BitVec 8) ++ d ++ a ++ b)
  | .shr d a b => some ((0x5d : BitVec 8) ++ d ++ a ++ b)
  | .sra d a b => some ((0x5e : BitVec 8) ++ d ++ a ++ b)
  | .rotl d a b => some ((0x5f : BitVec 8) ++ d ++ a ++ b)
  | .bfx d a b => some ((0x60 : BitVec 8) ++ d ++ a ++ b)
  | .bfi d a b => some ((0x61 : BitVec 8) ++ d ++ a ++ b)
  | .popc d a => some ((0x62 : BitVec 8) ++ d ++ a ++ (0x0 : BitVec 8))
  | .clz d a => some ((0x63 : BitVec 8) ++ d ++ a ++ (0x0 : BitVec 8))
  | .brev d a => some ((0x64 : BitVec 8) ++ d ++ a ++ (0x0 : BitVec 8))
  | .ballot d a i => some ((0x65 : BitVec 8) ++ d ++ a ++ i)
  | .shuf d a b => some ((0x66 : BitVec 8) ++ d ++ a ++ b)
  | .shufx d a i => some ((0x67 : BitVec 8) ++ d ++ a ++ i)
  | .lrot d a i => some ((0x68 : BitVec 8) ++ d ++ a ++ i)
  | .bcast d a i => some ((0x69 : BitVec 8) ++ d ++ a ++ i)
  | .vget d a i => some ((0x6a : BitVec 8) ++ d ++ a ++ i)
  | .vset d a i => some ((0x6b : BitVec 8) ++ d ++ a ++ i)
  | .redadd d a => some ((0x6c : BitVec 8) ++ d ++ a ++ (0x0 : BitVec 8))
  | .redmin d a => some ((0x6d : BitVec 8) ++ d ++ a ++ (0x0 : BitVec 8))
  | .redmax d a => some ((0x6e : BitVec 8) ++ d ++ a ++ (0x0 : BitVec 8))
  | .laneid d => some ((0x6f : BitVec 8) ++ d ++ (0x0 : BitVec 16))
  | .ldb d a i => some ((0x70 : BitVec 8) ++ d ++ a ++ i)
  | .ldh d a i => some ((0x71 : BitVec 8) ++ d ++ a ++ i)
  | .ldw d a i => some ((0x72 : BitVec 8) ++ d ++ a ++ i)
  | .ldd d a i => some ((0x73 : BitVec 8) ++ d ++ a ++ i)
  | .ldq d a i => some ((0x74 : BitVec 8) ++ d ++ a ++ i)
  | .stb d a i => some ((0x75 : BitVec 8) ++ d ++ a ++ i)
  | .sth d a i => some ((0x76 : BitVec 8) ++ d ++ a ++ i)
  | .stw d a i => some ((0x77 : BitVec 8) ++ d ++ a ++ i)
  | .std d a i => some ((0x78 : BitVec 8) ++ d ++ a ++ i)
  | .stq d a i => some ((0x79 : BitVec 8) ++ d ++ a ++ i)
  | .ldx d a b => some ((0x7a : BitVec 8) ++ d ++ a ++ b)
  | .stx d a b => some ((0x7b : BitVec 8) ++ d ++ a ++ b)
  | .sld d a i => some ((0x7c : BitVec 8) ++ d ++ a ++ i)
  | .sld64 d a i => some ((0x7d : BitVec 8) ++ d ++ a ++ i)
  | .sst d a i => some ((0x7e : BitVec 8) ++ d ++ a ++ i)
  | .sst64 d a i => some ((0x7f : BitVec 8) ++ d ++ a ++ i)
  | .pref d a i => some ((0x80 : BitVec 8) ++ d ++ a ++ i)
  | .l2pin d a b => some ((0x81 : BitVec 8) ++ d ++ a ++ b)
  | .l2unpin a => some ((0x82 : BitVec 8) ++ (0x0 : BitVec 8) ++ a ++ (0x0 : BitVec 8))
  | .pagehintPrefer a b => some ((0x83 : BitVec 8) ++ (0x0 : BitVec 8) ++ a ++ b)
  | .pagehintMigrate a b => some ((0x83 : BitVec 8) ++ (0x1 : BitVec 8) ++ a ++ b)
  | .pagehintClear a b => some ((0x83 : BitVec 8) ++ (0x2 : BitVec 8) ++ a ++ b)
  | .probe d a => some ((0x84 : BitVec 8) ++ d ++ a ++ (0x0 : BitVec 8))
  | .poolmap d a b => some ((0x85 : BitVec 8) ++ d ++ a ++ b)
  | .poolunmap a => some ((0x86 : BitVec 8) ++ (0x0 : BitVec 8) ++ a ++ (0x0 : BitVec 8))
  | .fence k s => some ((0x88 : BitVec 8) ++ (0x0 : BitVec 18) ++ k ++ (0x0 : BitVec 1) ++ s)
  | .ldacq d a i => some ((0x89 : BitVec 8) ++ d ++ a ++ i)
  | .strel d a i => some ((0x8a : BitVec 8) ++ d ++ a ++ i)
  | .aadd d a b => some ((0x8b : BitVec 8) ++ d ++ a ++ b)
  | .amin d a b => some ((0x8c : BitVec 8) ++ d ++ a ++ b)
  | .amax d a b => some ((0x8d : BitVec 8) ++ d ++ a ++ b)
  | .aand d a b => some ((0x8e : BitVec 8) ++ d ++ a ++ b)
  | .aor d a b => some ((0x8f : BitVec 8) ++ d ++ a ++ b)
  | .axor d a b => some ((0x90 : BitVec 8) ++ d ++ a ++ b)
  | .axchg d a b => some ((0x91 : BitVec 8) ++ d ++ a ++ b)
  | .acas d a b => some ((0x92 : BitVec 8) ++ d ++ a ++ b)
  | .ainc d a b => some ((0x93 : BitVec 8) ++ d ++ a ++ b)
  | .adec d a b => some ((0x94 : BitVec 8) ++ d ++ a ++ b)
  | .await d a b => some ((0x95 : BitVec 8) ++ d ++ a ++ b)
  | .fencej k s => some ((0x96 : BitVec 8) ++ (0x0 : BitVec 18) ++ k ++ (0x0 : BitVec 1) ++ s)
  | .waitc l s c t => some ((0x98 : BitVec 8) ++ l ++ s ++ c ++ t)
  | .copy d a => some ((0x99 : BitVec 8) ++ d ++ a ++ (0x0 : BitVec 8))
  | .copyr d a b => some ((0x9a : BitVec 8) ++ d ++ a ++ b)
  | .strm d a => some ((0x9b : BitVec 8) ++ d ++ a ++ (0x0 : BitVec 8))
  | .pop d q => some ((0x9c : BitVec 8) ++ d ++ (0x0 : BitVec 6) ++ q ++ (0x0 : BitVec 8))
  | .strmbar a b => some ((0x9d : BitVec 8) ++ (0x0 : BitVec 8) ++ a ++ b)
  | .jobq d a => some ((0x9e : BitVec 8) ++ d ++ a ++ (0x0 : BitVec 8))
  | .jobcan a => some ((0x9f : BitVec 8) ++ (0x0 : BitVec 8) ++ a ++ (0x0 : BitVec 8))
  | .mload d a m => some ((0xa4 : BitVec 8) ++ d ++ a ++ (0x0 : BitVec 5) ++ m)
  | .mma d a t m => some ((0xa5 : BitVec 8) ++ d ++ a ++ (0x0 : BitVec 1) ++ t ++ (0x0 : BitVec 1) ++ m)
  | .mzero t => some ((0xa6 : BitVec 8) ++ (0x0 : BitVec 5) ++ t ++ (0x0 : BitVec 16))
  | .mstore t a f => some ((0xa7 : BitVec 8) ++ (0x0 : BitVec 5) ++ t ++ a ++ f)
  | .mread d t c => some ((0xa8 : BitVec 8) ++ d ++ (0x0 : BitVec 5) ++ t ++ c)
  | .mflags d t => some ((0xa9 : BitVec 8) ++ d ++ (0x0 : BitVec 5) ++ t ++ (0x0 : BitVec 8))
  | .mtsc a b => some ((0xaa : BitVec 8) ++ (0x0 : BitVec 8) ++ a ++ b)
  | .gbind d a => some ((0xac : BitVec 8) ++ d ++ a ++ (0x0 : BitVec 8))
  | .grun d a => some ((0xad : BitVec 8) ++ d ++ a ++ (0x0 : BitVec 8))
  | .gstat d a s => some ((0xae : BitVec 8) ++ d ++ a ++ s)
  | .spent d a b => some ((0xb0 : BitVec 8) ++ d ++ a ++ b)
  | .spexit d => some ((0xb1 : BitVec 8) ++ d ++ (0x0 : BitVec 16))
  | .spwait d a => some ((0xb2 : BitVec 8) ++ d ++ a ++ (0x0 : BitVec 8))
  | .ecw a b => some ((0xb3 : BitVec 8) ++ (0x0 : BitVec 8) ++ a ++ b)
  | .tmark d => some ((0xb4 : BitVec 8) ++ d ++ (0x0 : BitVec 16))
  | .spinj a b => some ((0xb5 : BitVec 8) ++ (0x0 : BitVec 8) ++ a ++ b)
  | .sptake d => some ((0xb6 : BitVec 8) ++ d ++ (0x0 : BitVec 16))
  | .spstopEnd => some ((0xb7 : BitVec 8) ++ (0x0 : BitVec 24))
  | .spstopHold => some ((0xb7 : BitVec 8) ++ (0x1 : BitVec 24))
  | .spstopQuiet => some ((0xb7 : BitVec 8) ++ (0x2 : BitVec 24))
  | .spstopRelease => some ((0xb7 : BitVec 8) ++ (0x3 : BitVec 24))
  | .spstat d a s => some ((0xb8 : BitVec 8) ++ d ++ a ++ s)
  | .sprcfg d a => some ((0xb9 : BitVec 8) ++ d ++ a ++ (0x0 : BitVec 8))
  | .launch d a => some ((0xbc : BitVec 8) ++ d ++ a ++ (0x0 : BitVec 8))
  | .phendNone c => some ((0xbd : BitVec 8) ++ (0x0 : BitVec 4) ++ c ++ (0x0 : BitVec 16))
  | .phendBar c b => some ((0xbd : BitVec 8) ++ (0x1 : BitVec 4) ++ c ++ (0x0 : BitVec 12) ++ b)
  | .phendQueue c l p => some ((0xbd : BitVec 8) ++ (0x2 : BitVec 4) ++ c ++ (0x0 : BitVec 4) ++ l ++ (0x0 : BitVec 2) ++ p)
  | .phendWord c p => some ((0xbd : BitVec 8) ++ (0x3 : BitVec 4) ++ c ++ (0x0 : BitVec 10) ++ p)
  | .bararr a => some ((0xbe : BitVec 8) ++ (0x0 : BitVec 8) ++ a ++ (0x0 : BitVec 8))
  | .bufget d a => some ((0xbf : BitVec 8) ++ d ++ a ++ (0x0 : BitVec 8))
  | .bufpass a b => some ((0xc0 : BitVec 8) ++ (0x0 : BitVec 8) ++ a ++ b)
  | .bufdrop a => some ((0xc1 : BitVec 8) ++ (0x0 : BitVec 8) ++ a ++ (0x0 : BitVec 8))
  | .bufaddr d a => some ((0xc2 : BitVec 8) ++ d ++ a ++ (0x0 : BitVec 8))
  | .enq d a l w r => some ((0xc3 : BitVec 8) ++ d ++ a ++ l ++ (0x0 : BitVec 2) ++ w ++ r)
  | .deq d a l q => some ((0xc4 : BitVec 8) ++ d ++ a ++ l ++ (0x0 : BitVec 3) ++ q)
  | .qinit a l => some ((0xc5 : BitVec 8) ++ (0x0 : BitVec 8) ++ a ++ l ++ (0x0 : BitVec 4))
  | .qlen d a l => some ((0xc6 : BitVec 8) ++ d ++ a ++ l ++ (0x0 : BitVec 4))
  | .sweep d a l => some ((0xc7 : BitVec 8) ++ d ++ a ++ l ++ (0x0 : BitVec 4))
  | .estim a => some ((0xc8 : BitVec 8) ++ (0x0 : BitVec 8) ++ a ++ (0x0 : BitVec 8))
  | .widrd d => some ((0xc9 : BitVec 8) ++ d ++ (0x0 : BitVec 16))
  | .widfld d k => some ((0xca : BitVec 8) ++ d ++ (0x0 : BitVec 13) ++ k)
  | .qfence => some ((0xcb : BitVec 8) ++ (0x0 : BitVec 24))
  | .cpinit d a => some ((0xd0 : BitVec 8) ++ d ++ a ++ (0x0 : BitVec 8))
  | .sprout d a b => some ((0xd1 : BitVec 8) ++ d ++ a ++ b)
  | .reward a c => some ((0xd2 : BitVec 8) ++ (0x0 : BitVec 8) ++ a ++ (0x0 : BitVec 4) ++ c)
  | .cut d a b => some ((0xd3 : BitVec 8) ++ d ++ a ++ b)
  | .cpstat d a s => some ((0xd4 : BitVec 8) ++ d ++ a ++ s)
  | .cpadv d => some ((0xd5 : BitVec 8) ++ d ++ (0x0 : BitVec 16))
  | .raftform d a => some ((0xd8 : BitVec 8) ++ d ++ a ++ (0x0 : BitVec 8))
  | .raftre d a b => some ((0xd9 : BitVec 8) ++ d ++ a ++ b)
  | .car d a => some ((0xda : BitVec 8) ++ d ++ a ++ (0x0 : BitVec 8))
  | .cag d a => some ((0xdb : BitVec 8) ++ d ++ a ++ (0x0 : BitVec 8))
  | .crs d a => some ((0xdc : BitVec 8) ++ d ++ a ++ (0x0 : BitVec 8))
  | .cbc d a => some ((0xdd : BitVec 8) ++ d ++ a ++ (0x0 : BitVec 8))
  | .ca2a d a => some ((0xde : BitVec 8) ++ d ++ a ++ (0x0 : BitVec 8))
  | .cbar d a => some ((0xdf : BitVec 8) ++ d ++ a ++ (0x0 : BitVec 8))
  | .cstat d a s => some ((0xe0 : BitVec 8) ++ d ++ a ++ s)
  | .cabort a => some ((0xe1 : BitVec 8) ++ (0x0 : BitVec 8) ++ a ++ (0x0 : BitVec 8))
  | .rput d a b => some ((0xe2 : BitVec 8) ++ d ++ a ++ b)
  | .rget d a b => some ((0xe3 : BitVec 8) ++ d ++ a ++ b)
  | .trap i => some ((0xe4 : BitVec 8) ++ (0x0 : BitVec 8) ++ i)
  | .trapret => some ((0xe5 : BitVec 8) ++ (0x0 : BitVec 24))
  | .sread d i => some ((0xe6 : BitVec 8) ++ d ++ i)
  | .swrite d i => some ((0xe7 : BitVec 8) ++ d ++ i)
  | .brk i => some ((0xe8 : BitVec 8) ++ (0x0 : BitVec 8) ++ i)
  | .mark d i => some ((0xe9 : BitVec 8) ++ d ++ i)
  | .trcarm d a b => some ((0xea : BitVec 8) ++ d ++ a ++ b)
  | .cntrd d k => some ((0xeb : BitVec 8) ++ d ++ (0x0 : BitVec 8) ++ k)
  | .cntcfg k b => some ((0xec : BitVec 8) ++ k ++ (0x0 : BitVec 8) ++ b)
  | .halt => some ((0xed : BitVec 8) ++ (0x0 : BitVec 24))
  | .clock d => some ((0xee : BitVec 8) ++ d ++ (0x0 : BitVec 16))
  | .tlbi d a b => some ((0xef : BitVec 8) ++ d ++ a ++ b)
  | .ctxsv d a b => some ((0xf0 : BitVec 8) ++ d ++ a ++ b)
  | .ctxrs d a b => some ((0xf1 : BitVec 8) ++ d ++ a ++ b)
  | .undef u => some ((0xff : BitVec 8) ++ u)
  | .reservedOpcode w => some w
  | .opPass a b g r k t => some ((0x1 : BitVec 8) ++ a ++ b ++ (0x0 : BitVec 1) ++ g ++ r ++ k ++ t)
  | .opCopy a b => some ((0x2 : BitVec 8) ++ a ++ b ++ (0x0 : BitVec 8))
  | .opSel a b => some ((0x3 : BitVec 8) ++ a ++ b ++ (0x0 : BitVec 8))
  | .opSteer a b => some ((0x4 : BitVec 8) ++ a ++ b ++ (0x0 : BitVec 8))
  | .opMerge a b g => some ((0x5 : BitVec 8) ++ a ++ b ++ (0x0 : BitVec 1) ++ g ++ (0x0 : BitVec 6))
  | .opAdd a b x g r k t => some ((0x8 : BitVec 8) ++ a ++ b ++ x ++ g ++ r ++ k ++ t)
  | .opSub a b x g r k t => some ((0x9 : BitVec 8) ++ a ++ b ++ x ++ g ++ r ++ k ++ t)
  | .opMul a b x g r k t => some ((0xa : BitVec 8) ++ a ++ b ++ x ++ g ++ r ++ k ++ t)
  | .opFma a b y g r k t => some ((0xb : BitVec 8) ++ a ++ b ++ y ++ g ++ r ++ k ++ t)
  | .opMin a b x g r k t => some ((0xc : BitVec 8) ++ a ++ b ++ x ++ g ++ r ++ k ++ t)
  | .opMax a b x g r k t => some ((0xd : BitVec 8) ++ a ++ b ++ x ++ g ++ r ++ k ++ t)
  | .opCmpeq a b g r k t => some ((0xe : BitVec 8) ++ a ++ b ++ (0x0 : BitVec 1) ++ g ++ r ++ k ++ t)
  | .opCmpne a b g r k t => some ((0xf : BitVec 8) ++ a ++ b ++ (0x0 : BitVec 1) ++ g ++ r ++ k ++ t)
  | .opCmplt a b g r k t => some ((0x10 : BitVec 8) ++ a ++ b ++ (0x0 : BitVec 1) ++ g ++ r ++ k ++ t)
  | .opCmple a b g r k t => some ((0x11 : BitVec 8) ++ a ++ b ++ (0x0 : BitVec 1) ++ g ++ r ++ k ++ t)
  | .opAnd a b g r k t => some ((0x12 : BitVec 8) ++ a ++ b ++ (0x0 : BitVec 1) ++ g ++ r ++ k ++ t)
  | .opOr a b g r k t => some ((0x13 : BitVec 8) ++ a ++ b ++ (0x0 : BitVec 1) ++ g ++ r ++ k ++ t)
  | .opXor a b g r k t => some ((0x14 : BitVec 8) ++ a ++ b ++ (0x0 : BitVec 1) ++ g ++ r ++ k ++ t)
  | .opShl a b g r k t => some ((0x15 : BitVec 8) ++ a ++ b ++ (0x0 : BitVec 1) ++ g ++ r ++ k ++ t)
  | .opShr a b g r k t => some ((0x16 : BitVec 8) ++ a ++ b ++ (0x0 : BitVec 1) ++ g ++ r ++ k ++ t)
  | .opDot4 a b x g r k t => some ((0x17 : BitVec 8) ++ a ++ b ++ x ++ g ++ r ++ k ++ t)
  | .opCvt a b x r t => some ((0x20 : BitVec 8) ++ a ++ b ++ x ++ r ++ t)
  | .opRate a b => some ((0x21 : BitVec 8) ++ a ++ b ++ (0x0 : BitVec 8))
  | .opScalemul a b k t => some ((0x22 : BitVec 8) ++ a ++ b ++ (0x0 : BitVec 3) ++ k ++ t)
  | .opLoopgen a b r k t => some ((0x28 : BitVec 8) ++ a ++ b ++ r ++ k ++ t)
  | .opCount a b r k t => some ((0x29 : BitVec 8) ++ a ++ b ++ r ++ k ++ t)
  | .opAcc a b r k t => some ((0x2a : BitVec 8) ++ a ++ b ++ r ++ k ++ t)
  | .opSrc a b => some ((0x30 : BitVec 8) ++ a ++ b ++ (0x0 : BitVec 8))
  | .opSnk => some ((0x31 : BitVec 8) ++ (0x30300 : BitVec 24))
  | .opMemld a b => some ((0x32 : BitVec 8) ++ a ++ b ++ (0x0 : BitVec 8))
  | .opMemst => some ((0x33 : BitVec 8) ++ (0x30300 : BitVec 24))
  | .opExitx => some ((0x34 : BitVec 8) ++ (0x30300 : BitVec 24))
  | .opInj a b => some ((0x35 : BitVec 8) ++ a ++ b ++ (0x0 : BitVec 8))
  | .opTgate a b => some ((0x36 : BitVec 8) ++ a ++ b ++ (0x0 : BitVec 8))
  | .opEdgetx t c => some ((0x38 : BitVec 8) ++ (0x303 : BitVec 16) ++ t ++ (0x0 : BitVec 2) ++ c)
  | .opEdgerx a b t c => some ((0x39 : BitVec 8) ++ a ++ b ++ t ++ (0x0 : BitVec 2) ++ c)
  | .loadComplete _ _ _ _ => none
  | .storeComplete _ _ _ _ => none
  | .replay _ _ => none
  | .landingPagerServe _ _ => none
  | .pageridle _ => none
  | .faulttmo _ _ => none
  | .migration _ _ _ => none
  | .pendingNotificationPost _ => none
  | .fabtmo _ _ _ _ => none
  | .activeSetSwap _ _ => none
  | .awaitWake _ _ => none
  | .awaitDeadline _ _ => none
  | .jobStart _ _ => none
  | .copyChunk _ _ => none
  | .streamEntry _ _ _ _ => none
  | .mloadRow _ _ => none
  | .grunRow _ _ => none
  | .jobComplete _ _ => none
  | .mmaBroadcast _ _ => none
  | .macroError _ _ => none
  | .tileCellError _ _ _ => none
  | .spentCommit _ _ _ => none
  | .spexitComplete _ _ => none
  | .regionCompletion _ _ => none
  | .spwaitDeadline _ _ => none
  | .drainEnd _ _ => none
  | .watchdog _ _ => none
  | .saveStop _ _ => none
  | .debugHalt _ => none
  | .haltRelease _ _ => none
  | .configStoreError _ _ => none
  | .bind _ _ => none
  | .nextPhaseReady _ _ => none
  | .gangwait _ _ => none
  | .gangtmo _ => none
  | .preemptionChoice _ _ _ => none
  | .sweepTokenHop _ => none
  | .fslice => none
  | .coppiceDeadline _ _ => none
  | .form _ => none
  | .join _ => none
  | .contrib _ => none
  | .result _ => none
  | .arrive _ => none
  | .abort _ => none
  | .remreq _ => none
  | .remack _ => none
  | .collectiveTimeout _ _ => none
  | .raftformTimeout _ _ => none
  | .raftJoinTimeout _ _ => none
  | .remoteAccessTimeout _ _ _ => none
  | .linkRetryFailure _ => none
  | .portRetrainAttempt _ _ => none
  | .foremanMemoryError _ => none
  | .foremanWatchdog _ => none
  | .syncPlaneLoss _ => none
  | .thermalTrip => none
  | .freezeBroadcast => none
  | .capsuleSeal => none
  | .coldReset _ _ => none
  | .warmReset _ => none
  | .lqtailDoorbell _ _ => none
  | .launchQueueEntry _ => none
  | .freplyServe _ _ => none
  | .freplyRefuse _ _ => none
  | .controlRecordPost _ => none
  | .create _ _ => none
  | .update _ _ => none
  | .destroy _ _ => none
  | .read _ _ => none
  | .release _ _ => none
  | .freeze _ _ => none
  | .info _ _ => none
  | .foremanFirmwareUpdate _ _ _ => none
  | .coreOffline _ => none
  | .coreOnline _ => none
  | .dieOffline _ => none
  | .dieOnline _ => none
  | .retrainHbmStack _ => none
  | .retrainPort _ => none
  | .addFreePages => none
  | .configRecordReplace _ _ _ _ => none
  | .getVersion _ => none
  | .getCapabilities _ => none
  | .negotiateAlgorithms _ => none
  | .getDigests _ => none
  | .getCertificate _ _ _ => none
  | .challenge _ _ => none
  | .getMeasurements _ _ => none
  | .hostBar2Access _ _ _ _ _ => none
  | .registerWrite _ _ _ => none
  | .memoryReply _ _ => none
  | .memoryError _ _ _ => none
  | .launchQueueTake _ => none

/-- The word an ILLOP or PRIV trap reports for an instruction (R36). -/
def Instr.word (i : Instr) : Word := (encode i).getD 0

/-- The instruction the decoder reads from an instruction whose bits are `w`, numbered as the opcode table numbers
them.  An instruction is one word of 32 bits, whatever the table gives the row. -/
def decodeTableWord (_nbits w : Nat) : Option Instr :=
  match decode (BitVec.ofNat 32 w) with
  | .ok i => some i
  | .error _ => none

end Sys2Proof
end

