-- ==== Sys2Proof/Machine/Regs.lean ====
section
/-! DEFINITION. Registers of a crew and bytes of storage: every read and write of them goes through these names. -/

namespace Sys2Proof.Machine

/-! ## Crew registers -/

/-- s[n] (R62). -/
def Crew.getS (c : Crew) (n : Nat) : Word := c.sreg.getD n 0

/-- s[n] := x. -/
def Crew.setS (c : Crew) (n : Nat) (x : Word) : Crew := { c with sreg := c.sreg.setD n x 0 }

/-- s[n:n+1] (R83). -/
def Crew.getSS (c : Crew) (n : Nat) : DWord := c.getS (n + 1) ++ c.getS n

/-- s[n:n+1] := x. -/
def Crew.setSS (c : Crew) (n : Nat) (x : DWord) : Crew :=
  (c.setS n (x.extractLsb' 0 32)).setS (n + 1) (x.extractLsb' 32 32)

/-- v[n][l]. -/
def Crew.getV (c : Crew) (n l : Nat) : Word := c.vreg.getD (n * 64 + l) 0

/-- v[n][l] := x. -/
def Crew.setV (c : Crew) (n l : Nat) (x : Word) : Crew := { c with vreg := c.vreg.setD (n * 64 + l) x 0 }

/-- v[n:n+1][l]. -/
def Crew.getVV (c : Crew) (n l : Nat) : DWord := c.getV (n + 1) l ++ c.getV n l

/-- The operand of `span` registers at v[n] in lane l, as a number (R83). -/
def Crew.getVN (c : Crew) (span n l : Nat) : Nat :=
  if span = 2 then (c.getVV n l).toNat else (c.getV n l).toNat

/-- The operand of `span` scalar registers at s[n], as a number. -/
def Crew.getSN (c : Crew) (span n : Nat) : Nat := if span = 2 then (c.getSS n).toNat else (c.getS n).toNat

/-- Write `span` scalar registers from s[n] on (span 1 or 2). -/
def Crew.setSN (c : Crew) (span n x : Nat) : Crew :=
  if span = 2 then c.setSS n (BitVec.ofNat 64 x) else c.setS n (BitVec.ofNat 32 x)

/-- Write `span` vector registers from v[n] on in lane l with the bytes of `x`, lowest first. -/
def Crew.setVN (c : Crew) (n l : Nat) (x : Nat) : Nat → Crew
  | 0 => c
  | span + 1 => (c.setV n l (BitVec.ofNat 32 x)).setVN (n + 1) l (x / 2 ^ 32) span

/-- Write `span` vector registers from v[n] on in every lane of `m`, lane l with `f l`. -/
def Crew.setLanes (c : Crew) (n span : Nat) (m : Mask) (f : Nat → Nat) : Crew :=
  (lanesOf m).foldl (fun c l => c.setVN n l (f l) span) c

/-- p[n] := m (a write to p0 has no effect, R70). -/
def Crew.setPred (c : Crew) (n : Nat) (m : Mask) : Crew :=
  if n = 0 then c else { c with preds := c.preds.setD n m 0 }

/-- p[n][l] := f l in each lane of `m`; the other lanes keep their bits (R70). -/
def Crew.setPredLanes (c : Crew) (n : Nat) (m : Mask) (bits : Mask) : Crew :=
  c.setPred n ((c.pred n &&& ~~~m) ||| (bits &&& m))

/-- The lane mask of a predicate on lanes. -/
def maskOf (f : Nat → Bool) : Mask :=
  (List.range 64).foldl (fun m l => if f l then m ||| (1 <<< l) else m) 0

/-- Barrier b[n]. -/
def Crew.bar (c : Crew) (n : Nat) : Barrier := c.bars.getD n Barrier.zero

/-- b[n] := b. -/
def Crew.setBar (c : Crew) (n : Nat) (b : Barrier) : Crew := { c with bars := c.bars.setD n b Barrier.zero }

/-- The hash of R96 that SEED applies to a lane's seed. -/
def seedOf (x : Word) (l : Nat) : Word :=
  let x := x + BitVec.ofNat 32 (l * 0x9E3779B9)
  let x := x ^^^ (x >>> 16)
  let x := x * 0x85EBCA6B
  let x := x ^^^ (x >>> 13)
  let x := x * 0xC2B2AE35
  let x := x ^^^ (x >>> 16)
  if x = 0 then 1 else x

/-- G[l]: a lane that no SEED and no draw has touched holds the seed of a launch (R95). -/
def Crew.gen (c : Crew) (l : Nat) : Word := c.gens.getD l (seedOf 0 l)

/-- G[l] := g. -/
def Crew.setGen (c : Crew) (l : Nat) (g : Word) : Crew := { c with gens := c.gens.setD l g (seedOf 0 l) }

/-- G[l] := f l in each lane of `m`. -/
def Crew.setGens (c : Crew) (m : Mask) (f : Nat → Word) : Crew :=
  (lanesOf m).foldl (fun c l => c.setGen l (f l)) c

/-- The crew at the next instruction in program order. -/
def Crew.next (c : Crew) : Crew := { c with pc := c.pc + 4 }

/-! ## The focus: the crew that is executing -/

/-- The key of a crew slot: cores are numbered through the package (R13) and hold 64 slots (R55). -/
def crewKey (core slot : Nat) : Nat := core * 64 + slot

/-- The key of the executing crew's slot. -/
def State.fkey (s : State) : Nat := crewKey s.focusCore s.focusSlot

/-- The crew in the focused slot, if one is bound there. -/
def State.crew? (s : State) : Option Crew := s.crews.get? s.fkey

/-- The crew in the focused slot. -/
def State.crew (s : State) : Crew := s.crews.getD s.fkey Crew.blank

/-- Put a crew into a slot. -/
def State.setCrewAt (s : State) (k : Nat) (c : Crew) : State := { s with crews := s.crews.insert k c }

/-- Change the crew bound in a slot, if there is one. -/
def State.mapCrewAt (s : State) (k : Nat) (f : Crew → Crew) : State :=
  match s.crews.get? k with
  | some c => s.setCrewAt k (f c)
  | none => s

/-- Change the executing crew. -/
def State.setCrew (s : State) (c : Crew) : State := s.setCrewAt s.fkey c

/-- Change the executing crew by a function. -/
def State.mapCrew (s : State) (f : Crew → Crew) : State := s.setCrew (f s.crew)

/-- Core `n` of the package. -/
def State.core (s : State) (n : Nat) : Core := s.cores.getD n Core.blank

/-- Change core `n`. -/
def State.setCore (s : State) (n : Nat) (c : Core) : State := { s with cores := s.cores.setD n c Core.blank }

/-- Change core `n` by a function. -/
def State.mapCore (s : State) (n : Nat) (f : Core → Core) : State := s.setCore n (f (s.core n))

/-- Macro `m` of core `n` (R230). -/
def State.mac (s : State) (n m : Nat) : Macro := (s.core n).macros.getD m Macro.blank

/-- Change macro `m` of core `n`. -/
def State.setMac (s : State) (n m : Nat) (x : Macro) : State :=
  s.mapCore n (fun c => { c with macros := c.macros.setD m x Macro.blank })

/-- Tile `t` of core `n` (R232). -/
def State.tile (s : State) (n t : Nat) : Tile := (s.core n).tiles.getD t Tile.blank

/-- Change tile `t` of core `n`. -/
def State.setTile (s : State) (n t : Nat) (x : Tile) : State :=
  s.mapCore n (fun c => { c with tiles := c.tiles.setD t x Tile.blank })

/-- Die `n`. -/
def State.die (s : State) (n : Nat) : Die := s.dies.getD n Die.blank

/-- Change die `n`. -/
def State.setDie (s : State) (n : Nat) (d : Die) : State := { s with dies := s.dies.setD n d Die.blank }

/-- Change die `n` by a function. -/
def State.mapDie (s : State) (n : Nat) (f : Die → Die) : State := s.setDie n (f (s.die n))

/-- The registers of context `n`. -/
def State.ctx (s : State) (n : Nat) : Ctx := s.ctxs.getD n Ctx.blank

/-- Change context `n`, if it exists. -/
def State.mapCtx (s : State) (n : Nat) (f : Ctx → Ctx) : State :=
  match s.ctxs.get? n with
  | some c => { s with ctxs := s.ctxs.insert n (f c) }
  | none => s

/-- Take the next free value (log 5). -/
def State.takeFree (s : State) : DWord × State := (Config.freeBits s.freeIx, { s with freeIx := s.freeIx + 1 })

/-! ## Spatial regions -/

/-- The key of a slot in a region: its table index and number. -/
def slotKey (ci sl : Nat) : Nat := ci * 64 + sl

/-- The operator code of a slot entry (Table 12.3). -/
def SlotCfg.op (c : SlotCfg) : Nat := c.word.toNat / 2 ^ 24

/-- The live region of a core, with its key. -/
def State.regionAt (s : State) (core : Nat) : Option (Nat × Region) :=
  s.regions.findEntry (fun _ r => r.live && r.cores.contains core)

/-- A SPENT that has not reached its commit names the core (R292). -/
def State.draining (s : State) (core : Nat) : Bool :=
  s.regions.any (fun e => !e.2.live && e.2.cores.contains core)

/-- The crew's part in spatial mode (R295): control crew, handler crew, or none in SIMT mode. -/
def State.spatialRole (s : State) (key : Nat) : Option Bool :=
  (s.regionAt (key / 64)).map (fun e => decide (e.1 = key))

/-- The die's foreman has put the landing pager into the core (R15, R166). -/
def State.pagerOn (s : State) (core : Nat) : Bool := decide (core % 24 = 23) && (s.dies.getD (core / 24) Die.blank).pager

/-- The crew waits in an MMA that the stand has accepted (R231), which a drain waits for (R292). -/
def Crew.inMma (c : Crew) : Bool :=
  match c.waiting with
  | some (.mma _ _ _) => true
  | _ => false

/-- The foreman or another crew keeps the crew stopped: a CTXSV of another crew of the core (R412), or a switch of functions (R439). -/
def State.heldBack (s : State) (key : Nat) : Bool :=
  s.crews.any (fun e => decide (e.1 / 64 = key / 64 ∧ e.2.waiting = some (.ctxsv key))) ||
    (s.switching && (s.crews.get? key).elim false (fun c => decide ((s.ctx c.ctx).owner = s.current)))

/-- Spatial mode lets the crew issue (R292, R296): its core is in SIMT mode and not draining, or the crew is the control
crew or a handler crew; on a landing-pager core every crew is parked while the pager is in (R166).  No CTXSV has it stopped (R412). -/
def State.mayIssue (s : State) (key : Nat) : Bool :=
  (!s.draining (key / 64) || (s.crews.get? key).elim false Crew.inMma) && !s.pagerOn (key / 64) && !s.heldBack key &&
    match s.regionAt (key / 64) with
    | none => true
    | some e => decide (e.1 = key) || e.2.handlers.contains key

/-- The quarter of a slot (R55). -/
def quarterOf (slot : Nat) : Nat := slot / 16

/-- CLOCK and the issue count of a slot's quarter, in which the arbitration reckons time (R59, R330; log 72). -/
def State.issueTime (s : State) (key : Nat) : Nat × Nat := (s.clock, (s.core (key / 64)).issues.getD (quarterOf (key % 64)) 0)

/-- The first of two issue times is earlier. -/
def earlier (a b : Nat × Nat) : Bool := decide (a.1 < b.1) || (decide (a.1 = b.1) && decide (a.2 < b.2))

/-- A slot has no place in its active set (R59). -/
def State.leaveSet (s : State) (key : Nat) : State :=
  s.mapCore (key / 64) (fun k => { k with activeSet := k.activeSet.filter (fun n => decide (n ≠ key % 64)) })

/-- A crew waits at its instruction and leaves the active set, and its register cache is written back (R59, R60). -/
def State.stall (s : State) (key : Nat) : State :=
  (s.leaveSet key).mapCrewAt key (fun c => { c with stalled := true, cache := [] })

/-- The crew waits no longer and is ready from now on. -/
def State.unstall (s : State) (key : Nat) : State :=
  s.mapCrewAt key (fun c => { c with stalled := false, readyAt := s.issueTime key, readySince := (s.issueTime key).2 })

/-- A structure of fields laid one after another, given as (bytes, value), as one little-endian number. -/
def layout : List (Nat × Nat) → Nat
  | [] => 0
  | (n, x) :: fs => x % 2 ^ (8 * n) + 2 ^ (8 * n) * layout fs

/-- The bind record of a crew in a slot (Table 14.2), with the VA of its phase record. -/
def Crew.bindRecord (c : Crew) (slot recVa : Nat) : Nat :=
  layout [(8, recVa), (2, c.task), (1, slot), (1, 128 + c.prio % 4), (1, c.rbase), (1, c.tiles.toNat), (2, 0), (8, c.widbase.toNat), (8, 0)]

/-- A crew is bound in a slot by a bind record (R329): it is ready from now on, outside the active set, and its caches are empty (R59, R60,
R159). -/
def State.enterSlot (s : State) (key : Nat) (c : Crew) (recVa : Nat) : State :=
  ({ s.leaveSet key with bindRecs := s.bindRecs.insert key (c.bindRecord (key % 64) recVa) } : State).setCrewAt key
    { c with stalled := false, readyAt := s.issueTime key, readySince := (s.issueTime key).2, lastIssue := s.issueTime key, cache := [], lastPage := [] }

/-- No crew is bound in the slot any more, and its bind record is not valid. -/
def State.vacate (s : State) (key : Nat) : State :=
  { s.leaveSet key with crews := s.crews.remove key, bindRecs := s.bindRecs.remove key }

/-- Change a region, if it exists. -/
def State.mapRegion (s : State) (k : Nat) (f : Region → Region) : State :=
  match s.regions.get? k with
  | some r => { s with regions := s.regions.insert k (f r) }
  | none => s

/-- The core's die (R13). -/
def dieOf (core : Nat) : Nat := core / 24

/-- A die is live (R26). -/
def State.dieLive (s : State) (d : Nat) : Bool := s.liveDies.testBit d

/-- A core is live (R26): its die is live and the core is not offline. -/
def State.coreLive (s : State) (c : Nat) : Bool := s.liveDies.testBit (dieOf c) && s.liveCores.testBit c

/-- The firmware of a die's foreman is being updated (R451): it binds and takes nothing. -/
def State.updating (s : State) (d : Nat) : Bool := s.service.actions.any (fun a => decide (a.cmd = 1 ∧ a.arg % 8 = d))

/-- A vault is live (R14, R148): its die is live and the vault is not offline. -/
def State.vaultLive (s : State) (n : Nat) : Bool := s.liveDies.testBit (n / 8) && s.liveVaults.testBit n

/-- An HBM4E stack is live (R26). -/
def State.stackLive (s : State) (n : Nat) : Bool := s.liveStacks.testBit n && s.liveDies.testBit (n / 2)

/-! ## Bytes -/

/-- The byte at a storage index; storage that nothing has written reads 0 (log 3). -/
def State.byte (s : State) (a : Nat) : Byte := SMap.getD s.mem a 0

/-- Write one byte. -/
def State.setByte (s : State) (a : Nat) (x : Byte) : State := { s with mem := SMap.setD s.mem a x 0 }

/-- `n` bytes from index `a`, little-endian (R6). -/
def State.bytes (s : State) (a : Nat) : Nat → Nat
  | 0 => 0
  | n + 1 => (s.byte a).toNat + 256 * s.bytes (a + 1) n

/-- Write the low `n` bytes of `x` from index `a` on, little-endian (R6). -/
def State.setBytes (s : State) (a x : Nat) : Nat → State
  | 0 => s
  | n + 1 => (s.setByte a (BitVec.ofNat 8 x)).setBytes (a + 1) (x / 256) n

/-- Memory in canonical form: addresses strictly rising and no byte listed that equals what is unlisted. -/
abbrev Memory.wf (m : List Host.Cell) : Prop := SMap.wf m (0 : Byte) = true

/-- Byte `off` … `off + n − 1` of a structure held as one little-endian number. -/
def fld (x off n : Nat) : Nat := x / 2 ^ (8 * off) % 2 ^ (8 * n)

/-- The low `n` bytes of a number, lowest first. -/
def bytesOf (n x : Nat) : List Nat := (List.range n).map (fun i => fld x i 1)

/-- The structure with the `n` bytes from `off` on replaced by those of `v`. -/
def setFld (x off n v : Nat) : Nat := x - fld x off n * 2 ^ (8 * off) + v % 2 ^ (8 * n) * 2 ^ (8 * off)

/-- Bits `hi` down to `lo` of a number. -/
def bitsOf (x hi lo : Nat) : Nat := x / 2 ^ lo % 2 ^ (hi + 1 - lo)

/-- The signed value of a number of `w` bits. -/
def signedOf (w x : Nat) : Int := (IntFmt.mk true w).read x

/-- The storage index of byte `o` of vault `v` of die `d` (R148; log 7). -/
def vaultIdx (d v o : Nat) : Nat := 2 ^ 52 + (d * 8 + v) * 2 ^ 24 + o

/-- The storage index of byte `o` of the pool of package core `c` (R148; log 7). -/
def poolIdx (c o : Nat) : Nat := 2 ^ 53 + c * 2 ^ 18 + o

end Sys2Proof.Machine
end

