-- ==== Sys2Proof/Machine/Sha.lean ====
section
/-! DEFINITION. SHA-512 and HMAC-SHA-512 (R417, R425, R426, R448).

The manual names both and does not restate them; they are written here from their public standards, FIPS 180-4 and FIPS 198-1 (PRESUMED, log 35). -/

namespace Sys2Proof.Machine

/-- The initial hash value of SHA-512. -/
def shaInit : List DWord :=
  [0x6a09e667f3bcc908, 0xbb67ae8584caa73b, 0x3c6ef372fe94f82b, 0xa54ff53a5f1d36f1,
   0x510e527fade682d1, 0x9b05688c2b3e6c1f, 0x1f83d9abfb41bd6b, 0x5be0cd19137e2179]

/-- Round constants 0 to 15 of SHA-512. -/
def shaK0 : List DWord :=
  [0x428a2f98d728ae22, 0x7137449123ef65cd, 0xb5c0fbcfec4d3b2f, 0xe9b5dba58189dbbc,
   0x3956c25bf348b538, 0x59f111f1b605d019, 0x923f82a4af194f9b, 0xab1c5ed5da6d8118,
   0xd807aa98a3030242, 0x12835b0145706fbe, 0x243185be4ee4b28c, 0x550c7dc3d5ffb4e2,
   0x72be5d74f27b896f, 0x80deb1fe3b1696b1, 0x9bdc06a725c71235, 0xc19bf174cf692694]

/-- Round constants 16 to 31 of SHA-512. -/
def shaK1 : List DWord :=
  [0xe49b69c19ef14ad2, 0xefbe4786384f25e3, 0x0fc19dc68b8cd5b5, 0x240ca1cc77ac9c65,
   0x2de92c6f592b0275, 0x4a7484aa6ea6e483, 0x5cb0a9dcbd41fbd4, 0x76f988da831153b5,
   0x983e5152ee66dfab, 0xa831c66d2db43210, 0xb00327c898fb213f, 0xbf597fc7beef0ee4,
   0xc6e00bf33da88fc2, 0xd5a79147930aa725, 0x06ca6351e003826f, 0x142929670a0e6e70]

/-- Round constants 32 to 47 of SHA-512. -/
def shaK2 : List DWord :=
  [0x27b70a8546d22ffc, 0x2e1b21385c26c926, 0x4d2c6dfc5ac42aed, 0x53380d139d95b3df,
   0x650a73548baf63de, 0x766a0abb3c77b2a8, 0x81c2c92e47edaee6, 0x92722c851482353b,
   0xa2bfe8a14cf10364, 0xa81a664bbc423001, 0xc24b8b70d0f89791, 0xc76c51a30654be30,
   0xd192e819d6ef5218, 0xd69906245565a910, 0xf40e35855771202a, 0x106aa07032bbd1b8]

/-- Round constants 48 to 63 of SHA-512. -/
def shaK3 : List DWord :=
  [0x19a4c116b8d2d0c8, 0x1e376c085141ab53, 0x2748774cdf8eeb99, 0x34b0bcb5e19b48a8,
   0x391c0cb3c5c95a63, 0x4ed8aa4ae3418acb, 0x5b9cca4f7763e373, 0x682e6ff3d6b2b8a3,
   0x748f82ee5defb2fc, 0x78a5636f43172f60, 0x84c87814a1f0ab72, 0x8cc702081a6439ec,
   0x90befffa23631e28, 0xa4506cebde82bde9, 0xbef9a3f7b2c67915, 0xc67178f2e372532b]

/-- Round constants 64 to 79 of SHA-512. -/
def shaK4 : List DWord :=
  [0xca273eceea26619c, 0xd186b8c721c0c207, 0xeada7dd6cde0eb1e, 0xf57d4f7fee6ed178,
   0x06f067aa72176fba, 0x0a637dc5a2c898a6, 0x113f9804bef90dae, 0x1b710b35131c471b,
   0x28db77f523047d84, 0x32caab7b40c72493, 0x3c9ebe0a15c9bebc, 0x431d67c49c100d4c,
   0x4cc5d4becb3e42b6, 0x597f299cfc657e2a, 0x5fcb6fab3ad6faec, 0x6c44198c4a475817]

/-- The round constants of SHA-512. -/
def shaK : List DWord := shaK0 ++ shaK1 ++ shaK2 ++ shaK3 ++ shaK4

/-- Rotate right. -/
def rotr (x : DWord) (n : Nat) : DWord := x >>> n ||| x <<< (64 - n)

/-- The working variables of SHA-512, a to h. -/
structure ShaVars where
  a : DWord
  b : DWord
  c : DWord
  d : DWord
  e : DWord
  f : DWord
  g : DWord
  h : DWord
  deriving DecidableEq, Repr

/-- One round with a round constant and a schedule word. -/
def ShaVars.round (v : ShaVars) (k w : DWord) : ShaVars :=
  let t1 := v.h + (rotr v.e 14 ^^^ rotr v.e 18 ^^^ rotr v.e 41) + ((v.e &&& v.f) ^^^ (~~~v.e &&& v.g)) + k + w
  let t2 := (rotr v.a 28 ^^^ rotr v.a 34 ^^^ rotr v.a 39) + ((v.a &&& v.b) ^^^ (v.a &&& v.c) ^^^ (v.b &&& v.c))
  ⟨t1 + t2, v.a, v.b, v.c, v.d + t1, v.e, v.f, v.g⟩

/-- The schedule word that enters a window of sixteen. -/
def shaNext (w : List DWord) : DWord :=
  let x := w.getD 14 0
  let y := w.getD 1 0
  (rotr x 19 ^^^ rotr x 61 ^^^ x >>> 6) + w.getD 9 0 + (rotr y 1 ^^^ rotr y 8 ^^^ y >>> 7) + w.headD 0

/-- The rounds over the remaining constants; `w` holds the next sixteen schedule words. -/
def shaRounds : List DWord → List DWord → ShaVars → ShaVars
  | [], _, v => v
  | k :: ks, w, v => shaRounds ks (w.drop 1 ++ [shaNext w]) (v.round k (w.headD 0))

/-- The bytes as one big-endian number. -/
def bigEndian (bs : List Nat) : Nat := bs.foldl (fun n b => n * 256 + b) 0

/-- The sixteen words of a block of 128 bytes, most significant byte first. -/
def shaWords (bs : List Nat) : List DWord := (List.range 16).map (fun i => BitVec.ofNat 64 (bigEndian ((bs.drop (8 * i)).take 8)))

/-- The hash value after one block of 128 bytes. -/
def shaBlock (h : List DWord) (bs : List Nat) : List DWord :=
  let at_ (i : Nat) : DWord := h.getD i 0
  let v := shaRounds shaK (shaWords bs) ⟨at_ 0, at_ 1, at_ 2, at_ 3, at_ 4, at_ 5, at_ 6, at_ 7⟩
  List.zipWith (· + ·) h [v.a, v.b, v.c, v.d, v.e, v.f, v.g, v.h]

/-- The hash value after `n` blocks. -/
def shaBlocks (h : List DWord) (bs : List Nat) : Nat → List DWord
  | 0 => h
  | n + 1 => shaBlocks (shaBlock h (bs.take 128)) (bs.drop 128) n

/-- The digest bytes of a hash value, most significant byte of each word first. -/
def shaBytes (h : List DWord) : List Nat := h.flatMap (fun w => (List.range 8).map (fun i => w.toNat / 2 ^ (56 - 8 * i) % 256))

/-- The message with its padding: 0x80, zeros, and the length in bits in sixteen bytes, to a whole number of blocks. -/
def shaPadded (m : List Nat) : List Nat :=
  let n := m.length
  m ++ 0x80 :: List.replicate ((239 - n % 128) % 128) 0 ++ (List.range 16).map (fun i => 8 * n / 2 ^ (120 - 8 * i) % 256)

/-- SHA-512 of bytes, as its 64 bytes. -/
def sha512Bytes (m : List Nat) : List Nat := shaBytes (shaBlocks shaInit (shaPadded m) ((m.length + 17 + 127) / 128))

/-- Bytes as a little-endian number. -/
def littleEndian (bs : List Nat) : Nat := bs.foldr (fun b n => b + 256 * n) 0

/-- SHA-512 of bytes, as a little-endian number of 64 bytes (R425, R448). -/
def sha512 (m : List Nat) : Nat := littleEndian (sha512Bytes m)

/-- A key of HMAC as a block of 128 bytes. -/
def hmacKey (key : List Nat) : List Nat :=
  let k := if 128 < key.length then sha512Bytes key else key
  k ++ List.replicate (128 - k.length) 0

/-- HMAC-SHA-512 of bytes under a key, as its 64 bytes (R417). -/
def hmacSha512 (key m : List Nat) : List Nat :=
  let k := hmacKey key
  sha512Bytes (k.map (· ^^^ 0x5C) ++ sha512Bytes (k.map (· ^^^ 0x36) ++ m))

end Sys2Proof.Machine
end

