-- ==== Sys2Proof/Machine/Rings.lean ====
section
/-! DEFINITION. Writing events into the recorder's rings (R416 to R420), and counting (R433). -/

namespace Sys2Proof.Machine

/-! ## Rings -/

/-- The ring of die `d`'s foreman (R416). -/
def foremanRing (d : Nat) : Nat := 0x100 + d

/-- The ring of the head foreman (R416). -/
def headRing : Nat := 0x1FF

/-- The events that a ring holds (R416). -/
def ringCapacity (n : Nat) : Nat := if n < 192 then 4096 else 65536

/-- Ring `n`. -/
def State.ring (s : State) (n : Nat) : Ring := s.rings.getD n Ring.blank

/-- An event (Table 18.1): stamp, tenant tag, class, type, who, payload. -/
def eventOf (clock tag cls type who payload : Nat) : BitVec 128 :=
  BitVec.ofNat 128 (layout [(4, clock), (2, tag % 4096 + 4096 * cls), (1, type), (1, who), (8, payload)])

/-- One step of a ring's MAC (R417): the first eight bytes of the HMAC of M and the event under the boot's key, taken little-endian (log 35). -/
def ringMac (boot : Nat) (m : DWord) (e : BitVec 128) : DWord :=
  BitVec.ofNat 64 (littleEndian ((hmacSha512 (Config.ringKey boot) (bytesOf 8 m.toNat ++ bytesOf 16 e.toNat)).take 8))

/-- An event enters a ring, which drops its oldest when it is full (R416, R417); a frozen ring discards and counts it
(R422). -/
def Ring.push (r : Ring) (boot cap : Nat) (e : BitVec 128) : Ring :=
  if r.frozen.isSome then { r with discarded := r.discarded + 1 }
  else { r with
    events := (e :: r.events).take cap
    written := r.written + 1
    mac := ringMac boot r.mac e
    macs := (r.mac :: r.macs).take cap
    lost := r.lost.filter (fun n => decide (r.written < n + cap)) }

/-- The MAC recomputed over the events that the ring holds, from the one saved with the oldest (R417). -/
def Ring.recomputed (r : Ring) (boot : Nat) : DWord := r.events.reverse.foldl (ringMac boot) (r.macs.getLastD r.mac)

/-- The two values of the MAC agree (R417). -/
def Ring.agrees (r : Ring) (boot : Nat) : Bool := decide (r.recomputed boot = r.mac)

/-- Entry `n` of a ring, counted from the oldest, gets an error that cannot be corrected (R416): what it reads as is free. -/
def Ring.spoil (r : Ring) (n : Nat) (x : BitVec 128) : Ring :=
  if r.events.length ≤ n then r
  else { r with
    events := r.events.set (r.events.length - 1 - n) x
    lost := (r.written - r.events.length + n) :: r.lost.filter (· ≠ r.written - r.events.length + n) }

/-- The turn of such an error. -/
def State.ringError (s : State) (ring n : Nat) : State :=
  let x := s.takeFree
  let y := x.2.takeFree
  { y.2 with rings := y.2.rings.setD ring ((y.2.ring ring).spoil n (x.1 ++ y.1)) Ring.blank }

/-- Record an event in ring `n` (R418, R419). -/
def State.record (s : State) (n tag cls type who payload : Nat) : State :=
  let r := (s.ring n).push s.boots (ringCapacity n) (eventOf s.clock tag cls type who payload)
  { s with rings := s.rings.setD n r Ring.blank }

/-- The tenant tag of a context (R418). -/
def State.tag (s : State) (cn : Nat) : Nat := bitsOf (s.ctx cn).tenant.toNat 11 0

/-- Record an event of the crew at key `k` in its core's ring. -/
def State.recordCrew (s : State) (k cls type payload : Nat) : State :=
  s.record (k / 64) (s.tag (s.crews.getD k Crew.blank).ctx) cls type (k % 64) payload

/-- Record an event in a foreman's ring, with the tag of the context that caused it, or 0 where the foreman did (R418). -/
def State.recordForeman (s : State) (die tag cls type payload : Nat) : State :=
  s.record (foremanRing die) tag cls type 0 payload

/-- The MODESW event of a region (Table 18.2), in its control crew's core; it names no PC, and bit 7 of who is 1 (R429;
log 47). -/
def State.recordMode (s : State) (k : Nat) (r : Region) (kind reason : Nat) : State :=
  s.record (k / 64) (s.tag r.ctx) 0 3 (k % 64 + 128)
    (r.regionId + (s.core (k / 64)).version.toNat * 2 ^ 16 + kind * 2 ^ 32 + reason * 2 ^ 40)

/-- Bits 56:2 of an address, as PCs stand in events. -/
def pcBits (pc : Nat) : Nat := bitsOf pc 56 2

/-! ## Freezing -/

/-- The tenants with a crew on a core (R427). -/
def State.tenantsOn (s : State) (core : Nat) : List Nat :=
  ((s.crews.filter (fun e => decide (e.1 / 64 = core))).map (fun e => s.tag e.2.ctx)).dedup

/-- A ring freezes at a position (R422): its FREEZE event is its last entry. -/
def State.freezeRing (s : State) (n origin cause pos : Nat) : State :=
  let s := s.record n 0 15 0 0 (origin + min pos 255 * 2 ^ 16 + cause * 2 ^ 24)
  let r := { s.ring n with frozen := some (pos, BitVec.ofNat 32 s.clock) }
  { s with rings := s.rings.setD n r Ring.blank }

/-- The rings of die `d` in freeze order: its live cores, then its foreman (R422). -/
def State.dieRings (s : State) (d : Nat) : List Nat :=
  if s.dieLive d then
    ((List.range 24).map (fun i => d * 24 + i)).filter s.coreLive ++ [foremanRing d]
  else []

/-- The dies in the order in which a freeze reaches them (R422): from the origin's die on; the head foreman counts as being
before die 0 (log 47). -/
def freezeDies (n : Nat) : List Nat :=
  let o := if n < 192 then n / 24 else if n = headRing then 0 else n - 0x100
  (List.range 8).map (fun i => (o + i) % 8)

/-- A freeze trigger (R421, R423): the origin's ring freezes at once and the others follow by FREEZE_BROADCAST; during a
freeze or a seal it only counts, and a device-fatal one leaves the recorders frozen.  After a device-fatal seal the package waits for a
warm reset (R454), and a trigger starts nothing. -/
def State.trigger (s : State) (origin cause : Nat) (tval : DWord) : State :=
  let fatal := decide (0x80 ≤ cause ∧ cause ≤ 0x83)
  match s.freeze with
  | some f => { s with freeze := some { f with further := f.further + 1, stay := f.stay || fatal } }
  | none =>
    if s.service.fatal then s
    else
    let order := ((freezeDies origin).flatMap s.dieRings ++ [headRing]).filter (fun n => decide (n ≠ origin))
    let s := s.freezeRing origin origin cause 0
    { s with freeze := some ⟨origin, cause, tval, s.clock, 0, order, 1, fatal, fatal,
      if origin < 192 then [(origin, s.tenantsOn origin)] else []⟩ }

/-! ## Telling the host -/

/-- Function `n` (0 the PF). -/
def State.func (s : State) (n : Nat) : Func := s.funcs.getD n Func.blank

/-- Change a function. -/
def State.mapFunc (s : State) (n : Nat) (f : Func → Func) : State :=
  { s with funcs := s.funcs.setD n (f (s.func n)) Func.blank }

/-- The function raises an MSI-X vector (R440). -/
def Func.raise (f : Func) (v : Nat) : Func := { f with irqs := v :: f.irqs }

/-- A control record of a kind with a 32-byte payload enters a function's outbox under the next number (R444). -/
def State.postRecord (s : State) (n kind payload : Nat) : State :=
  s.mapFunc n (fun f =>
    { f with seq := f.seq + 1, outbox := f.outbox ++ [layout [(2, kind), (6, 0), (8, f.seq + 1), (32, payload)]] })

/-! ## Counters -/

/-- Add `n` to counter `k` of a core (R433): it wraps at 2^48, and a wrap sets its bit in CNTOVF of the contexts of the
current function (log 32) and, where the counter's interrupt bit is set, posts the overflow record and raises vector 3
(R440, R444). -/
def State.bump (s : State) (core k n : Nat) : State :=
  let x := (s.core core).ctrs.getD k Counter.zero
  let s := s.mapCore core (fun c => { c with
    ctrs := c.ctrs.setD k { x with count := (x.count + n) % 2 ^ 48 } Counter.zero })
  if x.count + n < 2 ^ 48 then s
  else
    let s : State := { s with ctxs := s.ctxs.mapVals (fun (c : Ctx) =>
      if c.owner = s.current then { c with cntovf := c.cntovf ||| (1 <<< k) } else c) }
    if x.cfg.testBit 17 then
      let ovf := s.ctxs.foldl (fun n e => if e.2.owner = s.current then n ||| e.2.cntovf.toNat else n) 0
      (s.postRecord s.current 3 (ovf + core * 2 ^ 32)).mapFunc s.current (fun f => f.raise 3)
    else s

/-- A programmable counter counts an event of a task's crew (R435). -/
def Counter.counts (c : Counter) (code task : Nat) : Bool :=
  decide (bitsOf c.cfg 15 0 = code) && c.cfg.testBit 16 && (!c.cfg.testBit 19 || decide (c.task = task))

/-- An event that the counters of a core can count (Table 18.6). -/
def State.countEvent (s : State) (core code task n : Nat) : State :=
  ((s.core core).ctrs.filter (fun e => decide (e.1 < 8) && e.2.counts code task)).foldl (fun s e => s.bump core e.1 n) s

end Sys2Proof.Machine
end

