-- ==== Sys2Proof/Machine/Memory.lean ====
section
/-! DEFINITION. Addresses, translation and accesses: windows and pages (R146 to R160, R483), classification (R153),
fault records and parking (R161 to R169), the L1 cache (R481), and the accesses a crew has outstanding (R184 to R215;
log 8, log 9). -/

namespace Sys2Proof.Machine

/-! ## Translation -/

/-- What an access needs of a leaf (R160). -/
inductive Need where
  | read | write | both | exec | nothing
  deriving DecidableEq, Repr

/-- A leaf's permissions meet the need. -/
def TlbEntry.permits (e : TlbEntry) : Need → Bool
  | .read => e.rd
  | .write => e.w
  | .both => e.rd && e.w
  | .exec => e.x
  | .nothing => true

/-- How one address translates: the rows of Table 7.3 but alignment and poison. -/
inductive Xlat where
  | ok (loc : Loc)
  | access
  | bad
  | absent (kind level pte : Nat)
  deriving DecidableEq, Repr

/-- The outcome of a page walk (R156, R157). -/
inductive Walk where
  | leaf (e : TlbEntry)
  | malformed
  | invalid (kind level pte entry : Nat)
  deriving DecidableEq, Repr

/-- The pool mapping that is registered against a physical byte (R173): core, handle, pool offset. -/
def State.pooled (s : State) (pa : Nat) : Option (Nat × Nat × Nat) :=
  s.cores.findSome? (fun c => c.2.pools.findSome? (fun m =>
    if m.2.revoked then none
    else (m.2.runs.find? (fun r => decide (r.1 ≤ pa ∧ pa < r.1 + r.2.1))).map (fun r => (c.1, m.1, r.2.2 + (pa - r.1)))))

/-- The L2 slices that the home hash ranges over (R13, R26): those of the live dies, by package slice number. -/
def State.slices (s : State) : List Nat := (List.range 512).filter (fun k => s.dieLive (k / 64))

/-- The home L2 slice of a physical line (R482; log 11): in each aligned group of as many lines as there are slices, every slice is the home
of one line, which the device's own ranking gives. -/
def State.homeSlice (s : State) (line : Nat) : Nat :=
  let n := s.slices.length
  let key (i : Nat) : Nat := Config.homeKey s.service.hashVersion s.liveDies i
  let base := line / n * n
  s.slices.getD ((List.range n).countP (fun i =>
    decide (key (base + i) < key line) || (decide (key (base + i) = key line) && decide (base + i < line)))) 0

/-- The home die of a physical line (R13, R482). -/
def State.homeDie (s : State) (line : Nat) : Nat := s.homeSlice line / 64

/-- The L2 set of a physical line: its home slice and its set there, one of the 256 of a slice of 512 KiB and 16 ways (R12, R171). -/
def State.l2Set (s : State) (line : Nat) : Nat := s.homeSlice line * 256 + Config.l2Set line % 256

/-- The storage index of the point of coherence of a physical byte (Table 8.2). -/
def State.poc (s : State) (pa : Nat) : Nat :=
  match s.pooled pa with
  | some (core, _, off) => poolIdx core off
  | none => pa

/-- `n` bytes at a physical address, read at their points of coherence, as the agents of the package read them. -/
def State.physBytes (s : State) (pa : Nat) : Nat → Nat
  | 0 => 0
  | n + 1 => (s.byte (s.poc pa)).toNat + 256 * s.physBytes (pa + 1) n

/-- Write the low `n` bytes of `x` at a physical address, at their points of coherence. -/
def State.setPhysBytes (s : State) (pa x : Nat) : Nat → State
  | 0 => s
  | n + 1 => (s.setByte (s.poc pa) (BitVec.ofNat 8 x)).setPhysBytes (pa + 1) (x / 256) n

/-- One page-table entry with V = 1 that is malformed in itself (Table 7.5). -/
def pteMalformed (e level : Nat) : Bool :=
  decide (bitsOf e 63 52 ≠ 0) || decide (bitsOf e 12 7 ≠ 0) ||
  ((e.testBit 3 || e.testBit 4) && !e.testBit 2) ||
  (e.testBit 5 && !(decide (level = 0) && e.testBit 1)) ||
  (e.testBit 1 && decide (2 ≤ level)) || (!e.testBit 1 && decide (level = 0))

/-- The walk from a node at level `n − 1` (R156, R158).  A node at or above 2^40, which no stack backs, makes the walk end as a malformed entry
does (log 66).  A C-leaf gives the 4 MiB block in which it has its place; one that has not that place in a block, in a group that breaks
R158, gives its own 128 KiB. -/
def State.walkFrom (s : State) (cn va : Nat) : Nat → Nat → Walk
  | 0, _ => .malformed
  | lv + 1, node =>
    let pa := node + 8 * (va / 2 ^ (17 + 10 * lv) % 1024)
    if 2 ^ 40 ≤ node then .malformed
    else
      let e := s.physBytes pa 8
      if !e.testBit 0 then .invalid (bitsOf e 2 1) lv pa e
      else if pteMalformed e lv then .malformed
      else if !e.testBit 1 then s.walkFrom cn va lv (bitsOf e 51 13 * 2 ^ 13)
      else
        let base := bitsOf e 51 13 * 2 ^ 13
        let size := if lv = 1 then 2 ^ 27 else 2 ^ 17
        if base % size ≠ 0 ∨ 2 ^ 40 ≤ base then .malformed
        else if e.testBit 5 && decide (base / 2 ^ 17 % 32 = va / 2 ^ 17 % 32) then
          .leaf ⟨cn, va / 2 ^ 22 * 2 ^ 22, 2 ^ 22, base - va / 2 ^ 17 % 32 * 2 ^ 17, e.testBit 2, e.testBit 3,
            e.testBit 4, e.testBit 6⟩
        else .leaf ⟨cn, va / size * size, size, base, e.testBit 2, e.testBit 3, e.testBit 4, e.testBit 6⟩

/-- The walk of a context's page tables for an address. -/
def State.walk (s : State) (cn va : Nat) : Walk := s.walkFrom cn va 4 (bitsOf (s.ctx cn).ptroot.toNat 51 13 * 2 ^ 13)

/-- The entry covers the address in the context. -/
def TlbEntry.covers (e : TlbEntry) (cn va : Nat) : Bool :=
  decide (e.ctx = cn) && decide (e.va ≤ va) && decide (va < e.va + e.size)

/-- Where a window address lands (R147, R148): none outside the windows, `some none` where it traps ACCESS. -/
def State.window (s : State) (cn va : Nat) : Option (Option Nat) :=
  let c := s.ctx cn
  let vb := bitsOf c.vaultbase.toNat 56 30 * 2 ^ 30
  let pb := bitsOf c.poolbase.toNat 56 26 * 2 ^ 26
  if c.vaultbase.getLsbD 0 && decide (vb ≤ va) && decide (va < vb + 2 ^ 30) then
    let o := va - vb
    some (if s.vaultLive (o / 2 ^ 24) then some (vaultIdx (o / 2 ^ 27) (o / 2 ^ 24 % 8) (o % 2 ^ 24)) else none)
  else if c.poolbase.getLsbD 0 && decide (pb ≤ va) && decide (va < pb + 48 * 2 ^ 20) then
    let o := va - pb
    some (if s.coreLive (o / 2 ^ 18) then some (poolIdx (o / 2 ^ 18) (o % 2 ^ 18)) else none)
  else none

/-- What a leaf gives for an address: offline stacks and permissions (R160, R483). -/
def State.throughLeaf (s : State) (e : TlbEntry) (va : Nat) (need : Need) : Xlat :=
  let pa := e.pa + (va - e.va)
  if !s.stackLive (pa / 2 ^ 36) || !e.permits need then .access
  else
    let i := s.poc pa
    .ok ⟨i, decide (i = pa)⟩

/-- A full cache of translations: one of the others leaves for a new entry, whichever `pick` says (R16, R159; log 9). -/
def tlbWith (cap pick : Nat) (e : TlbEntry) (l : List TlbEntry) : List TlbEntry :=
  let l := l.filter (· ≠ e)
  e :: (if l.length < cap then l else l.eraseIdx (pick % l.length))

/-- Hold a translation in the caches of a core and its die, and in a lane's last-page register (R159); which entry leaves a full cache is
free (log 9). -/
def State.holdTlb (s : State) (core : Nat) (lane : Option (Nat × Nat)) (e : TlbEntry) : State :=
  let (pick, s) := if (s.core core).tlb.length < 64 ∧ (s.die (dieOf core)).tlb.length < 8192 then ((0 : DWord), s) else s.takeFree
  let s := s.mapCore core (fun c => { c with tlb := tlbWith 64 (pick.toNat % 2 ^ 32) e c.tlb })
  let s := s.mapDie (dieOf core) (fun d => { d with tlb := tlbWith 8192 (pick.toNat / 2 ^ 32) e d.tlb })
  match lane with
  | some (k, l) => s.mapCrewAt k (fun c => { c with lastPage := c.lastPage.insert l e })
  | none => s

/-- The lane's last-page register, where it covers the address (R159). -/
def State.lastPage (s : State) (lane : Option (Nat × Nat)) (cn va : Nat) : Option TlbEntry :=
  lane.bind (fun kl => (s.crews.get? kl.1).bind (fun c => (c.lastPage.get? kl.2).filter (fun e => e.covers cn va)))

/-- Which TLBs of a core have missed (Table 18.6): none, the core's, or the die's as well. -/
inductive TlbMiss where
  | neither | core | both
  deriving DecidableEq, Repr

/-- The translation that a core's TLBs give, if any, and which of them missed (R159): an entry of the core TLB or the die TLB, each of which
may have been replaced (log 9). -/
def State.heldTlb (s : State) (core cn va : Nat) : (Option TlbEntry × TlbMiss) × State :=
  match (s.core core).tlb.find? (fun e => e.covers cn va), (s.die (dieOf core)).tlb.find? (fun e => e.covers cn va) with
  | none, none => ((none, .both), s)
  | some e, none => (if s.takeFree.1.getLsbD 0 then (some e, .neither) else (none, .both), s.takeFree.2)
  | none, some e => (if s.takeFree.1.getLsbD 0 then (some e, .core) else (none, .both), s.takeFree.2)
  | some e, some e' =>
    let (b, s) := s.takeFree
    (if b.getLsbD 0 then (some e, .neither) else if b.getLsbD 1 then (some e', .core) else (none, .both), s)

/-- The counters of a core count the TLB misses of an access (Table 18.6): those of a crew's access count for its task. -/
def State.countTlb (s : State) (core : Nat) (lane : Option (Nat × Nat)) (m : TlbMiss) : State :=
  let task := (lane.bind (fun kl => s.crews.get? kl.1)).elim noTask Crew.task
  match m with
  | .neither => s
  | .core => s.countEvent core 0x1002 task 1
  | .both => (s.countEvent core 0x1002 task 1).countEvent core 0x1003 task 1

/-- Translate an address for a core's agent in a context; `lane` is the crew key and lane whose last-page register serves and, where it covers
the address, skips the TLBs (R146, R159). -/
def State.xlate (s : State) (core : Nat) (lane : Option (Nat × Nat)) (cn va : Nat) (need : Need) : Xlat × State :=
  if 2 ^ 57 ≤ va then (.access, s)
  else
    match s.window cn va with
    | some (some i) => (if need = .exec then .access else .ok ⟨i, false⟩, s)
    | some none => (.access, s)
    | none =>
      match s.lastPage lane cn va with
      | some e => (s.throughLeaf e va need, s)
      | none =>
        match s.heldTlb core cn va with
        | ((some e, m), s) => (s.throughLeaf e va need, (s.countTlb core lane m).holdTlb core lane e)
        | ((none, m), s) =>
          let s := s.countTlb core lane m
          match s.walk cn va with
          | .malformed => (.bad, s)
          | .invalid kind level pte _ => (if kind = 0 then .bad else .absent kind level pte, s)
          | .leaf e => (s.throughLeaf e va need, s.holdTlb core lane e)

/-- Translate by a walk alone, filling nothing: what the foreman, the homes and the hints do. -/
def State.xlateWalk (s : State) (cn va : Nat) (need : Need) : Xlat :=
  if 2 ^ 57 ≤ va then .access
  else
    match s.window cn va with
    | some (some i) => .ok ⟨i, false⟩
    | some none => .access
    | none =>
      match s.walk cn va with
      | .malformed => .bad
      | .invalid kind level pte _ => if kind = 0 then .bad else .absent kind level pte
      | .leaf e => s.throughLeaf e va need

/-! ## Classification -/

/-- One lane's address, classified. -/
structure LaneXlat where
  lane : Nat
  va : Nat
  x : Xlat
  deriving DecidableEq, Repr

/-- The outcome of Table 7.3 over the lanes of an access. -/
inductive Class where
  | trap (cause : Nat) (tval : DWord)
  | go (done absent : List LaneXlat)
  deriving DecidableEq, Repr

/-- The lanes' addresses translated in turn. -/
def State.xlateAll (s : State) (core : Nat) (key : Option Nat) (cn : Nat) (need : Need) :
    List (Nat × Nat) → List LaneXlat × State
  | [] => ([], s)
  | (l, va) :: rest =>
    let (x, s) := s.xlate core (key.map (fun k => (k, l))) cn va need
    let (xs, s) := s.xlateAll core key cn need rest
    (⟨l, va, x⟩ :: xs, s)

/-- The place is in a line whose data is uncorrectable (row 4 of Table 7.3). -/
def State.poisoned (s : State) (i size : Nat) : Bool :=
  s.poison.any (fun n => decide (i / 128 ≤ n ∧ n ≤ (i + size - 1) / 128))

/-- The place of a lane that translated. -/
def LaneXlat.loc (x : LaneXlat) : Loc :=
  match x.x with
  | .ok l => l
  | _ => ⟨0, false⟩

/-- A lane's page is absent and can be served (row 5). -/
def LaneXlat.isAbsent (x : LaneXlat) : Bool :=
  match x.x with
  | .absent _ _ _ => true
  | _ => false

/-- A buffer is shared with the siblings of the coppice of a sibling (R364). -/
def Buffer.sharedWith (b : Buffer) (c : Crew) : Bool :=
  decide (b.task = c.task) && c.sib.sibling && b.share.any (fun first => decide (c.number = first + c.sib.index))

/-- A window place holds a byte of a live buffer that the executing crew may not touch (R348, R364): another crew owns
it, and it is no load of a sibling with which it is shared. -/
def State.buffered (s : State) (cn va size : Nat) (need : Need) : Bool :=
  match s.window cn va with
  | some (some i) =>
    let c := s.crew
    let off := (i - 2 ^ 53) % 2 ^ 18
    decide (2 ^ 53 ≤ i) && (s.core ((i - 2 ^ 53) / 2 ^ 18)).buffers.any (fun b =>
      decide (b.2.off < off + size ∧ off < b.2.off + b.2.len) && decide (b.2.task ≠ c.task ∨ b.2.owner ≠ c.number) &&
      !(decide (need = .read) && b.2.sharedWith c))
  | _ => false

/-- Classify the lanes of an access of `size` bytes (Table 7.3, R348): the first row that matches any lane decides, with the
address of the lowest-numbered lane that matches it. -/
def State.classify (s : State) (core : Nat) (key : Option Nat) (cn size : Nat) (need : Need) (isLoad : Bool)
    (lanes : List (Nat × Nat)) : Class × State :=
  match lanes.find? (fun l => decide (l.2 % size ≠ 0)) with
  | some l => (.trap 0x02 (BitVec.ofNat 64 l.2), s)
  | none =>
    let (xs, s) := s.xlateAll core key cn need lanes
    match xs.find? (fun x => decide (x.x = .access)) with
    | some x => (.trap 0x03 (BitVec.ofNat 64 x.va), s)
    | none =>
      match xs.find? (fun x => s.buffered cn x.va size need) with
      | some x => (.trap 0x09 (BitVec.ofNat 64 x.va), s)
      | none =>
        match xs.find? (fun x => decide (x.x = .bad)) with
        | some x => (.trap 0x04 (BitVec.ofNat 64 x.va), s)
        | none =>
          match xs.find? (fun x => isLoad && !x.isAbsent && s.poisoned x.loc.idx size) with
          | some x => (.trap 0x0E (BitVec.ofNat 64 x.va), s)
          | none => (.go (xs.filter (fun x => !x.isAbsent)) (xs.filter LaneXlat.isAbsent), s)

/-! ## Fault records and parking -/

/-- The FAULT event of a record (Table 18.2): 0 sent, 1 served, 2 refused.  One of a spatial slot names the slot, with bit 7 of who (R429). -/
def State.recordFault (s : State) (r : FaultRec) (what : Nat) : State :=
  s.record r.core (s.tag r.ctx) 1 0 r.who
    (bitsOf r.va 56 17 + r.kind * 2 ^ 40 + r.access * 2 ^ 42 + what * 2 ^ 44)

/-- A fault record enters its die's queue, or waits in its core while the queue is full (R169). -/
def State.sendFault (s : State) (r : FaultRec) : State :=
  let s := (s.recordFault r 0).countEvent r.core 0x1004 r.task 1
  let d := dieOf r.core
  if (s.die d).faults.length < 1024 then
    s.mapDie d (fun x => { x with faults := x.faults ++ [{ r with entered := s.clock }] })
  else s.mapCore r.core (fun c => { c with faultWait := c.faultWait ++ [r] })

/-- The page of an address, as fault records name it (R163). -/
def pageOf (va : Nat) : Nat := va / 2 ^ 17 * 2 ^ 17

/-- The access code of a fault record (R163). -/
def Need.code : Need → Nat
  | .write => 1
  | .both => 1
  | .exec => 2
  | _ => 0

/-- One fault record for each distinct page of the absent addresses (R161), from a crew slot or, with slot 0xFF, from another agent of a task. -/
def State.sendFaultsOf (s : State) (core slot who task cn : Nat) (need : Need) (xs : List LaneXlat) : State :=
  (xs.foldl (fun (acc : State × List Nat) x =>
    if pageOf x.va ∈ acc.2 then acc
    else
      match x.x with
      | .absent kind level pte =>
        (acc.1.sendFault ⟨pageOf x.va, cn, kind, need.code, core, slot, level, pte, 0, false, 0, who, task⟩, pageOf x.va :: acc.2)
      | _ => acc) (s, [])).1

/-- The fault records of a crew's access (R161). -/
def State.sendFaults (s : State) (core slot cn : Nat) (need : Need) (xs : List LaneXlat) : State :=
  s.sendFaultsOf core slot slot (s.crews.getD (crewKey core slot) Crew.blank).task cn need xs

/-- The executing crew waits with replay mask `m` for the pages of absent addresses (R161). -/
def State.parkFor (s : State) (m : Mask) (fetch : Bool) (xs : List LaneXlat) : State :=
  s.mapCrew (fun c => { c with
    park := some
      { mask := m
        va := BitVec.ofNat 64 ((xs.head?.map LaneXlat.va).getD 0)
        pages := ((xs.map (fun x => pageOf x.va)).dedup).map (fun v => ⟨v, 0⟩)
        fetch := fetch } })

/-- The executing crew parks with replay mask `m` on the absent lanes' pages (R161). -/
def State.parkOn (s : State) (m : Mask) (need : Need) (xs : List LaneXlat) : State :=
  (s.sendFaults s.focusCore s.focusSlot s.crew.ctx need xs).parkFor m (decide (need = .exec)) xs

/-- One fault record for each distinct page of absent addresses to be read and to be written (R161, R219): for a page of both, that of the
write. -/
def State.sendBoth (s : State) (core slot who task cn : Nat) (xs ys : List LaneXlat) : State :=
  (s.sendFaultsOf core slot who task cn .write ys).sendFaultsOf core slot who task cn .read
    (xs.filter (fun x => !ys.any (fun y => decide (pageOf y.va = pageOf x.va))))

/-- The executing crew parks on absent pages that it would read and write (R161, R217). -/
def State.parkOnBoth (s : State) (xs ys : List LaneXlat) : State :=
  (s.sendBoth s.focusCore s.focusSlot s.focusSlot s.crew.task s.crew.ctx xs ys).parkFor s.crew.am false (xs ++ ys)

/-! ## L1 and the points of coherence -/

/-- The access counter of a page counts a line request from another die (R168). -/
def State.countPage (s : State) (core cn va idx : Nat) : State :=
  if 2 ^ 40 ≤ idx ∨ dieOf core = idx / 2 ^ 37 then s
  else
    let pg := idx / 2 ^ 17
    let c := s.pageCtr.getD pg PageCtr.zero
    let c := { c with
      count := min (c.count + 1) 0xFFFF
      byDie := c.byDie.mapIdx (fun i n => if i = dieOf core then min (n + 1) 0xFF else n)
      ctx := if c.queued then c.ctx else cn
      va := if c.queued then c.va else va }
    { s with pageCtr := s.pageCtr.setD pg c PageCtr.zero }

/-- The 16-byte notification of a page (R168). -/
def PageCtr.notification (c : PageCtr) : Nat :=
  layout [(8, bitsOf c.va 56 17 * 2 ^ 17 + c.ctx % 2 ^ 16), (8, layout (c.byDie.map (fun n => (1, n))))]

/-- The home posts a page's notification into the context's queue, or holds it back (R168, R169).  One that is dropped is lost: the queued bit is
set as by any other posting (log 115). -/
def State.postNotification (s : State) (pg : Nat) : State :=
  let c := s.pageCtr.getD pg PageCtr.zero
  let x := s.ctx c.ctx
  let k := bitsOf x.migq.toNat 3 0
  let tail := bitsOf x.migqht.toNat 31 16
  let head := bitsOf x.migqht.toNat 15 0
  let put (s : State) (c : PageCtr) := { s with pageCtr := s.pageCtr.setD pg c PageCtr.zero }
  if k = 0 then s
  else if (tail + 2 ^ 16 - head) % 2 ^ 16 = 2 ^ k then
    let s := if c.pending then s else s.mapCtx c.ctx (fun x => { x with
      migovf := if x.migovf = BitVec.allOnes 32 then x.migovf else x.migovf + 1 })
    put s { c with pending := true, queued := true }
  else
    let va := bitsOf x.migq.toNat 56 12 * 2 ^ 12 + 16 * (tail % 2 ^ k)
    match s.xlateWalk c.ctx va .write with
    | .ok l =>
      let s := s.setBytes l.idx c.notification 16
      let s := s.mapCtx c.ctx (fun x => { x with
        migqht := BitVec.ofNat 32 ((tail + 1) % 2 ^ 16 * 2 ^ 16 + head) })
      put s { c with pending := false, queued := true }
    | _ =>
      let s := s.mapCtx c.ctx (fun x => { x with
        migovf := if x.migovf = BitVec.allOnes 32 then x.migovf else x.migovf + 1
        migq := x.migq &&& ~~~(0xF : DWord) })
      put s { c with pending := false, queued := true }

/-- The physical byte that is registered to a byte of a core's pool (R173), as a storage index. -/
def State.behind (s : State) (idx : Nat) : Option Nat :=
  if idx < 2 ^ 53 then none
  else
    let off := (idx - 2 ^ 53) % 2 ^ 18
    (s.core ((idx - 2 ^ 53) / 2 ^ 18)).pools.findSome? (fun m =>
      if m.2.revoked then none
      else (m.2.runs.find? (fun r => decide (r.2.2 ≤ off ∧ off < r.2.2 + r.2.1))).map (fun r => r.1 + (off - r.2.2)))

/-- The physical byte of HBM-backed memory whose line an access of a place asks for (R168): none through a window. -/
def State.homeByte (s : State) (cn va : Nat) (loc : Loc) : Option Nat :=
  if loc.cached then some loc.idx else if (s.window cn va).isSome then none else s.behind loc.idx

/-- A line request of a core at a place: the counter counts, and at the threshold a notification is posted (R168); a counter that is above it
already posts at its next request (log 115). -/
def State.request (s : State) (core cn va : Nat) (loc : Loc) : State :=
  match s.homeByte cn va loc with
  | none => s
  | some pa =>
    let s := s.countPage core cn va pa
    let c := s.pageCtr.getD (pa / 2 ^ 17) PageCtr.zero
    let thr := bitsOf (s.ctx cn).migthr.toNat 15 0
    if thr ≠ 0 ∧ thr ≤ c.count ∧ c.queued = false then s.postNotification (pa / 2 ^ 17) else s

/-- The lines that an L1 of 128 KiB holds, and the 16-byte units that an instruction cache of 64 KiB holds (R16). -/
def l1Lines : Nat := 1024

/-- See `l1Lines`. -/
def icacheUnits : Nat := 4096

/-- A core's L1 takes a line from its point of coherence; where L1 is full, some line leaves (R16, R481; log 9). -/
def State.fillL1 (s : State) (core line : Nat) : State :=
  let x := s.bytes (line * 128) 128
  if (s.core core).l1.length < l1Lines then s.mapCore core (fun c => { c with l1 := c.l1.insert line x })
  else s.takeFree.2.mapCore core (fun c => { c with l1 := c.l1.insertWithin l1Lines s.takeFree.1.toNat line x })

/-- A plain load of `size` bytes within one line (R481): a held line may be hit or may have left; a miss fills.  Whether L1 missed is the
second part of the answer. -/
def State.readPlain (s : State) (core : Nat) (loc : Loc) (size : Nat) : Nat × Bool × State :=
  if !loc.cached then (s.bytes loc.idx size, true, s)
  else
    match (s.core core).l1.get? (loc.idx / 128) with
    | none => (s.bytes loc.idx size, true, s.fillL1 core (loc.idx / 128))
    | some x =>
      if s.takeFree.1.getLsbD 0 then (fld x (loc.idx % 128) size, false, s.takeFree.2)
      else (s.bytes loc.idx size, true, s.takeFree.2.fillL1 core (loc.idx / 128))

/-- The core's copies of some lines leave L1: one that its agents have read at the point of coherence is not used again, so that their
values never go back (R182, R481). -/
def State.leaveL1 (s : State) (core : Nat) (lines : List Nat) : State :=
  s.mapCore core (fun c => { c with l1 := c.l1.filter (fun e => !lines.contains e.1) })

/-- An access that bypasses L1 reads at the point of coherence (R481). -/
def State.readBypass (s : State) (core : Nat) (loc : Loc) (size : Nat) : Nat × State :=
  (s.bytes loc.idx size, if loc.cached then s.leaveL1 core [loc.idx / 128] else s)

/-- A write at the point of coherence, which also updates any copy of its bytes in the writing core's L1 (R481). -/
def State.writeAt (s : State) (core : Nat) (loc : Loc) (size x : Nat) : State :=
  let s := s.setBytes loc.idx x size
  if !loc.cached then s
  else
    s.mapCore core (fun c =>
      match c.l1.get? (loc.idx / 128) with
      | some y => { c with l1 := c.l1.insert (loc.idx / 128) (setFld y (loc.idx % 128) size x) }
      | none => c)

/-- A request for a line, where the instruction or job has not yet made it (R155, R168). -/
def State.requestIf (s : State) (b : Bool) (core cn va : Nat) (loc : Loc) : State := if b then s.request core cn va loc else s

/-- The requests of an agent for some places, one for each distinct line (R155, R168). -/
def State.requests (s : State) (core cn : Nat) (xs : List LaneXlat) : State :=
  (xs.foldl (fun (acc : State × List Nat) x =>
    if acc.2.contains (x.loc.idx / 128) then acc else (acc.1.request core cn x.va x.loc, x.loc.idx / 128 :: acc.2)) (s, [])).1

/-! ## Outstanding accesses -/

/-- The entry reads memory into the crew. -/
def PendKind.isLoad : PendKind → Bool
  | .load _ _ _ => true
  | .sload _ => true
  | .atomic _ _ _ _ _ _ => true
  | .remote g _ => g
  | .store => false
  | .tstore => false

/-- The entry writes memory. -/
def PendKind.isStore : PendKind → Bool
  | .store => true
  | .tstore => true
  | .atomic _ _ _ _ _ _ => true
  | .remote g _ => !g
  | _ => false

/-- The entry waits for a peer (R392). -/
def PendKind.isRemote : PendKind → Bool
  | .remote _ _ => true
  | _ => false

/-- The entry counts toward the loads count of WAITC (R216): an atomic does, whatever it writes. -/
def PendKind.countsLoad (k : PendKind) : Bool := k.isLoad

/-- The result of an integer or bitwise atomic, or of one float element (Table 8.4): old value, operand d, operand b. -/
def atomicNew (op ty : Nat) (r : Rnd) (gens : List Nat) (old x c : Nat) : Option Nat :=
  let w := if ty = 12 ∨ ty = 13 then 64 else 32
  match op with
  | 0x8B =>
    match elemKind ty with
    | .int _ => some ((old + c) % 2 ^ w)
    | .flt f =>
      some (packElems f.width ((List.range (32 / f.width)).map (fun i =>
        rndFloat f { r with gen := gens.getD i 0 }
          (sumVals (decide (r.code = 2))
            [f.read r.ftz (elemAt f.width old i), f.read r.ftz (elemAt f.width c i)]))))
  | 0x8C =>
    match elemKind ty with
    | .int t => some (if t.read c < t.read old then c else old)
    | .flt f => some (rndFloat f ⟨1, false, r.ftz, 0⟩ ((f.read r.ftz old).min (f.read r.ftz c)))
  | 0x8D =>
    match elemKind ty with
    | .int t => some (if t.read old < t.read c then c else old)
    | .flt f => some (rndFloat f ⟨1, false, r.ftz, 0⟩ ((f.read r.ftz old).max (f.read r.ftz c)))
  | 0x8E => some (old &&& c)
  | 0x8F => some (old ||| c)
  | 0x90 => some (old ^^^ c)
  | 0x91 => some c
  | 0x92 => if old = c then some x else none
  | 0x93 => some (if c ≤ old then 0 else old + 1)
  | _ => some (if old = 0 ∨ c < old then c else old - 1)

/-- The counters count an L1 hit or miss of a plain load (Table 18.6), one for each line: a lane of a line that a lower lane of the access has
reached counts nothing (log 32). -/
def State.countL1 (s : State) (k : Nat) (p : Pend) (a : LaneAcc) (missed : Bool) : State :=
  if !a.loc.cached || p.accs.any (fun b => decide (b.lane < a.lane ∧ b.loc.idx / 128 = a.loc.idx / 128)) then s
  else s.countEvent (k / 64) (if missed then 0x1001 else 0x1000) (s.crews.getD k Crew.blank).task 1

/-- Perform one lane of an outstanding access of the crew at key `k`; the answer says whether it asked for its line. -/
def State.performLane (s : State) (k : Nat) (p : Pend) (a : LaneAcc) : State × Bool :=
  let core := k / 64
  let ask (s : State) : State := s.requestIf a.fresh core (s.crews.getD k Crew.blank).ctx a.va a.loc
  match p.kind with
  | .load dst sext past =>
    let (x, missed, s) :=
      if past then
        let (x, s) := s.readBypass core a.loc p.size
        (x, true, s)
      else s.readPlain core a.loc p.size
    let s := if past then s else s.countL1 k p a missed
    let s := if missed then ask s else s
    let x := if sext then lowBits 32 (signedOf (8 * p.size) x) else x
    (s.mapCrewAt k (fun c => c.setVN dst a.lane x (if p.size ≤ 4 then 1 else p.size / 4)), missed)
  | .sload dst =>
    let (x, missed, s) := s.readPlain core a.loc p.size
    let s := s.countL1 k p a missed
    let s := if missed then ask s else s
    (s.mapCrewAt k (fun c => c.setSN (p.size / 4) dst x), missed)
  | .store => (ask (s.writeAt core a.loc p.size a.data), true)
  | .tstore => (ask (s.writeAt core a.loc p.size a.data), true)
  | .atomic dst op ty code sat ftz =>
    let (old, s) := s.readBypass core a.loc p.size
    let s :=
      match atomicNew op ty ⟨code, sat, ftz, 0⟩ a.gens old a.data a.cmp with
      | some x => s.writeAt core a.loc p.size x
      | none => s
    ((ask s).mapCrewAt k (fun c => c.setVN dst a.lane old (p.size / 4)), true)
  | .remote _ _ => (s, false)

/-- The lane's line is one of some lines. -/
def LaneAcc.onLine (a : LaneAcc) (lines : List Nat) : Bool := lines.contains (a.loc.idx / 128)

/-- No further request is made for some lines. -/
def LaneAcc.asked (a : LaneAcc) (lines : List Nat) : LaneAcc := if a.onLine lines then { a with fresh := false } else a

/-- Perform some lanes of an outstanding access in turn, with one request for each distinct line (R155); the answer adds the lines asked for
to `lines`. -/
def State.performLanes (s : State) (k : Nat) (p : Pend) : List LaneAcc → List Nat → State × List Nat
  | [], lines => (s, lines)
  | a :: rest, lines =>
    let r := s.performLane k p (a.asked lines)
    r.1.performLanes k p rest (if r.2 && a.loc.cached then a.loc.idx / 128 :: lines else lines)

/-- Perform every lane of an outstanding access, in ascending lane order (R154, R200). -/
def State.performAll (s : State) (k : Nat) (p : Pend) : State := (s.performLanes k p p.accs []).1

/-- The lanes left of the instruction `seq` of the crew at `k` make no further request for lines that it has asked for (R155). -/
def State.spendLines (s : State) (k seq : Nat) (lines : List Nat) : State :=
  if lines.isEmpty then s
  else s.mapCrewAt k (fun c => { c with pend := c.pend.map (fun q =>
    if q.seq = seq then { q with accs := q.accs.map (fun a => a.asked lines) } else q) })

/-- Two lane accesses touch a common byte. -/
def LaneAcc.overlaps (a : LaneAcc) (na : Nat) (b : LaneAcc) (nb : Nat) : Bool :=
  decide (a.loc.idx < b.loc.idx + nb) && decide (b.loc.idx < a.loc.idx + na)

/-- Two outstanding accesses touch a common byte. -/
def Pend.overlaps (p q : Pend) : Bool := p.accs.any (fun a => q.accs.any (fun b => a.overlaps p.size b q.size))

/-- The older access must be performed before the younger: they touch a common byte (R182), or the older is a load and
the younger a store (R185). -/
def Pend.precedes (older younger : Pend) : Bool :=
  !older.kind.isRemote && (older.overlaps younger || (older.kind.isLoad && younger.kind.isStore))

/-- Mark, youngest first, the entries that `want` names and those that must be performed before a marked one. -/
def markNeeded (want : Pend → Bool) : List Pend → List Pend → List (Pend × Bool)
  | _, [] => []
  | sel, p :: older =>
    let b := !p.kind.isRemote && (want p || sel.any (fun q => p.precedes q))
    (p, b) :: markNeeded want (if b then p :: sel else sel) older

/-- Perform the outstanding accesses of the crew at key `k` that `want` names, and what must precede them, oldest
first. -/
def State.perform (s : State) (k : Nat) (want : Pend → Bool) : State :=
  match s.crews.get? k with
  | none => s
  | some c =>
    let marked := (markNeeded want [] c.pend.reverse).reverse
    if marked.all (fun m => !m.2) then s
    else
      let left (c : Crew) : Crew := { c with pend := (marked.filter (fun m => !m.2)).map (fun m => m.1) }
      (marked.filter (fun m => m.2)).foldl (fun s m =>
        let asked := s.performLanes k m.1 m.1.accs []
        asked.1.spendLines k m.1.seq asked.2) (s.mapCrewAt k left)

/-- The highest lane of an atomic that follows lanes up to `m` without another agent's write between: one at the same place as a lane at or
below `m`, and so on (R200). -/
def Pend.reach (p : Pend) : Nat → Nat → Nat
  | 0, m => m
  | n + 1, m =>
    p.reach n ((p.accs.filter (fun a => p.accs.any (fun b => decide (b.lane ≤ m) && a.overlaps p.size b p.size))).foldl
      (fun x a => max x a.lane) m)

/-- The lanes that are performed with the named ones.  An atomic's lanes go in ascending order, those at one place together (R200, R202); of
any other access, those go together that touch a common byte (R154). -/
def Pend.close (p : Pend) (m : Mask) (a : LaneAcc) : Bool :=
  let named := p.accs.filter (fun b => m.getLsbD b.lane)
  match p.kind with
  | .atomic _ _ _ _ _ _ => !named.isEmpty && decide (a.lane ≤ p.reach p.accs.length (named.foldl (fun x b => max x b.lane) 0))
  | _ => named.any (fun b => decide (b.lane = a.lane) || a.overlaps p.size b p.size)

/-- Perform the named lanes of entry `i` of the crew at key `k`, where nothing older must precede them: the event
LOAD_COMPLETE or STORE_COMPLETE. -/
def State.completeLanes (s : State) (k i : Nat) (m : Mask) (ok : PendKind → Bool) : State :=
  match s.crews.get? k with
  | none => s
  | some c =>
    match c.pend[i]? with
    | none => s
    | some p =>
      let now := { p with accs := p.accs.filter (p.close m) }
      let rest := p.accs.filter (fun a => !p.close m a)
      if p.kind.isRemote || !ok p.kind || (c.pend.take i).any (fun q => q.precedes now) then s
      else
        let s := s.mapCrewAt k (fun c => { c with
          pend := if rest.isEmpty then c.pend.eraseIdx i else c.pend.set i { p with accs := rest } })
        let asked := s.performLanes k now now.accs []
        asked.1.spendLines k p.seq asked.2

/-! ## Releases and acquires -/

/-- Write back every pool-mapped range of a core to its backing lines (R192, Table 8.3). -/
def State.writeBack (s : State) (core : Nat) (which : Nat → Bool) : State :=
  (s.core core).pools.foldl (fun s m =>
    if which m.1 && !m.2.revoked then
      m.2.runs.foldl (fun s r => s.setBytes r.1 (s.bytes (poolIdx core r.2.2) r.2.1) r.2.1) s
    else s) s

/-- A release at scope `k` has nothing left to wait for (Table 8.3): only a peer's acknowledgement can hold it. -/
def Crew.releaseReady (c : Crew) (k : Nat) : Bool := decide (k < 4) || !c.pend.any (fun p => p.kind.isRemote)

/-- The entry is a store that a release at scope `k` may leave to its point of coherence (R179, R191; log 81): at core scope one whose lines
the L1 holds, at die scope any to L1-cacheable memory. -/
def State.mayTrail (s : State) (core k : Nat) (p : Pend) : Bool :=
  (decide (p.kind = .store) || decide (p.kind = .tstore)) && p.accs.all (fun a => a.loc.cached) &&
    (decide (k = 2) || (decide (k = 1) && p.accs.all (fun a => ((s.core core).l1.get? (a.loc.idx / 128)).isSome)))

/-- What a release at scope `k` leaves of an outstanding access: a store is acknowledged for the scope's agents. -/
def Pend.ackAt (p : Pend) (k : Nat) : Pend := if p.kind.isRemote then p else { p with acked := max p.acked k }

/-- A release at scope `k` by the crew at `key` (R187, R191): from package scope on its earlier accesses are performed toward every agent; at
core and die scope those stores may wait that agents outside the scope instance alone could miss (R179).  From die scope on the core's
pool-mapped ranges are written back. -/
def State.release (s : State) (key k : Nat) : State :=
  if k = 0 then s
  else
    let trails := fun p => decide (k < 3) && s.mayTrail (key / 64) k p
    let t := s.perform key (fun p => !trails p)
    let t := if (t.crews.get? key).elim true (fun c => c.pend.all (fun p => p.kind.isRemote || decide (k ≤ p.acked))) then t
      else t.mapCrewAt key (fun c => { c with pend := c.pend.map (fun p => p.ackAt k) })
    if 2 ≤ k then t.writeBack (key / 64) (fun _ => true) else t

/-- The outstanding access is one that an agent of a core may not miss (R179): a release at core or die scope has covered it, and the agent lies
in the instance of the crew at key `k`. -/
def Pend.coversCore (p : Pend) (k core : Nat) : Bool :=
  (decide (p.acked = 1) && decide (k / 64 = core)) || (decide (p.acked = 2) && decide (dieOf (k / 64) = dieOf core))

/-- Before an agent of a core acts, the stores are performed that releases of the other crews have covered for its scope instances (R179, R187,
R188; log 81). -/
def State.settleScopes (s : State) (core : Nat) (self : Option Nat) : State :=
  s.crews.keys.foldl (fun s k => if some k = self then s else s.perform k (fun p => p.coversCore k core)) s

/-- The outstanding accesses of every crew that touch `len` bytes of a core's pool from `off` on are performed: none of them may find the range
unmapped (R174, R182). -/
def State.settlePool (s : State) (core off len : Nat) : State :=
  s.crews.keys.foldl (fun s k => s.perform k (fun p =>
    p.accs.any (fun a => decide (a.loc.idx < poolIdx core off + len ∧ poolIdx core off < a.loc.idx + p.size)))) s

/-- The core's L1 is invalidated by an acquire at die scope or wider (R186). -/
def State.acquireL1 (s : State) (core k : Nat) : State :=
  if 2 ≤ k then s.mapCore core (fun c => { c with l1 := [] }) else s

/-- An acquire fence at scope `k` (R186): the earlier loads have returned. -/
def State.acquire (s : State) (key k : Nat) : State :=
  (s.perform key (fun p => p.kind.isLoad)).acquireL1 (key / 64) k

/-- No remote load is outstanding, so an acquire fence has nothing left to wait for. -/
def Crew.acquireReady (c : Crew) : Bool := !c.pend.any (fun p => p.kind.isRemote && p.kind.isLoad)

end Sys2Proof.Machine
end

