-- ==== Sys2Proof/Machine/Rafts.lean ====
section
/-! DEFINITION. The raft table, raft messages, and how a collective ends at a member (R375 to R378, R385, R386, R395). -/

namespace Sys2Proof.Machine

/-- A status word (Table 16.3). -/
def raftStatus (status cause origin : Nat) : Nat := status * 2 ^ 28 + cause * 2 ^ 24 + origin % 2 ^ 22

/-- A crew's rank in a raft (R375): its device's, or its core's. -/
def Raft.rankOf (r : Raft) (devnum core : Nat) : Option Nat :=
  let n := if r.kind = 0 then devnum else core
  if r.table.contains n then some (r.table.idxOf n) else none

/-- The coordinator: the lowest-ranked member (R375). -/
def coordinatorRank : Nat := 0

/-- The live raft of a handle, for a context. -/
def State.raft? (s : State) (cn h : Nat) : Option Raft :=
  if 64 ≤ h then none else (s.rafts.get? h).filter (fun r => r.live && decide (r.ctx = cn))

/-- The live raft of a handle with the executing crew's rank in it (R375). -/
def State.myRaft (s : State) (h : Nat) : Option (Raft × Nat) :=
  (s.raft? s.crew.ctx h).bind (fun r => (r.rankOf s.devnum s.focusCore).map (fun k => (r, k)))

/-- Change a raft, if it exists. -/
def State.mapRaft (s : State) (h : Nat) (f : Raft → Raft) : State :=
  match s.rafts.get? h with
  | some r => { s with rafts := s.rafts.insert h (f r) }
  | none => s

/-- Change a local member of a raft. -/
def Raft.mapMember (r : Raft) (k : Nat) (f : RaftMember → RaftMember) : Raft :=
  match r.members.get? k with
  | some m => { r with members := r.members.insert k (f m) }
  | none => r

/-- The device of a rank: rafts of cores are within this device. -/
def Raft.device (r : Raft) (devnum k : Nat) : Nat := if r.kind = 0 then r.table.getD k 0 else devnum

/-! ## Ports and messages (R21, R376, R395) -/

/-- The pod of a device (R21). -/
def podOf (dev : Nat) : Nat := dev / 2 ^ 10

/-- The live ports, UALink 0 to 23 and Ethernet 24 to 27. -/
def State.ports (s : State) : List Nat := (List.range 28).filter s.livePorts.testBit

/-- The live ports that a route to a device may use (Table 16.1): UALink within the pod, Ethernet between pods. -/
def State.portsTo (s : State) (dev : Nat) : List Nat :=
  s.ports.filter (fun p => decide (p < 24) == decide (podOf dev = podOf s.devnum))

/-- A live port reaches a device: within the pod any port does, and between pods an Ethernet port (R376; log 77). -/
def State.reaches (s : State) (dev : Nat) : Bool :=
  if podOf dev = podOf s.devnum then decide (s.ports ≠ []) else decide (s.portsTo dev ≠ [])

/-- The 32-byte header of a message (Table 16.8). -/
def Msg.header (m : Msg) : Nat :=
  layout [(4, m.key), (2, m.gen), (2, m.seq), (4, m.src % 2 ^ 22 + m.typ % 16 * 2 ^ 24), (4, m.dst % 2 ^ 22), (4, m.status), (4, m.offset),
    (8, m.sdev % 2 ^ 22 + m.ddev % 2 ^ 22 * 2 ^ 22)]

/-- A message from its header (Table 16.8) and what it carries. -/
def Msg.ofHeader (x : Nat) (params data scales : List Nat) : Msg where
  key := fld x 0 4
  gen := fld x 4 2
  seq := fld x 6 2
  typ := fld x 8 4 / 2 ^ 24 % 16
  src := fld x 8 4 % 2 ^ 22
  dst := fld x 12 4 % 2 ^ 22
  status := fld x 16 4
  offset := fld x 20 4
  sdev := fld x 24 8 % 2 ^ 22
  ddev := fld x 24 8 / 2 ^ 22 % 2 ^ 22
  params := params
  data := data
  scales := scales

/-- Send a message from rank `src` to rank `dst` of a raft (R376, R395): to another device over the network, where a live port reaches it,
otherwise over the package. -/
def State.sendRaft (s : State) (r : Raft) (typ src dst seq status : Nat) (params data scales : List Nat) : State :=
  let m : Msg := { key := r.key, gen := r.gen, seq := seq % 2 ^ 16, typ := typ, src := src, dst := dst, status := status
                   offset := 0, sdev := r.device s.devnum src, ddev := r.device s.devnum dst, params := params, data := data
                   scales := scales }
  if m.ddev = s.devnum then { s with msgs := s.msgs ++ [m] }
  else if s.reaches m.ddev then { s with netOut := s.netOut ++ [m] }
  else s

/-! ## Collective jobs -/

/-- Change the job with a number in a core's gate. -/
def State.mapJob (s : State) (core id : Nat) (f : Job → Job) : State :=
  s.mapCore core (fun c => { c with jobs := c.jobs.map (fun j => if j.id = id then f j else j) })

/-- The job with a number in a core's gate. -/
def State.job? (s : State) (core id : Nat) : Option Job := (s.core core).jobs.find? (fun j => decide (j.id = id))

/-- The handle, rank and sequence number of a collective job. -/
def Job.raftOf (j : Job) : Nat × Nat × Nat := (j.aux.getD 0 0, j.aux.getD 1 0, j.aux.getD 2 0)

/-- The job is a collective. -/
def JobKind.isCollective : JobKind → Bool
  | .collective _ => true
  | _ => false

/-- T_j in device ticks (R383): the card's, or the raft's. -/
def Job.collTimeout (j : Job) (r : Raft) : Nat := if fld j.card 12 4 = 0 then r.timeout else 1000 * fld j.card 12 4

/-- The collective jobs of a member, with their cores. -/
def State.collectives (s : State) (h k : Nat) : List (Nat × Job) :=
  s.cores.flatMap (fun c => (c.2.jobs.filter (fun j => j.kind.isCollective &&
    decide (j.raftOf.1 = h ∧ j.raftOf.2.1 = k))).map (fun j => (c.1, j)))

/-- The collective jobs of a member that have not ended, with their cores. -/
def State.memberJobs (s : State) (h k : Nat) : List (Nat × Job) := (s.collectives h k).filter (fun e => e.2.result.isNone)

/-- The member's pending job with the lowest sequence number (R384). -/
def State.firstJob (s : State) (h k : Nat) : Option (Nat × Job) :=
  ((s.memberJobs h k).filter (fun e => e.2.started)).foldl (fun (b : Option (Nat × Job)) e =>
    match b with
    | none => some e
    | some x => if e.2.raftOf.2.2 < x.2.raftOf.2.2 then some e else b) none

/-- A member keeps for CSTAT the status word of a collective that has ended, by the port that failed or 31, with the device of the origin
(R389). -/
def State.keepWord (s : State) (h k word port : Nat) : State :=
  let dev := (s.rafts.get? h).elim 0 (fun r => r.device s.devnum (word % 2 ^ 22))
  s.mapRaft h (fun r => r.mapMember k (fun m =>
    if 8 ≤ word / 2 ^ 28 then { m with last := word, abort := word, port := port, abortDev := dev } else { m with last := word }))

/-- A collective job ends with a status word, by the port that failed or 31; the member keeps it (R389). -/
def State.endJob (s : State) (core : Nat) (j : Job) (word port : Nat) : State :=
  let (h, rank, _) := j.raftOf
  let place := (s.collectives h rank).foldl (fun n e => max n (e.2.ended + 1)) 1
  (s.mapJob core j.id (fun k => { k with result := some word, ended := place })).keepWord h rank word port

/-- The jobs of a member that have reached a status end, as far as no earlier one is pending (R384). -/
def State.endReady (s : State) (h k : Nat) : Nat → State
  | 0 => s
  | fuel + 1 =>
    match s.firstJob h k with
    | none => s
    | some (core, j) =>
      match j.ending with
      | none => s
      | some (word, port) => (s.endJob core j word port).endReady h k fuel

/-- A pending collective reaches a status word: it keeps the first one (R386), and ends with it in its turn (R384). -/
def State.endCollective (s : State) (core id word port : Nat) : State :=
  match s.job? core id with
  | none => s
  | some j =>
    let (h, k, _) := j.raftOf
    if j.result.isSome ∨ j.ending.isSome then s
    else
      let s := s.mapJob core id (fun j => { j with ending := some (word, port) })
      s.endReady h k (s.memberJobs h k).length

/-- The ranks named as origins of ABORT_PEER, ABORT_TIMEOUT or ABORT_LINK in a generation, as far as this device knows (R388). -/
def Raft.named (r : Raft) (word : Nat) : Raft :=
  let o := word % 2 ^ 22
  if 8 ≤ word / 2 ^ 28 ∧ word / 2 ^ 28 ≤ 10 ∧ r.origins.contains o = false then { r with origins := r.origins ++ [o] } else r

/-- The earliest starts with that of a number (R387); the entry half the numbers away is long done. -/
def Raft.startsWith (r : Raft) (seq now : Nat) : SMap Nat :=
  if (r.starts.get? (seq % 2 ^ 16)).isSome then r.starts else (r.starts.remove ((seq + 2 ^ 15) % 2 ^ 16)).insert (seq % 2 ^ 16) now

/-- A collective takes its member's next sequence number (R383), and its timer runs (R387).  The second part is the abort that the
coordinator has forwarded for that number already (R386). -/
def State.numberJob (s : State) (core : Nat) (j : Job) (r : Raft) (m : RaftMember) : Job × Option Nat × State :=
  let (h, k, _) := j.raftOf
  let seq := m.started + 1
  let j : Job := { j with started := true, aux := [h, k, seq], deadline := some (s.clock + j.collTimeout r) }
  let s := s.mapRaft h (fun r => { r.mapMember k (fun m => { m with started := seq, aborts := m.aborts.remove (seq % 2 ^ 16) }) with
    starts := r.startsWith seq s.clock })
  (j, m.aborts.get? (seq % 2 ^ 16), s.mapJob core j.id (fun _ => j))

/-- The member becomes the origin of an abort of a pending collective (Table 16.6): it ends with its own status, and the coordinator is told
the status for the raft.  A job that has not started takes its number for it (R390; log 78); `port` is the one that failed, or 31. -/
def State.originAbort (s : State) (core id own sent port : Nat) : State :=
  match s.job? core id with
  | none => s
  | some j =>
    let (h, k, seq) := j.raftOf
    if j.result.isSome ∨ j.ending.isSome then s
    else
      match s.rafts.get? h with
      | none => s.endCollective core id own port
      | some r =>
        match (if j.started then none else r.members.get? k) with
        | none =>
          (((s.mapRaft h (fun r => r.named sent)).sendRaft r 6 k coordinatorRank seq sent [0] [] [])).endCollective core id own port
        | some m =>
          match s.numberJob core j r m with
          | (_, some word, s) => s.endCollective core id word 31
          | (j, none, s) =>
            (((s.mapRaft h (fun r => r.named sent)).sendRaft r 6 k coordinatorRank j.raftOf.2.2 sent [0] [] [])).endCollective core id own port

/-- CABORT or JOBCAN of a collective (R385, R390). -/
def State.abortByProgram (s : State) (core : Nat) (j : Job) : State :=
  s.originAbort core j.id (raftStatus 11 0 j.raftOf.2.1) (raftStatus 8 0 j.raftOf.2.1) 31

/-- A rank of a raft other than `k`, free. -/
def State.freeRank (s : State) (r : Raft) (k : Nat) : Nat × State :=
  let others := (List.range r.table.length).filter (fun q => decide (q ≠ k))
  (others.getD (s.takeFree.1.toNat % max 1 others.length) 0, s.takeFree.2)

/-- The lowest rank whose contribution or arrival member `k` lacks (R385): where the coordinator is here, of those that have not reached it;
where it is on another device, or has had all of them, the manual does not say which, and it is free among the other ranks (log 52). -/
def State.lackedRank (s : State) (r : Raft) (k seq : Nat) : Nat × State :=
  let parts := (r.colls.getD (seq % 2 ^ 16) Coll.blank).parts
  match (if (r.members.get? coordinatorRank).isSome then (List.range r.table.length).find? (fun q => (parts.get? q).isNone) else none) with
  | some q => (q, s)
  | none => s.freeRank r k

/-- The timer of a started collective runs out (R385, R387): it ends at once, with the status it has reached or as the origin of a timeout. -/
def State.timeoutCollective (s : State) (core id : Nat) : State :=
  match s.job? core id with
  | none => s
  | some j =>
    let (h, k, seq) := j.raftOf
    if j.result.isSome then s
    else
      match j.ending with
      | some (word, port) => (s.endJob core j word port).endReady h k (s.memberJobs h k).length
      | none =>
        match s.rafts.get? h with
        | none => s.takeFree.2.endJob core j (raftStatus 9 0 s.takeFree.1.toNat) 31
        | some r =>
          let o := s.lackedRank r k seq
          let word := raftStatus 9 0 o.1
          (((o.2.mapRaft h (fun r => r.named word)).sendRaft r 6 k coordinatorRank seq word [0] [] []).endJob core j word 31).endReady h k
            (s.memberJobs h k).length

/-- An ended collective whose token waits for that of one of the same member that ended before (R384). -/
def State.goesLater (s : State) (j : Job) : Bool :=
  j.kind.isCollective && (s.collectives j.raftOf.1 j.raftOf.2.1).any (fun e => decide (0 < e.2.ended ∧ e.2.ended < j.ended))

/-- A started collective whose timer has run out. -/
def State.collectiveDue (s : State) (j : Job) : Bool :=
  j.kind.isCollective && j.started && j.result.isNone && j.deadline.elim false (fun t => decide (t ≤ s.clock))

end Sys2Proof.Machine
end

