-- ==== Sys2Proof/Machine/Escalate.lean ====
section
/-! DEFINITION. How a task ends (R333, R354), the escalation of a trap that the crew's handler does not take (R401), and
branch trace packets (R432). -/

namespace Sys2Proof.Machine

/-! ## What foremen and units read and write -/

/-- A foreman or unit writes `n` bytes at a virtual address of a context, at their point of coherence, as a plain store;
where the address does not translate nothing is written (log 25). -/
def State.unitWrite (s : State) (cn va n x : Nat) : State :=
  match s.xlateWalk cn va .write with
  | .ok l => s.setBytes l.idx x n
  | _ => s

/-! ## Branch trace (R431, R432) -/

/-- The armed trace that a crew writes to. -/
def State.traceOf (s : State) (c : Crew) : Option Trace :=
  s.traces.find? (fun t => decide (t.ctx = c.ctx ∧ t.task = c.task))

/-- The record of a trace changes. -/
def State.keepTrace (s : State) (t t' : Trace) : State :=
  { s with traces := s.traces.map (fun x => if x.ctx = t.ctx ∧ x.task = t.task then t' else x) }

/-- Write one packet, or count it as dropped when the buffer is full; the packet that fills the buffer makes the state 3 (R431). -/
def State.putPacket (s : State) (t : Trace) (k type payload : Nat) : State :=
  if t.full then (s.unitWrite t.ctx (t.va + 8) 8 (t.dropped + 1)).keepTrace t { t with dropped := t.dropped + 1 }
  else
    let p := layout [(4, s.clock), (1, type), (1, k % 64), (2, k / 64), (8, payload)]
    let full := decide (2 ^ t.size < 64 + t.written + 32)
    let s := ((s.unitWrite t.ctx (t.va + 64 + t.written) 16 p).unitWrite t.ctx t.va 8 (t.written + 16)).keepTrace t
      { t with written := t.written + 16, full := full }
    if full then (s.unitWrite t.ctx (t.va + 20) 4 3).mapCtx t.ctx (fun c => { c with trcstat := 3 }) else s

/-- The BMAP payload of branch outcomes, oldest in bit 0. -/
def bmapPayload (bits : List Bool) : Nat := packElems 1 (bits.map Bool.toNat) + bits.length * 2 ^ 58

/-- A packet of the crew at key `k`, after its open BMAP (R432); nothing without an armed trace. -/
def State.packet (s : State) (k type payload : Nat) : State :=
  match s.crews.get? k with
  | none => s
  | some c =>
    match s.traceOf c with
    | none => s
    | some t =>
      if c.bmap = [] then s.putPacket t k type payload
      else
        let s := s.putPacket t k 2 (bmapPayload c.bmap)
        let s := s.mapCrewAt k (fun c => { c with bmap := [] })
        match s.traceOf c with
        | none => s
        | some t => s.putPacket t k type payload

/-- A branch outcome of the crew at key `k` enters its BMAP, which is written when it holds 56 (R432). -/
def State.traceBranch (s : State) (k : Nat) (taken : Bool) : State :=
  match s.crews.get? k with
  | none => s
  | some c =>
    match s.traceOf c with
    | none => s
    | some t =>
      let bits := c.bmap ++ [taken]
      if bits.length < 56 then s.mapCrewAt k (fun c => { c with bmap := bits })
      else (s.putPacket t k 2 (bmapPayload bits)).mapCrewAt k (fun c => { c with bmap := [] })

/-- Tracing begins for a bound crew (R432): START and CREW. -/
def State.traceStart (s : State) (k : Nat) : State :=
  let c := s.crews.getD k Crew.blank
  (s.packet k 0 c.pc.toNat).packet k 1 c.widbase.toNat

/-! ## Unbinding -/

/-- A crew leaves its slot (R336, R354, R412): its skid memory is free again, and its STRMBARs hold nobody any more (R226).  A tile operation that a
killed crew still had is over, with the contents of its tiles (R252).  The UNBIND event carries the tag of the context that caused it, or 0
(R418). -/
def State.dropCrew (s : State) (k tag : Nat) : State :=
  match s.crews.get? k with
  | none => s
  | some c =>
    let s := s.recordForeman (dieOf (k / 64)) tag 2 1
      (c.task + k % 64 * 2 ^ 16 + c.rbase * 2 ^ 24 + c.prio * 2 ^ 32)
    let freed := c.skids.vals.foldl (fun n q => n + q.depth) 0
    let s := if freed = 0 then s else s.mapCore (k / 64) (fun x => { x with skidFree := x.skidFree + freed })
    let s := if (s.core (k / 64)).tileOps.any (fun o => decide (o.crew = k)) then
      s.mapCore (k / 64) (fun x => { x with tileOps := x.tileOps.filter (fun o => decide (o.crew ≠ k)) }) else s
    let s := if (s.core (k / 64)).bars.any (fun b => decide (b.crew = k)) then
      s.mapCore (k / 64) (fun x => { x with bars := x.bars.filter (fun b => decide (b.crew ≠ k)) }) else s
    s.vacate k

/-- An MLOAD leaves its macro invalid, when it starts and when it ends other than OK (R230); another job has none. -/
def State.dropMacro (s : State) (core : Nat) (j : Job) : State :=
  if j.kind = .mload then s.setMac core (j.aux.headD 0) { s.mac core (j.aux.headD 0) with owner := none } else s

/-- What is left in the gate of a job of a killed crew: of an MLOAD that has not started its turn at the macro, in which it ends (R230, R231). -/
def Job.orphaned (j : Job) : Option Job :=
  if j.kind = .mload ∧ j.started = false then
    some { j with crew := noCrew, cancelled := true, result := some (j.result.getD (4 * 2 ^ 28)) }
  else none

/-- The jobs of the crew at key `k` are cancelled and have ended (R211, R252, R354): a collective ends as the origin of its
abort (R385). -/
def State.dropJobs (s : State) (k : Nat) : State :=
  let core := k / 64
  let mine := (s.core core).jobs.filter (fun j => decide (j.crew = k))
  if mine = [] then s
  else
    let s := (mine.filter (fun j => j.kind.isCollective)).foldl (fun s j => s.abortByProgram core j) s
    let s := (mine.filter (fun j => j.started && j.result.isNone)).foldl (fun s j => s.dropMacro core j) s
    s.mapCore core (fun c =>
      { c with
        gramQ := c.gramQ.filter (fun i => !mine.any (fun j => decide (j.id = i)))
        jobs := c.jobs.filterMap (fun j => if j.crew = k then j.orphaned else some j) })

/-! ## What an issued instruction leaves in counters -/

/-- The crew completes an instruction: nothing of a replay or a wait is left. -/
def Crew.retireInstr (c : Crew) : Crew :=
  { c with replay := none, firstIssue := none, deadline := none, waiting := none, released := false, issued := c.issued + 1 }

/-- A lane instruction (R57; log 32): one with a vector register operand, and SEED, which Table 4.6 has among the conversions (R103). -/
def isLane (c : Crew) (i : Instr) : Bool :=
  match i with
  | .seedUniform _ => true
  | i => (operands c.mode i).any Opnd.vec

/-- The vector registers of the operands that `p` names. -/
def vregsOf (os : List Opnd) (p : Access → Bool) : List Nat :=
  (os.filter (fun o => o.vec && p o.use)).flatMap (fun o => (List.range o.span).map (fun j => o.reg + j))

/-- The source operands that come from the main register file: vector operands with a register outside the register cache (R60). -/
def Crew.mainReads (c : Crew) (os : List Opnd) : Nat :=
  (os.filter (fun o => o.vec && (decide (o.use = .read) || decide (o.use = .both)) &&
    (List.range o.span).any (fun j => !c.cache.contains (o.reg + j)))).length

/-- The register cache after an instruction (R60): the six vector registers most recently read or written, the operands of one instruction
in their order, sources before destinations (log 73). -/
def Crew.cached (c : Crew) (os : List Opnd) : List Nat :=
  let reads := vregsOf os (fun u => decide (u = .read) || decide (u = .both))
  let writes := vregsOf os (fun u => decide (u = .write) || decide (u = .both))
  ((reads ++ writes).foldl (fun acc r => r :: acc.filter (fun x => decide (x ≠ r))) c.cache).take 6

/-- What the arbitration and the register cache keep of an issue of crew `c` in a slot: the quarter's issues are one more, and the crew, if
it is still bound, is ready for its next instruction (R59, R60, R330). -/
def State.noteIssue (s : State) (key : Nat) (c : Crew) (os : List Opnd) : State :=
  let s := s.mapCore (key / 64) (fun k => { k with issues := k.issues.setD (quarterOf (key % 64)) (k.issues.getD (quarterOf (key % 64)) 0 + 1) 0 })
  s.mapCrewAt key (fun k => { k with
    stalled := false, readyAt := s.issueTime key, readySince := (s.issueTime key).2, lastIssue := s.issueTime key, cache := ({ k with cache := c.cache } : Crew).cached os })

/-- The counters of a core count an instruction of a crew (R433, Table 18.6), and the arbitration takes note of it. -/
def State.countIssue (s : State) (key : Nat) (c : Crew) (i : Instr) : State :=
  let core := key / 64
  let os := operands c.mode i
  let s := s.bump core 9 1
  let s := s.countEvent core 0x0001 c.task 1
  let s := s.countEvent core (if isLane c i then 0x0002 else 0x0003) c.task 1
  let s := if c.mainReads os = 0 then s else s.countEvent core 0x0004 c.task (c.mainReads os)
  let s := s.noteIssue key c os
  match i with
  | .mma _ _ _ _ => s.countEvent core 0x3000 c.task 1
  | _ => s

/-- A completed instruction of crew `c` at slot `k` that was replayed is recorded (R419). -/
def State.noteReplay (s : State) (k : Nat) (c : Crew) : State :=
  match c.replay with
  | some m => s.record (k / 64) (s.tag c.ctx) 1 1 (k % 64) m.toNat
  | none => s

/-- The waiting instruction of a crew completes with an effect (R292, R299, R301). -/
def State.finishWaiting (s : State) (k : Nat) (f : Crew → Crew) : State :=
  match s.crews.get? k with
  | none => s
  | some c => ((s.setCrewAt k (f c).retireInstr.next).noteReplay k c).countIssue k c .nop

/-- Switches to spatial mode that have not committed are abandoned (R293): SPENT is left unexecuted, and the abort is recorded, with reason 0
(R419; log 119). -/
def State.abandonSpents (s : State) (p : Nat → Region → Bool) : State :=
  let mine := s.regions.filter (fun e => !e.2.live && p e.1 e.2)
  if mine = [] then s
  else
    mine.foldl (fun s e => ({ s.recordMode e.1 e.2 1 0 with regions := s.regions.remove e.1 } : State).mapCrewAt e.1 (fun c => { c with waiting := none })) s

/-- A crew leaves its slot with its context saved: a switch of it, or of a core that it is bound to, is abandoned (R293). -/
def State.abandonSpent (s : State) (k : Nat) : State := s.abandonSpents (fun key r => decide (key = k) || r.cores.contains (k / 64))

/-! ## The end of a task -/

/-- The completion word of a task (R333): a release at package scope and one store; an absent page is waited for, and
where the store cannot be made nothing is written (log 25). -/
def State.storeDone (s : State) (cn die va value : Nat) : State :=
  match s.xlateWalk cn va .write with
  | .ok l => s.setBytes l.idx value 4
  | .absent kind level pte =>
    let s := s.sendFault ⟨pageOf va, cn, kind, 1, die * 24, 0xFF, level, pte, 0, false, 0, 0, noTask⟩
    { s with doneStores := s.doneStores ++ [⟨cn, va, value, ⟨pageOf va, 0⟩⟩] }
  | _ => s

/-- Everything that is left of a task goes (R333, R349, R354, R371): its launch, phases, barriers, sweep state,
coppices, buffers, reservations and trace. -/
def State.forgetTask (s : State) (n : Nat) : State :=
  { s with
    tasks := s.tasks.remove n
    reserved := s.reserved.filter (fun e => decide (e.2 ≠ n))
    coppices := s.coppices.filter (fun c => decide (c.task ≠ n))
    ctxs := s.ctxs.map (fun e => (e.1, if s.traces.any (fun t => decide (t.task = n ∧ t.ctx = e.1)) then
      { e.2 with trcstat := 0 } else e.2))
    traces := s.traces.filter (fun t => decide (t.task ≠ n))
    escalations := s.escalations.filter (fun e => decide (e.task ≠ n))
    dies := s.dies.mapVals (fun d => { d with launchQ := d.launchQ.filter (fun t => decide (t ≠ n)) })
    cores := s.cores.mapVals (fun c => { c with buffers := c.buffers.filter (fun b => decide (b.2.task ≠ n)) }) }

/-- A task ends with a status (R333, Table 14.3): the ranges that its cores map are written back, and its completion word
is stored. -/
def State.finishTask (s : State) (n status : Nat) : State :=
  match s.tasks.get? n with
  | none => s
  | some t =>
    let s := t.cores.foldl (fun s c => s.writeBack c (fun _ => true)) s
    (s.forgetTask n).storeDone t.ctx t.die (fld t.header 56 8) (2 ^ 31 + status)

/-- The task of the crew at a slot. -/
def State.taskAt (s : State) (key : Nat) : Option Nat := (s.crews.get? key).map Crew.task

/-- The handlers of a region that ends complete their SPTAKE (R299). -/
def State.endTakes (s : State) (hs : List Nat) : State :=
  hs.foldl (fun s h =>
    match (s.crews.get? h).bind Crew.waiting with
    | some (.sptake d) => s.finishWaiting h (fun c => c.setS (d.toNat + 3) 1)
    | _ => s) s

/-- The kill stop of the regions of a task (R315): they are discarded and their cores return to SIMT mode as at SPEXIT, where a handler of
another task completes its SPTAKE (R299).  A switch that has not committed and names a core of a crew of the task is abandoned (R293). -/
def State.dropRegions (s : State) (n : Nat) : State :=
  let mine := s.regions.filter (fun e => decide (s.taskAt e.1 = some n))
  let live := mine.filter (fun e => e.2.live)
  let s := live.foldl (fun s e => s.recordMode e.1 e.2 7 0) s
  let s : State := { s with regions := s.regions.filter (fun e => !mine.any (fun m => decide (m.1 = e.1))) }
  let s := s.endTakes ((live.flatMap (fun e => e.2.handlers)).dedup.filter (fun h => decide (s.taskAt h ≠ some n)))
  s.abandonSpents (fun _ r => s.crews.any (fun e => decide (e.2.task = n) && r.cores.contains (e.1 / 64)))

/-- A kill (R354), or the end FAULTED of an escalation (R401): accesses already issued are performed, jobs, phases and
regions go, and the status is written. -/
def State.killTask (s : State) (n status : Nat) : State :=
  let s := s.dropRegions n
  let mine := (s.crews.filter (fun e => decide (e.2.task = n))).map (fun e => e.1)
  let s := mine.foldl (fun s k => ((((s.perform k (fun _ => true)).packet k 10 3).dropJobs k)).dropCrew k 0) s
  s.finishTask n status

/-! ## Escalation -/

/-- Escalation of a trap of the executing crew (R401): it is recorded, it freezes the recorders where CAPCTL asks for it, and the crew is frozen:
it issues nothing more, its jobs and tile operations go on, and its context stays in its slot.  The foreman is sent the cause, the tval and
the frames, and ends the task in a turn of its own. -/
def State.escalate (s : State) (cause : Nat) (tval : DWord) : State :=
  let c := s.crew
  let s := s.recordCrew s.fkey 0 4 (cause + tval.toNat % 2 ^ 56 * 2 ^ 8)
  let s := if (s.ctx c.ctx).capctl.getLsbD 0 then s.trigger s.focusCore cause tval else s
  let s := s.mapCrew (fun c => { c with frozen := true })
  { s with escalations := s.escalations ++ [⟨s.fkey, c.task, cause, tval, c.frames⟩] }

/-- The jobs and tile operations of an escalated crew have completed (R401), but for streams, which the crew or its region would have to go on
with (log 101). -/
def State.escalationDone (s : State) (key : Nat) : Bool :=
  let c := s.core (key / 64)
  !c.jobs.any (fun j => decide (j.crew = key ∧ j.kind ≠ .stream)) && !c.tileOps.any (fun o => decide (o.crew = key))

/-- The foreman ends the task of an escalated crew with FAULTED (R401), by the steps of a kill. -/
def State.endFaulted (s : State) (key : Nat) : State :=
  match s.escalations.find? (fun e => decide (e.key = key)) with
  | none => s
  | some e =>
    if !s.escalationDone key then s
    else ({ s with escalations := s.escalations.filter (fun x => decide (x.key ≠ key)) } : State).killTask e.task 4

end Sys2Proof.Machine
end

