-- ==== Sys2Proof/Machine/Ops.lean ====
section
/-! DEFINITION. How a crew issues an instruction: the checks of Table 2.4 (R36), the scoreboard (R58), the observation
of jobs (R195), taking a trap and returning from one (R399, R400, R405). -/

namespace Sys2Proof.Machine

/-- What the body of an instruction does. -/
inductive Res where
  /-- Completed: the PC advances to the next instruction. -/
  | done (s : State)
  /-- Completed, with the PC placed. -/
  | jump (s : State) (pc : PcWord)
  /-- Completed, with the PC placed at an instruction that the crew has waited at: its deadline stands (R204). -/
  | resume (s : State) (pc : PcWord)
  /-- Completed, and what follows at this slot is already settled: the crew retired or is no longer bound. -/
  | gone (s : State)
  /-- Completed and counted: the body has done what follows the instruction too. -/
  | ended (s : State)
  /-- Not completed: the crew waits or is parked at this instruction. -/
  | hold (s : State)
  /-- A trap, with the effects that the entry allows (R399). -/
  | trap (s : State) (cause : Nat) (tval : DWord)

/-! ## Traps -/

/-- Take trap `cause` with `tval` in the executing crew (R400): without a handler, or with four frames in use, it
escalates (R401).  MODE and MODEX take their creation values and the crew goes to TVEC; AM, LIVE, the path list, the
barriers and every register keep their values.  The frame's PC is the trapping instruction, or for USER the next; a deadline of the
instruction at which the crew waits is kept with the frame (R204; log 67). -/
def takeTrap (s : State) (cause : Nat) (tval : DWord) : State :=
  let c := s.crew
  if c.tvec = 0 then s.escalate cause tval
  else if 4 ≤ c.frames.length then s.escalate 0x14 (BitVec.ofNat 64 cause)
  else
    let pc := if cause = 0x10 then c.pc + 4 else c.pc
    let s := s.recordCrew s.fkey 0 1 (pcBits pc.toNat + cause * 2 ^ 55)
    let s := s.packet s.fkey 7 (cause + (c.frames.length + 1) * 2 ^ 8)
    s.mapCrew (fun c => { c with
      frames := { pc := pc.zeroExtend 64, mask := c.am, mode := c.modex ++ c.mode,
                  cause := BitVec.ofNat 32 (cause + 256 * c.paths.length), tval := tval
                  deadline := c.deadline.map (fun t => (c.pc, t)) } :: c.frames
      mode := 0
      modex := 6
      pc := c.tvec.truncate 57
      replay := none
      firstIssue := none
      deadline := none
      waiting := none
      released := false
      stalled := false
      readyAt := s.issueTime s.fkey
      readySince := (s.issueTime s.fkey).2 })

/-- What popping a path, or the end of the crew's last path, leaves: the next path's PC and mask (R77, R405). -/
def Crew.popPath (c : Crew) : Option Crew :=
  match c.paths with
  | (pc, m) :: rest => some { c with pc := pc, am := m, paths := rest }
  | [] => none

/-! ## Register targets -/

/-- The trap of a PC target in a register, if it has one (R27, R75): MISALIGN before ACCESS. -/
def badTarget (t : DWord) : Option Nat :=
  if t.extractLsb' 0 2 ≠ 0 then some 0x02 else if 2 ^ 57 ≤ t.toNat then some 0x03 else none

/-! ## The checks of Table 2.4 -/

/-- The privilege level an instruction needs (R397, Table 17.2, Table 18.5). -/
def levelNeeded (i : Instr) : Nat :=
  match i with
  | .tlbi _ _ _ => 1
  | .ctxsv _ _ _ => 2
  | .ctxrs _ _ _ => 2
  | .sread _ n => if n.toNat ∈ [0x012, 0x013, 0x015, 0x016, 0x017, 0x018, 0x020, 0x032] then 1 else 0
  | .swrite _ n =>
    if n.toNat = 0x015 then 2 else if n.toNat ∈ [0x00A, 0x010, 0x011, 0x012, 0x013, 0x016, 0x017, 0x030, 0x032] then 1 else 0
  | _ => 0

/-- The tile a stand instruction names, with its field code (R233). -/
def tileField (i : Instr) : Option (Nat × Nat) :=
  match i with
  | .mzero t => some (0, t.toNat)
  | .mstore t _ _ => some (0, t.toNat)
  | .mread _ t _ => some (1, t.toNat)
  | .mflags _ t => some (1, t.toNat)
  | .mma _ _ t _ => some (2, t.toNat)
  | _ => none

/-- Step 4 of R36 (R295) for an instruction of a class of use: 0 SIMT mode only; 1 also for control and handler crews;
2 also for the control crew; 3 spatial mode only, both crews; 4 spatial mode only, the control crew. -/
def spatialOk (role : Option Bool) (use : Nat) : Bool :=
  match role with
  | none => decide (use ≤ 2)
  | some control => decide (use = 1 ∨ use = 3) || (control && decide (use = 2 ∨ use = 4))

/-- The first check of Table 2.4 that an instruction fails, as cause and tval. -/
def checkIssue (s : State) (c : Crew) (i : Instr) : Option (Nat × DWord) :=
  let word := i.word.zeroExtend 64
  if !(fieldsOk i && (operands c.mode i).all Opnd.ok) then some (0x01, word)
  else if (s.ctx c.ctx).level < levelNeeded i then some (0x15, word)
  else if !spatialOk (s.spatialRole s.fkey) (spatialUse i) then some (0x01, word)
  else if !modeOk c.mode c.modex i then some (0x13, c.mode.zeroExtend 64)
  else
    match (operands c.mode i).find? (fun o => !o.allocated c.vregs c.sregs), (tileField i).filter (fun e => !c.tiles.getLsbD e.2) with
    | some o, some (f, t) => some (0x12, BitVec.ofNat 64 (if f < o.field then f * 256 + t else o.tval))
    | some o, none => some (0x12, BitVec.ofNat 64 o.tval)
    | none, some (f, t) => some (0x12, BitVec.ofNat 64 (f * 256 + t))
    | none, none => none

/-! ## The scoreboard -/

/-- Two spans of registers share a register. -/
def spansMeet (r n r' n' : Nat) : Bool := decide (r < r' + n') && decide (r' < r + n)

/-- The operand names a register that the outstanding access writes (R58). -/
def Pend.targets (p : Pend) (o : Opnd) : Bool :=
  match p.kind with
  | .load dst _ _ => o.vec && spansMeet o.reg o.span dst (if p.size ≤ 4 then 1 else p.size / 4)
  | .atomic dst _ _ _ _ _ => o.vec && spansMeet o.reg o.span dst (p.size / 4)
  | .remote true dst => o.vec && spansMeet o.reg o.span dst (p.size / 4)
  | .sload dst => !o.vec && spansMeet o.reg o.span dst (p.size / 4)
  | _ => false

/-- The instruction waits: an operand's register has a pending job (R210) or awaits a peer's reply (R392). -/
def Crew.mustWait (c : Crew) (os : List Opnd) : Bool :=
  os.any (fun o => o.use ≠ .query &&
    ((!o.vec && c.tokens.keys.any (fun t => spansMeet o.reg o.span t 1)) ||
      c.pend.any (fun p => p.kind.isRemote && p.targets o)))

/-- An RGET of the crew has not returned (R185): no later store of the crew can become visible, and one waits to issue (log 74). -/
def Crew.awaitsGet (c : Crew) : Bool := c.pend.any (fun p => p.kind.isRemote && p.kind.isLoad)

/-- The instruction stores to memory, or makes something visible to other agents as a store does (R185). -/
def storesMemory (i : Instr) : Bool :=
  match i with
  | .stb _ _ _ => true
  | .sth _ _ _ => true
  | .stw _ _ _ => true
  | .std _ _ _ => true
  | .stq _ _ _ => true
  | .stx _ _ _ => true
  | .sst _ _ _ => true
  | .sst64 _ _ _ => true
  | .strel _ _ _ => true
  | .aadd _ _ _ => true
  | .amin _ _ _ => true
  | .amax _ _ _ => true
  | .aand _ _ _ => true
  | .aor _ _ _ => true
  | .axor _ _ _ => true
  | .axchg _ _ _ => true
  | .acas _ _ _ => true
  | .ainc _ _ _ => true
  | .adec _ _ _ => true
  | .mstore _ _ _ => true
  | .qinit _ _ => true
  | .enq _ _ _ _ _ => true
  | .deq _ _ _ _ => true
  | .rput _ _ _ => true
  | .cpinit _ _ => true
  | .reward _ _ => true
  | .sprout _ _ _ => true
  | .ctxsv _ _ _ => true
  | .trcarm _ _ _ => true
  | _ => false

/-- The instruction reads a completed job's token register: an acquire at the job's scope (R195).  A register that is
only written no longer stands for its job. -/
def State.observe (s : State) (os : List Opnd) : State :=
  let key := s.fkey
  let c := s.crew
  let meets (o : Opnd) (u : Unobserved) := !o.vec && spansMeet o.reg o.span u.token 1
  let seen := c.unobs.filter (fun u => os.any (fun o => (o.use = .read || o.use = .both) && meets o u))
  let kept := c.unobs.filter (fun u => !os.any (fun o => (o.use = .read || o.use = .both) && meets o u))
  let kept := kept.map (fun u => if os.any (fun o => o.use = .write && meets o u) then { u with token := 64 } else u)
  if seen.isEmpty && decide (kept = c.unobs) then s
  else seen.foldl (fun s u => s.acquire key u.scope) (s.mapCrew (fun c => { c with unobs := kept }))

/-! ## What an issued instruction leaves in rings and trace -/

/-- The path signature takes an event (R424). -/
def Crew.sign (c : Crew) (x : DWord) : Crew := { c with path := c.path.rotateLeft 5 ^^^ x }

/-- The number of the period of 65,536 ck in which a tick lies: 2.7 ck are one tick (R419; log 6). -/
def samplePeriod (clock : Nat) : Nat := clock * 27 / 655360

/-- A taken uniform branch (R74, R419): the first of a period is sampled. -/
def State.sampleBranch (s : State) (target : PcWord) : State :=
  if samplePeriod s.clock < s.crew.sampleAt then s
  else (s.recordCrew s.fkey 0 0 (pcBits target.toNat)).mapCrew (fun c => { c with sampleAt := samplePeriod s.clock + 1 })

/-- A branch or call is taken: the signature takes its target (R424). -/
def State.signTarget (s : State) (target : PcWord) : State := s.mapCrew (fun c => c.sign (target.zeroExtend 64))

/-- A uniform branch is taken: signature and sample. -/
def State.takenBranch (s : State) (target : PcWord) : State := (s.signTarget target).sampleBranch target

/-- The path list was popped: signature and packet. -/
def State.poppedPath (s : State) : State :=
  (s.mapCrew (fun c => c.sign ((c.pc.zeroExtend 64) ^^^ 2))).packet s.fkey 5 s.crew.am.toNat

/-- BRA is taken (R419, R424). -/
def State.flowFar (s : State) (target : Option PcWord) : State :=
  match target with
  | some t => s.takenBranch t
  | none => s

/-- CALL is taken (R424): it is no uniform branch. -/
def State.flowCall (s : State) (target : Option PcWord) : State :=
  match target with
  | some t => s.signTarget t
  | none => s

/-- A conditional branch, taken or not (R432). -/
def State.flowCond (s : State) (target : Option PcWord) : State :=
  match target with
  | some t => (s.traceBranch s.fkey true).takenBranch t
  | none => s.traceBranch s.fkey false

/-- A call, return or jump to a register target (R424, R432). -/
def State.flowReg (s : State) (target : Option PcWord) : State :=
  match target with
  | some t => (s.packet s.fkey 3 t.toNat).signTarget t
  | none => s

/-- A fence at die scope or wider is recorded (Table 18.2). -/
def State.flowFence (s : State) (pc : PcWord) (kind scope : Nat) : State :=
  if 2 ≤ scope then s.recordCrew s.fkey 1 2 (scope + kind * 2 ^ 4 + pcBits pc.toNat * 2 ^ 8) else s

/-- BRDIV, which splits the crew where its path list has grown beyond `paths` (R432). -/
def State.flowSplit (s : State) (paths : Nat) (target : Option PcWord) : State :=
  match target with
  | none => s.traceBranch s.fkey false
  | some t =>
    if paths < s.crew.paths.length then (s.packet s.fkey 4 s.crew.am.toNat).mapCrew (fun c => c.sign c.am)
    else (s.traceBranch s.fkey true).mapCrew (fun c => c.sign (t.zeroExtend 64))

/-- RCWAIT that went on, with the barrier's lanes or with a popped path (R432). -/
def State.flowJoin (s : State) (paths : Nat) (target : Option PcWord) : State :=
  match target with
  | none => s
  | some t =>
    if s.crew.paths.length < paths then s.poppedPath
    else (s.packet s.fkey 6 s.crew.am.toNat).mapCrew (fun c => c.sign ((t.zeroExtend 64) ^^^ 1))

/-- EXIT of some lanes, after which another path goes on (R432). -/
def State.flowExit (s : State) (target : Option PcWord) : State :=
  if target.isSome then (s.packet s.fkey 9 s.crew.live.toNat).poppedPath else s

/-- TRAPRET (R419, R432). -/
def State.flowReturn (s : State) (paths : Nat) (target : Option PcWord) : State :=
  match target with
  | none => s
  | some t =>
    let s := s.recordCrew s.fkey 0 2 (pcBits t.toNat + s.crew.frames.length * 2 ^ 55)
    let s := s.packet s.fkey 8 s.crew.am.toNat
    if s.crew.paths.length < paths then s.poppedPath else s

/-- The kinds of control flow that the recorder tells apart (R419, R424, R432). -/
inductive Flow where
  | far | call | cond | reg | divide | join | exit | back
  | fence (kind scope : Nat)
  | plain
  deriving DecidableEq, Repr

/-- The kind of an instruction. -/
def flowKind (i : Instr) : Flow :=
  match i with
  | .bra _ => .far
  | .call _ => .call
  | .brnz _ _ => .cond
  | .brz _ _ => .cond
  | .brany _ _ => .cond
  | .brall _ _ => .cond
  | .callr _ _ => .reg
  | .ret _ => .reg
  | .jmpr _ => .reg
  | .brdiv _ _ => .divide
  | .rcwait _ => .join
  | .exit => .exit
  | .trapret => .back
  | .fence k sc => .fence k.toNat sc.toNat
  | .fencej k sc => .fence k.toNat sc.toNat
  | _ => .plain

/-- What each kind of control flow leaves in the recorder; `c` is the crew before the instruction. -/
def State.flowOf (k : Flow) (c : Crew) (target : Option PcWord) (s : State) : State :=
  match k with
  | .far => s.flowFar target
  | .call => s.flowCall target
  | .cond => s.flowCond target
  | .reg => s.flowReg target
  | .divide => s.flowSplit c.paths.length target
  | .join => s.flowJoin c.paths.length target
  | .exit => s.flowExit target
  | .back => s.flowReturn c.paths.length target
  | .fence kind scope => s.flowFence c.pc kind scope
  | .plain => s

/-- What a completed instruction of crew `c`, which left state `s`, leaves in the recorder (R419, R424, R432): `target` is
where it placed the PC, if it did. -/
def flow (i : Instr) (c : Crew) (target : Option PcWord) (s : State) : State := State.flowOf (flowKind i) c target (s.noteReplay s.fkey c)

/-- The crew can issue: it is neither parked, halted, frozen nor cut (R361). -/
def Crew.canIssue (c : Crew) : Bool := c.park.isNone && !c.halted && !c.frozen && !c.cut

/-- A crew is bound, not stopped, and its next instruction waits on nothing that the model knows of (R59, R330). -/
def State.isReady (s : State) (key : Nat) : Bool :=
  (s.crews.get? key).elim false (fun c => c.canIssue && s.mayIssue key && !c.stalled)

/-- The state after the body of an instruction of crew `c`: the PC advances or is placed, or the trap is taken, and the
instruction is counted and recorded; a crew that waits leaves the active set (R59). -/
def finish (i : Instr) (c : Crew) : Res → State
  | .done s => (flow i c none (s.mapCrew (fun c => c.retireInstr.next))).countIssue s.fkey c i
  | .jump s pc => (flow i c (some pc) (s.mapCrew (fun c => { c.retireInstr with pc := pc }))).countIssue s.fkey c i
  | .resume s pc =>
    (flow i c (some pc) (s.mapCrew (fun c => { c.retireInstr with pc := pc, deadline := c.deadline }))).countIssue s.fkey c i
  | .gone s => (s.noteReplay s.fkey c).countIssue s.fkey c i
  | .ended s => s
  | .hold s => s.stall s.fkey
  | .trap s cause tval => (takeTrap s cause tval).countIssue s.fkey c i

/-- The executing crew issues an instruction whose effect is `body`: the checks of Table 2.4 in order, then the waits
of R58 and R210, then the effect.  A trap that is due before the crew's next instruction (R336, R245) comes first.
With no crew in the slot, or one that is stopped, nothing happens. -/
def issueState (i : Instr) (s : State) (body : State → Res) : State :=
  match s.crew? with
  | none => s
  | some c =>
    if !c.canIssue || !s.mayIssue s.fkey then s
    else if c.savedTrap.isSome then
      takeTrap (s.setCrew { c with savedTrap := none }) (c.savedTrap.getD (0, 0)).1 (c.savedTrap.getD (0, 0)).2
    else
      match checkIssue s c i with
      | some (cause, tval) => takeTrap s cause tval
      | none =>
        let os := operands c.mode i
        let s := if c.pend.any (fun p => os.any p.targets) then s.perform s.fkey (fun p => os.any p.targets) else s
        if s.crew.mustWait os || (storesMemory i && s.crew.awaitsGet) then s.stall s.fkey else finish i c (body (s.observe os))

/-- Issue as an outcome of a step. -/
def issue (i : Instr) (s : State) (body : State → Res) : Host.Outcome State Fault Refusal :=
  .next (issueState i s body)

/-- An instruction that changes only its crew and goes on to the next. -/
def issueCrew (i : Instr) (s : State) (f : Crew → Crew) : Host.Outcome State Fault Refusal :=
  issue i s (fun s => .done (s.mapCrew f))

end Sys2Proof.Machine
end

