-- ==== Sys2Proof/Machine/Elem.lean ====
section
/-! DEFINITION. The element loop of the lane instructions (R107 to R109) and the functions it runs. -/

namespace Sys2Proof.Machine

/-- The rounding in force in a crew, with the generator value `g` of a draw (R93, R109). -/
def Crew.rndWith (c : Crew) (g : Word) : Rnd :=
  ⟨modeRnd c.mode, modeSat c.mode, modexFtz c.modex, if modeRnd c.mode = 5 then g.toNat else 0⟩

/-- The elements of one lane: `f i r` for each index below `n`, with one draw for each when `draws` (R94), and the
generator afterwards. -/
def Crew.elems (c : Crew) (draws : Bool) (f : Nat → Rnd → Nat) (n : Nat) (g : Word) : List Nat × Word :=
  (List.range n).foldl (fun acc i =>
    let g := if draws then drawStep acc.2 else acc.2
    (acc.1 ++ [f i (c.rndWith g)], g)) ([], g)

/-- The element loop of R107: in each lane of `m`, `n` elements of width `w` go to the `span` registers from v[d] on. -/
def Crew.laneLoop (c : Crew) (m : Mask) (d span n w : Nat) (draws : Bool) (f : Nat → Nat → Rnd → Nat) : Crew :=
  (lanesOf m).foldl (fun acc l =>
    let r := c.elems draws (f l) n (c.gen l)
    (if draws then acc.setGen l r.2 else acc).setVN d l (packElems w r.1) span) c

/-- The loop over the elements of MODE.type; draws are made under code 5 when the instruction is of the kind that
reads MODE.rnd (R109). -/
def Crew.typeLoop (c : Crew) (d : Nat) (rounds : Bool) (f : Nat → Nat → Rnd → Nat) : Crew :=
  let t := modeType c.mode
  c.laneLoop c.active d (spanOf t) (countOf t) (widthOf t) (rounds && decide (modeRnd c.mode = 5)) f

/-- MODE.type is a float type. -/
def Crew.isFloat (c : Crew) : Bool :=
  match elemKind (modeType c.mode) with
  | .flt _ => true
  | .int _ => false

/-- Element `i` of the vector operand at v[a] in lane `l`, as MODE.type packs it. -/
def Crew.elem (c : Crew) (a l i : Nat) : Nat :=
  let t := modeType c.mode
  elemAt (widthOf t) (c.getVN (spanOf t) a l) i

/-- An instruction of two sources (R107): exact integers through `fi`, exact reals through `ff` (which also takes
whether MODE.rnd is RDN). -/
def Crew.arith2 (c : Crew) (d a b : Nat) (fi : Int → Int → Int) (ff : Bool → Val → Val → Val) : Crew :=
  c.typeLoop d c.isFloat (fun l i r =>
    match elemKind (modeType c.mode) with
    | .int t => fitInt t r.sat (fi (t.read (c.elem a l i)) (t.read (c.elem b l i)))
    | .flt f => rndFloat f r (ff (decide (r.code = 2)) (f.read r.ftz (c.elem a l i)) (f.read r.ftz (c.elem b l i))))

/-- An instruction of three sources, the third in the destination (the FMA family). -/
def Crew.arith3 (c : Crew) (d a b : Nat) (fi : Int → Int → Int → Int) (ff : Bool → Val → Val → Val → Val) : Crew :=
  c.typeLoop d c.isFloat (fun l i r =>
    match elemKind (modeType c.mode) with
    | .int t => fitInt t r.sat (fi (t.read (c.elem a l i)) (t.read (c.elem b l i)) (t.read (c.elem d l i)))
    | .flt f =>
      rndFloat f r (ff (decide (r.code = 2)) (f.read r.ftz (c.elem a l i)) (f.read r.ftz (c.elem b l i))
        (f.read r.ftz (c.elem d l i))))

/-- An instruction of one source. -/
def Crew.arith1 (c : Crew) (d a : Nat) (fi : Int → Int) (ff : Val → Val) : Crew :=
  c.typeLoop d c.isFloat (fun l i r =>
    match elemKind (modeType c.mode) with
    | .int t => fitInt t r.sat (fi (t.read (c.elem a l i)))
    | .flt f => rndFloat f r (ff (f.read r.ftz (c.elem a l i))))

/-- An instruction of two sources on integers only (class I and L), giving bits. -/
def Crew.int2 (c : Crew) (d a b : Nat) (f : IntFmt → Bool → Int → Int → Nat) : Crew :=
  c.typeLoop d false (fun l i r =>
    match elemKind (modeType c.mode) with
    | .int t => f t r.sat (t.read (c.elem a l i)) (t.read (c.elem b l i))
    | .flt _ => 0)

/-- An instruction of one source on floats only. -/
def Crew.float1 (c : Crew) (d a : Nat) (rounds : Bool) (f : Fmt → Rnd → Nat → Nat) : Crew :=
  c.typeLoop d rounds (fun l i r =>
    match elemKind (modeType c.mode) with
    | .flt t => f t r (c.elem a l i)
    | .int _ => 0)

/-- An exact value written without rounding: the result is an operand or an integral value. -/
def writeExact (f : Fmt) (r : Rnd) (v : Val) : Nat := rndFloat f { r with code := 1 } v

/-- A value rounded to an integral value by the code of `r`, keeping its sign (R125). -/
def roundIntegral (r : Rnd) : Val → Val
  | .num neg n d =>
    let m := n / d
    .num neg (if roundsUp r neg m (n % d) d then m + 1 else m) 1
  | v => v

/-- x × 2^k with the exponent held within ±2000, beyond every format's range, where `rnd` gives the same result for
every value (R127). -/
def scaleVal (v : Val) (k : Int) : Val := v.mul (pow2Val k)

/-- The class mask of an encoding (R126). -/
def classMask (f : Fmt) (bits : Nat) : Nat :=
  let neg := decide (f.signBit ≤ bits % 2 ^ f.width)
  match f.value bits with
  | .nan => 2 ^ 8
  | .inf s => if s then 2 ^ 0 else 2 ^ 7
  | .num _ n _ =>
    if n = 0 then (if neg then 2 ^ 3 else 2 ^ 4)
    else if f.subnormal bits then (if neg then 2 ^ 2 else 2 ^ 5)
    else (if neg then 2 ^ 1 else 2 ^ 6)

/-- A comparison's bit in one lane (R117): relations on integers and on floats, and what a NaN operand gives. -/
def Crew.compare (c : Crew) (d a b : Nat) (ri : Int → Int → Bool) (rf : Val → Val → Bool) (onNan : Bool) : Crew :=
  let ftz := modexFtz c.modex
  c.setPredLanes d c.active (maskOf (fun l =>
    match elemKind (modeType c.mode) with
    | .int t => ri (t.read (c.elem a l 0)) (t.read (c.elem b l 0))
    | .flt f =>
      let x := f.read ftz (c.elem a l 0)
      let y := f.read ftz (c.elem b l 0)
      if x.isNan || y.isNan then onNan else rf x y))

/-- A dot product of `n` products into the 32-bit accumulator v[d] (R121). -/
def Crew.dot (c : Crew) (d a b n : Nat) : Crew :=
  let t := modeType c.mode
  let w := widthOf t
  match elemKind t with
  | .int it =>
    c.laneLoop c.active d 1 1 32 false (fun l _ r =>
      let acc : IntFmt := ⟨it.signed, 32⟩
      fitInt acc r.sat
        ((List.range n).foldl (fun z i =>
          z + it.read (elemAt w (c.getV a l).toNat i) * it.read (elemAt w (c.getV b l).toNat i))
          (acc.read (c.getV d l).toNat)))
  | .flt f =>
    c.laneLoop c.active d 1 1 32 (decide (modeRnd c.mode = 5)) (fun l _ r =>
      rndFloat .binary32 r (sumVals (decide (r.code = 2))
        (Fmt.binary32.read r.ftz (c.getV d l).toNat ::
          (List.range n).map (fun i =>
            (f.read r.ftz (elemAt w (c.getV a l).toNat i)).mul (f.read r.ftz (elemAt w (c.getV b l).toNat i))))))

/-- Copy whole operands of MODE.type: in each lane of `m`, the `span` registers at v[d] take `f l`. -/
def Crew.copyLoop (c : Crew) (m : Mask) (d : Nat) (f : Nat → Nat) : Crew :=
  c.setLanes d (spanOf (modeType c.mode)) m f

/-- The whole operand of MODE.type at v[a] in lane l. -/
def Crew.whole (c : Crew) (a l : Nat) : Nat := c.getVN (spanOf (modeType c.mode)) a l

/-- An instruction on the elements' bits (R135, R137): width and bits to bits. -/
def Crew.bits2 (c : Crew) (d a b : Nat) (f : Nat → Nat → Nat → Nat) : Crew :=
  c.typeLoop d false (fun l i _ => f (widthOf (modeType c.mode)) (c.elem a l i) (c.elem b l i))

/-- An instruction on the bits of one source's elements. -/
def Crew.bits1 (c : Crew) (d a : Nat) (f : Nat → Nat → Nat) : Crew :=
  c.typeLoop d false (fun l i _ => f (widthOf (modeType c.mode)) (c.elem a l i))

/-- The number of 1 bits among the low `w` bits. -/
def popCount (w x : Nat) : Nat := ((List.range w).filter (fun j => x.testBit j)).length

/-- The number of 0 bits above the highest 1 bit of a `w`-bit value. -/
def leadingZeros (w x : Nat) : Nat := if x = 0 then w else w - 1 - Nat.log2 x

/-- The bits of a `w`-bit value reversed. -/
def reverseBits (w x : Nat) : Nat :=
  (List.range w).foldl (fun r j => if x.testBit j then r + 2 ^ (w - 1 - j) else r) 0

/-- A `w`-bit value shifted right by `n` with copies of its top bit. -/
def arithShift (w x n : Nat) : Nat := lowBits w (signedOf w x / 2 ^ n)

/-- The field of BFX and BFI (R136): position and length, cut at the width; none where nothing is selected. -/
def fieldOf (w ctl : Nat) : Option (Nat × Nat) :=
  let pos := ctl % 256
  let len := ctl / 256 % 256
  if w ≤ pos ∨ len = 0 then none else some (pos, min len (w - pos))

end Sys2Proof.Machine
end

