-- ==== Sys2Proof/Machine/Access.lean ====
section
/-! DEFINITION. Loads, stores, hints, pins and pool mappings, opcodes 0x70 to 0x86 (R150 to R177). -/

namespace Sys2Proof.Machine

/-! ## The shared access -/

/-- The lanes' addresses of a vector access: v[a:a+1][l] plus an offset, modulo 2^64 (R146, R150). -/
def Crew.laneAddrs (c : Crew) (a : Nat) (off : DWord) : List (Nat × Nat) :=
  (lanesOf c.active).map (fun l => (l, (c.getVV a l + off).toNat))

/-- The scaled signed immediate of an access of `size` bytes (R150). -/
def scaledImm (i : BitVec 8) (size : Nat) : DWord := i.signExtend 64 * BitVec.ofNat 64 size

/-- The entry of an outstanding access: the lanes that translated, with what each carries. -/
def Crew.pendOf (c : Crew) (kind : PendKind) (size : Nat) (xs : List LaneXlat) (data cmp : Nat → Nat)
    (gens : Nat → List Nat) : Pend :=
  { kind := kind
    size := size
    accs := xs.map (fun x => ⟨x.lane, x.va, x.loc, data x.lane, cmp x.lane, gens x.lane, true⟩)
    pc := c.pc
    seq := c.issued
    acked := 0
    issuedAt := 0 }

/-- The upper half of an entry of 16 bytes: its lanes 8 bytes on, with the upper registers or data. -/
def Pend.upper (p : Pend) : Pend :=
  { p with
    kind := match p.kind with
      | .load dst sext past => .load (dst + 2) sext past
      | k => k
    size := 8
    accs := p.accs.map (fun a => { a with va := a.va + 8, loc := ⟨a.loc.idx + 8, a.loc.cached⟩, data := a.data / 2 ^ 64 }) }

/-- The entries of an access: one of 16 bytes is two, one for each aligned half, which can be performed apart (R154). -/
def Pend.halves (p : Pend) : List Pend := if p.size = 16 then [{ p with size := 8 }, p.upper] else [p]

/-- An access becomes outstanding. -/
def State.enterPend (s : State) (p : Pend) : State :=
  if p.accs.isEmpty then s else s.mapCrew (fun c => { c with pend := c.pend ++ ({ p with issuedAt := s.clock } : Pend).halves })

/-- The lanes of a classification, as a mask. -/
def lanesMask (xs : List LaneXlat) : Mask := maskOf (fun l => xs.any (fun x => decide (x.lane = l)))

/-- A vector access (R153, R161): classified as a whole, performed in every lane but the absent ones, on which the crew
parks.  `act` takes the lanes that translated. -/
def vectorAccess (s : State) (size : Nat) (need : Need) (isLoad : Bool) (lanes : List (Nat × Nat))
    (act : State → List LaneXlat → State) : Res :=
  match s.classify s.focusCore (some s.fkey) s.crew.ctx size need isLoad lanes with
  | (.trap cause tval, s) => .trap s cause tval
  | (.go xs [], s) => .done (act s xs)
  | (.go xs absent, s) => .hold ((act s xs).parkOn (lanesMask absent) need absent)

/-- A scalar access (R152, R153): one lane, lane 0; an absent page parks with F equal to AM. -/
def scalarAccess (s : State) (size : Nat) (need : Need) (isLoad : Bool) (va : DWord)
    (act : State → LaneXlat → Res) : Res :=
  match s.classify s.focusCore none s.crew.ctx size need isLoad [(0, va.toNat)] with
  | (.trap cause tval, s) => .trap s cause tval
  | (.go (x :: _) [], s) => act s x
  | (.go _ absent, s) => .hold (s.parkOn s.crew.am need absent)

/-- A crew reads bytes of a structure at their points of coherence (R182, R262): its own earlier accesses to them are performed, the core's
copies of their lines leave L1, and each distinct line is requested. -/
def State.pocRead (s : State) (xs : List LaneXlat) : State :=
  let p := s.crew.pendOf .store 1 xs (fun _ => 0) (fun _ => 0) (fun _ => [])
  let s := s.perform s.fkey (fun q => q.overlaps p)
  (s.leaveL1 s.focusCore ((xs.filter (fun x => x.loc.cached)).map (fun x => x.loc.idx / 128))).requests s.focusCore s.crew.ctx xs

/-- The distinct lines of some places, each read once as a plain load reads it (R154, R209, R481): through L1 where it is L1-cacheable, with a
request where L1 missed.  `m` holds the lines read so far. -/
def State.readLines (s : State) (m : SMap Nat) : List LaneXlat → SMap Nat × State
  | [] => (m, s)
  | x :: xs =>
    let line := x.loc.idx / 128
    if (m.get? line).isSome then s.readLines m xs
    else
      let core := s.focusCore
      let (v, missed, t) := s.readPlain core ⟨line * 128, x.loc.cached⟩ 128
      let t := if x.loc.cached then t.countEvent core (if missed then 0x1001 else 0x1000) t.crew.task 1 else t
      let t := if missed then t.request core t.crew.ctx x.va x.loc else t
      t.readLines (m.insert line v) xs

/-- Bytes at some places out of lines, as one little-endian number. -/
def lineBytes (m : SMap Nat) (xs : List LaneXlat) : Nat :=
  xs.foldr (fun x acc => fld (m.getD (x.loc.idx / 128) 0) (x.loc.idx % 128) 1 + 256 * acc) 0

/-- A crew reads bytes of a structure as scalar loads (R209, R246): its own earlier accesses to them are performed first. -/
def State.plainRead (s : State) (xs : List LaneXlat) : Nat × State :=
  let p := s.crew.pendOf .store 1 xs (fun _ => 0) (fun _ => 0) (fun _ => [])
  let r := (s.perform s.fkey (fun q => q.overlaps p)).readLines [] xs
  (lineBytes r.1 xs, r.2)

/-- The bytes at some places, as one little-endian number. -/
def State.placeBytes (s : State) (xs : List LaneXlat) : Nat := xs.foldr (fun x acc => (s.byte x.loc.idx).toNat + 256 * acc) 0

/-- A scalar read of `n` bytes of a structure at `va` that must be a multiple of `align` (R209, R332): it needs Rd,
and every page it touches is classified; a trap reports `va` (log 95). -/
def structRead (s : State) (va : DWord) (n align : Nat) (act : State → Nat → Res) : Res :=
  if va.toNat % align ≠ 0 then .trap s 0x02 va
  else
    match s.classify s.focusCore none s.crew.ctx 1 .read true ((List.range n).map (fun i => (0, va.toNat + i))) with
    | (.trap cause _, s) => .trap s cause va
    | (.go xs [], s) => act (s.plainRead xs).2 (s.plainRead xs).1
    | (.go _ absent, s) => .hold (s.parkOn s.crew.am .read absent)

/-! ## Vector loads and stores -/

/-- The sign extension of LDB and LDH (R150). -/
def Crew.signedLoad (c : Crew) (size : Nat) : Bool := decide (size < 4) && decide (modeType c.mode ∈ [0, 3, 7, 12])

/-- The effect of LDB to LDQ and LDX: `size` bytes at each lane's address into v[d] … -/
def loadBody (d size : Nat) (lanes : Crew → List (Nat × Nat)) (s : State) : Res :=
  vectorAccess s size .read true (lanes s.crew) (fun s xs =>
    s.enterPend (s.crew.pendOf (.load d (s.crew.signedLoad size) false) size xs (fun _ => 0) (fun _ => 0) (fun _ => [])))

/-- The data of a store in lane `l`: the `size` low bytes of the data registers. -/
def Crew.storeData (c : Crew) (d size l : Nat) : Nat :=
  packElems 32 ((List.range (if size ≤ 4 then 1 else size / 4)).map (fun j => (c.getV (d + j) l).toNat))

/-- The effect of STB to STQ and STX. -/
def storeBody (d size : Nat) (lanes : Crew → List (Nat × Nat)) (s : State) : Res :=
  vectorAccess s size .write false (lanes s.crew) (fun s xs =>
    s.enterPend (s.crew.pendOf .store size xs (s.crew.storeData d size) (fun _ => 0) (fun _ => [])))

/-- LDB (R150): loads byte in each active lane. -/
def execLdb (d a i : BitVec 8) (s : State) : Host.Outcome State Fault Refusal :=
  issue (.ldb d a i) s (loadBody d.toNat 1 (fun c => c.laneAddrs a.toNat (scaledImm i 1)))

/-- LDH (R150): loads 2 bytes in each active lane. -/
def execLdh (d a i : BitVec 8) (s : State) : Host.Outcome State Fault Refusal :=
  issue (.ldh d a i) s (loadBody d.toNat 2 (fun c => c.laneAddrs a.toNat (scaledImm i 2)))

/-- LDW (R150): loads 4 bytes in each active lane. -/
def execLdw (d a i : BitVec 8) (s : State) : Host.Outcome State Fault Refusal :=
  issue (.ldw d a i) s (loadBody d.toNat 4 (fun c => c.laneAddrs a.toNat (scaledImm i 4)))

/-- LDD (R150): loads 8 bytes into a pair in each active lane. -/
def execLdd (d a i : BitVec 8) (s : State) : Host.Outcome State Fault Refusal :=
  issue (.ldd d a i) s (loadBody d.toNat 8 (fun c => c.laneAddrs a.toNat (scaledImm i 8)))

/-- LDQ (R150): loads 16 bytes into four registers in each active lane. -/
def execLdq (d a i : BitVec 8) (s : State) : Host.Outcome State Fault Refusal :=
  issue (.ldq d a i) s (loadBody d.toNat 16 (fun c => c.laneAddrs a.toNat (scaledImm i 16)))

/-- STB (R150): stores the low byte in each active lane. -/
def execStb (d a i : BitVec 8) (s : State) : Host.Outcome State Fault Refusal :=
  issue (.stb d a i) s (storeBody d.toNat 1 (fun c => c.laneAddrs a.toNat (scaledImm i 1)))

/-- STH (R150): stores the low 2 bytes in each active lane. -/
def execSth (d a i : BitVec 8) (s : State) : Host.Outcome State Fault Refusal :=
  issue (.sth d a i) s (storeBody d.toNat 2 (fun c => c.laneAddrs a.toNat (scaledImm i 2)))

/-- STW (R150): stores 4 bytes in each active lane. -/
def execStw (d a i : BitVec 8) (s : State) : Host.Outcome State Fault Refusal :=
  issue (.stw d a i) s (storeBody d.toNat 4 (fun c => c.laneAddrs a.toNat (scaledImm i 4)))

/-- STD (R150): stores 8 bytes from a pair in each active lane. -/
def execStd (d a i : BitVec 8) (s : State) : Host.Outcome State Fault Refusal :=
  issue (.std d a i) s (storeBody d.toNat 8 (fun c => c.laneAddrs a.toNat (scaledImm i 8)))

/-- STQ (R150): stores 16 bytes from four registers in each active lane. -/
def execStq (d a i : BitVec 8) (s : State) : Host.Outcome State Fault Refusal :=
  issue (.stq d a i) s (storeBody d.toNat 16 (fun c => c.laneAddrs a.toNat (scaledImm i 16)))

/-- The addresses of LDX and STX (R151): s[a:a+1] + zext(v[b][l]) × 4. -/
def Crew.indexedAddrs (c : Crew) (a b : Nat) : List (Nat × Nat) :=
  (lanesOf c.active).map (fun l => (l, (c.getSS a + (c.getV b l).zeroExtend 64 * 4).toNat))

/-- LDX (R151): loads 4 bytes at a scalar base plus a lane index. -/
def execLdx (d a b : BitVec 8) (s : State) : Host.Outcome State Fault Refusal :=
  issue (.ldx d a b) s (loadBody d.toNat 4 (fun c => c.indexedAddrs a.toNat b.toNat))

/-- STX (R151): stores 4 bytes at a scalar base plus a lane index. -/
def execStx (d a b : BitVec 8) (s : State) : Host.Outcome State Fault Refusal :=
  issue (.stx d a b) s (storeBody d.toNat 4 (fun c => c.indexedAddrs a.toNat b.toNat))

/-! ## Scalar loads and stores -/

/-- The effect of SLD and SLD64. -/
def scalarLoadBody (d a size : Nat) (i : BitVec 8) (s : State) : Res :=
  scalarAccess s size .read true (s.crew.getSS a + scaledImm i size) (fun s x =>
    .done (s.enterPend (s.crew.pendOf (.sload d) size [x] (fun _ => 0) (fun _ => 0) (fun _ => []))))

/-- The effect of SST and SST64. -/
def scalarStoreBody (d a size : Nat) (i : BitVec 8) (s : State) : Res :=
  scalarAccess s size .write false (s.crew.getSS a + scaledImm i size) (fun s x =>
    .done (s.enterPend (s.crew.pendOf .store size [x] (fun _ => s.crew.getSN (size / 4) d) (fun _ => 0) (fun _ => []))))

/-- SLD (R152): a scalar load of 4 bytes, once per crew. -/
def execSld (d a i : BitVec 8) (s : State) : Host.Outcome State Fault Refusal :=
  issue (.sld d a i) s (scalarLoadBody d.toNat a.toNat 4 i)

/-- SLD64 (R152): a scalar load of 8 bytes, once per crew. -/
def execSld64 (d a i : BitVec 8) (s : State) : Host.Outcome State Fault Refusal :=
  issue (.sld64 d a i) s (scalarLoadBody d.toNat a.toNat 8 i)

/-- SST (R152): a scalar store of 4 bytes, once per crew. -/
def execSst (d a i : BitVec 8) (s : State) : Host.Outcome State Fault Refusal :=
  issue (.sst d a i) s (scalarStoreBody d.toNat a.toNat 4 i)

/-- SST64 (R152): a scalar store of 8 bytes, once per crew. -/
def execSst64 (d a i : BitVec 8) (s : State) : Host.Outcome State Fault Refusal :=
  issue (.sst64 d a i) s (scalarStoreBody d.toNat a.toNat 8 i)

/-! ## Losing a pin or a pool mapping -/

/-- Two byte ranges overlap. -/
def Range.overlaps (r q : Range) : Bool :=
  decide (r.base < q.base + q.len) && decide (q.base < r.base + r.len) && decide (0 < r.len) && decide (0 < q.len)

/-- The ranges of a job whose pool mappings and pins must last: a copy's destination (R219), and all that a collective touches (R385). -/
def Job.keeps (j : Job) : List Range :=
  match j.kind with
  | .copy => [⟨fld j.card 16 8, fld j.card 24 8⟩]
  | .collective _ => j.reads ++ j.writes
  | _ => []

/-- A range of a context holds a line of some physical runs: the part of it in each page lies on one physical page. -/
def State.rangeReaches (s : State) (cn : Nat) (runs : List (Nat × Nat)) (r : Range) : Bool :=
  (List.range ((r.base + r.len + 2 ^ 17 - 1) / 2 ^ 17 - r.base / 2 ^ 17)).any (fun i =>
    let lo := max r.base ((r.base / 2 ^ 17 + i) * 2 ^ 17)
    let hi := min (r.base + r.len) ((r.base / 2 ^ 17 + i + 1) * 2 ^ 17)
    match s.walk cn lo with
    | .leaf e =>
      let pa := e.pa + (lo - e.va)
      runs.any (fun q => decide (q.1 < pa + (hi - lo) ∧ pa < q.1 + q.2))
    | _ => false)

/-- A pin or pool mapping of a context goes, with its physical runs: the running jobs whose ranges it covered have lost it (R219), by its
address or by another that reaches the same lines (R173).  A collective loses only what is revoked (R385). -/
def State.loseRange (s : State) (cn : Nat) (r : Range) (runs : List (Nat × Nat)) (revoked : Bool) : State :=
  { s with cores := s.cores.mapVals (fun (c : Core) => { c with jobs := c.jobs.map (fun j =>
      if j.started && (revoked || !j.kind.isCollective) &&
          j.keeps.any (fun q => (decide (j.ctx = cn) && r.overlaps q) || s.rangeReaches j.ctx runs q) then { j with lost := true }
      else j) }) }

/-! ## Prefetch, pins, hints and probes -/

/-- The lines that a prefetch of some addresses fetches, each once: those whose address neither traps nor faults. -/
def State.prefLines (s : State) (cn : Nat) (lanes : List (Nat × Nat)) : List LaneXlat :=
  (lanes.foldl (fun (acc : List LaneXlat) l =>
    match s.xlateWalk cn l.2 .nothing with
    | .ok loc =>
      if loc.cached && !s.poisoned (loc.idx / 128 * 128) 128 && !acc.any (fun x => decide (x.loc.idx / 128 = loc.idx / 128)) then
        acc ++ [⟨l.1, l.2, .ok loc⟩]
      else acc
    | _ => acc) [])

/-- PREF (R175): fetches lines, which no counter counts; level 0 fills L1.  A lane whose address would trap or fault is dropped. -/
def execPref (d a i : BitVec 8) (s : State) : Host.Outcome State Fault Refusal :=
  issue (.pref d a i) s (fun s =>
    let xs := s.prefLines s.crew.ctx (s.crew.laneAddrs a.toNat (scaledImm i 128))
    .done (if d = 0 then xs.foldl (fun s x => s.fillL1 s.focusCore (x.loc.idx / 128)) s else s))

/-- The first address in each 128 KiB page of a range. -/
def pageStarts (va len : Nat) : List Nat :=
  (List.range ((va + len - 1) / 2 ^ 17 + 1 - va / 2 ^ 17)).map (fun j =>
    if j = 0 then va else (va / 2 ^ 17 + j) * 2 ^ 17)

/-- The part of a range that lies in the 128 KiB page of `v`. -/
def pagePart (va len v : Nat) : Nat := min (va + len) ((v / 2 ^ 17 + 1) * 2 ^ 17) - v

/-- The lowest address of a range that a window decodes, if there is one. -/
def State.windowIn (s : State) (cn va len : Nat) : Option Nat :=
  (va :: ((List.range (len / 2 ^ 26 + 1)).map (fun j => (va / 2 ^ 26 + 1 + j) * 2 ^ 26))).find?
    (fun v => decide (v < va + len) && (s.window cn v).isSome)

/-- The physical lines of some runs. -/
def runLines (runs : List (Nat × Nat)) : List Nat :=
  runs.flatMap (fun r => (List.range ((r.1 + r.2 + 127) / 128 - r.1 / 128)).map (fun j => r.1 / 128 + j))

/-- The lines that pins of the package hold (R171). -/
def State.pinnedLines (s : State) : List Nat :=
  s.dies.flatMap (fun d => d.2.pins.flatMap (fun p => if p.2.revoked then [] else runLines p.2.runs))

/-- With the lines of some runs pinned too, no L2 set would hold more than 8 pinned ways (R171). -/
def State.waysSuffice (s : State) (runs : List (Nat × Nat)) : Bool :=
  let sets := ((runLines runs ++ s.pinnedLines).dedup).map s.l2Set
  sets.all (fun x => decide (sets.count x ≤ 8))

/-- The physical byte of a translated address, which for a pool-mapped place is its backing line's. -/
def State.backing (s : State) (cn : Nat) (x : LaneXlat) : Nat :=
  match s.walk cn x.va with
  | .leaf e => e.pa + (x.va - e.va)
  | _ => x.loc.idx

/-- L2PIN (R171): pins a range's lines in their L2 homes, where the ways suffice; the handle is one of the free ones (log 21). -/
def execL2pin (d a b : BitVec 8) (s : State) : Host.Outcome State Fault Refusal :=
  issue (.l2pin d a b) s (fun s =>
    let c := s.crew
    let va := (c.getSS a.toNat).toNat
    let len := (c.getS b.toNat).toNat
    let put (s : State) (x : Nat) : Res := .done (s.mapCrew (fun c => c.setS d.toNat (BitVec.ofNat 32 x)))
    if len = 0 ∨ 2 ^ 22 < len then put s 0xFFFFFFFD
    else
      match s.windowIn c.ctx va len with
      | some v => .trap s 0x03 (BitVec.ofNat 64 v)
      | none =>
        match s.classify s.focusCore none c.ctx 1 .read false ((pageStarts va len).map (fun v => (0, v))) with
        | (.trap cause tval, s) => .trap s cause tval
        | (.go xs [], s) =>
          let die := dieOf s.focusCore
          let free := (List.range 64).filter (fun h => ((s.die die).pins.get? h).isNone)
          if free.isEmpty then put s 0xFFFFFFFF
          else
            let runs := xs.map (fun x => (s.backing c.ctx x, pagePart va len x.va))
            if !s.waysSuffice runs then put s 0xFFFFFFFE
            else
              let (pick, s) := s.takeFree
              let h := free.getD (pick.toNat % free.length) 0
              put (s.mapDie die (fun x => { x with pins := x.pins.insert h ⟨c.ctx, va, len, runs, false⟩ })) h
        | (.go _ absent, s) => .hold (s.parkOn s.crew.am .read absent))

/-- L2UNPIN (R172): releases a pin; a revoked one frees its handle and traps. -/
def execL2unpin (a : BitVec 8) (s : State) : Host.Outcome State Fault Refusal :=
  issue (.l2unpin a) s (fun s =>
    let h := s.crew.getS a.toNat
    let die := dieOf s.focusCore
    match (s.die die).pins.get? h.toNat with
    | none => .trap s 0x03 (h.zeroExtend 64)
    | some p =>
      if p.ctx ≠ s.crew.ctx then .trap s 0x03 (h.zeroExtend 64)
      else
        let s := s.mapDie die (fun x => { x with pins := x.pins.remove h.toNat })
        let s := if p.revoked then s else s.loseRange p.ctx ⟨p.va, p.len⟩ p.runs false
        if p.revoked then .trap s 0x05 (BitVec.ofNat 64 p.va) else .done s)

/-- The physical page of a leaf that serves an address, by a walk. -/
def State.leafOf (s : State) (cn va : Nat) : Option TlbEntry :=
  if 2 ^ 57 ≤ va ∨ (s.window cn va).isSome then none
  else
    match s.walk cn va with
    | .leaf e => some e
    | _ => none

/-- PAGEHINT kind 0 (R176): writes the preferred die into an invalid level-0 entry of kind 01. -/
def execPagehintPrefer (a b : BitVec 8) (s : State) : Host.Outcome State Fault Refusal :=
  issue (.pagehintPrefer a b) s (fun s =>
    let c := s.crew
    let va := (c.getSS a.toNat).toNat
    let die := (c.getS b.toNat).toNat
    if 7 < die ∨ s.dieLive die = false ∨ 2 ^ 57 ≤ va ∨ (s.window c.ctx va).isSome then .done s
    else
      match s.walk c.ctx va with
      | .invalid 1 0 pte e => .done (s.setPhysBytes pte (e - bitsOf e 7 4 * 16 + (8 + die) * 16) 8)
      | _ => .done s)

/-- PAGEHINT kind 1 (R176): asks the foreman to migrate a mapped page. -/
def execPagehintMigrate (a b : BitVec 8) (s : State) : Host.Outcome State Fault Refusal :=
  issue (.pagehintMigrate a b) s (fun s =>
    let c := s.crew
    let va := (c.getSS a.toNat).toNat
    let die := (c.getS b.toNat).toNat
    if 7 < die ∨ s.dieLive die = false ∨ (s.leafOf c.ctx va).isNone then .done s
    else .done { s with migReqs := s.migReqs ++ [⟨c.ctx, va, die⟩] })

/-- PAGEHINT kind 2 (R176): clears the page's access counter and queued bit. -/
def execPagehintClear (a b : BitVec 8) (s : State) : Host.Outcome State Fault Refusal :=
  issue (.pagehintClear a b) s (fun s =>
    let va := (s.crew.getSS a.toNat).toNat
    match s.leafOf s.crew.ctx va with
    | none => .done s
    | some e => .done { s with pageCtr := s.pageCtr.remove ((e.pa + (va - e.va)) / 2 ^ 17) })

/-- The value PROBE reports for an address (R177).  Code 0 is never reported: the rule names no case for it (log 97). -/
def State.probe (s : State) (cn level va : Nat) : Nat :=
  if 2 ^ 57 ≤ va then 7
  else
    match s.window cn va with
    | some (some i) =>
      4 * 2 ^ 8 + (if i < 2 ^ 53 then (i - 2 ^ 52) / 2 ^ 27 else dieOf ((i - 2 ^ 53) / 2 ^ 18)) * 8 + 1
    | some none => 4 * 2 ^ 8 + 1
    | none =>
      match s.walk cn va with
      | .malformed => 2
      | .invalid kind _ _ _ => 3 + kind
      | .leaf e =>
        let pa := e.pa + (va - e.va)
        (if 1 ≤ level then e.pa / 2 ^ 17 * 2 ^ 17 else 0) +
        (if e.size = 2 ^ 17 then 1 else if e.size = 2 ^ 22 then 2 else 3) * 2 ^ 8 +
        (if (s.pooled pa).isSome then 2 ^ 7 else 0) +
        (if s.dies.any (fun d => d.2.pins.any (fun p => !p.2.revoked &&
          p.2.runs.any (fun r => decide (r.1 / 128 ≤ pa / 128 ∧ pa / 128 * 128 < r.1 + r.2)))) then 2 ^ 6 else 0) +
        s.homeDie (pa / 128) * 8 + 1

/-- PROBE (R177): translates without faulting and reports what it found. -/
def execProbe (d a : BitVec 8) (s : State) : Host.Outcome State Fault Refusal :=
  issue (.probe d a) s (fun s =>
    let c := s.crew
    .done (s.mapCrew (fun c' => c'.setSS d.toNat
      (BitVec.ofNat 64 (s.probe c.ctx (s.ctx c.ctx).level (c.getSS a.toNat).toNat)))))

/-! ## Pool mappings -/

/-- The lines of a range leave every core's L1: their point of coherence changes (R173, R182). -/
def State.dropLines (s : State) (runs : List (Nat × Nat)) : State :=
  { s with cores := s.cores.mapVals (fun c => { c with
      l1 := c.l1.filter (fun e => !runs.any (fun r => decide (r.1 / 128 ≤ e.1 ∧ e.1 * 128 < r.1 + r.2))) }) }

/-- POOLMAP (R173): the issuing core's pool becomes visible at a global range, under the lowest free handle (log 14).  For an offset or length
outside the rule's limits nothing is mapped and the status is a free value; a base that is no multiple of 128 traps MISALIGN, a range that
covers a window address traps ACCESS, and a range of length 0 is mapped as an empty one, its base checked as a store's (log 14). -/
def execPoolmap (d a b : BitVec 8) (s : State) : Host.Outcome State Fault Refusal :=
  issue (.poolmap d a b) s (fun s =>
    let c := s.crew
    let va := (c.getSS a.toNat).toNat
    let off := (c.getS b.toNat).toNat
    let len := (c.getS (b.toNat + 1)).toNat
    let put (s : State) (x : Nat) : Res := .done (s.mapCrew (fun c => c.setS d.toNat (BitVec.ofNat 32 x)))
    if off % 128 ≠ 0 ∨ len % 128 ≠ 0 ∨ 2 ^ 18 < off + len then put s.takeFree.2 s.takeFree.1.toNat
    else if va % 128 ≠ 0 then .trap s 0x02 (BitVec.ofNat 64 va)
    else
      match s.windowIn c.ctx va (max len 1) with
      | some v => .trap s 0x03 (BitVec.ofNat 64 v)
      | none =>
        match s.classify s.focusCore none c.ctx 1 .write false ((pageStarts va (max len 1)).map (fun v => (0, v))) with
        | (.trap cause tval, s) => .trap s cause tval
        | (.go xs [], s) =>
          let runs := xs.map (fun x => (s.backing c.ctx x, pagePart va len x.va, off + (x.va - va)))
          match (s.core s.focusCore).pools.lowestFree 16 with
          | none => put s 0xFFFFFFFF
          | some h =>
            if runs.any (fun r => (List.range (r.2.1 / 128)).any (fun j => (s.pooled (r.1 + 128 * j)).isSome)) then
              put s 0xFFFFFFFF
            else
              let s := s.mapCore s.focusCore (fun k => { k with
                pools := k.pools.insert h ⟨c.ctx, va, len, off, runs, false⟩ })
              put (s.dropLines (runs.map (fun r => (r.1, r.2.1)))) h
        | (.go _ absent, s) => .hold (s.parkOn s.crew.am .write absent))

/-- POOLUNMAP (R174): outstanding accesses to the range are performed at the pool, the range is written back and the mapping removed; a revoked
one frees its handle and traps. -/
def execPoolunmap (a : BitVec 8) (s : State) : Host.Outcome State Fault Refusal :=
  issue (.poolunmap a) s (fun s =>
    let h := s.crew.getS a.toNat
    match (s.core s.focusCore).pools.get? h.toNat with
    | none => .trap s 0x03 (h.zeroExtend 64)
    | some m =>
      let s := if m.revoked then s else (s.settlePool s.focusCore m.off m.len).writeBack s.focusCore (fun j => decide (j = h.toNat))
      let s := s.mapCore s.focusCore (fun k => { k with pools := k.pools.remove h.toNat })
      let s := if m.revoked then s else s.loseRange m.ctx ⟨m.va, m.len⟩ (m.runs.map (fun r => (r.1, r.2.1))) false
      if m.revoked then .trap s 0x05 (BitVec.ofNat 64 m.va) else .done s)

end Sys2Proof.Machine
end

