-- ==== Sys2Proof/Machine/Bits.lean ====
section
/-! DEFINITION. Bit manipulation and lane exchange instructions, opcodes 0x58 to 0x6F (R130 to R143). -/

namespace Sys2Proof.Machine

/-- AND (R134): bitwise AND of the whole registers or pairs. -/
def execAnd (d a b : BitVec 8) (s : State) : Host.Outcome State Fault Refusal :=
  issueCrew (.and d a b) s (fun c => c.copyLoop c.active d.toNat (fun l => c.whole a.toNat l &&& c.whole b.toNat l))

/-- OR (R134): bitwise OR of the whole registers or pairs. -/
def execOr (d a b : BitVec 8) (s : State) : Host.Outcome State Fault Refusal :=
  issueCrew (.or d a b) s (fun c => c.copyLoop c.active d.toNat (fun l => c.whole a.toNat l ||| c.whole b.toNat l))

/-- XOR (R134): bitwise XOR of the whole registers or pairs. -/
def execXor (d a b : BitVec 8) (s : State) : Host.Outcome State Fault Refusal :=
  issueCrew (.xor d a b) s (fun c => c.copyLoop c.active d.toNat (fun l => c.whole a.toNat l ^^^ c.whole b.toNat l))

/-- NOT (R134): the complement. -/
def execNot (d a : BitVec 8) (s : State) : Host.Outcome State Fault Refusal :=
  issueCrew (.not d a) s (fun c => c.copyLoop c.active d.toNat (fun l => 2 ^ (32 * spanOf (modeType c.mode)) - 1 - c.whole a.toNat l))

/-- SHL (R135): shifted left by the count modulo the width, zero-filled. -/
def execShl (d a b : BitVec 8) (s : State) : Host.Outcome State Fault Refusal :=
  issueCrew (.shl d a b) s (fun c => c.bits2 d.toNat a.toNat b.toNat (fun w x n => x * 2 ^ (n % w)))

/-- SHR (R135): shifted right, zero-filled. -/
def execShr (d a b : BitVec 8) (s : State) : Host.Outcome State Fault Refusal :=
  issueCrew (.shr d a b) s (fun c => c.bits2 d.toNat a.toNat b.toNat (fun w x n => x / 2 ^ (n % w)))

/-- SRA (R135): shifted right, copying the top bit. -/
def execSra (d a b : BitVec 8) (s : State) : Host.Outcome State Fault Refusal :=
  issueCrew (.sra d a b) s (fun c => c.bits2 d.toNat a.toNat b.toNat (fun w x n => arithShift w x (n % w)))

/-- ROTL (R135): rotated left within the element. -/
def execRotl (d a b : BitVec 8) (s : State) : Host.Outcome State Fault Refusal :=
  issueCrew (.rotl d a b) s (fun c => c.bits2 d.toNat a.toNat b.toNat (fun w x n => x * 2 ^ (n % w) + x / 2 ^ (w - n % w)))

/-- BFX (R136): extracts a bit field, sign-extended for the signed types. -/
def execBfx (d a b : BitVec 8) (s : State) : Host.Outcome State Fault Refusal :=
  issueCrew (.bfx d a b) s (fun c =>
    let t := modeType c.mode
    let w := widthOf t
    c.copyLoop c.active d.toNat (fun l =>
      match fieldOf w (c.getV b.toNat l).toNat with
      | none => 0
      | some (pos, len) =>
        let f := c.whole a.toNat l / 2 ^ pos % 2 ^ len
        if t = 0 ∨ t = 12 then lowBits w (signedOf len f) else f))

/-- BFI (R136): inserts a bit field; an empty field changes nothing. -/
def execBfi (d a b : BitVec 8) (s : State) : Host.Outcome State Fault Refusal :=
  issueCrew (.bfi d a b) s (fun c =>
    let w := widthOf (modeType c.mode)
    c.copyLoop c.active d.toNat (fun l =>
      let x := c.whole d.toNat l
      match fieldOf w (c.getV b.toNat l).toNat with
      | none => x
      | some (pos, len) =>
        x - x / 2 ^ pos % 2 ^ len * 2 ^ pos + c.whole a.toNat l % 2 ^ len * 2 ^ pos))

/-- POPC (R137): the number of 1 bits of each element. -/
def execPopc (d a : BitVec 8) (s : State) : Host.Outcome State Fault Refusal :=
  issueCrew (.popc d a) s (fun c => c.bits1 d.toNat a.toNat popCount)

/-- CLZ (R137): the number of 0 bits above the highest 1 bit. -/
def execClz (d a : BitVec 8) (s : State) : Host.Outcome State Fault Refusal :=
  issueCrew (.clz d a) s (fun c => c.bits1 d.toNat a.toNat leadingZeros)

/-- BREV (R137): bit j moves to bit w − 1 − j. -/
def execBrev (d a : BitVec 8) (s : State) : Host.Outcome State Fault Refusal :=
  issueCrew (.brev d a) s (fun c => c.bits1 d.toNat a.toNat reverseBits)

/-- BALLOT (R138): one bit of every active lane, as a 64-bit scalar mask. -/
def execBallot (d a i : BitVec 8) (s : State) : Host.Outcome State Fault Refusal :=
  issueCrew (.ballot d a i) s (fun c => c.setSS d.toNat (c.active &&& maskOf (fun l => (c.getV a.toNat l).getLsbD i.toNat)))

/-- SHUF (R140): lane v[b][l] mod 64 of v[a]. -/
def execShuf (d a b : BitVec 8) (s : State) : Host.Outcome State Fault Refusal :=
  issueCrew (.shuf d a b) s (fun c => c.copyLoop c.active d.toNat (fun l => c.whole a.toNat ((c.getV b.toNat l).toNat % 64)))

/-- SHUFX (R140): lane l XOR k of v[a]. -/
def execShufx (d a i : BitVec 8) (s : State) : Host.Outcome State Fault Refusal :=
  issueCrew (.shufx d a i) s (fun c => c.copyLoop c.active d.toNat (fun l => c.whole a.toNat (l ^^^ i.toNat)))

/-- LROT (R140): lane (l + k) mod 64 of v[a]. -/
def execLrot (d a i : BitVec 8) (s : State) : Host.Outcome State Fault Refusal :=
  issueCrew (.lrot d a i) s (fun c => c.copyLoop c.active d.toNat (fun l => c.whole a.toNat ((l + i.toNat) % 64)))

/-- BCAST (R140): lane k of v[a]. -/
def execBcast (d a i : BitVec 8) (s : State) : Host.Outcome State Fault Refusal :=
  issueCrew (.bcast d a i) s (fun c => c.copyLoop c.active d.toNat (fun _ => c.whole a.toNat i.toNat))

/-- VGET (R141): the scalar takes lane k of v[a], whatever the guard holds. -/
def execVget (d a i : BitVec 8) (s : State) : Host.Outcome State Fault Refusal :=
  issueCrew (.vget d a i) s (fun c => c.setSN (spanOf (modeType c.mode)) d.toNat (c.whole a.toNat i.toNat))

/-- VSET (R141): lane k of v[d] takes the scalar, if the lane is active. -/
def execVset (d a i : BitVec 8) (s : State) : Host.Outcome State Fault Refusal :=
  issueCrew (.vset d a i) s (fun c => c.copyLoop (c.active &&& (1 <<< i.toNat)) d.toNat (fun _ => c.getSN (spanOf (modeType c.mode)) a.toNat))

/-- A reduction (R142, R143): each element position over every active lane, written to the scalar operand; the float
forms draw from the lowest active lane's generator. -/
def Crew.reduce (c : Crew) (d a : Nat) (fi : IntFmt → Bool → List Int → Nat) (ff : Fmt → Rnd → List Val → Nat) : Crew :=
  let t := modeType c.mode
  let n := countOf t
  let lanes := lanesOf c.active
  match elemKind t with
  | .int it =>
    let sat := modeSat c.mode
    let es := (List.range n).map (fun i => fi it sat (lanes.map (fun l => it.read (c.elem a l i))))
    c.setSN (spanOf t) d (packElems it.width es)
  | .flt f =>
    let f1 (i : Nat) (r : Rnd) : Nat := ff f r (lanes.map (fun l => f.read r.ftz (c.elem a l i)))
    match lanes with
    | [] => c.setSN 1 d (packElems f.width (c.elems false f1 n 0).1)
    | l :: _ =>
      let draws := decide (modeRnd c.mode = 5)
      let r := c.elems draws f1 n (c.gen l)
      (if draws then c.setGen l r.2 else c).setSN 1 d (packElems f.width r.1)


/-- REDADD (R142, R143): the exact sum, written once.  Only the integer form reads MODE.sat (R133), so that an overflow of the float form
takes the column of Table 4.3 for MODE.sat = 0 (log 60). -/
def execRedadd (d a : BitVec 8) (s : State) : Host.Outcome State Fault Refusal :=
  issueCrew (.redadd d a) s (fun c => 
    c.reduce d.toNat a.toNat (fun t sat xs => fitInt t sat (xs.foldl (· + ·) 0))
      (fun f r xs => rndFloat f { r with sat := false } (if xs.isEmpty then .num false 0 1 else sumVals (decide (r.code = 2)) xs)))

/-- REDMIN (R142, R143): the smallest element; the largest value of the type when no lane is active. -/
def execRedmin (d a : BitVec 8) (s : State) : Host.Outcome State Fault Refusal :=
  issueCrew (.redmin d a) s (fun c => 
    c.reduce d.toNat a.toNat
      (fun t _ xs => lowBits t.width (xs.foldl (fun m x => if x < m then x else m) t.max))
      (fun f r xs => writeExact f r (if xs.isEmpty then .inf false else xs.foldl Val.min .nan)))

/-- REDMAX (R142, R143): the largest element; the smallest value of the type when no lane is active. -/
def execRedmax (d a : BitVec 8) (s : State) : Host.Outcome State Fault Refusal :=
  issueCrew (.redmax d a) s (fun c => 
    c.reduce d.toNat a.toNat
      (fun t _ xs => lowBits t.width (xs.foldl (fun m x => if m < x then x else m) t.min))
      (fun f r xs => writeExact f r (if xs.isEmpty then .inf true else xs.foldl Val.max .nan)))

/-- LANEID (R139): the lane number in each active lane. -/
def execLaneid (d : BitVec 8) (s : State) : Host.Outcome State Fault Refusal :=
  issueCrew (.laneid d) s (fun c => c.setLanes d.toNat 1 c.active (fun l => l))

end Sys2Proof.Machine
end

