-- ==== Sys2Proof/Machine/Convert.lean ====
section
/-! DEFINITION. Conversion instructions and SEED, opcodes 0x50 to 0x56 (R96 to R102). -/

namespace Sys2Proof.Machine

/-- The one element conversion of R97: a source element of type code `t` rounded once to type code `ct`. -/
def convertElem (t ct : Nat) (r : Rnd) (x : Nat) : Nat :=
  match elemKind t, elemKind ct with
  | .int i, .int o => fitInt o r.sat (i.read x)
  | .int i, .flt o => rndFloat o r (Val.ofInt (i.read x))
  | .flt f, .int o => rndInt o r (f.read r.ftz x)
  | .flt f, .flt o => rndFloat o r (f.read r.ftz x)

/-- A conversion writes `countOf ctype` elements of MODE.ctype to v[d], element `j` from the source element `src l j`;
under code 5 each result element draws once (R98). -/
def Crew.convertLoop (c : Crew) (d : Nat) (src : Nat → Nat → Nat) : Crew :=
  let t := modeType c.mode
  let ct := modeCtype c.mode
  c.laneLoop c.active d (spanOf ct) (countOf ct) (widthOf ct) (decide (modeRnd c.mode = 5))
    (fun l j r => convertElem t ct r (src l j))

/-- CVT (R99): converts with the same element count. -/
def execCvt (d a : BitVec 8) (s : State) : Host.Outcome State Fault Refusal :=
  issueCrew (.cvt d a) s (fun c => c.convertLoop d.toNat (fun l j => c.elem a.toNat l j))

/-- CVTP (R100): converts and packs the elements of v[a], then of v[b]. -/
def execCvtp (d a b : BitVec 8) (s : State) : Host.Outcome State Fault Refusal :=
  issueCrew (.cvtp d a b) s (fun c =>
    let n := countOf (modeType c.mode)
    c.convertLoop d.toNat (fun l j => c.elem (if j < n then a.toNat else b.toNat) l (j % n)))

/-- CVTQ (R100): converts and packs the elements of v[a] … v[a + k − 1] in order. -/
def execCvtq (d a : BitVec 8) (s : State) : Host.Outcome State Fault Refusal :=
  issueCrew (.cvtq d a) s (fun c =>
    let n := countOf (modeType c.mode)
    c.convertLoop d.toNat (fun l j => c.elem (a.toNat + j / n) l (j % n)))

/-- UNPKLO (R101): widens the low half of the elements. -/
def execUnpklo (d a : BitVec 8) (s : State) : Host.Outcome State Fault Refusal :=
  issueCrew (.unpklo d a) s (fun c => c.convertLoop d.toNat (fun l j => c.elem a.toNat l j))

/-- UNPKHI (R101): widens the high half of the elements. -/
def execUnpkhi (d a : BitVec 8) (s : State) : Host.Outcome State Fault Refusal :=
  issueCrew (.unpkhi d a) s (fun c =>
    c.convertLoop d.toNat (fun l j => c.elem a.toNat l (countOf (modeCtype c.mode) + j)))

/-- CVTSC (R102): each binary32 source times one binary32 scale, rounded once. -/
def execCvtsc (d a b : BitVec 8) (s : State) : Host.Outcome State Fault Refusal :=
  issueCrew (.cvtsc d a b) s (fun c =>
    let ct := modeCtype c.mode
    c.laneLoop c.active d.toNat 1 (countOf ct) (widthOf ct) (decide (modeRnd c.mode = 5)) (fun l j r =>
      let y := (Fmt.binary32.read r.ftz (c.getV (a.toNat + j) l).toNat).mul
        (Fmt.binary32.read r.ftz (c.getS b.toNat).toNat)
      match elemKind ct with
      | .int o => rndInt o r y
      | .flt o => rndFloat o r y))

/-- SEED, uniform form (R96): every active lane's generator from one scalar. -/
def execSeedUniform (a : BitVec 8) (s : State) : Host.Outcome State Fault Refusal :=
  issueCrew (.seedUniform a) s (fun c => c.setGens c.active (fun l => seedOf (c.getS a.toNat) l))

/-- SEED, per-lane form (R96): every active lane's generator from its own element. -/
def execSeedPerLane (a : BitVec 8) (s : State) : Host.Outcome State Fault Refusal :=
  issueCrew (.seedPerLane a) s (fun c => c.setGens c.active (fun l => seedOf (c.getV a.toNat l) l))

end Sys2Proof.Machine
end

