-- ==== Sys2Proof/Machine/Order.lean ====
section
/-! DEFINITION. Ordering and atomic instructions, opcodes 0x88 to 0x96 (R196 to R204), and the completion of a crew's
outstanding accesses: LOAD_COMPLETE, STORE_COMPLETE, REPLAY, FABTMO and the wakes of AWAIT. -/

namespace Sys2Proof.Machine

/-- The execution moves to a crew slot. -/
def State.focusOn (s : State) (core slot : Nat) : State := { s with focusCore := core, focusSlot := slot }

/-! ## Fences -/

/-- The effect of a fence of a kind at a scope on the executing crew (R186, R187, R189, R196). -/
def fenceBody (kind scope : Nat) (s : State) : Res :=
  let acq := kind = 0 ∨ kind = 2
  let rel := kind = 1 ∨ kind = 2
  if (acq ∧ s.crew.acquireReady = false) ∨ (rel ∧ s.crew.releaseReady scope = false) then .hold s
  else
    let s := if rel then s.release s.fkey scope else s
    .done (if acq then s.acquire s.fkey scope else s)

/-- FENCE (R196): an acquire, a release or both at the scope in the word. -/
def execFence (k : BitVec 2) (c : BitVec 3) (s : State) : Host.Outcome State Fault Refusal :=
  issue (.fence k c) s (fenceBody k.toNat c.toNat)

/-- The crew observes every job of its own that has completed (R195, R216). -/
def State.observeAll (s : State) : State :=
  let us := s.crew.unobs
  if us.isEmpty then s
  else us.foldl (fun s u => s.acquire s.fkey u.scope) (s.mapCrew (fun c => { c with unobs := [] }))

/-- The crew has a job in its core's gate. -/
def State.hasJobs (s : State) (key : Nat) : Bool := (s.core (key / 64)).jobs.any (fun j => decide (j.crew = key))

/-- FENCEJ (R197): a release or full fence first waits for the crew's earlier jobs and observes them. -/
def execFencej (k : BitVec 2) (c : BitVec 3) (s : State) : Host.Outcome State Fault Refusal :=
  issue (.fencej k c) s (fun s =>
    if k.toNat = 0 then fenceBody 0 c.toNat s
    else if s.hasJobs s.fkey then .hold s
    else fenceBody k.toNat c.toNat s.observeAll)

/-! ## LDACQ and STREL -/

/-- The access size of LDACQ, STREL and the atomics (R198, R199). -/
def Crew.typeSize (c : Crew) : Nat := 4 * spanOf (modeType c.mode)

/-- Perform an access now, after the crew's own accesses that must precede it (R182, R185). -/
def State.performNow (s : State) (p : Pend) : State :=
  (s.perform s.fkey (fun q => q.precedes p)).performAll s.fkey p

/-- LDACQ (R198): a load at MODEX.ascope, past L1 from die scope on (R481), then an acquire. -/
def execLdacq (d a i : BitVec 8) (s : State) : Host.Outcome State Fault Refusal :=
  issue (.ldacq d a i) s (fun s =>
    let c := s.crew
    let z := c.typeSize
    let k := modexScope c.modex
    match vectorAccess s z .read true (c.laneAddrs a.toNat (scaledImm i z)) (fun s xs =>
        s.performNow (c.pendOf (.load d.toNat false (decide (2 ≤ k))) z xs (fun _ => 0) (fun _ => 0) (fun _ => []))) with
    | .done s => .done (s.acquireL1 s.focusCore k)
    | r => r)

/-- STREL (R198): a release at MODEX.ascope, performed once, then a store. -/
def execStrel (d a i : BitVec 8) (s : State) : Host.Outcome State Fault Refusal :=
  issue (.strel d a i) s (fun s =>
    let k := modexScope s.crew.modex
    if s.crew.released = false ∧ s.crew.releaseReady k = false then .hold s
    else
      let s := if s.crew.released then s else (s.release s.fkey k).mapCrew (fun c => { c with released := true })
      storeBody d.toNat s.crew.typeSize (fun c => c.laneAddrs a.toNat (scaledImm i c.typeSize)) s)

/-! ## Atomics -/

/-- The draws of a float AADD in one lane: one for each element, in ascending order (R201). -/
def Crew.draws (c : Crew) (n l : Nat) : List Nat :=
  ((List.range n).foldl (fun (acc : List Nat × Word) _ =>
    (acc.1 ++ [(drawStep acc.2).toNat], drawStep acc.2)) ([], c.gen l)).1

/-- The effect of an atomic (R199 to R202): a release before, the read-modify-writes, an acquire after, by MODEX.aord.
Relaxed and release atomics stay outstanding until they are performed; an acquire waits for their values. -/
def atomicBody (op d a b : Nat) (s : State) : Res :=
  let c := s.crew
  let k := modexScope c.modex
  let aord := modexOrd c.modex
  let ty := modeType c.mode
  let z := c.typeSize
  let isRel := aord = 2 ∨ aord = 3
  if isRel ∧ c.released = false ∧ c.releaseReady k = false then .hold s
  else
    let s := if isRel ∧ c.released = false then
      (s.release s.fkey k).mapCrew (fun c => { c with released := true }) else s
    let float := op = 0x8B ∧ c.isFloat
    let drawing := decide float && decide (modeRnd c.mode = 5)
    let kind := PendKind.atomic d op ty (modeRnd c.mode) (modeSat c.mode) (modexFtz c.modex)
    match vectorAccess s z .both true (c.laneAddrs a 0) (fun s xs =>
        let p := c.pendOf kind z xs (c.getVN (z / 4) d) (c.getVN (z / 4) b)
          (fun l => if drawing then c.draws (countOf ty) l else [])
        let s := if drawing then
          s.mapCrew (fun k => k.setGens (lanesMask xs) (fun l => BitVec.ofNat 32 ((c.draws (countOf ty) l).getLastD 0)))
          else s
        if aord = 1 ∨ aord = 3 then s.performNow p else s.enterPend p) with
    | .done s => .done (if aord = 1 ∨ aord = 3 then s.acquireL1 s.focusCore k else s)
    | r => r

/-- AADD (Table 8.4): memory takes old + c; the float forms round once; v[d] takes old. -/
def execAadd (d a b : BitVec 8) (s : State) : Host.Outcome State Fault Refusal :=
  issue (.aadd d a b) s (atomicBody 0x8B d.toNat a.toNat b.toNat)

/-- AMIN (Table 8.4): memory takes the smaller of old and c; v[d] takes old. -/
def execAmin (d a b : BitVec 8) (s : State) : Host.Outcome State Fault Refusal :=
  issue (.amin d a b) s (atomicBody 0x8C d.toNat a.toNat b.toNat)

/-- AMAX (Table 8.4): memory takes the larger of old and c; v[d] takes old. -/
def execAmax (d a b : BitVec 8) (s : State) : Host.Outcome State Fault Refusal :=
  issue (.amax d a b) s (atomicBody 0x8D d.toNat a.toNat b.toNat)

/-- AAND (Table 8.4): memory takes old AND c; v[d] takes old. -/
def execAand (d a b : BitVec 8) (s : State) : Host.Outcome State Fault Refusal :=
  issue (.aand d a b) s (atomicBody 0x8E d.toNat a.toNat b.toNat)

/-- AOR (Table 8.4): memory takes old OR c; v[d] takes old. -/
def execAor (d a b : BitVec 8) (s : State) : Host.Outcome State Fault Refusal :=
  issue (.aor d a b) s (atomicBody 0x8F d.toNat a.toNat b.toNat)

/-- AXOR (Table 8.4): memory takes old XOR c; v[d] takes old. -/
def execAxor (d a b : BitVec 8) (s : State) : Host.Outcome State Fault Refusal :=
  issue (.axor d a b) s (atomicBody 0x90 d.toNat a.toNat b.toNat)

/-- AXCHG (Table 8.4): memory takes c; v[d] takes old. -/
def execAxchg (d a b : BitVec 8) (s : State) : Host.Outcome State Fault Refusal :=
  issue (.axchg d a b) s (atomicBody 0x91 d.toNat a.toNat b.toNat)

/-- ACAS (Table 8.4): memory takes v[d] where the bits of old equal those of c; v[d] takes old. -/
def execAcas (d a b : BitVec 8) (s : State) : Host.Outcome State Fault Refusal :=
  issue (.acas d a b) s (atomicBody 0x92 d.toNat a.toNat b.toNat)

/-- AINC (Table 8.4): memory takes 0 if old ≥ c, otherwise old + 1; v[d] takes old. -/
def execAinc (d a b : BitVec 8) (s : State) : Host.Outcome State Fault Refusal :=
  issue (.ainc d a b) s (atomicBody 0x93 d.toNat a.toNat b.toNat)

/-- ADEC (Table 8.4): memory takes c if old is 0 or above c, otherwise old − 1; v[d] takes old. -/
def execAdec (d a b : BitVec 8) (s : State) : Host.Outcome State Fault Refusal :=
  issue (.adec d a b) s (atomicBody 0x94 d.toNat a.toNat b.toNat)

/-! ## AWAIT -/

/-- The effect of AWAIT (R203, R204): one read at the point of coherence; the deadline is fixed at the first issue. -/
def awaitBody (d a b : BitVec 8) (s : State) : Res :=
  let c := s.crew
  let k := modexScope c.modex
  let deadline := c.deadline.getD (s.clock + (c.getS (b.toNat + 1)).toNat)
  let s := s.setCrew { c with deadline := some deadline, waiting := some (.await d a b) }
  scalarAccess s 4 .read true (c.getSS a.toNat) (fun s x =>
    let p := s.crew.pendOf (.sload 0) 4 [x] (fun _ => 0) (fun _ => 0) (fun _ => [])
    let s := s.perform s.fkey (fun q => q.precedes p)
    let (v, s) := ((s.settleScopes s.focusCore (some s.fkey)).request s.focusCore c.ctx x.va x.loc).readBypass s.focusCore x.loc 4
    let fin (st : Word) : Res :=
      let s := s.mapCrew (fun c => (c.setS d.toNat (BitVec.ofNat 32 v)).setS (d.toNat + 1) st)
      .done (if modexOrd c.modex = 1 ∨ modexOrd c.modex = 3 then s.acquireL1 s.focusCore k else s)
    if BitVec.ofNat 32 v ≠ c.getS b.toNat then fin 0
    else if deadline ≤ s.clock then fin 1
    else .hold s)

/-- AWAIT (R203): waits until a word differs from s[b], or until a deadline. -/
def execAwait (d a b : BitVec 8) (s : State) : Host.Outcome State Fault Refusal :=
  issue (.await d a b) s (awaitBody d a b)

/-- A waiting AWAIT reads again (R203). -/
def rereadAwait (core slot : Nat) (s : State) : State :=
  let s' := s.focusOn core slot
  match s'.crew?.bind Crew.waiting with
  | some (.await d a b) => issueState (.await d a b) s' (awaitBody d a b)
  | _ => s

/-- AWAIT_WAKE (R203): a waiting AWAIT re-reads its word. -/
def execAwaitWake (core slot : Nat) (s : State) : Host.Outcome State Fault Refusal :=
  .next (rereadAwait core slot s)

/-- AWAIT_DEADLINE (R203, R204): the deadline has passed; the last read decides the status. -/
def execAwaitDeadline (core slot : Nat) (s : State) : Host.Outcome State Fault Refusal :=
  .next (
    match (s.crews.get? (crewKey core slot)).bind Crew.deadline with
    | some t => if t ≤ s.clock then rereadAwait core slot s else s
    | none => s)

/-- A crew that waits in AWAIT waits no longer than its deadline (R204): it reads once more, and its status is decided. -/
def State.awaitTimeout (s : State) (k : Nat) : State :=
  match s.crews.get? k with
  | none => s
  | some c =>
    match c.waiting, c.deadline with
    | some (.await _ _ _), some t =>
      if t ≤ s.clock then { rereadAwait (k / 64) (k % 64) s with focusCore := s.focusCore, focusSlot := s.focusSlot } else s
    | _, _ => s

/-! ## Completion, replay and timeout -/

/-- LOAD_COMPLETE (R215): the named lanes of an outstanding load or atomic return their values. -/
def execLoadComplete (core slot entry : Nat) (lanes : BitVec 64) (s : State) : Host.Outcome State Fault Refusal :=
  .next (s.completeLanes (crewKey core slot) entry lanes PendKind.isLoad)

/-- STORE_COMPLETE (R215): the named lanes of an outstanding store are acknowledged by their points of coherence. -/
def execStoreComplete (core slot entry : Nat) (lanes : BitVec 64) (s : State) : Host.Outcome State Fault Refusal :=
  .next (s.completeLanes (crewKey core slot) entry lanes PendKind.isStore)

/-- REPLAY (R161): every page a parked crew reported has been answered.  A refused page traps PAGE_UNRECOV, with its
lowest address, or with the PC for a fetch (R27); otherwise the access executes again for the replay mask, and a
fetch is simply made again.  A crew that may not issue, as in a drain (R292), replays when it issues again.  Of several refused pages the first
in the order of the lanes is reported (log 120). -/
def execReplay (core slot : Nat) (s : State) : Host.Outcome State Fault Refusal :=
  .next (
    match s.crews.get? (crewKey core slot) with
    | none => s
    | some c =>
      match c.park with
      | none => s
      | some p =>
        if p.pages.any (fun g => decide (g.answer = 0)) || c.halted || c.frozen || c.cut || !s.mayIssue (crewKey core slot) then s
        else
          let s := ((s.focusOn core slot).setCrew
            { c with park := none, replay := if p.fetch then none else some p.mask, replayVa := p.va }).unstall (crewKey core slot)
          match p.pages.find? (fun g => decide (g.answer = 2)) with
          | some g => takeTrap s 0x04 (if p.fetch then c.pc.zeroExtend 64 else BitVec.ofNat 64 g.va)
          | none => s)

/-- The outstanding access is one of the crew's latest instruction, at a point of coherence of the package. -/
def Crew.youngest (c : Crew) (p : Pend) : Bool := decide (p.seq + 1 = c.issued) && !p.kind.isRemote

/-- The instruction reads memory before it completes, so that the crew waits at its PC for the answer (R198, R200, R203, R209, R262, R342). -/
def readsNow (i : Instr) : Bool :=
  match i with
  | .ldacq .. | .aadd .. | .amin .. | .amax .. | .aand .. | .aor .. | .axor .. | .axchg .. | .acas ..
  | .ainc .. | .adec .. | .await .. | .copy .. | .copyr .. | .strm .. | .mload .. | .mma .. | .gbind .. | .grun ..
  | .spent .. | .sprcfg .. | .ctxrs .. | .launch .. | .enq .. | .deq .. | .qinit .. | .qlen .. | .raftform .. | .car ..
  | .cag .. | .crs .. | .cbc .. | .ca2a .. | .cbar .. | .cpinit .. | .sprout .. | .reward .. | .cpstat .. => true
  | _ => false

/-- The addresses at which the instruction at the PC of a crew may wait for a point of coherence (R398): that of the word itself, and those in the
pairs that it reads. -/
def State.waitAddrs (s : State) (c : Crew) : List Nat :=
  c.pc.toNat ::
    match s.xlateWalk c.ctx c.pc.toNat .exec with
    | .ok l =>
      match decode (BitVec.ofNat 32 (s.bytes l.idx 4)) with
      | .ok (.ldacq _ a i) => (c.laneAddrs a.toNat (scaledImm i c.typeSize)).map Prod.snd
      | .ok i =>
        if readsNow i then
          (operands c.mode i).flatMap (fun o =>
            if o.span ≠ 2 ∨ o.use = .write then []
            else if o.vec then (c.laneAddrs o.reg 0).map Prod.snd
            else [(c.getSS o.reg).toNat])
        else []
      | .error _ => []
    | _ => []

/-- A service action that holds accesses back has FABTMO paused (R451). -/
def State.fabricPaused (s : State) : Bool := s.service.actions.any (fun a => decide (a.cmd = 3 ∨ a.cmd = 4))

/-- The ticks since a moment in which FABTMO was paused. -/
def State.pausedSince (s : State) (since : Nat) : Nat := (s.pauses.map (fun p => p.1 + p.2 - max p.1 since)).sum

/-- FABTMO device ticks have passed since a moment (R398), but for those in which a service action had the limit paused (R451). -/
def State.fabricLate (s : State) (since : Nat) : Bool :=
  decide (since + s.params.fabtmo + s.pausedSince since ≤ s.clock) && !s.fabricPaused

/-- FABTMO (R398, cause TIMEOUT): an access has received no answer for FABTMO ticks.  With `young` it is the access of the crew's latest
instruction, of which nothing that is still outstanding is then performed; otherwise it is one that the instruction at the PC waits for, at `va`,
since it became the crew's next (log 121).  Memory and destinations keep their values. -/
def execFabtmo (core slot : Nat) (young : Bool) (va : BitVec 64) (s : State) : Host.Outcome State Fault Refusal :=
  .next (
    match s.crews.get? (crewKey core slot) with
    | none => s
    | some c =>
      if !c.canIssue then s
      else if young then
        match c.pend.find? (fun p => c.youngest p && s.fabricLate p.issuedAt) with
        | none => s
        | some p =>
          let s := (s.focusOn core slot).setCrew { c with pend := c.pend.filter (fun q => !c.youngest q), pc := p.pc }
          takeTrap s 0x0F (BitVec.ofNat 64 ((p.accs.head?.map LaneAcc.va).getD 0))
      else if s.fabricLate c.readyAt.1 && (s.waitAddrs c).contains va.toNat then takeTrap (s.focusOn core slot) 0x0F va
      else s)

end Sys2Proof.Machine
end

