-- ==== Sys2Proof/Machine/Jobs.lean ====
section
/-! DEFINITION. The job gate, copies and the parts of streams that every core has: WAITC, COPY, COPYR, POP, STRMBAR,
JOBQ, JOBCAN and the events of jobs (R207 to R228). -/

namespace Sys2Proof.Machine

/-! ## Cards and footprints -/

/-- The status codes of Table 9.3, in bits 31:28 of a token. -/
def tokenOf (status count : Nat) : Nat := status * 2 ^ 28 + count % 2 ^ 28

/-- A region widened to whole lines (R208); none for an unused one. -/
def regionOf (base len : Nat) : Option Range :=
  if len = 0 then none
  else some ⟨base / 128 * 128, (base + len + 127) / 128 * 128 - base / 128 * 128⟩

/-- The read regions of a card (Table 9.1). -/
def cardReads (card : Nat) : List Range :=
  (List.range 4).filterMap (fun i => regionOf (fld card (64 + 16 * i) 8) (fld card (72 + 16 * i) 8))

/-- The write regions of a card (Table 9.1). -/
def cardWrites (card : Nat) : List Range :=
  (List.range 4).filterMap (fun i => regionOf (fld card (128 + 16 * i) 8) (fld card (136 + 16 * i) 8))

/-- A region of the footprint block breaks R208. -/
def footprintBad (card : Nat) : Bool :=
  (List.range 8).any (fun i =>
    let base := fld card (64 + 16 * i) 8
    let len := fld card (72 + 16 * i) 8
    decide (2 ^ 40 < len) || (decide (len ≠ 0) && decide (2 ^ 57 < base + len)))

/-- Every byte of [base, stop) lies in one of the regions. -/
def coveredFrom (rs : List Range) (stop : Nat) : Nat → Nat → Bool
  | 0, p => decide (stop ≤ p)
  | fuel + 1, p =>
    if stop ≤ p then true
    else
      match rs.find? (fun r => decide (r.base ≤ p ∧ p < r.base + r.len)) with
      | some r => coveredFrom rs stop fuel (r.base + r.len)
      | none => false

/-- Every byte of a range lies in one of the regions (R208). -/
def covered (rs : List Range) (base len : Nat) : Bool := coveredFrom rs (base + len) 9 base

/-- A copy card is malformed (R218). -/
def copyCardBad (card : Nat) : Bool :=
  let src := fld card 8 8
  let dst := fld card 16 8
  let len := fld card 24 8
  decide (fld card 0 1 ≠ 1) || decide (4 < fld card 1 1) || decide (fld card 2 6 ≠ 0) || decide (fld card 32 32 ≠ 0) ||
  decide (len = 0 ∨ 2 ^ 27 < len) || (Range.mk src len).overlaps ⟨dst, len⟩ || footprintBad card ||
  !covered (cardReads card) src len || !covered (cardWrites card) dst len

/-! ## The gate -/

/-- A job of the executing crew enters the gate and makes its token pending (R210, R212); with the gate full the
instruction waits. -/
def enterJob (s : State) (kind : JobKind) (card : Nat) (cardVa : DWord) (token pos : Nat) (bad : Bool)
    (aux : List Nat) (deadline : Option Nat) (act : State → Nat → State) : Res :=
  let core := s.focusCore
  let k := s.core core
  if 32 ≤ k.jobs.length then .hold s
  else
    let id := k.nextJob
    let c := s.crew
    let j : Job :=
      { id := id, kind := kind, crew := s.fkey, ctx := c.ctx, card := card, cardVa := cardVa, token := token
        scope := if bad then (if fld card 1 1 ≤ 4 then fld card 1 1 else 4) else fld card 1 1
        reads := if bad then [] else cardReads card
        writes := if bad then [] else cardWrites card
        seq := c.issued, started := false, cancelled := false, pos := pos, buffer := [], stream := .zero, lost := false
        result := if bad then some (tokenOf 5 0) else none, ending := none, ended := 0, aux := aux, deadline := deadline, nonfin := false }
    let s := s.mapCore core (fun k => { k with jobs := k.jobs ++ [j], nextJob := id + 1 })
    .done (act (s.mapCrew (fun c => { c with tokens := c.tokens.insert token id })) id)

/-- The parts of a range inside the vault and pool windows of a context. -/
def State.windowParts (s : State) (cn : Nat) (r : Range) : List Range :=
  let c := s.ctx cn
  let cut (base len : Nat) (en : Bool) : List Range :=
    let lo := max base r.base
    let hi := min (base + len) (r.base + r.len)
    if en ∧ lo < hi then [⟨lo, hi - lo⟩] else []
  cut (bitsOf c.vaultbase.toNat 56 30 * 2 ^ 30) (2 ^ 30) (c.vaultbase.getLsbD 0) ++
  cut (bitsOf c.poolbase.toNat 56 26 * 2 ^ 26) (48 * 2 ^ 20) (c.poolbase.getLsbD 0)

/-- The overlap of two regions, if there is one. -/
def Range.inter (r q : Range) : Option Range :=
  let lo := max r.base q.base
  let hi := min (r.base + r.len) (q.base + q.len)
  if lo < hi then some ⟨lo, hi - lo⟩ else none

/-- Two jobs conflict (R213): a write region of one overlaps a region of the other; two streams that overlap only
inside the windows, of the first job's context, do not.  Regions of two contexts are compared as addresses (log 122). -/
def State.conflict (s : State) (j k : Job) : Bool :=
  let pairs := (j.writes.flatMap (fun r => (k.reads ++ k.writes).filterMap (fun q => r.inter q))) ++
    (k.writes.flatMap (fun r => j.reads.filterMap (fun q => r.inter q)))
  if j.kind = .stream ∧ k.kind = .stream then
    pairs.any (fun o => !covered (s.windowParts j.ctx o) o.base o.len)
  else !pairs.isEmpty

/-- A stream touches the window part of a STRMBAR's range (R226). -/
def State.touchesBar (s : State) (b : StreamBar) (cn : Nat) (j : Job) : Bool :=
  decide (j.kind = .stream) &&
    (s.windowParts cn b.range).any (fun w => (j.reads ++ j.writes).any (fun r => r.overlaps w))

/-- A job may start (R213, R226): the crew's earlier accesses have completed, and no older conflicting job and no
stream before a STRMBAR is left in the gate. -/
def State.canStart (s : State) (core : Nat) (j : Job) : Bool :=
  let k := s.core core
  !j.started && j.result.isNone &&
  !((s.crews.get? j.crew).elim false (fun c => c.pend.any (fun p => decide (p.seq < j.seq)))) &&
  !k.jobs.any (fun o => decide (o.id < j.id) && s.conflict j o) &&
  !k.bars.any (fun b => decide (b.crew = j.crew) && decide (b.before ≤ j.id) && s.touchesBar b j.ctx j &&
    k.jobs.any (fun o => b.jobs.contains o.id && s.touchesBar b j.ctx o))

/-- A crew waits in an MMA of macro `m`, accepted before the MLOAD with number `id` (R231). -/
def Crew.mmaBefore (c : Crew) (m : Option Nat) (id : Nat) : Bool :=
  match c.waiting with
  | some (.mma mac before _) => decide (m = some mac) && decide (before ≤ id)
  | _ => false

/-- The MLOAD has its turn at the macro still before it, or is under way: one that never starts ends, and leaves the macro invalid, when it leaves
the gate (R230, R231). -/
def Job.holdsMacro (j : Job) (m : Option Nat) : Bool :=
  decide (j.kind = .mload) && decide (j.aux.head? = m) && (j.result.isNone || !j.started)

/-- An MLOAD's transfer may start (R231): every MMA accepted before it that names the macro has been broadcast, and
every older MLOAD of the macro has ended. -/
def State.macroFree (s : State) (core : Nat) (j : Job) : Bool :=
  !(s.core core).tileOps.any (fun o => decide (j.aux.head? = some o.mac)) &&
  !s.crews.any (fun e => decide (e.1 / 64 = core) && e.2.mmaBefore j.aux.head? j.id) &&
  !(s.core core).jobs.any (fun o => decide (o.id < j.id) && o.holdsMacro j.aux.head?)

/-- A job in the gate that may start, starts (R213): an MLOAD makes its macro invalid (R244). -/
def State.startJob (s : State) (core : Nat) (j : Job) : State :=
  let s := s.dropMacro core j
  let s := if j.kind = .grun then s.mapCore core (fun k => { k with gramQ := k.gramQ ++ [j.id] }) else s
  s.mapJob core j.id (fun j => { j with started := true })

/-- The status of an engine access that matches a row of Table 7.3 (R219): ACCESS, POISON or FAULT. -/
def jobStatus (xs : List LaneXlat) (poisoned : Bool) : Option Nat :=
  if xs.any (fun x => decide (x.x = .access ∨ x.x = .bad)) then some 2
  else if poisoned then some 3
  else if xs.any LaneXlat.isAbsent then some 1
  else none

/-- An engine of a core classifies bytes it reads and bytes it writes (R219): the status to stop with, if any, having
sent the fault records, which name the task; otherwise the places. -/
def State.engineClassify (s : State) (core task cn : Nat) (srcs dsts : List Nat) :
    Option Nat × List LaneXlat × List LaneXlat × State :=
  let (xs, s) := s.xlateAll core none cn .read (srcs.map (fun v => (0, v)))
  let (ys, s) := s.xlateAll core none cn .write (dsts.map (fun v => (0, v)))
  let poisoned := xs.any (fun x => match x.x with | .ok l => s.poisoned l.idx 1 | _ => false)
  let st := jobStatus (xs ++ ys) poisoned
  let s := if st = some 1 then s.sendBoth core 0xFF 0 task cn (xs.filter LaneXlat.isAbsent) (ys.filter LaneXlat.isAbsent) else s
  (st, xs, ys, s)

/-- The addresses of `n` bytes from `va`, modulo 2^64. -/
def byteVas (va n : Nat) : List Nat := (List.range n).map (fun i => (va + i) % 2 ^ 64)

/-- An engine writes bytes at translated places (R219, R481): at their points of coherence and in any copy that its core's L1 holds, with one
request for each distinct line (R168). -/
def State.engineWrite (s : State) (core cn : Nat) (ys : List LaneXlat) (bytes : List Nat) : State :=
  ((ys.zip bytes).foldl (fun s p => s.writeAt core p.1.loc 1 p.2) (s.settleScopes core none)).requests core cn ys

/-- An engine reads bytes at translated places, never through L1, with one request for each distinct line (R168).  It is an agent of its core
(R178), and misses nothing that a release has covered for it (R179). -/
def State.engineRead (s : State) (core cn : Nat) (xs : List LaneXlat) : List Nat × State :=
  let s := s.settleScopes core none
  (xs.map (fun x => s.bytes x.loc.idx 1),
    (s.leaveL1 core ((xs.filter (fun x => x.loc.cached)).map (fun x => x.loc.idx / 128))).requests core cn xs)

/-- The task of the crew that issued a job. -/
def State.jobTask (s : State) (j : Job) : Nat := (s.crews.get? j.crew).elim noTask Crew.task

/-- The skidder has come from byte `old` of a job's data to byte `new`: the counters count each 128 bytes (Table 18.6; log 32). -/
def State.countMoved (s : State) (core : Nat) (j : Job) (old new : Nat) : State :=
  if new / 128 = old / 128 then s else s.countEvent core 0x3002 (s.jobTask j) (new / 128 - old / 128)

/-- One chunk of a copy (R219). -/
def State.copyChunk (s : State) (core : Nat) (j : Job) : State :=
  let stop (s : State) (st : Nat) : State :=
    s.mapJob core j.id (fun j => { j with result := some (tokenOf st j.pos) })
  let len := fld j.card 24 8
  let n := min 512 (len - j.pos)
  if j.cancelled then stop s 4
  else if j.lost then stop s 6
  else
    match s.engineClassify core (s.jobTask j) j.ctx (byteVas (fld j.card 8 8 + j.pos) n) (byteVas (fld j.card 16 8 + j.pos) n) with
    | (some st, _, _, s) => stop s st
    | (none, xs, ys, s) =>
      let (bs, s) := s.engineRead core j.ctx xs
      let s := (s.engineWrite core j.ctx ys bs).countMoved core j j.pos (j.pos + n)
      if len ≤ j.pos + 512 then
        s.mapJob core j.id (fun j => { j with pos := len, result := some (tokenOf 0 len) })
      else s.mapJob core j.id (fun j => { j with pos := j.pos + 512 })

/-- COPY_CHUNK (R219): a started copy moves its next chunk, or stops. -/
def execCopyChunk (core job : Nat) (s : State) : Host.Outcome State Fault Refusal :=
  .next (
    match s.job? core job with
    | none => s
    | some j => if j.kind = .copy ∧ j.started ∧ j.result.isNone then s.copyChunk core j else s)

/-- What a GRUN with a written token leaves for GSTAT (R265, R267): the report of a grammar fault, GFAULT and NONFIN. -/
def gramReport (j : Job) (value : Nat) (c : Crew) : Crew :=
  { c with
    gramFlags := BitVec.ofNat 2 ((if value / 2 ^ 28 = 7 then 2 else 0) + (if j.nonfin then 1 else 0))
    gramReport := if value / 2 ^ 28 = 7 then BitVec.ofNat 64 (j.aux.headD 0) else c.gramReport }

/-- A stopped job completes (R210, R215): the token is written, the crew has a completion to observe, the job's skid
queue is released when it is drained, and the completion is a release at the card's scope.  An MLOAD that never started leaves its macro invalid
(R230). -/
def State.completeJob (s : State) (core : Nat) (j : Job) (value : Nat) : State :=
  let s := s.mapCore core (fun k => { k with
    jobs := k.jobs.filter (fun o => decide (o.id ≠ j.id))
    gramQ := k.gramQ.filter (fun i => decide (i ≠ j.id))
    bars := k.bars.filter (fun b => k.jobs.any (fun o => decide (o.id ≠ j.id) && b.jobs.contains o.id)) })
  let s := if j.started then s else s.dropMacro core j
  let s := if 2 ≤ j.scope then s.writeBack core (fun _ => true) else s
  let s := if j.kind = .mload then s.countEvent core 0x3001 (s.jobTask j) 1 else s
  match s.crews.get? j.crew with
  | none => s
  | some c =>
    if c.tokens.get? j.token ≠ some j.id then s
    else
      let c := (c.setS j.token (BitVec.ofNat 32 value))
      let c : Crew := { c with tokens := c.tokens.remove j.token, unobs := c.unobs ++ [⟨j.token, j.scope, decide (j.stream.dir ≠ 0)⟩] }
      let c := if j.kind = .grun then gramReport j value c else c
      let q := fld j.card 3 1
      match c.skids.get? q with
      | none => s.setCrewAt j.crew c
      | some k =>
        if j.kind = .stream ∧ k.job = some j.id then
          if k.entries.isEmpty then
            (s.setCrewAt j.crew { c with skids := c.skids.remove q }).mapCore core (fun x =>
              { x with skidFree := x.skidFree + k.depth })
          else s.setCrewAt j.crew { c with skids := c.skids.insert q { k with job := none } }
        else s.setCrewAt j.crew c

/-- JOB_COMPLETE (R215): a job that has stopped writes its token; an MLOAD that never started does so in its turn at the macro (R231). -/
def execJobComplete (core job : Nat) (s : State) : Host.Outcome State Fault Refusal :=
  .next (
    match s.job? core job with
    | none => s
    | some j =>
      match j.result with
      | none => s
      | some v =>
        if s.goesLater j || (decide (j.kind = .mload) && !j.started && !s.macroFree core j) then s else s.completeJob core j v)

/-! ## WAITC -/

/-- The job counts toward the copies count of WAITC (R216); MLOAD does not (R243). -/
def JobKind.countsCopy : JobKind → Bool
  | .mload => false
  | _ => true

/-! ## Copies -/

/-- The effect of COPY and COPYR (R217): reads and checks the card, and enters the copy from offset `off`. -/
def copyBody (d a : Nat) (off : Crew → Option Nat) (s : State) : Res :=
  let va := s.crew.getSS a
  let off := off s.crew
  structRead s va 256 256 (fun s card =>
    let o := off.getD 0
    let len := fld card 24 8
    let bad := copyCardBad card || decide (o % 512 ≠ 0) || (off.isSome && decide (len ≤ o))
    let enter (s : State) : Res := enterJob s .copy card va d (if bad then 0 else o) bad [] none (fun s _ => s)
    if bad || off.isNone then enter s
    else
      let cn := s.crew.ctx
      let (x, s) := s.xlate s.focusCore none cn ((fld card 8 8 + o) % 2 ^ 64) .read
      let (y, s) := s.xlate s.focusCore none cn ((fld card 16 8 + o) % 2 ^ 64) .write
      let xs := [LaneXlat.mk 0 ((fld card 8 8 + o) % 2 ^ 64) x].filter LaneXlat.isAbsent
      let ys := [LaneXlat.mk 0 ((fld card 16 8 + o) % 2 ^ 64) y].filter LaneXlat.isAbsent
      if xs.isEmpty ∧ ys.isEmpty then enter s else .hold (s.parkOnBoth xs ys))

/-- COPY (R217): starts the copy of a card from offset 0. -/
def execCopy (d a : BitVec 8) (s : State) : Host.Outcome State Fault Refusal :=
  issue (.copy d a) s (copyBody d.toNat a.toNat (fun _ => none))

/-- COPYR (R217): starts the copy from the offset in s[b] bits 27:0. -/
def execCopyr (d a b : BitVec 8) (s : State) : Host.Outcome State Fault Refusal :=
  issue (.copyr d a b) s (copyBody d.toNat a.toNat (fun c => some ((c.getS b.toNat).toNat % 2 ^ 28)))

/-! ## Skid queues -/

/-- POP (R225): takes one entry from a skid queue; p7 tells data from the end. -/
def execPop (d : BitVec 8) (q : BitVec 2) (s : State) : Host.Outcome State Fault Refusal :=
  issue (.pop d q) s (fun s =>
    let c := s.crew
    match c.skids.get? q.toNat with
    | none => .done (s.setCrew (c.setPredLanes 7 c.active 0))
    | some k =>
      match k.entries with
      | [] => if k.job.isSome then .hold s else .done (s.setCrew (c.setPredLanes 7 c.active 0))
      | e :: rest =>
        let have_ := maskOf (fun l => decide (l < e.elems.length))
        let c' := (c.setLanes d.toNat 1 (c.active &&& have_) (fun l => (e.elems.getD l 0).toNat)).setPredLanes 7 c.active have_
        if rest.isEmpty ∧ k.job.isNone then
          .done ((s.setCrew { c' with skids := c'.skids.remove q.toNat }).mapCore s.focusCore (fun x =>
            { x with skidFree := x.skidFree + k.depth }))
        else .done (s.setCrew { c' with skids := c'.skids.insert q.toNat { k with entries := rest } }))

/-- STRMBAR (R226): orders the crew's later streams over a window range after the core's earlier ones. -/
def execStrmbar (a b : BitVec 8) (s : State) : Host.Outcome State Fault Refusal :=
  issue (.strmbar a b) s (fun s =>
    match regionOf (s.crew.getSS a.toNat).toNat (s.crew.getS b.toNat).toNat with
    | none => .done s
    | some r =>
      let key := s.fkey
      .done (s.mapCore s.focusCore (fun k => { k with
        bars := k.bars ++ [⟨key, r, k.nextJob, (k.jobs.filter (fun j => decide (j.kind = .stream))).map Job.id⟩] })))

/-! ## Querying and cancelling -/

/-- How far a pending job has come (R227): bytes written, or elements delivered; a collective tells nothing (Table 16.3).  The rule names copies and
streams alone: a pending MLOAD shows the rows that it has loaded (log 123). -/
def Job.progress (j : Job) : Nat := if j.kind.isCollective then 0 else j.pos

/-- JOBQ (R227): the state of the job whose token is s[a]; a completed job is observed. -/
def execJobq (d a : BitVec 8) (s : State) : Host.Outcome State Fault Refusal :=
  issue (.jobq d a) s (fun s =>
    match s.crew.tokens.get? a.toNat with
    | some id =>
      let p := ((s.job? s.focusCore id).map Job.progress).getD 0
      .done (s.mapCrew (fun c => c.setS d.toNat (BitVec.ofNat 32 (tokenOf 15 p))))
    | none =>
      let s := s.observe [.sc 1 a.toNat .read]
      .done (s.mapCrew (fun c => c.setS d.toNat (c.getS a.toNat))))

/-- The SNK of a dir 2 stream that stops writes nothing more (R219, R228). -/
def State.stopSink (s : State) (j : Job) : State :=
  if j.stream.dir ≠ 2 then s
  else
    match s.regions.get? j.crew with
    | none => s
    | some r =>
      let k := j.stream.core * 64 + j.stream.slot
      match r.slots.get? k with
      | none => s
      | some x => { s with regions := s.regions.insert j.crew { r with slots := r.slots.insert k { x with ended := true } } }

/-- Cancellation of a job (R228, R390): a collective becomes the origin of an abort; one that has not started never starts; a stream drops what it has read and not
delivered; a copy stops before its next chunk. -/
def State.cancelJob (s : State) (core : Nat) (j : Job) : State :=
  if j.result.isSome then s
  else if j.kind.isCollective then s.abortByProgram core j
  else if !j.started then
    s.mapJob core j.id (fun j => { j with cancelled := true, result := some (tokenOf 4 j.pos) })
  else if j.kind = .stream then
    (s.stopSink j).mapJob core j.id (fun j => { j with
      cancelled := true, buffer := [], result := some (tokenOf 4 j.pos) })
  else s.mapJob core j.id (fun j => { j with cancelled := true })

/-- JOBCAN (R228, Table 10.4, R265): requests cancellation of the job pending on s[a]. -/
def execJobcan (a : BitVec 8) (s : State) : Host.Outcome State Fault Refusal :=
  issue (.jobcan a) s (fun s =>
    match (s.crew.tokens.get? a.toNat).bind (s.job? s.focusCore) with
    | some j => .done (s.cancelJob s.focusCore j)
    | none => .done s)

end Sys2Proof.Machine
end

