-- ==== Sys2Proof/Machine/Matrix.lean ====
section
/-! DEFINITION. The stand: macros, tiles and the arithmetic of MMA, opcodes 0xA4 to 0xAA (R230 to R253), and WAITC
(R216), which counts tile operations. -/

namespace Sys2Proof.Machine

/-! ## Operand elements (Table 10.3) -/

/-- An element as the stand reads it: sign, integer significand M and effective exponent x; none for a non-number
(R238, R239). -/
def standElem (fmt code : Nat) : Option (Bool × Nat × Nat) :=
  match fmt with
  | 0 =>
    let v := signedOf 8 code
    some (decide (v < 0), v.natAbs, 0)
  | 1 =>
    let e := code / 8 % 16
    let m := code % 8
    if code % 128 = 127 then none else some (decide (128 ≤ code), if 0 < e then 8 + m else m, max e 1)
  | 2 =>
    let e := code / 4 % 32
    let m := code % 4
    if e = 31 then none else some (decide (128 ≤ code), if 0 < e then 4 + m else m, max e 1)
  | _ =>
    let e := code / 2 % 4
    let m := code % 2
    some (decide (8 ≤ code), if 0 < e then 2 + m else m, max e 1)

/-- A group of 32 elements aligned (R238): the signed magnitudes and the exponent u, or none when it holds a
non-number. -/
structure Aligned where
  mags : List Int
  u : Int
  bad : Bool
  deriving DecidableEq, Repr

/-- The aligned magnitude of an element, truncated toward zero. -/
def alignMag (fmt M x X : Nat) : Nat :=
  match fmt with
  | 0 => M
  | 1 => if X ≤ x + 4 then M * 2 ^ (x + 4 - X) else M / 2 ^ (X - x - 4)
  | 2 => if X ≤ x + 5 then M * 2 ^ (x + 5 - X) else M / 2 ^ (X - x - 5)
  | _ => M * 2 ^ (x - 1)

/-- Align a group (R238, R239): a non-number takes no part in the group maximum. -/
def alignGroup (fmt : Nat) (codes : List Nat) : Aligned :=
  let es := codes.map (standElem fmt)
  let X : Nat := es.foldl (fun m e => match e with | some (_, _, x) => max m x | none => m) 1
  { mags := es.map (fun e =>
      match e with
      | some (s, M, x) => if s then -(alignMag fmt M x X : Int) else (alignMag fmt M x X : Int)
      | none => 0)
    u := match fmt with
      | 0 => 0
      | 1 => (X : Int) - 14
      | 2 => (X : Int) - 22
      | _ => -1
    bad := es.any Option.isNone }

/-- The exact value S × 2^e; zero is +0 (R240). -/
def scaledInt (S e : Int) : Val :=
  if 0 ≤ e then .num (decide (S < 0)) (S.natAbs * 2 ^ e.toNat) 1 else .num (decide (S < 0)) S.natAbs (2 ^ (-e).toNat)

/-- The exact dot product of two aligned groups. -/
def groupDot (a b : Aligned) : Val :=
  scaledInt (((a.mags.zip b.mags).map (fun p => p.1 * p.2)).foldl (· + ·) 0) (a.u + b.u)

/-! ## The arithmetic of one MMA -/

/-- RNE to a format, with MODE and MODEX ignored (R240). -/
def standRnd (f : Fmt) (v : Val) : Nat := rndFloat f ⟨0, false, false, 0⟩ v

/-- The rounding of a finite value overflowed to an infinity (R242). -/
def overflowed (v : Val) : Bool :=
  match v with
  | .num _ _ _ => decide (standRnd .binary32 v % 2 ^ 31 = 0x7F800000)
  | _ => false

/-- The element code at index `k` of a row of operand A (R245). -/
def aCode (afmt row k : Nat) : Nat := if afmt = 3 then row / 2 ^ (4 * k) % 16 else row / 2 ^ (8 * k) % 256

/-- The element code of operand B at row `k` and column `n` (R230). -/
def bCode (m : Macro) (bfmt bhalf k n : Nat) : Nat :=
  let row := m.rows.getD k 0
  if bfmt = 3 then row / 2 ^ (4 * (n + 128 * bhalf)) % 16 else row / 2 ^ (8 * n) % 256

/-- The four aligned groups of row `i` of A. -/
def aGroups (op : TileOp) (i : Nat) : List Aligned :=
  let afmt := fld op.block 0 1
  (List.range 4).map (fun j =>
    alignGroup afmt ((List.range 32).map (fun k => aCode afmt (op.a.getD i 0) (32 * j + k))))

/-- The four aligned segments of column `n` of B. -/
def bGroups (op : TileOp) (m : Macro) (n : Nat) : List Aligned :=
  let bfmt := fld op.block 1 1
  (List.range 4).map (fun j =>
    alignGroup bfmt ((List.range 32).map (fun k => bCode m bfmt (fld op.block 4 1) (32 * j + k) n)))

/-- One cell of an MMA (R240 to R242): the new contents and the flags it sets.  A zero chunk value is +0, and y follows R110 (log 82). -/
def mmaCell (op : TileOp) (ga gb : List Aligned) (i n : Nat) (old : Word) : Word × BitVec 3 :=
  if (ga ++ gb).any Aligned.bad then (0x7FC00000, 4)
  else
    let T := (Fmt.binary32.value op.tsa.toNat).mul (Fmt.binary32.value op.tsb.toNat)
    let blk := fld op.block 2 1
    let dots := (ga.zip gb).map (fun p => groupDot p.1 p.2)
    let cx :=
      -- a sum of reals, in which a zero is +0
      sumVals false (.num false 0 1 :: (if blk = 0 then dots else dots.mapIdx (fun j v =>
        ((Fmt.e4m3.value (fld op.sa (4 * i + j) 1)).mul (Fmt.e4m3.value (fld op.sb (128 * j + n) 1))).mul v)))
    let qx := if blk = 0 then
        ((Fmt.binary32.value (fld op.sa (4 * i) 4)).mul (Fmt.binary32.value (fld op.sb 0 4))).mul T
      else T
    let c := Fmt.binary32.value (standRnd .binary32 cx)
    let q := Fmt.binary32.value (standRnd .binary32 qx)
    let y := sumVals false [Fmt.binary32.value old.toNat, c.mul q]
    let inf0 := overflowed cx || overflowed qx
    if fld op.block 3 1 = 0 then
      let new := standRnd .binary32 y
      (BitVec.ofNat 32 new,
        (if inf0 || overflowed y then 1 else 0) ||| (if new = 0x7FC00000 then 4 else 0))
    else
      let inf16 := standRnd .bf16 y
      let finite := match y with | .num _ _ _ => true | _ => false
      let sat := finite && decide (inf16 % 2 ^ 15 = 0x7F80)
      let new := if sat then inf16 - 1 else inf16
      (BitVec.ofNat 32 (new * 2 ^ 16),
        (if inf0 then 1 else 0) ||| (if sat then 2 else 0) ||| (if new = 0x7FC0 then 4 else 0))

/-- The tile after an MMA (R240). -/
def mmaTile (op : TileOp) (m : Macro) (t : Tile) : Tile :=
  let bs := (List.range 128).map (bGroups op m)
  (List.range 64).foldl (fun t i =>
    let ga := aGroups op i
    (List.range 128).foldl (fun t n =>
      let r := mmaCell op ga (bs.getD n []) i n (t.cells.getD (128 * i + n) 0)
      { t with cells := t.cells.setD (128 * i + n) r.1 0, flags := t.flags ||| r.2 }) t) t

/-- An accepted MMA ends with POISON and no effect (R245, R253): its crew traps, at the MMA where that was its latest instruction (log 16). -/
def State.poisonOp (s : State) (core : Nat) (op : TileOp) (tval : Nat) : State :=
  (s.mapCore core (fun c => { c with tileOps := c.tileOps.erase op })).mapCrewAt op.crew (fun c =>
    { c with
      pc := if op.seq + 1 = c.issued then op.pc else c.pc
      savedTrap := some (0x0E, BitVec.ofNat 64 tval) })

/-- Broadcast an accepted MMA: its additions enter the tile (R240), unless it would read a cell with an uncorrectable error (R253). -/
def State.broadcast (s : State) (core : Nat) (op : TileOp) : State :=
  if !(s.tile core op.tile).errors.isEmpty then s.poisonOp core op op.tile
  else
    (s.setTile core op.tile (mmaTile op (s.mac core op.mac) (s.tile core op.tile))).mapCore core
      (fun c => { c with tileOps := c.tileOps.erase op })

/-- Broadcast, in the order of acceptance, the accepted MMAs that `want` names and those that stand before one of
them on its tile or its macro (R231, R243). -/
def State.broadcastThrough (s : State) (core : Nat) (want : TileOp → Bool) : State :=
  let rec mark (sel : List TileOp) : List TileOp → List TileOp
    | [] => sel
    | op :: older =>
      mark (if want op || sel.any (fun o => decide (o.tile = op.tile ∨ o.mac = op.mac)) then op :: sel else sel) older
  (mark [] (s.core core).tileOps.reverse).foldl (fun s op => s.broadcast core op) s

/-- MMA_BROADCAST (R240): an accepted MMA enters its tile, where none before it names the tile or the macro. -/
def execMmaBroadcast (core entry : Nat) (s : State) : Host.Outcome State Fault Refusal :=
  .next (
    let ops := (s.core core).tileOps
    match ops[entry]? with
    | none => s
    | some op =>
      if (ops.take entry).any (fun o => decide (o.tile = op.tile ∨ o.mac = op.mac)) then s else s.broadcast core op)

/-! ## Instructions -/

/-- An MLOAD card is malformed in itself (R244, Table 10.4). -/
def mloadCardBad (card : Nat) : Bool :=
  let src := fld card 8 8
  let stride := fld card 16 8
  decide (fld card 0 1 ≠ 3) || decide (4 < fld card 1 1) || decide (3 < fld card 2 1) || decide (fld card 3 5 ≠ 0) ||
  decide (src % 128 ≠ 0) || decide (stride % 128 ≠ 0 ∨ stride < 128 ∨ 2 ^ 30 < stride) || decide (fld card 24 40 ≠ 0) ||
  footprintBad card || !(cardWrites card).isEmpty ||
  !(List.range 128).all (fun k => covered (cardReads card) (src + k * stride) 128)

/-- MLOAD (R244): reads the card and enters the load of a macro in the gate.  Another context's MLOAD to the macro is in flight while it is in the
gate (log 124). -/
def execMload (d a : BitVec 8) (m : BitVec 3) (s : State) : Host.Outcome State Fault Refusal :=
  issue (.mload d a m) s (fun s =>
    let va := s.crew.getSS a.toNat
    structRead s va 256 256 (fun s card =>
      let other := (s.core s.focusCore).jobs.any (fun j =>
        decide (j.kind = .mload) && decide (j.aux.head? = some m.toNat) && decide (j.ctx ≠ s.crew.ctx))
      let bad := mloadCardBad card || other
      enterJob s .mload card va d.toNat 0 bad [m.toNat] none (fun s _ => s)))

/-- MLOAD_ROW (R244): a started load reads one row into its macro, or stops; the last row makes the context its
owner. -/
def execMloadRow (core job : Nat) (s : State) : Host.Outcome State Fault Refusal :=
  .next (
    match s.job? core job with
    | none => s
    | some j =>
      if j.kind ≠ .mload ∨ j.started = false ∨ j.result.isSome then s
      else
        let m := j.aux.headD 0
        let stop (s : State) (st : Nat) : State :=
          s.mapJob core job (fun j => { j with result := some (tokenOf st (128 * j.pos)) })
        if j.cancelled then stop s 4
        else
          match s.engineClassify core (s.jobTask j) j.ctx (byteVas (fld j.card 8 8 + j.pos * fld j.card 16 8) 128) [] with
          | (some st, _, _, s) => stop s st
          | (none, xs, _, s) =>
            let (bs, s) := s.engineRead core j.ctx xs
            let x := s.mac core m
            let x := { x with rows := x.rows.setD j.pos (packElems 8 bs) 0 }
            if j.pos = 127 then
              (s.setMac core m { x with fmt := fld j.card 2 1, owner := some j.ctx }).mapJob core job (fun j =>
                { j with pos := 128, result := some (tokenOf 0 (128 * 128)) })
            else (s.setMac core m x).mapJob core job (fun j => { j with pos := j.pos + 1 }))

/-- A format block with a code outside Table 10.1, a nonzero reserved byte or a half without E2M1 (R245 step 3). -/
def formatBlockBad (b : Nat) : Bool :=
  decide (3 < fld b 0 1 ∨ 3 < fld b 1 1 ∨ 1 < fld b 2 1 ∨ 1 < fld b 3 1 ∨ 1 < fld b 4 1) || decide (fld b 5 3 ≠ 0) ||
  decide (fld b 24 40 ≠ 0) || (decide (fld b 4 1 = 1) && decide (fld b 1 1 ≠ 3))

/-- The number of the first MLOAD that comes after the crew's MMA (R231): as it was when the MMA began to wait, or the next one. -/
def Crew.mmaBound (c : Crew) (next : Nat) : Nat :=
  match c.waiting with
  | some (.mma _ before _) => before
  | _ => next

/-- The format block of an MMA (R245 step 2), which one that already waits has read. -/
def mmaBlock (s : State) (va : DWord) (f : State → Nat → Res) : Res :=
  match s.crew.waiting with
  | some (.mma _ _ b) => f s b
  | _ => structRead s va 64 64 f

/-- MMA (R245, R246): the checks in order, the block and the scales, and the acceptance by the stand. -/
def execMma (d a : BitVec 8) (t m : BitVec 3) (s : State) : Host.Outcome State Fault Refusal :=
  issue (.mma d a t m) s (fun s =>
    let c := s.crew
    let core := s.focusCore
    let blockVa := c.getSS a.toNat
    if c.active ≠ BitVec.allOnes 64 then .trap s 0x06 c.active
    else
      mmaBlock s blockVa (fun s b =>
        let before := c.mmaBound (s.core core).nextJob
        if formatBlockBad b then .trap s 0x01 blockVa
        else if fld b 0 1 ≠ 3 ∧ c.vregs < d.toNat + 32 then .trap s 0x12 (BitVec.ofNat 64 d.toNat)
        else if (s.core core).jobs.any (fun j => j.holdsMacro (some m.toNat) && decide (j.id < before)) then
          .hold (s.mapCrew (fun c => { c with waiting := some (.mma m.toNat before b) }))
        else if (s.mac core m.toNat).owner ≠ some c.ctx then .trap s 0x03 (m.zeroExtend 64)
        else if fld b 1 1 ≠ (s.mac core m.toNat).fmt then .trap s 0x01 blockVa
        else
          let blk := fld b 2 1
          structRead s (BitVec.ofNat 64 (fld b 8 8)) 256 (if blk = 0 then 4 else 1) (fun s sa =>
            structRead s (BitVec.ofNat 64 (fld b 16 8)) (if blk = 0 then 4 else 512) (if blk = 0 then 4 else 1) (fun s sb =>
              let o : Opnd := .vb 0 d.toNat 32 8 .read
              if c.pend.any (fun p => p.kind.isRemote && p.targets o) then .hold s
              else
                let s := s.perform s.fkey (fun p => p.targets o)
                if !(s.tile core t.toNat).errors.isEmpty then .trap s 0x0E (t.zeroExtend 64)
                else
                  let n := if fld b 0 1 = 3 then 16 else 32
                  let op : TileOp :=
                    { crew := s.fkey, pc := c.pc, seq := c.issued, tile := t.toNat, mac := m.toNat
                      a := (List.range 64).map (fun l => packElems 32 ((List.range n).map (fun j =>
                        (s.crew.getV (d.toNat + j) l).toNat)))
                      block := b, sa := sa, sb := sb, tsa := c.tsa, tsb := c.tsb }
                  .done (s.mapCore core (fun k => { k with tileOps := k.tileOps ++ [op] }))))))

/-- Every earlier tile operation of the executing crew on a tile completes (R247 to R250). -/
def State.settleTile (s : State) (t : Nat) : State :=
  let key := s.fkey
  if (s.core s.focusCore).tileOps.any (fun o => decide (o.crew = key ∧ o.tile = t)) then
    s.broadcastThrough s.focusCore (fun o => decide (o.crew = key ∧ o.tile = t))
  else s

/-- An instruction on a tile, after the crew's earlier tile operations on it; where one of those has left a trap, the instruction does not begin
(R253). -/
def onTile (s : State) (t : Nat) (f : State → Res) : Res :=
  let s := s.settleTile t
  if s.crew.savedTrap.isSome then .hold s else f s

/-- MZERO (R247): +0 into every cell; the flags stay, and errors are cleared (R253). -/
def execMzero (t : BitVec 3) (s : State) : Host.Outcome State Fault Refusal :=
  issue (.mzero t) s (fun s => onTile s t.toNat (fun s =>
    .done (s.setTile s.focusCore t.toNat { s.tile s.focusCore t.toNat with cells := [], errors := [] })))

/-- MREAD (R248): eight columns of a tile into eight vector registers. -/
def execMread (d : BitVec 8) (t : BitVec 3) (c : BitVec 8) (s : State) : Host.Outcome State Fault Refusal :=
  issue (.mread d t c) s (fun s => onTile s t.toNat (fun s =>
    let x := s.tile s.focusCore t.toNat
    let act := s.crew.active
    if x.errors.any (fun e => act.getLsbD (e / 128) && decide (c.toNat ≤ e % 128 ∧ e % 128 < c.toNat + 8)) then
      .trap s 0x0E (t.zeroExtend 64)
    else
      .done (s.mapCrew (fun k => (List.range 8).foldl (fun k j =>
        k.setLanes (d.toNat + j) 1 act (fun l => (x.cells.getD (128 * l + (c.toNat + j)) 0).toNat)) k))))

/-- The bytes of row `i` of a tile as MSTORE writes them: FP32 cells, or BF16 rounded by RNE (R249). -/
def rowBytes (x : Tile) (f i : Nat) : Nat :=
  let cells := (List.range 128).map (fun n => (x.cells.getD (128 * i + n) 0).toNat)
  if f = 0 then packElems 32 cells
  else packElems 16 (cells.map (fun w => standRnd .bf16 (Fmt.binary32.value w)))

/-- MSTORE (R249): each active lane's row to its address, line by line; a lane with an absent page writes nothing
until the replay. -/
def execMstore (t : BitVec 3) (a f : BitVec 8) (s : State) : Host.Outcome State Fault Refusal :=
  issue (.mstore t a f) s (fun s => onTile s t.toNat (fun s =>
    let c := s.crew
    let x := s.tile s.focusCore t.toNat
    let n := if f.toNat = 0 then 4 else 2
    let rows := c.laneAddrs a.toNat 0
    if x.errors.any (fun e => c.active.getLsbD (e / 128)) then .trap s 0x0E (t.zeroExtend 64)
    else
      let parts := rows.flatMap (fun r => (List.range n).map (fun j => (r.1, (r.2 + 128 * j) % 2 ^ 64)))
      match s.classify s.focusCore (some s.fkey) c.ctx 128 .write false parts with
      | (.trap cause tval, s) =>
        let row := rows.find? (fun r => (List.range n).any (fun j => decide ((r.2 + 128 * j) % 2 ^ 64 = tval.toNat)))
        .trap s cause (BitVec.ofNat 64 ((row.map (fun r => r.2)).getD tval.toNat))
      | (.go xs absent, s) =>
        let gone := lanesMask absent
        let xs := xs.filter (fun y => !gone.getLsbD y.lane)
        let accs := xs.map (fun y =>
          let base := ((rows.find? (fun r => decide (r.1 = y.lane))).map (fun r => r.2)).getD 0
          LaneAcc.mk y.lane y.va y.loc (fld (rowBytes x f.toNat y.lane) ((y.va + 2 ^ 64 - base) % 2 ^ 64) 128) 0 [] true)
        let s := s.enterPend ⟨.tstore, 128, accs, c.pc, c.issued, 0, 0⟩
        if absent.isEmpty then .done s else .hold (s.parkOn gone .write absent)))

/-- MFLAGS (R250): the tile's flags into s[d], and they clear. -/
def execMflags (d : BitVec 8) (t : BitVec 3) (s : State) : Host.Outcome State Fault Refusal :=
  issue (.mflags d t) s (fun s => onTile s t.toNat (fun s =>
    let x := s.tile s.focusCore t.toNat
    .done ((s.setTile s.focusCore t.toNat { x with flags := 0 }).mapCrew (fun c =>
      c.setS d.toNat (x.flags.zeroExtend 32)))))

/-- MTSC (R251): the scale latches take the bit patterns. -/
def execMtsc (a b : BitVec 8) (s : State) : Host.Outcome State Fault Refusal :=
  issueCrew (.mtsc a b) s (fun c => { c with tsa := c.getS a.toNat, tsb := c.getS b.toNat })

/-! ## Errors -/

/-- MACRO_ERROR (R230, R245): the macro becomes invalid; an MMA not yet broadcast from it is dropped and its crew
traps POISON with the macro number, at the MMA where that was its latest instruction (log 16). -/
def execMacroError (core mac : Nat) (s : State) : Host.Outcome State Fault Refusal :=
  .next (
    let lost := (s.core core).tileOps.filter (fun o => decide (o.mac = mac))
    let s := s.record core 0 1 4 0 (6 * 2 ^ 45 + 2 ^ 48)
    let s := s.setMac core mac { s.mac core mac with owner := none }
    lost.foldl (fun s o => s.poisonOp core o mac) s)

/-- TILE_CELL_ERROR (R253): an uncorrectable error in a cell is kept for the next reader. -/
def execTileCellError (core tile cell : Nat) (s : State) : Host.Outcome State Fault Refusal :=
  .next (if tile < 8 ∧ cell < 8192 then
    let s := s.record core 0 1 4 0 (5 * 2 ^ 45 + 2 ^ 48)
    let x := s.tile core tile
    s.setTile core tile { x with errors := cell :: x.errors.filter (· ≠ cell) }
  else s)

/-- A corrected error in a tile (5) or a macro (6) of a core is recorded (R419). -/
def State.correctedError (s : State) (core part : Nat) : State :=
  if core < 192 ∧ (part = 5 ∨ part = 6) then s.record core 0 1 4 0 (part * 2 ^ 45) else s

/-! ## WAITC -/

/-- The crew's four outstanding counts (R216): loads, stores, copies, tile operations.  The parts of one access count once; a store that its
point of coherence has acknowledged has completed (R215). -/
def State.counts (s : State) (key : Nat) : Nat × Nat × Nat × Nat :=
  let c := s.crews.getD key Crew.blank
  let k := s.core (key / 64)
  (((c.pend.filter (fun p => p.kind.isLoad)).map Pend.seq).dedup.length,
   ((c.pend.filter (fun p => p.kind.isStore && !p.kind.isLoad && decide (p.kind ≠ .tstore ∧ p.acked = 0))).map Pend.seq).dedup.length,
   (k.jobs.filter (fun j => decide (j.crew = key) && j.kind.countsCopy)).length,
   (k.jobs.filter (fun j => decide (j.crew = key) && !j.kind.countsCopy)).length +
     (k.tileOps.filter (fun o => decide (o.crew = key))).length +
     ((c.pend.filter (fun p => decide (p.kind = .tstore ∧ p.acked = 0))).map Pend.seq).dedup.length)

/-- WAITC (R216): waits until each count is at most its field, and then observes every job that has completed. -/
def execWaitc (l n c t : BitVec 6) (s : State) : Host.Outcome State Fault Refusal :=
  issue (.waitc l n c t) s (fun s =>
    let (nl, ns, nc, nt) := s.counts s.fkey
    if l.toNat < nl ∨ n.toNat < ns ∨ c.toNat < nc ∨ t.toNat < nt then .hold s else .done s.observeAll)

end Sys2Proof.Machine
end

