-- ==== Sys2Proof/Machine/Grammar.lean ====
section
/-! DEFINITION. The grammar engine: GBIND, GRUN, GSTAT and the rows of a run, opcodes 0xAC to 0xAE (R255 to R268). -/

namespace Sys2Proof.Machine

/-! ## Reading and checking an object -/

/-- Why a check of an object stops. -/
inductive Stop where
  /-- A row of Table 7.3 that traps, with its address. -/
  | trap (cause : Nat) (tval : DWord)
  /-- An engine's access stops with a status of Table 9.3. -/
  | access (status : Nat)
  /-- The page is absent: a crew parks. -/
  | absent (xs : List LaneXlat)
  /-- A structural failure (R263): status and byte offset. -/
  | status (st off : Nat)
  /-- A grammar fault (R261): cause and report. -/
  | grammar (cause : Nat) (report : Nat)
  deriving DecidableEq, Repr

/-- A computation that reads memory in order and may stop. -/
abbrev Chk (α : Type) := ExceptT Stop (StateM State) α

/-- Stop here. -/
def stopChk {α : Type} (e : Stop) : Chk α := fun s => (.error e, s)

/-- Stop unless the condition holds. -/
def need (b : Bool) (e : Stop) : Chk Unit := if b then pure () else stopChk e

/-- How an object's bytes are read: address, number of bytes. -/
abbrev Reader := Nat → Nat → Chk Nat

/-- A crew's scalar read of `n` bytes at `va` at their points of coherence (R262). -/
def crewReader : Reader := fun va n s =>
  match s.classify s.focusCore none s.crew.ctx 1 .read true ((byteVas va n).map (fun v => (0, v))) with
  | (.trap cause tval, s) => (.error (.trap cause tval), s)
  | (.go xs [], s) => (.ok ((s.pocRead xs).placeBytes xs), s.pocRead xs)
  | (.go _ absent, s) => (.error (.absent absent), s)

/-- An engine's read of `n` bytes at `va` at their points of coherence (R266), for a job of task `task` and context `cn`. -/
def engineReader (core task cn : Nat) : Reader := fun va n s =>
  match s.engineClassify core task cn (byteVas va n) [] with
  | (some st, _, _, s) => (.error (.access st), s)
  | (none, xs, _, s) =>
    let (bs, s) := s.engineRead core cn xs
    (.ok (packElems 8 bs), s)

/-- The report of R261. -/
def gramReportOf (sect row cause rule : Nat) : Nat :=
  sect % 2 ^ 12 * 2 ^ 52 + row % 2 ^ 24 * 2 ^ 28 + cause * 2 ^ 24 + rule % 2 ^ 24

/-- The row field of a fault that lies in a rule. -/
def noRow : Nat := 0xFFFFFF

/-- The fields of Table 11.1 that a binding keeps, from header bytes 4–47. -/
structure GramHeader where
  vfmt : Nat
  nterm : Nat
  nrule : Nat
  nrow : Nat
  ncol : Nat
  nsect : Nat
  size : Nat
  termOff : Nat
  ruleOff : Nat
  rowOff : Nat
  sectOff : Nat
  deriving DecidableEq, Repr

/-- Read the fields from header bytes 4–47. -/
def GramHeader.ofBytes (h : Nat) : GramHeader :=
  { vfmt := fld h 1 1, nterm := fld h 4 4, nrule := fld h 8 4, nrow := fld h 12 4, ncol := fld h 16 4
    nsect := fld h 20 2, size := fld h 24 4, termOff := fld h 28 4, ruleOff := fld h 32 4, rowOff := fld h 36 4
    sectOff := fld h 40 4 }

/-- A section (Table 11.2). -/
structure Sect where
  ruleFirst : Nat
  ruleCount : Nat
  rowFirst : Nat
  rowCount : Nat
  deriving DecidableEq, Repr

/-- Bytes of a terminal entry. -/
def GramHeader.termSize (h : GramHeader) : Nat := if h.vfmt = 0 then 4 else 8

/-- The first field of the header that breaks step 1 of R263, in the order of the step: magic, version, vfmt, the reserved bytes and the
ranges, each by offset (log 36). -/
def headerFault (x : Nat) : Option Nat :=
  let checks : List (Nat × Bool) :=
    [(0, decide (fld x 0 4 = 0x4D4D5247)), (4, decide (fld x 4 1 = 1)), (5, decide (fld x 5 1 ≤ 2)),
     (6, decide (fld x 6 2 = 0)), (26, decide (fld x 26 2 = 0)), (48, decide (fld x 48 16 = 0)), (8, decide (1 ≤ fld x 8 4 ∧ fld x 8 4 ≤ 2 ^ 24)), (12, decide (fld x 12 4 ≤ 2 ^ 24)),
     (16, decide (1 ≤ fld x 16 4 ∧ fld x 16 4 ≤ 2 ^ 24)), (20, decide (1 ≤ fld x 20 4 ∧ fld x 20 4 ≤ 2 ^ 24)),
     (24, decide (1 ≤ fld x 24 2 ∧ fld x 24 2 ≤ 4096)), (28, decide (fld x 28 4 % 64 = 0 ∧ fld x 28 4 ≠ 0))]
  (checks.find? (fun c => !c.2)).map (fun c => c.1)

/-- The first table that breaks step 2 of R263: the alignment of every table, and then the place of each inside the extent (log 36). -/
def tableFault (h : GramHeader) : Option Nat :=
  let tables : List (Nat × Nat × Nat) :=
    [(32, h.termOff, h.termSize * h.nterm), (36, h.ruleOff, 8 * h.nrule), (40, h.rowOff, 8 * h.nrow), (44, h.sectOff, 16 * h.nsect)]
  ((tables.find? (fun t => decide (t.2.1 % 16 ≠ 0))).or (tables.find? (fun t => decide (h.size < t.2.1 + t.2.2)))).map Prod.fst

/-- Step 3 of R263: the section table as read forms the partition of R257. -/
def readSections (rd : Reader) (base : Nat) (h : GramHeader) : Chk (List Sect) := do
  let r ← (List.range h.nsect).foldlM (fun (acc : List Sect × Nat × Nat) i => do
    let off := h.sectOff + 16 * i
    let e ← rd (base + off) 16
    let x : Sect := ⟨fld e 0 4, fld e 4 4, fld e 8 4, fld e 12 4⟩
    need (decide (x.ruleFirst = acc.2.1 ∧ x.rowFirst = acc.2.2 ∧ 1 ≤ x.rowCount)) (.status 3 off)
    pure (acc.1 ++ [x], x.ruleFirst + x.ruleCount, x.rowFirst + x.rowCount)) ([], 0, 0)
  need (decide (r.2.1 = h.nrule ∧ r.2.2 = h.nrow)) (.status 3 (h.sectOff + 16 * (h.nsect - 1)))
  pure r.1

/-- The CAP check of a section for `nvec` vectors (R261, R263 step 4). -/
def checkCap (nvec i : Nat) (x : Sect) : Chk Unit :=
  need (decide (x.ruleCount * nvec ≤ 16384))
    (.grammar 0x0C (gramReportOf i x.rowFirst 3 (x.ruleFirst + 16384 / nvec)))

/-- Steps 7 and 8 of R263, symbol by symbol: a sequence whose references must lie in [lo, hi). -/
def checkSymbols (rd : Reader) (base : Nat) (h : GramHeader) (off len lo hi : Nat) (order : Nat → Stop) : Chk (List Nat) :=
  (List.range len).foldlM (fun (acc : List Nat) j => do
    let x ← rd (base + off + 4 * j) 4
    need (decide (bitsOf x 30 24 = 0) && (x.testBit 31 || decide (x % 2 ^ 24 < h.nterm))) (.status 6 (off + 4 * j))
    need (!x.testBit 31 || decide (lo ≤ x % 2 ^ 24 ∧ x % 2 ^ 24 < hi)) (order (x % 2 ^ 24))
    pure (acc ++ [x])) []

/-- Steps 6 to 8 of R263 for rule `r` of section `i`: its depth byte and its sequence. -/
def readRule (rd : Reader) (base : Nat) (h : GramHeader) (i : Nat) (x : Sect) (r : Nat) : Chk (Nat × List Nat) := do
  let off := h.ruleOff + 8 * r
  let e ← rd (base + off) 8
  let so := fld e 0 4
  let len := fld e 4 2
  need (decide (so % 4 = 0 ∧ 1 ≤ len ∧ len ≤ 256 ∧ fld e 7 1 = 0 ∧ so + 4 * len ≤ h.size)) (.status 5 off)
  let syms ← checkSymbols rd base h so len x.ruleFirst r (fun _ => .grammar 0x0A (gramReportOf i noRow 1 r))
  pure (fld e 6 1, syms)

/-- Steps 6 to 8 of R263 for row `w` of section `i`: its sequence. -/
def readRow (rd : Reader) (base : Nat) (h : GramHeader) (i : Nat) (x : Sect) (w : Nat) : Chk (List Nat) := do
  let off := h.rowOff + 8 * w
  let e ← rd (base + off) 8
  let so := fld e 0 4
  let len := fld e 4 4
  need (decide (so % 4 = 0 ∧ len ≤ 2 ^ 20 ∧ so + 4 * len ≤ h.size)) (.status 5 off)
  checkSymbols rd base h so len x.ruleFirst (x.ruleFirst + x.ruleCount) (fun r => .grammar 0x0A (gramReportOf i w 1 r))

/-- The depth of a rule from the depths of the rules it references (R258). -/
def depthOf (depths : SMap Nat) (syms : List Nat) : Nat :=
  1 + ((syms.filter (fun x => x.testBit 31)).map (fun x => depths.getD (x % 2 ^ 24) 0)).foldl max 0

/-- Steps 6 to 9 of R263 for one section; a run checks only the limit of the depth byte (`full` false, R265). -/
def checkSection (rd : Reader) (base : Nat) (h : GramHeader) (full : Bool) (i : Nat) (x : Sect) : Chk Unit := do
  let _ ← (List.range x.ruleCount).foldlM (fun (depths : SMap Nat) j => do
    let r := x.ruleFirst + j
    let (d, syms) ← readRule rd base h i x r
    let want := depthOf depths syms
    need (decide (d ≤ 64) && (!full || decide (d = want))) (.grammar 0x0B (gramReportOf i noRow 2 r))
    pure (depths.insert r want)) []
  (List.range x.rowCount).forM (fun j => do
    let _ ← readRow rd base h i x (x.rowFirst + j)
    pure ())

/-- Step 5 of R263: the terminals. -/
def checkTerminals (rd : Reader) (base : Nat) (h : GramHeader) : Chk Unit :=
  (List.range h.nterm).forM (fun i => do
    let off := h.termOff + h.termSize * i
    let e ← rd (base + off) h.termSize
    need (decide (e % 2 ^ 24 < h.ncol) && (decide (h.vfmt = 0) || decide (fld e 3 1 = 0)) &&
      (decide (h.vfmt ≠ 1) || decide (fld e 6 2 = 0))) (.status 4 off))

/-- The whole validation of R263: the new binding. -/
def validateObject (base : Nat) : Chk Binding := do
  let x ← crewReader base 64
  match headerFault x with
  | some off => stopChk (.status 1 off)
  | none =>
    let h := GramHeader.ofBytes (fld x 4 44)
    match tableFault h with
    | some off => stopChk (.status 2 off)
    | none =>
      let sects ← readSections crewReader base h
      (sects.zipIdx).forM (fun p => checkCap 1 p.2 p.1)
      checkTerminals crewReader base h
      (sects.zipIdx).forM (fun p => checkSection crewReader base h true p.2 p.1)
      pure ⟨BitVec.ofNat 64 base, fld x 4 44, (sects.map Sect.ruleCount).foldl max 0⟩

/-! ## GBIND -/

/-- What a stop of GBIND or of GRUN's check at issue does to the crew: a memory trap leaves it, a grammar fault is kept
for GSTAT. -/
def stopAtIssue (s : State) (d : Nat) (clear : Bool) : Stop → Res
  | .trap cause tval => .trap s cause tval
  | .access _ => .done s
  | .absent xs => .hold (s.parkOn s.crew.am .read xs)
  | .status st off =>
    .done (s.mapCrew (fun c =>
      (if clear then { c with binding := none } else c).setS d (BitVec.ofNat 32 (st * 2 ^ 28 + min off 0x0FFFFFFF))))
  | .grammar cause report =>
    .trap (s.mapCrew (fun c =>
      { c with binding := if clear then none else c.binding, gramReport := BitVec.ofNat 64 report }))
      cause (BitVec.ofNat 64 report)

/-- The effect of GBIND (R262, R263). -/
def gbindBody (d a : Nat) (s : State) : Res :=
  let va := s.crew.getSS a
  if va.toNat % 64 ≠ 0 then .trap s 0x02 va
  else
    match validateObject va.toNat s with
    | (.error e, s) => stopAtIssue s d true e
    | (.ok b, s) => .done (s.mapCrew (fun c => { c with binding := some b, gramReport := 0 }.setS d 0))

/-- GBIND (R262): validates a grammar object and binds it to the crew. -/
def execGbind (d a : BitVec 8) (s : State) : Host.Outcome State Fault Refusal :=
  issue (.gbind d a) s (gbindBody d.toNat a.toNat)

/-! ## GRUN -/

/-- A GRUN card is malformed for a binding (R264). -/
def grunCardBad (card : Nat) (b : Binding) : Bool :=
  let h := GramHeader.ofBytes b.header
  let nvec := fld card 2 1
  let x := fld card 8 8
  let xs := fld card 16 8
  let y := fld card 24 8
  let ys := fld card 32 8
  let ext := (b.base.toNat, h.size)
  let vecs := (List.range nvec).map (fun j => ((x + xs * j) % 2 ^ 64, 4 * h.ncol))
  let outs := (List.range nvec).map (fun j => ((y + ys * j) % 2 ^ 64, 4 * h.nrow))
  decide (fld card 0 1 ≠ 4) || decide (4 < fld card 1 1) || decide (nvec = 0 ∨ 8 < nvec) || decide (fld card 3 5 ≠ 0) ||
  decide (fld card 40 24 ≠ 0) || decide (x % 4 ≠ 0 ∨ xs % 4 ≠ 0 ∨ y % 4 ≠ 0 ∨ ys % 4 ≠ 0) ||
  (decide (1 < nvec) && decide (ys < 4 * h.nrow)) || footprintBad card ||
  !(ext :: vecs).all (fun r => covered (cardReads card) r.1 r.2) ||
  !outs.all (fun r => covered (cardWrites card) r.1 r.2) ||
  outs.any (fun o => (ext :: vecs).any (fun r => (Range.mk o.1 o.2).overlaps ⟨r.1, r.2⟩))

/-- The report of a GRAM_CAP trap at issue (R264): the first section as read whose rules do not fit.  Where the object
has been rewritten so that every section fits, the section, row and rule are free (log 37). -/
def capAtIssue (b : Binding) (nvec : Nat) : Chk Nat := do
  let h := GramHeader.ofBytes b.header
  let base := b.base.toNat
  let r ← (List.range h.nsect).foldlM (fun (acc : Option Nat) i => do
    match acc with
    | some x => pure (some x)
    | none =>
      let e ← crewReader (base + h.sectOff + 16 * i) 16
      if 16384 < fld e 4 4 * nvec then
        pure (some (gramReportOf i (fld e 8 4) 3 (fld e 0 4 + 16384 / nvec)))
      else pure none) none
  match r with
  | some x => pure x
  | none => fun s => (.ok (gramReportOf (bitsOf s.takeFree.1.toNat 63 52) (bitsOf s.takeFree.1.toNat 51 28) 3
      (bitsOf s.takeFree.1.toNat 23 0)), s.takeFree.2)

/-- The effect of GRUN (R264). -/
def grunBody (d a : Nat) (s : State) : Res :=
  let va := s.crew.getSS a
  structRead s va 256 256 (fun s card =>
    match s.crew.binding with
    | none => enterJob s .grun card va d 0 true [] none (fun s _ => s)
    | some b =>
      let nvec := fld card 2 1
      if grunCardBad card b then enterJob s .grun card va d 0 true [] none (fun s _ => s)
      else if 16384 < b.maxrules * nvec then
        match capAtIssue b nvec s with
        | (.error e, s) => stopAtIssue s d false e
        | (.ok report, s) => stopAtIssue s d false (.grammar 0x0C report)
      else enterJob s .grun card va d 0 false [b.base.toNat, b.header] none (fun s _ => s))

/-- GRUN (R264): starts the evaluation of the bound object for a card. -/
def execGrun (d a : BitVec 8) (s : State) : Host.Outcome State Fault Refusal :=
  issue (.grun d a) s (grunBody d.toNat a.toNat)

/-- The value of a terminal, as an exact number (R256, R259). -/
def termValue (vfmt e : Nat) : Val :=
  match vfmt with
  | 0 => Fmt.e4m3.value (fld e 3 1)
  | 1 => Fmt.bf16.value (fld e 4 2)
  | _ => Fmt.binary32.value (fld e 4 4)

/-- Where an entry of the RVF stands: a context's entries are kept beside those of other contexts, so that an entry beyond a job's sections shows what
an earlier job of the same context, or the reset, left there (R267; log 125). -/
def rvfKey (cn i : Nat) : Nat := cn * 2 ^ 14 + i % 2 ^ 14

/-- The engine issues a symbol, once for all vectors (Table 18.6). -/
def symbolIssued (core task j : Nat) : Chk Unit := fun s => (.ok (), if j = 0 then s.countEvent core 0x3003 task 1 else s)

/-- `sum(seq, j)` of R259: one rounding for each symbol, the first term alone. -/
def gramSum (core task cn base : Nat) (h : GramHeader) (x : Sect) (nvec xva j : Nat) (syms : List Nat) : Chk Nat := do
  let r ← syms.foldlM (fun (acc : Option Nat) sym => do
    symbolIssued core task j
    let term ← (if sym.testBit 31 then
        (fun s => (.ok (Fmt.binary32.value
          ((s.core core).rvf.getD (rvfKey cn ((sym % 2 ^ 24 - x.ruleFirst) * nvec + j)) 0).toNat), s) : Chk Val)
      else do
        let e ← engineReader core task cn (base + h.termOff + h.termSize * (sym % 2 ^ 24)) h.termSize
        let v ← engineReader core task cn (xva + 4 * (e % 2 ^ 24)) 4
        pure ((termValue h.vfmt e).mul (Fmt.binary32.value v)))
    match acc with
    | none => pure (some (standRnd .binary32 term))
    | some a => pure (some (standRnd .binary32 (sumVals false [Fmt.binary32.value a, term])))) none
  pure (r.getD 0)

/-- Evaluate the rules of a section into the rule-value file (R259, R260). -/
def evalRules (core task cn base : Nat) (h : GramHeader) (i : Nat) (x : Sect) (nvec : Nat) (xva : Nat → Nat) : Chk Unit :=
  (List.range x.ruleCount).forM (fun k => do
    let (_, syms) ← readRule (engineReader core task cn) base h i x (x.ruleFirst + k)
    (List.range nvec).forM (fun j => do
      let v ← gramSum core task cn base h x nvec (xva j) j syms
      fun s => (.ok (), s.mapCore core (fun c =>
        { c with rvf := c.rvf.setD (rvfKey cn (k * nvec + j)) (BitVec.ofNat 32 v) 0, rvfCtx := some cn }))))

/-- Write one row for every vector (R266): all its elements are classified before one is written. -/
def writeRow (core task cn : Nat) (ys : List (Nat × Nat)) : Chk Unit := fun s =>
  match s.engineClassify core task cn [] (ys.flatMap (fun y => byteVas y.1 4)) with
  | (some st, _, _, s) => (.error (.access st), s)
  | (none, _, ps, s) =>
    (.ok (), s.engineWrite core cn ps (ys.flatMap (fun y => (List.range 4).map (fun k => fld y.2 k 1))))

/-- The sections of a run, kept with the job after its base and header. -/
def sectsOf : List Nat → List Sect
  | a :: b :: c :: d :: rest => ⟨a, b, c, d⟩ :: sectsOf rest
  | _ => []

/-- One row of a run (R265, R266): before row 0 the section table is read and checked; before the first row of a
section the section is checked and its rules are evaluated.  The result is the sections and whether an element of the
row is not finite. -/
def grunRow (core task : Nat) (j : Job) : Chk (List Sect × Bool) := do
  let base := j.aux.headD 0
  let h := GramHeader.ofBytes (j.aux.getD 1 0)
  let rd := engineReader core task j.ctx
  let nvec := fld j.card 2 1
  let xva := fun v => (fld j.card 8 8 + fld j.card 16 8 * v) % 2 ^ 64
  let sects ← if j.pos = 0 then readSections rd base h else pure (sectsOf (j.aux.drop 2))
  match sects.zipIdx.find? (fun p => decide (p.1.rowFirst ≤ j.pos ∧ j.pos < p.1.rowFirst + p.1.rowCount)) with
  | none => pure (sects, false)
  | some (x, i) =>
    if j.pos = x.rowFirst then
      checkCap nvec i x
      checkSection rd base h false i x
      evalRules core task j.ctx base h i x nvec xva
    let syms ← readRow rd base h i x j.pos
    let vs ← (List.range nvec).mapM (fun v => gramSum core task j.ctx base h x nvec (xva v) v syms)
    writeRow core task j.ctx (vs.zipIdx.map (fun p => ((fld j.card 24 8 + fld j.card 32 8 * p.2 + 4 * j.pos) % 2 ^ 64, p.1)))
    pure (sects, vs.any (fun v => decide (bitsOf v 30 23 = 0xFF)))

/-- The token of a run that stops (R265). -/
def grunStop (s : State) (core : Nat) (j : Job) : Stop → State
  | .access st => s.mapJob core j.id (fun j => { j with result := some (tokenOf st j.pos) })
  | .grammar _ report =>
    s.mapJob core j.id (fun j => { j with result := some (tokenOf 7 j.pos), aux := [report] })
  | _ => s.mapJob core j.id (fun j => { j with result := some (tokenOf 5 j.pos) })

/-- GRUN_ROW (R260, R265, R266): the run that has the engine evaluates and writes its next row, or stops. -/
def execGrunRow (core job : Nat) (s : State) : Host.Outcome State Fault Refusal :=
  .next (
    match s.job? core job with
    | none => s
    | some j =>
      if j.kind ≠ .grun ∨ j.started = false ∨ j.result.isSome ∨ (s.core core).gramQ.head? ≠ some job then s
      else if j.cancelled then s.mapJob core job (fun j => { j with result := some (tokenOf 4 j.pos) })
      else
        match grunRow core (s.jobTask j) j s with
        | (.error e, s) => grunStop s core j e
        | (.ok (sects, bad), s) =>
          let n := (GramHeader.ofBytes (j.aux.getD 1 0)).nrow
          s.mapJob core job (fun j => { j with
            pos := j.pos + 1
            nonfin := j.nonfin || bad
            aux := j.aux.take 2 ++ sects.flatMap (fun x => [x.ruleFirst, x.ruleCount, x.rowFirst, x.rowCount])
            result := if j.pos + 1 = n then some (tokenOf 0 n) else none }))

/-! ## GSTAT -/

/-- GSTAT (R267): the last grammar report, the state of the binding, or an entry of the rule-value file. -/
def execGstat (d a sel : BitVec 8) (s : State) : Host.Outcome State Fault Refusal :=
  issue (.gstat d a sel) s (fun s =>
    let k := s.core s.focusCore
    .done (s.mapCrew (fun c =>
      if sel = 0 then c.setSS d.toNat c.gramReport
      else if sel = 1 then
        (c.setS d.toNat ((c.gramFlags.zeroExtend 32 <<< 1) ||| (if c.binding.isSome then 1 else 0))).setS (d.toNat + 1)
          (BitVec.ofNat 32 ((c.binding.map Binding.maxrules).getD 0))
      else
        let foreign := match k.rvfCtx with
          | some cn => decide (cn ≠ c.ctx)
          | none => false
        (c.setS d.toNat (if foreign then 0x7FC00000 else k.rvf.getD (rvfKey c.ctx (c.getS a.toNat).toNat) 0)).setS
          (d.toNat + 1) 0)))

end Sys2Proof.Machine
end

