-- ==== Sys2Proof/Machine/Spatial.lean ====
section
/-! DEFINITION. Operator words, tokens, queues and the firing of a slot (R273 to R291, R304 to R312, R319). -/

namespace Sys2Proof.Machine

/-! ## Operator words (Tables 12.2 to 12.5) -/

/-- Target A of an entry. -/
def SlotCfg.tgtA (c : SlotCfg) : Nat := c.word.toNat / 2 ^ 16 % 256
/-- Target B of an entry. -/
def SlotCfg.tgtB (c : SlotCfg) : Nat := c.word.toNat / 2 ^ 8 % 256
/-- The modifier of an entry. -/
def SlotCfg.mod (c : SlotCfg) : Nat := c.word.toNat % 256
/-- The element type of the modifier. -/
def SlotCfg.ty (c : SlotCfg) : Nat := c.mod % 16
/-- The constant K selected by ks (R274). -/
def SlotCfg.konst (c : SlotCfg) : Word := if c.mod.testBit 4 then c.ecr1 else c.ecr0

/-- An entry that is all zero: the slot is empty (R272). -/
def SlotCfg.empty (c : SlotCfg) : Bool := decide (c = ⟨0, 0, 0, 0, 0, 0, 0, 0⟩)

/-- A slot entry of 16 bytes (Table 12.2). -/
def SlotCfg.ofBytes (x : Nat) : SlotCfg :=
  { word := BitVec.ofNat 32 (fld x 0 4), ecr0 := BitVec.ofNat 32 (fld x 4 4), ecr1 := BitVec.ofNat 32 (fld x 8 4)
    dl := fld x 12 1, dr := fld x 13 1, dp := fld x 14 1, pre := fld x 15 1 / 16, ii := fld x 15 1 % 16 }

/-- The 16 bytes of a slot entry. -/
def SlotCfg.toBytes (c : SlotCfg) : Nat :=
  layout [(4, c.word.toNat), (4, c.ecr0.toNat), (4, c.ecr1.toNat), (1, c.dl), (1, c.dr), (1, c.dp),
    (1, c.pre % 16 * 16 + c.ii % 16)]

/-- A target byte names no position. -/
def noTarget (t : Nat) : Bool := decide (t % 4 = 3)

/-- The targets of an entry: A, B and the further targets of a COPY (R273, R281). -/
def SlotCfg.targets (c : SlotCfg) : List Nat :=
  ([c.tgtA, c.tgtB] ++ (if c.op = 0x02 then [c.ecr0.toNat % 256, c.ecr0.toNat / 256 % 256] else [])).filter
    (fun t => !noTarget t)

/-- The targets A and B that an entry has. -/
def SlotCfg.both (c : SlotCfg) : List Nat := [c.tgtA, c.tgtB].filter (fun t => !noTarget t)

/-- The positions that an entry uses, 0 left, 1 right, 2 predicate (Table 12.5 with kr, pg and ap). -/
def SlotCfg.uses (c : SlotCfg) : List Nat :=
  let pg := if c.mod.testBit 6 then [2] else []
  let right := if c.mod.testBit 5 then [] else [1]
  let op := c.op
  if op = 0x01 then [0] ++ pg
  else if op ∈ [0x02, 0x20, 0x22, 0x28, 0x29, 0x2A, 0x31, 0x32, 0x38] then [0]
  else if op = 0x03 then [0, 1, 2]
  else if op = 0x04 then [0, 2]
  else if op = 0x05 ∨ op = 0x17 then [0, 1] ++ pg
  else if op = 0x0B then [0] ++ right ++ (if c.mod.testBit 6 || c.mod.testBit 7 then [2] else [])
  else if 0x08 ≤ op ∧ op ≤ 0x16 then [0] ++ right ++ pg
  else if op ∈ [0x21, 0x33, 0x36] then [0, 1]
  else if op = 0x34 then (if c.dr = 0 then [0] else [0, 1])
  else []

/-- The depth of a position. -/
def SlotCfg.depth (c : SlotCfg) (p : Nat) : Nat := if p = 0 then c.dl else if p = 1 then c.dr else c.dp

/-- The operator sends no result: SNK, MEMST, EXITX and EDGETX (R273). -/
def SlotCfg.mute (c : SlotCfg) : Bool := decide (c.op ∈ [0x31, 0x33, 0x34, 0x38])

/-- The element types and modifier bits that an operator accepts (R274, R275, R281 to R286). -/
def SlotCfg.modOk (c : SlotCfg) : Bool :=
  let t := c.ty
  let op := c.op
  if op = 0x01 ∨ op = 0x28 ∨ op = 0x29 then decide (t = 0)
  else if op = 0x0B then
    decide (t ≤ 8) && !(c.mod.testBit 7 && c.mod.testBit 6) && (!c.mod.testBit 5 || c.mod.testBit 7)
  else if 0x08 ≤ op ∧ op ≤ 0x0D ∨ op = 0x2A then decide (t ≤ 8)
  else if 0x0E ≤ op ∧ op ≤ 0x11 then decide (t ≤ 2)
  else if 0x12 ≤ op ∧ op ≤ 0x14 then decide (t ≤ 11)
  else if op = 0x15 ∨ op = 0x16 then decide (t ∈ [0, 1, 3, 4, 7, 8])
  else if op = 0x17 then decide (7 ≤ t ∧ t ≤ 10) && !c.mod.testBit 5
  else if op = 0x20 then
    let ct := c.ecr0.toNat % 16
    cvtPair (BitVec.ofNat 16 (t * 16 + ct * 256)) && decide (t < 12 ∧ ct < 12) && decide (c.mod / 16 % 8 ≤ 5) &&
      decide (c.ecr0.toNat < 16)
  else if op = 0x22 then decide (t ∈ [0, 2, 9, 10, 11])
  else if op = 0x02 then
    let x := c.ecr0.toNat % 256
    let y := c.ecr0.toNat / 256 % 256
    decide (c.ecr0.toNat < 2 ^ 16) && (!noTarget x || decide (x = 3)) && (!noTarget y || decide (y = 3))
  else if op = 0x34 then decide (c.ecr0.toNat < 64)
  else true

/-- A slot that is not empty meets R272 to R275 by itself. -/
def SlotCfg.ok (c : SlotCfg) : Bool :=
  operatorOk c.word && c.modOk && (c.mute || !noTarget c.tgtA) &&
  (!noTarget c.tgtA || decide (c.tgtA = 3)) && (!noTarget c.tgtB || decide (c.tgtB = 3)) &&
  (!c.mute || (noTarget c.tgtA && noTarget c.tgtB)) &&
  (List.range 3).all (fun p =>
    if p ∈ c.uses then decide (2 ≤ c.depth p ∧ c.depth p ≤ 64) else decide (c.depth p = 0)) &&
  decide (c.pre ≤ c.dr) && decide (1 ≤ c.ii)

/-! ## Slots -/

/-- A slot as the load leaves it (R272, R284 to R286); `sl` is its number. -/
def SpSlot.load (c : SlotCfg) (sl : Nat) : SpSlot :=
  { cfg := c, changed := false, left := [], right := List.replicate c.pre ⟨c.ecr1, 0⟩, pred := []
    acc := if c.op = 0x29 then 0 else c.konst
    gen := seedOf c.ecr1 sl, loop := none, block := 0, gate := 0, exits := [], injects := [], loads := [], track := []
    tides := if c.op = 0x30 ∨ c.op = 0x35 then [1] else []
    tide := 0, pos := 0, half := none, reported := false, ended := false, fault := none, changes := [], fired := false
    lost := 0, worst := 0, worstPort := 0, lack := 0 }

/-- The queue of a position. -/
def SpSlot.queue (x : SpSlot) (p : Nat) : List Tok := if p = 0 then x.left else if p = 1 then x.right else x.pred

/-- Change the queue of a position. -/
def SpSlot.mapQueue (x : SpSlot) (p : Nat) (f : List Tok → List Tok) : SpSlot :=
  if p = 0 then { x with left := f x.left } else if p = 1 then { x with right := f x.right } else { x with pred := f x.pred }

/-- The heads of the positions, when each holds one. -/
def SpSlot.heads (x : SpSlot) : List Nat → Option (List Tok)
  | [] => some []
  | p :: ps =>
    match (x.queue p).head?, x.heads ps with
    | some t, some ts => some (t :: ts)
    | _, _ => none

/-- The tokens that a slot holds, wherever (R313); a record of an EXITX holds one for each position it uses (R288). -/
def SpSlot.tokens (x : SpSlot) : Nat :=
  x.left.length + x.right.length + x.pred.length + x.exits.length * (if x.cfg.dr = 0 then 1 else 2) + 2 * x.injects.length + x.loads.length +
    x.track.length + (if x.loop.isSome then 1 else 0)

/-- The origin of a POISON that slot `sl` of table index `ci` makes (Table 13.2). -/
def SpSlot.origin (x : SpSlot) (ci sl cause : Nat) : Word :=
  BitVec.ofNat 32 (sl % 64 * 2 ^ 26 + ci % 64 * 2 ^ 20 + x.cfg.op % 64 * 2 ^ 14 + cause * 2 ^ 10 + x.pos % 1024)

/-- A replaced entry at its TIDE (R308, R323): a CVT is reseeded, and a new operator starts from its own K (log 41). -/
def SpSlot.replace (x : SpSlot) (c : SlotCfg) (sl : Nat) : SpSlot :=
  { x with
    cfg := c
    changed := true
    gen := seedOf c.ecr1 sl
    acc := if c.op = x.cfg.op then x.acc else if c.op = 0x29 then 0 else c.konst }

/-- Apply one waiting change (R308). -/
def SpSlot.apply (sl : Nat) (x : SpSlot) : Change → SpSlot
  | .ecw 0 w => { x with cfg := { x.cfg with ecr0 := w }, changed := true }
  | .ecw _ w => { x with cfg := { x.cfg with ecr1 := w }, changed := true }
  | .entry c _ => x.replace c sl

/-- TIDE `n` passes slot `sl`: the position count restarts and the waiting changes take effect (R306, R308). -/
def SpSlot.edge (x : SpSlot) (sl n : Nat) : SpSlot :=
  let y := x.changes.foldl (SpSlot.apply sl) { x with pos := 0 }
  { y with changes := [], tide := n }

/-! ## Firing -/

/-- What a firing does: the positions consumed, the tokens sent to target bytes, the slot's own state afterwards, and
whether a TIDE passes. -/
structure Firing where
  consume : List Nat
  emit : List (Nat × Tok)
  slot : SpSlot
  tide : Bool
  deriving DecidableEq, Repr

/-- The round of the TIDE that a firing passes on. -/
def Firing.round (f : Firing) : Nat :=
  f.emit.foldl (fun n e => if e.2.tag = 3 then max n e.2.value.toNat else n) f.slot.tide

/-- A DATA token. -/
def dataTok (x : Nat) : Tok := ⟨BitVec.ofNat 32 x, 0⟩

/-- Send one token to each target. -/
def sendAll (ts : List Nat) (t : Tok) : List (Nat × Tok) := ts.map (fun g => (g, t))

/-- The one token that heads not all DATA become (R280): a common one, the lowest POISON, or a new POISON. -/
def mixTok (x : SpSlot) (ci sl : Nat) (hs : List Tok) : Tok :=
  match hs.find? (fun t => decide (t.tag = 4)) with
  | some t => t
  | none =>
    match hs with
    | [] => ⟨0, 0⟩
    | t :: ts =>
      if t.tag ≠ 0 ∧ t.tag ≠ 1 ∧
          ts.all (fun u => decide (u.tag = t.tag) && (decide (t.tag ≠ 2) || decide (u.value.toNat % 8 = t.value.toNat % 8)))
      then t else ⟨x.origin ci sl 0, 4⟩

/-- The firing of an operator that takes one head of each position (R279, R280). -/
def syncFire (x : SpSlot) (ci sl : Nat) (ps ts : List Nat) (data : List Word → Firing) : Option Firing :=
  match x.heads ps with
  | none => none
  | some hs =>
    if hs.all (fun t => decide (t.tag = 0)) then some (data (hs.map Tok.value))
    else
      let t := mixTok x ci sl hs
      some ⟨ps, sendAll ts t, x, decide (t.tag = 3)⟩

/-- The firing of an operator with one input that forwards every token unchanged (R280). -/
def passFire (x : SpSlot) (ts : List Nat) : Option Firing :=
  match x.left with
  | [] => none
  | t :: _ => some ⟨[0], sendAll ts t, x, decide (t.tag = 3)⟩

/-- Every target has a free entry for each token sent to it; `extra` tokens of the slot already hold an entry in each
of its targets (R279, R313). -/
def Region.room (r : Region) (ci extra : Nat) (es : List (Nat × Tok)) : Bool :=
  es.all (fun e =>
    match r.slots.get? (slotKey ci (e.1 / 4)) with
    | none => false
    | some y => decide ((y.queue (e.1 % 4)).length + extra + (es.filter (fun f => decide (f.1 = e.1))).length ≤
        y.cfg.depth (e.1 % 4)))

/-- Tokens land in their target queues. -/
def Region.send (r : Region) (ci : Nat) (es : List (Nat × Tok)) : Region :=
  es.foldl (fun r e =>
    match r.slots.get? (slotKey ci (e.1 / 4)) with
    | none => r
    | some y => { r with slots := r.slots.insert (slotKey ci (e.1 / 4)) (y.mapQueue (e.1 % 4) (fun q => q ++ [e.2])) }) r

/-- The slot after it consumed the heads of positions. -/
def SpSlot.consume (x : SpSlot) (ps : List Nat) : SpSlot :=
  let data := decide (0 ∈ ps) && (x.left.head?.map Tok.tag == some 0)
  let y := ps.foldl (fun x p => x.mapQueue p List.tail) x
  if data then { y with pos := y.pos + 1 } else y

/-- The neighbour of a core on a channel: the core, its channel, and whether the crossing is between dies. -/
def neighbour (core h : Nat) : Option (Nat × Nat × Bool) :=
  let d := core / 24
  let i := core % 24
  match h with
  | 0 => if 6 ≤ i then some (core - 6, 2, false) else none
  | 2 => if i < 18 then some (core + 6, 0, false) else none
  | 1 => if i % 6 < 5 then some (core + 1, 3, false) else some ((d + 1) % 8 * 24 + (i - 5), 3, true)
  | 3 => if 0 < i % 6 then some (core - 1, 1, false) else some ((d + 7) % 8 * 24 + (i + 5), 1, true)
  | _ => none

/-- The channel and track of EDGETX and EDGERX (Table 12.4). -/
def SlotCfg.edge (c : SlotCfg) : Nat × Nat := (c.mod % 4, c.mod / 16)

/-- The slot keys of a table index that hold an operator on a channel and track. -/
def edgeSlots (cfgs : SMap SlotCfg) (ci op h t : Nat) : List Nat :=
  (cfgs.filter (fun e => decide (e.1 / 64 = ci) && decide (e.2.op = op) && decide (e.2.edge = (h, t)))).map (fun e => e.1)

/-- The channel track that an EDGETX of table index `ci` fills (R290): the keys of the EDGERX slots that take from it. -/
def Region.trackSlots (r : Region) (ci : Nat) (c : SlotCfg) : List Nat :=
  match neighbour (r.cores.getD ci 0) c.edge.1 with
  | none => []
  | some (c', h', _) => edgeSlots (r.slots.map (fun e => (e.1, e.2.cfg))) (r.cores.idxOf c') 0x39 h' c.edge.2

/-- A track with these tokens takes no more; how many tokens a track holds is the device's own (log 44). -/
def trackFull (q : List Tok) : Bool := !q.isEmpty && !decide (q.length < 1 + Config.trackExtra)

/-- The track of an EDGETX is full. -/
def Region.edgeFull (r : Region) (ci : Nat) (c : SlotCfg) : Bool :=
  match r.trackSlots ci c with
  | y :: _ => trackFull (((r.slots.get? y).map SpSlot.track).getD [])
  | [] => false

/-- The tokens that the next firing of a slot sends to one target: ACC and COUNT send the value and then the MARK that closes it (R286). -/
def SpSlot.sends (x : SpSlot) : Nat :=
  match x.left with
  | ⟨v, 2⟩ :: _ => if x.cfg.op ∈ [0x29, 0x2A] ∧ x.cfg.mod / 32 % 8 ≤ v.toNat % 8 then 2 else 1
  | _ => 1

/-- The queue that a target byte names has no room for the next firing of slot `x`, whose loads under way hold an entry each (R279, R313). -/
def Region.full (r : Region) (ci : Nat) (x : SpSlot) (t : Nat) : Bool :=
  match r.slots.get? (slotKey ci (t / 4)) with
  | none => false
  | some y => decide (y.cfg.depth (t % 4) < (y.queue (t % 4)).length + x.loads.length + x.sends)

/-- The port of R319 whose lack a change of the region from `old` to `new` resolved at a slot: 0 to 2 a position that had no token, 8 its
channel track, 4 to 6 a target that was full. -/
def Region.resolved (old new : Region) (ci : Nat) (y y' : SpSlot) : Option Nat :=
  let freed (t : Nat) : Bool := !noTarget t && old.full ci y t && !new.full ci y' t
  match [0, 1, 2].find? (fun p => (y.queue p).isEmpty && !(y'.queue p).isEmpty) with
  | some p => some p
  | none =>
    if (y.track.isEmpty && !y'.track.isEmpty) ||
        (decide (y.cfg.op = 0x38) && old.edgeFull ci y.cfg && !new.edgeFull ci y.cfg) then some 8
    else if freed y.cfg.tgtA then some 4
    else if freed y.cfg.tgtB then some 5
    else if y.cfg.op = 0x02 ∧ (freed (y.cfg.ecr0.toNat % 256) || freed (y.cfg.ecr0.toNat / 256 % 256)) then some 6
    else none

/-- The slots of a region after a change from `old` keep which lack was resolved last (R319). -/
def Region.noteLacks (old new : Region) : Region :=
  { new with slots := new.slots.map (fun e =>
      match (old.slots.get? e.1).bind (fun y => old.resolved new (e.1 / 64) y e.2) with
      | some p => (e.1, { e.2 with lack := p })
      | none => e) }

/-- A state after a step from `s` that may have changed the region at `k`. -/
def State.noteLacks (s : State) (k : Nat) (s' : State) : State :=
  match s.regions.get? k with
  | none => s'
  | some r => s'.mapRegion k r.noteLacks

/-- Lost time (R319): the interval since the slot's last firing is not modelled, so its excess is free (log 6); the port charged with it is
the one whose lack was resolved last. -/
def State.loseTime (s : State) (k ci sl : Nat) : State :=
  match (s.regions.get? k).bind (fun r => (r.slots.get? (slotKey ci sl)).map (fun x => (r, x))) with
  | none => s
  | some (r, x) =>
    if !x.fired then s.mapRegion k (fun r => { r with slots := r.slots.insert (slotKey ci sl) { x with fired := true } })
    else
      let (b, s) := s.takeFree
      let e := b.toNat % 2 ^ 32
      let x := { x with
        lost := min (x.lost + e) (2 ^ 32 - 1)
        worst := max x.worst e
        worstPort := if x.worst < e then x.lack else x.worstPort }
      let s := s.countEvent (r.cores.getD ci 0) 0x4001 (s.crews.getD k Crew.blank).task e
      let entry : DWord := BitVec.ofNat 64 (r.round % 2 ^ 16 * 2 ^ 48 + min e 0xFFFF * 2 ^ 32 + sl * 2 ^ 26 + ci * 2 ^ 20 +
        x.lack * 2 ^ 16)
      s.mapRegion k (fun r => { r with
        slots := r.slots.insert (slotKey ci sl) x
        logs := if e < 16 then r.logs else r.logs.insert ci ((entry :: r.logs.getD ci []).take 64) })

/-- Make a firing, if every target has room. -/
def State.applyFire (s : State) (k ci sl : Nat) (f : Firing) : Option State :=
  match s.regions.get? k with
  | none => none
  | some r =>
    if !r.room ci f.slot.loads.length f.emit then none
    else
      let x := f.slot.consume f.consume
      let x := if f.tide then x.edge sl f.round else x
      let r := { r with slots := r.slots.insert (slotKey ci sl) x, lastFire := s.clock }
      let s := s.countEvent (r.cores.getD ci 0) 0x4000 (s.crews.getD k Crew.blank).task 1
      some (({ s with regions := s.regions.insert k (r.send ci f.emit) } : State).loseTime k ci sl)

/-- A slot of a region may fire: no stop freezes it (R313, R316). -/
def Region.running (r : Region) (core : Nat) : Bool :=
  r.live && !r.held && decide (r.saving ≠ 2) && !r.stopped && !r.halted.contains core

/-- The slot in focus, where it may fire: region key, region, table index and slot. -/
def State.focusSlot? (s : State) : Option (Nat × Region × Nat × SpSlot) :=
  match s.regionAt s.focusCore with
  | none => none
  | some (k, r) =>
    let ci := r.cores.idxOf s.focusCore
    match r.slots.get? (slotKey ci s.focusSlot) with
    | none => none
    | some x => if r.running s.focusCore && !s.pagerOn s.focusCore then some (k, r, ci, x) else none

/-- The slot in focus fires by a rule of its own state, if it can. -/
def fireBy (s : State) (f : SpSlot → Nat → Nat → Option Firing) : Option State :=
  match s.focusSlot? with
  | none => none
  | some (k, _, ci, x) => (f x ci s.focusSlot).bind (s.applyFire k ci s.focusSlot)

/-- The slot in focus holds an operator word. -/
def holdsWord (w : Word) (s : State) : Bool :=
  match s.focusSlot? with
  | none => false
  | some (_, _, _, x) => decide (x.cfg.word = w)

/-- A firing of the slot in focus, if it can fire, with what it leaves for the accounting of lost time (R319). -/
def State.fired (s : State) (f : State → Option State) : Option State :=
  (f s).map (fun t => s.noteLacks ((s.regionAt s.focusCore).elim 0 Prod.fst) t)

/-- An operator: the slot in focus, holding its word, fires if it can; otherwise it waits (R279). -/
def fireOp (w : Word) (s : State) (f : State → Option State) : Host.Outcome State Fault Refusal :=
  .next (if holdsWord w s then (s.fired f).getD s else s)

/-! ## Arithmetic of operators (R275) -/

/-- RNE with no flush (R275). -/
def opRnd (sat : Bool) : Rnd := ⟨0, sat, false, 0⟩

/-- Two words element by element: exact integers through `fi`, exact reals through `ff`. -/
def opArith (t : Nat) (sat : Bool) (fi : Int → Int → Int) (ff : Val → Val → Val) (x y : Word) : Word :=
  let w := widthOf t
  BitVec.ofNat 32 (packElems w ((List.range (countOf t)).map (fun i =>
    match elemKind t with
    | .int it => fitInt it sat (fi (it.read (elemAt w x.toNat i)) (it.read (elemAt w y.toNat i)))
    | .flt f => rndFloat f (opRnd sat) (ff (f.value (elemAt w x.toNat i)) (f.value (elemAt w y.toNat i))))))

/-- x × y + z, rounded once, element by element. -/
def opFma (t : Nat) (x y z : Word) : Word :=
  let w := widthOf t
  BitVec.ofNat 32 (packElems w ((List.range (countOf t)).map (fun i =>
    match elemKind t with
    | .int it =>
      fitInt it false (it.read (elemAt w x.toNat i) * it.read (elemAt w y.toNat i) + it.read (elemAt w z.toNat i))
    | .flt f => rndFloat f (opRnd false) (sumVals false
        [(f.value (elemAt w x.toNat i)).mul (f.value (elemAt w y.toNat i)), f.value (elemAt w z.toNat i)]))))

/-- A comparison of single elements: 1 or 0. -/
def opCompare (t : Nat) (ri : Int → Int → Bool) (rf : Val → Val → Bool) (onNan : Bool) (x y : Word) : Word :=
  let b := match elemKind t with
    | .int it => ri (it.read x.toNat) (it.read y.toNat)
    | .flt f =>
      let a := f.value x.toNat
      let c := f.value y.toNat
      if a.isNan || c.isNan then onNan else rf a c
  if b then 1 else 0

/-- A shift element by element by the count modulo the width. -/
def opBits (t : Nat) (f : Nat → Nat → Nat → Nat) (x y : Word) : Word :=
  let w := widthOf t
  BitVec.ofNat 32 (packElems w ((List.range (countOf t)).map (fun i => f w (elemAt w x.toNat i) (elemAt w y.toNat i))))

/-- The dot product of four elements with the addend K (R121, R275). -/
def opDot4 (t : Nat) (sat : Bool) (x y z : Word) : Word :=
  let w := widthOf t
  match elemKind t with
  | .int it =>
    let acc : IntFmt := ⟨it.signed, 32⟩
    BitVec.ofNat 32 (fitInt acc sat ((List.range 4).foldl (fun a i =>
      a + it.read (elemAt w x.toNat i) * it.read (elemAt w y.toNat i)) (acc.read z.toNat)))
  | .flt f =>
    BitVec.ofNat 32 (rndFloat .binary32 (opRnd sat) (sumVals false (Fmt.binary32.value z.toNat ::
      (List.range 4).map (fun i => (f.value (elemAt w x.toNat i)).mul (f.value (elemAt w y.toNat i))))))

/-- The firing of a two-operand operator: left, right or K, and the gate of pg (R274, R279). -/
def arithFire (g : Word → Word → Word) (x : SpSlot) (ci sl : Nat) : Option Firing :=
  let c := x.cfg
  syncFire x ci sl c.uses c.both (fun vs =>
    let y := if c.mod.testBit 5 then c.konst else vs.getD 1 0
    let open_ := !c.mod.testBit 6 || (vs.getD (vs.length - 1) 0).getLsbD 0
    ⟨c.uses, if open_ then sendAll c.both ⟨g (vs.getD 0 0) y, 0⟩ else [], x, false⟩)

/-! ## Conversions and accumulators -/

/-- CVT's firing (R284): the fixed rounding and, under code 5, the slot's generator. -/
def cvtFire (x : SpSlot) (ci sl : Nat) : Option Firing :=
  let c := x.cfg
  let code := c.mod / 16 % 8
  syncFire x ci sl [0] c.both (fun vs =>
    let ct := c.ecr0.toNat % 16
    let r := (List.range (countOf ct)).foldl (fun (acc : List Nat × Word) i =>
      let g := if code = 5 then drawStep acc.2 else acc.2
      (acc.1 ++ [convertElem c.ty ct ⟨code, c.mod.testBit 7, false, if code = 5 then g.toNat else 0⟩
        (elemAt (widthOf c.ty) (vs.getD 0 0).toNat i)], g)) ([], x.gen)
    ⟨[0], sendAll c.both (dataTok (packElems (widthOf ct) r.1)), { x with gen := r.2 }, false⟩)

/-- The value of a SCALE token (R285): FP32, or E4M3 when bits 31:8 are all zero; the K that a latch holds at load is read alike (log 42). -/
def scaleOf (w : Word) : Val :=
  if w.toNat < 256 then Fmt.e4m3.value w.toNat else Fmt.binary32.value w.toNat

/-- SCALEMUL's firing (R285). -/
def scalemulFire (x : SpSlot) (ci sl : Nat) : Option Firing :=
  let c := x.cfg
  match x.left with
  | ⟨v, 1⟩ :: _ => some ⟨[0], [], { x with acc := v }, false⟩
  | _ =>
    syncFire x ci sl [0] c.both (fun vs =>
      let y := match elemKind c.ty with
        | .int it => Val.ofInt (it.read (elemAt it.width (vs.getD 0 0).toNat 0))
        | .flt f => f.value (elemAt f.width (vs.getD 0 0).toNat 0)
      ⟨[0], sendAll c.both (dataTok (rndFloat .binary32 (opRnd false) (y.mul (scaleOf x.acc)))), x, false⟩)

/-- RATE's firing (R285; log 43): a SCALE opens a block of 32 DATA tokens, and MARK, TIDE or END ends it early. -/
def rateFire (x : SpSlot) (ci sl : Nat) : Option Firing :=
  let c := x.cfg
  let mixed (x : SpSlot) : Option Firing :=
    (x.heads [0, 1]).map (fun hs =>
      let t := mixTok x ci sl hs
      ⟨[0, 1], sendAll c.both t, { x with block := if (hs.head?.elim 0 Tok.tag) ∈ [2, 3, 5] then 0 else x.block }, decide (t.tag = 3)⟩)
  match x.block, x.left, x.right with
  | 0, _, ⟨v, 1⟩ :: _ => some ⟨[1], [(c.tgtA, ⟨v, 1⟩)], { x with block := 32 }, false⟩
  | n + 1, ⟨v, 0⟩ :: _, _ => some ⟨[0], [(c.tgtA, ⟨v, 0⟩)], { x with block := n }, false⟩
  | _, _, _ => mixed x

/-- LOOPGEN's firing (R283): one token at a time, then the MARK, then n to B. -/
def loopgenFire (x : SpSlot) (_ci _sl : Nat) : Option Firing :=
  let c := x.cfg
  match x.loop with
  | some (n, i) =>
    let cnt := (signedOf 32 n.toNat).toNat
    if i < cnt then
      some ⟨[], [(c.tgtA, ⟨c.ecr0 + BitVec.ofNat 32 i * c.ecr1, 0⟩)], { x with loop := some (n, i + 1) }, false⟩
    else if i = cnt then
      some ⟨[], [(c.tgtA, ⟨BitVec.ofNat 32 (c.mod / 32 % 8), 2⟩)],
        { x with loop := if noTarget c.tgtB then none else some (n, i + 1) }, false⟩
    else some ⟨[], [(c.tgtB, ⟨n, 0⟩)], { x with loop := none }, false⟩
  | none =>
    match x.left with
    | [] => none
    | ⟨v, 0⟩ :: _ => some ⟨[0], [], { x with loop := some (v, 0) }, false⟩
    | t :: _ => some ⟨[0], sendAll c.both t, x, decide (t.tag = 3)⟩

/-- The firing of ACC and COUNT (R286): `step` takes a DATA token, and a MARK of the rank or higher closes the value. -/
def accFire (start : SlotCfg → Word) (step : SpSlot → Word → Word) (x : SpSlot) (ci sl : Nat) : Option Firing :=
  let c := x.cfg
  match x.left with
  | ⟨v, 2⟩ :: _ =>
    if v.toNat % 8 < c.mod / 32 % 8 then some ⟨[0], [], x, false⟩
    else some ⟨[0], sendAll c.both ⟨x.acc, 0⟩ ++ sendAll c.both ⟨v, 2⟩, { x with acc := start c }, false⟩
  | _ => syncFire x ci sl [0] c.both (fun vs => ⟨[0], [], { x with acc := step x (vs.getD 0 0) }, false⟩)

/-! ## Routing -/

/-- MERGE's firing (R282). -/
def mergeFire (x : SpSlot) (ci sl : Nat) : Option Firing :=
  let c := x.cfg
  let send (ps : List Nat) (t : Tok) : Firing := ⟨ps, sendAll c.both t, x, decide (t.tag = 3)⟩
  if c.mod.testBit 6 then
    match x.pred with
    | [] => none
    | ⟨v, 0⟩ :: _ =>
      let p := if v.getLsbD 0 then 0 else 1
      (x.queue p).head?.map (fun t =>
        if t.tag = 0 ∨ t.tag = 4 then send [2, p] t else send [2, p] ⟨x.origin ci sl 0, 4⟩)
    | _ =>
      match x.heads [0, 1, 2] with
      | some [l, r, p] => if l.tag = 0 ∨ r.tag = 0 then none else some (send [0, 1, 2] (mixTok x ci sl [l, r, p]))
      | _ => none
  else
    match x.left, x.right with
    | ⟨v, 0⟩ :: _, _ => some (send [0] ⟨v, 0⟩)
    | _, ⟨v, 0⟩ :: _ => some (send [1] ⟨v, 0⟩)
    | l :: _, r :: _ => some (send [0, 1] (mixTok x ci sl [l, r]))
    | _, _ => none

/-- TGATE's firing (R289). -/
def tgateFire (x : SpSlot) (ci sl : Nat) : Option Firing :=
  let c := x.cfg
  if x.gate = 0 then
    match x.right with
    | [] => none
    | t :: _ =>
      if t.tag = 3 ∨ t.tag = 5 then some ⟨[1], [], { x with gate := t.tag }, false⟩
      else some ⟨[1], sendAll c.both (if t.tag = 4 then t else ⟨x.origin ci sl 0, 4⟩), x, false⟩
  else
    match x.left with
    | [] => none
    | t :: _ => some ⟨[0], sendAll c.both t, { x with gate := if t.tag = x.gate then 0 else x.gate }, decide (t.tag = 3)⟩

/-! ## Slots without targets -/

/-- A slot records a POISON in the status word (R312, Table 13.1). -/
def Region.recordPoison (r : Region) (k : Nat) (origin : Word) : Region :=
  { r with
    poisons := min (r.poisons + 1) 255
    first := if r.first.isNone then some (origin, k) else r.first }

/-- The region status word (Table 13.1). -/
def Region.status (r : Region) : Word :=
  BitVec.ofNat 32 (r.poisons * 2 ^ 8 + (if r.cwfail then 2 else 0) + (if r.poisons = 0 then 0 else 1))

/-- Replace a slot of a region. -/
def State.setSlot (s : State) (k ci sl : Nat) (x : SpSlot) : State :=
  s.mapRegion k (fun r => { r with slots := r.slots.insert (slotKey ci sl) x })

/-- A firing that sent nothing to a queue has been made: the region's last firing, the counter of firings and the slot's lost time. -/
def State.firedSink (s : State) (k ci sl : Nat) : State :=
  match s.regions.get? k with
  | none => s
  | some r =>
    ((s.countEvent (r.cores.getD ci 0) 0x4000 (s.crews.getD k Crew.blank).task 1).mapRegion k (fun r =>
      { r with lastFire := s.clock })).loseTime k ci sl

/-- The started stream bound to a slot of a region, in the control crew's gate (R221, R223). -/
def State.portJob (s : State) (k ci sl : Nat) : Option Job :=
  (s.core (k / 64)).jobs.find? (fun j => decide (j.crew = k) && decide (j.kind = .stream) && decide (j.stream.dir ≠ 0) &&
    decide (j.stream.core = ci) && decide (j.stream.slot = sl) && j.started && j.result.isNone)

/-- The stream bound to a slot, started or not. -/
def State.boundJob (s : State) (k ci sl : Nat) : Option Job :=
  (s.core (k / 64)).jobs.find? (fun j => decide (j.crew = k) && decide (j.kind = .stream) && decide (j.stream.dir ≠ 0) &&
    decide (j.stream.core = ci) && decide (j.stream.slot = sl) && j.result.isNone)

/-- The number of elements of a stream card (R221). -/
def cardCount (card : Nat) : Nat :=
  fld card 16 4 * fld card 20 4 * fld card 24 4 * fld card 28 4

/-- The four indices of element `e` (R221). -/
def cardIndex (card e : Nat) : List Nat :=
  let c0 := fld card 16 4
  let c1 := fld card 20 4
  let c2 := fld card 24 4
  [e % c0, e / c0 % c1, e / c0 / c1 % c2, e / c0 / c1 / c2]

/-- The address of element `e` of a stream (R221). -/
def cardAddr (card e : Nat) : Nat :=
  ((cardIndex card e).zipIdx.foldl (fun a p => a + p.1 * fld card (32 + 8 * p.2) 8) (fld card 8 8)) % 2 ^ 64

/-- The rank of the MARK after element `e`, if there is one (R304). -/
def cardMark (card e : Nat) : Option Nat :=
  let full := (cardIndex card e).zipIdx.map (fun p => decide (p.1 + 1 = fld card (16 + 4 * p.2) 4))
  match (full.takeWhile id).length with
  | 0 => none
  | n + 1 => some n

/-- The bytes of a stream element. -/
def cardSize (card : Nat) : Nat := 2 ^ fld card 4 1

/-- An SNK consumes one token (R305, R312). -/
def State.sinkTok (s : State) (k ci sl : Nat) (x : SpSlot) (t : Tok) : State :=
  let rec1 (s : State) (o : Word) : State := s.mapRegion k (fun r => r.recordPoison (slotKey ci sl) o)
  let put (s : State) (x : SpSlot) : State := s.setSlot k ci sl x
  if x.reported then put s (if t.tag = 3 then x.edge sl t.value.toNat else x)
  else if t.tag = 4 then rec1 (put s x) t.value
  else if t.tag = 3 then put s (x.edge sl t.value.toNat)
  else if t.tag = 5 then
    let s := put s { x with reported := true }
    match s.boundJob k ci sl with
    | none => s
    | some j => s.mapJob (k / 64) j.id (fun j => { j with result := some (tokenOf 0 j.pos) })
  else if t.tag ≠ 0 then put s x
  else
    let o := x.origin ci sl 4
    let x := { x with pos := x.pos + 1 }
    match s.portJob k ci sl with
    | none => put s x
    | some j =>
      let core := (s.regions.get? k).elim 0 (fun r => r.cores.getD ci 0)
      let n := cardSize j.card
      if n = 8 ∧ x.half.isNone then put s { x with half := some t.value }
      else
        let v := if n = 8 then (x.half.getD 0).toNat + 2 ^ 32 * t.value.toNat else t.value.toNat
        let s := put s { x with half := none }
        if cardCount j.card ≤ j.pos then rec1 s o
        else
          match s.engineClassify core (s.jobTask j) j.ctx [] (byteVas (cardAddr j.card j.pos) n) with
          | (some st, _, _, s) =>
            (s.stopSink j).mapJob (k / 64) j.id (fun j => { j with result := some (tokenOf st j.pos) })
          | (none, _, ys, s) =>
            (s.engineWrite core j.ctx ys ((List.range n).map (fun i => fld v i 1))).mapJob (k / 64) j.id (fun j =>
              { j with pos := j.pos + 1 })

/-- SNK's firing (R305): it holds its queue until a stream is bound. -/
def snkFire (s : State) : Option State :=
  match s.focusSlot? with
  | none => none
  | some (k, _, ci, x) =>
    match x.left with
    | [] => none
    | t :: q =>
      if (s.portJob k ci s.focusSlot).isNone && !x.reported && !x.ended then none
      else some ((s.sinkTok k ci s.focusSlot { x with left := q } t).firedSink k ci s.focusSlot)

/-- EXITX's firing (R288): the heads become one record of the exit buffer. -/
def exitxFire (s : State) : Option State :=
  match s.focusSlot? with
  | none => none
  | some (k, r, ci, x) =>
    let sl := s.focusSlot
    match x.heads x.cfg.uses with
    | none => none
    | some hs =>
      if 8 ≤ x.exits.length then none
      else
        let l := hs.getD 0 ⟨0, 0⟩
        let y := x.consume x.cfg.uses
        let y := if l.tag = 3 then y.edge sl l.value.toNat else y
        let y := { y with exits := x.exits ++ [⟨r.exitSeq, l, hs.getD 1 ⟨0, 0⟩⟩] }
        let s := (s.setSlot k ci sl y).mapRegion k (fun r => { r with exitSeq := r.exitSeq + 1 })
        let s := hs.foldl (fun s t =>
          if t.tag = 4 then s.mapRegion k (fun r => r.recordPoison (slotKey ci sl) t.value) else s) s
        some (s.firedSink k ci sl)

/-! ## Memory operators -/

/-- The address of MEMLD and MEMST (R287). -/
def SlotCfg.memVa (c : SlotCfg) (index : Word) : Nat :=
  (c.ecr1.toNat * 2 ^ 32 + c.ecr0.toNat + 4 * index.toNat) % 2 ^ 64

/-- How a memory operator's access goes: the place, a POISON cause, a wait, or a page to wait for. -/
inductive MemGo where
  | ok (loc : Loc)
  | poison (cause : Nat)
  | wait
  | absent (x : LaneXlat)
  deriving DecidableEq, Repr

/-- Classify a memory operator's access (R287, R311). -/
def State.memGo (s : State) (core cn : Nat) (x : SpSlot) (va : Nat) (need : Need) : MemGo × State :=
  match x.fault with
  | some ⟨_, 0⟩ => (.wait, s)
  | some ⟨_, 2⟩ => (.poison 2, s)
  | _ =>
    if va % 4 ≠ 0 then (.poison 1, s)
    else
      match s.xlate core none cn va need with
      | (.ok l, s) => (if need = .read ∧ s.poisoned l.idx 4 then .poison 3 else .ok l, s)
      | (.access, s) => (.poison 1, s)
      | (.bad, s) => (.poison 2, s)
      | (.absent kind level pte, s) => (.absent ⟨0, va, .absent kind level pte⟩, s)

/-- The slot waits for a page (R287): a fault record with slot 0xFF, whose event names the slot (R429). -/
def State.holdSlot (s : State) (k ci sl core cn : Nat) (x : SpSlot) (need : Need) (a : LaneXlat) : State :=
  (s.sendFaultsOf core 0xFF (sl % 64 + 128) (s.crews.getD k Crew.blank).task cn need [a]).setSlot k ci sl { x with fault := some ⟨pageOf a.va, 0⟩ }

/-- A result of MEMLD is sent, or stands behind the replies still to come (R287); a TIDE waits for them, so that the slot's changes take
effect as it is forwarded (R308). -/
def State.memResult (s : State) (k ci sl : Nat) (x : SpSlot) (t : Tok) (tide : Bool) : Option State :=
  if x.loads.isEmpty then s.applyFire k ci sl ⟨[0], sendAll x.cfg.both t, x, tide⟩
  else if tide then none
  else
    match s.regions.get? k with
    | none => none
    | some r =>
      if !r.room ci x.loads.length (sendAll x.cfg.both t) then none
      else
        let y := x.consume [0]
        some ((s.setSlot k ci sl { y with loads := y.loads ++ [some t] }).firedSink k ci sl)

/-- MEMLD's firing (R287, R311). -/
def memldFire (s : State) : Option State :=
  match s.focusSlot? with
  | none => none
  | some (k, r, ci, x) =>
    let sl := s.focusSlot
    match x.left with
    | [] => none
    | ⟨v, 0⟩ :: _ =>
      let va := x.cfg.memVa v
      match s.memGo s.focusCore r.ctx x va .read with
      | (.wait, _) => none
      | (.absent a, s) => some (s.holdSlot k ci sl s.focusCore r.ctx x .read a)
      | (.poison c, s) => s.memResult k ci sl { x with fault := none } ⟨x.origin ci sl c, 4⟩ false
      | (.ok l, s) =>
        if !r.room ci x.loads.length (sendAll x.cfg.both ⟨0, 0⟩) then none
        else
          let y := { x with fault := none }.consume [0]
          let s := s.setSlot k ci sl { y with loads := y.loads ++ [none] }
          some ((s.mapCore s.focusCore (fun c =>
            { c with replies := c.replies ++ [⟨k, c.version, slotKey ci sl, r.ctx, va, l⟩] })).firedSink k ci sl)
    | t :: _ =>
      let t := mixTok x ci sl [t]
      s.memResult k ci sl x t (decide (t.tag = 3))

/-- MEMST's firing (R287, R311, R312): each POISON that it receives is recorded. -/
def memstFire (s : State) : Option State :=
  match s.focusSlot? with
  | none => none
  | some (k, r, ci, x) =>
    let sl := s.focusSlot
    let take (s : State) (x : SpSlot) : Option State := some ((s.setSlot k ci sl (x.consume [0, 1])).firedSink k ci sl)
    let bad (s : State) (x : SpSlot) (os : List Word) : Option State :=
      take (s.mapRegion k (fun r => os.foldl (fun r o => r.recordPoison (slotKey ci sl) o) r)) x
    match x.left, x.right with
    | ⟨v, 0⟩ :: _, ⟨w, 0⟩ :: _ =>
      let va := x.cfg.memVa v
      match s.memGo s.focusCore r.ctx x va .write with
      | (.wait, _) => none
      | (.absent a, s) => some (s.holdSlot k ci sl s.focusCore r.ctx x .write a)
      | (.poison c, s) => bad s { x with fault := none } [x.origin ci sl c]
      | (.ok l, s) => take ((s.writeAt s.focusCore l 4 w.toNat).request s.focusCore r.ctx va l) { x with fault := none }
    | l :: _, t :: _ =>
      let m := mixTok x ci sl [l, t]
      let ps := ([l, t].filter (fun t => decide (t.tag = 4))).map Tok.value
      if m.tag = 4 then bad s x (if ps = [] then [m.value] else ps)
      else if m.tag = 3 then
        some ((s.setSlot k ci sl ((x.consume [0, 1]).edge sl m.value.toNat)).firedSink k ci sl)
      else take s x
    | _, _ => none

/-- MEMLD's answered results at the front of its list go to its targets. -/
def SpSlot.landed (x : SpSlot) : List Tok × SpSlot :=
  let ts := x.loads.takeWhile Option.isSome
  (ts.filterMap id, { x with loads := x.loads.drop ts.length })

/-- Whether an earlier reply of a core is still to come for the slot of reply `p`, of which `rs` are those before it (R287). -/
def MemReply.behind (p : MemReply) (rs : List MemReply) : Bool :=
  rs.any (fun q => decide (q.region = p.region ∧ q.version = p.version ∧ q.slot = p.slot))

/-- A reply lands in its slot, or is discarded and counted when its version is stale (R287, R315). -/
def State.memoryReply (s : State) (core entry : Nat) : State :=
  let c := s.core core
  match c.replies[entry]? with
  | none => s
  | some p =>
    let drop (s : State) : State := s.mapCore core (fun c => { c with replies := c.replies.eraseIdx entry })
    let stale := decide (p.version ≠ c.version) || (s.regionAt core).isNone
    if stale then
      (drop s).mapCore core (fun c => { c with killdrop := c.killdrop + 1 })
    else if p.behind (c.replies.take entry) then s
    else
      match (s.regions.get? p.region).bind (fun r => r.slots.get? p.slot) with
      | none => drop s
      | some x =>
        let (v, s) := (((drop s).settleScopes core none).request core p.ctx p.va p.loc).readBypass core p.loc 4
        let i := x.loads.idxOf none
        let (ts, x) := { x with loads := x.loads.set i (some (dataTok v)) }.landed
        let ci := p.slot / 64
        s.noteLacks p.region ((s.setSlot p.region ci (p.slot % 64) { x with lack := 7 }).mapRegion p.region (fun r =>
          r.send ci (ts.flatMap (sendAll x.cfg.both))))

/-- MEMORY_REPLY (R287, R315): a reply comes. -/
def execMemoryReply (core entry : Nat) (s : State) : Host.Outcome State Fault Refusal := .next (s.memoryReply core entry)

/-- The replies of a core that `p` accepts come, and those before them for the same slots. -/
def State.landReplies (s : State) (core : Nat) (p : MemReply → Bool) : State :=
  let rs := (s.core core).replies
  (rs.filter (fun r => rs.any (fun q => p q && decide (q.region = r.region ∧ q.slot = r.slot)))).foldl (fun s r =>
    s.memoryReply core ((s.core core).replies.idxOf r)) s

/-! ## Sources -/

/-- The next token of a bound stream at its SRC, and the job after it (R304); none while nothing has been read. -/
def srcNext (j : Job) (poison : Word) : Option (Tok × Job) :=
  let p := j.stream
  let stop (j : Job) : Job := { j with result := some (tokenOf p.stop j.pos) }
  let after (j : Job) : Job :=
    if (cardMark j.card p.next).isSome then { j with pos := j.pos + 1, stream := { p with part := 2 } }
    else { j with pos := j.pos + 1, stream := { p with next := p.next + 1, part := 0 } }
  if p.part = 4 then some (⟨0, 5⟩, stop j)
  else if p.part = 2 then
    some (⟨BitVec.ofNat 32 ((cardMark j.card p.next).getD 0), 2⟩,
      { j with stream := { p with next := p.next + 1, part := 0 } })
  else
    match j.buffer.get? p.next with
    | some v =>
      if p.part = 1 then some (dataTok (v / 2 ^ 32), after { j with buffer := j.buffer.remove p.next })
      else if cardSize j.card = 8 then some (dataTok (v % 2 ^ 32), { j with stream := { p with part := 1 } })
      else some (dataTok v, after { j with buffer := j.buffer.remove p.next })
    | none =>
      if cardCount j.card ≤ p.next then some (⟨0, 5⟩, stop j)
      else if p.stop ≠ 0 then some (⟨poison, 4⟩, { j with stream := { p with part := 4 } })
      else none

/-- SRC's firing (R298, R304): a TIDE placed at the slot goes before anything else. -/
def srcFire (s : State) : Option State :=
  match s.focusSlot? with
  | none => none
  | some (k, r, ci, x) =>
    let sl := s.focusSlot
    match x.tides with
    | n :: ns => s.applyFire k ci sl ⟨[], sendAll x.cfg.both ⟨BitVec.ofNat 32 n, 3⟩, { x with tides := ns }, true⟩
    | [] =>
      if r.paused || decide (r.saving ≠ 0) || r.stopping.isSome then none
      else
        match s.portJob k ci sl with
        | none => none
        | some j =>
          match srcNext j (x.origin ci sl 5) with
          | none => none
          | some (t, j') =>
            (s.applyFire k ci sl ⟨[], sendAll x.cfg.both t, x, false⟩).map (fun s => s.mapJob (k / 64) j.id (fun _ => j'))

/-- INJ's firing (R288, R298, R307): a TIDE placed at the slot first; a TIDE whose round was emitted is discarded. -/
def injFire (x : SpSlot) (paused : Bool) : Option Firing :=
  let c := x.cfg
  match x.tides, x.injects with
  | n :: ns, _ =>
    if n ≤ x.tide then some ⟨[], [], { x with tides := ns }, false⟩
    else some ⟨[], sendAll c.both ⟨BitVec.ofNat 32 n, 3⟩, { x with tides := ns, tide := n }, true⟩
  | [], [] => none
  | [], (a, b) :: rest =>
    if paused then none
    else
      let old (t : Tok) : Bool := decide (t.tag = 3) && decide (t.value.toNat ≤ x.tide)
      let out (g : Nat) (t : Tok) : List (Nat × Tok) := if noTarget g || old t then [] else [(g, t)]
      let es := out c.tgtA a ++ out c.tgtB b
      let seen := es.foldl (fun m e => if e.2.tag = 3 then max m e.2.value.toNat else m) x.tide
      some ⟨[], es, { x with injects := rest, tide := seen }, es.any (fun e => decide (e.2.tag = 3))⟩

/-! ## Channels (R290) -/

/-- EDGETX's firing (R290): its token goes onto the track, where the neighbour's EDGERX takes it. -/
def edgetxFire (s : State) : Option State :=
  match s.focusSlot? with
  | none => none
  | some (k, r, ci, x) =>
    let sl := s.focusSlot
    match x.left, r.trackSlots ci x.cfg with
    | t :: _, y :: _ =>
      if trackFull (((r.slots.get? y).map SpSlot.track).getD []) then none
      else
        let x' := x.consume [0]
        let x' := if t.tag = 3 then x'.edge sl t.value.toNat else x'
        some (((s.setSlot k ci sl x').mapRegion k (fun r =>
          match r.slots.get? y with
          | none => r
          | some z => { r with slots := r.slots.insert y { z with track := z.track ++ [t] } })).firedSink k ci sl)
    | _, _ => none

/-- EDGERX's firing: a token from the track to A and B. -/
def edgerxFire (x : SpSlot) : Option Firing :=
  match x.track with
  | [] => none
  | t :: q => some ⟨[], sendAll x.cfg.both t, { x with track := q }, decide (t.tag = 3)⟩

end Sys2Proof.Machine
end

