-- ==== Sys2Proof/Machine/Operators.lean ====
section
/-! DEFINITION. The operators of spatial mode (Table 12.5): one meaning for each operator word, and the firing of a slot by
the word it holds (R279 to R291). -/

namespace Sys2Proof.Machine

/-- The firing of a two-operand operator whose function reads the type and the sat bit (R275). -/
def arithFireSat (g : Nat → Bool → Word → Word → Word) (x : SpSlot) (ci sl : Nat) : Option Firing :=
  arithFire (g x.cfg.ty (decide (x.cfg.op ≠ 0x0B) && x.cfg.mod.testBit 7)) x ci sl

/-- The firing of PASS (R280, R281): L to A and B, every kind of token unchanged; with pg a SCALE beside a SCALE is forwarded too. -/
def firePass (s : State) : Option State :=
  fireBy s (fun x ci sl =>
    if x.cfg.mod.testBit 6 then
      match x.left, x.pred with
      | ⟨v, 1⟩ :: _, ⟨_, 1⟩ :: _ => some ⟨x.cfg.uses, sendAll x.cfg.both ⟨v, 1⟩, x, false⟩
      | _, _ => arithFire (fun v _ => v) x ci sl
    else passFire x x.cfg.targets)

/-- PASS: the slot in focus, holding this word, fires. -/
def execOpPass (a : BitVec 8) (b : BitVec 8) (g : BitVec 1) (r : BitVec 1) (k : BitVec 1) (t : BitVec 4) (s : State) : Host.Outcome State Fault Refusal :=
  fireOp ((0x1 : BitVec 8) ++ a ++ b ++ (0x0 : BitVec 1) ++ g ++ r ++ k ++ t) s firePass

/-- The firing of COPY (R281): L to A, B and the targets in ECR[0]. -/
def fireCopy (s : State) : Option State :=
  fireBy s (fun x _ _ => passFire x x.cfg.targets)

/-- COPY: the slot in focus, holding this word, fires. -/
def execOpCopy (a : BitVec 8) (b : BitVec 8) (s : State) : Host.Outcome State Fault Refusal :=
  fireOp ((0x2 : BitVec 8) ++ a ++ b ++ (0x0 : BitVec 8)) s fireCopy

/-- The firing of SEL (R281): L if P = 1, otherwise R. -/
def fireSel (s : State) : Option State :=
  fireBy s (fun x ci sl => syncFire x ci sl [0, 1, 2] x.cfg.both (fun vs =>
    ⟨[0, 1, 2], sendAll x.cfg.both ⟨if (vs.getD 2 0).getLsbD 0 then vs.getD 0 0 else vs.getD 1 0, 0⟩, x, false⟩))

/-- SEL: the slot in focus, holding this word, fires. -/
def execOpSel (a : BitVec 8) (b : BitVec 8) (s : State) : Host.Outcome State Fault Refusal :=
  fireOp ((0x3 : BitVec 8) ++ a ++ b ++ (0x0 : BitVec 8)) s fireSel

/-- The firing of STEER (R280, R281): L to A if P = 1, otherwise to B; tokens that are not DATA go to both, and SCALE, like every other kind,
unchanged. -/
def fireSteer (s : State) : Option State :=
  fireBy s (fun x ci sl =>
    match x.left, x.pred with
    | ⟨v, 1⟩ :: _, ⟨_, 1⟩ :: _ => some ⟨[0, 2], sendAll x.cfg.both ⟨v, 1⟩, x, false⟩
    | _, _ =>
      syncFire x ci sl [0, 2] x.cfg.both (fun vs =>
        let g := if (vs.getD 1 0).getLsbD 0 then x.cfg.tgtA else x.cfg.tgtB
        ⟨[0, 2], if noTarget g then [] else [(g, ⟨vs.getD 0 0, 0⟩)], x, false⟩))

/-- STEER: the slot in focus, holding this word, fires. -/
def execOpSteer (a : BitVec 8) (b : BitVec 8) (s : State) : Host.Outcome State Fault Refusal :=
  fireOp ((0x4 : BitVec 8) ++ a ++ b ++ (0x0 : BitVec 8)) s fireSteer

/-- The firing of MERGE (R282): one token of two inputs, by arrival or by P. -/
def fireMerge (s : State) : Option State :=
  fireBy s mergeFire

/-- MERGE: the slot in focus, holding this word, fires. -/
def execOpMerge (a : BitVec 8) (b : BitVec 8) (g : BitVec 1) (s : State) : Host.Outcome State Fault Refusal :=
  fireOp ((0x5 : BitVec 8) ++ a ++ b ++ (0x0 : BitVec 1) ++ g ++ (0x0 : BitVec 6)) s fireMerge

/-- The firing of ADD (R275): left plus right. -/
def fireAdd (s : State) : Option State :=
  fireBy s (arithFireSat (fun t sat => opArith t sat (fun x y => x + y) (fun x y => sumVals false [x, y])))

/-- ADD: the slot in focus, holding this word, fires. -/
def execOpAdd (a : BitVec 8) (b : BitVec 8) (x : BitVec 1) (g : BitVec 1) (r : BitVec 1) (k : BitVec 1) (t : BitVec 4) (s : State) : Host.Outcome State Fault Refusal :=
  fireOp ((0x8 : BitVec 8) ++ a ++ b ++ x ++ g ++ r ++ k ++ t) s fireAdd

/-- The firing of SUB (R275): left minus right. -/
def fireSub (s : State) : Option State :=
  fireBy s (arithFireSat (fun t sat => opArith t sat (fun x y => x - y) (fun x y => sumVals false [x, y.neg])))

/-- SUB: the slot in focus, holding this word, fires. -/
def execOpSub (a : BitVec 8) (b : BitVec 8) (x : BitVec 1) (g : BitVec 1) (r : BitVec 1) (k : BitVec 1) (t : BitVec 4) (s : State) : Host.Outcome State Fault Refusal :=
  fireOp ((0x9 : BitVec 8) ++ a ++ b ++ x ++ g ++ r ++ k ++ t) s fireSub

/-- The firing of MUL (R275): left times right. -/
def fireMul (s : State) : Option State :=
  fireBy s (arithFireSat (fun t sat => opArith t sat (fun x y => x * y) (fun x y => x.mul y)))

/-- MUL: the slot in focus, holding this word, fires. -/
def execOpMul (a : BitVec 8) (b : BitVec 8) (x : BitVec 1) (g : BitVec 1) (r : BitVec 1) (k : BitVec 1) (t : BitVec 4) (s : State) : Host.Outcome State Fault Refusal :=
  fireOp ((0xa : BitVec 8) ++ a ++ b ++ x ++ g ++ r ++ k ++ t) s fireMul

/-- The firing of FMA (R274, R275): left times right plus K, or plus the predicate token with ap. -/
def fireFma (s : State) : Option State :=
  fireBy s (fun x ci sl =>
    let c := x.cfg
    syncFire x ci sl c.uses c.both (fun vs =>
      let last := vs.getD (vs.length - 1) 0
      let y := if c.mod.testBit 5 then c.konst else vs.getD 1 0
      let z := if c.mod.testBit 7 then last else c.konst
      let go := !c.mod.testBit 6 || last.getLsbD 0
      ⟨c.uses, if go then sendAll c.both ⟨opFma c.ty (vs.getD 0 0) y z, 0⟩ else [], x, false⟩))

/-- FMA: the slot in focus, holding this word, fires. -/
def execOpFma (a : BitVec 8) (b : BitVec 8) (y : BitVec 1) (g : BitVec 1) (r : BitVec 1) (k : BitVec 1) (t : BitVec 4) (s : State) : Host.Outcome State Fault Refusal :=
  fireOp ((0xb : BitVec 8) ++ a ++ b ++ y ++ g ++ r ++ k ++ t) s fireFma

/-- The firing of MIN (R275): the smaller. -/
def fireMin (s : State) : Option State :=
  fireBy s (arithFireSat (fun t sat => opArith t sat (fun x y => if y < x then y else x) (fun x y => x.min y)))

/-- MIN: the slot in focus, holding this word, fires. -/
def execOpMin (a : BitVec 8) (b : BitVec 8) (x : BitVec 1) (g : BitVec 1) (r : BitVec 1) (k : BitVec 1) (t : BitVec 4) (s : State) : Host.Outcome State Fault Refusal :=
  fireOp ((0xc : BitVec 8) ++ a ++ b ++ x ++ g ++ r ++ k ++ t) s fireMin

/-- The firing of MAX (R275): the larger. -/
def fireMax (s : State) : Option State :=
  fireBy s (arithFireSat (fun t sat => opArith t sat (fun x y => if x < y then y else x) (fun x y => x.max y)))

/-- MAX: the slot in focus, holding this word, fires. -/
def execOpMax (a : BitVec 8) (b : BitVec 8) (x : BitVec 1) (g : BitVec 1) (r : BitVec 1) (k : BitVec 1) (t : BitVec 4) (s : State) : Host.Outcome State Fault Refusal :=
  fireOp ((0xd : BitVec 8) ++ a ++ b ++ x ++ g ++ r ++ k ++ t) s fireMax

/-- The firing of CMPEQ (R275): 1 where equal. -/
def fireCmpeq (s : State) : Option State :=
  fireBy s (fun x ci sl => arithFire (opCompare x.cfg.ty (fun x y => decide (x = y)) (Val.eqv) false) x ci sl)

/-- CMPEQ: the slot in focus, holding this word, fires. -/
def execOpCmpeq (a : BitVec 8) (b : BitVec 8) (g : BitVec 1) (r : BitVec 1) (k : BitVec 1) (t : BitVec 4) (s : State) : Host.Outcome State Fault Refusal :=
  fireOp ((0xe : BitVec 8) ++ a ++ b ++ (0x0 : BitVec 1) ++ g ++ r ++ k ++ t) s fireCmpeq

/-- The firing of CMPNE (R275): 1 where not equal. -/
def fireCmpne (s : State) : Option State :=
  fireBy s (fun x ci sl => arithFire (opCompare x.cfg.ty (fun x y => decide (x ≠ y)) (fun x y => !(x.eqv y)) true) x ci sl)

/-- CMPNE: the slot in focus, holding this word, fires. -/
def execOpCmpne (a : BitVec 8) (b : BitVec 8) (g : BitVec 1) (r : BitVec 1) (k : BitVec 1) (t : BitVec 4) (s : State) : Host.Outcome State Fault Refusal :=
  fireOp ((0xf : BitVec 8) ++ a ++ b ++ (0x0 : BitVec 1) ++ g ++ r ++ k ++ t) s fireCmpne

/-- The firing of CMPLT (R275): 1 where less. -/
def fireCmplt (s : State) : Option State :=
  fireBy s (fun x ci sl => arithFire (opCompare x.cfg.ty (fun x y => decide (x < y)) (Val.lt) false) x ci sl)

/-- CMPLT: the slot in focus, holding this word, fires. -/
def execOpCmplt (a : BitVec 8) (b : BitVec 8) (g : BitVec 1) (r : BitVec 1) (k : BitVec 1) (t : BitVec 4) (s : State) : Host.Outcome State Fault Refusal :=
  fireOp ((0x10 : BitVec 8) ++ a ++ b ++ (0x0 : BitVec 1) ++ g ++ r ++ k ++ t) s fireCmplt

/-- The firing of CMPLE (R275): 1 where less or equal. -/
def fireCmple (s : State) : Option State :=
  fireBy s (fun x ci sl => arithFire (opCompare x.cfg.ty (fun x y => decide (x ≤ y)) (fun x y => x.lt y || x.eqv y) false) x ci sl)

/-- CMPLE: the slot in focus, holding this word, fires. -/
def execOpCmple (a : BitVec 8) (b : BitVec 8) (g : BitVec 1) (r : BitVec 1) (k : BitVec 1) (t : BitVec 4) (s : State) : Host.Outcome State Fault Refusal :=
  fireOp ((0x11 : BitVec 8) ++ a ++ b ++ (0x0 : BitVec 1) ++ g ++ r ++ k ++ t) s fireCmple

/-- The firing of AND (R275): bitwise. -/
def fireAnd (s : State) : Option State :=
  fireBy s (arithFire (fun x y => x &&& y))

/-- AND: the slot in focus, holding this word, fires. -/
def execOpAnd (a : BitVec 8) (b : BitVec 8) (g : BitVec 1) (r : BitVec 1) (k : BitVec 1) (t : BitVec 4) (s : State) : Host.Outcome State Fault Refusal :=
  fireOp ((0x12 : BitVec 8) ++ a ++ b ++ (0x0 : BitVec 1) ++ g ++ r ++ k ++ t) s fireAnd

/-- The firing of OR (R275): bitwise. -/
def fireOr (s : State) : Option State :=
  fireBy s (arithFire (fun x y => x ||| y))

/-- OR: the slot in focus, holding this word, fires. -/
def execOpOr (a : BitVec 8) (b : BitVec 8) (g : BitVec 1) (r : BitVec 1) (k : BitVec 1) (t : BitVec 4) (s : State) : Host.Outcome State Fault Refusal :=
  fireOp ((0x13 : BitVec 8) ++ a ++ b ++ (0x0 : BitVec 1) ++ g ++ r ++ k ++ t) s fireOr

/-- The firing of XOR (R275): bitwise. -/
def fireXor (s : State) : Option State :=
  fireBy s (arithFire (fun x y => x ^^^ y))

/-- XOR: the slot in focus, holding this word, fires. -/
def execOpXor (a : BitVec 8) (b : BitVec 8) (g : BitVec 1) (r : BitVec 1) (k : BitVec 1) (t : BitVec 4) (s : State) : Host.Outcome State Fault Refusal :=
  fireOp ((0x14 : BitVec 8) ++ a ++ b ++ (0x0 : BitVec 1) ++ g ++ r ++ k ++ t) s fireXor

/-- The firing of SHL (R275): left by the count modulo the width. -/
def fireShl (s : State) : Option State :=
  fireBy s (fun x ci sl => arithFire (opBits x.cfg.ty (fun w v n => v * 2 ^ (n % w))) x ci sl)

/-- SHL: the slot in focus, holding this word, fires. -/
def execOpShl (a : BitVec 8) (b : BitVec 8) (g : BitVec 1) (r : BitVec 1) (k : BitVec 1) (t : BitVec 4) (s : State) : Host.Outcome State Fault Refusal :=
  fireOp ((0x15 : BitVec 8) ++ a ++ b ++ (0x0 : BitVec 1) ++ g ++ r ++ k ++ t) s fireShl

/-- The firing of SHR (R275): right by the count modulo the width, zero-filled. -/
def fireShr (s : State) : Option State :=
  fireBy s (fun x ci sl => arithFire (opBits x.cfg.ty (fun w v n => v / 2 ^ (n % w))) x ci sl)

/-- SHR: the slot in focus, holding this word, fires. -/
def execOpShr (a : BitVec 8) (b : BitVec 8) (g : BitVec 1) (r : BitVec 1) (k : BitVec 1) (t : BitVec 4) (s : State) : Host.Outcome State Fault Refusal :=
  fireOp ((0x16 : BitVec 8) ++ a ++ b ++ (0x0 : BitVec 1) ++ g ++ r ++ k ++ t) s fireShr

/-- The firing of DOT4 (R275): the sum of four products and K. -/
def fireDot4 (s : State) : Option State :=
  fireBy s (fun x ci sl => arithFire (fun v w => opDot4 x.cfg.ty (x.cfg.mod.testBit 7) v w x.cfg.konst) x ci sl)

/-- DOT4: the slot in focus, holding this word, fires. -/
def execOpDot4 (a : BitVec 8) (b : BitVec 8) (x : BitVec 1) (g : BitVec 1) (r : BitVec 1) (k : BitVec 1) (t : BitVec 4) (s : State) : Host.Outcome State Fault Refusal :=
  fireOp ((0x17 : BitVec 8) ++ a ++ b ++ x ++ g ++ r ++ k ++ t) s fireDot4

/-- The firing of CVT (R284): converts with the fixed rounding of the configuration. -/
def fireCvt (s : State) : Option State :=
  fireBy s cvtFire

/-- CVT: the slot in focus, holding this word, fires. -/
def execOpCvt (a : BitVec 8) (b : BitVec 8) (x : BitVec 1) (r : BitVec 3) (t : BitVec 4) (s : State) : Host.Outcome State Fault Refusal :=
  fireOp ((0x20 : BitVec 8) ++ a ++ b ++ x ++ r ++ t) s fireCvt

/-- The firing of RATE (R285): pairs one scale with each block of 32 elements. -/
def fireRate (s : State) : Option State :=
  fireBy s rateFire

/-- RATE: the slot in focus, holding this word, fires. -/
def execOpRate (a : BitVec 8) (b : BitVec 8) (s : State) : Host.Outcome State Fault Refusal :=
  fireOp ((0x21 : BitVec 8) ++ a ++ b ++ (0x0 : BitVec 8)) s fireRate

/-- The firing of SCALEMUL (R285): each element times the latched scale. -/
def fireScalemul (s : State) : Option State :=
  fireBy s scalemulFire

/-- SCALEMUL: the slot in focus, holding this word, fires. -/
def execOpScalemul (a : BitVec 8) (b : BitVec 8) (k : BitVec 1) (t : BitVec 4) (s : State) : Host.Outcome State Fault Refusal :=
  fireOp ((0x22 : BitVec 8) ++ a ++ b ++ (0x0 : BitVec 3) ++ k ++ t) s fireScalemul

/-- The firing of LOOPGEN (R283): the indices of a loop, its MARK and its bound. -/
def fireLoopgen (s : State) : Option State :=
  fireBy s loopgenFire

/-- LOOPGEN: the slot in focus, holding this word, fires. -/
def execOpLoopgen (a : BitVec 8) (b : BitVec 8) (r : BitVec 3) (k : BitVec 1) (t : BitVec 4) (s : State) : Host.Outcome State Fault Refusal :=
  fireOp ((0x28 : BitVec 8) ++ a ++ b ++ r ++ k ++ t) s fireLoopgen

/-- The firing of COUNT (R286): the number of DATA tokens up to a MARK. -/
def fireCount (s : State) : Option State :=
  fireBy s (accFire (fun _ => 0) (fun x _ => x.acc + 1))

/-- COUNT: the slot in focus, holding this word, fires. -/
def execOpCount (a : BitVec 8) (b : BitVec 8) (r : BitVec 3) (k : BitVec 1) (t : BitVec 4) (s : State) : Host.Outcome State Fault Refusal :=
  fireOp ((0x29 : BitVec 8) ++ a ++ b ++ r ++ k ++ t) s fireCount

/-- The firing of ACC (R286): the running sum up to a MARK. -/
def fireAcc (s : State) : Option State :=
  fireBy s (accFire SlotCfg.konst (fun x v =>
    opArith x.cfg.ty false (fun a b => a + b) (fun a b => sumVals false [a, b]) x.acc v))

/-- ACC: the slot in focus, holding this word, fires. -/
def execOpAcc (a : BitVec 8) (b : BitVec 8) (r : BitVec 3) (k : BitVec 1) (t : BitVec 4) (s : State) : Host.Outcome State Fault Refusal :=
  fireOp ((0x2a : BitVec 8) ++ a ++ b ++ r ++ k ++ t) s fireAcc

/-- The firing of SRC (R304): the tokens of its bound stream. -/
def fireSrc (s : State) : Option State :=
  srcFire s

/-- SRC: the slot in focus, holding this word, fires. -/
def execOpSrc (a : BitVec 8) (b : BitVec 8) (s : State) : Host.Outcome State Fault Refusal :=
  fireOp ((0x30 : BitVec 8) ++ a ++ b ++ (0x0 : BitVec 8)) s fireSrc

/-- The firing of SNK (R305): tokens to its bound stream. -/
def fireSnk (s : State) : Option State :=
  snkFire s

/-- SNK: the slot in focus, holding this word, fires. -/
def execOpSnk (s : State) : Host.Outcome State Fault Refusal :=
  fireOp ((0x31 : BitVec 8) ++ (0x30300 : BitVec 24)) s fireSnk

/-- The firing of MEMLD (R287): reads a word at base + 4 × index. -/
def fireMemld (s : State) : Option State :=
  memldFire s

/-- MEMLD: the slot in focus, holding this word, fires. -/
def execOpMemld (a : BitVec 8) (b : BitVec 8) (s : State) : Host.Outcome State Fault Refusal :=
  fireOp ((0x32 : BitVec 8) ++ a ++ b ++ (0x0 : BitVec 8)) s fireMemld

/-- The firing of MEMST (R287): writes a word at base + 4 × index. -/
def fireMemst (s : State) : Option State :=
  memstFire s

/-- MEMST: the slot in focus, holding this word, fires. -/
def execOpMemst (s : State) : Host.Outcome State Fault Refusal :=
  fireOp ((0x33 : BitVec 8) ++ (0x30300 : BitVec 24)) s fireMemst

/-- The firing of EXITX (R288): tokens of any tag to the handler crew. -/
def fireExitx (s : State) : Option State :=
  exitxFire s

/-- EXITX: the slot in focus, holding this word, fires. -/
def execOpExitx (s : State) : Host.Outcome State Fault Refusal :=
  fireOp ((0x34 : BitVec 8) ++ (0x30300 : BitVec 24)) s fireExitx

/-- The firing of INJ (R288, R307): the next injected pair. -/
def fireInj (s : State) : Option State :=
  match s.focusSlot? with
    | none => none
    | some (_, r, _, _) => fireBy s (fun x _ _ => injFire x (r.paused || decide (r.saving ≠ 0) || r.stopping.isSome))

/-- INJ: the slot in focus, holding this word, fires. -/
def execOpInj (a : BitVec 8) (b : BitVec 8) (s : State) : Host.Outcome State Fault Refusal :=
  fireOp ((0x35 : BitVec 8) ++ a ++ b ++ (0x0 : BitVec 8)) s fireInj

/-- The firing of TGATE (R289): releases L by the round edges on R. -/
def fireTgate (s : State) : Option State :=
  fireBy s tgateFire

/-- TGATE: the slot in focus, holding this word, fires. -/
def execOpTgate (a : BitVec 8) (b : BitVec 8) (s : State) : Host.Outcome State Fault Refusal :=
  fireOp ((0x36 : BitVec 8) ++ a ++ b ++ (0x0 : BitVec 8)) s fireTgate

/-- The firing of EDGETX (R290): a token onto a channel track. -/
def fireEdgetx (s : State) : Option State :=
  edgetxFire s

/-- EDGETX: the slot in focus, holding this word, fires. -/
def execOpEdgetx (t : BitVec 4) (c : BitVec 2) (s : State) : Host.Outcome State Fault Refusal :=
  fireOp ((0x38 : BitVec 8) ++ (0x303 : BitVec 16) ++ t ++ (0x0 : BitVec 2) ++ c) s fireEdgetx

/-- The firing of EDGERX (R290): a token from a channel track. -/
def fireEdgerx (s : State) : Option State :=
  fireBy s (fun x _ _ => edgerxFire x)

/-- EDGERX: the slot in focus, holding this word, fires. -/
def execOpEdgerx (a : BitVec 8) (b : BitVec 8) (t : BitVec 4) (c : BitVec 2) (s : State) : Host.Outcome State Fault Refusal :=
  fireOp ((0x39 : BitVec 8) ++ a ++ b ++ t ++ (0x0 : BitVec 2) ++ c) s fireEdgerx

/-- The slot in focus fires as its word says (Table 12.3), if it can. -/
def fireWord (w : Word) (s : State) : Option State :=
  match w.toNat / 2 ^ 24 with
  | 0x01 => firePass s
  | 0x02 => fireCopy s
  | 0x03 => fireSel s
  | 0x04 => fireSteer s
  | 0x05 => fireMerge s
  | 0x08 => fireAdd s
  | 0x09 => fireSub s
  | 0x0A => fireMul s
  | 0x0B => fireFma s
  | 0x0C => fireMin s
  | 0x0D => fireMax s
  | 0x0E => fireCmpeq s
  | 0x0F => fireCmpne s
  | 0x10 => fireCmplt s
  | 0x11 => fireCmple s
  | 0x12 => fireAnd s
  | 0x13 => fireOr s
  | 0x14 => fireXor s
  | 0x15 => fireShl s
  | 0x16 => fireShr s
  | 0x17 => fireDot4 s
  | 0x20 => fireCvt s
  | 0x21 => fireRate s
  | 0x22 => fireScalemul s
  | 0x28 => fireLoopgen s
  | 0x29 => fireCount s
  | 0x2A => fireAcc s
  | 0x30 => fireSrc s
  | 0x31 => fireSnk s
  | 0x32 => fireMemld s
  | 0x33 => fireMemst s
  | 0x34 => fireExitx s
  | 0x35 => fireInj s
  | 0x36 => fireTgate s
  | 0x38 => fireEdgetx s
  | 0x39 => fireEdgerx s
  | _ => none

/-- A slot of a core fires by the word of its entry, if it can. -/
def fireAt (core sl : Nat) (s : State) : Option State :=
  let s' := { s with focusCore := core, focusSlot := sl }
  match s'.focusSlot? with
  | none => none
  | some (_, _, _, x) => s'.fired (fireWord x.cfg.word)

/-- The turn of a slot. -/
def fireSlot (core sl : Nat) (s : State) : Host.Outcome State Fault Refusal := .next ((fireAt core sl s).getD s)

end Sys2Proof.Machine
end

