-- ==== Sys2Proof/Machine/Streams.lean ====
section
/-! DEFINITION. Streams: STRM and the elements and entries of a stream (R221 to R224, R304). -/

namespace Sys2Proof.Machine

/-- The card of a stream is malformed in itself (R221, Table 9.4). -/
def streamCardBad (card : Nat) : Bool :=
  let dir := fld card 2 1
  let target := fld card 3 1
  let es := fld card 4 1
  let depth := fld card 5 1
  let n := cardCount card
  decide (fld card 0 1 ≠ 2) || decide (4 < fld card 1 1) || decide (2 < dir) || decide (3 < es) || decide (fld card 7 1 ≠ 0) ||
  (if dir = 0 then decide (3 < target ∨ es ≠ 2 ∨ depth < 2 ∨ 16 < depth ∨ fld card 6 1 ≠ 0)
   else decide (63 < target ∨ depth ≠ 0)) ||
  decide (n = 0 ∨ 2 ^ 27 < n) || decide (fld card 8 8 % 2 ^ es ≠ 0) ||
  (List.range 4).any (fun j => decide (fld card (32 + 8 * j) 8 % 2 ^ es ≠ 0)) || footprintBad card ||
  !(List.range n).all (fun e =>
    covered (if dir = 2 then cardWrites card else cardReads card) (cardAddr card e) (2 ^ es))

/-- The card does not fit what the crew and its region have (R221). -/
def State.streamUnbindable (s : State) (card : Nat) : Bool :=
  let dir := fld card 2 1
  let target := fld card 3 1
  let ci := fld card 6 1
  if dir = 0 then (s.crew.skids.get? target).isSome
  else
    match s.regions.get? s.fkey with
    | none => true
    | some r =>
      !r.live || decide (r.cores.length ≤ ci) ||
      !((r.slots.get? (slotKey ci target)).elim false (fun x => decide (x.cfg.op = if dir = 1 then 0x30 else 0x31))) ||
      (s.core s.focusCore).jobs.any (fun j => decide (j.crew = s.fkey) && decide (j.kind = .stream) &&
        decide (j.stream.dir ≠ 0) && decide (j.stream.core = ci ∧ j.stream.slot = target))

/-- A dir 2 stream is bound to an SNK of the executing crew's region: what an earlier stream left there is over (R223, R305). -/
def State.freshSink (s : State) (key : Nat) : State :=
  s.mapRegion s.fkey (fun r =>
    match r.slots.get? key with
    | none => r
    | some x => { r with slots := r.slots.insert key { x with ended := false, half := none } })

/-- A read of a started dir 1 stream ends a wait of its SRC (R319). -/
def State.feedSrc (s : State) (j : Job) : State :=
  if j.stream.dir ≠ 1 ∨ j.buffer ≠ [] then s
  else
    s.mapRegion j.crew (fun r =>
      match r.slots.get? (slotKey j.stream.core j.stream.slot) with
      | none => r
      | some x => { r with slots := r.slots.insert (slotKey j.stream.core j.stream.slot) { x with lack := 7 } })

/-- STRM (R224): reads a stream card and enters the stream in the gate; a dir 0 stream reserves its skid entries first
(R222).  Of a bad card only the direction counts (R211): it is bound to no slot. -/
def execStrm (d a : BitVec 8) (s : State) : Host.Outcome State Fault Refusal :=
  issue (.strm d a) s (fun s =>
    let va := s.crew.getSS a.toNat
    structRead s va 256 256 (fun s card =>
      let dir := fld card 2 1
      let bad := streamCardBad card || s.streamUnbindable card
      let depth := fld card 5 1
      if !bad ∧ dir = 0 ∧ (s.core s.focusCore).skidFree < depth then .hold s
      else
        enterJob s .stream card va d.toNat 0 bad [] none (fun s id =>
          if bad then s.mapJob s.focusCore id (fun j => { j with stream := { StreamPos.zero with dir := dir, core := 256 } })
          else
            let s := s.mapJob s.focusCore id (fun j => { j with
              stream := { StreamPos.zero with dir := dir, core := fld card 6 1, slot := fld card 3 1 } })
            if dir = 0 then
              (s.mapCrew (fun c => { c with skids := c.skids.insert (fld card 3 1) ⟨depth, [], some id⟩ })).mapCore
                s.focusCore (fun k => { k with skidFree := k.skidFree - depth })
            else if dir = 2 then s.freshSink (slotKey (fld card 6 1) (fld card 3 1))
            else s)))

/-- Read one element of a started stream (R222, R223): any element of an entry not yet delivered for dir 0, the next one
for dir 1.  An access that fails sets where and how the stream stops. -/
def State.streamRead (s : State) (core : Nat) (j : Job) (elem : Nat) : State :=
  let p := j.stream
  let n := cardCount j.card
  let entry := elem / 64
  let due :=
    if p.dir = 0 then decide (p.next ≤ entry) && (decide (p.stop = 0) || decide (entry < p.limit)) &&
      (j.buffer.get? elem).isNone
    else decide (elem = j.pos + j.buffer.length) && decide (p.stop = 0)
  if p.dir = 2 ∨ n ≤ elem ∨ due = false then s
  else
    match s.engineClassify core (s.jobTask j) j.ctx (byteVas (cardAddr j.card elem) (cardSize j.card)) [] with
    | (some st, _, _, s) => s.mapJob core j.id (fun j => { j with stream := { j.stream with stop := st, limit := entry } })
    | (none, xs, _, s) =>
      let (bs, s) := s.engineRead core j.ctx xs
      (s.feedSrc j).mapJob core j.id (fun j => { j with buffer := j.buffer.insert elem (packElems 8 bs) })

/-- Deliver the next entry of a dir 0 stream into its skid queue, or stop before it (R222). -/
def State.streamDeliver (s : State) (core : Nat) (j : Job) : State :=
  let p := j.stream
  let n := cardCount j.card
  let lo := 64 * p.next
  let hi := min (lo + 64) n
  if p.dir ≠ 0 then s
  else if p.stop ≠ 0 ∧ p.limit ≤ p.next then
    s.mapJob core j.id (fun j => { j with buffer := [], result := some (tokenOf p.stop j.pos) })
  else
    let elems := (List.range (hi - lo)).filterMap (fun i => j.buffer.get? (lo + i))
    match (s.crews.get? j.crew).bind (fun c => (c.skids.get? (fld j.card 3 1)).map (fun q => (c, q))) with
    | none => s
    | some (c, q) =>
      if elems.length ≠ hi - lo ∨ q.depth ≤ q.entries.length then s
      else
        let q := { q with entries := q.entries ++ [⟨elems.map (BitVec.ofNat 32)⟩] }
        ((s.setCrewAt j.crew { c with skids := c.skids.insert (fld j.card 3 1) q }).countMoved core j (4 * j.pos) (4 * hi)).mapJob core j.id (fun j =>
          { j with
            pos := hi
            buffer := j.buffer.filter (fun e => decide (hi ≤ e.1))
            stream := { p with next := p.next + 1 }
            result := if hi = n then some (tokenOf 0 n) else none })

/-- STREAM_ENTRY (R222, R223): a started stream reads one element, or delivers one entry into its skid queue. -/
def execStreamEntry (core job : Nat) (read : Bool) (elem : Nat) (s : State) : Host.Outcome State Fault Refusal :=
  .next (
    match s.job? core job with
    | none => s
    | some j =>
      if j.kind ≠ .stream ∨ j.started = false ∨ j.result.isSome then s
      else if read then s.streamRead core j elem
      else s.streamDeliver core j)

end Sys2Proof.Machine
end

