-- ==== Sys2Proof/Machine/Region.lean ====
section
/-! DEFINITION. Entering, running, stopping and leaving a spatial region: SPENT to SPRCFG and the region's own events
(R270 to R272, R291 to R301, R306 to R323). -/

namespace Sys2Proof.Machine

/-! ## The configuration image -/

/-- One bit of CRC-32C, reflected. -/
def crcBit (c : Word) : Word := if c.getLsbD 0 then (c >>> 1) ^^^ 0x82F63B78 else c >>> 1

/-- One byte of CRC-32C. -/
def crcByte (c : Word) (b : Nat) : Word := (List.range 8).foldl (fun c _ => crcBit c) (c ^^^ BitVec.ofNat 32 (b % 256))

/-- CRC-32C of bytes (R270). -/
def crc32c (bs : List Nat) : Word := ~~~(bs.foldl crcByte (BitVec.allOnes 32))

/-- The checksum of an image of `size` bytes, with its own field as zero (R270). -/
def imageCrc (img size : Nat) : Word :=
  crc32c ((List.range size).map (fun i => if 8 ≤ i ∧ i < 12 then 0 else fld img i 1))

/-- The bytes of an image of `n` cores (Table 12.1). -/
def imageSize (n : Nat) : Nat := 64 + (8 * n + 63) / 64 * 64 + 1024 * n

/-- The package core of table entry `i` for the issuing core (R271). -/
def imageCore (img core i : Nat) : Nat :=
  (((core : Int) + signedOf 16 (fld img (64 + 8 * i) 2)) % 192).toNat

/-- The package cores of an image. -/
def imageCores (img core : Nat) : List Nat := (List.range (fld img 5 1)).map (imageCore img core)

/-- The handler crews that the EXITX slots of an image name (R296), by key. -/
def imageHandlers (img core : Nat) (slots : SMap SlotCfg) : List Nat :=
  (slots.filter (fun e => decide (e.2.op = 0x34))).map (fun e => crewKey (imageCore img core (e.1 / 64)) (e.2.ecr0.toNat % 64))

/-- Reason 1 (R292): the header, then the core table; the index of the failing entry. -/
def imageFault (img core : Nat) : Option Nat :=
  let n := fld img 5 1
  if fld img 0 4 ≠ 0x46435053 ∨ fld img 4 1 ≠ 1 ∨ n = 0 ∨ 48 < n ∨ 4 < fld img 6 1 ∨ fld img 7 1 ≠ 0 ∨
      fld img 12 4 ≠ imageSize n ∨ fld img 18 46 ≠ 0 then some 0
  else
    (List.range n).find? (fun i =>
      let e := 64 + 8 * i
      let off := fld img (e + 4) 4
      decide (fld img (e + 2) 2 ≠ 0) || decide (off % 64 ≠ 0) || decide (fld img 12 4 < off + 1024) ||
      (decide (i = 0) && decide (fld img e 2 ≠ 0)) ||
      (List.range i).any (fun j => decide (imageCore img core j = imageCore img core i)))

/-- The slot entries of an image that are not empty, by slot key (R272). -/
def imageSlots (img : Nat) : SMap SlotCfg :=
  (List.range (fld img 5 1)).flatMap (fun ci =>
    let off := fld img (68 + 8 * ci) 4
    (List.range 64).filterMap (fun sl =>
      let c := SlotCfg.ofBytes (fld img (off + 16 * sl) 16)
      if c.empty then none else some (slotKey ci sl, c)))

/-! ## Checks over a region (R273, R278, R281, R291) -/

/-- The producers of a position: the target fields of the core's slots that name it (R278). -/
def producers (cfgs : SMap SlotCfg) (ci sl p : Nat) : Nat :=
  (cfgs.filter (fun e => decide (e.1 / 64 = ci))).foldl (fun n e =>
    n + (e.2.targets.filter (fun t => decide (t = sl * 4 + p))).length) 0

/-- The positions of a slot that have a queue: in a slot that keeps R272, those it uses. -/
def SlotCfg.queued (c : SlotCfg) : List Nat := (List.range 3).filter (fun p => decide (c.depth p ≠ 0))

/-- Every target of a slot names a position with a queue (R273). -/
def targetsOk (cfgs : SMap SlotCfg) (k : Nat) (c : SlotCfg) : Bool :=
  c.targets.all (fun t => (cfgs.get? (slotKey (k / 64) (t / 4))).elim false (fun y => y.queued.contains (t % 4)))

/-- Every position of a slot that has a queue has its one producer, or none and a preload (R278). -/
def producersOk (cfgs : SMap SlotCfg) (k : Nat) (c : SlotCfg) : Bool :=
  c.queued.all (fun p =>
    let n := producers cfgs (k / 64) (k % 64) p
    decide (n = 1) || (decide (n = 0) && decide (p = 1 ∧ 0 < c.pre)))

/-- The links of a slot are as R273 and R278 ask. -/
def slotLinked (cfgs : SMap SlotCfg) (k : Nat) (c : SlotCfg) : Bool := targetsOk cfgs k c && producersOk cfgs k c

/-- EDGETX and EDGERX of a slot are matched (R291). -/
def edgeOk (cfgs : SMap SlotCfg) (cores : List Nat) (k : Nat) (c : SlotCfg) : Bool :=
  if c.op ≠ 0x38 ∧ c.op ≠ 0x39 then true
  else
    let ci := k / 64
    let (h, t) := c.edge
    match neighbour (cores.getD ci 0) h with
    | none => false
    | some (c', h', crossing) =>
      decide (t < 16) && (!crossing || decide (t ≤ 3)) && cores.contains c' &&
      decide ((edgeSlots cfgs ci c.op h t).length = 1) &&
      decide ((edgeSlots cfgs (cores.idxOf c') (if c.op = 0x38 then 0x39 else 0x38) h' t).length = 1)

/-- The handler crew of an EXITX is bound and is not the control crew (R296). -/
def State.handlerOk (s : State) (cores : List Nat) (control k : Nat) (c : SlotCfg) : Bool :=
  let h := crewKey (cores.getD (k / 64) 0) (c.ecr0.toNat % 64)
  decide (c.op ≠ 0x34) || (decide (h ≠ control) && (s.crews.get? h).isSome)

/-- The bytes of queues that quarter `q` of a table index needs (R277). -/
def quarterBytes (cfgs : SMap SlotCfg) (ci q : Nat) : Nat :=
  4 * (cfgs.filter (fun e => decide (e.1 / 64 = ci ∧ e.1 % 64 / 16 = q))).foldl (fun n e => n + e.2.dl + e.2.dr + e.2.dp) 0

/-- P_q: the lowest allocation block held by a crew bound to a quarter (R277). -/
def State.freeBlocks (s : State) (core q : Nat) : Nat :=
  (s.crews.filter (fun e => decide (e.1 / 64 = core ∧ e.1 % 64 / 16 = q))).foldl (fun n e => min n e.2.rbase) 64

/-- Checks 1, 3 to 6 and 2 of R292, in that order: reason, table index and info of the first failure.  For reason 4 the slots are
first checked each by its own entry, then by their producers (R278; log 55).  `bad` is the table index of a core whose configuration store
had an uncorrectable error. -/
def State.imageReason (s : State) (control img : Nat) (bad : Option Nat) : Option (Nat × Nat × Nat) :=
  let cores := imageCores img (control / 64)
  let cfgs := imageSlots img
  match imageFault img (control / 64) with
  | some ci => some (1, ci, 0xFFFF)
  | none =>
  match cores.findIdx? (fun c => !s.coreLive c || (s.regionAt c).isSome || (decide (c % 24 = 23) && (s.die (dieOf c)).pager)) with
  | some ci => some (3, ci, 0xFFFF)
  | none =>
    match (cfgs.find? (fun e => !(e.2.ok && targetsOk cfgs e.1 e.2 && s.handlerOk cores control e.1 e.2))).or
        (cfgs.find? (fun e => !producersOk cfgs e.1 e.2)) with
    | some e => some (4, e.1 / 64, e.1 % 64)
    | none =>
      match cores.findIdx? (fun c => (List.range 4).any (fun q =>
          decide (2048 * s.freeBlocks c q < quarterBytes cfgs (cores.idxOf c) q))) with
      | some ci => some (5, ci, 0xFFFF)
      | none =>
        match cfgs.find? (fun e => !edgeOk cfgs cores e.1 e.2) with
        | some e => some (6, e.1 / 64, e.1 % 64)
        | none =>
          if imageCrc img (fld img 12 4) ≠ BitVec.ofNat 32 (fld img 8 4) then some (2, 0, 0xFFFF)
          else bad.map (fun ci => (2, ci, 0xFFFF))

/-! ## SPENT -/

/-- The ABORTED token (Table 12.6). -/
def abortedToken (reason ci info : Nat) : Word := BitVec.ofNat 32 (2 ^ 28 + reason * 2 ^ 24 + ci * 2 ^ 16 + info)

/-- The effect of SPENT up to its drain (R292): the image is read, and issue from every named core stops.  A sibling's
SPENT traps ILLOP (R360). -/
def spentBody (d a b : Nat) (word : DWord) (s : State) : Res :=
  let va := s.crew.getSS a
  if s.crew.sib.sibling then .trap s 0x01 word
  else if (s.regions.get? s.fkey).isSome then .hold s
  else
    structRead s va 64 64 (fun s hdr =>
      structRead s va (max 64 (fld hdr 12 4)) 64 (fun s img =>
          let r : Region :=
            { ctx := s.crew.ctx, control := s.fkey, cores := imageCores img s.focusCore, handlers := [], imageVa := va, image := img
              size := fld img 12 4, scope := fld img 6 1, regionId := fld img 16 2, cw := s.crew.getSS b, token := d
              live := false, held := false, quiet := false, paused := false, stopping := none, stopped := false
              halted := [], round := 1, poisons := 0, cwfail := false, first := none, complete := false, cwPark := none
              exitSeq := 0, cfgSeq := 0, saving := 0, lastFire := s.clock, corrected := 0, reloads := 0, discarded := 0, slots := []
              logs := [] }
          .hold ({ s.mapCrew (fun c => { c with waiting := some .spent }) with regions := s.regions.insert s.fkey r })))

/-- SPENT (R292): starts the switch of a region into spatial mode. -/
def execSpent (d a b : BitVec 8) (s : State) : Host.Outcome State Fault Refusal :=
  issue (.spent d a b) s (spentBody d.toNat a.toNat b.toNat ((Instr.spent d a b).word.zeroExtend 64))

/-- The crew waits in an instruction that a drain waits for (R292): an accepted MMA, RAFTFORM or RAFTRE. -/
def Crew.midInstr (c : Crew) : Bool :=
  match c.waiting with
  | some (.mma _ _ _) => true
  | some (.raftform _ _ _) => true
  | some (.raftre _ _ _) => true
  | _ => false

/-- Every issued instruction, job and remote access of the crews of a region's cores has ended (R292). -/
def State.drained (s : State) (cores : List Nat) : Bool :=
  cores.all (fun c => !(s.core c).jobs.any (fun j => cores.contains (j.crew / 64))) &&
  !(s.crews.any (fun e => cores.contains (e.1 / 64) && (e.2.midInstr || e.2.pend.any (fun p => p.kind.isRemote))))

/-- The accesses and tile operations of the crews of a core complete. -/
def State.settleCore (s : State) (core : Nat) : State :=
  let s := (s.crews.filter (fun e => decide (e.1 / 64 = core))).foldl (fun s e => s.perform e.1 (fun _ => true)) s
  s.broadcastThrough core (fun _ => true)

/-- The commit (R292, R293): versions rise, round 1 enters, and the control crew has its LIVE token. -/
def State.commitRegion (s : State) (k : Nat) (r : Region) : State :=
  let s := r.cores.foldl (fun s c => s.mapCore c (fun x => { x with version := x.version + 1 })) s
  let cfgs := imageSlots r.image
  let slots := cfgs.map (fun e => (e.1, SpSlot.load e.2 (e.1 % 64)))
  let s := s.mapRegion k (fun r => { r with
    live := true, slots := slots, handlers := imageHandlers r.image (k / 64) cfgs, image := 0, lastFire := s.clock })
  let s := s.recordMode k r 0 0
  let s := s.packet k 11 (r.regionId + (s.core (k / 64)).version.toNat * 2 ^ 16)
  s.finishWaiting k (fun c => c.setS r.token ((s.core (k / 64)).version.zeroExtend 32))

/-- SPENT_COMMIT (R292, R293): after the drain, the checks, the load and the commit, or the abort; `bad` says that the
configuration store of one of the cores had an uncorrectable error while loading: which one is free.  Where a tile operation of the control
crew has trapped in the drain (R253), the switch ends with SPENT left unexecuted and the trap is taken (log 16). -/
def execSpentCommit (core slot : Nat) (bad : Bool) (s : State) : Host.Outcome State Fault Refusal :=
  .next (
    let k := crewKey core slot
    match s.regions.get? k with
    | none => s
    | some r =>
      if r.live ∨ s.drained r.cores = false then s
      else
        let s := r.cores.foldl State.settleCore s
        if ((s.crews.get? k).bind Crew.savedTrap).isSome then s.abandonSpents (fun key _ => decide (key = k))
        else
        let (b, s) := if bad then s.takeFree else (0, s)
        match s.imageReason k r.image (if bad then some (b.toNat % max 1 r.cores.length) else none) with
        | some (reason, ci, info) =>
          let s := s.recordMode k r 1 reason
          ({ s with regions := s.regions.remove k } : State).finishWaiting k (fun c =>
            c.setS r.token (abortedToken reason ci info))
        | none => s.commitRegion k r)

/-! ## Completion (R309) -/

/-- The slots of a region with an operator. -/
def Region.withOp (r : Region) (op : Nat) : SMap SpSlot := r.slots.filter (fun e => decide (e.2.cfg.op = op))

/-- The stream jobs bound to a region's ports, in its control crew's gate. -/
def State.regionStreams (s : State) (k : Nat) : List Job :=
  (s.core (k / 64)).jobs.filter (fun j => decide (j.crew = k) && decide (j.kind = .stream) && decide (j.stream.dir ≠ 0))

/-- The release store of the completion word (R309), or CWFAIL. -/
def State.storeCompletion (s : State) (k : Nat) : State :=
  match s.regions.get? k with
  | none => s
  | some r =>
    let va := r.cw.toNat
    let fail (s : State) : State := s.mapRegion k (fun r => { r with cwfail := true, complete := true, cwPark := none })
    match r.cwPark with
    | some ⟨_, 0⟩ => s
    | some ⟨_, 2⟩ => fail s
    | _ =>
      if va % 4 ≠ 0 then fail s
      else
        match s.xlate (k / 64) none r.ctx va .write with
        | (.ok l, s) =>
          let s := if 2 ≤ r.scope then r.cores.foldl (fun s c => s.writeBack c (fun _ => true)) s else s
          ((s.writeAt (k / 64) l 4 (2 ^ 31 + r.status.toNat)).request (k / 64) r.ctx va l).mapRegion k (fun r =>
            { r with complete := true, cwPark := none })
        | (.absent kind level pte, s) =>
          (s.sendFaultsOf (k / 64) 0xFF (k % 64 + 128) (s.crews.getD k Crew.blank).task r.ctx .write [⟨0, va, .absent kind level pte⟩]).mapRegion k (fun r =>
            { r with cwPark := some ⟨pageOf va, 0⟩ })
        | (_, s) => fail s

/-- REGION_COMPLETION (R309): every SNK has reported and every dir 2 stream has completed, and the store is made. -/
def execRegionCompletion (core slot : Nat) (s : State) : Host.Outcome State Fault Refusal :=
  .next (
    let k := crewKey core slot
    match s.regions.get? k with
    | none => s
    | some r =>
      if r.live ∧ r.complete = false ∧ (r.withOp 0x31) ≠ [] ∧ (r.withOp 0x31).all (fun e => e.2.reported) ∧
          (s.regionStreams k).all (fun j => decide (j.stream.dir ≠ 2)) then s.storeCompletion k
      else s)

/-! ## SPEXIT, SPWAIT -/

/-- Every queue and buffer of the region is empty, every SNK has reported, every stream has retired, and every handler
is parked in SPTAKE (R301). -/
def State.exitReady (s : State) (k : Nat) (r : Region) : Bool :=
  r.slots.all (fun e => decide (e.2.tokens = 0)) && (r.withOp 0x31).all (fun e => e.2.reported) &&
  (s.regionStreams k).isEmpty &&
  r.handlers.all (fun h =>
    match (s.crews.get? h).bind Crew.waiting with
    | some (.sptake _) => true
    | _ => false)

/-- The region ends (R301, R299): its cores return to SIMT mode, each handler's SPTAKE completes, and the control crew
observes the region's streams. -/
def State.leaveRegion (s : State) (k : Nat) (r : Region) : State :=
  let s := s.recordMode k r 2 0
  let s := s.packet k 11 (r.regionId + (s.core (k / 64)).version.toNat * 2 ^ 16 + 2 ^ 32)
  let s : State := { s with regions := s.regions.remove k }
  let s := s.endTakes r.handlers.dedup
  let us := ((s.crews.get? k).elim [] Crew.unobs).filter Unobserved.region
  us.foldl (fun s u => s.acquire k u.scope)
    (s.mapCrewAt k (fun c => { c with unobs := c.unobs.filter (fun u => !u.region) }))

/-- The effect of SPEXIT (R301, R309). -/
def spexitBody (d : BitVec 8) (s : State) : Res :=
  let k := s.fkey
  match s.regions.get? k with
  | none => .hold s
  | some r =>
    let wait (s : State) : Res := .hold (s.mapCrew (fun c => { c with waiting := some (.spexit d) }))
    if !s.exitReady k r then wait s
    else
      let s := if r.complete ∨ (r.withOp 0x31) ≠ [] then s else s.storeCompletion k
      match s.regions.get? k with
      | none => .hold s
      | some r => if !r.complete then wait s else .done ((s.leaveRegion k r).mapCrew (fun c => c.setS d.toNat r.status))

/-- SPEXIT (R301): leaves spatial mode once nothing is left in the region. -/
def execSpexit (d : BitVec 8) (s : State) : Host.Outcome State Fault Refusal := issue (.spexit d) s (spexitBody d)

/-- SPEXIT_COMPLETE (R301): a waiting SPEXIT looks again. -/
def execSpexitComplete (core slot : Nat) (s : State) : Host.Outcome State Fault Refusal :=
  .next (
    let s' := s.focusOn core slot
    match s'.crew?.bind Crew.waiting with
    | some (.spexit d) => issueState (.spexit d) s' (spexitBody d)
    | _ => s)

/-- The effect of SPWAIT (R320). -/
def spwaitBody (d a : BitVec 8) (s : State) : Res :=
  let c := s.crew
  let deadline := c.deadline.getD (s.clock + (c.getS a.toNat).toNat)
  let s := s.setCrew { c with deadline := some deadline, waiting := some (.spwait d a) }
  match s.regionAt s.focusCore with
  | none => .hold s
  | some (_, r) =>
    let fin (s : State) (st : Word) : Res :=
      .done (s.mapCrew (fun c => (c.setS d.toNat r.status).setS (d.toNat + 1) st))
    if r.complete then fin (s.acquire s.fkey r.scope) 0
    else if deadline ≤ s.clock then fin s 1
    else .hold s

/-- SPWAIT (R320): waits for the region's completion, or for a deadline. -/
def execSpwait (d a : BitVec 8) (s : State) : Host.Outcome State Fault Refusal := issue (.spwait d a) s (spwaitBody d a)

/-- A SPWAIT whose deadline has passed looks once more, and its status is decided (R320). -/
def spwaitTimeout (core slot : Nat) (s : State) : State :=
  let s' := s.focusOn core slot
  match s'.crew? with
  | none => s
  | some c =>
    match c.waiting, c.deadline with
    | some (.spwait d a), some t => if t ≤ s.clock then issueState (.spwait d a) s' (spwaitBody d a) else s
    | _, _ => s

/-- SPWAIT_DEADLINE (R320): the deadline of a waiting SPWAIT has passed. -/
def execSpwaitDeadline (core slot : Nat) (s : State) : Host.Outcome State Fault Refusal :=
  .next (spwaitTimeout core slot s)

/-! ## Constants, rounds, exits and injections -/

/-- The region that the executing crew belongs to does something; outside spatial mode nothing is left to do. -/
def inRegion (s : State) (f : Nat → Region → Res) : Res :=
  match s.regionAt s.focusCore with
  | none => .hold s
  | some (k, r) => f k r

/-- Changes of a kind that wait at the slots of a table index. -/
def Region.waiting (r : Region) (ci : Nat) : List Change :=
  (r.slots.filter (fun e => decide (e.1 / 64 = ci))).flatMap (fun e => e.2.changes)

/-- ECW (R297): a constant that takes effect when the slot forwards its next TIDE. -/
def execEcw (a b : BitVec 8) (s : State) : Host.Outcome State Fault Refusal :=
  issue (.ecw a b) s (fun s => inRegion s (fun k r =>
    let x := s.crew.getS a.toNat
    let sel := (s.crew.getS b.toNat).toNat
    let ci := sel / 2 ^ 8 % 256
    let n := sel / 64 % 2
    let key := slotKey ci (sel % 64)
    let bad : Res := .trap s 0x0D (BitVec.ofNat 64 sel)
    if sel.testBit 7 ∨ 2 ^ 16 ≤ sel ∨ r.cores.length ≤ ci then bad
    else
      match r.slots.get? key with
      | none => bad
      | some y =>
        if y.cfg.empty then bad
        else if (n = 0 ∧ y.cfg.op ∈ [0x02, 0x20, 0x34]) ∨ (n = 1 ∧ y.cfg.op = 0x20) then bad
        else if 16 ≤ ((r.waiting ci).filter (fun c => match c with | .ecw _ _ => true | _ => false)).length then .hold s
        else .done (s.setSlot k ci (sel % 64) { y with changes := y.changes ++ [.ecw n x] })))

/-- A TIDE of the next round is placed at every SRC and INJ (R298). -/
def Region.nextRound (r : Region) : Region :=
  { r with
    round := r.round + 1
    slots := r.slots.mapVals (fun x =>
      if x.cfg.op = 0x30 ∨ x.cfg.op = 0x35 then { x with tides := x.tides ++ [r.round + 1] } else x) }

/-- TMARK (R298): starts the next tidemark round. -/
def execTmark (d : BitVec 8) (s : State) : Host.Outcome State Fault Refusal :=
  issue (.tmark d) s (fun s => inRegion s (fun k r =>
    if r.slots.any (fun e => !e.2.tides.isEmpty) then .hold s
    else .done ((s.mapRegion k Region.nextRound).mapCrew (fun c => c.setS d.toNat (BitVec.ofNat 32 (r.round + 1))))))

/-- The EXITX slots that name a crew, with their oldest record (R299). -/
def Region.exitsFor (r : Region) (h : Nat) : List (Nat × SpSlot × ExitRec) :=
  r.slots.filterMap (fun e =>
    if e.2.cfg.op = 0x34 ∧ crewKey (r.cores.getD (e.1 / 64) 0) (e.2.cfg.ecr0.toNat % 64) = h then
      e.2.exits.head?.map (fun x => (e.1, e.2, x))
    else none)

/-- SPTAKE (R299): takes the oldest record of the exit buffers that name the crew. -/
def execSptake (d : BitVec 8) (s : State) : Host.Outcome State Fault Refusal :=
  issue (.sptake d) s (fun s => inRegion s (fun k r =>
    let es := r.exitsFor s.fkey
    match es.find? (fun e => es.all (fun f => decide (e.2.2.seq ≤ f.2.2.seq))) with
    | none => .hold (s.mapCrew (fun c => { c with waiting := some (.sptake d) }))
    | some (key, x, e) =>
      let s := s.setSlot k (key / 64) (key % 64) { x with exits := x.exits.tail }
      .done (s.mapCrew (fun c =>
        (((c.setS d.toNat e.left.value).setS (d.toNat + 1) e.right.value).setS (d.toNat + 2)
          (BitVec.ofNat 32 (key % 64 + e.left.tag * 2 ^ 8 + e.right.tag * 2 ^ 12))).setS (d.toNat + 3) 0))))

/-- SPINJ (R300): a pair of tokens into an inject buffer. -/
def execSpinj (a b : BitVec 8) (s : State) : Host.Outcome State Fault Refusal :=
  issue (.spinj a b) s (fun s => inRegion s (fun k r =>
    let c := s.crew
    let sel := (c.getS b.toNat).toNat
    let ci := sel / 2 ^ 8 % 256
    let t1 := sel / 2 ^ 16 % 8
    let t2 := sel / 2 ^ 20 % 8
    let bad : Res := .trap s 0x0D (BitVec.ofNat 64 sel)
    if sel / 64 % 4 ≠ 0 ∨ sel.testBit 19 ∨ 2 ^ 23 ≤ sel ∨ 5 < t1 ∨ 5 < t2 ∨ r.cores.length ≤ ci then bad
    else
      match r.slots.get? (slotKey ci (sel % 64)) with
      | none => bad
      | some x =>
        if x.cfg.op ≠ 0x35 then bad
        else if 4 ≤ x.injects.length then .hold s
        else
          .done (s.setSlot k ci (sel % 64) { x with
            injects := x.injects ++ [(⟨c.getS a.toNat, t1⟩, ⟨c.getS (a.toNat + 1), t2⟩)] })))

/-! ## Stops (Table 13.3) -/

/-- The end stop applies to a live region that is neither ending nor complete (R321). -/
def Region.canEnd (r : Region) : Bool := r.live && r.stopping.isNone && !r.stopped && !r.complete

/-- An end stop (Table 13.3): sources are cancelled at once, waiting changes are discarded, and the drain begins; holds
are lifted so that it can (log 45). -/
def State.endStop (s : State) (k cause : Nat) : State :=
  match s.regions.get? k with
  | none => s
  | some r =>
    if !r.canEnd then s
    else
      let s := s.recordMode k r (if cause = 7 then 8 else 3) 0
      let s := ((s.regionStreams k).filter (fun j => decide (j.stream.dir = 1))).foldl (fun s j => s.cancelJob (k / 64) j) s
      s.mapRegion k (fun r => { r with
        stopping := some cause, held := false, quiet := false, lastFire := s.clock
        slots := r.slots.mapVals (fun x => { x with changes := [], tides := [] }) })

/-- SPSTOP kind 0 (R321): end. -/
def execSpstopEnd (s : State) : Host.Outcome State Fault Refusal :=
  issue .spstopEnd s (fun s => inRegion s (fun k _ => .done (s.endStop k 6)))

/-- SPSTOP kind 1 (R321): hold. -/
def execSpstopHold (s : State) : Host.Outcome State Fault Refusal :=
  issue .spstopHold s (fun s => inRegion s (fun k r =>
    .done (if r.canEnd then (s.recordMode k r 4 0).mapRegion k (fun r => { r with held := true }) else s)))

/-- SPSTOP kind 2 (R321): quiet; the sources pause behind a new TIDE. -/
def execSpstopQuiet (s : State) : Host.Outcome State Fault Refusal :=
  issue .spstopQuiet s (fun s => inRegion s (fun k r =>
    .done (if r.canEnd ∧ r.quiet = false then
      (s.recordMode k r 5 0).mapRegion k (fun r => { r.nextRound with quiet := true, paused := true }) else s)))

/-- The holds of kinds 1 and 2 are lifted (R317, R321): the sources go on and the watchdog restarts. -/
def Region.release (r : Region) (clock : Nat) : Region :=
  { r with held := false, quiet := false, paused := false, lastFire := clock }

/-- SPSTOP kind 3 (R321): release. -/
def execSpstopRelease (s : State) : Host.Outcome State Fault Refusal :=
  issue .spstopRelease s (fun s => inRegion s (fun k r =>
    .done (if r.live ∧ (r.held ∨ r.quiet) then s.mapRegion k (fun r => r.release s.clock) else s)))

/-- The last complete round (R306): the least TIDE that every slot without targets has consumed. -/
def Region.completeRound (r : Region) : Nat :=
  (r.slots.filter (fun e => decide (e.2.cfg.op ∈ [0x31, 0x33, 0x34]))).foldl (fun n e => min n e.2.tide) r.round

/-- The tokens that a region holds (R313). -/
def Region.tokens (r : Region) : Nat := r.slots.foldl (fun n e => n + e.2.tokens) 0

/-- No slot of a region can fire, and no MEMLD reply is outstanding: what 64 ck without a firing shows (R313). -/
def State.regionStill (s : State) (r : Region) : Bool :=
  r.slots.all (fun e => (fireAt (r.cores.getD (e.1 / 64) 0) (e.1 % 64) s).isNone && !e.2.loads.contains none)

/-- The kill stop of one live region, whose crews the foreman lets go on (R315): its streams end CANCELLED, everything in it is discarded, and its
cores return to SIMT mode as at SPEXIT.  A wait of the control crew for the region is left unexecuted (log 126). -/
def State.killRegion (s : State) (k : Nat) : State :=
  match s.regions.get? k with
  | none => s
  | some r =>
    if !r.live then s
    else
      let s := s.recordMode k r 7 0
      let s := ((s.regionStreams k).filter (fun j => j.result.isNone)).foldl (fun s j => s.mapJob (k / 64) j.id (fun j =>
        { j with cancelled := true, buffer := [], result := some (tokenOf 4 j.pos) })) s
      let s := ({ s with regions := s.regions.remove k } : State).endTakes r.handlers.dedup
      s.mapCrewAt k (fun c =>
        match c.waiting with
        | some (.spexit _) | some (.spwait _ _) => { c with waiting := none, deadline := none }
        | _ => c)

/-- DRAIN_END (R313, Table 13.3): an end stop discards what could not drain and gives each SNK that has not reported a
POISON and END; a quiet stop becomes a hold once its round is complete and no token is left. -/
def execDrainEnd (core slot : Nat) (s : State) : Host.Outcome State Fault Refusal :=
  .next (
    let k := crewKey core slot
    match s.regions.get? k with
    | none => s
    | some r =>
      match r.stopping with
      | some cause =>
        if r.live = false ∨ r.stopped ∨ s.regionStill r = false then s
        else
          let s := s.mapRegion k (fun r => { r with
            stopped := true
            discarded := min (r.discarded + r.tokens) 0xFFFF
            slots := r.slots.mapVals (fun x => { x with
              left := [], right := [], pred := [], loop := none, exits := [], injects := [], loads := [], track := [] }) })
          let sinks := (r.withOp 0x31).filter (fun e => !e.2.reported)
          sinks.foldl (fun s e =>
            let ci := e.1 / 64
            let sl := e.1 % 64
            let get (s : State) : SpSlot := ((s.regions.get? k).bind (fun r => r.slots.get? e.1)).getD e.2
            let s := s.sinkTok k ci sl (get s) ⟨(get s).origin ci sl cause, 4⟩
            s.sinkTok k ci sl (get s) ⟨0, 5⟩) s
      | none =>
        if r.quiet ∧ r.held = false ∧ r.completeRound = r.round ∧ r.tokens = 0 then
          s.mapRegion k (fun r => { r with held := true })
        else s)

/-- No stream of a region is about to complete.  An element that a paused source holds back is read again when the stream goes on (R314). -/
def State.streamsStill (s : State) (k : Nat) : Bool := (s.regionStreams k).all (fun j => j.result.isNone)

/-- One step of the save stop of the region of a control crew (R314): the cut, or the freeze once it has drained.  A region under an end stop
is stopped first, and then has nothing to drain; the holds of SPSTOP stay as they are. -/
def State.saveStop (s : State) (k : Nat) : State :=
  match s.regions.get? k with
  | none => s
  | some r =>
    if !r.live ∨ (r.stopping.isSome ∧ r.stopped = false) then s
    else if r.saving = 0 then
      (s.recordMode k r 6 0).mapRegion k (fun r => { (if r.stopped then r else r.nextRound) with saving := 1 })
    else if r.saving = 1 ∧ s.regionStill r ∧ s.streamsStill k then s.mapRegion k (fun r => { r with saving := 2 })
    else s

/-- SAVE_STOP (R314): the foreman cuts a region at a tidemark and pauses its sources; once it has drained it is frozen
and can be scanned out. -/
def execSaveStop (core slot : Nat) (s : State) : Host.Outcome State Fault Refusal := .next (s.saveStop (crewKey core slot))

/-- WATCHDOG (R317): a region that holds a token, under no hold, has not fired for WDTICKS. -/
def execWatchdog (core slot : Nat) (s : State) : Host.Outcome State Fault Refusal :=
  .next (
    let k := crewKey core slot
    match s.regions.get? k with
    | none => s
    | some r =>
      if r.canEnd ∧ r.held = false ∧ r.saving ≠ 2 ∧ r.halted = [] ∧ 0 < r.tokens ∧ r.lastFire + s.wdticks ≤ s.clock then s.endStop k 7
      else s)

/-- DEBUG_HALT (R316): a debugger halts one core of a live region; its slots freeze.  The stop is recorded with the kind of a hold (R419; log 126). -/
def execDebugHalt (core : Nat) (s : State) : Host.Outcome State Fault Refusal :=
  .next (
    match s.regionAt core with
    | none => s
    | some (k, r) =>
      if !r.live || r.halted.contains core then s
      else (s.recordMode k r 4 0).mapRegion k (fun r => { r with halted := core :: r.halted }))

/-- The foreman releases a halted core (R316): its slots go on, and the watchdog restarts. -/
def State.releaseCore (s : State) (core : Nat) : State :=
  match s.regionAt core with
  | none => s
  | some (k, r) =>
    if r.halted.contains core then
      s.mapRegion k (fun r => { r with halted := r.halted.filter (· ≠ core), lastFire := s.clock })
    else s

/-- The bytes of a region's image, read again by its controller; none where they cannot be read (R318; log 46). -/
def State.rereadImage (s : State) (core task cn va n : Nat) : Option Nat × State :=
  match s.engineClassify core task cn (byteVas va n) [] with
  | (some _, _, _, s) => (none, s)
  | (none, xs, _, s) =>
    let (bs, s) := s.engineRead core cn xs
    (some (packElems 8 bs), s)

/-- CONFIG_STORE_ERROR (R318): a corrected error is counted; an uncorrectable one reloads the image under a hold, after which the watchdog
restarts (R317), and ends the region where the image cannot be read or no longer matches.  The event names a slot, which one is free (R429;
log 126). -/
def execConfigStoreError (core : Nat) (fixed : Bool) (s : State) : Host.Outcome State Fault Refusal :=
  .next (
    match s.regionAt core with
    | none => s
    | some (k, r) =>
      let (b, s) := s.takeFree
      let note (s : State) (x : Nat) : State := s.record core (s.tag r.ctx) 1 4 (128 + b.toNat % 64) (7 * 2 ^ 45 + x)
      if fixed then (note s 0).mapRegion k (fun r => { r with corrected := min (r.corrected + 1) 0xFFFF })
      else
        match s.rereadImage (k / 64) (s.crews.getD k Crew.blank).task r.ctx r.imageVa.toNat r.size with
        | (none, s) => (note s (2 ^ 48)).endStop k 8
        | (some img, s) =>
          if imageCrc img r.size ≠ BitVec.ofNat 32 (fld img 8 4) then (note s (2 ^ 48)).endStop k 8
          else
            let cfgs := imageSlots img
            (note s (2 ^ 48 + 2 ^ 49)).mapRegion k (fun r => { r with
              reloads := min (r.reloads + 1) 0xFFFF, lastFire := s.clock
              slots := r.slots.map (fun e => (e.1, if e.2.changed then e.2 else { e.2 with cfg := cfgs.getD e.1 e.2.cfg })) }))

/-! ## SPSTAT and SPRCFG -/

/-- The state of a region as SPSTAT shows it (R322). -/
def Region.stateCode (r : Region) : Nat :=
  if r.complete then 5 else if r.stopped then 4 else if r.held ∨ r.saving = 2 then 2 else if r.stopping.isSome ∨ r.quiet then 3 else 1

/-- SPSTAT (R322): region state, without waiting. -/
def execSpstat (d a sel : BitVec 8) (s : State) : Host.Outcome State Fault Refusal :=
  issue (.spstat d a sel) s (fun s => inRegion s (fun _ r =>
    let ix := (s.crew.getS a.toNat).toNat
    let ci := ix / 2 ^ 8 % 64
    let put (x y : Nat) : Res :=
      .done (s.mapCrew (fun c => (c.setS d.toNat (BitVec.ofNat 32 x)).setS (d.toNat + 1) (BitVec.ofNat 32 y)))
    if (sel = 2 ∨ sel = 3) ∧ (ix / 64 % 4 ≠ 0 ∨ 2 ^ 14 ≤ ix ∨ r.cores.length ≤ ci) then
      .trap s 0x0D (BitVec.ofNat 64 ix)
    else if sel = 0 then put r.status.toNat (r.stateCode + r.completeRound % 2 ^ 16 * 2 ^ 16)
    else if sel = 1 then
      match r.first with
      | none => put 0 (r.regionId * 2 ^ 16)
      | some (o, key) => put o.toNat (key % 64 + key / 64 * 2 ^ 8 + r.regionId * 2 ^ 16)
    else if sel = 2 then
      match r.slots.get? (slotKey ci (ix % 64)) with
      | none => put 0 0
      | some x => put x.lost (min x.worst 0xFFFF + x.worstPort * 2 ^ 16)
    else if sel = 3 then
      let e := ((r.logs.getD ci []).getD (ix % 64) 0).toNat
      put (e % 2 ^ 32) (e / 2 ^ 32)
    else
      put (r.corrected + r.reloads * 2 ^ 16)
        (r.discarded + ((r.withOp 0x31).filter (fun e => e.2.reported)).length % 256 * 2 ^ 16 +
          (r.withOp 0x31).length % 256 * 2 ^ 24)))

/-- An entry of an SPRCFG descriptor (R323): slot key and slot entry; none where it names no slot of the region.  Reserved bytes are ignored
(R10). -/
def rcfgEntry (r : Region) (desc i : Nat) : Option (Nat × SlotCfg) :=
  let e := 16 + 32 * i
  if r.cores.length ≤ fld desc e 1 ∨ 63 < fld desc (e + 1) 1 then none
  else some (slotKey (fld desc e 1) (fld desc (e + 1) 1), SlotCfg.ofBytes (fld desc (e + 16) 16))

/-- A slot that is empty (R272). -/
def SlotCfg.none : SlotCfg := ⟨0, 0, 0, 0, 0, 0, 0, 0⟩

/-- A slot of a region, empty where nothing was loaded. -/
def Region.slotAt (r : Region) (key : Nat) : SpSlot := (r.slots.get? key).getD (SpSlot.load SlotCfg.none (key % 64))

/-- An entry of an SPRCFG descriptor is bad (R323) beside the entries `all` of the region with every replacement made. -/
def rcfgBad (r : Region) (all : SMap SlotCfg) (desc i : Nat) : Bool :=
  match rcfgEntry r desc i with
  | .none => true
  | some (key, c) =>
    let x := (r.slotAt key).cfg
    !(c.empty || (c.ok && targetsOk all key c)) || decide (c.dl ≠ x.dl ∨ c.dr ≠ x.dr ∨ c.dp ≠ x.dp ∨ c.pre ≠ 0) ||
      (List.range i).any (fun j => decide ((rcfgEntry r desc j).map Prod.fst = some key))

/-- The entries of a region with every waiting replacement made. -/
def Region.latest (r : Region) : SMap SlotCfg :=
  r.slots.map (fun e => (e.1, e.2.changes.foldl (fun c ch => match ch with | .entry n _ => n | .ecw _ _ => c) e.2.cfg))

/-- SPRCFG (R323): replaces slot entries at their next TIDE. -/
def execSprcfg (d a : BitVec 8) (s : State) : Host.Outcome State Fault Refusal :=
  issue (.sprcfg d a) s (fun s => inRegion s (fun k r =>
    let va := s.crew.getSS a.toNat
    structRead s va 16 16 (fun s hdr =>
      let n := fld hdr 0 2
      let bad (s : State) (i : Nat) : Res := .trap s 0x0D (BitVec.ofNat 64 i)
      if n = 0 ∨ 64 < n then bad s 0xFFFF
      else
        structRead s va (16 + 32 * n) 16 (fun s desc =>
          let es := (List.range n).filterMap (rcfgEntry r desc)
          let all := (es.foldl (fun m e => m.insert e.1 e.2) r.latest).filter (fun e => !e.2.empty)
          match (List.range n).find? (rcfgBad r all desc) with
          | some i => bad s i
          | none =>
            if !all.all (fun e => slotLinked all e.1 e.2 && edgeOk all r.cores e.1 e.2) then bad s 0xFFFF
            else
              let cis := (es.map (fun e => e.1 / 64)).dedup
              let ids (ci : Nat) : List Nat := ((r.waiting ci).filterMap (fun c => match c with | .entry _ i => some i | _ => none)).dedup
              if cis.any (fun ci => decide (4 ≤ (ids ci).length)) then .hold s
              else
                let s := s.mapRegion k (fun r => { r with
                  cfgSeq := r.cfgSeq + 1
                  slots := es.foldl (fun m e =>
                    m.insert e.1 { r.slotAt e.1 with changes := (r.slotAt e.1).changes ++ [.entry e.2 r.cfgSeq] }) r.slots })
                .done (s.mapCrew (fun c => c.setS d.toNat 0))))))

end Sys2Proof.Machine
end

