-- ==== Sys2Proof/Machine/Units.lean ====
section
/-! DEFINITION. What foremen keep for tasks and what coppice units do: launch headers and crew numbers (R325 to R328),
task barriers (R340), phase records (R337, R338), the coppice unit (R357 to R361, R367 to R369) and retirement
(R77). -/

namespace Sys2Proof.Machine

/-! ## Launch headers -/

/-- Byte `off` of a header, `n` bytes long (Table 14.1). -/
def Task.fld (t : Task) (off n : Nat) : Nat := Machine.fld t.header off n

/-- Width of WID field Lj. -/
def hdrWidth (h j : Nat) : Nat := fld h (24 + j) 1

/-- b_j: the lowest WID bit of field Lj (R326). -/
def hdrBase (h j : Nat) : Nat := ((List.range j).map (hdrWidth h)).sum

/-- B_P − 6: a placement group holds 2 to this power crews (R327). -/
def hdrGroupBits (h : Nat) : Nat := hdrBase h (fld h 21 1 + 1) - 6

/-- The crews of a launch (R326). -/
def hdrCrews (h : Nat) : Nat := (fld h 32 8 + 63) / 64

/-- Allocation blocks of a crew (R56). -/
def hdrBlocks (h : Nat) : Nat := fld h 16 2 / 8

/-- The crews of this launch that one core holds with every slot free (R56). -/
def hdrPerCore (h : Nat) : Nat := 4 * min 16 (64 / hdrBlocks h)

/-- Crews in a full placement group. -/
def hdrGroup (h : Nat) : Nat := min (2 ^ hdrGroupBits h) (hdrCrews h)

/-- A launch header is malformed (R325). -/
def hdrMalformed (h : Nat) : Bool :=
  let v := fld h 16 2
  let nf := fld h 22 1
  let widths := hdrBase h 6
  decide (fld h 0 2 ≠ 1) || decide (8 ≤ fld h 2 1) || decide (4 ≤ fld h 3 1) || decide (fld h 8 8 % 4 ≠ 0) ||
  decide (v % 8 ≠ 0 ∨ v = 0 ∨ 256 < v) || decide (fld h 18 1 = 0 ∨ 64 < fld h 18 1) || decide (16 < fld h 20 1) ||
  decide (nf = 0 ∨ 6 < nf) || decide (nf ≤ fld h 21 1) || decide (hdrWidth h 0 ≠ 6) ||
  (List.range 6).any (fun j => decide (nf ≤ j) && decide (hdrWidth h j ≠ 0)) || decide (64 < widths) ||
  decide (fld h 30 2 ≠ 0) || decide (fld h 32 8 = 0 ∨ 2 ^ widths < fld h 32 8) || decide (fld h 48 8 % 8 ≠ 0) ||
  decide (fld h 56 8 % 4 ≠ 0) || decide (fld h 68 60 ≠ 0) || decide (hdrPerCore h < hdrGroup h)

/-- The lanes of crew `k` whose WID is below N (R326). -/
def hdrLanes (h k : Nat) : Mask := maskOf (fun l => decide (64 * k + l < fld h 32 8))

/-- A carry-set descriptor (R54).  A position that names a register beyond the kernel's allocation, or a scalar number 64 to 254, is carried like
any other (log 128). -/
def carrySetOf (x : Nat) : CarrySet :=
  { vregs := ((List.range 16).map (fun i => fld x i 1)).filter (fun r => decide (r ≠ 0xFF))
    sregs := ((List.range 8).map (fun i => fld x (16 + i) 1)).filter (fun r => decide (r ≠ 0xFF)) }

/-- A crew of a task with the state that does not follow from its phase. -/
def Task.shell (t : Task) (tn k rbase recOff clock : Nat) : Crew :=
  { Crew.blank with
    ctx := t.ctx, task := tn, number := k, prio := t.fld 3 1 % 4, rbase := rbase, vregs := t.fld 16 2
    sregs := t.fld 18 1, tiles := BitVec.ofNat 8 (t.fld 19 1), widbase := BitVec.ofNat 64 (64 * k), carry := t.carry
    recOff := recOff, boundAt := clock, sampleAt := samplePeriod clock + 1 }

/-- A crew as its launch creates it (R328, Table 3.2). -/
def Task.newCrew (t : Task) (tn k rbase recOff clock : Nat) : Crew :=
  let c := t.shell tn k rbase recOff clock
  let m := hdrLanes t.header k
  ({ c with pc := BitVec.ofNat 57 (t.fld 8 8), am := m, live := m } : Crew).setSS 2 (BitVec.ofNat 64 (t.fld 40 8))

/-- The placement group of a crew number (R327). -/
def Task.group (t : Task) (k : Nat) : Nat := k / 2 ^ hdrGroupBits t.header

/-- The placement group of a crew, by the WIDs of its lanes (R327): a sibling is in that of the crew that sprouted it (R360). -/
def Task.groupOf (t : Task) (c : Crew) : Nat := t.group (c.widbase.toNat / 64)

/-- The core of a crew's placement group (R327), in whose pool its phase records lie (R337): the core of its slot, unless CTXRS has bound it
away from its group. -/
def State.homeCore (s : State) (key : Nat) (c : Crew) : Nat :=
  ((s.tasks.get? c.task).bind (fun t => t.groups.get? (t.groupOf c))).getD (key / 64)

/-- Crew numbers from here on are siblings (R360). -/
def siblingBase : Nat := 2 ^ 60

/-- Change a task, if it exists. -/
def State.mapTask (s : State) (n : Nat) (f : Task → Task) : State :=
  match s.tasks.get? n with
  | some t => { s with tasks := s.tasks.insert n (f t) }
  | none => s

/-! ## Phase records (Table 14.4, R338) -/

/-- A frame in memory (Table 17.5). -/
def Frame.toNat (f : Frame) : Nat :=
  layout [(8, f.pc.toNat), (8, f.mask.toNat), (4, f.mode.toNat), (4, f.cause.toNat), (8, f.tval.toNat)]

/-- A frame read from memory; reserved bits read as zero (R10, Table 17.2, Table 17.3). -/
def Frame.ofNat (x : Nat) : Frame :=
  ⟨BitVec.ofNat 64 (fld x 0 8), BitVec.ofNat 64 (fld x 8 8), BitVec.ofNat 32 (fld x 16 4 % 2 ^ 22),
    BitVec.ofNat 32 (fld x 20 4 % 2 ^ 12), BitVec.ofNat 64 (fld x 24 8), none⟩

/-- The 16 bytes of a sibling identity (bytes 88 to 103 of the crew system state). -/
def Sibling.toNat (x : Sibling) : Nat :=
  layout [(8, x.record.toNat), (1, x.index), (1, x.sibling.toNat + 2 * x.delivered.toNat), (2, 0), (4, x.advantage.toNat)]

/-- A sibling identity read from memory. -/
def Sibling.ofNat (x : Nat) : Sibling :=
  ⟨BitVec.ofNat 64 (fld x 0 8), fld x 8 1, (fld x 9 1).testBit 0, (fld x 9 1).testBit 1, BitVec.ofNat 32 (fld x 12 4)⟩

/-- The frames of a crew from frame 1 on. -/
def Crew.framesUp (c : Crew) : List Frame := c.frames.reverse

/-- The crew system state in memory (R338): 256 bytes. -/
def Crew.systemState (c : Crew) : Nat :=
  let b := c.binding
  layout ([(8, c.tvec.toNat), (4, c.remstat.toNat), (1, c.frames.length), (3, 0), (4, c.tsa.toNat), (4, c.tsb.toNat), (8, 0),
    (8, (b.map (fun x => x.base.toNat)).getD 0), (4, (b.map Binding.maxrules).getD 0), (44, (b.map Binding.header).getD 0),
    (16, c.sib.toNat), (24, 0)] ++ (c.framesUp.map (fun f => (32, f.toNat))))

/-- The crew with a crew system state read from memory. -/
def Crew.withSystemState (c : Crew) (x : Nat) : Crew :=
  { c with
    tvec := BitVec.ofNat 64 (fld x 0 8 % 2 ^ 57 / 4 * 4)
    remstat := BitVec.ofNat 32 (fld x 8 4)
    frames := ((List.range (fld x 12 1)).map (fun i => Frame.ofNat (fld x (128 + 32 * i) 32))).reverse
    tsa := BitVec.ofNat 32 (fld x 16 4)
    tsb := BitVec.ofNat 32 (fld x 20 4)
    binding := if fld x 32 8 = 0 then none else some ⟨BitVec.ofNat 64 (fld x 32 8), fld x 44 44, fld x 40 4⟩
    sib := Sibling.ofNat (fld x 88 16) }

/-- The carry set of a number, empty where the kernel has none. -/
def Crew.carrySet (c : Crew) (n : Nat) : CarrySet := c.carry.getD n ⟨[], []⟩

/-- Bytes 0 to 648 of a phase record (Table 14.4); the path signature, and whether it has restarted, is in the foreman's bytes (R424). -/
def Crew.recordHead (c : Crew) (kind carry operand : Nat) (addr : DWord) : Nat :=
  layout ([(8, (c.pc + 4).toNat), (8, c.live.toNat), (2, c.mode.toNat), (2, c.modex.toNat), (1, kind), (1, carry), (2, operand),
    (8, addr.toNat)] ++ ((List.range 7).map (fun i => (8, (c.pred (i + 1)).toNat))) ++ [(8, c.widbase.toNat)] ++
    ((List.range 8).map (fun i => (4, ((c.carrySet carry).sregs[i]?.map (fun r => (c.getS r).toNat)).getD 0))) ++
    ((List.range 64).map (fun l => (4, (c.gen l).toNat))) ++ [(256, c.systemState), (8, c.path.toNat), (1, c.pathFresh.toNat)])

/-- Carried vector register `r`, lanes 0 to 63: 256 bytes. -/
def Crew.laneBytes (c : Crew) (r : Nat) : Nat := packElems 32 ((List.range 64).map (fun l => (c.getV r l).toNat))

/-- The most vector registers that a carry set of a kernel names. -/
def carryWidth (carry : List CarrySet) : Nat := carry.foldl (fun n x => max n x.vregs.length) 0

/-- The pool bytes that the phase records of a kernel need at an offset (Table 14.4), as spans: the head, with what the model
keeps of the foreman's bytes, and the carried registers.  The foreman's other bytes may lie among those of another record
(log 47). -/
def recordSpans (off : Nat) (carry : List CarrySet) : List (Nat × Nat) := [(off, 768), (off + 4096, 256 * carryWidth carry)]

/-- The phase records of two kernels at two offsets share bytes. -/
def recordsMeet (off : Nat) (c : List CarrySet) (off' : Nat) (c' : List CarrySet) : Bool :=
  (recordSpans off c).any (fun x => (recordSpans off' c').any (fun y => spansMeet x.1 x.2 y.1 y.2))

/-- Write a phase record at a pool offset of a core (R336). -/
def State.writeRecord (s : State) (core off : Nat) (c : Crew) (kind carry operand : Nat) (addr : DWord) : State :=
  let s := s.setBytes (poolIdx core off) (c.recordHead kind carry operand addr) 649
  ((c.carrySet carry).vregs.zipIdx).foldl (fun s e => s.setBytes (poolIdx core (off + 4096 + 256 * e.2)) (c.laneBytes e.1) 256) s

/-- The crew that a phase record describes, over a shell; AM and LIVE are its LIVE, and every other register holds 0.  Reserved bits
read as zero (R10), and the PC keeps its multiple of 4 whatever a program wrote into the record (R27; log 65). -/
def State.readRecord (s : State) (core off : Nat) (c : Crew) : Crew :=
  let h := s.bytes (poolIdx core off) 649
  let set := c.carrySet (fld h 21 1)
  let live := BitVec.ofNat 64 (fld h 8 8)
  let c := { c with
    pc := BitVec.ofNat 57 (fld h 0 8 / 4 * 4), am := live, live := live, mode := BitVec.ofNat 16 (fld h 16 2)
    modex := BitVec.ofNat 16 (fld h 18 2 % 2 ^ 6), widbase := BitVec.ofNat 64 (fld h 88 8), path := BitVec.ofNat 64 (fld h 640 8)
    pathFresh := (fld h 648 1).testBit 0 }
  let c := (List.range 7).foldl (fun (c : Crew) i => c.setPred (i + 1) (BitVec.ofNat 64 (fld h (32 + 8 * i) 8))) c
  let c := (List.range 64).foldl (fun (c : Crew) l => c.setGen l (BitVec.ofNat 32 (fld h (128 + 4 * l) 4))) c
  let c := set.sregs.zipIdx.foldl (fun (c : Crew) e => c.setS e.1 (BitVec.ofNat 32 (fld h (96 + 4 * e.2) 4))) c
  let c := set.vregs.zipIdx.foldl (fun (c : Crew) e =>
    let x := s.bytes (poolIdx core (off + 4096 + 256 * e.2)) 256
    (List.range 64).foldl (fun (c : Crew) l => c.setV e.1 l (BitVec.ofNat 32 (fld x (4 * l) 4))) c) c
  c.withSystemState (fld h 384 256)

/-! ## Task barriers (R340) -/

/-- A barrier completes when every crew of the launch that has not retired has arrived. -/
def Task.barrierDone (t : Task) (b : TaskBar) : Bool :=
  decide (b.arrived ≠ []) &&
    (List.range (hdrCrews t.header)).all (fun k => b.arrived.contains k || decide (t.seen.get? k = some 2))

/-- A barrier of a task. -/
def Task.bar (t : Task) (b : Nat) : TaskBar := t.bars.getD b TaskBar.zero

/-- Completion: the generation advances, the set clears, and the phases that wait for the generation are ready. -/
def Task.checkBar (t : Task) (b : Nat) : Task :=
  let x := t.bar b
  if !t.barrierDone x then t
  else { t with
    bars := t.bars.insert b ⟨x.gen + 1, []⟩
    phases := t.phases.mapVals (fun p => if p.kind = 1 ∧ p.bar = b ∧ p.gen = x.gen then { p with ready := true } else p) }

/-- A crew arrives at a barrier; a second arrival in one generation has no effect. -/
def Task.arrive (t : Task) (b k : Nat) : Task :=
  let x := t.bar b
  if x.arrived.contains k then t
  else ({ t with bars := t.bars.insert b { x with arrived := k :: x.arrived } } : Task).checkBar b

/-- A crew of the launch retires (R340): barriers that waited for it alone complete. -/
def Task.retired (t : Task) (k : Nat) : Task :=
  (t.bars.keys).foldl Task.checkBar { t with seen := t.seen.insert k 2 }

/-! ## The coppice unit -/

/-- The open or held coppice of a context at a record address (R357). -/
def State.coppice? (s : State) (cn va : Nat) : Option Coppice :=
  s.coppices.find? (fun c => decide (c.ctx = cn ∧ c.va = va))

/-- Replace a coppice's entry. -/
def State.putCoppice (s : State) (c : Coppice) : State :=
  { s with coppices := s.coppices.map (fun x => if x.ctx = c.ctx ∧ x.va = c.va then c else x) }

/-- A sibling entry of a coppice. -/
def Coppice.sib (c : Coppice) (i : Nat) : Sib := c.sibs.getD i ⟨0, 0, 0, 0, false⟩

/-- Change a sibling entry. -/
def Coppice.setSib (c : Coppice) (i : Nat) (x : Sib) : Coppice := { c with sibs := c.sibs.set i x }

/-- The COPPICE event (Table 18.2), with the tag of the coppice's context where one of its crews caused it (R418). -/
def State.recordCoppice (s : State) (c : Coppice) (i state : Nat) (own : Bool) : State :=
  s.recordForeman c.die (if own then s.tag c.ctx else 0) 2 4 (bitsOf c.va 56 8 + i * 2 ^ 49 + state * 2 ^ 55)

/-- The unit writes sibling entry `i` of the record (Table 15.2). -/
def State.writeSib (s : State) (c : Coppice) (i : Nat) : State :=
  let x := c.sib i
  s.unitWrite c.ctx (c.va + 256 + 16 * i) 16
    (layout [(4, x.reward.toNat), (4, x.adv.toNat), (1, x.state), (3, 0), (4, x.tick.toNat)])

/-- A sibling takes a new state; LATE is the unit's doing. -/
def State.setSibState (s : State) (c : Coppice) (i state : Nat) : Coppice × State :=
  let c := c.setSib i { c.sib i with state := state }
  (c, s.putCoppice c |>.recordCoppice c i state (decide (state ≠ 4)))

/-- FP32 with subnormals honoured, RNE, sat 0 (R368). -/
def rnd32 (v : Val) : Word := BitVec.ofNat 32 (rndFloat .binary32 ⟨0, false, false, 0⟩ v)

/-- An FP32 value with subnormals honoured. -/
def val32 (x : Word) : Val := Fmt.binary32.read false x.toNat

/-- NaN_c of FP32. -/
def nanC : Word := BitVec.ofNat 32 Fmt.binary32.nanBits

/-- A real number that is zero has no sign: a sum in fixed point (R368). -/
def realZero (v : Val) : Val := if v.isZero then .num false 0 1 else v

/-- μ and σ of rewards (R368): the sums are exact and each result is rounded once. -/
def coppiceStats (rs : List Word) : Word × Word :=
  let n := Val.ofInt rs.length
  let vs := rs.map val32
  let mean := (realZero (sumVals false vs)).div n
  let v := rnd32 (sumVals false [(sumVals false (vs.map (fun v => v.mul v))).div n, (mean.mul mean).neg])
  (rnd32 mean, rnd32 (val32 v).sqrt)

/-- The advantage of an ARRIVED sibling (R368). -/
def advantageOf (mu sigma eps r : Word) : Word :=
  if sigma = 0 then 0
  else
    let d := sumVals false [val32 r, (val32 mu).neg]
    if d.isZero then 0
    else rnd32 (d.div (sumVals false [val32 sigma, val32 eps]))

/-- The coppice as its statistics leave it (R368, R369); `timeout` sets TIMEOUT. -/
def Coppice.completed (c : Coppice) (timeout : Bool) : Coppice :=
  let arrived := c.sibs.filter (fun x => decide (x.state = 2))
  let n' := arrived.length
  let st := if n' = 0 then (0, 0) else coppiceStats (arrived.map Sib.reward)
  let zero := decide (n' ≠ 0 ∧ st.2 = 0)
  { c with
    phase := 3
    mu := st.1
    sigma := st.2
    status := BitVec.ofNat 32 (2 ^ 31 + (if timeout then 2 ^ 30 else 0) + (if zero then 2 ^ 29 else 0) +
      (if n' = 0 then 2 ^ 28 else 0) + n' * 2 ^ 8 + 3)
    sibs := c.sibs.map (fun x =>
      if x.state = 2 then { x with adv := advantageOf st.1 st.2 c.eps x.reward }
      else if x.state = 4 ∨ x.state = 5 then { x with adv := nanC }
      else { x with adv := 0 }) }

/-- The crew number of sibling `i` of a coppice in its task. -/
def Coppice.crew (c : Coppice) (i : Nat) : Nat := c.first + i

/-- The slot key of a crew of a task, while it is bound. -/
def State.keyOf (s : State) (task k : Nat) : Option Nat :=
  (s.crews.findEntry (fun _ c => decide (c.task = task ∧ c.number = k))).map Prod.fst

/-- Deliver an advantage to a sibling (R369): into its crew, its saved context or its phase record.  For one that CTXSV has saved the foreman keeps
it until CTXRS (log 51). -/
def State.deliverAdv (s : State) (task k : Nat) (x : Word) : State :=
  let put (c : Crew) : Crew := { c with sib := { c.sib with delivered := true, advantage := x } }
  match s.keyOf task k with
  | some key => s.mapCrewAt key put
  | none =>
    match (s.tasks.get? task).bind (fun t => t.phases.get? k) with
    | none => s.mapTask task (fun t => if t.away.contains k then { t with advs := t.advs.insert k x } else t)
    | some p =>
      match p.whole, p.recOff with
      | some c, _ => s.mapTask task (fun t => { t with phases := t.phases.insert k { p with whole := some (put c) } })
      | none, some off =>
        let b := s.bytes (poolIdx p.core (off + 384 + 97)) 1
        (s.setBytes (poolIdx p.core (off + 384 + 97)) (b ||| 2) 1).setBytes (poolIdx p.core (off + 384 + 100)) x.toNat 4
      | none, none => s

/-- The phases that wait at a coppice's barrier are ready (R369). -/
def Task.readyCoppice (t : Task) (va : Nat) : Task :=
  { t with phases := t.phases.mapVals (fun p => if p.kind = 4 ∧ p.addr.toNat = va then { p with ready := true } else p) }

/-- A crew of a task has retired. -/
def State.isRetired (s : State) (task k : Nat) : Bool := (s.tasks.get? task).elim true (fun t => decide (t.seen.get? k = some 2))

/-- A prompt buffer is shared no longer with the coppice of sibling 0 number `first` (R364); one whose owner has retired meanwhile is then
freed (R348). -/
def State.unshare (s : State) (task first : Nat) : State :=
  { s with cores := s.cores.mapVals (fun c =>
      { c with buffers := (c.buffers.mapVals (fun (b : Buffer) =>
          if b.task = task then { b with share := b.share.filter (fun f => decide (f ≠ first)) } else b)).filter (fun b =>
            decide (b.2.task ≠ task) || decide (b.2.share ≠ []) || !s.isRetired task b.2.owner) }) }

/-- A held coppice is freed once no LATE sibling is live (R357). -/
def State.freeCoppice (s : State) (c : Coppice) : State :=
  if c.phase = 3 ∧ !c.sibs.any (fun x => decide (x.state = 4) && x.alive) then
    { s with coppices := s.coppices.filter (fun x => decide (x.ctx ≠ c.ctx ∨ x.va ≠ c.va)) }
  else s

/-- The barrier completes (R367, R369). -/
def State.completeCoppice (s : State) (c : Coppice) (timeout : Bool) : State :=
  let c := c.completed timeout
  let s := s.putCoppice c
  let s := (List.range c.n).foldl (fun s i => s.writeSib c i) s
  let s := s.unitWrite c.ctx (c.va + 24) 8 (layout [(4, c.mu.toNat), (4, c.sigma.toNat)])
  let s := s.unitWrite c.ctx (c.va + 16) 4 c.status.toNat
  let s := (List.range c.n).foldl (fun s i =>
    if (c.sib i).state = 3 then s else s.deliverAdv c.task (c.crew i) (c.sib i).adv) s
  let s := (s.mapTask c.task (fun t => t.readyCoppice c.va)).unshare c.task c.first
  (s.recordCoppice c 0 7 (!timeout)).freeCoppice c

/-- After an event at an open coppice (R367): it completes when no sibling is RUNNING. -/
def State.checkCoppice (s : State) (cn va : Nat) : State :=
  match s.coppice? cn va with
  | none => s
  | some c => if c.phase = 2 ∧ !c.sibs.any (fun x => decide (x.state = 1)) then s.completeCoppice c false else s

/-- The deadline of a coppice has come while a sibling is RUNNING (R367), and its timer is not suspended (R370). -/
def Coppice.overdue (c : Coppice) (clock : Nat) : Bool :=
  decide (c.phase = 2 ∧ c.suspended = none ∧ c.deadline ≤ clock) && c.sibs.any (fun x => decide (x.state = 1))

/-- At the deadline RUNNING siblings become LATE and the barrier completes (R367). -/
def State.expireCoppice (s : State) (cn va : Nat) : State :=
  match s.coppice? cn va with
  | none => s
  | some c =>
    if !c.overdue s.clock then s
    else
      let running := (List.range c.n).filter (fun i => decide ((c.sib i).state = 1))
      let (c, s) := running.foldl (fun (acc : Coppice × State) i => acc.2.setSibState acc.1 i 4) (c, s)
      s.completeCoppice c true

/-- Sibling `i` of the coppice at a record, crew `k` of its task, has retired (R361, R357): one that was RUNNING is cut.  A deadline that has
come is taken first (R358); a sibling of an earlier coppice of the record is none of this one. -/
def State.siblingRetired (s : State) (cn va i k : Nat) : State :=
  let s := s.expireCoppice cn va
  match (s.coppice? cn va).filter (fun c => decide (c.crew i = k)) with
  | none => s
  | some c =>
    let c := c.setSib i { c.sib i with alive := false }
    let s := s.putCoppice c
    if (c.sib i).state = 1 then (s.setSibState c i 3).2.checkCoppice cn va else s.freeCoppice c

/-! ## Retirement -/

/-- A task whose crews and siblings have all retired ends OK (R333, R360); one with a sweep set ends by sweep termination (R349). -/
def State.checkTask (s : State) (n : Nat) : State :=
  match s.tasks.get? n with
  | none => s
  | some t =>
    let done := (t.seen.filter (fun e => decide (e.2 = 2 ∧ e.1 < siblingBase))).length
    if t.sweepQs = [] ∧ t.phases = [] ∧ t.away = [] ∧ done = hdrCrews t.header ∧ !s.crews.any (fun e => decide (e.2.task = n)) then s.finishTask n 0 else s

/-- A crew's buffers are freed (R348), but for those that siblings of an open coppice share (R364). -/
def State.dropBuffers (s : State) (task k : Nat) : State :=
  { s with cores := s.cores.mapVals (fun c =>
      { c with buffers := c.buffers.filter (fun b => decide (b.2.task ≠ task ∨ b.2.owner ≠ k ∨ b.2.share ≠ [])) }) }

/-- What a task and a coppice learn of a retirement: the crew's number, sibling identity and context. -/
def State.noteRetired (s : State) (task k cn : Nat) (sib : Sibling) : State :=
  let s := s.dropBuffers task k
  let s := if sib.sibling then s.siblingRetired cn sib.record.toNat sib.index k
    else s.mapTask task (fun t => t.retired k)
  s.checkTask task

/-- The crew at a slot retires (R77, R361): its signature is recorded and its slot, blocks and tiles are free. -/
def State.retireCrew (s : State) (key : Nat) : State :=
  match s.crews.get? key with
  | none => s
  | some c =>
    let s := s.recordCrew key 0 (if c.pathFresh then 6 else 5) c.path.toNat
    let s := (s.packet key 10 0).dropCrew key (s.tag c.ctx)
    s.noteRetired c.task c.number c.ctx c.sib

/-- A cut sibling retires (R361): a waiting instruction is abandoned, its jobs are cancelled and end, and it leaves its
slot; one that is not bound is never bound again. -/
def State.retireCut (s : State) (task k cn : Nat) (sib : Sibling) : State :=
  match s.keyOf task k with
  | some key => (((s.perform key (fun _ => true)).dropJobs key).broadcastThrough (key / 64) (fun o => decide (o.crew = key))).retireCrew key
  | none =>
    (s.mapTask task (fun t => { t with
      phases := t.phases.remove k, away := t.away.filter (fun n => decide (n ≠ k)) })).noteRetired task k cn sib

/-- A sibling that has been cut retires once it is between instructions (R361). -/
def State.cutBoundary (s : State) (key : Nat) : State :=
  match s.crews.get? key with
  | none => s
  | some c => if c.cut then s.retireCut c.task c.number c.ctx c.sib else s

/-- The pending dir 0 streams of a crew. -/
def State.ownStreams (s : State) (key : Nat) : List Job :=
  (s.core (key / 64)).jobs.filter (fun j => decide (j.crew = key ∧ j.kind = .stream ∧ j.stream.dir = 0))

/-- Dir 0 streams of a crew are cancelled and end at once, and its skid entries are discarded (R211). -/
def State.cancelStreams (s : State) (key : Nat) : State :=
  let s := (s.ownStreams key).foldl (fun s j => s.cancelJob (key / 64) j) s
  let s := (s.ownStreams key).foldl (fun s j => match j.result with | some v => s.completeJob (key / 64) j v | none => s) s
  match s.crews.get? key with
  | none => s
  | some c =>
    let freed := c.skids.vals.foldl (fun n q => n + q.depth) 0
    if c.skids = [] then s
    else (s.setCrewAt key { c with skids := [] }).mapCore (key / 64) (fun x => { x with skidFree := x.skidFree + freed })

/-- Every access and tile operation of the executing crew completes (R77, R252). -/
def State.settleCrew (s : State) : State :=
  let s := s.perform s.fkey (fun _ => true)
  let key := s.fkey
  if (s.core s.focusCore).tileOps.any (fun o => decide (o.crew = key)) then
    s.broadcastThrough s.focusCore (fun o => decide (o.crew = key))
  else s

/-- The executing crew, with no lane left, retires (R77): dir 0 streams are cancelled, then it waits for its jobs and
accesses.  `note` records what the instruction leaves in the recorder before that. -/
def retireBody (note : State → State) (s : State) : Res :=
  let s := s.cancelStreams s.fkey
  if s.hasJobs s.fkey then .hold s
  else
    let s := s.settleCrew
    if s.crew.pend ≠ [] ∨ s.crew.savedTrap.isSome then .hold s else .gone ((note s).retireCrew s.fkey)

/-- EXIT (R77): ends the lanes of the current path. -/
def execExit (s : State) : Host.Outcome State Fault Refusal :=
  issue .exit s (fun s =>
    let c := s.crew
    let live := c.live &&& ~~~c.am
    match c.paths with
    | [] => if live ≠ 0 then .trap s 0x06 (c.pc.zeroExtend 64) else retireBody id s
    | (pc, m) :: rest => .jump (s.setCrew { c with live := live, am := m, paths := rest }) pc)

end Sys2Proof.Machine
end

