-- ==== Sys2Proof/Machine/Area.lean ====
section
/-! DEFINITION. The context save area (Table 17.5) and the region save within it (R314, R410, R413). -/

namespace Sys2Proof.Machine

/-! ## The save area (Table 17.5) -/

/-- A scan-out record (Table 13.4). -/
def scanRecord (t : Tok) (place slot core seq : Nat) : Nat :=
  layout [(4, t.value.toNat), (1, t.tag), (1, place), (1, slot), (1, core), (2, seq), (6, 0)]

/-- The scan-out records of the tokens of one place of a slot, head first. -/
def scanList (ts : List Tok) (place slot core : Nat) : List Nat :=
  ts.zipIdx.map (fun e => scanRecord e.1 place slot core e.2)

/-- The scan-out records of a slot (R314). -/
def SpSlot.scan (x : SpSlot) (key : Nat) : List Nat :=
  let sl := key % 64
  let ci := key / 64
  scanList x.left 0 sl ci ++ scanList x.right 1 sl ci ++ scanList x.pred 2 sl ci ++
  scanList (x.exits.flatMap (fun e => if x.cfg.dr = 0 then [e.left] else [e.left, e.right])) 3 sl ci ++
  scanList (x.injects.flatMap (fun e => [e.1, e.2])) 4 sl ci ++ scanList x.track 5 (x.cfg.edge.2) ci

/-- The record of a suspended stream of a region (R314): its next element is the one after those delivered (R467). -/
def Job.streamRecord (j : Job) : Nat :=
  layout [(4, j.pos), (1, j.stream.slot), (1, j.stream.core), (1, j.stream.dir), (1, j.token), (8, j.cardVa.toNat)]

/-- The region save (R413): image and completion addresses, status, last complete round, the counts, then the changed
entries, the scan-out records and the stream records.  The manual gives the order and not the offsets (log 49). -/
def Region.saveBytes (r : Region) (js : List Job) : List (Nat × Nat) :=
  let es := (r.slots.filter (fun e => e.2.changed || !e.2.changes.isEmpty)).map (fun e => (e.1, e.2.cfg))
  let ws := r.slots.flatMap (fun e => e.2.changes.map (fun c => (e.1, c)))
  let scans := r.slots.flatMap (fun e => e.2.scan e.1)
  [(8, r.imageVa.toNat), (8, r.cw.toNat), (4, r.status.toNat), (4, r.completeRound), (4, es.length), (4, ws.length),
    (4, scans.length), (4, js.length), (24, 0)] ++
  es.flatMap (fun e => [(2, e.1 / 64), (2, e.1 % 64), (12, 0), (16, e.2.toBytes)]) ++
  ws.flatMap (fun e => match e.2 with
    | .ecw n x => [(2, e.1 / 64), (2, e.1 % 64), (4, n), (4, x.toNat), (20, 0)]
    | .entry c _ => [(2, e.1 / 64), (2, e.1 % 64), (4, 2), (8, 0), (16, c.toBytes)]) ++
  scans.map (fun x => (16, x)) ++ js.map (fun j => (16, j.streamRecord))

/-- The bytes that a list of fields takes. -/
def fieldsSize (fs : List (Nat × Nat)) : Nat := (fs.map Prod.fst).sum

/-- Round up to a multiple of 256. -/
def up256 (n : Nat) : Nat := (n + 255) / 256 * 256

/-- A skid record (Table 17.5): card, next element, entries, depth, token register, state.  The next element tells how
many lanes the last entry holds, also in a queue whose stream has ended (log 49). -/
def skidRecord (js : List Job) (q : Option Skid) : List (Nat × Nat) :=
  match q with
  | none => [(32, 0)]
  | some k =>
    match k.job.bind (fun id => js.find? (fun j => decide (j.id = id))) with
    | some j => [(8, j.cardVa.toNat), (4, j.pos), (1, k.entries.length), (1, k.depth), (1, j.token), (1, 1), (16, 0)]
    | none => [(8, 0), (4, (k.entries.getLast?.map (fun e => e.elems.length)).getD 0), (1, k.entries.length), (1, k.depth),
        (1, 0), (1, 2), (16, 0)]

/-- An entry of a skid queue as 256 bytes. -/
def SkidEntry.toNat (e : SkidEntry) : Nat := packElems 32 (e.elems.map BitVec.toNat)

/-- A tile as 32 KiB (Table 17.5): cell 128 i + n. -/
def Tile.bytes (t : Tile) : Nat := packElems 32 ((List.range 8192).map (fun i => (t.cells.getD i 0).toNat))

/-- The size of the area before a region save. -/
def areaSize (vregs entries tiles : Nat) : Nat := 2048 + 256 * vregs + 256 * entries + 32768 * tiles

/-- The replay mask and the address of a crew that is parked on a fault or has a replay to make (R162); of a fetch they are AM and the PC. -/
def Crew.faultState (c : Crew) : Mask × DWord :=
  match c.park, c.replay with
  | some p, _ => (if p.fetch then c.am else p.mask, p.va)
  | none, some m => (m, c.replayVa)
  | none, none => (0, 0)

/-- The fields of a crew's save area with a given CRC (Table 17.5); `js` are the streams that the save suspends. -/
def Crew.areaFields (c : Crew) (tiles : SMap Tile) (js : List Job) (region : List (Nat × Nat)) (crc : Nat) :
    List (Nat × Nat) :=
  let entries := c.skids.vals.flatMap Skid.entries
  let plain := areaSize c.vregs entries.length tiles.length
  let size := if region = [] then plain else up256 plain + up256 (fieldsSize region)
  let (mask, va) := c.faultState
  let flags := (if c.halted then 1 else 0) + (if c.park.isSome || c.replay.isSome then 2 else 0) +
    (if c.deadline.isSome then 4 else 0) + (if region = [] then 0 else 8)
  let paths := (List.range 8).flatMap (fun i => match c.paths[i]? with
    | some p => [(8, p.1.toNat), (8, p.2.toNat)]
    | none => [(16, 0)])
  let frames := (List.range 4).map (fun i => (32, (c.framesUp[i]?.map Frame.toNat).getD 0))
  [(4, 0x56534358), (2, 1), (2, flags), (4, size), (4, crc), (8, c.pc.toNat), (8, c.am.toNat), (8, c.live.toNat),
    (2, c.mode.toNat), (2, c.modex.toNat), (2, c.vregs), (1, c.sregs), (1, c.tiles.toNat), (8, mask.toNat), (8, va.toNat),
    (8, c.deadline.getD 0), (2, c.ctx), (2, c.task), (4, 0), (8, c.widbase.toNat)] ++
  (List.range 7).map (fun i => (8, (c.pred (i + 1)).toNat)) ++
  [(1, c.paths.length), (1, c.frames.length), (2, 0), (4, c.remstat.toNat), (8, c.tvec.toNat)] ++ paths ++
  (List.range 8).flatMap (fun i => [(8, (c.bar i).mask.toNat), (8, (c.bar i).arrived.toNat), (8, (c.bar i).resume.toNat)]) ++
  frames ++
  [(4, c.tsa.toNat), (4, c.tsb.toNat), (8, (c.binding.map (fun b => b.base.toNat)).getD 0),
    (4, (c.binding.map Binding.maxrules).getD 0), (4, 0)] ++
  (List.range 8).map (fun i => (1, ((tiles.get? i).map (fun t => t.flags.toNat)).getD 0)) ++
  (List.range 64).map (fun i => (4, (c.getS i).toNat)) ++ (List.range 64).map (fun l => (4, (c.gen l).toNat)) ++
  (List.range 4).flatMap (fun q => skidRecord js (c.skids.get? q)) ++
  [(44, (c.binding.map Binding.header).getD 0), (4, 0), (16, c.sib.toNat), (704, 0)] ++
  (List.range c.vregs).map (fun r => (256, c.laneBytes r)) ++ entries.map (fun e => (256, e.toNat)) ++
  tiles.vals.map (fun t => (32768, t.bytes)) ++
  (if region = [] then [] else
    [(up256 plain - plain, 0)] ++ region ++ [(up256 (fieldsSize region) - fieldsSize region, 0)])

/-- The bytes of fields laid one after another. -/
def fieldBytes (fs : List (Nat × Nat)) : List Nat := fs.flatMap (fun f => bytesOf f.1 f.2)

/-- The bytes of a crew's save area, its CRC made (Table 17.5). -/
def Crew.areaBytes (c : Crew) (tiles : SMap Tile) (js : List Job) (region : List (Nat × Nat)) : List Nat :=
  fieldBytes (c.areaFields tiles js region (crc32c (fieldBytes (c.areaFields tiles js region 0))).toNat)

end Sys2Proof.Machine
end

