-- ==== Sys2Proof/Machine/Tasks.lean ====
section
/-! DEFINITION. Launches, phases, task barriers, queues, buffers and sweep, opcodes 0xBC to 0xCB (R325 to R355), and the
foreman's events for tasks: LAUNCH_QUEUE_TAKE to SWEEP_TOKEN_HOP. -/

namespace Sys2Proof.Machine

/-! ## LAUNCH -/

/-- A number for a new task: one of those that no task holds (log 26). -/
def State.newTaskNumber (s : State) : Option Nat × State :=
  let (b, s) := s.takeFree
  let n := b.toNat % 2 ^ 16
  (if (s.tasks.get? n).isNone then some n else s.tasks.lowestFree (2 ^ 16), s)

/-- A task in its die's launch queue (R332). -/
def newTask (cn die h clock : Nat) : Task where
  ctx := cn
  die := die
  header := h
  carry := []
  launched := clock
  queued := true
  estim := BitVec.ofNat 32 (fld h 64 4)
  page := none
  groups := []
  phases := []
  seen := []
  bars := []
  marks := []
  sweepQs := []
  sweepFlags := []
  cores := []
  token := (0, false)
  nextSib := siblingBase
  away := []

/-- A launch enters a die's queue under a new task number; none while no number is free. -/
def State.enterLaunch (s : State) (cn die h : Nat) : Option Nat × State :=
  match s.newTaskNumber with
  | (none, s) => (none, s)
  | (some n, s) =>
    (some n, ({ s with tasks := s.tasks.insert n (newTask cn die h s.clock) } : State).mapDie die (fun d =>
      { d with launchQ := d.launchQ ++ [n] }))

/-- LAUNCH (R332): starts a task from a header. -/
def execLaunch (d a : BitVec 8) (s : State) : Host.Outcome State Fault Refusal :=
  issue (.launch d a) s (fun s =>
    let s := s.release s.fkey 3
    structRead s (s.crew.getSS a.toNat) 128 128 (fun s h =>
      let put (s : State) (x : Word) : Res := .done (s.mapCrew (fun c => c.setS d.toNat x))
      let die := dieOf s.focusCore
      if hdrMalformed h then put s 0xFFFFFFFE
      else if 64 ≤ (s.die die).launchQ.length then put s 0xFFFFFFFF
      else
        match s.enterLaunch s.crew.ctx die h with
        | (some n, s) => put s (BitVec.ofNat 32 n)
        | (none, s) => put s 0xFFFFFFFF))

/-- A gang cannot fit the live cores even with every slot free (R334): whole groups to a core, and crews that claim a
tile one to a core. -/
def State.gangTooLarge (s : State) (h : Nat) : Bool :=
  let per := if fld h 19 1 = 0 then hdrPerCore h else 1
  let g := hdrGroup h
  let cores := ((List.range 192).filter s.coreLive).length
  let full := hdrCrews h / g
  let rest := hdrCrews h % g
  let fit := cores * (per / g)
  decide (fit < full) || (decide (rest ≠ 0) && decide (fit = full) && decide (cores = 0 ∨ per % g < rest))

/-- LAUNCH_QUEUE_TAKE (R332, R334, R439): a die's foreman takes the oldest launch of the current function: it reads the
carry-set descriptors (R54) and creates the task, or ends it with GANG_TOO_LARGE.  An absent page of the descriptors is
waited for; where they cannot be read the task ends FAULTED (log 25). -/
def execLaunchQueueTake (die : Nat) (s : State) : Host.Outcome State Fault Refusal :=
  .next (
    if !s.dieLive die || s.updating die then s
    else
      match (s.die die).launchQ.find? (fun n =>
        ((s.tasks.get? n).elim false (fun t => decide ((s.ctx t.ctx).owner = s.current)))) with
      | none => s
      | some n =>
        match s.tasks.get? n with
        | none => s
        | some t =>
          let took (s : State) : State :=
            s.mapDie die (fun d => { d with launchQ := d.launchQ.filter (fun m => decide (m ≠ n)) })
          let va := t.fld 48 8
          let xs := (List.range (24 * t.fld 20 1)).map (fun i => (va + i, s.xlateWalk t.ctx (va + i) .read))
          let absent (e : Nat × Xlat) : Bool := match e.2 with | .absent _ _ _ => true | _ => false
          let good (e : Nat × Xlat) : Bool := match e.2 with | .ok l => !s.poisoned l.idx 1 | _ => false
          match t.page with
          | some ⟨_, 0⟩ => s
          | some ⟨_, 2⟩ => (took s).finishTask n 4
          | _ =>
            if !xs.all (fun e => good e || absent e) then (took s).finishTask n 4
            else
              match xs.find? absent with
              | some (v, .absent kind level pte) =>
                (s.sendFault ⟨pageOf v, t.ctx, kind, 0, die * 24, 0xFF, level, pte, 0, false, 0, 0, noTask⟩).mapTask n (fun t =>
                  { t with page := some ⟨pageOf v, 0⟩ })
              | _ =>
                if (t.fld 2 1).testBit 0 && s.gangTooLarge t.header then (took s).finishTask n 2
                else
                  let bytes := xs.map (fun e => match e.2 with | .ok l => (s.byte l.idx).toNat | _ => 0)
                  let carry := (List.range (t.fld 20 1)).map (fun i => carrySetOf (packElems 8 ((bytes.drop (24 * i)).take 24)))
                  (took s).mapTask n (fun t => { t with carry := carry, queued := false, page := none }))

/-! ## Binding -/

/-- Blocks [rbase, rbase + n) of a quarter are free of its bound crews (R56). -/
def State.blocksFree (s : State) (core slot rbase n : Nat) : Bool :=
  decide (rbase + n ≤ 64) &&
    !s.crews.any (fun e => decide (e.1 / 64 = core) && decide (e.1 % 64 / 16 = slot / 16) &&
      spansMeet rbase n e.2.rbase (e.2.vregs / 8))

/-- Tiles are free on a core (R232, R325): no crew bound there claims one, and none is kept across PHEND by a crew other
than crew `k` of the task. -/
def State.tilesFree (s : State) (core tn k : Nat) (tiles : BitVec 8) : Bool :=
  !s.crews.any (fun e => decide (e.1 / 64 = core) && decide (e.2.tiles &&& tiles ≠ 0)) &&
  !s.tasks.any (fun e => e.2.phases.any (fun p =>
    decide (p.2.core = core) && p.2.recOff.isSome && decide (p.1 < siblingBase) && decide (e.1 ≠ tn ∨ p.1 ≠ k) &&
      decide (BitVec.ofNat 8 (e.2.fld 19 1) &&& tiles ≠ 0)))

/-- A pool offset is good for the next phase record of a crew (R337): aligned, in the pool, clear of the buffers and of
the records of the crews and phases whose home is the core. -/
def State.recordFree (s : State) (core off : Nat) (carry : List CarrySet) : Bool :=
  decide (off % 256 = 0) &&
  (recordSpans off carry).all (fun x =>
    decide (x.1 + x.2 ≤ 2 ^ 18) && !spansMeet x.1 x.2 s.params.bufLo (s.params.bufHi - s.params.bufLo)) &&
  !s.crews.any (fun e => decide (s.homeCore e.1 e.2 = core) && recordsMeet off carry e.2.recOff e.2.carry) &&
  !s.tasks.any (fun e => e.2.phases.any (fun p => decide (p.2.core = core) &&
    (p.2.recOff.elim false (fun o => recordsMeet off carry o e.2.carry))))

/-- A service action drains the core, or its die's foreman is being updated, or the package has had a device-fatal fault
(R451, R454). -/
def State.outOfService (s : State) (core : Nat) : Bool :=
  s.service.fatal || s.service.actions.any (fun a =>
    (decide (a.cmd = 1) && decide (a.arg % 8 = dieOf core)) || (decide (a.cmd = 2) && decide (a.arg % 2 ^ 9 = core)) ||
    (decide (a.cmd = 3) && decide (a.arg % 2 ^ 9 = dieOf core)))

/-- The core can take a crew now: live, in service, in SIMT mode, and not lent to the pager (R26, R166, R292, R451). -/
def State.coreBinds (s : State) (core : Nat) : Bool :=
  s.coreLive core && !s.outOfService core && (s.regionAt core).isNone && !s.draining core &&
  !s.pagerOn core

/-- The cores of a region whose control crew moves from the slot at `old` to the slot at `key` (R271). -/
def movedCores (cores : List Nat) (old key : Nat) : List Nat :=
  cores.map (fun c => (c + 192 + key / 64 - old / 64) % 192)

/-- A saved region fits where its control crew would be bound. -/
def State.regionFits (s : State) (r : Region) (key : Nat) : Bool :=
  (movedCores r.cores r.control key).all (fun c => s.coreBinds c)

/-- A saved region is restored with its control crew (R314, R413): every slot and queue as it was, its sources released from the save stop,
and the watchdog restarted. -/
def State.restoreRegion (s : State) (r : Region) (key : Nat) : State :=
  { s with regions := s.regions.insert key { r with
      control := key, cores := movedCores r.cores r.control key, halted := movedCores r.halted r.control key
      handlers := r.handlers.map (fun h => crewKey ((h / 64 + 192 + key / 64 - r.control / 64) % 192) (h % 64)), saving := 0
      lastFire := s.clock } }

/-- A crew of a task fits at a place (R327, R329): its slot and blocks, its tiles and record, and what its context has in the gate and in the skid
memory. -/
def State.bindFits (s : State) (tn : Nat) (t : Task) (k core slot rbase off : Nat) : Bool :=
  let key := crewKey core slot
  let p := t.phases.get? k
  let tiles : BitVec 8 := if k < siblingBase then BitVec.ofNat 8 (t.fld 19 1) else 0
  decide (slot < 64) && s.coreBinds core && (s.crews.get? key).isNone && !t.queued &&
  decide ((s.ctx t.ctx).owner = s.current) && decide ((s.reserved.getD key tn) = tn) &&
  (match p with
   | some p => p.ready && decide (p.core = core) && p.region.elim true (fun r => s.regionFits r key) &&
      p.whole.elim true (fun c => decide (c.skids.vals.foldl (fun n q => n + q.depth) 0 ≤ (s.core core).skidFree)) &&
      decide ((s.core core).jobs.length + p.jobs.length ≤ 32)
   | none => decide (k < hdrCrews t.header) && (t.seen.get? k).isNone && decide (t.groups.getD (t.group k) core = core)) &&
  s.blocksFree core slot rbase (hdrBlocks t.header) && s.tilesFree core tn k tiles && s.recordFree core off t.carry

/-- A pool offset of a core that is free for the phase records of a kernel. -/
def State.recordRoom (s : State) (core : Nat) (carry : List CarrySet) : Option Nat :=
  ((List.range 1024).map (fun i => 256 * i)).find? (fun off => s.recordFree core off carry)

/-- The crews of a task that wait to be bound. -/
def Task.bindable (t : Task) : List Nat :=
  (t.phases.filter (fun e => e.2.ready)).map Prod.fst ++
    (List.range (hdrCrews t.header)).filter (fun k => (t.seen.get? k).isNone)

/-- A task's gang that has never been bound (R334). -/
def Task.unboundGang (t : Task) : Bool := (t.fld 2 1).testBit 0 && decide (t.seen = [])

/-- The crews of `n` blocks that free runs of blocks hold: `run` blocks of the run under way, then the rest. -/
def crewsInRuns (n : Nat) : Nat → List Bool → Nat
  | run, [] => run / n
  | run, true :: rest => crewsInRuns n (run + 1) rest
  | run, false :: rest => run / n + crewsInRuns n 0 rest

/-- A slot of a core is free, and no other task than `n` has reserved it. -/
def State.slotFree (s : State) (n key : Nat) : Bool := (s.crews.get? key).isNone && decide (s.reserved.getD key n = n)

/-- The crews of a launch that a core holds beside those bound there (R56, R232). -/
def State.coreRoom (s : State) (n : Nat) (t : Task) (core : Nat) : Nat :=
  let tiles := BitVec.ofNat 8 (t.fld 19 1)
  if !s.coreBinds core || !s.tilesFree core n (hdrCrews t.header) tiles || (s.recordRoom core t.carry).isNone then 0
  else
    let room := ((List.range 4).map (fun q =>
      min ((List.range 16).filter (fun i => s.slotFree n (crewKey core (16 * q + i)))).length
        (crewsInRuns (hdrBlocks t.header) 0 ((List.range 64).map (fun b => s.blocksFree core (16 * q) b 1))))).sum
    if tiles = 0 then room else min room 1

/-- A gang fits now (R334): its whole groups to a core each, and what is left of the last one. -/
def State.gangFits (s : State) (n : Nat) (t : Task) : Bool :=
  let g := hdrGroup t.header
  let rooms := (List.range 192).map (s.coreRoom n t)
  let fit := (rooms.map (fun r => r / g)).sum
  let rest := hdrCrews t.header % g
  decide (hdrCrews t.header / g < fit) ||
    (decide (fit = hdrCrews t.header / g) && (decide (rest = 0) || rooms.any (fun r => decide (rest ≤ r % g))))

/-- A waiting phase or launch of a higher class would fit in the slot (R353); a gang takes its slots all at once, and wants none before it
fits (R334). -/
def State.outranked (s : State) (t : Task) (core slot : Nat) : Bool :=
  s.tasks.any (fun e => decide (t.fld 3 1 % 4 < e.2.fld 3 1 % 4) &&
    (if e.2.unboundGang then !e.2.queued && decide ((s.ctx e.2.ctx).owner = s.current) && s.slotFree e.1 (crewKey core slot) &&
        decide (0 < s.coreRoom e.1 e.2 core) && s.gangFits e.1 e.2
      else (s.recordRoom core e.2.carry).elim false (fun off =>
        e.2.bindable.any (fun k => (List.range 64).any (fun rb => s.bindFits e.1 e.2 k core slot rb off)))))

/-- A crew of a task may be bound at a place: it fits, and no waiting phase or launch of a higher class wants the slot (R353). -/
def State.bindOk (s : State) (tn : Nat) (t : Task) (k core slot rbase off : Nat) : Bool :=
  s.bindFits tn t k core slot rbase off && !s.outranked t core slot

/-- The instruction cache of a core is invalidated when it binds a crew of another load generation than the one it last ran at the entry
address, whatever the context (R53; log 64). -/
def State.checkGen (s : State) (core entry gen : Nat) : State :=
  if (s.core core).gens.get? entry = some gen then s
  else s.mapCore core (fun c => { c with icache := [], gens := c.gens.insert entry gen })

/-- The number of a suspended stream that `p` accepts when streams re-enter a gate in order, `base` the first new number. -/
def newJobId (js : List Job) (p : Job → Bool) (base old : Nat) : Option Nat :=
  (js.findIdx? (fun j => decide (j.id = old) && p j)).map (fun i => base + i)

/-- Suspended streams re-enter the gate of the core of their crew under new numbers, oldest first (R411), and the crew's tokens and skid queues go by
the new numbers.  The STRMBARs in force stand between those issued before them and later streams (R226); streams of other crews that they wait
for are known only on the core that they were issued on (`same`; log 129). -/
def State.resumeStreams (s : State) (core key : Nat) (c : Crew) (js : List Job) (bars : List StreamBar) (same : Bool) : Crew × State :=
  let base := (s.core core).nextJob
  let c := { c with
    tokens := js.zipIdx.foldl (fun m e => m.insert e.1.token (base + e.2)) c.tokens
    skids := c.skids.mapVals (fun (q : Skid) => { q with job := q.job.bind (newJobId js (fun j => decide (j.stream.dir = 0)) base) }) }
  (c, s.mapCore core (fun x => { x with
    jobs := x.jobs ++ js.zipIdx.map (fun e => { e.1 with id := base + e.2, crew := key, started := false, buffer := [] })
    nextJob := base + js.length
    bars := x.bars ++ bars.map (fun (b : StreamBar) => { b with
      crew := key, before := base + (js.filter (fun j => decide (j.id < b.before))).length
      jobs := b.jobs.filterMap (fun o => (newJobId js (fun _ => true) base o).or (if same then some o else none)) }) }))

/-- The crew that a bind record loads (R329): as its launch creates it, with its tiles cleared (R328, R232), from its
phase record, or as its context was saved, replaying at once where it was parked (R162). -/
def State.loadCrew (s : State) (tn : Nat) (t : Task) (k core slot rbase off : Nat) : Crew × State :=
  let shell := t.shell tn k rbase off s.clock
  match t.phases.get? k with
  | none =>
    (t.newCrew tn k rbase off s.clock,
      (List.range 8).foldl (fun (s : State) i => if shell.tiles.getLsbD i then s.setTile core i Tile.blank else s) s)
  | some p =>
    match p.whole, p.recOff with
    | some c, _ =>
      let s := p.tiles.foldl (fun (s : State) e => s.setTile core e.1 e.2) s
      let s := p.region.elim s (fun r => s.restoreRegion r (crewKey core slot))
      let s := s.mapCore core (fun x => { x with skidFree := x.skidFree - c.skids.vals.foldl (fun n q => n + q.depth) 0 })
      let c : Crew := match c.park with
        | some q => { c with park := none, replay := if q.fetch then none else some q.mask, replayVa := q.va }
        | none => c
      s.resumeStreams core (crewKey core slot)
        { c with rbase := rbase, recOff := off, boundAt := s.clock, lastPage := [] } p.jobs p.bars true
    | none, some o =>
      let c := s.readRecord core o (if k < siblingBase then shell else { shell with tiles := 0 })
      ({ c with savedTrap := p.trap }, s)
    | none, none => (shell, s)

/-- A whole-mode coppice goes on when the first of the siblings that the choice unbound is bound again (R370): the deadline grows by the
suspended time and is written to the record. -/
def State.resumeCoppice (s : State) (c : Crew) : State :=
  if !c.sib.sibling then s
  else
    match s.coppice? c.ctx c.sib.record.toNat with
    | none => s
    | some x =>
      match x.suspended with
      | none => s
      | some (since, named) =>
        if x.crew c.sib.index ≠ c.number ∨ !named.contains c.sib.index then s
        else
        let x := { x with suspended := none, deadline := x.deadline + (s.clock - since) }
        (s.putCoppice x).unitWrite x.ctx (x.va + 32) 8 x.deadline

/-- The VA of the phase record that a crew is bound from (Table 14.2): 0 for a first phase, and for a context that was saved whole, which has
none. -/
def State.recVa (s : State) (t : Task) (k core : Nat) : Nat :=
  match t.phases.get? k with
  | some p => if p.whole.isSome then 0 else p.recOff.elim 0 (fun o => bitsOf (s.ctx t.ctx).poolbase.toNat 56 26 * 2 ^ 26 + core * 2 ^ 18 + o)
  | none => 0

/-- Reservations that a task has no waiting crew for any more end (R353): what is left is on cores that a waiting crew may take, one slot for each
such crew at most. -/
def State.trimReserved (s : State) (n : Nat) : State :=
  match s.tasks.get? n with
  | none => s
  | some t =>
    let cores := t.bindable.map (fun k =>
      match t.phases.get? k with
      | some p => some p.core
      | none => t.groups.get? (t.group k))
    let mine := ((s.reserved.filter (fun e => decide (e.2 = n) && (cores.contains none || cores.contains (some (e.1 / 64))))).map Prod.fst).take
      cores.length
    { s with reserved := s.reserved.filter (fun e => decide (e.2 ≠ n) || mine.contains e.1) }

/-- The effect of one bind record (R329), which begins with an acquire at package scope. -/
def State.bindCrew (s : State) (tn : Nat) (t : Task) (k core slot rbase off : Nat) : State :=
  let key := crewKey core slot
  let (c, s) := (s.checkGen core (t.fld 8 8) (t.fld 4 4)).loadCrew tn t k core slot rbase off
  let s := s.mapTask tn (fun t => { t with
    phases := t.phases.remove k
    seen := if k < siblingBase ∧ (t.seen.get? k).isNone then t.seen.insert k 1 else t.seen
    groups := if k < siblingBase then t.groups.insert (t.group k) core else t.groups
    cores := if t.cores.contains core then t.cores else (core :: t.cores).mergeSort (· ≤ ·) })
  let s := (({ s with reserved := s.reserved.remove key } : State).trimReserved tn).enterSlot key c (s.recVa t k core)
  let s := s.recordForeman (dieOf core) 0 2 0 (tn + slot * 2 ^ 16 + rbase * 2 ^ 24 + c.prio * 2 ^ 32)
  ((s.resumeCoppice c).acquireL1 core 3).traceStart key

/-- Bind records in turn, as far as each is allowed. -/
def State.bindAll (s : State) (tn : Nat) : List (Nat × Nat × Nat × Nat × Nat) → Option State
  | [] => some s
  | (k, core, slot, rbase, off) :: rest =>
    match s.tasks.get? tn with
    | none => none
    | some t => if s.bindOk tn t k core slot rbase off then (s.bindCrew tn t k core slot rbase off).bindAll tn rest else none

/-- BIND (R329): the foreman writes bind records for crews of a task, each as crew number, core, slot, first block and
the pool offset of its next phase record.  Either all are allowed or none is written; a gang binds its crews at once
(R334). -/
def execBind (task : Nat) (places : List (Nat × Nat × Nat × Nat × Nat)) (s : State) :
    Host.Outcome State Fault Refusal :=
  .next (
    match s.tasks.get? task with
    | none => s
    | some t =>
      if (t.fld 2 1).testBit 0 ∧ t.seen = [] ∧ places.map Prod.fst ≠ List.range (hdrCrews t.header) then s
      else (s.bindAll task places).getD s)

/-! ## Queues (R341 to R347) -/

/-- The bytes of a queue of log2 depth `q` (R341). -/
def queueBytes (q : Nat) : Nat := 64 + 4 * 2 ^ q

/-- The storage index of a queue in a window, when its extent stays in one vault or pool (R342). -/
def State.queuePlace (s : State) (cn va q : Nat) : Option Nat :=
  match s.window cn va with
  | some (some i) =>
    let room := if 2 ^ 53 ≤ i then 2 ^ 18 - (i - 2 ^ 53) % 2 ^ 18 else 2 ^ 24 - (i - 2 ^ 52) % 2 ^ 24
    if queueBytes q ≤ room then some i else none
  | _ => none

/-- Elements taken and added (R341). -/
def State.queueHead (s : State) (i : Nat) : Nat := s.bytes i 4
/-- Elements added. -/
def State.queueTail (s : State) (i : Nat) : Nat := s.bytes (i + 4) 4
/-- Elements held: tail − head modulo 2^32. -/
def State.queueLen (s : State) (i : Nat) : Nat := (s.queueTail i + 2 ^ 32 - s.queueHead i) % 2 ^ 32

/-- Steps 1 and 2 of R342: the queue's place, or a trap.  The executing crew's access to the header, given as `need`, must not touch another
crew's live buffer (R348), and a header that is loaded must not be poisoned (row 4 of Table 7.3). -/
def State.queueReach (s : State) (cn : Nat) (va : DWord) (q : Nat) (need : Option Need) (load : Bool) : Except (Nat × DWord) Nat :=
  if va.toNat % 64 ≠ 0 then .error (0x02, va)
  else
    match s.queuePlace cn va.toNat q with
    | none => .error (0x03, va)
    | some i =>
      if need.elim false (fun n => s.buffered cn va.toNat 64 n) then .error (0x09, va)
      else if load && s.poisoned i 64 then .error (0x0E, va)
      else .ok i

/-- The checks of R342. -/
def State.queueCheck (s : State) (cn : Nat) (va : DWord) (q : Nat) (need : Option Need) : Except (Nat × DWord) Nat :=
  match s.queueReach cn va q need true with
  | .error e => .error e
  | .ok i => if s.bytes (i + 9) 1 ≠ 1 ∨ s.bytes (i + 8) 1 ≠ q ∨ 2 ^ q < s.queueLen i then .error (0x08, va) else .ok i

/-- The trap of a transfer's slots, as for a scalar access to each (R342, R348; log 48): a slot in another crew's live buffer, or, where
slots are loaded, one in a poisoned line. -/
def State.slotTrap (s : State) (cn : Nat) (va : DWord) (i : Nat) (slots : List Nat) (need : Need) : Option (Nat × DWord) :=
  let at_ (j : Nat) : DWord := va + BitVec.ofNat 64 (64 + 4 * j)
  match slots.find? (fun j => s.buffered cn (at_ j).toNat 4 need) with
  | some j => some (0x09, at_ j)
  | none => if need = .read then (slots.find? (fun j => s.poisoned (i + 64 + 4 * j) 4)).map (fun j => (0x0E, at_ j)) else none

/-- The crew's own accesses that must precede one to a queue's bytes come first (R182, R185). -/
def State.settleQueue (s : State) (i q : Nat) (need : Need) : State :=
  let p : Pend := ⟨if need = .read then .sload 0 else .store, queueBytes q, [⟨0, 0, ⟨i, false⟩, 0, 0, [], false⟩], 0, 0, 0, 0⟩
  s.perform s.fkey (fun x => x.precedes p)

/-- An instruction on a queue: the checks, after the crew's own earlier accesses, and then its effect (R342). -/
def onQueue (s : State) (a q : Nat) (need : Need) (f : State → Nat → Res) : Res :=
  let va := s.crew.getSS a
  match s.queueReach s.crew.ctx va q (some need) false with
  | .error e => .trap s e.1 e.2
  | .ok i =>
    let s := s.settleQueue i q need
    match s.queueCheck s.crew.ctx va q (some need) with
    | .error e => .trap s e.1 e.2
    | .ok i => f s i

/-- The home core of a queue (R341). -/
def queueHome (i : Nat) : Nat :=
  if 2 ^ 53 ≤ i then (i - 2 ^ 53) / 2 ^ 18
  else (i - 2 ^ 52) / 2 ^ 24 / 8 * 24 + (i - 2 ^ 52) / 2 ^ 24 % 8 * 3

/-- The lanes that take part in a transfer of up to `n` elements: the lowest `n` of the active lanes (R343). -/
def firstLanes (m : Mask) (n : Nat) : List Nat := (lanesOf m).take n

/-- ENQ (R343): adds the active lanes' elements in ascending lane order, as far as there is room. -/
def execEnq (d a : BitVec 8) (l : BitVec 4) (w r : BitVec 1) (s : State) : Host.Outcome State Fault Refusal :=
  issue (.enq d a l w r) s (fun s =>
    onQueue s a.toNat l.toNat .both (fun s i =>
      let k := modexScope s.crew.modex
      if r = 1 ∧ s.crew.released = false ∧ s.crew.releaseReady k = false then .hold s
      else
        let s := if r = 1 ∧ s.crew.released = false then
          (s.release s.fkey k).mapCrew (fun c => { c with released := true }) else s
        let c := s.crew
        let cap := 2 ^ l.toNat
        let free := cap - s.queueLen i
        if w = 1 ∧ free < min (lanesOf c.active).length cap then .hold s
        else
          let ls := firstLanes c.active free
          let tail := s.queueTail i
          match s.slotTrap c.ctx (c.getSS a.toNat) i ((List.range ls.length).map (fun j => (tail + j) % cap)) .write with
          | some e => .trap s e.1 e.2
          | none =>
          let s := ls.zipIdx.foldl (fun s e =>
            s.setBytes (i + 64 + 4 * ((tail + e.2) % cap)) (c.getV d.toNat e.1).toNat 4) s
          let s := s.setBytes (i + 4) (tail + ls.length) 4
          let s := s.mapCrew (fun c => c.setPredLanes 7 c.active (maskOf (fun l => ls.contains l)))
          .done (if ls ≠ [] ∧ queueHome i < s.focusCore then
            s.mapTask c.task (fun t => { t with sweepFlags := (s.focusCore :: t.sweepFlags).dedup }) else s)))

/-- DEQ (R343): gives the active lanes elements in ascending lane order, as far as there are any. -/
def execDeq (d a : BitVec 8) (l : BitVec 4) (q : BitVec 1) (s : State) : Host.Outcome State Fault Refusal :=
  issue (.deq d a l q) s (fun s =>
    onQueue s a.toNat l.toNat .both (fun s i =>
      let c := s.crew
      let cap := 2 ^ l.toNat
      let ls := firstLanes c.active (s.queueLen i)
      let head := s.queueHead i
      match s.slotTrap c.ctx (c.getSS a.toNat) i ((List.range ls.length).map (fun j => (head + j) % cap)) .read with
      | some e => .trap s e.1 e.2
      | none =>
      let c := ls.zipIdx.foldl (fun (c : Crew) e =>
        c.setV d.toNat e.1 (BitVec.ofNat 32 (s.bytes (i + 64 + 4 * ((head + e.2) % cap)) 4))) c
      let s := (s.setCrew (c.setPredLanes 7 c.active (maskOf (fun l => ls.contains l)))).setBytes i (head + ls.length) 4
      .done (if q = 1 then s.acquireL1 s.focusCore (modexScope c.modex) else s)))

/-- QFENCE (R345): earlier queue instructions are performed before later ones; here each is performed when it issues
(log 48). -/
def execQfence (s : State) : Host.Outcome State Fault Refusal := issue .qfence s (fun s => .done s)

/-- QINIT (R346): an empty queue of the depth in the word. -/
def execQinit (a : BitVec 8) (l : BitVec 4) (s : State) : Host.Outcome State Fault Refusal :=
  issue (.qinit a l) s (fun s =>
    match s.queueReach s.crew.ctx (s.crew.getSS a.toNat) l.toNat (some .write) false with
    | .error e => .trap s e.1 e.2
    | .ok i => .done ((s.settleQueue i l.toNat .write).setBytes i (layout [(8, 0), (1, l.toNat), (1, 1)]) 64))

/-- QLEN (R347): the number of elements. -/
def execQlen (d a : BitVec 8) (l : BitVec 4) (s : State) : Host.Outcome State Fault Refusal :=
  issue (.qlen d a l) s (fun s =>
    onQueue s a.toNat l.toNat .read (fun s i =>
      .done (s.mapCrew (fun c => c.setS d.toNat (BitVec.ofNat 32 (s.queueLen i))))))

/-- SWEEP (R349): adds a queue to the task's sweep set of 16. -/
def execSweep (d a : BitVec 8) (l : BitVec 4) (s : State) : Host.Outcome State Fault Refusal :=
  issue (.sweep d a l) s (fun s =>
    onQueue s a.toNat l.toNat .read (fun s i =>
      let t := s.tasks.get? s.crew.task
      let qs := (t.map Task.sweepQs).getD []
      if qs.contains (i, l.toNat) then .done (s.mapCrew (fun c => c.setS d.toNat 0))
      else if 16 ≤ qs.length then .done (s.mapCrew (fun c => c.setS d.toNat 1))
      else
        .done ((s.mapTask s.crew.task (fun t => { t with sweepQs := t.sweepQs ++ [(i, l.toNat)] })).mapCrew
          (fun c => c.setS d.toNat 0))))

/-! ## PHEND and BARARR -/

/-- The last steps of PHEND (R336) and REWARD (R365, kind 4, whose record holds no wait address): the record is written in the pool of the group's
core, the crew is unbound, and the phase waits. -/
def State.endPhase (s : State) (kind carry operand : Nat) (addr : DWord) (depth bar : Nat) : State :=
  let c := s.crew
  let core := s.homeCore s.fkey c
  let tag := s.tag c.ctx
  let s := s.release s.fkey 3
  let s := s.writeRecord core c.recOff c kind carry operand (if kind = 4 then 0 else addr)
  let s := s.recordForeman (dieOf core) tag 2 2 (c.task + kind * 2 ^ 16 + carry * 2 ^ 20)
  let s := (s.packet s.fkey 10 1).dropCrew s.fkey tag
  s.mapTask c.task (fun t =>
    let mark := c.number * 16 + bar
    let gen := (t.bar bar).gen
    let p : Phase :=
      { kind := kind, addr := addr, depth := depth, bar := bar, gen := gen, core := core, recOff := some c.recOff
        whole := none, jobs := [], tiles := [], region := none, ready := decide (kind = 0), wait := none, trap := none }
    if kind ≠ 1 then { t with phases := t.phases.insert c.number p }
    else
      match t.marks.get? mark with
      | some g =>
        { t with phases := t.phases.insert c.number { p with ready := decide (g ≠ gen) }, marks := t.marks.remove mark }
      | none => ({ t with phases := t.phases.insert c.number p } : Task).arrive bar c.number)

/-- The common part of PHEND (R335, R336): `wait` makes the checks of the wait condition's address. -/
def phendBody (word : DWord) (kind carry operand depth bar : Nat) (addr : Crew → DWord)
    (check : State → (State → Res) → Res) (s : State) : Res :=
  let c := s.crew
  if (c.sib.sibling && decide (kind = 1)) || decide (c.carry.length ≤ carry) then .trap s 0x01 word
  else if c.paths ≠ [] ∨ c.am ≠ c.live then .trap s 0x06 (c.pc.zeroExtend 64)
  else
    check s (fun s =>
      let s := s.cancelStreams s.fkey
      if s.hasJobs s.fkey then .hold s
      else
        let s := s.settleCrew
        if s.crew.pend ≠ [] ∨ s.crew.savedTrap.isSome ∨ (s.tasks.get? s.crew.task).isNone then .hold s
        else .gone (s.endPhase kind carry operand (addr s.crew) depth bar))

/-- PHEND none (R336): the next phase is ready at once. -/
def execPhendNone (c : BitVec 4) (s : State) : Host.Outcome State Fault Refusal :=
  issue (.phendNone c) s
    (phendBody ((Instr.phendNone c).word.zeroExtend 64) 0 c.toNat 0 0 0 (fun _ => 0) (fun s k => k s))

/-- PHEND bar (R336, R340): the next phase waits for a task barrier. -/
def execPhendBar (c b : BitVec 4) (s : State) : Host.Outcome State Fault Refusal :=
  issue (.phendBar c b) s
    (phendBody ((Instr.phendBar c b).word.zeroExtend 64) 1 c.toNat b.toNat 0 b.toNat (fun _ => 0) (fun s k => k s))

/-- PHEND queue (R336, R342): the next phase waits for an element in a queue. -/
def execPhendQueue (c l : BitVec 4) (p : BitVec 6) (s : State) : Host.Outcome State Fault Refusal :=
  issue (.phendQueue c l p) s
    (phendBody ((Instr.phendQueue c l p).word.zeroExtend 64) 2 c.toNat (p.toNat + l.toNat * 2 ^ 8) l.toNat 0
      (fun c => c.getSS p.toNat) (fun s k => onQueue s p.toNat l.toNat .read (fun s _ => k s)))

/-- PHEND word (R336): the next phase waits for bit 31 of a word. -/
def execPhendWord (c : BitVec 4) (p : BitVec 6) (s : State) : Host.Outcome State Fault Refusal :=
  issue (.phendWord c p) s
    (phendBody ((Instr.phendWord c p).word.zeroExtend 64) 3 c.toNat p.toNat 0 0 (fun c => c.getSS p.toNat)
      (fun s k => scalarAccess s 4 .read true (s.crew.getSS p.toNat) (fun s _ => k s)))

/-- BARARR (R340): a release at package scope, and an arrival that does not wait. -/
def execBararr (a : BitVec 8) (s : State) : Host.Outcome State Fault Refusal :=
  issue (.bararr a) s (fun s =>
    let c := s.crew
    if c.sib.sibling then .trap s 0x01 ((Instr.bararr a).word.zeroExtend 64)
    else
      let b := (c.getS a.toNat).toNat % 16
      .done ((s.release s.fkey 3).mapTask c.task (fun t =>
        ({ t with marks := t.marks.insert (c.number * 16 + b) (t.bar b).gen } : Task).arrive b c.number)))

/-- The evaluation of a wait condition by the foreman (R336): met, not met, a trap for the next phase, or an absent
page. -/
inductive WaitEval where
  | met
  | unmet
  | trap (cause : Nat) (tval : DWord)
  | absent (kind level pte : Nat)
  deriving DecidableEq, Repr

/-- Evaluate a kind 2 or kind 3 wait condition at its address. -/
def State.evalWait (s : State) (cn : Nat) (p : Phase) : WaitEval :=
  if p.kind = 2 then
    match s.queueReach cn p.addr p.depth none true with
    | .error e => .trap e.1 e.2
    | .ok i => if s.queueLen i = 0 then .unmet else .met
  else
    match s.xlateWalk cn p.addr.toNat .read with
    | .ok l =>
      if p.addr.toNat % 4 ≠ 0 then .trap 0x02 p.addr
      else if s.poisoned l.idx 4 then .trap 0x0E p.addr
      else if (s.bytes l.idx 4).testBit 31 then .met else .unmet
    | .access => .trap 0x03 p.addr
    | .bad => .trap 0x04 p.addr
    | .absent kind level pte => .absent kind level pte

/-- NEXT_PHASE_READY (R336): the foreman evaluates the wait condition of a phase that waits on a queue or a word. -/
def execNextPhaseReady (task crew : Nat) (s : State) : Host.Outcome State Fault Refusal :=
  .next (
    match s.tasks.get? task with
    | none => s
    | some t =>
      match t.phases.get? crew with
      | none => s
      | some p =>
        let put (s : State) (p : Phase) : State := s.mapTask task (fun t => { t with phases := t.phases.insert crew p })
        if p.ready ∨ (p.kind ≠ 2 ∧ p.kind ≠ 3) then s
        else
          match p.wait with
          | some ⟨_, 0⟩ => s
          | some ⟨_, 2⟩ => put s { p with ready := true, wait := none, trap := some (0x04, p.addr) }
          | _ =>
            match s.evalWait t.ctx p with
            | .met => put s { p with ready := true, wait := none }
            | .unmet => put s { p with wait := none }
            | .trap cause tval => put s { p with ready := true, wait := none, trap := some (cause, tval) }
            | .absent kind level pte =>
              let va := p.addr.toNat
              put (s.sendFault ⟨pageOf va, t.ctx, kind, 0, p.core, 0xFF, level, pte, 0, false, 0, 0, task⟩)
                { p with wait := some ⟨pageOf va, 0⟩ })

/-! ## Buffers (R348, R364) -/

/-- The lowest offset of the buffer range at which `len` bytes are free. -/
def State.bufferSpace (s : State) (core len : Nat) : Option Nat :=
  let bs := (s.core core).buffers.vals
  let lo := (s.params.bufLo + 127) / 128 * 128
  let starts := (lo :: bs.map (fun b => b.off + b.len)).mergeSort (· ≤ ·)
  starts.find? (fun o => decide (o + len ≤ s.params.bufHi) && !bs.any (fun b => spansMeet o len b.off b.len))

/-- BUFGET (R348): allocates a buffer; the issuing crew owns it. -/
def execBufget (d a : BitVec 8) (s : State) : Host.Outcome State Fault Refusal :=
  issue (.bufget d a) s (fun s =>
    let c := s.crew
    let n := (c.getS a.toNat).toNat
    let len := (n + 127) / 128 * 128
    let put (s : State) (x : Nat) : Res := .done (s.mapCrew (fun c => c.setS d.toNat (BitVec.ofNat 32 x)))
    if n < 128 ∨ 2 ^ 17 < n then put s 0xFFFFFFFE
    else
      match (s.core s.focusCore).buffers.lowestFree 32, s.bufferSpace s.focusCore len with
      | some h, some off =>
        put (s.mapCore s.focusCore (fun k => { k with buffers := k.buffers.insert h ⟨off, len, c.task, c.number, []⟩ })) h
      | _, _ => put s 0xFFFFFFFF)

/-- The buffer of a handle, if the executing crew owns it. -/
def State.ownBuffer (s : State) (h : Nat) : Option Buffer :=
  if 32 ≤ h then none
  else ((s.core s.focusCore).buffers.get? h).filter (fun b => decide (b.task = s.crew.task ∧ b.owner = s.crew.number))

/-- BUFPASS (R348): another crew of the placement group becomes the owner, after a release at core scope; a buffer that
is shared cannot be passed (R364). -/
def execBufpass (a b : BitVec 8) (s : State) : Host.Outcome State Fault Refusal :=
  issue (.bufpass a b) s (fun s =>
    let c := s.crew
    let h := (c.getS a.toNat).toNat
    let k := (c.getS b.toNat).toNat
    let bad : Res := .trap s 0x09 ((c.getS a.toNat).zeroExtend 64)
    match s.ownBuffer h, s.tasks.get? c.task with
    | some x, some t =>
      if x.share ≠ [] ∨ hdrCrews t.header ≤ k ∨ t.group k ≠ t.groupOf c then bad
      else
        let s := s.release s.fkey 1
        .done (s.mapCore s.focusCore (fun q =>
          { q with buffers := if t.seen.get? k = some 2 then q.buffers.remove h else q.buffers.insert h { x with owner := k } }))
    | _, _ => bad)

/-- BUFDROP (R348): frees a buffer; a shared one cannot be dropped (R364). -/
def execBufdrop (a : BitVec 8) (s : State) : Host.Outcome State Fault Refusal :=
  issue (.bufdrop a) s (fun s =>
    let h := (s.crew.getS a.toNat).toNat
    match s.ownBuffer h with
    | some x =>
      if x.share ≠ [] then .trap s 0x09 ((s.crew.getS a.toNat).zeroExtend 64)
      else .done (s.mapCore s.focusCore (fun q => { q with buffers := q.buffers.remove h }))
    | none => .trap s 0x09 ((s.crew.getS a.toNat).zeroExtend 64))

/-- BUFADDR (R348, R364): the buffer's address in the pool window, and an acquire at core scope. -/
def execBufaddr (d a : BitVec 8) (s : State) : Host.Outcome State Fault Refusal :=
  issue (.bufaddr d a) s (fun s =>
    let c := s.crew
    let h := (c.getS a.toNat).toNat
    let x := if 32 ≤ h then none else ((s.core s.focusCore).buffers.get? h).filter (fun b =>
      decide (b.task = c.task ∧ b.owner = c.number) || b.sharedWith c)
    match x with
    | none => .trap s 0x09 ((c.getS a.toNat).zeroExtend 64)
    | some x =>
      let base := bitsOf (s.ctx c.ctx).poolbase.toNat 56 26 * 2 ^ 26
      .done ((s.acquire s.fkey 1).mapCrew (fun c =>
        c.setSS d.toNat (BitVec.ofNat 64 (base + s.focusCore * 2 ^ 18 + x.off)))))

/-! ## Estimates and work identifiers -/

/-- ESTIM (R350): the task's remaining-time estimate in µs. -/
def execEstim (a : BitVec 8) (s : State) : Host.Outcome State Fault Refusal :=
  issue (.estim a) s (fun s => .done (s.mapTask s.crew.task (fun t => { t with estim := s.crew.getS a.toNat })))

/-- The WID of a lane (R326). -/
def Crew.wid (c : Crew) (l : Nat) : Nat := (c.widbase + BitVec.ofNat 64 l).toNat

/-- WIDRD (R355): the lane's work identifier. -/
def execWidrd (d : BitVec 8) (s : State) : Host.Outcome State Fault Refusal :=
  issueCrew (.widrd d) s (fun c => c.setLanes d.toNat 2 c.active c.wid)

/-- WIDFLD (R355): field Lk of the lane's work identifier, 0 where the task has no such field. -/
def execWidfld (d : BitVec 8) (k : BitVec 3) (s : State) : Host.Outcome State Fault Refusal :=
  issue (.widfld d k) s (fun s =>
    let h := ((s.tasks.get? s.crew.task).map Task.header).getD 0
    .done (s.mapCrew (fun c => c.setLanes d.toNat 1 c.active (fun l =>
      if k.toNat < fld h 22 1 then c.wid l / 2 ^ hdrBase h k.toNat % 2 ^ hdrWidth h k.toNat % 2 ^ 32 else 0))))

/-! ## Sweep termination (R349) -/

/-- The cores at which the sweep token can rest, from a number on. -/
def Task.sweepStop (t : Task) (n : Nat) : Option Nat := t.cores.find? (fun c => decide (n ≤ c))

/-- A core is idle for a task: every crew of the task on it has retired or waits in a kind 2 PHEND.  A crew that CTXSV has saved has not
retired, and the token rests until it is bound again (log 130). -/
def State.sweepIdle (s : State) (n : Nat) (t : Task) (core : Nat) : Bool :=
  decide (t.away = []) && !s.crews.any (fun e => decide (e.2.task = n ∧ e.1 / 64 = core)) &&
  t.phases.all (fun e => decide (e.2.core ≠ core) || (decide (e.2.kind = 2) && !e.2.ready))

/-- The task terminates at the end of a white round: every core is idle, its queues are empty and every crew has been bound. -/
def State.sweepDone (s : State) (n : Nat) (t : Task) (black : Bool) : Bool :=
  !black && t.cores.all (s.sweepIdle n t) && t.sweepQs.all (fun q => decide (s.queueHead q.1 = s.queueTail q.1)) &&
  decide ((t.seen.filter (fun e => decide (e.1 < siblingBase))).length = hdrCrews t.header)

/-- SWEEP_TOKEN_HOP (R349): the token leaves an idle core, blackened by the core's flag; back at the lowest core the task
terminates or a new white round starts. -/
def execSweepTokenHop (task : Nat) (s : State) : Host.Outcome State Fault Refusal :=
  .next (
    match s.tasks.get? task with
    | none => s
    | some t =>
      match t.sweepStop t.token.1 with
      | none => s
      | some core =>
        if t.sweepQs = [] ∨ s.sweepIdle task t core = false then s
        else
          let black := t.token.2 || t.sweepFlags.contains core
          let s := s.mapTask task (fun t => { t with
            sweepFlags := t.sweepFlags.filter (fun c => decide (c ≠ core)), token := (core + 1, black) })
          if (t.sweepStop (core + 1)).isSome then s
          else if s.sweepDone task t black then
            let s := t.phases.foldl (fun s e =>
              match e.2.recOff with
              | some off => s.record e.2.core (s.tag t.ctx) 0 (if (s.bytes (poolIdx e.2.core (off + 648)) 1).testBit 0 then 6 else 5) 0
                  (s.bytes (poolIdx e.2.core (off + 640)) 8)
              | none => s) s
            s.finishTask task 0
          else s.mapTask task (fun t => { t with token := (0, false) }))

/-! ## Gangs and pre-emption (R334, R351 to R354, R370) -/

/-- The free slots of a core that no other task has reserved. -/
def State.freeSlots (s : State) (n core : Nat) : Nat :=
  ((List.range 64).filter (fun i => (s.crews.get? (crewKey core i)).isNone &&
    decide (s.reserved.getD (crewKey core i) n = n))).length

/-- GANGTMO (R334): a gang that is still unbound at GANGTMO ends GANG_STARVED. -/
def execGangtmo (task : Nat) (s : State) : Host.Outcome State Fault Refusal :=
  .next (
    match s.tasks.get? task with
    | none => s
    | some t =>
      if (t.fld 2 1).testBit 0 ∧ t.queued = false ∧ t.seen = [] ∧ t.launched + s.params.gangTmo ≤ s.clock then
        s.finishTask task 1
      else s)

/-- A stream that a save of the crew at a slot suspends (R411): its dir 0 streams, and those of its saved region. -/
def Job.suspends (j : Job) (key : Nat) (region : Bool) : Bool :=
  decide (j.crew = key ∧ j.kind = .stream) && (decide (j.stream.dir = 0) || region)

/-- The crew controls a live region. -/
def State.controls (s : State) (key : Nat) : Bool := (s.regions.get? key).elim false Region.live

/-- The streams that a save takes along leave their gate, and the crew's STRMBARs with them (R411). -/
def State.suspendJobs (s : State) (key : Nat) : List Job × List StreamBar × State :=
  let r := s.controls key
  let core := s.core (key / 64)
  (core.jobs.filter (fun j => j.suspends key r), core.bars.filter (fun b => decide (b.crew = key)),
    s.mapCore (key / 64) (fun c => { c with
      jobs := c.jobs.filter (fun j => !j.suspends key r), bars := c.bars.filter (fun b => decide (b.crew ≠ key)) }))

/-- The live region that the crew controls or handles for has taken the save stop (R412). -/
def State.regionSaved (s : State) (key : Nat) : Bool :=
  s.regions.all (fun e => !e.2.live || decide (e.2.saving = 2) || !(decide (e.1 = key) || e.2.handlers.contains key))

/-- The crew at a slot can be saved now: its jobs other than the suspended streams have ended, no peer is awaited, and
its region has taken the save stop. -/
def State.canSave (s : State) (key : Nat) : Bool :=
  !(s.core (key / 64)).jobs.any (fun j => decide (j.crew = key) && !(j.suspends key (s.controls key) && j.result.isNone)) &&
  !((s.crews.getD key Crew.blank).pend.any (fun p => p.kind.isRemote)) && s.regionSaved key

/-- The accesses and tile operations of the crew at a slot complete. -/
def State.settleAt (s : State) (key : Nat) : State :=
  (s.perform key (fun _ => true)).broadcastThrough (key / 64) (fun o => decide (o.crew = key))

/-- A crew leaves its slot with its context saved (R339, R412). -/
def State.unbindSaved (s : State) (key tag : Nat) : State :=
  let s := (s.packet key 10 2).dropCrew key tag
  { s with regions := s.regions.remove key }

/-- The claimed tiles of a crew. -/
def State.tilesOf (s : State) (key : Nat) (c : Crew) : SMap Tile :=
  (List.range 8).filterMap (fun i => if c.tiles.getLsbD i then some (i, s.tile (key / 64) i) else none)

/-- What a saved context keeps of a crew: its branch outcomes have been written (R432), and an instruction that waits is left unexecuted. -/
def Crew.savedCopy (c : Crew) : Crew :=
  { c with
    lastPage := [], bmap := []
    waiting := match c.waiting with
      | some (.mma _ _ _) => none
      | w => w }

/-- The bytes of the context save area of the crew at a slot (Table 17.5), with the streams that a save suspends and its region (R411, R413). -/
def State.saveBytesAt (s : State) (key : Nat) (c : Crew) : List Nat :=
  let js := (s.core (key / 64)).jobs.filter (fun j => j.suspends key (s.controls key))
  let rs := (s.regions.get? key).elim [] (fun r => r.saveBytes (js.filter (fun j => decide (j.stream.dir ≠ 0))))
  c.areaBytes (s.tilesOf key c) js rs

/-- An area has been written, and the foreman keeps with its bytes what they do not hold (log 49). -/
def State.keepArea (s : State) (key : Nat) (c : Crew) (bytes : Nat) (js : List Job) (bars : List StreamBar) : State :=
  { s with savedAreas :=
      ⟨bytes, c.ctx, c.number, s.regions.get? key, js, bars, c.gramReport, c.gramFlags⟩ ::
        s.savedAreas.filter (fun e => decide (e.bytes ≠ bytes)) }

/-- A crew is unbound with its whole context by the foreman (R339, R352, R370, R439): the foreman writes its save area (R410, R467), and a waiting
phase keeps the crew, its streams, its tiles and its region for the rebind (log 117).  A switch to spatial mode that has not committed is
abandoned (R293); a sibling that has been cut retires (R361). -/
def State.saveWhole (s : State) (key : Nat) : State :=
  if (s.crews.get? key).elim false Crew.cut then s.cutBoundary key
  else
  let s := (s.abandonSpent key).settleAt key
  let area := packElems 8 (s.saveBytesAt key (s.crews.getD key Crew.blank))
  let (js, bars, s) := s.suspendJobs key
  match s.crews.get? key with
  | none => s
  | some c =>
    let p : Phase :=
      { kind := 0, addr := 0, depth := 0, bar := 0, gen := 0, core := key / 64, recOff := none
        whole := some c.savedCopy, jobs := js, bars := bars, tiles := s.tilesOf key c, region := s.regions.get? key
        ready := true, wait := none, trap := none }
    ((s.keepArea key c area js bars).unbindSaved key 0).mapTask c.task (fun t => { t with phases := t.phases.insert c.number p })

/-- The row of Table 14.5 that applies to a bound task, for a newcomer. -/
def State.preemptRow (s : State) (t u : Task) : Nat :=
  if t.estim.toNat ≤ s.params.drainThr then 1
  else if (t.fld 2 1).testBit 1 then 2
  else if (t.fld 2 1).testBit 2 ∧ s.params.killLvl ≤ u.fld 23 1 then 3
  else 4

/-- A pre-emption notice reaches the coppice units (R358, R370): a whole-mode coppice with a RUNNING sibling in a slot that is taken has its
timer suspended, and every RUNNING sibling of it that is bound is to be unbound. -/
def State.suspendCoppices (s : State) (slots : List Nat) : State :=
  let s := s.coppices.foldl (fun (s : State) c => s.expireCoppice c.ctx c.va) s
  { s with coppices := s.coppices.map (fun c =>
      let mine (x : Crew) : Bool := x.sib.sibling && decide (x.ctx = c.ctx ∧ x.number = c.crew x.sib.index) &&
        decide ((c.sib x.sib.index).state = 1)
      if c.mode = 1 ∧ c.phase = 2 ∧ c.suspended = none ∧ slots.any (fun k => (s.crews.get? k).elim false mine)
      then { c with suspended := some (s.clock, (s.crews.filter (fun e => mine e.2)).map (fun e => e.2.sib.index)) } else c) }

/-- The bound siblings of suspended coppices that are to be unbound (R370). -/
def State.wholeSiblings (s : State) : List Nat :=
  s.coppices.flatMap (fun c =>
    match c.suspended with
    | none => []
    | some (_, named) => (s.crews.filter (fun e => e.2.sib.sibling && decide (e.2.ctx = c.ctx ∧ e.2.number = c.crew e.2.sib.index) &&
        named.contains e.2.sib.index)).map Prod.fst)

/-- The live regions of the tasks of slots that take in the slots' cores: keys of control crews. -/
def State.takenRegions (s : State) (slots : List Nat) : List Nat :=
  (s.regions.filter (fun e => e.2.live && slots.any (fun k => e.2.cores.contains (k / 64) && decide (s.taskAt e.1 = s.taskAt k)))).map Prod.fst

/-- The crews that a checkpoint of slots unbinds at once: the siblings of suspended coppices (R370), the control crews of saved regions and
the crews that a region keeps parked (R413), and crews parked on a fault (R352). -/
def State.savedNow (s : State) (slots : List Nat) : List Nat :=
  (s.wholeSiblings ++ (s.takenRegions slots) ++ slots.filter (fun k =>
    ((s.crews.get? k).bind Crew.park).isSome ||
      (s.regionAt (k / 64)).elim false (fun e => decide (s.taskAt e.1 ≠ s.taskAt k) || decide (e.2.saving = 2)))).dedup

/-- A checkpoint takes slots (Table 14.5 row 2), or goes on with them: whole-mode coppices are suspended, regions take the save stop, and those
crews that need not reach a PHEND are unbound with their whole context as soon as their jobs have ended; the others leave at their next
PHEND. -/
def State.checkpoint (s : State) (slots : List Nat) : State :=
  let s := s.suspendCoppices slots
  let s := (s.takenRegions slots).foldl State.saveStop s
  (s.savedNow slots).foldl (fun (s : State) k => if s.canSave k then s.saveWhole k else s) s

/-- A pre-emption reaches slots (R293): switches to spatial mode that name a core of one and have not committed are abandoned. -/
def State.preempt (s : State) (slots : List Nat) : State :=
  (s.abandonSpents (fun _ r => slots.any (fun k => r.cores.contains (k / 64)))).checkpoint slots

/-- The slots, all reserved for a task, of which some still hold crews of others: a checkpoint that goes on (R334, R351). -/
def State.waitsFor (s : State) (task : Nat) (slots : List Nat) : Bool :=
  decide (slots ≠ []) && slots.all (fun k => decide (s.reserved.get? k = some task))

/-- GANGWAIT (R334): a gang that has waited GANGWAIT has the named slots reserved: they hold phases of equal or lower
class of checkpointable tasks, bound for GANGWAIT, and together with the free slots they are enough.  They are checkpointed: each at its
next PHEND, or at once where its crew is parked (R352).  For slots that are already reserved the checkpoint goes on. -/
def execGangwait (task : Nat) (slots : List Nat) (s : State) : Host.Outcome State Fault Refusal :=
  .next (
    match s.tasks.get? task with
    | none => s
    | some t =>
      let ok (k : Nat) : Bool :=
        match s.crews.get? k with
        | none => false
        | some c =>
          decide (c.prio ≤ t.fld 3 1 % 4) && decide (c.boundAt + s.params.gangWait ≤ s.clock) && decide (c.task ≠ task) &&
          ((s.tasks.get? c.task).elim false (fun u => (u.fld 2 1).testBit 1)) && (s.reserved.get? k).isNone
      let free := (((List.range 192).filter s.coreLive).map (s.freeSlots task)).sum
      if !t.unboundGang ∨ t.queued then s
      else if s.waitsFor task slots then s.checkpoint slots
      else if s.clock < t.launched + s.params.gangWait ∨ !slots.all ok ∨ free + slots.dedup.length < hdrCrews t.header then s
      else ({ s with reserved := slots.foldl (fun m k => m.insert k task) s.reserved } : State).preempt slots)

/-- The places that the waiting crews of a task may take (R327): a core each, or any. -/
def Task.wants (t : Task) : List (Option Nat) :=
  t.bindable.map (fun k =>
    match t.phases.get? k with
    | some p => some p.core
    | none => t.groups.get? (t.group k))

/-- The slots of a core that a task has reserved and that others still hold. -/
def State.heldReserved (s : State) (n core : Nat) : Nat :=
  (s.reserved.filter (fun e => decide (e.2 = n ∧ e.1 / 64 = core) && (s.crews.get? e.1).isSome)).length

/-- The waiting crews of a task that must be bound on a core and lack a slot there, beyond those that it has or is about to have. -/
def State.shortOn (s : State) (n : Nat) (u : Task) (core : Nat) : Nat :=
  (u.wants.filter (fun w => decide (w = some core))).length - (s.freeSlots n core + s.heldReserved n core)

/-- The waiting crews of a task that may be bound on any core and lack a slot everywhere. -/
def State.shortAny (s : State) (n : Nat) (u : Task) : Nat :=
  (u.wants.filter (fun w => decide (w = none))).length -
    (((List.range 192).filter s.coreBinds).map (fun c =>
      s.freeSlots n c + s.heldReserved n c - (u.wants.filter (fun w => decide (w = some c))).length)).sum

/-- The slots of a core that the waiting crews of a task lack. -/
def State.lacking (s : State) (n : Nat) (u : Task) (core : Nat) : Nat :=
  s.shortOn n u core + (if s.coreBinds core then s.shortAny n u else 0)

/-- The slots that the waiting crews of a task lack altogether (R351). -/
def State.short (s : State) (n : Nat) (u : Task) : Nat :=
  ((List.range 192).map (s.shortOn n u)).sum + s.shortAny n u

/-- The class of a task. -/
def Task.cls (t : Task) : Nat := t.fld 3 1 % 4

/-- The choice may fall on a task (R351): it is of lower class, and of the bound tasks of lower class that hold slots, not yet taken, on the
newcomer's cores it is the one of lowest class and, among those, of lowest number. -/
def State.chosen (s : State) (n : Nat) (u : Task) (victim : Nat) (t : Task) : Bool :=
  let held (v : Nat) : Bool := s.crews.any (fun e => decide (e.2.task = v) && (s.reserved.get? e.1).isNone && decide (0 < s.lacking n u (e.1 / 64)))
  decide (t.cls < u.cls) && !s.tasks.any (fun e => decide (e.2.cls < u.cls) &&
    (decide (e.2.cls < t.cls) || (decide (e.2.cls = t.cls) && decide (e.1 < victim))) && held e.1)

/-- PREEMPTION_CHOICE (R351): crews of a newcomer lack slots on the cores of the named slots, which the victim holds.  The foreman takes no
more slots than crews lack one, applies the first matching row of Table 14.5 and records it; which of the victim's phases end first is the
foreman's to say (log 25).  Once the choice is made, the same slots named again let its checkpoint go on; with no slot named, those siblings
go that a whole-mode choice named and that could not be saved at once (R370). -/
def execPreemptionChoice (newcomer victim : Nat) (slots : List Nat) (s : State) : Host.Outcome State Fault Refusal :=
  .next (
    match s.tasks.get? newcomer, s.tasks.get? victim with
    | some u, some t =>
      let row := s.preemptRow t u
      let ok := slots.all (fun k => decide (s.taskAt k = some victim) && (s.reserved.get? k).isNone &&
        decide ((slots.filter (fun x => decide (x / 64 = k / 64))).length ≤ s.lacking newcomer u (k / 64)))
      if slots = [] then s.checkpoint []
      else if s.waitsFor newcomer slots then (if row = 2 then s.checkpoint slots else s)
      else if !ok ∨ u.queued ∨ !s.chosen newcomer u victim t ∨ slots.dedup.length ≠ slots.length ∨ s.short newcomer u < slots.length then s
      else
        let s := s.recordForeman t.die 0 2 3 (victim + newcomer * 2 ^ 16 + (row - 1) * 2 ^ 32 + min t.estim.toNat (2 ^ 30 - 1) * 2 ^ 34)
        let keep (s : State) : State := { s with reserved := slots.foldl (fun m k => m.insert k newcomer) s.reserved }
        if row = 1 then keep s
        else if row = 2 then (keep s).preempt slots
        else if row = 3 then s.killTask victim 3
        else s
    | _, _ => s)

end Sys2Proof.Machine
end

