-- ==== Sys2Proof/Machine/Coppice.lean ====
section
/-! DEFINITION. Coppice instructions, opcodes 0xD0 to 0xD5 (R357 to R373), and the deadline of a coppice. -/

namespace Sys2Proof.Machine

/-- The first 16 bytes of a record name a legal coppice (Table 15.1): n, mode, byte 3, ε, timeout. -/
def coppiceOk (h : Nat) : Bool :=
  decide (1 ≤ fld h 0 2 ∧ fld h 0 2 ≤ 64) && decide (fld h 2 1 ≤ 1) && decide (fld h 3 1 = 0) &&
  decide (fld h 4 4 < 0x7F800000) && decide (1 ≤ fld h 8 8 ∧ fld h 8 8 ≤ 2 ^ 40)

/-- Check every byte of a range of the executing crew for Rd and W, then go on (R362); `load` says that the bytes are read. -/
def rangeCheck (s : State) (va n : Nat) (load : Bool) (act : State → List LaneXlat → Res) : Res :=
  match s.classify s.focusCore none s.crew.ctx 1 .both load ((List.range n).map (fun i => (0, va + i))) with
  | (.trap cause tval, s) => .trap s cause tval
  | (.go xs [], s) => act s xs
  | (.go _ absent, s) => .hold (s.parkOn s.crew.am .both absent)

/-- A coppice as CPINIT opens it (R362). -/
def newCoppice (cn va die task core h : Nat) : Coppice where
  ctx := cn
  va := va
  die := die
  task := task
  core := core
  n := fld h 0 2
  mode := fld h 2 1
  eps := BitVec.ofNat 32 (fld h 4 4)
  timeout := fld h 8 8
  deadline := 0
  phase := 1
  status := 1
  mu := 0
  sigma := 0
  first := 0
  sibs := List.replicate (fld h 0 2) ⟨0, 0, 0, 0, false⟩
  suspended := none

/-- CPINIT (R362): arms a coppice record. -/
def execCpinit (d a : BitVec 8) (s : State) : Host.Outcome State Fault Refusal :=
  issue (.cpinit d a) s (fun s =>
    let va := s.crew.getSS a.toNat
    let put (s : State) (x : Word) : Res := .done (s.mapCrew (fun c => c.setS d.toNat x))
    if va.toNat % 256 ≠ 0 then .trap s 0x02 va
    else
      rangeCheck s va.toNat 16 true (fun s xs =>
        let s := s.pocRead xs
        let h := s.placeBytes xs
        let cn := s.crew.ctx
        if (s.coppice? cn va.toNat).isSome then put s 0xFFFFFFFD
        else if !coppiceOk h then put s 0xFFFFFFFE
        else
          rangeCheck s va.toNat (256 + 16 * fld h 0 2) false (fun s xs =>
            let die := dieOf s.focusCore
            if 16 ≤ (s.coppices.filter (fun c => decide (c.die = die))).length then put s 0xFFFFFFFF
            else
              let p := s.crew.pendOf .store 1 xs (fun _ => 0) (fun _ => 0) (fun _ => [])
              let s := (s.perform s.fkey (fun q => q.precedes p)).requests s.focusCore cn (xs.drop 16)
              let bytes := layout [(16, h), (4, 1), (20, 0), (2, s.crew.task), (2, s.focusCore)]
              let s := (xs.zipIdx.drop 16).foldl (fun s e =>
                s.writeAt s.focusCore e.1.loc 1 (fld bytes e.2 1)) s
              let c := newCoppice cn va.toNat die s.crew.task s.focusCore h
              put { s with coppices := s.coppices ++ [c] } 0)))

/-- A sibling as SPROUT creates it (R360, R338). -/
def siblingOf (p : Crew) (c : Coppice) (d i : Nat) : Crew :=
  let k := { p.retireInstr.next with
    number := c.crew i, tiles := 0, frames := [], remstat := 0
    sib := { record := BitVec.ofNat 64 c.va, index := i, sibling := true, delivered := false, advantage := 0 }
    gramReport := 0, gramFlags := 0, pend := [], tokens := [], unobs := [], skids := [], lastPage := []
    savedTrap := none, bmap := [] }
  k.setS d (BitVec.ofNat 32 i)

/-- A sibling waits to be bound on the sprouting crew's core, as a checkpointed phase does (R360). -/
def siblingPhase (core : Nat) (c : Crew) : Phase :=
  { kind := 0, addr := 0, depth := 0, bar := 0, gen := 0, core := core, recOff := none, whole := some c, jobs := []
    tiles := [], region := none, ready := true, wait := none, trap := none }

/-- The creation of the siblings (R363). -/
def State.sprout (s : State) (c : Coppice) (d : Nat) (share : Option Nat) : State :=
  let p := s.crew
  let task := p.task
  let c := { c with
    core := s.focusCore, deadline := s.clock + c.timeout, phase := 2, status := 2
    first := ((s.tasks.get? task).map Task.nextSib).getD siblingBase
    sibs := c.sibs.map (fun _ => ⟨1, 0, 0, 0, true⟩) }
  let s := s.putCoppice c
  let s := (List.range c.n).foldl (fun s i => (s.recordCoppice c i 1 true).writeSib c i) s
  let s := s.unitWrite c.ctx (c.va + 16) 4 2
  let s := s.unitWrite c.ctx (c.va + 32) 8 c.deadline
  let s := s.unitWrite c.ctx (c.va + 42) 2 s.focusCore
  let s := s.mapTask task (fun t => { t with
    nextSib := t.nextSib + c.n
    phases := (List.range c.n).foldl (fun m i => m.insert (c.crew i) (siblingPhase s.focusCore (siblingOf p c d i))) t.phases })
  match share with
  | none => s
  | some h => s.mapCore s.focusCore (fun k => { k with
      buffers := match k.buffers.get? h with
        | some b => k.buffers.insert h { b with share := c.first :: b.share }
        | none => k.buffers })

/-- The crew's jobs other than its dir 0 streams (R211). -/
def State.otherJobs (s : State) (key : Nat) : Bool :=
  (s.core (key / 64)).jobs.any (fun j => decide (j.crew = key) && !decide (j.kind = .stream ∧ j.stream.dir = 0))

/-- SPROUT (R363): creates the siblings of an armed coppice. -/
def execSprout (d a b : BitVec 8) (s : State) : Host.Outcome State Fault Refusal :=
  issue (.sprout d a b) s (fun s =>
    let c := s.crew
    let h := c.getS b.toNat
    if c.sib.sibling then .trap s 0x01 ((Instr.sprout d a b).word.zeroExtend 64)
    else if c.paths ≠ [] ∨ c.am ≠ c.live then .trap s 0x06 (c.pc.zeroExtend 64)
    else if h ≠ 0xFFFFFFFF ∧ (s.ownBuffer h.toNat).isNone then .trap s 0x09 (h.zeroExtend 64)
    else
      match (s.coppice? c.ctx (c.getSS a.toNat).toNat).filter (fun x => decide (x.phase = 1 ∧ x.task = c.task)) with
      | none => .done (s.mapCrew (fun c => c.setS d.toNat 0xFFFFFFFF))
      | some x =>
        if s.otherJobs s.fkey then .hold s
        else
          let s := s.settleCrew.release s.fkey 3
          if s.crew.pend ≠ [] ∨ s.crew.savedTrap.isSome then .hold s
          else
            let s := s.sprout x d.toNat (if h = 0xFFFFFFFF then none else some h.toNat)
            .done (s.mapCrew (fun c => c.setS d.toNat (BitVec.ofNat 32 (2 ^ 31 + x.n)))))

/-- The bits of a reward are a finite FP32 value. -/
def finite32 (x : Word) : Bool := decide (x.toNat % 2 ^ 31 < 0x7F800000)

/-- The arrival of a sibling's reward at the unit, and what follows for the sibling (R365).  A deadline that has come is taken first (R367). -/
def rewardArrives (carry : Nat) (r : Word) (s : State) : Res :=
  let c := s.crew
  let va := c.sib.record.toNat
  let s := s.expireCoppice c.ctx va
  match (s.coppice? c.ctx va).filter (fun x => decide (x.crew c.sib.index = c.number)) with
  | none => .done s
  | some x =>
    let i := c.sib.index
    let y := x.sib i
    let tick := BitVec.ofNat 32 s.clock
    if y.state = 1 then
      if (s.tasks.get? c.task).isNone then .hold s
      else
        let x := x.setSib i { y with reward := r, tick := tick }
        let (x, s) := s.setSibState x i (if finite32 r then 2 else 5)
        let s := s.writeSib x i
        let s := s.endPhase 4 carry 0 c.sib.record 0 0
        .gone (s.checkCoppice c.ctx va)
    else if y.state = 4 then
      let x := x.setSib i { y with reward := r, tick := tick }
      .done ((s.putCoppice x).writeSib x i)
    else .done s

/-- REWARD (R365): deposits a sibling's reward and ends its phase at the coppice barrier. -/
def execReward (a : BitVec 8) (c : BitVec 4) (s : State) : Host.Outcome State Fault Refusal :=
  issue (.reward a c) s (fun s =>
    let k := s.crew
    if !k.sib.sibling || decide (k.carry.length ≤ c.toNat) then .trap s 0x01 ((Instr.reward a c).word.zeroExtend 64)
    else if k.paths ≠ [] ∨ k.am ≠ k.live then .trap s 0x06 (k.pc.zeroExtend 64)
    else
      if s.hasJobs s.fkey then .hold s
      else
        let s := s.settleCrew
        if s.crew.pend ≠ [] ∨ s.crew.savedTrap.isSome then .hold s else rewardArrives c.toNat (k.getS a.toNat) (s.release s.fkey 3))

/-- The effect of CUT on a sibling of an open or held coppice (R366): the token, and whether it retires. -/
def cutResult (x : Coppice) (i : Nat) : Nat × Bool :=
  let y := x.sib i
  if y.state = 1 then (1, true) else if y.state = 4 ∧ y.alive then (4, true) else (y.state, false)

/-- CUT (R366): cancels a sibling; its retirement is at its next instruction boundary. -/
def execCut (d a b : BitVec 8) (s : State) : Host.Outcome State Fault Refusal :=
  issue (.cut d a b) s (fun s =>
    let c := s.crew
    let va := (c.getSS a.toNat).toNat
    let i := (c.getS b.toNat).toNat
    let put (s : State) (x : Nat) : State := s.mapCrew (fun c => c.setS d.toNat (BitVec.ofNat 32 x))
    let s := s.expireCoppice c.ctx va
    match (s.coppice? c.ctx va).filter (fun x => decide (x.task = c.task)) with
    | none => .done (put s 0xFFFFFFFF)
    | some x =>
      if x.n ≤ i then .done (put s 0xFFFFFFFE)
      else
        let (code, goes) := cutResult x i
        let s := put s code
        if !goes then .done s
        else
          let s := if (x.sib i).state = 1 then (s.setSibState x i 3).2 else s
          let k := x.crew i
          let sib : Sibling := ⟨BitVec.ofNat 64 va, i, true, false, 0⟩
          let s := s.checkCoppice c.ctx va
          match s.keyOf c.task k with
          | some key => .done (s.mapCrewAt key (fun q => { q with cut := true }))
          | none => .done (s.retireCut c.task k c.ctx sib))

/-- CPSTAT (R372): the state of a coppice, from its unit or from its record. -/
def execCpstat (d a sel : BitVec 8) (s : State) : Host.Outcome State Fault Refusal :=
  issue (.cpstat d a sel) s (fun s =>
    let c := s.crew
    let va := c.getSS a.toNat
    let put (s : State) (x y : Word) (done_ : Bool) : Res :=
      let s := s.mapCrew (fun c => (c.setS d.toNat x).setS (d.toNat + 1) y)
      .done (if done_ then s.acquire s.fkey 3 else s)
    let s := s.expireCoppice c.ctx va.toNat
    match (s.coppice? c.ctx va.toNat).filter (fun x => decide (x.phase < 3)) with
    | some x => if sel = 0 then put s x.status (BitVec.ofNat 32 x.n) false else put s x.mu x.sigma false
    | none =>
      structRead s va 32 4 (fun s h =>
        let st := BitVec.ofNat 32 (fld h 16 4)
        if sel = 0 then put s st (BitVec.ofNat 32 (fld h 0 2)) (st.getLsbD 31)
        else put s (BitVec.ofNat 32 (fld h 24 4)) (BitVec.ofNat 32 (fld h 28 4)) (st.getLsbD 31)))

/-- CPADV (R373): the advantage delivered to the sibling, or NaN_c. -/
def execCpadv (d : BitVec 8) (s : State) : Host.Outcome State Fault Refusal :=
  issue (.cpadv d) s (fun s =>
    let c := s.crew
    if !c.sib.sibling then .trap s 0x01 ((Instr.cpadv d).word.zeroExtend 64)
    else .done (s.mapCrew (fun c => c.setS d.toNat (if c.sib.delivered then c.sib.advantage else nanC))))

/-- COPPICE_DEADLINE (R367): at the deadline RUNNING siblings become LATE and the barrier completes. -/
def execCoppiceDeadline (ctx va : Nat) (s : State) : Host.Outcome State Fault Refusal := .next (s.expireCoppice ctx va)

end Sys2Proof.Machine
end

