-- ==== Sys2Proof/Machine/Host.lean ====
section
/-! DEFINITION. What the device tells the host: control records (R444) and interrupts (R440), and the answers to fault
records (R164, R167). -/

namespace Sys2Proof.Machine

/-- The function that owns a context. -/
def State.ownerOf (s : State) (cn : Nat) : Nat := (s.ctx cn).owner

/-- A fault record as 32 bytes (R163). -/
def FaultRec.toNat (r : FaultRec) : Nat :=
  layout [(8, r.va), (2, r.ctx), (1, r.kind), (1, r.access), (2, r.core), (1, r.slot), (1, r.level), (8, r.pte)]

/-! ## Answering fault records -/

/-- A page's answer reaches a parked crew (R161): 1 served, 2 refused. -/
def Crew.answerPage (c : Crew) (cn va answer : Nat) : Crew :=
  if c.ctx ≠ cn then c
  else { c with park := c.park.map (fun p => { p with
    pages := p.pages.map (fun g => if g.va = va ∧ g.answer = 0 then { g with answer := answer } else g) }) }

/-- A page's answer to one waiting agent. -/
def ParkPage.take (g : ParkPage) (va answer : Nat) : ParkPage :=
  if g.va = va ∧ g.answer = 0 then { g with answer := answer } else g

/-- A page of a context is answered (R164, R167): every crew parked on it, bound or not, every spatial slot, completion
store, wait condition and launch that waits for it. -/
def State.answerPage (s : State) (cn va answer : Nat) : State :=
  let region (r : Region) : Region :=
    if r.ctx ≠ cn then r
    else { r with
      cwPark := r.cwPark.map (fun (g : ParkPage) => g.take va answer)
      slots := r.slots.mapVals (fun (x : SpSlot) => { x with fault := x.fault.map (fun (g : ParkPage) => g.take va answer) }) }
  let s : State := { s with
    crews := s.crews.mapVals (fun (c : Crew) => c.answerPage cn va answer)
    regions := s.regions.mapVals region
    savedAreas := s.savedAreas.map (fun (a : SavedArea) => { a with region := a.region.map region })
    tasks := s.tasks.mapVals (fun (t : Task) =>
      if t.ctx ≠ cn then t
      else { t with
        page := t.page.map (fun (g : ParkPage) => g.take va answer)
        phases := t.phases.mapVals (fun (p : Phase) => { p with
          wait := p.wait.map (fun (g : ParkPage) => g.take va answer), whole := p.whole.map (fun (c : Crew) => c.answerPage cn va answer)
          region := p.region.map region }) }) }
  let mine (d : DoneStore) : Bool := decide (d.ctx = cn ∧ d.page.va = va)
  let ds := s.doneStores.filter mine
  let s : State := { s with doneStores := s.doneStores.filter (fun d => !mine d) }
  if answer = 1 then ds.foldl (fun s d => s.storeDone d.ctx 0 d.va d.value) s else s

/-- A record leaves a die's fault queue with an answer; those for the same page go with it (R164). -/
def State.answerFault (s : State) (die : Nat) (r : FaultRec) (answer : Nat) : State :=
  let same (q : FaultRec) : Bool := decide (q.ctx = r.ctx ∧ q.va = r.va)
  let s := ((s.die die).faults.filter same).foldl (fun s q => s.recordFault q answer) s
  let s := s.mapDie die (fun d => { d with faults := d.faults.filter (fun q => !same q) })
  s.answerPage r.ctx r.va answer

/-- Records that waited in cores for room in a die's queue enter it (R169). -/
def State.admitFaults (s : State) (die : Nat) : State :=
  (List.range 24).foldl (fun s i =>
    let core := die * 24 + i
    (s.core core).faultWait.foldl (fun s r =>
      if (s.die die).faults.length < 1024 then
        (s.mapCore core (fun c => { c with faultWait := c.faultWait.tail })).mapDie die (fun d =>
          { d with faults := d.faults ++ [{ r with entered := s.clock }] })
      else s) s) s

end Sys2Proof.Machine
end

