-- ==== Sys2Proof/Machine/System.lean ====
section
/-! DEFINITION. Traps by instruction, system registers, HALT, CLOCK and TLBI: opcodes 0xE4 to 0xE8 and 0xED to 0xEF
(R397 to R409). -/

namespace Sys2Proof.Machine

/-! ## TRAP, BRK, TRAPRET -/

/-- TRAP (R404): raises USER with its immediate. -/
def execTrap (i : BitVec 16) (s : State) : Host.Outcome State Fault Refusal :=
  issue (.trap i) s (fun s => .trap s 0x10 (i.zeroExtend 64))

/-- The executing crew halts with its PC at `pc` (R404, R407): a HALT event and a control record. -/
def State.haltCrew (s : State) (pc : PcWord) (brk : Bool) : State :=
  let c := s.crew
  let s := s.recordCrew s.fkey 0 7 (pcBits c.pc.toNat + (if brk then 2 ^ 55 else 0))
  let s := s.postRecord (s.ownerOf c.ctx) 2 (layout [(2, s.focusCore), (1, s.focusSlot), (5, 0), (8, pc.toNat)])
  s.mapCrew (fun c => { c with halted := true })

/-- BRK (R404): raises BREAK with its immediate, or halts the crew when DBGCTL.brkhalt is 1. -/
def execBrk (i : BitVec 16) (s : State) : Host.Outcome State Fault Refusal :=
  issue (.brk i) s (fun s =>
    if (s.ctx s.crew.ctx).dbgctl.getLsbD 1 then .hold (s.haltCrew s.crew.pc true) else .trap s 0x11 (i.zeroExtend 64))

/-- TRAPRET (R405): pops the top frame; its checks come before any change.  A frame PC that is no PC traps as at any
instruction that would place it (R27, R75; log 50).  Where it retires the crew, TRAPOUT names the frame's PC (R419; log 119). -/
def execTrapret (s : State) : Host.Outcome State Fault Refusal :=
  issue .trapret s (fun s =>
    let c := s.crew
    match c.frames with
    | [] => .trap s 0x01 ((Instr.trapret).word.zeroExtend 64)
    | f :: rest =>
      if c.paths.length ≠ bitsOf f.cause.toNat 11 8 ∨ (f.mask &&& c.live = 0 ∧ c.paths = [] ∧ c.live ≠ 0) then
        .trap s 0x06 (c.pc.zeroExtend 64)
      else
        let am := f.mask &&& c.live
        let c : Crew := { c with
          mode := f.mode.extractLsb' 0 16, modex := f.mode.extractLsb' 16 16, frames := rest, am := am }
        let deadline := (f.deadline.filter (fun d => decide (f.pc = d.1.zeroExtend 64))).map Prod.snd
        if am ≠ 0 then
          match badTarget f.pc with
          | some cause => .trap s cause f.pc
          | none => .resume (s.setCrew { c with deadline := deadline }) (f.pc.truncate 57)
        else
          match c.popPath with
          | some c => .jump (s.setCrew c) c.pc
          | none => retireBody (fun s =>
              (s.recordCrew s.fkey 0 2 (pcBits f.pc.toNat + rest.length * 2 ^ 55)).packet s.fkey 8 0) s)

/-! ## System registers -/

/-- A field of the top trap frame, 0 without one (R402). -/
def Crew.topFrame (c : Crew) (f : Frame → DWord) : DWord := (c.frames.head?.map f).getD 0

/-- The value of a system register (Table 17.2, Table 18.5). -/
def State.sysRead (s : State) (n : Nat) : DWord :=
  let c := s.crew
  let x := s.ctx c.ctx
  match n with
  | 0x000 => c.tvec
  | 0x001 => BitVec.ofNat 64 c.frames.length
  | 0x002 => c.topFrame Frame.pc
  | 0x003 => c.topFrame Frame.mask
  | 0x004 => c.topFrame (fun f => f.mode.zeroExtend 64)
  | 0x005 => c.topFrame (fun f => f.cause.zeroExtend 64)
  | 0x006 => c.topFrame Frame.tval
  | 0x007 => c.remstat.zeroExtend 64
  | 0x008 => BitVec.ofNat 64 (s.focusSlot + s.focusCore * 2 ^ 8 + c.task % 2 ^ 16 * 2 ^ 16)
  | 0x009 => BitVec.ofNat 64 x.level
  | 0x00A => x.dbgctl.zeroExtend 64
  | 0x010 => x.vaultbase
  | 0x011 => x.poolbase
  | 0x012 => x.ptroot
  | 0x013 => x.migthr.zeroExtend 64
  | 0x014 => BitVec.ofNat 64 (c.ctx % 2 ^ 16)
  | 0x015 => x.tenant.zeroExtend 64
  | 0x016 => x.migq
  | 0x017 => x.migqht.zeroExtend 64
  | 0x018 => x.migovf.zeroExtend 64
  | 0x020 => (s.core s.focusCore).killdrop.zeroExtend 64
  | 0x030 => x.cntctl.zeroExtend 64
  | 0x031 => x.cntovf.zeroExtend 64
  | 0x032 => x.capctl.zeroExtend 64
  | 0x033 => c.path
  | _ => x.trcstat.zeroExtend 64

/-- SREAD (R406): copies a system register; a read of MIGOVF clears it (R169). -/
def execSread (d : BitVec 8) (i : BitVec 16) (s : State) : Host.Outcome State Fault Refusal :=
  issue (.sread d i) s (fun s =>
    let x := s.sysRead i.toNat
    let s := s.mapCrew (fun c => if sysWide i.toNat then c.setSS d.toNat x else c.setS d.toNat (x.truncate 32))
    .done (if i.toNat = 0x018 then s.mapCtx s.crew.ctx (fun c => { c with migovf := 0 }) else s))

/-- The bits that a write of a system register must leave 0 (R403, R406). -/
def sysReserved (n : Nat) : DWord :=
  match n with
  | 0x000 => 0xFE00000000000003
  | 0x004 => 0xFFC00000
  | 0x00A => 0xFFFFFFFC
  | 0x010 => 0xFE0000003FFFFFFE
  | 0x011 => 0xFE00000003FFFFFE
  | 0x012 => 0xFFF0000000001FFF
  | 0x013 => 0xFFFF0000
  | 0x015 => 0xFFFFF000
  | 0x016 => 0xFE00000000000FF0
  | 0x030 => 0xFFFFFFFE
  | 0x031 => 0xFFFFF800
  | 0x032 => 0xFFFFFFFE
  | _ => 0

/-- The register belongs to the crew (Table 17.2). -/
def sysOfCrew (n : Nat) : Bool := decide (n ∈ [0x000, 0x002, 0x004, 0x007])

/-- A write of a crew register (R406); a frame field needs a frame. -/
def Crew.sysWrite (c : Crew) (n : Nat) (x : DWord) : Option Crew :=
  match n with
  | 0x000 => some { c with tvec := x }
  | 0x002 => match c.frames with
    | [] => none
    | f :: rest => some { c with frames := { f with pc := x } :: rest }
  | 0x004 => match c.frames with
    | [] => none
    | f :: rest => some { c with frames := { f with mode := x.truncate 32 } :: rest }
  | _ => some { c with remstat := 0 }

/-- A write of a context register (R403, R169, R434). -/
def Ctx.sysWrite (c : Ctx) (n : Nat) (x : DWord) : Ctx :=
  let w : Word := x.truncate 32
  match n with
  | 0x00A => { c with dbgctl := w }
  | 0x010 => { c with vaultbase := x }
  | 0x011 => { c with poolbase := x }
  | 0x012 => { c with ptroot := x }
  | 0x013 => { c with migthr := w }
  | 0x015 => { c with tenant := w }
  | 0x016 => { c with migq := x }
  | 0x017 => { c with migqht := (c.migqht &&& 0xFFFF0000) ||| (w &&& 0xFFFF) }
  | 0x030 => { c with cntctl := w }
  | 0x031 => { c with cntovf := c.cntovf &&& ~~~w }
  | _ => { c with capctl := w }

/-! ## TLBI (R409) -/

/-- A kind of TLBI removes a translation. -/
def tlbiHits (kind cn va : Nat) (e : TlbEntry) : Bool :=
  match kind with
  | 0 => decide (e.ctx = cn) && !e.glob
  | 1 => e.covers cn va
  | 2 => !e.glob
  | _ => true

/-- A kind of TLBI concerns an access that a context made at an address: one that may have used a removed translation.  Such accesses complete
with the TLBI; that one which used another translation may do so too is no more than an access that completes early. -/
def tlbiTouches (kind cn va : Nat) (acn ava : Nat) : Bool :=
  match kind with
  | 0 => decide (acn = cn)
  | 1 => decide (acn = cn ∧ ava / 2 ^ 27 = va / 2 ^ 27)
  | _ => true

/-- Remove translations from every last-page register, core TLB and die TLB of the package. -/
def State.sweepTlbs (s : State) (kind cn va : Nat) : State :=
  let keep (e : TlbEntry) : Bool := !tlbiHits kind cn va e
  { s with
    cores := s.cores.mapVals (fun c => { c with tlb := c.tlb.filter keep })
    dies := s.dies.mapVals (fun d => { d with tlb := d.tlb.filter keep })
    crews := s.crews.mapVals (fun c => { c with lastPage := c.lastPage.filter (fun e => keep e.2) }) }

/-- The outstanding accesses of crews and of spatial slots that may have used a removed translation complete (R409). -/
def State.settleTouched (s : State) (kind cn va : Nat) : State :=
  let s := s.crews.foldl (fun s e => s.perform e.1 (fun p => p.accs.any (fun a => tlbiTouches kind cn va e.2.ctx a.va))) s
  s.cores.keys.foldl (fun s core => s.landReplies core (fun r => tlbiTouches kind cn va r.ctx r.va)) s

/-- A page of a pinned or mapped range is unmapped (R172, R174): its walk gives no leaf, other than a migrating one, or
another page. -/
def State.unmapped (s : State) (cn va pa : Nat) : Bool :=
  match s.walk cn va with
  | .leaf e => decide (e.pa + (va - e.va) ≠ pa)
  | .malformed => true
  | .invalid kind _ _ _ => decide (kind ≠ 2)

/-- Pins and pool mappings that an unmap touches are revoked (R172, R174): a mapping is written back first. -/
def State.revokeUnmapped (s : State) (kind cn va : Nat) : State :=
  let gone (acn ava len : Nat) (runs : List Nat) : Bool :=
    ((pageStarts ava len).zip runs).any (fun p => tlbiTouches kind cn va acn p.1 && s.unmapped acn p.1 p.2)
  let s := s.dies.foldl (fun s d => d.2.pins.foldl (fun s p =>
    if !p.2.revoked && gone p.2.ctx p.2.va p.2.len (p.2.runs.map Prod.fst) then
      ((s.recordForeman d.1 0 1 3 (bitsOf p.2.va 56 7)).mapDie d.1 (fun x =>
        { x with pins := x.pins.insert p.1 { p.2 with revoked := true } })).loseRange p.2.ctx ⟨p.2.va, p.2.len⟩ p.2.runs true
    else s) s) s
  s.cores.foldl (fun s c => c.2.pools.foldl (fun s m =>
    if !m.2.revoked && gone m.2.ctx m.2.va m.2.len (m.2.runs.map Prod.fst) then
      ((((s.settlePool c.1 m.2.off m.2.len).writeBack c.1 (fun h => decide (h = m.1))).recordForeman (dieOf c.1) 0 1 3
        (bitsOf m.2.va 56 7 + 2 ^ 50)).mapCore c.1 (fun x => { x with pools := x.pools.insert m.1 { m.2 with revoked := true } })).loseRange
        m.2.ctx ⟨m.2.va, m.2.len⟩ (m.2.runs.map (fun r => (r.1, r.2.1))) true
    else s) s) s

/-- The effect of a TLBI: translations go, accesses that used them complete, and unmapped ranges are revoked. -/
def State.tlbi (s : State) (kind cn va : Nat) : State :=
  ((s.sweepTlbs kind cn va).settleTouched kind cn va).revokeUnmapped kind cn va

/-- TLBI (R409): removes translations throughout the package. -/
def execTlbi (d a b : BitVec 8) (s : State) : Host.Outcome State Fault Refusal :=
  issue (.tlbi d a b) s (fun s =>
    let c := s.crew
    let word := (Instr.tlbi d a b).word.zeroExtend 64
    let x := (c.getS b.toNat).toNat
    let va := (c.getSS a.toNat).toNat
    if 2 ^ 16 ≤ x then .trap s 0x01 word
    else if (s.ctx c.ctx).level < 2 ∧ (2 ≤ d.toNat ∨ x ≠ c.ctx) then .trap s 0x15 word
    else
      .done ((s.release s.fkey 3).tlbi d.toNat x va))

/-- SWRITE (R403, R406): writes a system register; a context register only after a release at package scope, and the
window bases and PTROOT after a sweep as TLBI kind 0 makes. -/
def execSwrite (d : BitVec 8) (i : BitVec 16) (s : State) : Host.Outcome State Fault Refusal :=
  issue (.swrite d i) s (fun s =>
    let n := i.toNat
    let c := s.crew
    let x : DWord := if sysWide n then c.getSS d.toNat else (c.getS d.toNat).zeroExtend 64
    let word := (Instr.swrite d i).word.zeroExtend 64
    if x &&& sysReserved n ≠ 0 then .trap s 0x01 word
    else if sysOfCrew n then
      match c.sysWrite n x with
      | none => .trap s 0x01 word
      | some c => .done (s.setCrew c)
    else
      let s := (s.release s.fkey 3).mapCtx c.ctx (fun q => q.sysWrite n x)
      .done (if n = 0x010 ∨ n = 0x011 ∨ n = 0x012 then s.tlbi 0 c.ctx 0 else s))

/-! ## HALT and CLOCK -/

/-- HALT (R407): with DBGCTL.halten the crew stops after it; otherwise only the PC advances. -/
def execHalt (s : State) : Host.Outcome State Fault Refusal :=
  issue .halt s (fun s =>
    .done (if (s.ctx s.crew.ctx).dbgctl.getLsbD 0 then s.haltCrew (s.crew.pc + 4) false else s))

/-- HALT_RELEASE (R407, R316): the foreman releases a halted crew, and a halted core of a live region. -/
def execHaltRelease (core slot : Nat) (s : State) : Host.Outcome State Fault Refusal :=
  .next ((s.releaseCore core).mapCrewAt (crewKey core slot) (fun c => { c with halted := false }))

/-- CLOCK (R408): the package time base in device ticks. -/
def execClock (d : BitVec 8) (s : State) : Host.Outcome State Fault Refusal :=
  issue (.clock d) s (fun s => .done (s.mapCrew (fun c => c.setSS d.toNat (BitVec.ofNat 64 s.clock))))

end Sys2Proof.Machine
end

