-- ==== Sys2Proof/Machine/Save.lean ====
section
/-! DEFINITION. The saving and restoring of contexts by programs: CTXSV and CTXRS, opcodes 0xF0 and 0xF1 (R411 to R414). -/

namespace Sys2Proof.Machine

/-! ## Ranges -/

/-- Check the pages of a range for the executing crew and give the place of each byte (R412, R414). -/
def rangePlaces (s : State) (va n align : Nat) (need : Need) (act : State → List LaneXlat → Res) : Res :=
  if va % align ≠ 0 then .trap s 0x02 (BitVec.ofNat 64 va)
  else
    match s.classify s.focusCore none s.crew.ctx 1 need (decide (need = .read)) ((pageStarts va n).map (fun v => (0, v))) with
    | (.trap cause tval, s) => .trap s cause tval
    | (.go xs [], s) =>
      act s (xs.flatMap (fun x => (List.range (pagePart va n x.va)).map (fun i =>
        ⟨0, x.va + i, .ok ⟨s.poc (x.loc.idx + i), x.loc.cached⟩⟩)))
    | (.go _ absent, s) => .hold (s.parkOn s.crew.am need absent)

/-- The executing crew stores bytes at some places at once (R412), with one request for each line (R168). -/
def State.storeBytesAt (s : State) (xs : List LaneXlat) (bytes : List Nat) : State :=
  let p := s.crew.pendOf .store 1 xs (fun _ => 0) (fun _ => 0) (fun _ => [])
  let s := (s.perform s.fkey (fun q => q.precedes p)).requests s.focusCore s.crew.ctx xs
  ((xs.zip bytes).foldl (fun s e => s.setByte e.1.loc.idx (BitVec.ofNat 8 e.2)) s).mapCore s.focusCore (fun q => { q with l1 := [] })

/-! ## CTXSV -/

/-- The crew at a slot takes the trap that is due before its next instruction, if one is (R245, R336). -/
def State.trapDue (s : State) (key : Nat) : State :=
  match (s.crews.get? key).bind (fun c => c.savedTrap.map (fun t => (c, t))) with
  | none => s
  | some (c, t) =>
    let there : State := { s with focusCore := key / 64, focusSlot := key % 64 }
    { takeTrap (there.setCrew { c with savedTrap := none }) t.1 t.2 with focusCore := s.focusCore, focusSlot := s.focusSlot }

/-- The crew at a slot, stopped, its jobs and tile operations over, is written to an area and unbound (R412).  A trap that is due before its next
instruction (R245), or that a tile operation has just made (R253), is taken first, since the area has no place for it (log 49). -/
def saveBody (va key : Nat) (put : State → Nat → Res) (s : State) : Res :=
  let s := ((s.abandonSpent key).settleAt key).trapDue key
  let c := s.crews.getD key Crew.blank
  let bytes := s.saveBytesAt key c
  rangePlaces s va bytes.length 256 .write (fun s xs =>
    let s := (s.storeBytesAt xs bytes).release s.fkey 3
    let (js, bars, s) := s.suspendJobs key
    let s := s.keepArea key c (packElems 8 bytes) js bars
    let s := (s.unbindSaved key (s.tag s.crew.ctx)).mapTask c.task (fun t => { t with away := c.number :: t.away })
    put s bytes.length)

/-- CTXSV (R412): saves the crew in a slot of the issuing core and unbinds it.  While it waits for that crew's jobs, or for a page of the area, the
crew stays stopped; a sibling that has been cut retires at that boundary instead (R361). -/
def execCtxsv (d a b : BitVec 8) (s : State) : Host.Outcome State Fault Refusal :=
  issue (.ctxsv d a b) s (fun s =>
    let x := (s.crew.getS b.toNat).toNat
    let va := (s.crew.getSS a.toNat).toNat
    let key := crewKey s.focusCore (x % 64)
    let put (s : State) (v : Nat) : Res := .done (s.mapCrew (fun c => c.setS d.toNat (BitVec.ofNat 32 v)))
    if 64 ≤ x then put s 0xFFFFFFFD
    else if key = s.fkey then put s 0xFFFFFFFF
    else
      let s := s.cutBoundary key
      if (s.crews.get? key).isNone then put s 0xFFFFFFFF
      else if !s.regionSaved key then put s 0xFFFFFFFE
      else
        let s := s.mapCrew (fun c => { c with waiting := some (.ctxsv key) })
        if !s.canSave key then .hold s else saveBody va key put s)

/-! ## CTXRS -/

/-- The reserved bits of the registers in a save area are zero (R10, R414): MODEX bits 15:6, bits 63:57 and 1:0 of TVEC (R406), and in each
frame in use bits 31:22 of TF_MODE and bits 31:12 of TF_CAUSE, bits 7:3 of the tile flags (Table 10.5) and the reserved bytes of the recorded
object header (Table 11.1); counts above what a crew holds are refused with them (log 49). -/
def areaBitsOk (h : Nat) : Bool :=
  decide (fld h 144 1 ≤ 8) && decide (fld h 145 1 ≤ 4) && decide (fld h 44 2 % 8 = 0 ∧ fld h 44 2 ≠ 0 ∧ fld h 44 2 ≤ 256) &&
  decide (fld h 46 1 ≠ 0 ∧ fld h 46 1 ≤ 64) && (List.range 4).all (fun q => decide (fld h (1152 + 32 * q + 15) 1 < 3)) &&
  decide (fld h 42 2 < 2 ^ 6) && decide (fld h 152 8 < 2 ^ 57) && decide (fld h 152 8 % 4 = 0) &&
  (List.range (fld h 145 1)).all (fun i => decide (fld h (480 + 32 * i + 16) 4 < 2 ^ 22) && decide (fld h (480 + 32 * i + 20) 4 < 2 ^ 12)) &&
  decide (fld h 1337 1 < 4) && decide (fld h 1338 2 = 0) && (List.range 8).all (fun i => decide (fld h (632 + i) 1 < 8)) &&
  decide (fld h 1282 2 = 0) && decide (fld h 1302 2 = 0)

/-- The PCs that a save area places: of the crew, of its paths and of its barriers. -/
def areaPcs (h : Nat) : List Nat :=
  fld h 16 8 :: ((List.range (fld h 144 1)).map (fun i => fld h (160 + 16 * i) 8) ++ (List.range 8).map (fun i => fld h (304 + 24 * i) 8))

/-- The trap of the first PC of a save area that is no PC (R27; log 50). -/
def areaPcTrap (h : Nat) : Option (Nat × DWord) :=
  (areaPcs h).findSome? (fun x => (badTarget (BitVec.ofNat 64 x)).map (fun c => (c, BitVec.ofNat 64 x)))

/-- A save area is well formed (R414): magic, version, reserved fields, and a size that agrees with its contents. -/
def areaOk (h size : Nat) : Bool :=
  let entries := ((List.range 4).map (fun q => fld h (1152 + 32 * q + 12) 1)).sum
  let plain := areaSize (fld h 44 2) entries (popCount 8 (fld h 47 1))
  decide (fld h 0 4 = 0x56534358) && decide (fld h 4 2 = 1) && decide (fld h 6 2 < 16) && decide (fld h 76 4 = 0) &&
  decide (fld h 146 2 = 0) && decide (fld h 628 4 = 0) && decide (fld h 1324 4 = 0) && decide (fld h 1344 704 = 0) &&
  (List.range 4).all (fun q => decide (fld h (1168 + 32 * q) 16 = 0)) && areaBitsOk h &&
  (if fld h 6 2 < 8 then decide (size = plain) else decide (up256 plain < size ∧ size % 256 = 0))

/-- The crew number of a restored crew: from its WID, or for a sibling as the foreman kept it with the area, or from its coppice (log 51). -/
def State.restoredNumber (s : State) (cn : Nat) (sib : Sibling) (widbase : Nat) (saved : Option SavedArea) : Nat :=
  if !sib.sibling then widbase / 64
  else
    match saved, s.coppice? cn sib.record.toNat with
    | some a, _ => a.number
    | none, some x => x.crew sib.index
    | none, none => 2 ^ 61 + sib.record.toNat / 256 * 64 + sib.index

/-- The crew that a save area describes (R414), over its task's shell.  An advantage that came meanwhile is delivered (R369), and what GSTAT reports
is as the foreman kept it (log 49). -/
def State.areaCrew (s : State) (t : Task) (bytes : Nat) (rbase : Nat) (saved : Option SavedArea) : Crew :=
  let f := fld bytes
  let sib := Sibling.ofNat (f 1328 16)
  let cn := f 72 2
  let flags := f 6 2
  let number := s.restoredNumber cn sib (f 80 8) saved
  let sib := (t.advs.get? number).elim sib (fun x => { sib with delivered := true, advantage := x })
  let fetch := decide (f 48 8 = f 24 8 ∧ f 56 8 = f 16 8)
  let c := { t.shell (f 74 2) number rbase 0 s.clock with
    ctx := cn, vregs := f 44 2, sregs := f 46 1, tiles := BitVec.ofNat 8 (f 47 1), widbase := BitVec.ofNat 64 (f 80 8)
    pc := BitVec.ofNat 57 (f 16 8), am := BitVec.ofNat 64 (f 24 8), live := BitVec.ofNat 64 (f 32 8)
    mode := BitVec.ofNat 16 (f 40 2), modex := BitVec.ofNat 16 (f 42 2), tvec := BitVec.ofNat 64 (f 152 8)
    remstat := BitVec.ofNat 32 (f 148 4), tsa := BitVec.ofNat 32 (f 608 4), tsb := BitVec.ofNat 32 (f 612 4)
    paths := (List.range (f 144 1)).map (fun i =>
      (BitVec.ofNat 57 (f (160 + 16 * i) 8), BitVec.ofNat 64 (f (168 + 16 * i) 8)))
    frames := ((List.range (f 145 1)).map (fun i => Frame.ofNat (f (480 + 32 * i) 32))).reverse
    binding := if f 616 8 = 0 then none else some ⟨BitVec.ofNat 64 (f 616 8), f 1280 44, f 624 4⟩
    sib := sib, halted := flags.testBit 0
    replay := if flags.testBit 1 && !fetch then some (BitVec.ofNat 64 (f 48 8)) else none
    replayVa := BitVec.ofNat 64 (f 56 8)
    gramReport := saved.elim 0 SavedArea.report, gramFlags := saved.elim 0 SavedArea.flags
    deadline := if flags.testBit 2 then some (f 64 8) else none
    pathFresh := true }
  let c := (List.range 7).foldl (fun (c : Crew) i => c.setPred (i + 1) (BitVec.ofNat 64 (f (88 + 8 * i) 8))) c
  let c := (List.range 8).foldl (fun (c : Crew) i => c.setBar i
    ⟨BitVec.ofNat 64 (f (288 + 24 * i) 8), BitVec.ofNat 64 (f (296 + 24 * i) 8), BitVec.ofNat 57 (f (304 + 24 * i) 8)⟩) c
  let c := (List.range 64).foldl (fun (c : Crew) i => c.setS i (BitVec.ofNat 32 (f (640 + 4 * i) 4))) c
  let c := (List.range 64).foldl (fun (c : Crew) l => c.setGen l (BitVec.ofNat 32 (f (896 + 4 * l) 4))) c
  (List.range (f 44 2)).foldl (fun (c : Crew) r =>
    (List.range 64).foldl (fun (c : Crew) l => c.setV r l (BitVec.ofNat 32 (f (2048 + 256 * r + 4 * l) 4))) c) c

/-- A suspended dir 0 stream of a save area, as a job that goes on (R411) under a card. -/
def areaStream (bytes q key cn card id : Nat) : Job :=
  let f := fld bytes
  let o := 1152 + 32 * q
  { id := id, kind := .stream, crew := key, ctx := cn, card := card, cardVa := BitVec.ofNat 64 (f o 8)
    token := f (o + 14) 1, scope := fld card 1 1, reads := cardReads card, writes := cardWrites card, seq := 0
    started := false, cancelled := false, pos := f (o + 8) 4, buffer := []
    stream := { StreamPos.zero with next := f (o + 8) 4 / 64 }
    lost := false, result := none, ending := none, ended := 0, aux := [], deadline := none, nonfin := false }

/-- The 256 bytes of a card, read by the foreman; 0 where it cannot be read. -/
def State.unitRead (s : State) (cn va n : Nat) : Nat :=
  packElems 8 ((List.range n).map (fun i =>
    match s.xlateWalk cn (va + i) .read with
    | .ok l => (s.byte l.idx).toNat
    | _ => 0))

/-- The skid queues of a save area, and the streams that fill them.  A stream goes on under the card that it was suspended with (R411), which
`held` gives; for an area that CTXSV has not written the card is read from the address in the skid record (log 49). -/
def State.areaSkids (s : State) (bytes key cn vregs : Nat) (held : List Job) : SMap Skid × List Job :=
  (List.range 4).foldl (fun (acc : SMap Skid × List Job) q =>
    let f := fld bytes
    let o := 1152 + 32 * q
    let st := f (o + 15) 1
    if st = 0 then acc
    else
      let before := ((List.range q).map (fun i => f (1152 + 32 * i + 12) 1)).sum
      let n := f (o + 12) 1
      let es := (List.range n).map (fun i =>
        SkidEntry.mk ((List.range (if i + 1 = n then (f (o + 8) 4 + 63) % 64 + 1 else 64)).map (fun l => BitVec.ofNat 32 (f (2048 + 256 * vregs + 256 * (before + i) + 4 * l) 4))))
      let old := held.find? (fun j => decide (j.stream.dir = 0 ∧ j.cardVa.toNat = f o 8 ∧ j.token = f (o + 14) 1))
      let id := (old.map Job.id).getD q
      let k : Skid := ⟨f (o + 13) 1, es, if st = 1 then some id else none⟩
      let card := (old.map Job.card).getD (s.unitRead cn (f o 8) 256)
      (acc.1.insert q k, if st = 1 then acc.2 ++ [areaStream bytes q key cn card id] else acc.2))
    ([], [])

/-- A tile of a save area; a cell that had an uncorrectable error comes back as any other (log 131). -/
def areaTile (bytes off flags : Nat) : Tile :=
  ⟨(List.range 8192).filterMap (fun i =>
    let x := BitVec.ofNat 32 (fld bytes (off + 4 * i) 4)
    if x = 0 then none else some (i, x)), BitVec.ofNat 3 flags, []⟩

/-- Where the group of a restored crew is at home, and whether that is a move (R327): with no other crew of the group bound or waiting, the group
moves to the core of the restoring crew (log 130). -/
def State.groupMove (s : State) (tn : Nat) (t : Task) (g core : Nat) : Nat × Bool :=
  let home := (t.groups.get? g).getD core
  let others := s.crews.any (fun e => decide (e.2.task = tn ∧ t.groupOf e.2 = g)) ||
    t.phases.any (fun e => if e.1 < siblingBase then decide (t.group e.1 = g) else decide (e.2.core = home))
  if others then (home, false) else (core, true)

/-- Bind the crew of a save area (R414), its next phase record at offset `off` of its home core's pool (R337). -/
def State.restoreArea (s : State) (t : Task) (bytes core slot rbase off : Nat) (saved : Option SavedArea) : State :=
  let key := crewKey core slot
  let tag := s.tag s.crew.ctx
  let c := { s.areaCrew t bytes rbase saved with recOff := off }
  let s := s.checkGen core (t.fld 8 8) (t.fld 4 4)
  let (skids, js) := s.areaSkids bytes key c.ctx c.vregs (saved.elim [] SavedArea.jobs)
  let depth := skids.vals.foldl (fun n q => n + q.depth) 0
  let s := s.mapCore core (fun x => { x with skidFree := x.skidFree - depth })
  let entries := skids.vals.foldl (fun n q => n + q.entries.length) 0
  let base := 2048 + 256 * c.vregs + 256 * entries
  let claimed := (List.range 8).filter (fun i => c.tiles.getLsbD i)
  let s := claimed.zipIdx.foldl (fun (s : State) e =>
    s.setTile core e.1 (areaTile bytes (base + 32768 * e.2) (fld bytes (632 + e.1) 1))) s
  let s := (saved.bind SavedArea.region).elim s (fun r => s.restoreRegion r key)
  let (c, s) := s.resumeStreams core key { c with skids := skids }
    (js ++ saved.elim [] (fun e => e.jobs.filter (fun j => decide (j.stream.dir ≠ 0)))) (saved.elim [] SavedArea.bars) false
  let s := s.enterSlot key c 0
  let (home, moved) := s.groupMove c.task t (t.groupOf c) core
  let s := s.mapTask c.task (fun t => { t with
    away := t.away.filter (fun n => decide (n ≠ c.number)), advs := t.advs.remove c.number
    groups := if moved then t.groups.insert (t.groupOf c) home else t.groups
    cores := if t.cores.contains core then t.cores else (core :: t.cores).mergeSort (· ≤ ·) })
  let s := s.recordForeman (dieOf core) tag 2 0 (c.task + slot * 2 ^ 16 + rbase * 2 ^ 24 + c.prio * 2 ^ 32)
  ((s.resumeCoppice c).acquireL1 core 3).traceStart key

/-- The crew of an area cannot be bound (R414): its slot, blocks or tiles are taken, or its context has gone.  So it is too where a region save
is none that CTXSV made or does not fit the cores (log 49), and where a sibling has been cut meanwhile (R361; log 51). -/
def State.areaRefused (s : State) (h core slot rbase : Nat) (saved : Option SavedArea) : Bool :=
  let key := crewKey core slot
  let cn := fld h 72 2
  let tiles := BitVec.ofNat 8 (fld h 47 1)
  let sib := Sibling.ofNat (fld h 1328 16)
  (s.crews.get? key).isSome || !s.blocksFree core slot rbase (fld h 44 2 / 8) ||
  s.crews.any (fun e => decide (e.1 / 64 = core) && decide (e.2.tiles &&& tiles ≠ 0)) || (s.ctxs.get? cn).isNone ||
  (sib.sibling && (s.tasks.get? (fld h 74 2)).elim false (fun t => !t.away.contains (s.restoredNumber cn sib (fld h 80 8) saved))) ||
  ((fld h 6 2).testBit 3 && !((saved.bind SavedArea.region).elim false (fun r => s.regionFits r key)))

/-- The core has room in its skid memory and its gate for what the crew of an area brings (R212, R222). -/
def State.areaRoom (s : State) (h core : Nat) (saved : Option SavedArea) : Bool :=
  let depth := ((List.range 4).map (fun q => fld h (1152 + 32 * q + 13) 1)).sum
  let streams := ((List.range 4).filter (fun q => decide (fld h (1152 + 32 * q + 15) 1 = 1))).length +
    saved.elim 0 (fun e => (e.jobs.filter (fun j => decide (j.stream.dir ≠ 0))).length)
  decide (depth ≤ (s.core core).skidFree) && decide ((s.core core).jobs.length + streams ≤ 32)

/-- The effect of CTXRS once its area has been read and found good (R414).  It waits for room in the core, and for room for the crew's next phase
record; a crew whose task has ended is bound all the same (log 117). -/
def restoreBody (h bytes slot rbase : Nat) (put : State → Nat → Res) (s : State) : Res :=
  let core := s.focusCore
  let tn := fld h 74 2
  let saved := (s.savedAreas.find? (fun e => decide (e.bytes = bytes))).map (fun e =>
    if (fld h 6 2).testBit 3 then e else { e with region := none })
  let t := (s.tasks.get? tn).getD (newTask (fld h 72 2) (dieOf core) 0 s.clock)
  let home := (s.groupMove tn t (t.group (fld h 80 8 / 64)) core).1
  if s.areaRefused h core slot rbase saved then put s 0xFFFFFFFF
  else
    match areaPcTrap h with
    | some e => .trap s e.1 e.2
    | none =>
      match s.recordRoom home t.carry with
      | none => .hold s
      | some off => if s.areaRoom h core saved then put (s.restoreArea t bytes core slot rbase off saved) 0 else .hold s

/-- CTXRS (R414): binds a crew from a save area, which it reads as scalar loads. -/
def execCtxrs (d a b : BitVec 8) (s : State) : Host.Outcome State Fault Refusal :=
  issue (.ctxrs d a b) s (fun s =>
    let x := (s.crew.getS b.toNat).toNat
    let va := (s.crew.getSS a.toNat).toNat
    let put (s : State) (v : Nat) : Res := .done (s.mapCrew (fun c => c.setS d.toNat (BitVec.ofNat 32 v)))
    if 2 ^ 14 ≤ x ∨ x / 64 % 4 ≠ 0 then put s 0xFFFFFFFD
    else
      rangePlaces s va 2048 256 .read (fun s xs =>
        let (h, s) := s.plainRead xs
        let size := fld h 8 4
        if !areaOk h size then put s 0xFFFFFFFE
        else
          rangePlaces s (va + 2048) (size - 2048) 256 .read (fun s xs =>
            let (rest, s) := s.plainRead xs
            let bytes := h + rest * 2 ^ (8 * 2048)
            let bs := bytesOf size bytes
            if (crc32c (bs.take 12 ++ [0, 0, 0, 0] ++ bs.drop 16)).toNat ≠ fld h 12 4 then put s 0xFFFFFFFC
            else restoreBody h bytes (x % 64) (x / 2 ^ 8 % 64) put s)))

end Sys2Proof.Machine
end

