-- ==== Sys2Proof/Machine/Collectives.lean ====
section
/-! DEFINITION. Rafts and collectives (R375 to R395): RAFTFORM, RAFTRE, the collective jobs, CSTAT and CABORT, with the
raft messages, their timers and the ports they travel on (R452). -/

namespace Sys2Proof.Machine

/-! ## Waiting crews and members -/

/-- Change every crew that waits as `p` says, bound or with its context saved whole. -/
def State.mapWaiting (s : State) (p : Waiting → Bool) (f : Crew → Crew) : State :=
  let waits (c : Crew) : Bool := c.waiting.elim false p
  let s := ((s.crews.filter (fun e => waits e.2)).map Prod.fst).dedup.foldl (fun s k => s.finishWaiting k f) s
  { s with tasks := s.tasks.mapVals (fun (t : Task) => { t with
      phases := t.phases.mapVals (fun (p : Phase) => { p with
        whole := p.whole.map (fun c => if waits c then (f c).retireInstr.next else c) }) }) }

/-- RAFTFORM or RAFTRE at rank `k` of a handle ends with its two results (R377, R388). -/
def State.answerRaft (s : State) (h k x y : Nat) : State :=
  let p (w : Waiting) : Bool :=
    match w with
    | .raftform _ h' k' => decide (h' = h ∧ k' = k)
    | .raftre _ h' k' => decide (h' = h ∧ k' = k)
    | _ => false
  s.mapWaiting p (fun c =>
    let d := match c.waiting with
      | some (.raftform d _ _) => d
      | some (.raftre d _ _) => d
      | _ => 0
    (c.setS d (BitVec.ofNat 32 x)).setS (d + 1) (BitVec.ofNat 32 y))

/-- A member that is part of a raft from now on. -/
def RaftMember.fresh (winBase winLen : Nat) (deadline : Option Nat) (last port abort abortDev : Nat) : RaftMember :=
  ⟨winBase, winLen, deadline, 0, last, port, abort, abortDev, [], [], 0, false⟩

/-- A local member leaves; with the last of them the handle is free. -/
def State.dropMember (s : State) (h k : Nat) : State :=
  match s.rafts.get? h with
  | none => s
  | some r =>
    let r := { r with members := r.members.remove k }
    if r.members = [] then { s with rafts := s.rafts.remove h } else { s with rafts := s.rafts.insert h r }

/-! ## Routes (R376, R446, R452) -/

/-- A port of a route that has failed in this generation, which never uses it again (R452). -/
def deadRoute (port : Nat) : Nat := 32 + port

/-- A route for each member on another device (R376): the manual leaves the choice among live ports of the link class to the device (log 5).
Where no port of the class is live there is no route. -/
def State.pickRoutes (s : State) (r : Raft) : SMap Nat × State :=
  (r.table.zipIdx).foldl (fun (acc : SMap Nat × State) e =>
    let ps := acc.2.portsTo e.1
    if r.kind ≠ 0 ∨ e.1 = s.devnum then acc
    else if ps = [] then (acc.1.insert e.2 (deadRoute 31), acc.2)
    else (acc.1.insert e.2 (ps.getD (acc.2.takeFree.1.toNat % ps.length) 0), acc.2.takeFree.2)) ([], s)

/-- The route to a rank has failed. -/
def Raft.routeDead (r : Raft) (k : Nat) : Bool := decide (32 ≤ r.routes.getD k 0)

/-- H in µs (Table 16.1): the largest among the link classes between two members, of which a raft of one device has the smallest. -/
def Raft.hopBound (r : Raft) : Nat :=
  if r.kind ≠ 0 ∨ r.table.length ≤ 1 then 2
  else if r.table.any (fun x => decide (podOf x ≠ podOf (r.table.headD 0))) then 100
  else 10

/-- Data of a generation travels only on its routes (R376): over a failed one nothing arrives. -/
def State.sendData (s : State) (r : Raft) (typ src dst seq : Nat) (params data scales : List Nat) : State :=
  if r.routeDead dst ∨ r.routeDead src then s else s.sendRaft r typ src dst seq 0 params data scales

/-! ## RAFTFORM -/

/-- T of a descriptor (Table 16.2). -/
def descTimeout (desc : Nat) : Nat := if fld desc 8 8 = 0 then 20000000 else fld desc 8 8

/-- A field of the descriptor or the table lies outside Table 16.2, or the issuer is not in the table exactly once. -/
def descBad (desc : Nat) (table : List Nat) (self : Nat) : Bool :=
  let kind := fld desc 0 1
  let m := fld desc 2 2
  let t := fld desc 8 8
  decide (1 < kind) || decide (fld desc 1 1 ≠ 0) || decide (m < 2) || decide (kind = 1 ∧ 192 < m) ||
  decide (t ≠ 0 ∧ (t < 10000 ∨ 10 ^ 10 < t)) || decide (fld desc 24 8 % 4 ≠ 0) || decide (fld desc 40 24 ≠ 0) ||
  table.any (fun x => decide (2 ^ 22 ≤ x) || (decide (kind = 1) && decide (192 ≤ x))) || decide (table.count self ≠ 1)

/-- What a member joins with: m, T and the member table. -/
def joinParams (desc : Nat) (table : List Nat) : List Nat := fld desc 2 2 :: descTimeout desc :: table

/-- RAFTFORM once its descriptor and table have been read (R377). -/
def formRaft (d : Nat) (desc : Nat) (table : List Nat) (s : State) : Res :=
  let c := s.crew
  let kind := fld desc 0 1
  let self := if kind = 0 then s.devnum else s.focusCore
  let put (x y : Nat) : Res := .done (s.mapCrew (fun c => (c.setS d (BitVec.ofNat 32 x)).setS (d + 1) (BitVec.ofNat 32 y)))
  if descBad desc table self then put (raftStatus 5 0 0) 0
  else
    let k := table.idxOf self
    let key := fld desc 4 4
    let t := descTimeout desc
    let same (_ : Nat) (r : Raft) : Bool := !r.live && decide (r.ctx = c.ctx ∧ r.kind = kind ∧ r.key = key)
    let found : Option (Nat × Raft) :=
      match s.rafts.findEntry same with
      | some e => some e
      | none => (s.rafts.lowestFree 64).map (fun h =>
          (h, ⟨c.ctx, key, kind, t, table, 1, false, [], [], [], [], [], [], []⟩))
    match found with
    | none => put (raftStatus 11 3 k) 0
    | some (h, r) =>
      let deadline := c.deadline.getD (c.firstIssue.getD s.clock + t)
      let r := if k = coordinatorRank then { r with table := table, timeout := t } else r
      let mem := RaftMember.fresh (fld desc 16 8) (fld desc 24 8) (some deadline) 0 31 0 0
      let r := { r with members := r.members.insert k mem }
      let s : State := { s with rafts := s.rafts.insert h r }
      let s := s.sendRaft { r with table := table } 1 k coordinatorRank 0 0 (0 :: joinParams desc table) [] []
      .hold (s.mapCrew (fun c => { c with waiting := some (.raftform d h k), deadline := some deadline }))

/-- RAFTFORM (R377): forms a raft from the descriptor at s[a:a+1]; the crew waits for the coordinator's report, T from the first issue on,
whatever its reads wait for. -/
def execRaftform (d a : BitVec 8) (s : State) : Host.Outcome State Fault Refusal :=
  issue (.raftform d a) s (fun s =>
    if s.crew.waiting.isSome then .hold s
    else
      let s := s.mapCrew (fun c => { c with firstIssue := some (c.firstIssue.getD s.clock) })
      structRead s (s.crew.getSS a.toNat) 64 64 (fun s desc =>
        let m := fld desc 2 2
        structRead s (BitVec.ofNat 64 (fld desc 32 8)) (4 * m) 4 (fun s raw =>
          formRaft d.toNat desc ((List.range m).map (fun i => fld raw (4 * i) 4)) s)))

/-- How a formation stands at its coordinator: all have joined and agree; the lowest rank that differs from rank 0; the
lowest rank that has not joined. -/
inductive Forming where
  | agreed
  | differs (k : Nat)
  | lacks (k : Nat)
  deriving DecidableEq, Repr

/-- The standing of a formation (R377); `ended` says that the wait is over. -/
def Raft.forming (r : Raft) (ended : Bool) : Forming :=
  let ranks := List.range r.table.length
  let missing := ranks.find? (fun k => (r.forms.get? k).isNone)
  let differs := ranks.find? (fun k => match r.forms.get? k with
    | some x => decide (some x ≠ r.forms.get? coordinatorRank)
    | none => false)
  match missing, differs with
  | none, none => .agreed
  | none, some k => .differs k
  | some k, none => .lacks k
  | some k, some k' => if ended then .differs k' else .lacks k

/-- The word that rank `k` gets for a formation, or a collective, whose lowest differing rank is `q` (R377, R383). -/
def mismatchWord (q k : Nat) : Nat := if k = q then raftStatus 11 4 q else raftStatus 8 4 q

/-- The coordinator reports a formation that has failed to every rank that joined, and to itself; the joins are void. -/
def State.failForming (s : State) (h : Nat) (r : Raft) (word : Nat → Nat) : State :=
  (List.range r.table.length).foldl (fun s k =>
    if k ≠ coordinatorRank ∧ (r.forms.get? k).isNone then s
    else s.sendRaft r 6 coordinatorRank k 0 (word k) [h] [] []) (s.mapRaft h (fun r => { r with forms := [] }))

/-- A member takes the coordinator's good report: the raft is live in generation 1 (R377). -/
def State.raftFormed (s : State) (h : Nat) (r : Raft) (k : Nat) : State :=
  let (routes, s) := if r.live then (r.routes, s) else s.pickRoutes r
  let r := { r with live := true, gen := 1, routes := routes, forms := [] }
  let s : State := { s with rafts := s.rafts.insert h (r.mapMember k (fun m => { m with deadline := none })) }
  s.answerRaft h k (raftStatus 0 0 0) (k + h * 2 ^ 22)

/-- The coordinator's report of a formation that is on its way to a member here, with its number (R377). -/
def State.report? (s : State) (r : Raft) (k : Nat) : Option (Msg × Nat) :=
  s.msgs.zipIdx.find? (fun e => decide (e.1.key = r.key ∧ e.1.src = coordinatorRank ∧ e.1.dst = k ∧ e.1.gen = 1 ∧ e.1.ddev = s.devnum) &&
    (decide (e.1.typ = 6) || decide (e.1.typ = 1 ∧ e.1.params.head? = some 1)))

/-- Message number `ix` is removed. -/
def State.dropMsg (s : State) (ix : Nat) : State := { s with msgs := s.msgs.eraseIdx ix }

/-- A member whose RAFTFORM waits takes the coordinator's report, message `ix` (R377). -/
def State.takeReport (s : State) (h : Nat) (r : Raft) (m : Msg) (ix : Nat) : State :=
  let s := s.dropMsg ix
  if m.typ = 1 then s.raftFormed h r m.dst
  else if !r.live then (s.answerRaft h m.dst m.status 0).dropMember h m.dst
  else s

/-- A member of a formation has told the coordinator that it has given it up, and the word is on its way (R377). -/
def State.givenUp (s : State) (r : Raft) : Bool :=
  s.msgs.any (fun m => decide (m.key = r.key ∧ m.typ = 6 ∧ m.gen = 1 ∧ m.dst = coordinatorRank ∧ m.src ≠ coordinatorRank ∧
    m.ddev = s.devnum))

/-- A member's join is withdrawn: it has failed to form the raft, so that no member forms it with it (R377). -/
def State.withdraw (s : State) (h k : Nat) (key : Nat) : State :=
  { (s.mapRaft h (fun r => { r with forms := r.forms.remove k })) with
    msgs := s.msgs.filter (fun m => !decide (m.key = key ∧ m.typ = 1 ∧ m.src = k ∧ m.gen = 1 ∧ m.sdev = s.devnum ∧ m.params.head? = some 0)) }

/-- The lowest rank that had not joined a formation at rank `k` (R377): where the coordinator is on another device, or all had joined, the
manual does not say which, and it is free among the other ranks (log 52). -/
def State.missingRank (s : State) (r : Raft) (k : Nat) : Nat × State :=
  match (if (r.members.get? coordinatorRank).isSome then r.forming false else .agreed) with
  | .lacks q => (q, s)
  | _ => s.freeRank r k

/-- T has passed at a member whose RAFTFORM waits (R377, R396): it takes a report that is on its way; where there is none, the coordinator
reports the failure, and another member fails alone, takes back its join and tells the coordinator, so that no member gets a handle. -/
def State.formTimeout (s : State) (h k : Nat) : State :=
  match s.rafts.get? h with
  | none => s
  | some r =>
    match (r.members.get? k).bind (fun m => if m.rejoin then none else m.deadline) with
    | none => s
    | some t =>
      if s.clock < t then s
      else
        match s.report? r k with
        | some (m, ix) => s.takeReport h r m ix
        | none =>
          if r.live then s
          else if k ≠ coordinatorRank then
            let o := s.missingRank r k
            let word := raftStatus 9 0 o.1
            let s := o.2.withdraw h k r.key
            ((s.sendRaft r 6 k coordinatorRank 0 word [2] [] []).answerRaft h k word 0).dropMember h k
          else
            let s := match r.forming true with
              | .agreed => (s.freeRank r k).2.failForming h r (fun _ => raftStatus 9 0 (s.freeRank r k).1)
              | .differs q => s.failForming h { r with forms := r.forms.insert k [] } (mismatchWord q)
              | .lacks q => s.failForming h r (fun _ => raftStatus 9 0 q)
            match s.report? r k with
            | some (m, ix) => s.takeReport h r m ix
            | none => s

/-- RAFTFORM_TIMEOUT (R377). -/
def execRaftformTimeout (h k : Nat) (s : State) : Host.Outcome State Fault Refusal := .next (s.formTimeout h k)

/-! ## Taking a message (R395) -/

/-- The raft that a message is for: its key and generation, with its target a member here. -/
def State.raftOfMsg (s : State) (m : Msg) : Option (Nat × Raft) :=
  s.rafts.findEntry (fun _ r => r.live && decide (r.key = m.key ∧ r.gen % 2 ^ 16 = m.gen) &&
    (r.members.get? m.dst).isSome && decide (r.device s.devnum m.dst = m.ddev) && decide (r.device s.devnum m.src = m.sdev))

/-- Message number `ix` is discarded and counted (R395). -/
def State.discard (s : State) (ix : Nat) : State := { s.dropMsg ix with msgDrops := s.msgDrops + 1 }

/-- The order that messages of a type keep from one member to another (R193, R395): between devices all but contributions and results are
ordered among themselves; on the package control messages are, and contributions and results, and remote accesses have none (log 79). -/
def orderClass (typ : Nat) (onPackage : Bool) : Option Nat :=
  if typ = 3 ∨ typ = 4 then (if onPackage then some 1 else none)
  else if typ = 7 ∨ typ = 8 then (if onPackage then none else some 0)
  else some 0

/-- A remote access from another device that has been delivered in its order, and is still to be performed: those of one crew are unordered
(R392). -/
def Msg.delivered (m : Msg) : Bool := decide (m.typ = 7 ∧ 5 < m.params.length)

/-- A message goes before a later one of the same members in the order sent. -/
def Msg.leads (x m : Msg) : Bool :=
  decide (x.key = m.key ∧ x.sdev = m.sdev ∧ x.src = m.src ∧ x.ddev = m.ddev ∧ x.dst = m.dst) && !x.delivered && !m.delivered &&
    decide (orderClass x.typ (x.sdev = x.ddev) = orderClass m.typ (m.sdev = m.ddev)) && (orderClass m.typ (m.sdev = m.ddev)).isSome

/-- Message `ix` is of a type and the first of its order. -/
def State.msgDue (s : State) (ix typ : Nat) : Option Msg :=
  match s.msgs[ix]? with
  | none => none
  | some m => if m.typ = typ ∧ (s.msgs.take ix).all (fun x => !x.leads m) then some m else none

/-- Take message `ix` of a type for a live raft, in its order: `act` gives the state, or nothing while the message must wait; one that
matches no raft, or is for another device, is discarded and counted. -/
def State.takeMsg (s : State) (ix typ : Nat) (act : State → Nat → Raft → Msg → Option State) : State :=
  match s.msgDue ix typ with
  | none => s
  | some m =>
    if m.ddev ≠ s.devnum then s.discard ix
    else
      match s.raftOfMsg m with
      | none => s.discard ix
      | some (h, r) => (act (s.dropMsg ix) h r m).getD s

/-- A raft that is being formed, for a message: its key, with its target a member here. -/
def State.formingOfMsg (s : State) (m : Msg) : Option (Nat × Raft) :=
  s.rafts.findEntry (fun _ r => decide (r.key = m.key) && decide (m.gen = 1) &&
    (r.members.get? m.dst).elim false (fun x => x.deadline.isSome && !x.rejoin || !r.live) && (!r.live || m.params.head? = some 1))

/-- FORM (R377): the coordinator-elect takes a join and, when all have joined, reports; a member takes the report.  A join
waits until the coordinator-elect has issued its own RAFTFORM (log 52). -/
def execForm (ix : Nat) (s : State) : Host.Outcome State Fault Refusal :=
  .next (
    match s.msgDue ix 1 with
    | none => s
    | some m =>
      if m.ddev ≠ s.devnum then s.discard ix
      else
        match s.formingOfMsg m with
        | none => if m.params.head? = some 1 then s.discard ix else s
        | some (h, r) =>
          if m.params.head? = some 1 then s.takeReport h r m ix
          else
            let s := s.dropMsg ix
            let r := { r with forms := r.forms.insert m.src m.params.tail }
            let s : State := { s with rafts := s.rafts.insert h r }
            match r.forming false with
            | .agreed =>
              if s.givenUp r then s else
              (List.range r.table.length).foldl (fun s k => s.sendRaft r 1 coordinatorRank k 0 0 [1] [] []) s
            | .differs q => s.failForming h r (mismatchWord q)
            | .lacks _ => s)

/-! ## Collective cards (Tables 16.4, 16.5) -/

/-- The size of an element. -/
def collZ (typ : Nat) : Nat := if typ = 0 then 4 else if typ = 1 then 2 else 1

/-- Source elements at rank `k` (Table 16.5). -/
def collSrc (op m count root k : Nat) : Nat :=
  match op with
  | 0xDC => m * count
  | 0xDE => m * count
  | 0xDD => if k = root then count else 0
  | 0xDF => 0
  | _ => count

/-- Destination elements (Table 16.5). -/
def collDst (op m count : Nat) : Nat :=
  match op with
  | 0xDB => m * count
  | 0xDE => m * count
  | 0xDF => 0
  | _ => count

/-- The card of a collective is malformed for a member (R379): `m` members, rank `k`. -/
def collCardBad (op card m k : Nat) : Bool :=
  let red := fld card 2 1
  let typ := fld card 3 1
  let root := fld card 8 4
  let tmo := fld card 12 4
  let src := fld card 16 8
  let dst := fld card 24 8
  let count := fld card 32 8
  let z := collZ typ
  let ns := collSrc op m count root k
  let nd := collDst op m count
  decide (fld card 0 1 ≠ 5) || decide (4 < fld card 1 1) || decide (2 < red) || decide (op ≠ 0xDA ∧ op ≠ 0xDC ∧ red ≠ 0) ||
  decide (2 < typ) || decide (fld card 5 1 ≠ 0) || decide (op ≠ 0xDD ∧ root ≠ 0) || decide (m ≤ root) ||
  decide (tmo ≠ 0 ∧ (tmo < 10 ∨ 10 ^ 7 < tmo)) || decide (src % z ≠ 0) || decide (dst % z ≠ 0) || decide (fld card 56 8 ≠ 0) ||
  footprintBad card ||
  (if op = 0xDF then decide (typ ≠ 0 ∨ count ≠ 0 ∨ src ≠ 0 ∨ dst ≠ 0)
   else
    decide (count = 0 ∨ 2 ^ 27 < count) || decide (typ = 2 ∧ count % 32 ≠ 0) ||
    (decide (ns ≠ 0) && !covered (cardReads card) src (z * ns)) || !covered (cardWrites card) dst (z * nd) ||
    (decide (typ = 2) && ((decide (ns ≠ 0) && !covered (cardReads card) (fld card 40 8) (ns / 32)) ||
      !covered (cardWrites card) (fld card 48 8) (nd / 32))) ||
    ((Range.mk src (z * ns)).overlaps ⟨dst, z * nd⟩ && !(decide (op = 0xDD ∧ k = root ∧ dst = src))))

/-- The first byte of each page that a region touches. -/
def Range.pages (r : Range) : List Nat :=
  if r.len = 0 then []
  else (List.range ((r.base + r.len - 1) / 2 ^ 17 - r.base / 2 ^ 17 + 1)).map (fun i => max r.base ((r.base / 2 ^ 17 + i) * 2 ^ 17))

/-- The effect of a collective instruction (R379): the card is read and checked, the pages of its regions are translated,
and the job enters the gate. -/
def collectiveBody (op d a : Nat) (s : State) : Res :=
  let va := s.crew.getSS a
  structRead s va 256 256 (fun s card =>
    let h := fld card 4 1
    let enter (s : State) (bad : Bool) (aux : List Nat) (act : State → Nat → State) : Res :=
      enterJob s (.collective op) card va d 0 bad aux none act
    match s.myRaft h with
    | none => enter s true [] (fun s _ => s)
    | some (r, k) =>
      if collCardBad op card r.table.length k then enter s true [] (fun s _ => s.keepWord h k (raftStatus 5 0 0) 31)
      else if fld card 6 2 ≠ 0 ∧ fld card 6 2 ≠ r.gen % 2 ^ 16 then
        enter s false [h, k, 0] (fun s id =>
          (s.mapJob s.focusCore id (fun j => { j with result := some (raftStatus 11 1 k) })).keepWord h k (raftStatus 11 1 k) 31)
      else
        let core := s.focusCore
        let cn := s.crew.ctx
        let (xs, s) := s.xlateAll core none cn .read (((cardReads card).flatMap Range.pages).map (fun v => (0, v)))
        let (ys, s) := s.xlateAll core none cn .write (((cardWrites card).flatMap Range.pages).map (fun v => (0, v)))
        let xs := xs.filter LaneXlat.isAbsent
        let ys := ys.filter LaneXlat.isAbsent
        if xs.isEmpty ∧ ys.isEmpty then enter s false [h, k, 0] (fun s _ => s) else .hold (s.parkOnBoth xs ys))

/-- CAR (R380): all-reduce. -/
def execCar (d a : BitVec 8) (s : State) : Host.Outcome State Fault Refusal :=
  issue (.car d a) s (collectiveBody 0xDA d.toNat a.toNat)

/-- CAG (R380): all-gather. -/
def execCag (d a : BitVec 8) (s : State) : Host.Outcome State Fault Refusal :=
  issue (.cag d a) s (collectiveBody 0xDB d.toNat a.toNat)

/-- CRS (R380): reduce-scatter. -/
def execCrs (d a : BitVec 8) (s : State) : Host.Outcome State Fault Refusal :=
  issue (.crs d a) s (collectiveBody 0xDC d.toNat a.toNat)

/-- CBC (R380): broadcast. -/
def execCbc (d a : BitVec 8) (s : State) : Host.Outcome State Fault Refusal :=
  issue (.cbc d a) s (collectiveBody 0xDD d.toNat a.toNat)

/-- CA2A (R380): all-to-all. -/
def execCa2a (d a : BitVec 8) (s : State) : Host.Outcome State Fault Refusal :=
  issue (.ca2a d a) s (collectiveBody 0xDE d.toNat a.toNat)

/-- CBAR (R380): barrier. -/
def execCbar (d a : BitVec 8) (s : State) : Host.Outcome State Fault Refusal :=
  issue (.cbar d a) s (collectiveBody 0xDF d.toNat a.toNat)

/-! ## Running a collective at a member -/

/-- The instruction of a collective job. -/
def Job.collOp (j : Job) : Nat := match j.kind with | .collective op => op | _ => 0

/-- What a local access of a collective comes to (R385): done at its places, waiting for a page, or failed. -/
inductive CollAccess where
  | ok (xs : List LaneXlat)
  | wait
  | failed
  deriving DecidableEq, Repr

/-- A collective translates bytes that it reads or writes: each absent page is reported once and waited for; one that was
reported and is neither in the fault queue nor present was refused (R385). -/
def State.collAccess (s : State) (core : Nat) (j : Job) (need : Need) (vas : List Nat) : CollAccess × State :=
  let (xs, s) := s.xlateAll core none j.ctx need (vas.map (fun v => (0, v)))
  let pois := decide (need = .read) && xs.any (fun x => match x.x with | .ok l => s.poisoned l.idx 1 | _ => false)
  if xs.any (fun x => decide (x.x = .access ∨ x.x = .bad)) || pois then (.failed, s)
  else
    let absent := xs.filter LaneXlat.isAbsent
    if absent = [] then (.ok xs, s)
    else
      let known := j.aux.drop 3
      let waits (va : Nat) : Bool := (s.die (dieOf core)).faults.any (fun f => decide (f.ctx = j.ctx ∧ f.va = pageOf va)) ||
        (s.core core).faultWait.any (fun f => decide (f.ctx = j.ctx ∧ f.va = pageOf va))
      if absent.any (fun x => known.contains (pageOf x.va) && !waits x.va) then (.failed, s)
      else
        let new := absent.filter (fun x => !known.contains (pageOf x.va))
        let s := s.sendFaults core 0xFF j.ctx need new
        (.wait, s.mapJob core j.id (fun j => { j with aux := j.aux ++ (new.map (fun x => pageOf x.va)).dedup }))

/-- The origin of a local memory error (Table 16.6). -/
def State.localError (s : State) (core : Nat) (j : Job) : State :=
  s.originAbort core j.id (raftStatus 11 2 j.raftOf.2.1) (raftStatus 8 2 j.raftOf.2.1) 31

/-- Group bytes into elements of `z` bytes. -/
def elemsOf (z : Nat) (bs : List Nat) : List Nat :=
  (List.range (bs.length / z)).map (fun i => layout ((List.range z).map (fun t => (1, bs.getD (z * i + t) 0))))

/-- The bytes of elements. -/
def bytesOfElems (z : Nat) (xs : List Nat) : List Nat := xs.flatMap (fun x => (List.range z).map (fun t => fld x t 1))

/-- What matched jobs must agree in (R383). -/
def Job.collParams (j : Job) (r : Raft) : List Nat :=
  [j.collOp, fld j.card 2 1, fld j.card 3 1, fld j.card 32 8, fld j.card 8 4, j.collTimeout r]

/-- A started collective sends its contribution or arrival to the coordinator, once its source can be read. -/
def State.contribute (s : State) (core : Nat) (j : Job) (r : Raft) : State :=
  let (_, k, seq) := j.raftOf
  let m := r.table.length
  let z := collZ (fld j.card 3 1)
  let n := collSrc j.collOp m (fld j.card 32 8) (fld j.card 8 4) k
  let ns := if fld j.card 3 1 = 2 then n / 32 else 0
  let sent (s : State) : State := s.mapJob core j.id (fun j => { j with pos := 1 })
  if j.lost then s.localError core j
  else if j.collOp = 0xDF then sent (s.sendData r 5 k coordinatorRank seq (j.collParams r) [] [])
  else
    match s.collAccess core j .read (byteVas (fld j.card 16 8) (z * n) ++ byteVas (fld j.card 40 8) ns) with
    | (.failed, s) => s.localError core j
    | (.wait, s) => s
    | (.ok xs, s) =>
      let (bs, s) := s.engineRead core j.ctx xs
      sent (s.sendData r 3 k coordinatorRank seq (j.collParams r) (elemsOf z (bs.take (z * n))) (bs.drop (z * n)))

/-- A collective starts (R383, R384, R386, R387): it takes the member's next number, is a release at its scope, and its
timer runs; an abort that the coordinator has already forwarded for the number ends it. -/
def State.startCollective (s : State) (core : Nat) (j : Job) : State :=
  let (h, k, _) := j.raftOf
  match (s.rafts.get? h).filter (fun r => r.live && decide (r.ctx = j.ctx)) with
  | none => s.mapJob core j.id (fun j => { j with result := some (raftStatus 11 3 k) })
  | some r =>
    match r.members.get? k with
    | none => s.mapJob core j.id (fun j => { j with result := some (raftStatus 11 3 k) })
    | some mem =>
      if 8 ≤ ((s.memberJobs h k).filter (fun e => e.2.started)).length then s
      else
        match (s.release j.crew j.scope).numberJob core j r mem with
        | (j, some w, s) => s.endCollective core j.id w 31
        | (j, none, s) => s.contribute core j r

/-- JOB_START (R213, R244, R383): a job in the gate that may start, starts; a collective whose source was absent sends its
contribution when it can. -/
def execJobStart (core job : Nat) (s : State) : Host.Outcome State Fault Refusal :=
  .next (
    match s.job? core job with
    | none => s
    | some j =>
      if j.kind.isCollective ∧ j.started ∧ j.pos = 0 ∧ j.result.isNone ∧ j.ending.isNone then
        match s.rafts.get? j.raftOf.1 with
        | some r => s.contribute core j r
        | none => s
      else if !s.canStart core j ∨ (j.kind = .mload ∧ s.macroFree core j = false) then s
      else if j.kind.isCollective then s.startCollective core j
      else s.startJob core j)

/-! ## Combining at the coordinator (R380 to R382) -/

/-- comb of a reduction on f32 patterns (R381): sum, max or min. -/
def comb (red : Nat) (a b : Word) : Word :=
  match red with
  | 0 => rnd32 (sumVals false [val32 a, val32 b])
  | 1 => rnd32 ((val32 a).max (val32 b))
  | _ => rnd32 ((val32 a).min (val32 b))

/-- One level of the tree: pairs combine, an unpaired last value passes unchanged (R381). -/
def combLevel (red : Nat) : List Word → List Word
  | a :: b :: rest => comb red a b :: combLevel red rest
  | xs => xs

/-- The tree of R381 over the ranks' values: at most 16 levels for 65,535 members. -/
def combTree (red : Nat) : Nat → List Word → Word
  | 0, xs => xs.headD 0
  | fuel + 1, xs => if xs.length ≤ 1 then xs.headD 0 else combTree red fuel (combLevel red xs)

/-- An element of a type as an f32 pattern of the same value (R381, R382): every value of these types is one of f32. -/
def widen (typ scale x : Nat) : Word :=
  match typ with
  | 0 => BitVec.ofNat 32 x
  | 1 => BitVec.ofNat 32 (x * 2 ^ 16)
  | _ => rnd32 ((Fmt.e4m3.value x).mul (Fmt.e4m3.value scale))

/-- RNE, with or without saturation, subnormals honoured. -/
def rneTo (f : Fmt) (sat : Bool) (v : Val) : Nat := rndFloat f ⟨0, sat, false, 0⟩ v

/-- The scale exponent of an output block (R382). -/
def blockExp (ys : List Word) : Int :=
  let mags := (ys.map (fun y => (val32 y).abs)).filter (fun v => !v.isNan && decide (v ≠ .inf false))
  let amax := mags.foldl Val.max (.num false 0 1)
  if amax.isZero then 0
  else
    match (List.range 17).find? (fun (i : Nat) => amax.leZ ((Val.ofInt 448).mul (pow2Val ((i : Int) - 9)))) with
    | some i => (i : Int) - 9
    | none => 8

/-- An output block (R382): the scale byte and the elements. -/
def encodeBlock (ys : List Word) : Nat × List Nat :=
  let e := blockExp ys
  (rneTo .e4m3 false (pow2Val e), ys.map (fun y =>
    if (val32 y).isNan then 0x7F else rneTo .e4m3 true ((val32 y).mul (pow2Val (-e)))))

/-- Elements `[from, from + n)` reduced over the ranks (R381, R382): elements and scale bytes. -/
def reduceElems (typ red lo n : Nat) (ms : List Msg) : List Nat × List Nat :=
  let w (i : Nat) : Word := combTree red 16 (ms.map (fun m => widen typ (m.scales.getD (i / 32) 0) (m.data.getD i 0)))
  let ws := (List.range n).map (fun i => w (lo + i))
  match typ with
  | 0 => (ws.map (fun x => x.toNat), [])
  | 1 => (ws.map (fun x => rneTo .bf16 false (val32 x)), [])
  | _ =>
    let bs := (List.range (n / 32)).map (fun b => encodeBlock ((ws.drop (32 * b)).take 32))
    (bs.flatMap Prod.snd, bs.map Prod.fst)

/-- What rank `k` receives (Table 16.5), from every rank's contribution in rank order; a raft of one copies. -/
def collResult (params : List Nat) (ms : List Msg) (k : Nat) : List Nat × List Nat :=
  let op := params.getD 0 0
  let red := params.getD 1 0
  let typ := params.getD 2 0
  let c := params.getD 3 0
  let part (m : Msg) (i : Nat) : List Nat × List Nat := ((m.data.drop (i * c)).take c, (m.scales.drop (i * c / 32)).take (c / 32))
  let join (xs : List (List Nat × List Nat)) : List Nat × List Nat := (xs.flatMap Prod.fst, xs.flatMap Prod.snd)
  let own : Msg := ms.getD k ⟨0, 0, 0, 0, 0, 0, 0, 0, 0, 0, [], [], []⟩
  match op with
  | 0xDA => if ms.length = 1 then (own.data, own.scales) else reduceElems typ red 0 c ms
  | 0xDB => join (ms.map (fun m => (m.data, m.scales)))
  | 0xDC => if ms.length = 1 then (own.data, own.scales) else reduceElems typ red (k * c) c ms
  | 0xDD => join ((ms.drop (params.getD 4 0)).take 1 |>.map (fun m => (m.data, m.scales)))
  | 0xDE => join (ms.map (fun m => part m k))
  | _ => ([], [])

/-- The coordinator keeps what it knows of a sequence number; the entry half the numbers away is long done. -/
def State.setColl (s : State) (h seq : Nat) (c : Coll) : State :=
  s.mapRaft h (fun r => { r with colls := (r.colls.remove ((seq + 2 ^ 15) % 2 ^ 16)).insert seq c })

/-- The RAFTABORT event (Table 18.2). -/
def State.recordRaft (s : State) (h gen word : Nat) : State :=
  s.record headRing 0 2 5 0 (word + h * 2 ^ 32 + gen % 2 ^ 16 * 2 ^ 48)

/-- The coordinator forwards the first abort of a sequence number to every member (R386). -/
def State.forwardAbort (s : State) (h : Nat) (r : Raft) (seq : Nat) (word : Nat → Nat) : State :=
  let c := r.colls.getD seq Coll.blank
  if c.aborted.isSome then s
  else
    let w := word r.table.length
    let s := s.setColl h seq { c with aborted := some w }
    let s := (s.mapRaft h (fun r => r.named w)).recordRaft h r.gen w
    (List.range r.table.length).foldl (fun s k => s.sendRaft r 6 coordinatorRank k seq (word k) [1] [] []) s

/-- How far segments, each given by its first element and its number of elements, cover an array from element `lo` on without a gap. -/
def reach (segs : List (Nat × Nat)) : Nat → Nat → Nat
  | 0, lo => lo
  | fuel + 1, lo =>
    match segs.find? (fun e => decide (e.1 ≤ lo ∧ lo < e.1 + e.2)) with
    | some e => reach segs fuel (e.1 + e.2)
    | none => lo

/-- The segments cover the elements of an array (R395). -/
def coversAll (segs : List (Nat × Nat)) (n : Nat) : Bool := decide (n ≤ reach segs segs.length 0)

/-- The elements of an array from its segments, each with its offset. -/
def assemble (segs : List (Nat × List Nat)) (n : Nat) : List Nat :=
  (List.range n).map (fun i =>
    ((segs.find? (fun e => decide (e.1 ≤ i ∧ i < e.1 + e.2.length))).map (fun e => e.2.getD (i - e.1) 0)).getD 0)

/-- A rank's whole contribution, once its segments cover the source elements that its parameters give it in a raft of `m` members (R383,
R395); a message that holds them all is one. -/
def wholePart (m : Nat) (x : Msg) (segs : List Msg) : Option Msg :=
  let n := if x.typ = 5 then 0 else collSrc (x.params.getD 0 0) m (x.params.getD 3 0) (x.params.getD 4 0) x.src
  if x.offset = 0 ∧ n ≤ x.data.length then some x
  else if coversAll (segs.map (fun e => (e.offset, e.data.length))) n then
    some { x with offset := 0, data := assemble (segs.map (fun e => (e.offset, e.data))) n
                  scales := assemble (segs.map (fun e => (e.offset / 32, e.scales))) (if x.params.getD 2 0 = 2 then n / 32 else 0) }
  else none

/-- The coordinator has a part of a collective: with the last one the jobs are compared and the results sent (R383).  A contribution may
come in segments (R395). -/
def State.takePart (s : State) (h : Nat) (r : Raft) (m : Msg) : State :=
  let c := r.colls.getD m.seq Coll.blank
  if c.aborted.isSome ∨ c.sent then s
  else
    let segs := m :: c.segs.getD m.src []
    match wholePart r.table.length m segs with
    | none => s.setColl h m.seq { c with segs := c.segs.insert m.src segs }
    | some x =>
    let c := { c with parts := c.parts.insert m.src x, segs := c.segs.remove m.src }
    let n := r.table.length
    let s := s.setColl h m.seq c
    if c.parts.length < n then s
    else
      let ms := c.parts.vals
      let first := (ms.head?.map Msg.params).getD []
      match ms.find? (fun x => decide (x.params ≠ first)) with
      | some x => s.forwardAbort h { r with colls := r.colls.insert m.seq c } m.seq (mismatchWord x.src)
      | none =>
        let s := s.setColl h m.seq { c with sent := true }
        (List.range n).foldl (fun s k =>
          let (d, sc) := collResult first ms k
          s.sendData r 4 coordinatorRank k m.seq [] d sc) s

/-- CONTRIB (R381): the coordinator takes a contribution. -/
def execContrib (ix : Nat) (s : State) : Host.Outcome State Fault Refusal :=
  .next (s.takeMsg ix 3 (fun s h r m => some (if m.dst = coordinatorRank then s.takePart h r m else s)))

/-- ARRIVE (R380): the coordinator takes an arrival at a barrier. -/
def execArrive (ix : Nat) (s : State) : Host.Outcome State Fault Refusal :=
  .next (s.takeMsg ix 5 (fun s h r m => some (if m.dst = coordinatorRank then s.takePart h r m else s)))

/-! ## Ends at a member -/

/-- The member's first pending job, when it has the message's number; nothing when an earlier one is pending (R384), and
`none` inside when the member has no such job any more. -/
def State.jobOfMsg (s : State) (h : Nat) (m : Msg) : Option (Option (Nat × Job)) :=
  match s.firstJob h m.dst with
  | none => some none
  | some e =>
    if e.2.raftOf.2.2 % 2 ^ 16 = m.seq then some (some e)
    else if (s.memberJobs h m.dst).any (fun x => x.2.started && decide (x.2.raftOf.2.2 % 2 ^ 16 = m.seq)) then none
    else some none

/-- RESULT (R380, R384, R395): a member writes the segment to its destination, and ends OK with the whole of it written. -/
def execResult (ix : Nat) (s : State) : Host.Outcome State Fault Refusal :=
  .next (s.takeMsg ix 4 (fun s' h r m =>
    match s'.jobOfMsg h m with
    | none => none
    | some none => some s'
    | some (some (core, j)) =>
      let z := collZ (fld j.card 3 1)
      if j.lost then some (s'.localError core j)
      else
        let data := bytesOfElems z m.data
        let got := (m.offset, m.data.length) :: j.got
        let n := collDst j.collOp r.table.length (fld j.card 32 8)
        match s'.collAccess core j .write (byteVas (fld j.card 24 8 + z * m.offset) data.length ++
            byteVas (fld j.card 48 8 + m.offset / 32) m.scales.length) with
        | (.failed, s') => some (s'.localError core j)
        | (.wait, s') => some { s' with msgs := s'.msgs.take ix ++ m :: s'.msgs.drop ix }
        | (.ok xs, s') =>
          let s' := (s'.engineWrite core j.ctx xs (data ++ m.scales)).mapJob core j.id (fun j => { j with got := got })
          some (if coversAll got n then s'.endCollective core j.id 0 31 else s')))

/-- A member has the coordinator's abort of a number (R386): its pending job takes it, unless it has reached a status; it is kept for a job
that the member has not started; a job that has ended keeps its own. -/
def State.takeAbort (s : State) (h : Nat) (r : Raft) (m : Msg) : State :=
  let s := s.mapRaft h (fun r => r.named m.status)
  match (s.memberJobs h m.dst).find? (fun e => e.2.started && decide (e.2.raftOf.2.2 % 2 ^ 16 = m.seq)) with
  | some (core, j) => s.endCollective core j.id m.status 31
  | none =>
    let started := ((r.members.get? m.dst).map RaftMember.started).getD 0
    let ahead := (m.seq + 2 ^ 16 - started % 2 ^ 16) % 2 ^ 16
    if 0 < ahead ∧ ahead < 2 ^ 15 then
      s.mapRaft h (fun r => r.mapMember m.dst (fun x => { x with aborts := x.aborts.insert m.seq m.status }))
    else s

/-- ABORT (R377, R386): a failed formation ends RAFTFORM, and one that a member has given up fails at all; the coordinator forwards the first abort of a number, and keeps every origin that it
hears of; a member takes what is forwarded. -/
def execAbort (ix : Nat) (s : State) : Host.Outcome State Fault Refusal :=
  .next (
    match (s.msgDue ix 6).bind (fun m => if m.ddev = s.devnum then (s.formingOfMsg m).map (fun e => (m, e)) else none) with
    | some (m, (h, r)) =>
      if !r.live ∧ m.dst = coordinatorRank ∧ m.src ≠ coordinatorRank then
        (s.dropMsg ix).failForming h { r with forms := r.forms.remove m.src } (fun _ => m.status)
      else s.takeReport h r m ix
    | none =>
      s.takeMsg ix 6 (fun s h r m =>
        some (if m.params.head? = some 0 then
          let s := s.mapRaft h (fun r => r.named m.status)
          if m.dst = coordinatorRank then s.forwardAbort h r m.seq (fun _ => m.status) else s
        else if m.params.head? = some 1 then s.takeAbort h r m
        else s)))

/-- COLLECTIVE_TIMEOUT (R385, R387): a started job whose timer has run out ends. -/
def execCollectiveTimeout (core job : Nat) (s : State) : Host.Outcome State Fault Refusal :=
  .next (
    match s.job? core job with
    | none => s
    | some j => if s.collectiveDue j then s.timeoutCollective core job else s)

/-! ## CABORT and CSTAT -/

/-- CABORT (R390): every pending collective of this member on the raft ends as its own abort; with an invalid handle, 64 and more among
them, nothing happens. -/
def execCabort (a : BitVec 8) (s : State) : Host.Outcome State Fault Refusal :=
  issue (.cabort a) s (fun s =>
    let h := (s.crew.getS a.toNat).toNat
    match s.myRaft h with
    | none => .done s
    | some (_, k) => .done ((s.memberJobs h k).foldl (fun s e => s.abortByProgram e.1 e.2) s))

/-- CSTAT (R389): reads a raft without waiting. -/
def execCstat (d a : BitVec 8) (sel : BitVec 8) (s : State) : Host.Outcome State Fault Refusal :=
  issue (.cstat d a sel) s (fun s =>
    let h := (s.crew.getS a.toNat).toNat % 64
    let put (x y : Nat) : Res :=
      .done (s.mapCrew (fun c => (c.setS d.toNat (BitVec.ofNat 32 x)).setS (d.toNat + 1) (BitVec.ofNat 32 y)))
    match s.myRaft h with
    | none => put 0xFFFFFFFF 0
    | some (r, k) =>
      let m := r.members.getD k (RaftMember.fresh 0 0 none 0 31 0 0)
      if sel.toNat = 0 then put m.last (r.gen % 2 ^ 16 + r.table.length * 2 ^ 16)
      else if sel.toNat = 1 then put (k + h * 2 ^ 22) (r.hopBound + ((s.memberJobs h k).filter (fun e => e.2.started)).length % 2 ^ 8 * 2 ^ 16)
      else if m.abort = 0 then put 31 0
      else put (m.port + m.abort / 2 ^ 24 % 16 * 2 ^ 8 + m.abort / 2 ^ 28 * 2 ^ 12) m.abortDev)

/-! ## Re-forming (R388) -/

/-- The raft as its coordinator re-forms it: the old ranks that stay, in order. -/
def Raft.stay (r : Raft) : List Nat :=
  let drop := r.joins.any (fun e => e.2)
  (List.range r.table.length).filter (fun k => (r.joins.get? k).isSome && !(drop && r.origins.contains k))

/-- The collectives of a re-formed raft follow the new ranks of their members; those of members that are left out belong to no raft. -/
def State.renumberJobs (s : State) (h : Nat) (stay : List Nat) : State :=
  { s with cores := s.cores.mapVals (fun (c : Core) => { c with jobs := c.jobs.map (fun j =>
      if j.kind.isCollective ∧ j.raftOf.1 = h then
        { j with aux := if stay.contains j.raftOf.2.1 then j.aux.set 1 (stay.idxOf j.raftOf.2.1) else j.aux.set 0 64 }
      else j) }) }

/-- This device takes a re-formed raft (R388): members that stay take their new ranks and the next generation, members
that joined and are left out end with ABORT_LOCAL, cause 5, and lose the handle. -/
def State.applyReform (s : State) (h : Nat) (r : Raft) (stay : List Nat) : State :=
  let table := stay.map (fun k => r.table.getD k 0)
  let members := r.members.foldl (fun (ms : SMap RaftMember) e =>
    if stay.contains e.1 then
      ms.insert (stay.idxOf e.1) (RaftMember.fresh e.2.winBase e.2.winLen none e.2.last e.2.port e.2.abort e.2.abortDev)
    else ms) []
  let r' : Raft := { r with
    table := table, gen := (r.gen + 1) % 2 ^ 16, members := members, colls := [], joins := [], origins := [], routes := [], forms := [], starts := [] }
  let (routes, s) := s.pickRoutes r'
  let s := r.members.foldl (fun (s : State) e =>
    if stay.contains e.1 then s.answerRaft h e.1 (raftStatus 0 0 0) (stay.idxOf e.1 + h * 2 ^ 22)
    else s.answerRaft h e.1 (raftStatus 11 5 e.1) 0) s
  let s := s.renumberJobs h stay
  if members = [] then { s with rafts := s.rafts.remove h }
  else { s with rafts := s.rafts.insert h { r' with routes := routes } }

/-- The coordinator `k` ends its wait: every joiner on another device is told, then the local members (R388). -/
def State.reform (s : State) (h : Nat) (r : Raft) (k : Nat) : State :=
  let stay := r.stay
  let s := s.recordRaft h (r.gen + 1) 0
  let s := (r.joins.keys.filter (fun q => decide (r.device s.devnum q ≠ s.devnum))).foldl (fun s q =>
    s.sendRaft r 2 k q 0 0 (1 :: stay) [] []) s
  s.applyReform h r stay

/-- A member's JOIN goes to the lowest rank that it does not hold to have failed (R388). -/
def State.sendJoin (s : State) (r : Raft) (k : Nat) (failed : List Nat) (drop : Nat) : State :=
  let t := ((List.range r.table.length).find? (fun q => !failed.contains q)).getD k
  s.sendRaft r 2 k t 0 0 [0, drop] [] []

/-- RAFTRE (R388): re-forms a raft; the crew waits for the coordinator's report. -/
def execRaftre (d a b : BitVec 8) (s : State) : Host.Outcome State Fault Refusal :=
  issue (.raftre d a b) s (fun s =>
    let c := s.crew
    let h := (c.getS a.toNat).toNat % 64
    let x := (c.getS b.toNat).toNat
    if c.waiting.isSome then .hold s
    else
      match s.myRaft h with
      | none => .done (s.mapCrew (fun c => (c.setS d.toNat (BitVec.ofNat 32 (raftStatus 5 0 0))).setS (d.toNat + 1) 0))
      | some (r, k) =>
        if 1 < x then .done (s.mapCrew (fun c => (c.setS d.toNat (BitVec.ofNat 32 (raftStatus 5 0 0))).setS (d.toNat + 1) 0))
        else
          let s := (s.memberJobs h k).foldl (fun s e => s.originAbort e.1 e.2.id (raftStatus 11 1 k) (raftStatus 8 1 k) 31) s
          let deadline := c.deadline.getD (s.clock + r.timeout)
          let failed := ((r.members.get? k).map RaftMember.failed).getD []
          let s := s.mapRaft h (fun r => r.mapMember k (fun m => { m with deadline := some deadline, drop := x, rejoin := true }))
          let s := s.sendJoin r k failed x
          .hold (s.mapCrew (fun c => { c with waiting := some (.raftre d.toNat h k), deadline := some deadline })))

/-- JOIN (R388): the coordinator takes a join, and re-forms the raft when every member has joined; a member takes its
report. -/
def execJoin (ix : Nat) (s : State) : Host.Outcome State Fault Refusal :=
  .next (s.takeMsg ix 2 (fun s h r m =>
    if m.params.head? = some 1 then some (s.applyReform h { r with joins := [(m.dst, false)] } m.params.tail)
    else
      let r := { r with joins := r.joins.insert m.src (decide (m.params.getD 1 0 = 1)) }
      let s : State := { s with rafts := s.rafts.insert h r }
      some (if (List.range r.table.length).all (fun k => (r.joins.get? k).isSome) then s.reform h r m.dst else s)))

/-- A member whose RAFTRE waits has had no reply within T (R388): the rank that it asked has failed and the next is asked.  Where that is
the member itself, T has passed since its own RAFTRE, and as coordinator it waits no longer. -/
def State.joinTimeout (s : State) (h k : Nat) : State :=
  match s.rafts.get? h with
  | none => s
  | some r =>
    match r.members.get? k with
    | none => s
    | some m =>
      match (if m.rejoin then m.deadline else none) with
      | none => s
      | some t =>
        if !r.live ∨ s.clock < t then s
        else
          let first (failed : List Nat) : Nat := ((List.range r.table.length).find? (fun q => !failed.contains q)).getD k
          let failed := if first m.failed = k then m.failed else m.failed ++ [first m.failed]
          if first failed = k then s.reform h { r with joins := r.joins.insert k (decide (m.drop = 1)) } k
          else
            (s.mapRaft h (fun r => r.mapMember k (fun m => { m with
              failed := failed, deadline := some (s.clock + r.timeout) }))).sendJoin r k failed m.drop

/-- RAFT_JOIN_TIMEOUT (R388). -/
def execRaftJoinTimeout (h k : Nat) (s : State) : Host.Outcome State Fault Refusal := .next (s.joinTimeout h k)

end Sys2Proof.Machine
end

