-- ==== Sys2Proof/Machine/Remote.lean ====
section
/-! DEFINITION. One-sided remote access (R391 to R393) and the failure of ports (R452). -/

namespace Sys2Proof.Machine

/-- What a failed RGET writes (R391). -/
def failValue (mode : BitVec 16) : Nat := if modeType mode = 2 then 0x7FC00000 else 0xFFFFFFFF

/-- The first failure since it was last cleared is recorded in REMSTAT (R393). -/
def Crew.remFailed (c : Crew) (status h k : Nat) : Crew :=
  if c.remstat ≠ 0 then c else { c with remstat := BitVec.ofNat 32 (status * 2 ^ 28 + h * 2 ^ 22 + k) }

/-- The effect of RPUT and RGET (R391): the checks, then one request for each active lane.  Over a failed route every lane
fails at once. -/
def remoteBody (get : Bool) (d a b : Nat) (s : State) : Res :=
  let c := s.crew
  let w := c.getS b
  let h := w.toNat / 2 ^ 22 % 64
  let k := w.toNat % 2 ^ 22
  let lanes := (lanesOf c.active).map (fun l => (l, c.getVV a l))
  match s.myRaft h with
  | none => .trap s 0x03 (w.zeroExtend 64)
  | some (r, me) =>
    if 2 ^ 28 ≤ w.toNat ∨ r.table.length ≤ k then .trap s 0x03 (w.zeroExtend 64)
    else
      match lanes.find? (fun l => decide (l.2.toNat % 4 ≠ 0)) with
      | some l => .trap s 0x02 l.2
      | none =>
        let s := if get then s else s.perform s.fkey (fun p => p.kind.isLoad)
        if lanes = [] then .done s
        else if r.routeDead k ∨ r.routeDead me then
          .done (s.mapCrew (fun c =>
            let c := c.remFailed 10 h k
            if get then c.setLanes d 1 (maskOf (fun l => lanes.any (fun x => decide (x.1 = l)))) (fun _ => failValue c.mode) else c))
        else
          let key := s.fkey
          let first := (s.core s.focusCore).remSeq
          let accs := lanes.zipIdx.map (fun e => LaneAcc.mk e.1.1 e.1.2.toNat ⟨0, false⟩ 0 (first + e.2)
            [s.clock + r.timeout, h, k, failValue c.mode] true)
          let s := lanes.zipIdx.foldl (fun s e =>
            s.sendData r 7 me k 0
              [if get then 1 else 0, e.1.2.toNat, (c.getV d e.1.1).toNat, key, first + e.2] [] []) s
          let s := s.mapCore s.focusCore (fun x => { x with remSeq := first + lanes.length })
          .done (s.enterPend ⟨.remote get d, 4, accs, c.pc, c.issued, 0, s.clock⟩)

/-- RPUT (R391): writes a word of the target's window in each active lane. -/
def execRput (d a b : BitVec 8) (s : State) : Host.Outcome State Fault Refusal :=
  issue (.rput d a b) s (remoteBody false d.toNat a.toNat b.toNat)

/-- RGET (R391): reads a word of the target's window in each active lane. -/
def execRget (d a b : BitVec 8) (s : State) : Host.Outcome State Fault Refusal :=
  issue (.rget d a b) s (remoteBody true d.toNat a.toNat b.toNat)

/-- Lanes of the crew at `key` that satisfy `p` are answered (R392): status 0 with a value, or a failure. -/
def State.answerLanes (s : State) (key : Nat) (p : LaneAcc → Bool) (status value : Nat) : State :=
  s.mapCrewAt key (fun c =>
    let c := c.pend.foldl (fun (c : Crew) e =>
      match e.kind with
      | .remote get dst =>
        (e.accs.filter p).foldl (fun (c : Crew) a =>
          let c := if status = 0 then c else c.remFailed status (a.gens.getD 1 0) (a.gens.getD 2 0)
          if get then c.setV dst a.lane (BitVec.ofNat 32 (if status = 0 then value else a.gens.getD 3 0)) else c) c
      | _ => c) c
    { c with pend := c.pend.filterMap (fun e =>
        if !e.kind.isRemote then some e
        else
          let rest := e.accs.filter (fun a => !p a)
          if rest = [] then none else some { e with accs := rest }) })

/-- The core whose agent performs a remote access at a member: its own, or the lowest live one of the device. -/
def State.remoteCore (s : State) (r : Raft) (k : Nat) : Nat :=
  if r.kind = 1 then r.table.getD k 0 else ((List.range 192).find? s.coreLive).getD 0

/-- REMREQ (R392, R395): one from another device is delivered in its order first, and is then to be performed.  The access is made at the target's window, as by a system-scope peer agent: a read of a pool-mapped range reads the
backing lines (R192), and everything else is at the point of coherence (log 70);
an absent page is reported to the landing pager and waited for, and one that it refused makes the target refuse. -/
def execRemreq (ix : Nat) (s : State) : Host.Outcome State Fault Refusal :=
  .next (s.takeMsg ix 7 (fun s _ r m =>
    let again (s : State) (x : Nat) : State :=
      { s with msgs := s.msgs.take ix ++ { m with params := m.params.take 5 ++ [x] } :: s.msgs.drop ix }
    match r.members.get? m.dst with
    | none => some s
    | some w =>
      if m.sdev ≠ m.ddev ∧ !m.delivered then some (again s 0) else
      let get := decide (m.params.getD 0 0 = 1)
      let off := m.params.getD 1 0
      let reply (s : State) (status value : Nat) : State :=
        s.sendData r 8 m.dst m.src 0 [m.params.getD 3 0, m.params.getD 4 0, status, value] [] []
      if w.winLen < off + 4 then some (reply s 8 0)
      else
        let va := (w.winBase + off) % 2 ^ 64
        if va % 4 ≠ 0 then some (reply s 8 0)
        else
          match s.xlateWalk r.ctx va (if get then .read else .write) with
          | .ok l =>
            if get then
              let i := if l.cached then l.idx else s.backing r.ctx ⟨0, va, .ok l⟩
              if s.poisoned i 4 then some (reply s 8 0) else some (reply s 0 (s.bytes i 4))
            else some (reply (s.setBytes l.idx (m.params.getD 2 0) 4) 0 0)
          | .absent kind level pte =>
            let core := s.remoteCore r m.dst
            let waits := (s.die (dieOf core)).faults.any (fun f => decide (f.ctx = r.ctx ∧ f.va = pageOf va)) ||
              (s.core core).faultWait.any (fun f => decide (f.ctx = r.ctx ∧ f.va = pageOf va))
            if waits then none
            else if m.params.getD 5 0 = 1 then some (reply s 8 0)
            else
              let s := s.sendFault ⟨pageOf va, r.ctx, kind, if get then 0 else 1, core, 0xFF, level, pte, 0, false, 0, 0, noTask⟩
              some (again s 1)
          | _ => some (reply s 8 0)))

/-- REMACK (R392): an acknowledgement or a reply completes its lane; after the lane has failed it changes nothing. -/
def execRemack (ix : Nat) (s : State) : Host.Outcome State Fault Refusal :=
  .next (s.takeMsg ix 8 (fun s h _ m =>
    some (s.answerLanes (m.params.getD 0 0)
      (fun a => decide (a.cmp = m.params.getD 1 0 ∧ a.gens.getD 1 0 = h)) (m.params.getD 2 0) (m.params.getD 3 0))))

/-- The lanes of the outstanding remote accesses of a crew that have had no reply within T fail (R392). -/
def State.remoteTimeout (s : State) (key : Nat) (p : LaneAcc → Bool) : State :=
  if (s.crews.get? key).elim false (fun c => c.pend.any (fun e => e.kind.isRemote &&
    e.accs.any (fun a => p a && decide (a.gens.getD 0 0 ≤ s.clock)))) then
    s.answerLanes key (fun a => p a && decide (a.gens.getD 0 0 ≤ s.clock)) 9 0
  else s

/-- REMOTE_ACCESS_TIMEOUT (R392): the lanes of an outstanding remote access have had no reply within T. -/
def execRemoteAccessTimeout (core slot entry : Nat) (s : State) : Host.Outcome State Fault Refusal :=
  .next (
    let key := crewKey core slot
    match (s.crews.get? key).bind (fun c => c.pend[entry]?) with
    | none => s
    | some p => if !p.kind.isRemote then s else s.remoteTimeout key p.accs.contains)

/-! ## Ports (R452) -/

/-- The capability list changes: CAPGEN takes its next even value (R447). -/
def State.newCapabilities (s : State) : State := { s with service := { s.service with capgen := (s.service.capgen + 2) % 2 ^ 32 } }

/-- The pending collectives of a raft's members here that `p` names end ABORT_LINK, with the member as origin (R385). -/
def State.abortLink (s : State) (h : Nat) (r : Raft) (cause port : Nat) (p : Nat → Nat → Bool) : State :=
  r.members.keys.foldl (fun (s : State) k =>
    ((s.memberJobs h k).filter (fun e => p k e.1)).foldl (fun (s : State) e =>
      s.originAbort e.1 e.2.id (raftStatus 10 cause k) (raftStatus 10 cause k) port) s) s

/-- The remote lanes of the crews that `p` names, on a raft and to the ranks that `q` names, fail with their route (R392). -/
def State.failLanes (s : State) (h : Nat) (p q : Nat → Bool) : State :=
  (s.crews.keys.filter p).foldl (fun (s : State) key =>
    s.answerLanes key (fun a => decide (a.gens.getD 1 0 = h) && q (a.gens.getD 2 0)) 10 0) s

/-- What the failure of a port does to the rafts routed over it (R385, R392, R452): their pending collectives end
ABORT_LINK with this member as origin, lanes on the route fail, and the generation never uses the port again. -/
def State.failRoutes (s : State) (port : Nat) : State :=
  let hit (r : Raft) : Bool := r.live && r.routes.any (fun e => decide (e.2 = port))
  (s.rafts.filter (fun e => hit e.2)).foldl (fun (s : State) e =>
    ((s.mapRaft e.1 (fun r => { r with routes := r.routes.mapVals (fun p => if p = port then deadRoute port else p) })).abortLink
      e.1 e.2 (if port < 24 then 0 else 1) port (fun _ _ => true)).failLanes e.1 (fun _ => true)
        (fun k => decide (e.2.routes.get? k = some port))) s

/-- What the failure of a compute die's port to the B-die does (R385, Table 16.3 cause 2; log 80): the collectives of members on the die end
ABORT_LINK with those members as origins, and a core raft with a member on the die does not use its route in that generation again. -/
def State.failOnPackage (s : State) (die : Nat) : State :=
  (s.rafts.filter (fun e => e.2.live)).foldl (fun (s : State) e =>
    let there (k : Nat) : Bool := decide (e.2.kind = 1) && decide (dieOf (e.2.table.getD k 0) = die)
    let gone := (List.range e.2.table.length).filter there
    let s := s.mapRaft e.1 (fun r => { r with routes := gone.foldl (fun m k => m.insert k (deadRoute 31)) r.routes })
    let s := s.abortLink e.1 e.2 2 31 (fun _ core => decide (dieOf core = die))
    (s.failLanes e.1 (fun key => decide (e.2.kind = 1) && decide (dieOf (key / 64) = die)) (fun _ => true)).failLanes e.1 (fun _ => true) there) s

/-- A port leaves service, and LIVE (R447). -/
def State.portOut (s : State) (port : Nat) : State :=
  (({ s with livePorts := s.livePorts - (if s.livePorts.testBit port then 2 ^ port else 0) } : State).failRoutes port).newCapabilities

/-- LINK_RETRY_FAILURE (R385, R452): a port that fails link-level retry leaves service and retrains on its own; 28 to 35 are the compute
dies' ports to the B-die (log 80), of which R452 says nothing. -/
def execLinkRetryFailure (port : Nat) (s : State) : Host.Outcome State Fault Refusal :=
  .next (
    if 28 ≤ port then (if s.dieLive (port - 28) then s.failOnPackage (port - 28) else s)
    else if !s.livePorts.testBit port then s
    else
      let s := s.portOut port
      { s with retrain := s.retrain.insert port (0, s.clock) })

/-- A kind 7 control record (R444). -/
def State.recordPort (s : State) (port up tries : Nat) : State :=
  s.postRecord 0 7 (layout [(1, port), (1, up), (1, tries)])

/-- PORT_RETRAIN_ATTEMPT (R452): one attempt of a failed port to retrain, at least 10 ms after the one before. -/
def execPortRetrainAttempt (port : Nat) (ok : Bool) (s : State) : Host.Outcome State Fault Refusal :=
  .next (
    match s.retrain.get? port with
    | none => s
    | some (n, t) =>
      if s.clock < t ∨ s.service.actions.any (fun a => decide (a.cmd = 5 ∧ a.arg % 32 = port)) then s
      else if ok then
        let s : State := { s with retrain := s.retrain.remove port, livePorts := s.livePorts ||| 2 ^ port }
        (s.newCapabilities).recordPort port 0 (n + 1)
      else if s.params.portTry ≤ n + 1 then
        ({ s with retrain := s.retrain.remove port } : State).recordPort port 1 (n + 1)
      else { s with retrain := s.retrain.insert port (n + 1, s.clock + 10000000) })

/-! ## Time -/

/-- Jobs with their cores, in rising order of a key. -/
def inOrder (key : Job → Nat) (l : List (Nat × Job)) : List (Nat × Job) :=
  l.foldr (fun e l => l.takeWhile (fun x => decide (key x.2 < key e.2)) ++ e :: l.dropWhile (fun x => decide (key x.2 < key e.2))) []

/-- The jobs of the package that `p` names, with their cores. -/
def State.jobsThat (s : State) (p : Job → Bool) : List (Nat × Job) :=
  s.cores.flatMap (fun c => (c.2.jobs.filter p).map (fun j => (c.1, j)))

/-- The collectives of the package whose timers have run out, by sequence number. -/
def State.dueCollectives (s : State) : List (Nat × Job) := inOrder (fun j => j.raftOf.2.2) (s.jobsThat s.collectiveDue)

/-- A started collective is pending at s_0 + T_j + 2H, with s_0 the earliest start among the members here (R387). -/
def State.collectiveLate (s : State) (j : Job) : Bool :=
  j.kind.isCollective && j.started && j.result.isNone &&
    ((s.rafts.get? j.raftOf.1).bind (fun r => (r.starts.get? (j.raftOf.2.2 % 2 ^ 16)).map (fun t =>
      decide (t + j.collTimeout r + 2000 * r.hopBound ≤ s.clock)))).getD false

/-- The aborts of a raft's number that are on their way here arrive: first those of origins, then what the coordinator forwards (R386). -/
def State.hurryAborts (s : State) (h seq : Nat) : State :=
  let pass (s : State) (step : Nat) : State :=
    match s.rafts.get? h with
    | none => s
    | some r =>
      let mine (m : Msg) : Bool := decide (m.typ = 6 ∧ m.key = r.key ∧ m.gen = r.gen % 2 ^ 16 ∧ m.seq = seq ∧ m.ddev = s.devnum ∧
        m.params.head? = some step)
      let here := s.msgs.filter mine
      let s : State := { s with msgs := s.msgs.filter (fun m => !mine m) }
      here.foldl (fun (s : State) m =>
        match s.rafts.get? h with
        | none => s
        | some r =>
          if step = 0 then
            let s := s.mapRaft h (fun r => r.named m.status)
            if m.dst = coordinatorRank then s.forwardAbort h r m.seq (fun _ => m.status) else s
          else s.takeAbort h r m) s
  pass (pass s 0) 1

/-- A collective that is pending past s_0 + T_j + 2H ends, with what the raft has sent by then (R387; log 132). -/
def State.endLate (s : State) (core : Nat) (j : Job) : State :=
  let s := s.hurryAborts j.raftOf.1 (j.raftOf.2.2 % 2 ^ 16)
  if (s.job? core j.id).elim false (fun x => x.result.isNone && x.ending.isSome) then s.timeoutCollective core j.id else s

/-- The ended collectives whose time is up, and those of their members that ended before them, in the order of their ends: none is pending
past its time (R387). -/
def State.overdueTokens (s : State) : List (Nat × Job) :=
  let ended := s.jobsThat (fun j => j.kind.isCollective && j.started && j.result.isSome)
  let due (j : Job) : Bool := j.deadline.elim false (fun t => decide (t ≤ s.clock))
  inOrder Job.ended (ended.filter (fun e => ended.any (fun x => due x.2 &&
    decide (x.2.raftOf.1 = e.2.raftOf.1 ∧ x.2.raftOf.2.1 = e.2.raftOf.2.1 ∧ e.2.ended ≤ x.2.ended))))

/-- Time passes, in device ticks.  No collective, RAFTFORM, RAFTRE, RPUT, RGET, AWAIT or SPWAIT waits past its time
(R204, R320, R387, R396). -/
def State.passTime (s : State) (n : Nat) : State :=
  let s : State := { s with clock := s.clock + n, pauses := if s.fabricPaused then (s.clock, n) :: s.pauses else s.pauses }
  let s := (s.jobsThat s.collectiveLate).foldl (fun (s : State) e => s.endLate e.1 e.2) s
  let s := s.dueCollectives.foldl (fun (s : State) e => s.timeoutCollective e.1 e.2.id) s
  let s := s.overdueTokens.foldl (fun (s : State) e => s.completeJob e.1 e.2 (e.2.result.getD 0)) s
  let s := s.crews.keys.foldl (fun (s : State) k => s.remoteTimeout k (fun _ => true)) s
  let s := s.crews.keys.foldl State.awaitTimeout s
  let s := s.crews.keys.foldl (fun (s : State) k => { spwaitTimeout (k / 64) (k % 64) s with focusCore := s.focusCore, focusSlot := s.focusSlot }) s
  (s.rafts.flatMap (fun e => e.2.members.keys.map (fun k => (e.1, k)))).foldl (fun (s : State) e =>
    (s.formTimeout e.1 e.2).joinTimeout e.1 e.2) s

end Sys2Proof.Machine
end

