-- ==== Sys2Proof/Machine/Recorder.lean ====
section
/-! DEFINITION. The strandline recorder (R416 to R436): MARK, the branch trace, the counters, freezes and the sealing of
capsules. -/

namespace Sys2Proof.Machine

/-! ## MARK -/

/-- MARK (R430): the user event. -/
def execMark (d : BitVec 8) (i : BitVec 16) (s : State) : Host.Outcome State Fault Refusal :=
  issue (.mark d i) s (fun s => .done (s.recordCrew s.fkey 3 0 (i.toNat + (s.crew.getS d.toNat).toNat * 2 ^ 16)))

/-! ## Armed branch trace (R431) -/

/-- The pages of a buffer. -/
def bufferPages (va size : Nat) : List Nat := (List.range ((size + 2 ^ 17 - 1) / 2 ^ 17)).map (fun i => va + i * 2 ^ 17)

/-- Arm a trace of the executing crew's task: the header is written, after the crew's earlier loads (R185), and every bound crew of the task
traces from its next instruction boundary. -/
def State.armTrace (s : State) (va size : Nat) : State :=
  let c := s.crew
  let s := s.perform s.fkey (fun p => p.kind.isLoad)
  let t : Trace := ⟨c.ctx, c.task, va, size, 0, 0, false⟩
  let s := s.unitWrite c.ctx va 64 (layout [(16, 0), (4, c.task), (4, 1)])
  let s : State := { s with traces := t :: s.traces }
  let s := s.mapCtx c.ctx (fun x => { x with trcstat := 1 })
  ((s.crews.filter (fun e => decide (e.2.task = c.task))).map Prod.fst).foldl State.traceStart s

/-- TRCARM (R431): arms a branch trace, or disarms it. -/
def execTrcarm (d a b : BitVec 8) (s : State) : Host.Outcome State Fault Refusal :=
  let i : Instr := .trcarm d a b
  issue i s (fun s =>
    let c := s.crew
    let w := c.getS b.toNat
    let arm := w.getLsbD 0
    let size := bitsOf w.toNat 12 8
    let va := (c.getSS a.toNat).toNat
    let put (s : State) (x : Word) : State := s.mapCrew (fun c => c.setS d.toNat x)
    if w.toNat ≠ (if arm then 1 + size * 2 ^ 8 else 0) ∨ (arm ∧ (size < 16 ∨ 30 < size)) then .trap s 0x01 (w.zeroExtend 64)
    else if arm then
      if va % 2 ^ size ≠ 0 then .trap s 0x02 (BitVec.ofNat 64 va)
      else
        match s.classify s.focusCore none c.ctx 1 .write false ((bufferPages va (2 ^ size)).map (fun v => (0, v))) with
        | (.trap cause tval, s) => .trap s cause tval
        | (.go _ [], s) =>
          if s.traces.any (fun t => decide (t.ctx = c.ctx)) then .done (put s (BitVec.allOnes 32))
          else .ended ((finish i c (.done (put s 0))).armTrace va size)
        | (.go _ absent, s) => .hold (s.parkOn c.am .write absent)
    else
      match s.traceOf c with
      | none => .done (put s (BitVec.allOnes 32))
      | some t =>
        let s := (s.perform s.fkey (fun p => p.kind.isLoad)).unitWrite t.ctx (t.va + 20) 4 2
        let s : State := { s with
          traces := s.traces.filter (fun x => decide (x.ctx ≠ t.ctx ∨ x.task ≠ t.task))
          crews := s.crews.mapVals (fun (x : Crew) => if x.task = t.task then { x with bmap := [] } else x) }
        let s := (s.mapCtx t.ctx (fun x => { x with trcstat := 2 })).release s.fkey 3
        .done (put s (BitVec.ofNat 32 t.written)))

/-! ## Counters -/

/-- The events of Table 18.6. -/
def counterEvents : List Nat :=
  [0x0001, 0x0002, 0x0003, 0x0004, 0x1000, 0x1001, 0x1002, 0x1003, 0x1004, 0x2000, 0x2001, 0x2002, 0x3000, 0x3001, 0x3002, 0x3003,
    0x4000, 0x4001, 0x5000, 0x5001, 0x5002, 0x5003]

/-- The events that the model counts as they happen; how often the others come is left to the device (log 32). -/
def exactEvents : List Nat :=
  [0x0001, 0x0002, 0x0003, 0x0004, 0x1000, 0x1001, 0x1002, 0x1003, 0x1004, 0x3000, 0x3001, 0x3002, 0x3003, 0x4000, 0x4001]

/-- Counter `k` of a core counts what lies below the model: cycles, and the events of L2, the MLC and the fabric; a fabric counter of a
virtual function stays (R435; log 32). -/
def State.countsBelow (s : State) (core k : Nat) : Bool :=
  let cfg := ((s.core core).ctrs.getD k Counter.zero).cfg
  let code := bitsOf cfg 15 0
  decide (k = 8 ∨ k = 10) ||
    (decide (k < 8) && cfg.testBit 16 && !exactEvents.contains code && !(decide (s.current ≠ 0) && decide (0x5000 ≤ code)))

/-- A counter of a core counts `n` of what lies below the model. -/
def State.countBelow (s : State) (core k n : Nat) : State := if s.countsBelow core k then s.bump core k n else s

/-- Counter `k` of a core advances by a free number of what lies below the model. -/
def State.advanceCounter (s : State) (core k : Nat) : State :=
  if s.countsBelow core k then s.takeFree.2.bump core k (s.takeFree.1.toNat % 2 ^ 48) else s

/-- The lines that the crew's outstanding accesses find or miss in L1 are counted before it reads a counter of them (R436). -/
def State.countedLines (s : State) (core k : Nat) : State :=
  let code := bitsOf ((s.core core).ctrs.getD k Counter.zero).cfg 15 0
  if k < 8 ∧ (code = 0x1000 ∨ code = 0x1001) then s.perform s.fkey (fun p => !p.kind.isRemote) else s

/-- CNTRD (R436): a counter as two words. -/
def execCntrd (d k : BitVec 8) (s : State) : Host.Outcome State Fault Refusal :=
  issue (.cntrd d k) s (fun s =>
    let s := (s.countedLines s.focusCore k.toNat).advanceCounter s.focusCore k.toNat
    let n := ((s.core s.focusCore).ctrs.getD k.toNat Counter.zero).count
    .done (s.mapCrew (fun c => c.setSS d.toNat (BitVec.ofNat 64 n))))

/-- CNTCFG (R435): configures a programmable counter, which has counted to here under its old setting; the new one applies from the next
instruction on. -/
def execCntcfg (k b : BitVec 8) (s : State) : Host.Outcome State Fault Refusal :=
  let i : Instr := .cntcfg k b
  issue i s (fun s =>
    let c := s.crew
    let x := s.ctx c.ctx
    let w := c.getS b.toNat
    if x.level = 0 ∧ x.cntctl.getLsbD 0 = false then .trap s 0x15 (i.word.zeroExtend 64)
    else if 2 ^ 20 ≤ w.toNat ∨ !counterEvents.contains (bitsOf w.toNat 15 0) then .trap s 0x01 (w.zeroExtend 64)
    else
      let core := s.focusCore
      .ended ((finish i c (.done ((s.countedLines core k.toNat).advanceCounter core k.toNat))).mapCore core (fun q =>
        let old := q.ctrs.getD k.toNat Counter.zero
        let new : Counter := ⟨if w.getLsbD 18 then 0 else old.count, w.toNat % 2 ^ 18 + w.toNat / 2 ^ 19 * 2 ^ 19, c.task⟩
        { q with ctrs := q.ctrs.setD k.toNat new Counter.zero })))

/-! ## Freezing and sealing -/

/-- A ring that may detect a device-fatal trigger: a live die's foreman, or the head foreman (R421). -/
def State.isForeman (s : State) (ring : Nat) : Bool :=
  decide (ring = headRing) || (decide (0x100 ≤ ring ∧ ring < 0x108) && s.dieLive (ring - 0x100))

/-- A device-fatal trigger (R421, R444): it freezes the recorders and the PF is told; nothing more happens once a
device-fatal capsule has been sealed (R454). -/
def State.fatalTrigger (s : State) (ring cause : Nat) : State :=
  if s.isForeman ring && !s.service.fatal then (s.trigger ring cause 0).postRecord 0 4 cause else s

/-- FOREMAN_MEMORY_ERROR (R421): an uncorrectable error in a foreman's or the B-die engines' memory. -/
def execForemanMemoryError (ring : Nat) (s : State) : Host.Outcome State Fault Refusal := .next (s.fatalTrigger ring 0x80)

/-- FOREMAN_WATCHDOG (R421). -/
def execForemanWatchdog (ring : Nat) (s : State) : Host.Outcome State Fault Refusal := .next (s.fatalTrigger ring 0x81)

/-- SYNC_PLANE_LOSS (R421): the sync plane between a die and the B-die is lost. -/
def execSyncPlaneLoss (ring : Nat) (s : State) : Host.Outcome State Fault Refusal := .next (s.fatalTrigger ring 0x82)

/-- THERMAL_TRIP (R421, R455). -/
def execThermalTrip (s : State) : Host.Outcome State Fault Refusal := .next (s.fatalTrigger headRing 0x83)

/-- FREEZE_BROADCAST (R422): the broadcast reaches the next ring, which freezes at the next position. -/
def execFreezeBroadcast (s : State) : Host.Outcome State Fault Refusal :=
  .next (
    match s.freeze with
    | none => s
    | some f =>
      match f.left with
      | [] => s
      | n :: rest =>
        let held := if n < 192 then f.tenants.insert n (s.tenantsOn n) else f.tenants
        let s := s.freezeRing n f.origin f.cause f.next
        { s with freeze := some { f with left := rest, next := f.next + 1, tenants := held } })

/-- A change copy as a store holds it (R318): the entry that the slot takes at its TIDE (log 49). -/
def Change.copyOf (c : SlotCfg) : Change → SlotCfg
  | .entry n _ => n
  | .ecw n x => if n = 0 then { c with ecr0 := x } else { c with ecr1 := x }

/-- The configuration stores of a core in spatial mode, as bytes (R318, R425): the entries of its 64 slots, empty ones as zeros, and then
the change copies in slot order, oldest first (log 49). -/
def State.storeBytes (s : State) (core : Nat) : List Nat :=
  match s.regionAt core with
  | none => []
  | some (_, r) =>
    let slots := (List.range 64).map (fun i => r.slotAt (slotKey (r.cores.idxOf core) i))
    slots.flatMap (fun x => bytesOf 16 x.cfg.toBytes) ++
      slots.flatMap (fun x => x.changes.flatMap (fun ch => bytesOf 16 (ch.copyOf x.cfg).toBytes))

/-- The digest of a core's state (R425). -/
def State.coreDigest (s : State) (core : Nat) : Nat :=
  if !s.coreLive core then 0
  else
    sha512 (((s.crews.filter (fun e => decide (e.1 / 64 = core))).flatMap (fun e => s.saveBytesAt e.1 e.2)) ++
      s.storeBytes core)

/-- The events of a ring with LOST in the place of each that could not be read, oldest first (R416, Table 18.2): `prev` is the stamp before
and `number` the number of the next event.  The stamp of a LOST event is free among those that keep the stamps of the ring in order (R420;
log 133). -/
def State.withLost (s : State) (lost : List Nat) : Nat → Nat → List (BitVec 128) → List (BitVec 128) × State
  | _, _, [] => ([], s)
  | prev, number, e :: rest =>
    let stamp (x : BitVec 128) : Nat := x.toNat % 2 ^ 32
    if lost.contains number then
      let later := (rest.zipIdx (number + 1)).find? (fun x => !lost.contains x.2)
      let next := (later.map (fun x => stamp x.1)).getD (s.clock % 2 ^ 32)
      let t := (prev + s.takeFree.1.toNat % ((next + 2 ^ 32 - prev) % 2 ^ 32 + 1)) % 2 ^ 32
      let (es, s) := s.takeFree.2.withLost lost t (number + 1) rest
      (eventOf t 0 15 1 0 0 :: es, s)
    else
      let (es, s) := s.withLost lost (stamp e) (number + 1) rest
      (e :: es, s)

/-- The rings of a capsule, with their LOST events. -/
def State.sealRings (s : State) : List (Nat × Ring) → List (Nat × Ring) × State
  | [] => ([], s)
  | (n, r) :: rest =>
    let first := ((r.events.getLast?).map (fun e => e.toNat % 2 ^ 32)).getD 0
    let (es, s) := if r.lost = [] then (r.events.reverse, s) else s.withLost r.lost first (r.written - r.events.length) r.events.reverse
    let (rs, s) := s.sealRings rest
    ((n, { r with events := es.reverse }) :: rs, s)

/-- The capsule of a freeze whose rings are all frozen (R417, R425): flag bit 0 is device-fatal, and bit 2 says that the MAC of some ring
failed. -/
def State.capsuleOf (s : State) (f : Freeze) : Capsule × State :=
  let frozen := s.rings.filter (fun e => e.2.frozen.isSome)
  let order := frozen.mergeSort (fun a b => decide ((a.2.frozen.map Prod.fst).getD 0 ≤ (b.2.frozen.map Prod.fst).getD 0))
  let agreed := (frozen.filter (fun e => e.2.agrees s.boots)).map Prod.fst
  let flags := (if f.stay then 1 else 0) + (if agreed.length = frozen.length then 0 else 4)
  let (rings, s) := s.sealRings order
  ({ number := s.capsuleCount + 1, flags := flags, clock := f.clock, origin := f.origin, cause := f.cause
     further := f.further, tval := f.tval, rings := rings
     digests := (List.range 192).map s.coreDigest
     tenants := (List.range 192).map (fun c => f.tenants.getD c [])
     log := s.service.log, agreed := agreed }, s)

/-- A sealed capsule goes to an empty HBM slot, if there is one, and to the flash (R428). -/
def State.storeCapsule (s : State) (c : Capsule) : State :=
  let put (n : Nat) (s : State) : State := { s with capsules := s.capsules.insert n c }
  let s := if (s.capsules.get? 0).isNone then put 0 s else if (s.capsules.get? 1).isNone then put 1 s else s
  { put 2 s with capsuleCount := c.number }

/-- What follows a device-fatal seal (R453, R454): actions are abandoned, and SVCSTAT says that none runs; every task ends FAULTED and the
package binds nothing. -/
def State.afterFatal (s : State) : State :=
  let s : State := { s with service := { s.service with fatal := true, actions := [], svcstat := s.service.svcstat % 2 ^ 31 } }
  s.tasks.keys.foldl (fun s n => s.killTask n 4) s

/-- CAPSULE_SEAL (R423, R425, R428): with every ring frozen the head foreman seals the capsule; the recorders go on, unless
a device-fatal trigger keeps them frozen. -/
def execCapsuleSeal (s : State) : Host.Outcome State Fault Refusal :=
  .next (
    match s.freeze with
    | none => s
    | some f =>
      if f.left ≠ [] then s
      else
        let s := (s.capsuleOf f).2.storeCapsule (s.capsuleOf f).1
        let s : State := { s with freeze := none }
        if f.stay then s.afterFatal
        else { s with rings := s.rings.mapVals (fun (r : Ring) => { r with frozen := none, discarded := 0 }) })

/-! ## Memory errors -/

/-- The ring and the address that record an error at a storage index (Table 18.2): the foreman of the die for the MLC and
HBM; for L2 and the vault the lowest live core of the die, for a pool its core (log 53). -/
def State.errorRing (s : State) (wh idx : Nat) : Nat :=
  let die := if wh = 2 then (idx - 2 ^ 52) / 2 ^ 24 / 8 else idx / 2 ^ 37
  if wh = 3 then (idx - 2 ^ 53) / 2 ^ 18
  else if wh = 1 ∨ wh = 4 then foremanRing (die % 8)
  else ((List.range 24).map (fun i => die % 8 * 24 + i)).find? s.coreLive |>.getD (die % 8 * 24)

/-- MEMORY_ERROR (R419, Table 7.3): an error found in L2, MLC, vault, pool or HBM data is recorded; one that cannot be
corrected leaves its line uncorrectable. -/
def execMemoryError (wh idx : Nat) (fixed : Bool) (s : State) : Host.Outcome State Fault Refusal :=
  .next (
    if 4 < wh then s
    else
      let s := s.record (s.errorRing wh idx) 0 1 4 0 (bitsOf idx 51 7 + wh * 2 ^ 45 + (if fixed then 0 else 2 ^ 48))
      if fixed ∨ s.poison.contains (idx / 128) then s else { s with poison := idx / 128 :: s.poison })

end Sys2Proof.Machine
end

