-- ==== Sys2Proof/Machine/Foreman.lean ====
section
/-! DEFINITION. What foremen, landing pagers and homes do on their own: fault service (R164 to R167), free pages (R165),
migration and its notifications (R168 to R170), and the active sets (R59). -/

namespace Sys2Proof.Machine

/-! ## Free pages (R165) -/

/-- The foreman posts a kind 6 record when the pager needs a page and the pool is below FPLOW, once until command 6 has
filled it again. -/
def State.checkLow (s : State) (die : Nat) : State :=
  let d := s.die die
  if d.freePages.length < s.params.fpLow ∧ d.lowPosted = false then
    (s.mapDie die (fun d => { d with lowPosted := true })).postRecord 0 6 (layout [(1, die), (3, 0), (4, d.freePages.length)])
  else s

/-- Take the lowest page of a die's pool. -/
def State.takePage (s : State) (die : Nat) : Option (Nat × State) :=
  match (s.die die).freePages with
  | [] => none
  | p :: rest => some (p, (s.mapDie die (fun d => { d with freePages := rest })).checkLow die)

/-- A page of storage is written with zeros, which is what unlisted bytes read as. -/
def State.zeroPage (s : State) (pa : Nat) : State :=
  { s with mem := s.mem.filter (fun e => decide (e.1 < pa ∨ pa + 2 ^ 17 ≤ e.1)) }

/-! ## Fault service -/

/-- The record goes to the host (R167): a kind 1 control record of the function that owns the context. -/
def State.passFault (s : State) (die i : Nat) (r : FaultRec) : State :=
  let fn := s.ownerOf r.ctx
  let s := s.postRecord fn 1 r.toNat
  s.mapDie die (fun d => { d with faults := d.faults.set i { r with passed := true, seq := (s.func fn).seq } })

/-- A first-touch page is filled (R164): from the preferred die's pool or the faulting die's; with neither, the record goes
to the host. -/
def State.firstTouch (s : State) (die i : Nat) (r : FaultRec) (pte e : Nat) : State :=
  let hint := bitsOf e 6 4
  let src := if e.testBit 7 && s.dieLive hint && decide ((s.die hint).freePages ≠ []) then hint else die
  match s.takePage src with
  | none => (s.checkLow die).passFault die i r
  | some (pa, s) => ((s.zeroPage pa).setPhysBytes pte (pa + 0xF) 8).answerFault die r 1

/-- One record of a die's queue is served by what its entry holds now (R164, R170). -/
def State.serveFault (s : State) (die i : Nat) (r : FaultRec) : State :=
  match s.walk r.ctx r.va with
  | .leaf _ => s.answerFault die r 1
  | .malformed => s.answerFault die r 2
  | .invalid kind level pte e =>
    if kind = 0 then s.answerFault die r 2
    else if kind = 1 ∧ level = 0 then s.firstTouch die i r pte e
    else if kind = 2 ∧ level = 0 then s
    else s.passFault die i r

/-- One step of the pager's claim on core 23 of a die (R166, R293): a switch there that has not committed is abandoned, and a live region
is stopped and saved as a pre-emption does it.  The second part says that the core is the pager's: so it is at once where it is offline,
for then the foreman serves. -/
def State.claimCore (s : State) (core : Nat) : State × Bool :=
  if !s.coreLive core then (s, true)
  else
    let s := s.abandonSpents (fun _ r => r.cores.contains core)
    match s.regionAt core with
    | none => (s, true)
    | some (k, r) =>
      if r.saving ≠ 2 then (s.saveStop k, false)
      else if s.canSave k then (s.saveWhole k, true)
      else (s, false)

/-- The record is one that the pager serves, or finds that it cannot (R164, R166); those of kind 11 the foreman serves with the host itself
(R167). -/
def State.needsPager (s : State) (die : Nat) (r : FaultRec) : Bool := decide (r.kind ≠ 3) && s.coreLive (die * 24 + 23)

/-- LANDING_PAGER_SERVE (R164 to R167): the pager, which the foreman enters on core 23 unless that core is offline, serves
one record of its die; records of kind 10 wait for the migration, and what it cannot serve goes to the host.  Records of kind 11 need no
pager. -/
def execLandingPagerServe (die entry : Nat) (s : State) : Host.Outcome State Fault Refusal :=
  .next (
    if !s.dieLive die then s
    else
      match (s.die die).faults[entry]? with
      | none => s
      | some r =>
        if r.passed then s
        else
          if (s.serveFault die entry r).admitFaults die = s then s
          else
            match (if s.needsPager die r then s.claimCore (die * 24 + 23) else (s, true)) with
            | (s, false) => s
            | (s, true) => ((s.serveFault die entry r).admitFaults die).mapDie die (fun d => if s.needsPager die r then
                { d with pager := true, pagerIdle := s.clock } else d))

/-- PAGERIDLE (R166): the pager leaves core 23 after its queue has stayed empty. -/
def execPageridle (die : Nat) (s : State) : Host.Outcome State Fault Refusal :=
  .next (
    let d := s.die die
    if d.pager ∧ d.faults.all FaultRec.passed ∧ d.pagerIdle + s.params.pagerIdle ≤ s.clock then
      s.mapDie die (fun d => { d with pager := false })
    else s)

/-- FAULTTMO (R167): the host has not answered a record in time, and it is refused. -/
def execFaulttmo (die entry : Nat) (s : State) : Host.Outcome State Fault Refusal :=
  .next (
    match (s.die die).faults[entry]? with
    | none => s
    | some r =>
      if r.passed ∧ r.entered + s.params.faultTmo ≤ s.clock then (s.answerFault die r 2).admitFaults die else s)

/-! ## Migration -/

/-- The physical address of the leaf or level-0 entry of an address, where the walk reaches one. -/
def State.entryFrom (s : State) (va : Nat) : Nat → Nat → Option Nat
  | 0, _ => none
  | 1, node => some (node + 8 * (va / 2 ^ 17 % 1024))
  | lv + 2, node =>
    let pa := node + 8 * (va / 2 ^ (17 + 10 * (lv + 1)) % 1024)
    let e := s.physBytes pa 8
    if !e.testBit 0 then none
    else if e.testBit 1 then some pa
    else s.entryFrom va (lv + 1) (bitsOf e 51 13 * 2 ^ 13)

/-- The leaf or level-0 entry of an address of a context. -/
def State.entryOf (s : State) (cn va : Nat) : Option Nat := s.entryFrom va 4 (bitsOf (s.ctx cn).ptroot.toNat 51 13 * 2 ^ 13)

/-- Pool mappings of a page move to its new lines, after a forced write-back (R170). -/
def State.retarget (s : State) (old new size : Nat) : State :=
  let on (r : Nat × Nat × Nat) : Bool := decide (old ≤ r.1 ∧ r.1 < old + size)
  { s with cores := s.cores.mapVals (fun (c : Core) => { c with pools := c.pools.mapVals (fun (m : PoolMapping) =>
      { m with runs := m.runs.map (fun r => if on r && !m.revoked then (r.1 - old + new, r.2.1, r.2.2) else r) }) }) }

/-- The bytes of a page are copied (R170). -/
def State.copyPage (s : State) (old new size : Nat) : State :=
  let s : State := { s with mem := s.mem.filter (fun e => decide (e.1 < new ∨ new + size ≤ e.1)) }
  (s.mem.filter (fun e => decide (old ≤ e.1 ∧ e.1 < old + size))).foldl (fun s e => s.setByte (e.1 - old + new) e.2) s

/-- The entries that make up the page of a leaf (R156, R158): its own, or the 32 of a 4 MiB page. -/
def State.leafEntries (s : State) (ctx : Nat) (e : TlbEntry) : List Nat :=
  (List.range (if e.size = 2 ^ 22 then 32 else 1)).filterMap (fun i => s.entryOf ctx (e.va + 2 ^ 17 * i))

/-- The die that a migration of a page goes to: one that PAGEHINT asked for (R176), or, where nothing was asked for the page, any (log 71). -/
def State.migTarget (s : State) (ctx : Nat) (e : TlbEntry) (die : Nat) : Bool :=
  let mine := s.migReqs.filter (fun r => e.covers ctx r.va && decide (r.ctx = ctx))
  mine.isEmpty || mine.any (fun r => decide (r.die = die))

/-- The pool mappings of each core that hold a line of the `size` bytes from `old` on are written back (R170, R192). -/
def State.writeBackPage (s : State) (old size : Nat) : State :=
  s.cores.foldl (fun (s : State) c => s.writeBack c.1 (fun h => (c.2.pools.get? h).elim false (fun m =>
    !m.revoked && m.runs.any (fun r => decide (r.1 < old + size ∧ old < r.1 + r.2.1))))) s

/-- A migration ends (R170): the page is copied with its pool-mapped ranges written back, the new leaves are written, and the page's counters
clear. -/
def State.endMigration (s : State) (m : Migration) : State :=
  let s := s.writeBackPage m.old m.size
  let s := (s.copyPage m.old m.new m.size).retarget m.old m.new m.size
  let s := m.leaves.foldl (fun s p => s.setPhysBytes p.1 (p.2 - m.old + m.new) 8) s
  { s with
    migrations := s.migrations.filter (fun x => decide (x ≠ m))
    pageCtr := s.pageCtr.filter (fun c => decide (c.1 * 2 ^ 17 < m.old ∨ m.old + m.size ≤ c.1 * 2 ^ 17))
    migReqs := s.migReqs.filter (fun r => !(decide (r.ctx = m.ctx ∧ m.va ≤ r.va ∧ r.va < m.va + m.size))) }

/-- MIGRATION (R168, R170): a mapped page moves to an aligned block of free pages that the foreman takes from a die's pool, unless a pin
holds it.  The first such event makes its entries invalid of kind 10 and sends a TLBI, and the next one with the same page and block copies
the page and writes the new leaf; between them accesses park. -/
def execMigration (ctx va page : Nat) (s : State) : Host.Outcome State Fault Refusal :=
  .next (
    match s.migrations.find? (fun m => decide (m.ctx = ctx ∧ m.va ≤ va ∧ va < m.va + m.size ∧ m.new = page)) with
    | some m => s.endMigration m
    | none =>
    match s.walk ctx va with
    | .leaf e =>
      let old := e.pa
      let die := page / 2 ^ 37
      let block := (List.range (e.size / 2 ^ 17)).map (fun i => page + 2 ^ 17 * i)
      let ptes := s.leafEntries ctx e
      let held := s.dies.any (fun d => d.2.pins.any (fun p => !p.2.revoked &&
        p.2.runs.any (fun r => decide (r.1 < old + e.size ∧ old < r.1 + r.2))))
      if (s.window ctx va).isSome ∨ held ∨ page % e.size ≠ 0 ∨ page = old ∨ !s.migTarget ctx e die ∨
          !block.all (s.die die).freePages.contains then s
      else
        let m : Migration := ⟨ctx, e.va, old, page, e.size, ptes.map (fun p => (p, s.physBytes p 8))⟩
        let s := s.mapDie die (fun d => { d with freePages := d.freePages.filter (fun p => !block.contains p) })
        let s := ptes.foldl (fun s p => s.setPhysBytes p 4 8) s
        let s := (List.range ptes.length).foldl (fun s i => s.tlbi 1 ctx (e.va + 2 ^ 17 * i)) s
        { s with migrations := s.migrations ++ [m] }
    | _ => s)

/-- Insert a page base in ascending order. -/
def insertPage (x : Nat) : List Nat → List Nat
  | [] => [x]
  | y :: ys => if x < y then x :: y :: ys else y :: insertPage x ys

/-- The migrations of a context that goes are given up, and their new pages go back to the pool (R443). -/
def State.dropMigrations (s : State) (cn : Nat) : State :=
  let gone := s.migrations.filter (fun m => decide (m.ctx = cn))
  gone.foldl (fun (s : State) m => s.mapDie (m.new / 2 ^ 37) (fun d => { d with
    freePages := (List.range (m.size / 2 ^ 17)).foldl (fun ps i => insertPage (m.new + 2 ^ 17 * i) ps) d.freePages }))
    { s with migrations := s.migrations.filter (fun m => decide (m.ctx ≠ cn)) }

/-- PENDING_NOTIFICATION_POST (R168, R169): a notification that found its queue full is posted when there is room. -/
def execPendingNotificationPost (page : Nat) (s : State) : Host.Outcome State Fault Refusal :=
  .next (if (s.pageCtr.getD page PageCtr.zero).pending then s.postNotification page else s)

/-! ## Active sets -/

/-- The ready crews of a slot's quarter, by slot (R59). -/
def State.readyIn (s : State) (core slot : Nat) : List Nat :=
  (List.range 16).filterMap (fun i =>
    let n := quarterOf slot * 16 + i
    if s.isReady (crewKey core n) then some n else none)

/-- The members of a quarter's active set that have not left it (R59): those that are ready, earliest admitted first. -/
def State.members (s : State) (core slot : Nat) : List Nat :=
  (s.core core).activeSet.filter (fun n => decide (quarterOf n = quarterOf slot) && s.isReady (crewKey core n))

/-- The order of choice (R330): the higher class, then the crew that became ready earlier, then the lower slot. -/
def State.goesBefore (s : State) (core a b : Nat) : Bool :=
  let x := s.crews.getD (crewKey core a) Crew.blank
  let y := s.crews.getD (crewKey core b) Crew.blank
  decide (y.prio < x.prio) || (decide (x.prio = y.prio) && (earlier x.readyAt y.readyAt || (decide (x.readyAt = y.readyAt) && decide (a < b))))

/-- The first of some slots in an order. -/
def firstBy (before : Nat → Nat → Bool) : List Nat → Option Nat
  | [] => none
  | a :: rest =>
    match firstBy before rest with
    | none => some a
    | some b => if before b a then some b else some a

/-- 256 ck have passed since a time at which something began in a quarter (R59, R330): by CLOCK, or by the quarter's issues, each of which
takes at least 1 ck (log 72). -/
def State.longSince (s : State) (key : Nat) (t : Nat × Nat) : Bool :=
  let now := s.issueTime key
  decide (2560 ≤ (now.1 - t.1) * 27) || decide (256 ≤ now.2 - t.2)

/-- A member is starved (R330): ready, and it has not issued for at least 256 ck. -/
def State.starved (s : State) (core n : Nat) : Bool := s.longSince (crewKey core n) (s.crews.getD (crewKey core n) Crew.blank).lastIssue

/-- A crew has waited longer for an issue than another, the lower slot first on a tie (R330). -/
def State.waitedLonger (s : State) (core a b : Nat) : Bool :=
  let last (n : Nat) : Nat × Nat := (s.crews.getD (crewKey core n) Crew.blank).lastIssue
  earlier (last a) (last b) || (decide (last a = last b) && decide (a < b))

/-- The ready crew of a slot's quarter, in the set or outside, that the next issue goes to before any other: one that the promise of R331
would fail otherwise, or at every 64th issue the starved one, of several the one that has waited longest (R330, R331; log 72). -/
def State.urgent (s : State) (core slot : Nat) : Option Nat :=
  let all := s.readyIn core slot
  let now := (s.issueTime (crewKey core slot)).2
  let late := all.filter (fun n => decide (1008 ≤ now - (s.crews.getD (crewKey core n) Crew.blank).readySince))
  let starving := if now % 64 = 63 then all.filter (s.starved core) else []
  firstBy (s.waitedLonger core) (if late = [] then starving else late)

/-- The member that the quarter of a slot issues from next (R330): the one that must issue now, and otherwise the first in the order of
choice. -/
def State.electee (s : State) (core slot : Nat) : Option Nat :=
  let all := s.members core slot
  match (s.urgent core slot).filter all.contains with
  | some n => some n
  | none => firstBy (s.goesBefore core) all

/-- The active set of a slot's quarter becomes `set`. -/
def State.putSet (s : State) (core slot : Nat) (set : List Nat) : State :=
  s.mapCore core (fun c => { c with activeSet := c.activeSet.filter (fun n => decide (quarterOf n ≠ quarterOf slot)) ++ set })

/-- The ready crews of a slot's quarter that have no place in its active set. -/
def State.outsiders (s : State) (core slot : Nat) : List Nat :=
  (s.readyIn core slot).filter (fun n => !(s.members core slot).contains n)

/-- A slot takes a place in its quarter's active set; with four members the one admitted earliest leaves, and is outside from then on
(R59). -/
def State.takeIn (s : State) (core slot : Nat) : State :=
  let set := s.members core slot
  if set.length < 4 then s.putSet core slot (set ++ [slot])
  else
    match set with
    | [] => s
    | first :: rest =>
      (s.putSet core slot (rest ++ [slot])).mapCrewAt (crewKey core first) (fun c => { c with
        readyAt := s.issueTime (crewKey core slot), cache := [] })

/-- A slot seeks a place in its quarter's active set (R59): members that are not ready have left; a ready crew joins while the set holds
fewer than four and it is the first in the order of choice among the ready crews outside; one that has waited 256 ck outside takes the
place of the member admitted earliest. -/
def State.seekPlace (s : State) (core slot : Nat) : State :=
  let key := crewKey core slot
  let set := s.members core slot
  if !s.isReady key || set.contains slot then s
  else if set.length < 4 then
    if firstBy (s.goesBefore core) (s.outsiders core slot) = some slot then s.takeIn core slot else s
  else if s.longSince key (s.crews.getD key Crew.blank).readyAt then s.takeIn core slot
  else s

/-- Ready crews outside join, in the order of choice, while the set holds fewer than four (R59). -/
def State.fillSet (s : State) (core slot : Nat) : Nat → State
  | 0 => s
  | n + 1 =>
    if (s.members core slot).length < 4 then
      match firstBy (s.goesBefore core) (s.outsiders core slot) with
      | some k => (s.takeIn core k).fillSet core slot n
      | none => s
    else s

/-- The outsider of a slot's quarter whose 256 ck are over, of several the one that has waited longest, takes its place before the quarter
issues again (R59). -/
def State.settleSet (s : State) (core slot : Nat) : State :=
  let since (n : Nat) : Nat × Nat := (s.crews.getD (crewKey core n) Crew.blank).readyAt
  let due := (s.outsiders core slot).filter (fun n => s.longSince (crewKey core n) (since n))
  match firstBy (fun a b => earlier (since a) (since b)) due with
  | some n => s.seekPlace core n
  | none => s

/-- The crew that the quarter of a slot must issue from now has a place (R330, R331; log 72). -/
def State.seatUrgent (s : State) (core slot : Nat) : State :=
  match (s.urgent core slot).filter (fun n => !(s.members core slot).contains n) with
  | some n => s.takeIn core n
  | none => s

/-- The active set of a slot's quarter as its next issue finds it (R59, R330, R331). -/
def State.settle (s : State) (core slot : Nat) : State :=
  ((s.fillSet core slot 4).settleSet core slot).seatUrgent core slot

/-- The focused crew has its place in the active set and its quarter issues from it (R59, R330). -/
def State.elected (s : State) : Bool := decide (s.electee s.focusCore s.focusSlot = some s.focusSlot)

/-- The active set as the focused slot finds it at its turn (R59). -/
def State.settled (s : State) : State := s.settle s.focusCore s.focusSlot

/-- ACTIVE_SET_SWAP (R59): a ready crew seeks a place in its quarter's active set. -/
def execActiveSetSwap (core slot : Nat) (s : State) : Host.Outcome State Fault Refusal := .next (s.seekPlace core slot)

end Sys2Proof.Machine
end

