-- ==== Sys2Proof/Machine/Mailbox.lean ====
section
/-! DEFINITION. The host's side of a function (R438 to R447): BAR0 and BAR2, the host launch queue, contexts, the control
mailbox, the capsule mailbox and the capability list, and the time slices of functions (R439). -/

namespace Sys2Proof.Machine

/-! ## Functions and BAR2 -/

/-- A function of the attachment: the PF or an enabled VF (R438). -/
def State.functionExists (s : State) (fn : Nat) : Bool := decide (fn ≤ s.vfs)

/-- The size of a function's BAR2 (Table 19.1). -/
def barSize (fn : Nat) : Nat := if fn = 0 then 2 ^ 28 else 2 ^ 24

/-- The physical base of a function's BAR2 in the staging region (Table 19.1, R483). -/
def State.barBase (s : State) (fn : Nat) : Nat := s.service.stageBase + if fn = 0 then 0 else (fn - 1) * 2 ^ 24

/-- A range lies within a function's BAR2. -/
def inBar (fn off n : Nat) : Bool := decide (off + n ≤ barSize fn)

/-- HOST_BAR2_ACCESS (R442): a host read or write of staging bytes at their point of coherence; nothing outside the
function's BAR2 is reached. -/
def execHostBar2Access (fn off n : Nat) (write : Bool) (x : Nat) (s : State) : Host.Outcome State Fault Refusal :=
  .next (
    if !s.functionExists fn || !inBar fn off n then s
    else if write then s.setPhysBytes (s.barBase fn + off) x n
    else s.mapFunc fn (fun f => { f with readback := s.bytes (s.barBase fn + off) n }))

/-- REGISTER_WRITE (R8, R440, Table 19.2): a host write to a BAR0 register that has no behaviour of its own; other offsets
ignore writes. -/
def execRegisterWrite (fn off x : Nat) (s : State) : Host.Outcome State Fault Refusal :=
  let w := x % 2 ^ 32
  .next (
    if !s.functionExists fn then s
    else if off = 0x10008 then
      if fn = 0 then { s with service := { s.service with svcarg := x % 2 ^ 64 } } else s
    else
      s.mapFunc fn (fun f =>
        match off with
        | 0x010 => { f with lqbase := w }
        | 0x014 => { f with lqlog2 := w % 16 }
        | 0x020 => if w.testBit 31 then { f with lqerr := f.lqerr % 2 ^ 31 } else f
        | 0x028 => { f with lqctx := w % 2 ^ 16 }
        | 0x034 => { f with cmhead := w }
        | 0x108 => { f with capoff := x % 2 ^ 64 }
        | 0x110 => { f with caplen := w }
        | 0x114 => { f with capdst := w }
        | 0x204 => { f with cxoff := w }
        | _ => f))

/-! ## The host launch queue (R441) -/

/-- Record an error in LQERR, unless one is kept (R441, Table 19.3); a recorded one raises vector 1. -/
def Func.lqError (f : Func) (reason index : Nat) : Func :=
  if f.lqerr.testBit 31 then f
  else ({ f with lqerr := 2 ^ 31 + reason * 2 ^ 28 + index % 2 ^ 12 } : Func).raise 1

/-- The free crew slots of a die. -/
def State.freeOnDie (s : State) (die : Nat) : Nat :=
  ((List.range 24).map (fun i => if s.coreLive (die * 24 + i) then
    64 - (s.crews.filter (fun e => decide (e.1 / 64 = die * 24 + i))).length else 0)).sum

/-- The live die with room in its launch queue and the most free crew slots, the lowest on a tie. -/
def State.launchDie (s : State) : Option Nat :=
  ((List.range 8).filter (fun d => s.dieLive d && decide ((s.die d).launchQ.length < 64))).foldl
    (fun (b : Option Nat) d => match b with
      | none => some d
      | some x => if s.freeOnDie x < s.freeOnDie d then some d else some x) none

/-- The next entry of a function's launch queue is taken, unless it must wait: for room, for the foreman of its die (R441, R451), or until the
function is current (R439). -/
def State.takeEntry (s : State) (fn : Nat) : State :=
  let f := s.func fn
  let i := f.lqhead
  if i = f.lqtail ∨ fn ≠ s.current then s
  else
    let pa := s.barBase fn + f.lqbase + 128 * (i % 2 ^ f.lqlog2)
    let past (s : State) (g : Func → Func) : State := s.mapFunc fn (fun f => g { f with lqhead := (i + 1) % 2 ^ 32 })
    let h := s.physBytes pa 128
    if s.poisoned (s.poc pa) 128 then past s (fun f => f.lqError 4 i)
    else if hdrMalformed h || decide ((s.ctxs.get? f.lqctx).map Ctx.owner ≠ some fn) || !inBar fn f.lqbase (128 * 2 ^ f.lqlog2) then
      past s (fun f => f.lqError 1 i)
    else
      match s.launchDie.filter (fun d => !s.updating d) with
      | none => s
      | some d =>
        match s.enterLaunch f.lqctx d h with
        | (none, _) => s
        | (some n, s) => past s (fun f => { f with lqlast := n })

/-- Entries are taken in index order, as far as there is room. -/
def State.takeEntries (s : State) (fn : Nat) : Nat → State
  | 0 => s
  | n + 1 =>
    let s' := s.takeEntry fn
    if (s'.func fn).lqhead = (s.func fn).lqhead then s else s'.takeEntries fn n

/-- LQTAIL_DOORBELL (R441, R442): a write of `t` to LQTAIL. -/
def execLqtailDoorbell (fn t : Nat) (s : State) : Host.Outcome State Fault Refusal :=
  .next (
    let t := t % 2 ^ 32
    let f := s.func fn
    let n := (t + 2 ^ 32 - f.lqhead) % 2 ^ 32
    if !s.functionExists fn then s
    else if f.lqlog2 = 0 then s.mapFunc fn (fun f => f.lqError 3 t)
    else if 2 ^ f.lqlog2 < n then s.mapFunc fn (fun f => f.lqError 2 t)
    else (s.mapFunc fn (fun f => { f with lqtail := t })).takeEntries fn n)

/-- LAUNCH_QUEUE_ENTRY (R441): an entry that waited for room is taken. -/
def execLaunchQueueEntry (fn : Nat) (s : State) : Host.Outcome State Fault Refusal :=
  .next (if s.functionExists fn && decide ((s.func fn).lqlog2 ≠ 0) then s.takeEntry fn else s)

/-! ## The control mailbox (R444) -/

/-- CONTROL_RECORD_POST (R444): the oldest waiting record enters the control ring when there is room; then CMTAIL advances
and vector 0 is raised. -/
def execControlRecordPost (fn : Nat) (s : State) : Host.Outcome State Fault Refusal :=
  .next (
    let f := s.func fn
    match f.outbox with
    | [] => s
    | r :: rest =>
      if (f.cmtail + 2 ^ 32 - f.cmhead) % 2 ^ 32 = 64 then s
      else
        s.mapFunc fn (fun f => ({ f with
          outbox := rest, ring := f.ring.insert (f.cmtail % 64) r, cmtail := (f.cmtail + 1) % 2 ^ 32 } : Func).raise 0))

/-- The fault record that waits for a function's answer under the low 31 bits of its number, with its die. -/
def State.replyTo (s : State) (fn seq : Nat) : Option (Nat × FaultRec) :=
  s.dies.findSome? (fun d => (d.2.faults.find? (fun r =>
    r.passed && decide (r.seq % 2 ^ 31 = seq % 2 ^ 31) && decide (s.ownerOf r.ctx = fn))).map (fun r => (d.1, r)))

/-- FREPLY_SERVE (R444): the foreman walks the entry again, and refuses the record if it is still invalid. -/
def execFreplyServe (fn seq : Nat) (s : State) : Host.Outcome State Fault Refusal :=
  .next (
    match s.replyTo fn seq with
    | none => s
    | some (d, r) =>
      match s.walk r.ctx r.va with
      | .leaf _ => (s.answerFault d r 1).admitFaults d
      | _ => (s.answerFault d r 2).admitFaults d)

/-- FREPLY_REFUSE (R444, R167). -/
def execFreplyRefuse (fn seq : Nat) (s : State) : Host.Outcome State Fault Refusal :=
  .next (
    match s.replyTo fn seq with
    | none => s
    | some (d, r) => (s.answerFault d r 2).admitFaults d)

/-! ## Contexts (R443) -/

/-- A context command ends: CXSTAT takes the result and the context number, and vector 4 is raised. -/
def State.endContext (s : State) (fn result n : Nat) : State :=
  s.mapFunc fn (fun f => ({ f with cxstat := result * 2 ^ 28 + n } : Func).raise 4)

/-- The descriptor at CXOFF, where it lies in BAR2 at a multiple of 64. -/
def State.descriptor (s : State) (fn : Nat) : Option Nat :=
  let off := (s.func fn).cxoff
  if off % 64 = 0 ∧ inBar fn off 64 then some (s.physBytes (s.barBase fn + off) 64) else none

/-- A reserved field or bit of a descriptor is not 0, or its level is above 1. -/
def descriptorBad (x : Nat) : Bool :=
  let bad (n off size : Nat) : Bool := decide (BitVec.ofNat 64 (fld x off size) &&& sysReserved n ≠ 0)
  decide (1 < fld x 0 1) || decide (fld x 1 7 ≠ 0) || decide (fld x 48 16 ≠ 0) || bad 0x012 8 8 || bad 0x010 16 8 ||
  bad 0x011 24 8 || bad 0x013 32 4 || bad 0x016 40 8

/-- The registers of a descriptor in a context. -/
def Ctx.described (c : Ctx) (x : Nat) : Ctx :=
  { c with
    ptroot := BitVec.ofNat 64 (fld x 8 8), vaultbase := BitVec.ofNat 64 (fld x 16 8), poolbase := BitVec.ofNat 64 (fld x 24 8)
    migthr := BitVec.ofNat 32 (fld x 32 4), migq := BitVec.ofNat 64 (fld x 40 8) }

/-- CREATE (R443): the lowest free context number, with the registers of the descriptor. -/
def execCreate (fn w : Nat) (s : State) : Host.Outcome State Fault Refusal :=
  .next (
    if !s.functionExists fn then s
    else
      match s.descriptor fn with
      | none => s.endContext fn 1 0
      | some x =>
        let tag := fld x 36 4
        if w ≠ 1 ∨ descriptorBad x ∨ (fn = 0 ∧ (tag < 0x011 ∨ 0xFFF < tag)) ∨ 2 ^ 12 ≤ tag then s.endContext fn 1 0
        else if 256 ≤ (s.ctxs.filter (fun e => decide (e.2.owner = fn))).length then s.endContext fn 3 0
        else
          match s.ctxs.lowestFree 4096 with
          | none => s.endContext fn 3 0
          | some n =>
            let c : Ctx := { (Ctx.blank.described x) with
              level := fld x 0 1, owner := fn, tenant := BitVec.ofNat 32 (if fn = 0 then tag else fn) }
            ({ s with ctxs := s.ctxs.insert n c } : State).endContext fn 0 n)

/-- The context that UPDATE or DESTROY names, when the function owns it; otherwise the result. -/
def State.ownContext (s : State) (fn w cmd : Nat) : Except Nat (Nat × Ctx) :=
  if w % 2 ^ 16 ≠ cmd then .error 1
  else
    match s.ctxs.get? (w / 2 ^ 16 % 2 ^ 16) with
    | some c => if c.owner = fn then .ok (w / 2 ^ 16 % 2 ^ 16, c) else .error 2
    | none => .error 2

/-- UPDATE (R443): the descriptor's registers into an existing context, with the sweep of R403. -/
def execUpdate (fn w : Nat) (s : State) : Host.Outcome State Fault Refusal :=
  .next (
    if !s.functionExists fn then s
    else
      match s.ownContext fn w 2 with
      | .error r => s.endContext fn r 0
      | .ok (n, c) =>
        match s.descriptor fn with
        | none => s.endContext fn 1 0
        | some x =>
          if descriptorBad x ∨ fld x 0 1 ≠ c.level then s.endContext fn 1 0
          else ((s.mapCtx n (fun c => c.described x)).tlbi 0 n 0).endContext fn 0 n)

/-- What a context holds is freed (R443): its raft handles, pins, pool mappings and armed trace, and what waits for it. -/
def State.freeContext (s : State) (n : Nat) : State :=
  let s := s.cores.foldl (fun s c => s.writeBack c.1 (fun h => ((c.2.pools.get? h).elim false (fun m => decide (m.ctx = n))))) s
  let s := s.dropMigrations n
  { s with
    rafts := s.rafts.filter (fun e => decide (e.2.ctx ≠ n))
    dies := s.dies.mapVals (fun (d : Die) => { d with
      pins := d.pins.filter (fun p => decide (p.2.ctx ≠ n)), faults := d.faults.filter (fun r => decide (r.ctx ≠ n)) })
    cores := s.cores.mapVals (fun (c : Core) => { c with
      pools := c.pools.filter (fun m => decide (m.2.ctx ≠ n)), faultWait := c.faultWait.filter (fun r => decide (r.ctx ≠ n)) })
    traces := s.traces.filter (fun t => decide (t.ctx ≠ n))
    doneStores := s.doneStores.filter (fun d => decide (d.ctx ≠ n))
    savedAreas := s.savedAreas.filter (fun r => decide (r.ctx ≠ n))
    migReqs := s.migReqs.filter (fun r => decide (r.ctx ≠ n)) }

/-- DESTROY (R443): the context's tasks are killed, its pending collectives end, what it holds is freed, its translations
go, and its number is free. -/
def execDestroy (fn w : Nat) (s : State) : Host.Outcome State Fault Refusal :=
  .next (
    if !s.functionExists fn then s
    else
      match s.ownContext fn w 3 with
      | .error r => s.endContext fn r 0
      | .ok (n, _) =>
        let s := (s.tasks.filter (fun t => decide (t.2.ctx = n))).foldl (fun s t => s.killTask t.1 3) s
        let s := (s.freeContext n).sweepTlbs 0 n 0
        ({ s with ctxs := s.ctxs.remove n } : State).endContext fn 0 n)

/-! ## Capsules (R425, R427, R445) -/

/-- The capsule header (Table 18.3). -/
def Capsule.header (c : Capsule) (flags view events : Nat) : List Nat :=
  let n := c.rings.length
  let dig := 64 + 32 * n + 16 * events
  let log := dig + 192 * 64
  fieldBytes [(4, 0x50414353), (2, 1), (2, flags), (8, c.number), (8, c.clock), (2, c.origin), (1, c.cause), (1, 0),
    (4, c.further), (8, c.tval.toNat), (2, view), (2, n), (4, 64), (4, dig), (4, log), (4, 128 * c.log.length),
    (4, log + 128 * c.log.length + 512)]

/-- The tag of an event. -/
def eventTag (e : BitVec 128) : Nat := bitsOf e.toNat 43 32

/-- The class of an event. -/
def eventClass (e : BitVec 128) : Nat := bitsOf e.toNat 47 44

/-- One REDACT event for a run of events (R427): tag 0, the stamp of the last, the saturating counts of classes 0 to 3. -/
def redactEvent (run : List (BitVec 128)) : BitVec 128 :=
  let n (k : Nat) : Nat := min ((run.filter (fun e => decide (eventClass e = k))).length) 0xFFFF
  eventOf ((run.getLast?.map (fun e => e.toNat % 2 ^ 32)).getD 0) 0 15 2 0 (n 0 + n 1 * 2 ^ 16 + n 2 * 2 ^ 32 + n 3 * 2 ^ 48)

/-- The events of a ring as a tenant's view shows them, oldest first: events of other tenants in maximal runs, each one
REDACT event (R427). -/
def redact (t : Nat) : List (BitVec 128) → List (BitVec 128) → List (BitVec 128)
  | run, [] => if run = [] then [] else [redactEvent run]
  | run, e :: rest =>
    if eventTag e = t ∨ eventTag e = 0 then
      (if run = [] then [e] else [redactEvent run, e]) ++ redact t [] rest
    else redact t (run ++ [e]) rest

/-- What a view holds of a ring, oldest first; `none` is the full capsule. -/
def Ring.shown (r : Ring) (view : Option Nat) : List (BitVec 128) :=
  match view with
  | none => r.events.reverse
  | some t => redact t [] r.events.reverse

/-- The ring table of a capsule (R417, R425); `ok` are the rings whose MAC agreed. -/
def ringTable (ok : List Nat) (off : Nat) : List (Nat × Ring × List (BitVec 128)) → List Nat
  | [] => []
  | (n, r, es) :: rest =>
    let (pos, stamp) := r.frozen.getD (0, 0)
    fieldBytes [(2, n), (2, pos), (4, stamp.toNat), (4, off), (4, es.length), (8, r.written), (4, r.discarded), (1, (if ok.contains n then 1 else 0) + (if r.lost = [] then 0 else 2)), (3, 0)] ++
      ringTable ok (off + 16 * es.length) rest

/-- The bytes of a capsule or of a tenant's view of it (R425 to R427); `flash` says that it is read from flash. -/
def Capsule.bytes (c : Capsule) (view : Option Nat) (flash : Bool) : List Nat :=
  let rings := c.rings.map (fun e => (e.1, e.2, e.2.shown view))
  let events := (rings.map (fun e => e.2.2.length)).sum
  let flags := c.flags + (if view.isSome then 2 else 0) + (if flash then 8 else 0)
  let digests := (c.digests.zip c.tenants).map (fun e =>
    match view with
    | none => e.1
    | some t => if e.2.any (fun x => decide (x ≠ t)) then 0 else e.1)
  let body := c.header flags (view.getD 0xFFFF) events ++ ringTable c.agreed (64 + 32 * c.rings.length) rings ++
    rings.flatMap (fun e => e.2.2.flatMap (fun x => bytesOf 16 x.toNat)) ++ digests.flatMap (bytesOf 64) ++ c.log.flatMap (bytesOf 128)
  body ++ bytesOf 512 (Config.sign body)

/-- A capsule command ends: CAPSTAT takes the result and vector 2 is raised. -/
def State.endCapsule (s : State) (fn result : Nat) : State :=
  s.mapFunc fn (fun f => ({ f with capstat := result * 2 ^ 28 } : Func).raise 2)

/-- The view that a CAPCMD asks for, when the function may have it (R427, R445): the full capsule for the PF with service
access, or a tenant's that one of the function's contexts holds. -/
def State.viewOf (s : State) (fn w : Nat) : Option (Option Nat) :=
  let t := w / 2 ^ 16 % 2 ^ 12
  if w.testBit 31 then (if fn = 0 ∧ s.params.access then some none else none)
  else if s.ctxs.any (fun e => decide (e.2.owner = fn ∧ bitsOf e.2.tenant.toNat 11 0 = t)) then some (some t)
  else none

/-- Copy `n` bytes from `off` of the selected view to BAR2, or end with the result that stands against it. -/
def State.copyView (s : State) (fn w off n dst : Nat) : State :=
  match s.viewOf fn w with
  | none => s.endCapsule fn 2
  | some view =>
    let src := w / 2 ^ 4 % 4
    match s.capsules.get? src with
    | none => s.endCapsule fn 1
    | some c =>
      let bs := c.bytes view (decide (src = 2))
      if n = 0 ∨ 2 ^ 24 < n ∨ bs.length < off + n ∨ !inBar fn dst n then s.endCapsule fn 3
      else
        ((((bs.drop off).take n).zipIdx).foldl (fun (s : State) e => s.setPhysBytes (s.barBase fn + dst + e.2) e.1 1) s).endCapsule fn 0

/-- READ (R445): bytes of a view into BAR2. -/
def execRead (fn w : Nat) (s : State) : Host.Outcome State Fault Refusal :=
  let f := s.func fn
  .next (if s.functionExists fn && decide (w % 16 = 1) then s.copyView fn w f.capoff f.caplen f.capdst else s)

/-- INFO (R445): the header of a view into BAR2. -/
def execInfo (fn w : Nat) (s : State) : Host.Outcome State Fault Refusal :=
  .next (if s.functionExists fn && decide (w % 16 = 4) then s.copyView fn w 0 64 (s.func fn).capdst else s)

/-- RELEASE (R428, R445): the PF frees a capsule slot of HBM. -/
def execRelease (fn w : Nat) (s : State) : Host.Outcome State Fault Refusal :=
  .next (
    if !s.functionExists fn || !decide (w % 16 = 2) then s
    else if fn ≠ 0 then s.endCapsule fn 2
    else
      let n := w / 2 ^ 4 % 4
      if 2 ≤ n ∨ (s.capsules.get? n).isNone then s.endCapsule fn 1
      else ({ s with capsules := s.capsules.remove n } : State).endCapsule fn 0)

/-- FREEZE (R421, R445): a host request freezes the recorders. -/
def execFreeze (fn w : Nat) (s : State) : Host.Outcome State Fault Refusal :=
  .next (if s.functionExists fn && decide (w % 16 = 3) then (s.trigger headRing 0x84 0).endCapsule fn 0 else s)

/-! ## The capability list and reads of BAR0 (R440, R446, R447) -/

/-- DEVSTAT (Table 19.2). -/
def State.devstat (s : State) : Nat :=
  let v := s.service
  (if v.ready then 1 else 0) + (if v.fatal then 2 else 0) +
    (if (s.capsules.get? 0).isSome || (s.capsules.get? 1).isSome then 4 else 0) + v.stage % 2 ^ 8 * 2 ^ 8

/-- The components of Table 19.5, in order. -/
def components : List Nat := [0x0000, 0x0001] ++ (List.range 8).map (fun d => 0x0010 + d) ++ [0x0020, 0x0030]

/-- A bitmap of the live ones of `n` units (R14). -/
def liveMap (n : Nat) (live : Nat → Bool) : Nat := ((List.range n).filter live).foldl (fun x i => x + 2 ^ i) 0

/-- The body of each capability (Table 19.4), padded to 8 bytes. -/
def State.capabilityBodies (s : State) (fn : Nat) : List (Nat × List (Nat × Nat)) :=
  [(1, [(1, s.liveDies), (24, liveMap 192 s.coreLive), (2, liveMap 16 s.stackLive), (4, s.livePorts), (1, 0)]),
   (2, [(4, s.service.hashVersion), (4, 0), (64, s.slices.foldl (fun x i => x + 2 ^ i) 0)]),
   (3, [(8, s.service.stageBase), (8, barSize fn)]),
   (4, [(4, s.vfs), (4, fn)]),
   (5, [(4, s.devnum), (4, 0)]),
   (6, components.map (fun c => (8, s.service.fw.getD c 0)))]

/-- The capability list as bytes from BAR0 offset `at_` on (R446). -/
def capabilityList (at_ : Nat) : List (Nat × List (Nat × Nat)) → List Nat
  | [] => []
  | (id, body) :: rest =>
    let bs := fieldBytes body
    let len := (8 + bs.length + 7) / 8
    fieldBytes [(2, id), (1, 1), (1, len), (4, if rest = [] then 0 else at_ + 8 * len)] ++ bs ++
      List.replicate (8 * len - 8 - bs.length) 0 ++ capabilityList (at_ + 8 * len) rest

/-- What a host read of a BAR0 register returns (Table 19.2): write-only and unlisted offsets read 0. -/
def State.readBar0 (s : State) (fn off : Nat) : Nat :=
  let f := s.func fn
  match off with
  | 0x000 => s.devstat
  | 0x008 => s.service.capgen
  | 0x010 => f.lqbase
  | 0x014 => f.lqlog2
  | 0x018 => f.lqtail
  | 0x01C => f.lqhead
  | 0x020 => f.lqerr
  | 0x024 => f.lqlast
  | 0x028 => f.lqctx
  | 0x030 => f.cmtail
  | 0x034 => f.cmhead
  | 0x104 => f.capstat
  | 0x108 => f.capoff
  | 0x110 => f.caplen
  | 0x114 => f.capdst
  | 0x204 => f.cxoff
  | 0x208 => f.cxstat
  | 0x10008 => if fn = 0 then s.service.svcarg else 0
  | 0x10010 => if fn = 0 then s.service.svcstat else 0
  | _ =>
    if 0x1000 ≤ off ∧ off < 0x2000 then fld (f.ring.getD ((off - 0x1000) / 64) 0) (off % 64) 4
    else if 0x2000 ≤ off then
      layout (((capabilityList 0x2000 (s.capabilityBodies fn)).drop (off - 0x2000)).take 4 |>.map (fun b => (1, b)))
    else 0

/-! ## Time slices (R439) -/

/-- A function has work: a task that has not ended, or an entry that waits in its launch queue. -/
def State.hasWork (s : State) (fn : Nat) : Bool :=
  s.tasks.any (fun t => decide (s.ownerOf t.2.ctx = fn)) ||
    (decide ((s.func fn).lqlog2 ≠ 0) && decide ((s.func fn).lqhead ≠ (s.func fn).lqtail))

/-- The next function with work after the current one, in ascending order round the functions. -/
def State.nextFunction (s : State) : Option Nat :=
  ((List.range s.vfs).map (fun i => (s.current + 1 + i) % (s.vfs + 1))).find? s.hasWork

/-- The counters of every core are saved for the outgoing function and restored for the incoming one (R433). -/
def State.swapCounters (s : State) (next : Nat) : State :=
  let cur := s.current
  (List.range 192).foldl (fun (s : State) c =>
    let out := (s.core c).ctrs
    let back := s.savedCtrs.getD (next * 256 + c) []
    if out = [] ∧ back = [] then s
    else
      let s : State := { s with savedCtrs := (s.savedCtrs.setD (cur * 256 + c) out []).remove (next * 256 + c) }
      s.mapCore c (fun x => { x with ctrs := back })) s

/-- FSLICE (R439): the current function's slice has expired, or it has no work, and another function has.  Its crews issue nothing from then
on; live regions of its crews take the save stop first; when every crew can be saved, all are unbound with their whole context, the counters
change, and the next function is current. -/
def execFslice (s : State) : Host.Outcome State Fault Refusal :=
  .next (
    match s.nextFunction with
    | none => if s.switching then { s with switching := false } else s
    | some next =>
      if s.hasWork s.current ∧ s.clock < s.sliceStart + s.params.fslice then s
      else
        let s : State := if s.switching then s else { s with switching := true }
        let mine := (s.crews.filter (fun e => decide (s.ownerOf e.2.ctx = s.current))).map Prod.fst
        let live := (s.regions.filter (fun e => e.2.live && mine.contains e.1 && decide (e.2.saving ≠ 2))).map Prod.fst
        if live ≠ [] then live.foldl State.saveStop s
        else if !mine.all s.canSave then s
        else
          let s := mine.foldl State.saveWhole s
          let s := s.swapCounters next
          { s with
            current := next, sliceStart := s.clock, switching := false
            reserved := s.reserved.filter (fun e => (s.tasks.get? e.2).elim false (fun t => decide (s.ownerOf t.ctx = next))) })

end Sys2Proof.Machine
end

