-- ==== Sys2Proof/Machine/Boot.lean ====
section
/-! DEFINITION. Boot, attestation and service (R448 to R454): the measurement log, cold and warm reset, SPDM answers, the
configuration records and the service actions. -/

namespace Sys2Proof.Machine

/-! ## Measured boot (R448) -/

/-- MR after an entry with a digest: SHA-512 of both (R448). -/
def mrStep (mr digest : Nat) : Nat := sha512 (bytesOf 64 mr ++ bytesOf 64 digest)

/-- An entry of the measurement log (Table 19.5). -/
def logEntry (index component flags version clock digest : Nat) : Nat :=
  layout [(4, index), (2, component), (2, flags), (8, version), (8, clock), (64, digest), (40, 0)]

/-- A component is measured. -/
def State.measure (s : State) (component flags version digest : Nat) : State :=
  let v := s.service
  { s with service := { v with
      log := v.log ++ [logEntry v.log.length component flags version s.clock digest], mr := mrStep v.mr digest
      fw := if flags.testBit 2 then v.fw else v.fw.insert component version } }

/-- A configuration record in force: signed, and not older than the key store's counter (R448). -/
def State.recordOf (s : State) (bad : List Nat) (n : Nat) : Option Nat :=
  match s.service.flash.get? n with
  | none => none
  | some (version, value) => if bad.contains n ∨ version < s.service.keystore.getD n 0 then none else some value

/-- What the signed configuration records set, by their numbers in the model (log 54): 0 identity, 1 VFs, 2 FSLICE,
3 GANGWAIT, 4 GANGTMO, 5 DRAINTHR, 6 KILLLVL, 7 and 8 the buffer range, 9 PAGERIDLE, 10 FAULTTMO, 11 FPLOW, 12 PORTTRY,
13 service access, 14 WDTICKS, 15 FABTMO.  Without a record of the number of VFs there are 16, the most that R20 allows (log 69). -/
def State.applyRecords (s : State) (bad : List Nat) : State :=
  let r (n lo hi d : Nat) : Nat := ((s.recordOf bad n).filter (fun x => decide (lo ≤ x ∧ x ≤ hi))).getD d
  let p := Params.default
  let big := 2 ^ 64
  { s with
    devnum := (s.recordOf bad 0).getD 0 % 2 ^ 22
    vfs := r 1 0 16 16
    wdticks := r 14 0 big 10000000
    params :=
      { gangWait := r 3 0 big p.gangWait, gangTmo := r 4 0 big p.gangTmo, drainThr := r 5 0 big p.drainThr
        killLvl := r 6 0 255 p.killLvl, bufLo := r 7 0 (2 ^ 18) p.bufLo, bufHi := r 8 0 (2 ^ 18) p.bufHi
        fslice := r 2 100000 100000000 p.fslice, pagerIdle := r 9 0 big p.pagerIdle, faultTmo := r 10 0 big p.faultTmo
        fpLow := r 11 0 65536 p.fpLow, portTry := r 12 0 big p.portTry, access := decide (r 13 0 1 0 = 1), fabtmo := r 15 0 big p.fabtmo } }

/-- Set or clear a bit of a live set. -/
def withBit (x n : Nat) (b : Bool) : Nat := if x.testBit n = b then x else if b then x + 2 ^ n else x - 2 ^ n

/-- A die leaves or enters the live set, and with it the home hash changes its version (R26, R482). -/
def State.setDieLive (s : State) (d : Nat) (b : Bool) : State :=
  if s.liveDies.testBit d = b then s
  else { s with liveDies := withBit s.liveDies d b, service := { s.service with hashVersion := s.service.hashVersion + 1 } }

/-- Stage 2 of boot (R448): images in component order, each verified, measured and run; a failed foreman image leaves its
die offline, and a failed head-foreman or B-die image stops boot. -/
def State.bootImages (s : State) : List (Nat × Nat × Nat × Bool) → State × Bool
  | [] => (s, true)
  | (component, version, digest, ok) :: rest =>
    let s := s.measure component (if ok then 1 else 5) version digest
    if ok then s.bootImages rest
    else if component ≤ 1 then (s, false)
    else if 0x10 ≤ component ∧ component < 0x18 then
      (s.setDieLive (component - 0x10) false).bootImages rest
    else s.bootImages rest

/-- The staging region: the highest 256 MiB of the lowest live die (R483). -/
def State.placeStaging (s : State) : State :=
  let d := ((List.range 8).find? s.dieLive).getD 0
  { s with service := { s.service with stageBase := (d + 1) * 2 ^ 37 - 2 ^ 28 } }

/-- The number of the foreman's own context, and an owner that is no function (log 76). -/
def foremanCtx : Nat := 4095
def noFunction : Nat := 256

/-- The foreman creates the level-2 context of its own service kernels (R397; log 76). -/
def State.createForemanCtx (s : State) : State :=
  { s with ctxs := s.ctxs.insert foremanCtx { Ctx.blank with level := 2, owner := noFunction } }

/-- Stages 2 and 3 of boot. -/
def State.finishBoot (s : State) (images : List (Nat × Nat × Nat × Bool)) : State :=
  let s : State := { s with service := { s.service with stage := 2, log := [], mr := 0 } }
  match s.bootImages (images.mergeSort (fun a b => decide (a.1 ≤ b.1))) with
  | (s, false) => s
  | (s, true) =>
    let s := s.placeStaging.createForemanCtx
    { s with service := { s.service with stage := 3, ready := true } }

/-- COLD_RESET (R9, R428, R448): every field takes its reset value, but for what the flash and the key store hold; then
measured boot.  `images` are the firmware images as verification finds them (component, version, digest, accepted), and
`bad` the configuration records whose signature fails. -/
def execColdReset (images : List (Nat × Nat × Nat × Bool)) (bad : List Nat) (s : State) : Host.Outcome State Fault Refusal :=
  .next (
    let r : State := { State.reset with
      freeIx := s.freeIx, agenda := s.agenda, focusCore := s.focusCore, focusSlot := s.focusSlot, boots := s.boots + 1
      capsules := s.capsules.filter (fun e => decide (e.1 = 2)), capsuleCount := s.capsuleCount
      service := { Service.blank with flash := s.service.flash, keystore := s.service.keystore, stage := 1 } }
    if (r.recordOf bad 0).isNone then { r with service := { r.service with fatal := true } }
    else (r.applyRecords bad).finishBoot images)

/-- WARM_RESET (R9, R448, R454): as cold reset, but CLOCK, the configuration versions, KILLDROP, the capsule region, the
rings, and what the configuration records set are kept; stage 2 of boot starts a new log.  Of state without a Reset column, the model keeps
the live dies, cores, stacks, vaults and ports and the version of the home hash (a die left offline stays so, even where its image now
verifies), lets the rings record again and clears their counts of discarded events (log 75). -/
def execWarmReset (images : List (Nat × Nat × Nat × Bool)) (s : State) : Host.Outcome State Fault Refusal :=
  .next (
    let kept (c : Core) : Core := { Core.blank with version := c.version, killdrop := c.killdrop }
    let r : State := { State.reset with
      freeIx := s.freeIx, agenda := s.agenda, focusCore := s.focusCore, focusSlot := s.focusSlot, boots := s.boots
      clock := s.clock, capsules := s.capsules, capsuleCount := s.capsuleCount
      rings := s.rings.mapVals (fun (q : Ring) => { q with frozen := none, discarded := 0 })
      cores := (s.cores.mapVals kept).filter (fun e => decide (e.2 ≠ Core.blank))
      params := s.params, wdticks := s.wdticks, vfs := s.vfs, devnum := s.devnum, liveDies := s.liveDies, liveCores := s.liveCores
      liveStacks := s.liveStacks, liveVaults := s.liveVaults, livePorts := s.livePorts
      service := { Service.blank with
        flash := s.service.flash, keystore := s.service.keystore, hashVersion := s.service.hashVersion, stage := 2 } }
    r.finishBoot images)

/-- CONFIG_RECORD_REPLACE (R450): a PF service command replaces a record in the flash, unless it is not signed or is older
than the key store's counter, which then takes the record's version; it is in force from the next cold reset. -/
def execConfigRecordReplace (record version value : Nat) (ok : Bool) (s : State) : Host.Outcome State Fault Refusal :=
  .next (
    let v := s.service
    if !ok ∨ version < v.keystore.getD record 0 then s
    else { s with service := { v with
      flash := v.flash.insert record (version, value), keystore := v.keystore.insert record version } })

/-! ## Attestation (R449) -/

/-- A function gets an answer over DOE. -/
def State.answerSpdm (s : State) (fn request : Nat) (fields : List Nat) : State :=
  if s.functionExists fn then { s with spdm := s.spdm ++ [⟨fn, request, fields⟩] } else s

/-- GET_VERSION (R449): SPDM 1.2. -/
def execGetVersion (fn : Nat) (s : State) : Host.Outcome State Fault Refusal := .next (s.answerSpdm fn 0 [0x12])

/-- GET_CAPABILITIES (R449): the certificate, challenge and measurement requests are supported; sessions, pre-shared keys
and certificate provisioning are not. -/
def execGetCapabilities (fn : Nat) (s : State) : Host.Outcome State Fault Refusal := .next (s.answerSpdm fn 1 [1, 1, 1, 0, 0, 0])

/-- NEGOTIATE_ALGORITHMS (R449): RSAPSS_4096 and SHA_512. -/
def execNegotiateAlgorithms (fn : Nat) (s : State) : Host.Outcome State Fault Refusal := .next (s.answerSpdm fn 2 [4096, 512])

/-- GET_DIGESTS (R449): the digest of the chain in slot 0. -/
def execGetDigests (fn : Nat) (s : State) : Host.Outcome State Fault Refusal :=
  .next (s.answerSpdm fn 3 [sha512 Config.certChain])

/-- GET_CERTIFICATE (R449): part of the chain in slot 0. -/
def execGetCertificate (fn off len : Nat) (s : State) : Host.Outcome State Fault Refusal :=
  .next (s.answerSpdm fn 4 ((Config.certChain.drop off).take len))

/-- CHALLENGE (R449): the nonce, the digest of the chain and MR, signed with the device identity key. -/
def execChallenge (fn nonce : Nat) (s : State) : Host.Outcome State Fault Refusal :=
  let chain := sha512 Config.certChain
  let body := bytesOf 32 nonce ++ bytesOf 64 chain ++ bytesOf 64 s.service.mr
  .next (s.answerSpdm fn 5 [nonce, chain, s.service.mr, Config.sign body])

/-- A measurement block (R449): log entries, the oldest entry shown with the MR before it, or MR. -/
def Service.block (v : Service) (n : Nat) : List Nat :=
  let len := v.log.length
  let lo := len - 251
  if n = 0xFD then [v.mr]
  else if n = 0xFC then
    (if len ≤ 251 then [] else [lo, (v.log.take lo).foldl (fun mr e => mrStep mr (fld e 24 64)) 0])
  else if n = 0 ∨ 0xFB < n then []
  else (v.log[lo + n - 1]?).toList

/-- GET_MEASUREMENTS (R449): one measurement block. -/
def execGetMeasurements (fn block : Nat) (s : State) : Host.Outcome State Fault Refusal :=
  .next (s.answerSpdm fn 6 (s.service.block block))

/-! ## Service actions (R451, R453) -/

/-- The die of an action: 8 is the B-die, with every port (R13); command 3 concerns no one die alone. -/
def Action.die (a : Action) : Option Nat :=
  match a.cmd with
  | 1 => some (a.arg % 8)
  | 2 => some (dieOf (a.arg % 256))
  | 4 => some (a.arg % 16 / 2)
  | 5 => some 8
  | 6 => some (a.arg % 8)
  | _ => none

/-- An action can start at once (R453): at most one on a die, command 3 alone, and none during a freeze or after a fatal
fault. -/
def State.canAct (s : State) (a : Action) : Bool :=
  let run := s.service.actions
  s.freeze.isNone && !s.service.fatal &&
    (if a.cmd = 3 then decide (run = []) else !run.any (fun b => decide (b.cmd = 3) || (a.die.isSome && decide (b.die = a.die))))

/-- SVCSTAT with its busy bit. -/
def Service.status (v : Service) (result detail : Nat) : Service :=
  { v with svcstat := detail + result * 2 ^ 28 + (if v.actions = [] then 0 else 2 ^ 31) }

/-- An action is refused (R453). -/
def State.refuseAction (s : State) : State := { s with service := s.service.status 1 0 }

/-- An action starts. -/
def State.startAction (s : State) (a : Action) : State :=
  let v := { s.service with actions := s.service.actions ++ [a] }
  { s with service := v.status 0 0 }

/-- An action ends: SVCSTAT takes the result and the PF gets a kind 5 record (R444, R451). -/
def State.endAction (s : State) (a : Action) (result detail : Nat) : State :=
  let v : Service := { s.service with actions := s.service.actions.filter (fun b => decide (b ≠ a)) }
  let s : State := { s with service := v.status result detail }
  s.postRecord 0 5 (layout [(4, a.cmd), (4, s.service.svcstat)])

/-- The running action of a command with an argument that `p` accepts. -/
def State.running (s : State) (cmd : Nat) (p : Nat → Bool) : Option Action :=
  if s.freeze.isSome then none else s.service.actions.find? (fun a => decide (a.cmd = cmd) && p a.arg)

/-- An order of a command (R451): SVCARG is its argument; it starts or is refused. -/
def State.order (s : State) (cmd : Nat) (ok : Nat → Bool) (start : State → Action → State) : State :=
  let a : Action := ⟨cmd, s.service.svcarg⟩
  if s.canAct a && ok a.arg then start (s.startAction a) a else s.refuseAction

/-- FOREMAN_FIRMWARE_UPDATE (R449, R451): `op` 0 orders it, 2 ends it with the image verified and running, 3 with the image
rejected; `size` and `version` are the image's. -/
def execForemanFirmwareUpdate (op size version : Nat) (s : State) : Host.Outcome State Fault Refusal :=
  .next (
    if op = 0 then
      s.order 1 (fun arg => s.dieLive (arg % 8) &&
        decide (s.service.log.length + (s.service.actions.filter (fun a => decide (a.cmd = 1))).length < 4096)) (fun s _ => s)
    else
      match s.running 1 (fun _ => true) with
      | none => s
      | some a =>
        let digest := sha512 (bytesOf size (s.physBytes (s.barBase 0 + bitsOf a.arg 47 8) size))
        let comp := 0x10 + a.arg % 8
        if op = 2 then (s.measure comp 2 version digest).endAction a 0 0
        else if op = 3 then (s.measure comp 6 version digest).endAction a 2 0
        else s)

/-- One step of draining cores (R451): regions take the save stop, and their control crews go with them; each task there is treated as
pre-empted by a class 3 newcomer, under rows 1, 2 and 4 of Table 14.5, and under row 3 with bit 63. -/
def State.drainCores (s : State) (on : Nat → Bool) (kill : Bool) : State :=
  let here := s.crews.filter (fun e => on (e.1 / 64))
  let regions := (s.regions.filter (fun e => e.2.live && e.2.cores.any on)).map Prod.fst
  let s := regions.foldl State.saveStop s
  let s := regions.foldl (fun (s : State) k => if s.canSave k then s.saveWhole k else s) s
  ((here.map (fun e => e.2.task)).dedup).foldl (fun (s : State) n =>
    match s.tasks.get? n with
    | none => s
    | some t =>
      if t.estim.toNat ≤ s.params.drainThr then s
      else if (t.fld 2 1).testBit 1 then
        s.checkpoint ((s.crews.filter (fun e => on (e.1 / 64) && decide (e.2.task = n))).map Prod.fst)
      else if kill && (t.fld 2 1).testBit 2 then s.killTask n 3
      else s) s

/-- A waiting phase moves to another core, its record and its claimed tiles with it (R234, R327); none where they find no room there. -/
def State.movePhase (s : State) (n k dst : Nat) (t : Task) (p : Phase) : Option State :=
  let put (s : State) (off : Option Nat) : State :=
    s.mapTask n (fun t => { t with phases := t.phases.insert k { p with core := dst, recOff := off } })
  match p.recOff with
  | none => some (put s none)
  | some off =>
    let tiles : BitVec 8 := if k < siblingBase then BitVec.ofNat 8 (t.fld 19 1) else 0
    match s.recordRoom dst t.carry with
    | none => none
    | some new =>
      if !s.tilesFree dst n k tiles then none
      else
        let s' := (recordSpans 0 t.carry).foldl (fun (s' : State) x =>
          s'.setBytes (poolIdx dst (new + x.1)) (s.bytes (poolIdx p.core (off + x.1)) x.2) x.2) s
        let s' := (List.range 8).foldl (fun (s' : State) i => if tiles.getLsbD i then s'.setTile dst i (s.tile p.core i) else s') s'
        some (put s' (some new))

/-- A placement group of a task moves to another core once no crew of it is bound on the cores that leave (R327): all of its phases, or
none. -/
def State.moveGroup (s : State) (on : Nat → Bool) (n g dst : Nat) : Option State :=
  match s.tasks.get? n with
  | none => none
  | some t =>
    let bound := s.crews.any (fun e => on (e.1 / 64) && decide (e.2.task = n ∧ t.group e.2.number = g))
    let moved := (t.phases.filter (fun e => on e.2.core && decide (t.group e.1 = g))).foldl (fun (acc : Option State) e =>
      acc.bind (fun s => s.movePhase n e.1 dst t e.2)) (if bound then none else some s)
    moved.map (fun s => s.mapTask n (fun t => { t with
      groups := if (t.groups.get? g).isSome then t.groups.insert g dst else t.groups
      cores := if t.cores.contains dst then t.cores else (dst :: t.cores).mergeSort (· ≤ ·) }))

/-- The placement groups of a task that are on some cores. -/
def Task.groupsOn (t : Task) (on : Nat → Bool) : List Nat :=
  ((t.groups.filter (fun e => on e.2)).map Prod.fst ++ (t.phases.filter (fun e => on e.2.core)).map (fun e => t.group e.1)).dedup

/-- The placement groups on cores that leave go to the first cores that can take them (R327, R451). -/
def State.moveGroups (s : State) (on : Nat → Bool) : State :=
  s.tasks.foldl (fun (s : State) t => (t.2.groupsOn on).foldl (fun (s : State) g =>
    (((List.range 192).filter (fun c => !on c && s.coreBinds c)).findSome? (s.moveGroup on t.1 g)).getD s) s) s

/-- A place of storage lies in a core's pool, or in the vaults or HBM of a die. -/
def inPool (core idx : Nat) : Bool := decide (poolIdx core 0 ≤ idx ∧ idx < poolIdx core 0 + 2 ^ 18)
def onDie (d idx : Nat) : Bool :=
  if idx < 2 ^ 52 then decide (idx / 2 ^ 37 = d)
  else if idx < 2 ^ 53 then decide ((idx - 2 ^ 52) / 2 ^ 24 / 8 = d)
  else decide (dieOf ((idx - 2 ^ 53) / 2 ^ 18) = d)

/-- No outstanding access of a crew or a spatial slot is to a place that `p` accepts (R447). -/
def State.untouched (s : State) (p : Nat → Bool) : Bool :=
  !s.crews.any (fun e => e.2.pend.any (fun q => q.accs.any (fun a => p a.loc.idx))) &&
    !s.cores.any (fun c => c.2.replies.any (fun r => p r.loc.idx))

/-- The physical bases of the pages that the tables from a node at a level down map (Table 7.5). -/
def State.mappedPages (s : State) : Nat → Nat → List Nat
  | 0, _ => []
  | lv + 1, node =>
    (List.range 1024).flatMap (fun i =>
      let e := s.physBytes (node + 8 * i) 8
      if !e.testBit 0 then []
      else if e.testBit 1 then [bitsOf e 51 13 * 2 ^ 13]
      else s.mappedPages lv (bitsOf e 51 13 * 2 ^ 13))

/-- No context maps a page on a die's stacks: they have all migrated (R451). -/
def State.dieUnmapped (s : State) (d : Nat) : Bool :=
  s.ctxs.all (fun c => (s.mappedPages 4 (bitsOf c.2.ptroot.toNat 51 13 * 2 ^ 13)).all (fun pa => decide (pa / 2 ^ 37 ≠ d)))

/-- Nothing is left on cores that leave: no crew, no job, no region, no waiting phase. -/
def State.coresEmpty (s : State) (on : Nat → Bool) : Bool :=
  s.tasks.all (fun t => decide (t.2.groupsOn on = [])) && !s.crews.any (fun e => on (e.1 / 64)) && !s.cores.any (fun c => on c.1 && decide (c.2.jobs ≠ [])) &&
    !s.regions.any (fun e => e.2.cores.any on)

/-- CORE_OFFLINE (R451): `op` 0 orders it, 1 drains on, 2 ends it once the core is empty. -/
def execCoreOffline (op : Nat) (s : State) : Host.Outcome State Fault Refusal :=
  .next (
    let off (arg : Nat) : Bool := !arg.testBit 8
    if op = 0 then s.order 2 (fun arg => off arg && s.coreLive (arg % 256) && decide (arg % 256 < 192)) (fun s _ => s)
    else
      match s.running 2 off with
      | none => s
      | some a =>
        let on (c : Nat) : Bool := decide (c = a.arg % 256)
        if op = 1 then (s.drainCores on (a.arg.testBit 63)).moveGroups on
        else if s.coresEmpty on && s.untouched (inPool (a.arg % 256)) then
          let s : State := { s with liveCores := withBit s.liveCores (a.arg % 256) false }
          (s.newCapabilities).endAction a 0 0
        else s)

/-- CORE_ONLINE (R451): a core comes online. -/
def execCoreOnline (op : Nat) (s : State) : Host.Outcome State Fault Refusal :=
  .next (
    if op = 0 then
      s.order 2 (fun arg => arg.testBit 8 && decide (arg % 256 < 192) && s.dieLive (dieOf (arg % 256))) (fun s a =>
        (({ s with liveCores := withBit s.liveCores (a.arg % 256) true } : State).newCapabilities).endAction a 0 0)
    else s)

/-- What a die that leaves passes to another: its launch queue, fault records, tasks and coppices. -/
def State.rehome (s : State) (d : Nat) : State :=
  let e := ((List.range 8).find? (fun i => decide (i ≠ d) && s.dieLive i)).getD d
  let old := s.die d
  let s := s.mapDie e (fun x => { x with launchQ := x.launchQ ++ old.launchQ, faults := x.faults ++ old.faults })
  let s := s.mapDie d (fun x => { x with launchQ := [], faults := [], freePages := [], pager := false, tlb := [] })
  { s with
    tasks := s.tasks.mapVals (fun (t : Task) => if t.die = d then { t with die := e } else t)
    coppices := s.coppices.map (fun c => if c.die = d then { c with die := e } else c) }

/-- DIE_OFFLINE (R447, R451): `op` 0 orders it, 1 drains on, 2 ends it once the die's cores are empty, the last access to its vaults and HBM
has completed, and the pages of its stacks have moved, each by MIGRATION. -/
def execDieOffline (op : Nat) (s : State) : Host.Outcome State Fault Refusal :=
  .next (
    let off (arg : Nat) : Bool := !arg.testBit 8
    if op = 0 then s.order 3 (fun arg => off arg && s.dieLive (arg % 8)) (fun s _ => s)
    else
      match s.running 3 off with
      | none => s
      | some a =>
        let d := a.arg % 8
        let on (c : Nat) : Bool := decide (dieOf c = d)
        if op = 1 then (s.drainCores on (a.arg.testBit 63)).moveGroups on
        else if s.coresEmpty on && s.untouched (onDie d) && s.dieUnmapped d && !s.migrations.any (fun m => decide (m.new / 2 ^ 37 = d)) then
          let s := s.rehome d
          ((s.setDieLive d false).newCapabilities).endAction a 0 0
        else s)

/-- DIE_ONLINE (R451): a die comes online. -/
def execDieOnline (op : Nat) (s : State) : Host.Outcome State Fault Refusal :=
  .next (
    if op = 0 then
      s.order 3 (fun arg => arg.testBit 8) (fun s a =>
        ((s.setDieLive (a.arg % 8) true).newCapabilities).endAction a 0 0)
    else s)

/-- RETRAIN_HBM_STACK (R451): `op` 0 is a success and any other a failure.  Accesses stall until it is done, which no
program sees but as time. -/
def execRetrainHbmStack (op : Nat) (s : State) : Host.Outcome State Fault Refusal :=
  .next (s.order 4 (fun arg => s.stackLive (arg % 16)) (fun s a => s.endAction a (if op = 0 then 0 else 2) 0))

/-- A live raft generation routes over a port. -/
def State.portUsed (s : State) (port : Nat) : Bool := s.rafts.any (fun e => e.2.live && e.2.routes.any (fun x => decide (x.2 = port)))

/-- The retraining of a port starts when no live raft generation routes over it, or at once with bit 63 (R451). -/
def State.startRetrain (s : State) (a : Action) : State :=
  let port := a.arg % 32
  if s.livePorts.testBit port && (a.arg.testBit 63 || !s.portUsed port) then s.portOut port else s

/-- RETRAIN_PORT (R451): `op` 0 orders it, 1 starts it if it can now, 2 ends it with the port trained, 3 without. -/
def execRetrainPort (op : Nat) (s : State) : Host.Outcome State Fault Refusal :=
  .next (
    if op = 0 then s.order 5 (fun arg => decide (arg % 32 < 28)) State.startRetrain
    else
      match s.running 5 (fun _ => true) with
      | none => s
      | some a =>
        let port := a.arg % 32
        if op = 1 then s.startRetrain a
        else if s.livePorts.testBit port then s
        else if op = 2 then
          (({ s with livePorts := withBit s.livePorts port true, retrain := s.retrain.remove port } : State).newCapabilities).endAction a 0 0
        else s.endAction a 2 0)

/-- A page base is good for a die's free-page pool (R165). -/
def State.pageGood (s : State) (die base : Nat) : Bool :=
  let st := s.service.stageBase
  decide (base % 2 ^ 17 = 0) && decide (base / 2 ^ 37 = die) && !(decide (st - 2 ^ 26 ≤ base ∧ base < st + 2 ^ 28)) &&
    !(s.die die).freePages.contains base && decide ((s.die die).freePages.length < 65536)

/-- Add page bases to a pool, counting those that are skipped. -/
def State.addPages (s : State) (die : Nat) : List Nat → State × Nat
  | [] => (s, 0)
  | b :: bs =>
    if s.pageGood die b then (s.mapDie die (fun d => { d with freePages := insertPage b d.freePages })).addPages die bs
    else
      let (s, n) := s.addPages die bs
      (s, n + 1)

/-- ADD_FREE_PAGES (R165, R451): the bases of the list are checked and added; the status counts those skipped. -/
def execAddFreePages (s : State) : Host.Outcome State Fault Refusal :=
  .next (
    s.order 6 (fun arg => s.dieLive (arg % 8)) (fun s a =>
      let die := a.arg % 8
      let n := bitsOf a.arg 23 8 + 1
      let off := bitsOf a.arg 55 24
      if off % 8 ≠ 0 ∨ !inBar 0 off (8 * n) then s.endAction a 2 0
      else
        let bases := (List.range n).map (fun i => s.physBytes (s.barBase 0 + off + 8 * i) 8)
        let (s, skipped) := s.addPages die bases
        let s := if s.params.fpLow ≤ (s.die die).freePages.length then s.mapDie die (fun d => { d with lowPosted := false }) else s
        s.endAction a 0 (min skipped 0xFFFF)))

end Sys2Proof.Machine
end

