-- ==== Sys2Proof/Machine/Control.lean ====
section
/-! DEFINITION. Crew control, predicates, uniform scalar arithmetic, branches, calls and divergence, opcodes 0x00 to 0x27
(R64 to R80), and the trap of reserved opcodes (R33).  EXIT is in `Retire.lean`. -/

namespace Sys2Proof.Machine

/-- NOP (R76): only the PC advances. -/
def execNop (s : State) : Host.Outcome State Fault Refusal := issueCrew .nop s id

/-- UNDEF (R33): traps ILLOP with the word. -/
def execUndef (u : BitVec 24) (s : State) : Host.Outcome State Fault Refusal :=
  issue (.undef u) s (fun s => .trap s 0x01 ((Instr.undef u).word.zeroExtend 64))

/-- A word with a reserved opcode (R33): traps ILLOP with the word. -/
def execReservedOpcode (w : BitVec 32) (s : State) : Host.Outcome State Fault Refusal :=
  issue (.reservedOpcode w) s (fun s => .ended (takeTrap s 0x01 (w.zeroExtend 64)))

/-- SETM (R68): the selected fields of MODE take the value's bits. -/
def execSetm (f : BitVec 6) (v : BitVec 16) (s : State) : Host.Outcome State Fault Refusal :=
  issueCrew (.setm f v) s (fun c => { c with mode := (c.mode &&& ~~~(setmBits f)) ||| (v &&& setmBits f) })

/-- SETMX (R68): the selected fields of MODEX take the value's bits. -/
def execSetmx (f : BitVec 3) (v : BitVec 6) (s : State) : Host.Outcome State Fault Refusal :=
  issueCrew (.setmx f v) s (fun c =>
    { c with modex := (c.modex &&& ~~~(setmxBits f)) ||| (v.zeroExtend 16 &&& setmxBits f) })

/-- GETM (R69): MODEX × 65,536 + MODE. -/
def execGetm (d : BitVec 8) (s : State) : Host.Outcome State Fault Refusal :=
  issueCrew (.getm d) s (fun c => c.setS d.toNat (c.modex ++ c.mode))

/-- PLOG (R70): in each active lane, bit 2 × p[a] + p[b] of the truth table. -/
def execPlog (d a : BitVec 3) (f : BitVec 4) (b : BitVec 3) (s : State) : Host.Outcome State Fault Refusal :=
  issueCrew (.plog d a f b) s (fun c =>
    let x := c.pred a.toNat
    let y := c.pred b.toNat
    c.setPredLanes d.toNat c.active
      ((if f.getLsbD 3 then x &&& y else 0) ||| (if f.getLsbD 2 then x &&& ~~~y else 0) |||
       (if f.getLsbD 1 then ~~~x &&& y else 0) ||| (if f.getLsbD 0 then ~~~x &&& ~~~y else 0)))

/-- PCOUNT (R70): how many active lanes have p[a] = 1. -/
def execPcount (d : BitVec 8) (a : BitVec 3) (s : State) : Host.Outcome State Fault Refusal :=
  issueCrew (.pcount d a) s (fun c =>
    c.setS d.toNat (BitVec.ofNat 32 (lanesOf (c.active &&& c.pred a.toNat)).length))

/-- PTOS (R70): the predicate's bits of the active lanes, 0 elsewhere, in a scalar pair. -/
def execPtos (d : BitVec 8) (a : BitVec 3) (s : State) : Host.Outcome State Fault Refusal :=
  issueCrew (.ptos d a) s (fun c => c.setSS d.toNat (c.active &&& c.pred a.toNat))

/-- SFROMP (R70): the active lanes' predicate bits from a scalar pair. -/
def execSfromp (d : BitVec 3) (a : BitVec 8) (s : State) : Host.Outcome State Fault Refusal :=
  issueCrew (.sfromp d a) s (fun c => c.setPredLanes d.toNat c.active (c.getSS a.toNat))

/-- SADD (Table 3.5): s[a] + s[b]. -/
def execSadd (d a b : BitVec 8) (s : State) : Host.Outcome State Fault Refusal :=
  issueCrew (.sadd d a b) s (fun c =>
    let x := c.getS a.toNat
    let y := c.getS b.toNat
    c.setS d.toNat (x + y))

/-- SSUB (Table 3.5): s[a] − s[b]. -/
def execSsub (d a b : BitVec 8) (s : State) : Host.Outcome State Fault Refusal :=
  issueCrew (.ssub d a b) s (fun c =>
    let x := c.getS a.toNat
    let y := c.getS b.toNat
    c.setS d.toNat (x - y))

/-- SMUL (Table 3.5): the low 32 bits of the product. -/
def execSmul (d a b : BitVec 8) (s : State) : Host.Outcome State Fault Refusal :=
  issueCrew (.smul d a b) s (fun c =>
    let x := c.getS a.toNat
    let y := c.getS b.toNat
    c.setS d.toNat (x * y))

/-- SAND (Table 3.5): AND. -/
def execSand (d a b : BitVec 8) (s : State) : Host.Outcome State Fault Refusal :=
  issueCrew (.sand d a b) s (fun c =>
    let x := c.getS a.toNat
    let y := c.getS b.toNat
    c.setS d.toNat (x &&& y))

/-- SOR (Table 3.5): OR. -/
def execSor (d a b : BitVec 8) (s : State) : Host.Outcome State Fault Refusal :=
  issueCrew (.sor d a b) s (fun c =>
    let x := c.getS a.toNat
    let y := c.getS b.toNat
    c.setS d.toNat (x ||| y))

/-- SXOR (Table 3.5): XOR. -/
def execSxor (d a b : BitVec 8) (s : State) : Host.Outcome State Fault Refusal :=
  issueCrew (.sxor d a b) s (fun c =>
    let x := c.getS a.toNat
    let y := c.getS b.toNat
    c.setS d.toNat (x ^^^ y))

/-- SSHL (Table 3.5): shifted left by s[b] mod 32. -/
def execSshl (d a b : BitVec 8) (s : State) : Host.Outcome State Fault Refusal :=
  issueCrew (.sshl d a b) s (fun c =>
    let x := c.getS a.toNat
    let y := c.getS b.toNat
    c.setS d.toNat (x <<< (y.toNat % 32)))

/-- SSHR (Table 3.5): shifted right, zero-filled. -/
def execSshr (d a b : BitVec 8) (s : State) : Host.Outcome State Fault Refusal :=
  issueCrew (.sshr d a b) s (fun c =>
    let x := c.getS a.toNat
    let y := c.getS b.toNat
    c.setS d.toNat (x >>> (y.toNat % 32)))

/-- SSRA (Table 3.5): shifted right, copying bit 31. -/
def execSsra (d a b : BitVec 8) (s : State) : Host.Outcome State Fault Refusal :=
  issueCrew (.ssra d a b) s (fun c =>
    let x := c.getS a.toNat
    let y := c.getS b.toNat
    c.setS d.toNat (x.sshiftRight (y.toNat % 32)))

/-- SSLT (Table 3.5): signed less-than as 0 or 1. -/
def execSslt (d a b : BitVec 8) (s : State) : Host.Outcome State Fault Refusal :=
  issueCrew (.sslt d a b) s (fun c =>
    let x := c.getS a.toNat
    let y := c.getS b.toNat
    c.setS d.toNat (if x.slt y then 1 else 0))

/-- SSLTN (Table 3.5): unsigned less-than as 0 or 1. -/
def execSsltn (d a b : BitVec 8) (s : State) : Host.Outcome State Fault Refusal :=
  issueCrew (.ssltn d a b) s (fun c =>
    let x := c.getS a.toNat
    let y := c.getS b.toNat
    c.setS d.toNat (if x.ult y then 1 else 0))

/-- SSEQ (Table 3.5): equality as 0 or 1. -/
def execSseq (d a b : BitVec 8) (s : State) : Host.Outcome State Fault Refusal :=
  issueCrew (.sseq d a b) s (fun c =>
    let x := c.getS a.toNat
    let y := c.getS b.toNat
    c.setS d.toNat (if x = y then 1 else 0))

/-- SMIN (Table 3.5): the smaller, compared as signed. -/
def execSmin (d a b : BitVec 8) (s : State) : Host.Outcome State Fault Refusal :=
  issueCrew (.smin d a b) s (fun c =>
    let x := c.getS a.toNat
    let y := c.getS b.toNat
    c.setS d.toNat (if y.slt x then y else x))

/-- SMAX (Table 3.5): the larger, compared as signed. -/
def execSmax (d a b : BitVec 8) (s : State) : Host.Outcome State Fault Refusal :=
  issueCrew (.smax d a b) s (fun c =>
    let x := c.getS a.toNat
    let y := c.getS b.toNat
    c.setS d.toNat (if x.slt y then y else x))

/-- SADD64 (R72): adds a pair, or a sign-extended single register, by MODE.type. -/
def execSadd64 (d a b : BitVec 8) (s : State) : Host.Outcome State Fault Refusal :=
  issueCrew (.sadd64 d a b) s (fun c =>
    let y := if spanOf (modeType c.mode) = 2 then c.getSS b.toNat else (c.getS b.toNat).signExtend 64
    c.setSS d.toNat (c.getSS a.toNat + y))

/-- SMOVI (R73): the sign-extended immediate. -/
def execSmovi (d : BitVec 8) (i : BitVec 16) (s : State) : Host.Outcome State Fault Refusal :=
  issueCrew (.smovi d i) s (fun c => c.setS d.toNat (i.signExtend 32))

/-- SMOVHI (R73): the immediate in the high half. -/
def execSmovhi (d : BitVec 8) (i : BitVec 16) (s : State) : Host.Outcome State Fault Refusal :=
  issueCrew (.smovhi d i) s (fun c => c.setS d.toNat (i ++ (0 : BitVec 16)))

/-- SADDI (R73): adds the sign-extended immediate. -/
def execSaddi (d : BitVec 8) (i : BitVec 16) (s : State) : Host.Outcome State Fault Refusal :=
  issueCrew (.saddi d i) s (fun c => c.setS d.toNat (c.getS d.toNat + i.signExtend 32))

/-- SPCHI (R73): PC + sext(imm16) × 65,536. -/
def execSpchi (d : BitVec 8) (i : BitVec 16) (s : State) : Host.Outcome State Fault Refusal :=
  issueCrew (.spchi d i) s (fun c => c.setSS d.toNat (c.pc.zeroExtend 64 + (i.signExtend 64) <<< 16))

/-! ## Branches and calls -/

/-- The target of a 16-bit word offset (R35), modulo 2^57 (log 63). -/
def relTarget (pc : PcWord) (i : BitVec 16) : PcWord := pc + (i.signExtend 57) <<< 2

/-- The target of a 24-bit word offset (R35), modulo 2^57 (log 63). -/
def farTarget (pc : PcWord) (o : BitVec 24) : PcWord := pc + (o.signExtend 57) <<< 2

/-- Issue an instruction whose only effect is to place the PC when `taken` holds of the crew (R74). -/
def issueBranch (i : Instr) (s : State) (taken : Crew → Bool) (target : PcWord → PcWord) :
    Host.Outcome State Fault Refusal :=
  issue i s (fun s => if taken s.crew then .jump s (target s.crew.pc) else .done s)

/-- BRA (R74): always taken. -/
def execBra (o : BitVec 24) (s : State) : Host.Outcome State Fault Refusal :=
  issueBranch (.bra o) s (fun _ => true) (fun pc => farTarget pc o)

/-- BRNZ (R74): taken when s[a] is not 0. -/
def execBrnz (d : BitVec 8) (i : BitVec 16) (s : State) : Host.Outcome State Fault Refusal :=
  issueBranch (.brnz d i) s (fun c => decide (c.getS d.toNat ≠ 0)) (fun pc => relTarget pc i)

/-- BRZ (R74): taken when s[a] is 0. -/
def execBrz (d : BitVec 8) (i : BitVec 16) (s : State) : Host.Outcome State Fault Refusal :=
  issueBranch (.brz d i) s (fun c => decide (c.getS d.toNat = 0)) (fun pc => relTarget pc i)

/-- BRANY (R74): taken when some active lane has p[a] = 1. -/
def execBrany (d : BitVec 3) (i : BitVec 16) (s : State) : Host.Outcome State Fault Refusal :=
  issueBranch (.brany d i) s (fun c => decide (c.active &&& c.pred d.toNat ≠ 0)) (fun pc => relTarget pc i)

/-- BRALL (R74): taken when some lane is active and every active lane has p[a] = 1. -/
def execBrall (d : BitVec 3) (i : BitVec 16) (s : State) : Host.Outcome State Fault Refusal :=
  issueBranch (.brall d i) s
    (fun c => decide (c.active ≠ 0) && decide (c.active &&& ~~~(c.pred d.toNat) = 0)) (fun pc => relTarget pc i)

/-- Place the PC at a 64-bit target, or trap with the target as tval (R27, R75). -/
def jumpTo (s : State) (t : DWord) (f : Crew → Crew) : Res :=
  match badTarget t with
  | some cause => .trap s cause t
  | none => .jump (s.mapCrew f) (t.truncate 57)

/-- CALL (R75): the link in s0:s1.  The target is formed modulo 2^64 (log 63), and one at or above 2^57 traps ACCESS. -/
def execCall (o : BitVec 24) (s : State) : Host.Outcome State Fault Refusal :=
  issue (.call o) s (fun s =>
    jumpTo s (s.crew.pc.zeroExtend 64 + (o.signExtend 64) <<< 2) (fun c => c.setSS 0 ((c.pc + 4).zeroExtend 64)))

/-- CALLR (R75): the target is read before the link is written. -/
def execCallr (d a : BitVec 8) (s : State) : Host.Outcome State Fault Refusal :=
  issue (.callr d a) s (fun s =>
    jumpTo s (s.crew.getSS a.toNat) (fun c => c.setSS d.toNat ((c.pc + 4).zeroExtend 64)))

/-- RET (R75). -/
def execRet (a : BitVec 8) (s : State) : Host.Outcome State Fault Refusal :=
  issue (.ret a) s (fun s => jumpTo s (s.crew.getSS a.toNat) id)

/-- JMPR (R75). -/
def execJmpr (a : BitVec 8) (s : State) : Host.Outcome State Fault Refusal :=
  issue (.jmpr a) s (fun s => jumpTo s (s.crew.getSS a.toNat) id)

/-! ## Divergence -/

/-- RCSET (R78): arms barrier d with the current path's lanes. -/
def execRcset (d : BitVec 3) (i : BitVec 16) (s : State) : Host.Outcome State Fault Refusal :=
  issueCrew (.rcset d i) s (fun c => c.setBar d.toNat ⟨c.am, 0, relTarget c.pc i⟩)

/-- BRDIV (R79): splits the path on p[a]; the taken lanes run first. -/
def execBrdiv (d : BitVec 3) (i : BitVec 16) (s : State) : Host.Outcome State Fault Refusal :=
  issue (.brdiv d i) s (fun s =>
    let c := s.crew
    let target := relTarget c.pc i
    let taken := c.am &&& c.pred d.toNat
    if taken = c.am then .jump s target
    else if taken = 0 then .done s
    else if 8 ≤ c.paths.length then .trap s 0x07 (target.zeroExtend 64)
    else .jump (s.setCrew { c with paths := (c.pc + 4, c.am &&& ~~~taken) :: c.paths, am := taken }) target)

/-- RCWAIT (R80): the path arrives at barrier a; the last arrival resumes every live lane of its mask. -/
def execRcwait (a : BitVec 3) (s : State) : Host.Outcome State Fault Refusal :=
  issue (.rcwait a) s (fun s =>
    let c := s.crew
    let b := c.bar a.toNat
    if c.am &&& ~~~b.mask ≠ 0 ∨ b.mask &&& c.live = 0 then .trap s 0x06 (a.zeroExtend 64)
    else
      let arrived := b.arrived ||| c.am
      if b.mask &&& c.live &&& ~~~arrived = 0 then
        .jump (s.setCrew { (c.setBar a.toNat { b with arrived := 0 }) with am := b.mask &&& c.live }) b.resume
      else
        match c.paths with
        | (pc, m) :: rest =>
          .jump (s.setCrew { (c.setBar a.toNat { b with arrived := arrived }) with am := m, paths := rest }) pc
        | [] => .trap s 0x06 (a.zeroExtend 64))

end Sys2Proof.Machine
end

