-- ==== Sys2Proof/Machine/Lane.lean ====
section
/-! DEFINITION. Typed lane arithmetic instructions, opcodes 0x28 to 0x4F (R104 to R128). -/

namespace Sys2Proof.Machine


/-- ADD (R111): x + y. -/
def execAdd (d a b : BitVec 8) (s : State) : Host.Outcome State Fault Refusal :=
  issueCrew (.add d a b) s (fun c => c.arith2 d.toNat a.toNat b.toNat (fun x y => x + y) (fun n x y => sumVals n [x, y]))

/-- SUB (R111): x − y. -/
def execSub (d a b : BitVec 8) (s : State) : Host.Outcome State Fault Refusal :=
  issueCrew (.sub d a b) s (fun c => c.arith2 d.toNat a.toNat b.toNat (fun x y => x - y) (fun n x y => sumVals n [x, y.neg]))

/-- MUL (R111): x × y. -/
def execMul (d a b : BitVec 8) (s : State) : Host.Outcome State Fault Refusal :=
  issueCrew (.mul d a b) s (fun c => c.arith2 d.toNat a.toNat b.toNat (fun x y => x * y) (fun _ x y => x.mul y))

/-- MULHI (R112): the high w bits of the exact product. -/
def execMulhi (d a b : BitVec 8) (s : State) : Host.Outcome State Fault Refusal :=
  issueCrew (.mulhi d a b) s (fun c => c.int2 d.toNat a.toNat b.toNat (fun t _ x y => lowBits t.width (x * y / 2 ^ t.width)))

/-- FMA (R111): x × y + z, rounded once. -/
def execFma (d a b : BitVec 8) (s : State) : Host.Outcome State Fault Refusal :=
  issueCrew (.fma d a b) s (fun c => c.arith3 d.toNat a.toNat b.toNat (fun x y z => x * y + z) (fun n x y z => sumVals n [x.mul y, z]))

/-- FMS (R111): x × y − z, rounded once. -/
def execFms (d a b : BitVec 8) (s : State) : Host.Outcome State Fault Refusal :=
  issueCrew (.fms d a b) s (fun c => c.arith3 d.toNat a.toNat b.toNat (fun x y z => x * y - z) (fun n x y z => sumVals n [x.mul y, z.neg]))

/-- FNMA (R111): z − x × y, rounded once. -/
def execFnma (d a b : BitVec 8) (s : State) : Host.Outcome State Fault Refusal :=
  issueCrew (.fnma d a b) s (fun c => c.arith3 d.toNat a.toNat b.toNat (fun x y z => z - x * y) (fun n x y z => sumVals n [z, (x.mul y).neg]))

/-- MIN (R114): the smaller of x and y; −0 below +0, a single NaN ignored. -/
def execMin (d a b : BitVec 8) (s : State) : Host.Outcome State Fault Refusal :=
  issueCrew (.min d a b) s (fun c => c.arith2 d.toNat a.toNat b.toNat (fun x y => if y < x then y else x) (fun _ x y => x.min y))

/-- MAX (R114): the larger of x and y. -/
def execMax (d a b : BitVec 8) (s : State) : Host.Outcome State Fault Refusal :=
  issueCrew (.max d a b) s (fun c => c.arith2 d.toNat a.toNat b.toNat (fun x y => if x < y then y else x) (fun _ x y => x.max y))

/-- ABS (R115): |x|; the float form clears the sign. -/
def execAbs (d a : BitVec 8) (s : State) : Host.Outcome State Fault Refusal :=
  issueCrew (.abs d a) s (fun c => c.arith1 d.toNat a.toNat (fun x => if x < 0 then -x else x) Val.abs)

/-- NEG (R115): −x; the float form inverts the sign. -/
def execNeg (d a : BitVec 8) (s : State) : Host.Outcome State Fault Refusal :=
  issueCrew (.neg d a) s (fun c => c.arith1 d.toNat a.toNat (fun x => -x) Val.neg)

/-- CMPEQ (R117): x = y; 0 with a NaN operand. -/
def execCmpeq (d : BitVec 3) (a b : BitVec 8) (s : State) : Host.Outcome State Fault Refusal :=
  issueCrew (.cmpeq d a b) s (fun c => c.compare d.toNat a.toNat b.toNat (fun x y => decide (x = y)) Val.eqv false)

/-- CMPNE (R117): x ≠ y; 1 with a NaN operand. -/
def execCmpne (d : BitVec 3) (a b : BitVec 8) (s : State) : Host.Outcome State Fault Refusal :=
  issueCrew (.cmpne d a b) s (fun c => c.compare d.toNat a.toNat b.toNat (fun x y => decide (x ≠ y)) (fun x y => !(x.eqv y)) true)

/-- CMPLT (R117): x < y; 0 with a NaN operand. -/
def execCmplt (d : BitVec 3) (a b : BitVec 8) (s : State) : Host.Outcome State Fault Refusal :=
  issueCrew (.cmplt d a b) s (fun c => c.compare d.toNat a.toNat b.toNat (fun x y => decide (x < y)) Val.lt false)

/-- CMPLE (R117): x ≤ y; 0 with a NaN operand. -/
def execCmple (d : BitVec 3) (a b : BitVec 8) (s : State) : Host.Outcome State Fault Refusal :=
  issueCrew (.cmple d a b) s (fun c => c.compare d.toNat a.toNat b.toNat (fun x y => decide (x ≤ y)) (fun x y => x.lt y || x.eqv y) false)

/-- CMPUN (R117): x or y is NaN. -/
def execCmpun (d : BitVec 3) (a b : BitVec 8) (s : State) : Host.Outcome State Fault Refusal :=
  issueCrew (.cmpun d a b) s (fun c => c.compare d.toNat a.toNat b.toNat (fun _ _ => false) (fun _ _ => false) true)

/-- SEL (R118): the guard selects v[a] or v[b] in each lane of AM. -/
def execSel (d a b : BitVec 8) (s : State) : Host.Outcome State Fault Refusal :=
  issueCrew (.sel d a b) s (fun c => c.copyLoop c.am d.toNat (fun l => if c.guard.getLsbD l then c.whole a.toNat l else c.whole b.toNat l))

/-- ADDI (R113): x + sext(imm8, 8), for signed and unsigned types. -/
def execAddi (d a i : BitVec 8) (s : State) : Host.Outcome State Fault Refusal :=
  issueCrew (.addi d a i) s (fun c =>
    c.arith1 d.toNat a.toNat (fun x => x + i.toInt) id)

/-- What MOVI writes for a type code (R120): the sign-extended value, or the 16-bit pattern twice. -/
def moviBits (t : Nat) (i : BitVec 16) : Nat :=
  if t < 3 ∨ t = 12 ∨ t = 13 then (i.signExtend 64).toNat else i.toNat * 0x00010001

/-- MOVI (R120): a constant in each active lane, by MODE.type. -/
def execMovi (d : BitVec 8) (i : BitVec 16) (s : State) : Host.Outcome State Fault Refusal :=
  issueCrew (.movi d i) s (fun c => c.copyLoop c.active d.toNat (fun _ => moviBits (modeType c.mode) i))

/-- MOVHI (R120): the high half of v[d]; untyped, keeping the low half. -/
def execMovhi (d : BitVec 8) (i : BitVec 16) (s : State) : Host.Outcome State Fault Refusal :=
  issueCrew (.movhi d i) s (fun c =>
    c.setLanes d.toNat 1 c.active (fun l => i.toNat * 65536 + (c.getV d.toNat l).toNat % 65536))

/-- MOV (R119): copies the bits of v[a], or of the pair. -/
def execMov (d a : BitVec 8) (s : State) : Host.Outcome State Fault Refusal :=
  issueCrew (.mov d a) s (fun c => c.copyLoop c.active d.toNat (fun l => c.whole a.toNat l))

/-- The quotient of integer DIV (Table 5.4): all ones for a zero divisor. -/
def intDiv (t : IntFmt) (sat : Bool) (x y : Int) : Nat :=
  if y = 0 then 2 ^ t.width - 1 else fitInt t sat (x.tdiv y)

/-- DIV (R116): truncated integer division, or the correctly rounded float quotient. -/
def execDiv (d a b : BitVec 8) (s : State) : Host.Outcome State Fault Refusal :=
  issueCrew (.div d a b) s (fun c =>
    if c.isFloat then c.arith2 d.toNat a.toNat b.toNat (fun x _ => x) (fun _ x y => x.div y)
    else c.int2 d.toNat a.toNat b.toNat intDiv)

/-- REM (R116): the remainder with the sign of the dividend; x for a zero divisor. -/
def execRem (d a b : BitVec 8) (s : State) : Host.Outcome State Fault Refusal :=
  issueCrew (.rem d a b) s (fun c =>
    c.int2 d.toNat a.toNat b.toNat (fun t _ x y => lowBits t.width (if y = 0 then x else x.tmod y)))

/-- RCP (R122): 1 ÷ x, correctly rounded. -/
def execRcp (d a : BitVec 8) (s : State) : Host.Outcome State Fault Refusal :=
  issueCrew (.rcp d a) s (fun c => c.float1 d.toNat a.toNat true (fun f r x => rndFloat f r ((Val.num false 1 1).div (f.read r.ftz x))))

/-- RSQ (R123, R124): 1 ÷ √x within the bound. -/
def execRsq (d a : BitVec 8) (s : State) : Host.Outcome State Fault Refusal :=
  issueCrew (.rsq d a) s (fun c => c.float1 d.toNat a.toNat true (fun f r x => approxResult .rsq f (modeType c.mode) r x))

/-- SQRT (R122): √x, correctly rounded. -/
def execSqrt (d a : BitVec 8) (s : State) : Host.Outcome State Fault Refusal :=
  issueCrew (.sqrt d a) s (fun c => c.float1 d.toNat a.toNat true (fun f r x => rndFloat f r (f.read r.ftz x).sqrt))

/-- EXP2 (R123, R124): 2^x within the bound. -/
def execExp2 (d a : BitVec 8) (s : State) : Host.Outcome State Fault Refusal :=
  issueCrew (.exp2 d a) s (fun c => c.float1 d.toNat a.toNat true (fun f r x => approxResult .exp2 f (modeType c.mode) r x))

/-- LOG2 (R123, R124): log2 x within the bound. -/
def execLog2 (d a : BitVec 8) (s : State) : Host.Outcome State Fault Refusal :=
  issueCrew (.log2 d a) s (fun c => c.float1 d.toNat a.toNat true (fun f r x => approxResult .log2 f (modeType c.mode) r x))

/-- SINPI (R123, R124): sin(πx) within the bound. -/
def execSinpi (d a : BitVec 8) (s : State) : Host.Outcome State Fault Refusal :=
  issueCrew (.sinpi d a) s (fun c => c.float1 d.toNat a.toNat true (fun f r x => approxResult .sinpi f (modeType c.mode) r x))

/-- COSPI (R123, R124): cos(πx) within the bound. -/
def execCospi (d a : BitVec 8) (s : State) : Host.Outcome State Fault Refusal :=
  issueCrew (.cospi d a) s (fun c => c.float1 d.toNat a.toNat true (fun f r x => approxResult .cospi f (modeType c.mode) r x))

/-- DOT2 (R121): z + x0y0 + x1y1, written once. -/
def execDot2 (d a b : BitVec 8) (s : State) : Host.Outcome State Fault Refusal :=
  issueCrew (.dot2 d a b) s (fun c => c.dot d.toNat a.toNat b.toNat 2)

/-- DOT4 (R121): z + the four products, written once. -/
def execDot4 (d a b : BitVec 8) (s : State) : Host.Outcome State Fault Refusal :=
  issueCrew (.dot4 d a b) s (fun c => c.dot d.toNat a.toNat b.toNat 4)

/-- FLOOR (R125): rounds to an integral value toward −infinity. -/
def execFloor (d a : BitVec 8) (s : State) : Host.Outcome State Fault Refusal :=
  issueCrew (.floor d a) s (fun c => c.float1 d.toNat a.toNat false (fun f r x =>
    writeExact f r (roundIntegral { r with code := 2 } (f.read r.ftz x))))

/-- CEIL (R125): rounds to an integral value toward +infinity. -/
def execCeil (d a : BitVec 8) (s : State) : Host.Outcome State Fault Refusal :=
  issueCrew (.ceil d a) s (fun c => c.float1 d.toNat a.toNat false (fun f r x =>
    writeExact f r (roundIntegral { r with code := 3 } (f.read r.ftz x))))

/-- TRUNC (R125): rounds to an integral value toward zero. -/
def execTrunc (d a : BitVec 8) (s : State) : Host.Outcome State Fault Refusal :=
  issueCrew (.trunc d a) s (fun c => c.float1 d.toNat a.toNat false (fun f r x =>
    writeExact f r (roundIntegral { r with code := 1 } (f.read r.ftz x))))

/-- RINT (R125): rounds to an integral value by MODE.rnd. -/
def execRint (d a : BitVec 8) (s : State) : Host.Outcome State Fault Refusal :=
  issueCrew (.rint d a) s (fun c => c.float1 d.toNat a.toNat true (fun f r x => writeExact f r (roundIntegral r (f.read r.ftz x))))

/-- FCLASS (R126): the class mask of the encoding, ignoring ftz. -/
def execFclass (d a : BitVec 8) (s : State) : Host.Outcome State Fault Refusal :=
  issueCrew (.fclass d a) s (fun c => c.float1 d.toNat a.toNat false (fun f _ x => classMask f x))

/-- SCALEB (R127): x × 2^k, with k the element of v[b] read as a signed integer of the element's width. -/
def execScaleb (d a b : BitVec 8) (s : State) : Host.Outcome State Fault Refusal :=
  issueCrew (.scaleb d a b) s (fun c =>
    c.typeLoop d.toNat true (fun l i r =>
      match elemKind (modeType c.mode) with
      | .flt f => rndFloat f r (scaleVal (f.read r.ftz (c.elem a.toNat l i)) (signedOf f.width (c.elem b.toNat l i)))
      | .int _ => 0))

/-- COPYSIGN (R128): the magnitude of x with the sign bit of y. -/
def execCopysign (d a b : BitVec 8) (s : State) : Host.Outcome State Fault Refusal :=
  issueCrew (.copysign d a b) s (fun c =>
    c.typeLoop d.toNat true (fun l i r =>
      match elemKind (modeType c.mode) with
      | .flt f =>
        let x := (f.read r.ftz (c.elem a.toNat l i)).abs
        writeExact f r (if f.signBit ≤ c.elem b.toNat l i then x.neg else x)
      | .int _ => 0))

/-- ABSDIFF (R111): |x − y|; a difference of zero is written as +0 under every rounding code (log 61). -/
def execAbsdiff (d a b : BitVec 8) (s : State) : Host.Outcome State Fault Refusal :=
  issueCrew (.absdiff d a b) s (fun c => c.arith2 d.toNat a.toNat b.toNat (fun x y => if x < y then y - x else x - y) (fun n x y => (sumVals n [x, y.neg]).abs))

end Sys2Proof.Machine
end

