-- ==== Sys2Proof/Machine/Dispatch.lean ====
section
/-! DEFINITION. The dispatch of an instruction to its meaning: one arm per constructor. -/

namespace Sys2Proof.Machine

/-- What instruction `i` does in state `s`. -/
def exec (i : Instr) (s : State) : Host.Outcome State Fault Refusal :=
  match i with
  | .nop => Sys2Proof.Machine.execNop s
  | .setm f v => Sys2Proof.Machine.execSetm f v s
  | .setmx f v => Sys2Proof.Machine.execSetmx f v s
  | .bra o => Sys2Proof.Machine.execBra o s
  | .brnz d im => Sys2Proof.Machine.execBrnz d im s
  | .brz d im => Sys2Proof.Machine.execBrz d im s
  | .brany d im => Sys2Proof.Machine.execBrany d im s
  | .brall d im => Sys2Proof.Machine.execBrall d im s
  | .brdiv d im => Sys2Proof.Machine.execBrdiv d im s
  | .rcset d im => Sys2Proof.Machine.execRcset d im s
  | .rcwait a => Sys2Proof.Machine.execRcwait a s
  | .call o => Sys2Proof.Machine.execCall o s
  | .callr d a => Sys2Proof.Machine.execCallr d a s
  | .ret a => Sys2Proof.Machine.execRet a s
  | .jmpr a => Sys2Proof.Machine.execJmpr a s
  | .exit => Sys2Proof.Machine.execExit s
  | .smovi d im => Sys2Proof.Machine.execSmovi d im s
  | .smovhi d im => Sys2Proof.Machine.execSmovhi d im s
  | .saddi d im => Sys2Proof.Machine.execSaddi d im s
  | .spchi d im => Sys2Proof.Machine.execSpchi d im s
  | .sadd d a b => Sys2Proof.Machine.execSadd d a b s
  | .ssub d a b => Sys2Proof.Machine.execSsub d a b s
  | .smul d a b => Sys2Proof.Machine.execSmul d a b s
  | .sand d a b => Sys2Proof.Machine.execSand d a b s
  | .sor d a b => Sys2Proof.Machine.execSor d a b s
  | .sxor d a b => Sys2Proof.Machine.execSxor d a b s
  | .sshl d a b => Sys2Proof.Machine.execSshl d a b s
  | .sshr d a b => Sys2Proof.Machine.execSshr d a b s
  | .ssra d a b => Sys2Proof.Machine.execSsra d a b s
  | .sslt d a b => Sys2Proof.Machine.execSslt d a b s
  | .ssltn d a b => Sys2Proof.Machine.execSsltn d a b s
  | .sseq d a b => Sys2Proof.Machine.execSseq d a b s
  | .sadd64 d a b => Sys2Proof.Machine.execSadd64 d a b s
  | .smin d a b => Sys2Proof.Machine.execSmin d a b s
  | .smax d a b => Sys2Proof.Machine.execSmax d a b s
  | .plog d a f b => Sys2Proof.Machine.execPlog d a f b s
  | .pcount d a => Sys2Proof.Machine.execPcount d a s
  | .ptos d a => Sys2Proof.Machine.execPtos d a s
  | .sfromp d a => Sys2Proof.Machine.execSfromp d a s
  | .getm d => Sys2Proof.Machine.execGetm d s
  | .add d a b => Sys2Proof.Machine.execAdd d a b s
  | .sub d a b => Sys2Proof.Machine.execSub d a b s
  | .mul d a b => Sys2Proof.Machine.execMul d a b s
  | .mulhi d a b => Sys2Proof.Machine.execMulhi d a b s
  | .fma d a b => Sys2Proof.Machine.execFma d a b s
  | .fms d a b => Sys2Proof.Machine.execFms d a b s
  | .fnma d a b => Sys2Proof.Machine.execFnma d a b s
  | .min d a b => Sys2Proof.Machine.execMin d a b s
  | .max d a b => Sys2Proof.Machine.execMax d a b s
  | .abs d a => Sys2Proof.Machine.execAbs d a s
  | .neg d a => Sys2Proof.Machine.execNeg d a s
  | .cmpeq d a b => Sys2Proof.Machine.execCmpeq d a b s
  | .cmpne d a b => Sys2Proof.Machine.execCmpne d a b s
  | .cmplt d a b => Sys2Proof.Machine.execCmplt d a b s
  | .cmple d a b => Sys2Proof.Machine.execCmple d a b s
  | .cmpun d a b => Sys2Proof.Machine.execCmpun d a b s
  | .sel d a b => Sys2Proof.Machine.execSel d a b s
  | .addi d a im => Sys2Proof.Machine.execAddi d a im s
  | .movi d im => Sys2Proof.Machine.execMovi d im s
  | .movhi d im => Sys2Proof.Machine.execMovhi d im s
  | .mov d a => Sys2Proof.Machine.execMov d a s
  | .div d a b => Sys2Proof.Machine.execDiv d a b s
  | .rem d a b => Sys2Proof.Machine.execRem d a b s
  | .rcp d a => Sys2Proof.Machine.execRcp d a s
  | .rsq d a => Sys2Proof.Machine.execRsq d a s
  | .sqrt d a => Sys2Proof.Machine.execSqrt d a s
  | .exp2 d a => Sys2Proof.Machine.execExp2 d a s
  | .log2 d a => Sys2Proof.Machine.execLog2 d a s
  | .sinpi d a => Sys2Proof.Machine.execSinpi d a s
  | .cospi d a => Sys2Proof.Machine.execCospi d a s
  | .dot2 d a b => Sys2Proof.Machine.execDot2 d a b s
  | .dot4 d a b => Sys2Proof.Machine.execDot4 d a b s
  | .floor d a => Sys2Proof.Machine.execFloor d a s
  | .ceil d a => Sys2Proof.Machine.execCeil d a s
  | .trunc d a => Sys2Proof.Machine.execTrunc d a s
  | .rint d a => Sys2Proof.Machine.execRint d a s
  | .fclass d a => Sys2Proof.Machine.execFclass d a s
  | .scaleb d a b => Sys2Proof.Machine.execScaleb d a b s
  | .copysign d a b => Sys2Proof.Machine.execCopysign d a b s
  | .absdiff d a b => Sys2Proof.Machine.execAbsdiff d a b s
  | .cvt d a => Sys2Proof.Machine.execCvt d a s
  | .cvtp d a b => Sys2Proof.Machine.execCvtp d a b s
  | .cvtq d a => Sys2Proof.Machine.execCvtq d a s
  | .unpklo d a => Sys2Proof.Machine.execUnpklo d a s
  | .unpkhi d a => Sys2Proof.Machine.execUnpkhi d a s
  | .seedUniform a => Sys2Proof.Machine.execSeedUniform a s
  | .seedPerLane a => Sys2Proof.Machine.execSeedPerLane a s
  | .cvtsc d a b => Sys2Proof.Machine.execCvtsc d a b s
  | .and d a b => Sys2Proof.Machine.execAnd d a b s
  | .or d a b => Sys2Proof.Machine.execOr d a b s
  | .xor d a b => Sys2Proof.Machine.execXor d a b s
  | .not d a => Sys2Proof.Machine.execNot d a s
  | .shl d a b => Sys2Proof.Machine.execShl d a b s
  | .shr d a b => Sys2Proof.Machine.execShr d a b s
  | .sra d a b => Sys2Proof.Machine.execSra d a b s
  | .rotl d a b => Sys2Proof.Machine.execRotl d a b s
  | .bfx d a b => Sys2Proof.Machine.execBfx d a b s
  | .bfi d a b => Sys2Proof.Machine.execBfi d a b s
  | .popc d a => Sys2Proof.Machine.execPopc d a s
  | .clz d a => Sys2Proof.Machine.execClz d a s
  | .brev d a => Sys2Proof.Machine.execBrev d a s
  | .ballot d a im => Sys2Proof.Machine.execBallot d a im s
  | .shuf d a b => Sys2Proof.Machine.execShuf d a b s
  | .shufx d a im => Sys2Proof.Machine.execShufx d a im s
  | .lrot d a im => Sys2Proof.Machine.execLrot d a im s
  | .bcast d a im => Sys2Proof.Machine.execBcast d a im s
  | .vget d a im => Sys2Proof.Machine.execVget d a im s
  | .vset d a im => Sys2Proof.Machine.execVset d a im s
  | .redadd d a => Sys2Proof.Machine.execRedadd d a s
  | .redmin d a => Sys2Proof.Machine.execRedmin d a s
  | .redmax d a => Sys2Proof.Machine.execRedmax d a s
  | .laneid d => Sys2Proof.Machine.execLaneid d s
  | .ldb d a im => Sys2Proof.Machine.execLdb d a im s
  | .ldh d a im => Sys2Proof.Machine.execLdh d a im s
  | .ldw d a im => Sys2Proof.Machine.execLdw d a im s
  | .ldd d a im => Sys2Proof.Machine.execLdd d a im s
  | .ldq d a im => Sys2Proof.Machine.execLdq d a im s
  | .stb d a im => Sys2Proof.Machine.execStb d a im s
  | .sth d a im => Sys2Proof.Machine.execSth d a im s
  | .stw d a im => Sys2Proof.Machine.execStw d a im s
  | .std d a im => Sys2Proof.Machine.execStd d a im s
  | .stq d a im => Sys2Proof.Machine.execStq d a im s
  | .ldx d a b => Sys2Proof.Machine.execLdx d a b s
  | .stx d a b => Sys2Proof.Machine.execStx d a b s
  | .sld d a im => Sys2Proof.Machine.execSld d a im s
  | .sld64 d a im => Sys2Proof.Machine.execSld64 d a im s
  | .sst d a im => Sys2Proof.Machine.execSst d a im s
  | .sst64 d a im => Sys2Proof.Machine.execSst64 d a im s
  | .pref d a im => Sys2Proof.Machine.execPref d a im s
  | .l2pin d a b => Sys2Proof.Machine.execL2pin d a b s
  | .l2unpin a => Sys2Proof.Machine.execL2unpin a s
  | .pagehintPrefer a b => Sys2Proof.Machine.execPagehintPrefer a b s
  | .pagehintMigrate a b => Sys2Proof.Machine.execPagehintMigrate a b s
  | .pagehintClear a b => Sys2Proof.Machine.execPagehintClear a b s
  | .probe d a => Sys2Proof.Machine.execProbe d a s
  | .poolmap d a b => Sys2Proof.Machine.execPoolmap d a b s
  | .poolunmap a => Sys2Proof.Machine.execPoolunmap a s
  | .fence k sc => Sys2Proof.Machine.execFence k sc s
  | .ldacq d a im => Sys2Proof.Machine.execLdacq d a im s
  | .strel d a im => Sys2Proof.Machine.execStrel d a im s
  | .aadd d a b => Sys2Proof.Machine.execAadd d a b s
  | .amin d a b => Sys2Proof.Machine.execAmin d a b s
  | .amax d a b => Sys2Proof.Machine.execAmax d a b s
  | .aand d a b => Sys2Proof.Machine.execAand d a b s
  | .aor d a b => Sys2Proof.Machine.execAor d a b s
  | .axor d a b => Sys2Proof.Machine.execAxor d a b s
  | .axchg d a b => Sys2Proof.Machine.execAxchg d a b s
  | .acas d a b => Sys2Proof.Machine.execAcas d a b s
  | .ainc d a b => Sys2Proof.Machine.execAinc d a b s
  | .adec d a b => Sys2Proof.Machine.execAdec d a b s
  | .await d a b => Sys2Proof.Machine.execAwait d a b s
  | .fencej k sc => Sys2Proof.Machine.execFencej k sc s
  | .waitc l sc c t => Sys2Proof.Machine.execWaitc l sc c t s
  | .copy d a => Sys2Proof.Machine.execCopy d a s
  | .copyr d a b => Sys2Proof.Machine.execCopyr d a b s
  | .strm d a => Sys2Proof.Machine.execStrm d a s
  | .pop d q => Sys2Proof.Machine.execPop d q s
  | .strmbar a b => Sys2Proof.Machine.execStrmbar a b s
  | .jobq d a => Sys2Proof.Machine.execJobq d a s
  | .jobcan a => Sys2Proof.Machine.execJobcan a s
  | .mload d a m => Sys2Proof.Machine.execMload d a m s
  | .mma d a t m => Sys2Proof.Machine.execMma d a t m s
  | .mzero t => Sys2Proof.Machine.execMzero t s
  | .mstore t a f => Sys2Proof.Machine.execMstore t a f s
  | .mread d t c => Sys2Proof.Machine.execMread d t c s
  | .mflags d t => Sys2Proof.Machine.execMflags d t s
  | .mtsc a b => Sys2Proof.Machine.execMtsc a b s
  | .gbind d a => Sys2Proof.Machine.execGbind d a s
  | .grun d a => Sys2Proof.Machine.execGrun d a s
  | .gstat d a sc => Sys2Proof.Machine.execGstat d a sc s
  | .spent d a b => Sys2Proof.Machine.execSpent d a b s
  | .spexit d => Sys2Proof.Machine.execSpexit d s
  | .spwait d a => Sys2Proof.Machine.execSpwait d a s
  | .ecw a b => Sys2Proof.Machine.execEcw a b s
  | .tmark d => Sys2Proof.Machine.execTmark d s
  | .spinj a b => Sys2Proof.Machine.execSpinj a b s
  | .sptake d => Sys2Proof.Machine.execSptake d s
  | .spstopEnd => Sys2Proof.Machine.execSpstopEnd s
  | .spstopHold => Sys2Proof.Machine.execSpstopHold s
  | .spstopQuiet => Sys2Proof.Machine.execSpstopQuiet s
  | .spstopRelease => Sys2Proof.Machine.execSpstopRelease s
  | .spstat d a sc => Sys2Proof.Machine.execSpstat d a sc s
  | .sprcfg d a => Sys2Proof.Machine.execSprcfg d a s
  | .launch d a => Sys2Proof.Machine.execLaunch d a s
  | .phendNone c => Sys2Proof.Machine.execPhendNone c s
  | .phendBar c b => Sys2Proof.Machine.execPhendBar c b s
  | .phendQueue c l p => Sys2Proof.Machine.execPhendQueue c l p s
  | .phendWord c p => Sys2Proof.Machine.execPhendWord c p s
  | .bararr a => Sys2Proof.Machine.execBararr a s
  | .bufget d a => Sys2Proof.Machine.execBufget d a s
  | .bufpass a b => Sys2Proof.Machine.execBufpass a b s
  | .bufdrop a => Sys2Proof.Machine.execBufdrop a s
  | .bufaddr d a => Sys2Proof.Machine.execBufaddr d a s
  | .enq d a l w r => Sys2Proof.Machine.execEnq d a l w r s
  | .deq d a l q => Sys2Proof.Machine.execDeq d a l q s
  | .qinit a l => Sys2Proof.Machine.execQinit a l s
  | .qlen d a l => Sys2Proof.Machine.execQlen d a l s
  | .sweep d a l => Sys2Proof.Machine.execSweep d a l s
  | .estim a => Sys2Proof.Machine.execEstim a s
  | .widrd d => Sys2Proof.Machine.execWidrd d s
  | .widfld d k => Sys2Proof.Machine.execWidfld d k s
  | .qfence => Sys2Proof.Machine.execQfence s
  | .cpinit d a => Sys2Proof.Machine.execCpinit d a s
  | .sprout d a b => Sys2Proof.Machine.execSprout d a b s
  | .reward a c => Sys2Proof.Machine.execReward a c s
  | .cut d a b => Sys2Proof.Machine.execCut d a b s
  | .cpstat d a sc => Sys2Proof.Machine.execCpstat d a sc s
  | .cpadv d => Sys2Proof.Machine.execCpadv d s
  | .raftform d a => Sys2Proof.Machine.execRaftform d a s
  | .raftre d a b => Sys2Proof.Machine.execRaftre d a b s
  | .car d a => Sys2Proof.Machine.execCar d a s
  | .cag d a => Sys2Proof.Machine.execCag d a s
  | .crs d a => Sys2Proof.Machine.execCrs d a s
  | .cbc d a => Sys2Proof.Machine.execCbc d a s
  | .ca2a d a => Sys2Proof.Machine.execCa2a d a s
  | .cbar d a => Sys2Proof.Machine.execCbar d a s
  | .cstat d a sc => Sys2Proof.Machine.execCstat d a sc s
  | .cabort a => Sys2Proof.Machine.execCabort a s
  | .rput d a b => Sys2Proof.Machine.execRput d a b s
  | .rget d a b => Sys2Proof.Machine.execRget d a b s
  | .trap im => Sys2Proof.Machine.execTrap im s
  | .trapret => Sys2Proof.Machine.execTrapret s
  | .sread d im => Sys2Proof.Machine.execSread d im s
  | .swrite d im => Sys2Proof.Machine.execSwrite d im s
  | .brk im => Sys2Proof.Machine.execBrk im s
  | .mark d im => Sys2Proof.Machine.execMark d im s
  | .trcarm d a b => Sys2Proof.Machine.execTrcarm d a b s
  | .cntrd d k => Sys2Proof.Machine.execCntrd d k s
  | .cntcfg k b => Sys2Proof.Machine.execCntcfg k b s
  | .halt => Sys2Proof.Machine.execHalt s
  | .clock d => Sys2Proof.Machine.execClock d s
  | .tlbi d a b => Sys2Proof.Machine.execTlbi d a b s
  | .ctxsv d a b => Sys2Proof.Machine.execCtxsv d a b s
  | .ctxrs d a b => Sys2Proof.Machine.execCtxrs d a b s
  | .undef u => Sys2Proof.Machine.execUndef u s
  | .reservedOpcode w => Sys2Proof.Machine.execReservedOpcode w s
  | .opPass a b g r k t => Sys2Proof.Machine.execOpPass a b g r k t s
  | .opCopy a b => Sys2Proof.Machine.execOpCopy a b s
  | .opSel a b => Sys2Proof.Machine.execOpSel a b s
  | .opSteer a b => Sys2Proof.Machine.execOpSteer a b s
  | .opMerge a b g => Sys2Proof.Machine.execOpMerge a b g s
  | .opAdd a b x g r k t => Sys2Proof.Machine.execOpAdd a b x g r k t s
  | .opSub a b x g r k t => Sys2Proof.Machine.execOpSub a b x g r k t s
  | .opMul a b x g r k t => Sys2Proof.Machine.execOpMul a b x g r k t s
  | .opFma a b y g r k t => Sys2Proof.Machine.execOpFma a b y g r k t s
  | .opMin a b x g r k t => Sys2Proof.Machine.execOpMin a b x g r k t s
  | .opMax a b x g r k t => Sys2Proof.Machine.execOpMax a b x g r k t s
  | .opCmpeq a b g r k t => Sys2Proof.Machine.execOpCmpeq a b g r k t s
  | .opCmpne a b g r k t => Sys2Proof.Machine.execOpCmpne a b g r k t s
  | .opCmplt a b g r k t => Sys2Proof.Machine.execOpCmplt a b g r k t s
  | .opCmple a b g r k t => Sys2Proof.Machine.execOpCmple a b g r k t s
  | .opAnd a b g r k t => Sys2Proof.Machine.execOpAnd a b g r k t s
  | .opOr a b g r k t => Sys2Proof.Machine.execOpOr a b g r k t s
  | .opXor a b g r k t => Sys2Proof.Machine.execOpXor a b g r k t s
  | .opShl a b g r k t => Sys2Proof.Machine.execOpShl a b g r k t s
  | .opShr a b g r k t => Sys2Proof.Machine.execOpShr a b g r k t s
  | .opDot4 a b x g r k t => Sys2Proof.Machine.execOpDot4 a b x g r k t s
  | .opCvt a b x r t => Sys2Proof.Machine.execOpCvt a b x r t s
  | .opRate a b => Sys2Proof.Machine.execOpRate a b s
  | .opScalemul a b k t => Sys2Proof.Machine.execOpScalemul a b k t s
  | .opLoopgen a b r k t => Sys2Proof.Machine.execOpLoopgen a b r k t s
  | .opCount a b r k t => Sys2Proof.Machine.execOpCount a b r k t s
  | .opAcc a b r k t => Sys2Proof.Machine.execOpAcc a b r k t s
  | .opSrc a b => Sys2Proof.Machine.execOpSrc a b s
  | .opSnk => Sys2Proof.Machine.execOpSnk s
  | .opMemld a b => Sys2Proof.Machine.execOpMemld a b s
  | .opMemst => Sys2Proof.Machine.execOpMemst s
  | .opExitx => Sys2Proof.Machine.execOpExitx s
  | .opInj a b => Sys2Proof.Machine.execOpInj a b s
  | .opTgate a b => Sys2Proof.Machine.execOpTgate a b s
  | .opEdgetx t c => Sys2Proof.Machine.execOpEdgetx t c s
  | .opEdgerx a b t c => Sys2Proof.Machine.execOpEdgerx a b t c s
  | .loadComplete core slot entry lanes => Sys2Proof.Machine.execLoadComplete core slot entry lanes s
  | .storeComplete core slot entry lanes => Sys2Proof.Machine.execStoreComplete core slot entry lanes s
  | .replay core slot => Sys2Proof.Machine.execReplay core slot s
  | .landingPagerServe die entry => Sys2Proof.Machine.execLandingPagerServe die entry s
  | .pageridle die => Sys2Proof.Machine.execPageridle die s
  | .faulttmo die entry => Sys2Proof.Machine.execFaulttmo die entry s
  | .migration ctx va page => Sys2Proof.Machine.execMigration ctx va page s
  | .pendingNotificationPost page => Sys2Proof.Machine.execPendingNotificationPost page s
  | .fabtmo core slot young va => Sys2Proof.Machine.execFabtmo core slot young va s
  | .activeSetSwap core slot => Sys2Proof.Machine.execActiveSetSwap core slot s
  | .awaitWake core slot => Sys2Proof.Machine.execAwaitWake core slot s
  | .awaitDeadline core slot => Sys2Proof.Machine.execAwaitDeadline core slot s
  | .jobStart core job => Sys2Proof.Machine.execJobStart core job s
  | .copyChunk core job => Sys2Proof.Machine.execCopyChunk core job s
  | .streamEntry core job read elem => Sys2Proof.Machine.execStreamEntry core job read elem s
  | .mloadRow core job => Sys2Proof.Machine.execMloadRow core job s
  | .grunRow core job => Sys2Proof.Machine.execGrunRow core job s
  | .jobComplete core job => Sys2Proof.Machine.execJobComplete core job s
  | .mmaBroadcast core entry => Sys2Proof.Machine.execMmaBroadcast core entry s
  | .macroError core mac => Sys2Proof.Machine.execMacroError core mac s
  | .tileCellError core tile cell => Sys2Proof.Machine.execTileCellError core tile cell s
  | .spentCommit core slot bad => Sys2Proof.Machine.execSpentCommit core slot bad s
  | .spexitComplete core slot => Sys2Proof.Machine.execSpexitComplete core slot s
  | .regionCompletion core slot => Sys2Proof.Machine.execRegionCompletion core slot s
  | .spwaitDeadline core slot => Sys2Proof.Machine.execSpwaitDeadline core slot s
  | .drainEnd core slot => Sys2Proof.Machine.execDrainEnd core slot s
  | .watchdog core slot => Sys2Proof.Machine.execWatchdog core slot s
  | .saveStop core slot => Sys2Proof.Machine.execSaveStop core slot s
  | .debugHalt core => Sys2Proof.Machine.execDebugHalt core s
  | .haltRelease core slot => Sys2Proof.Machine.execHaltRelease core slot s
  | .configStoreError core fixed => Sys2Proof.Machine.execConfigStoreError core fixed s
  | .bind task places => Sys2Proof.Machine.execBind task places s
  | .nextPhaseReady task crew => Sys2Proof.Machine.execNextPhaseReady task crew s
  | .gangwait task slots => Sys2Proof.Machine.execGangwait task slots s
  | .gangtmo task => Sys2Proof.Machine.execGangtmo task s
  | .preemptionChoice newcomer victim slots => Sys2Proof.Machine.execPreemptionChoice newcomer victim slots s
  | .sweepTokenHop task => Sys2Proof.Machine.execSweepTokenHop task s
  | .fslice => Sys2Proof.Machine.execFslice s
  | .coppiceDeadline ctx va => Sys2Proof.Machine.execCoppiceDeadline ctx va s
  | .form ix => Sys2Proof.Machine.execForm ix s
  | .join ix => Sys2Proof.Machine.execJoin ix s
  | .contrib ix => Sys2Proof.Machine.execContrib ix s
  | .result ix => Sys2Proof.Machine.execResult ix s
  | .arrive ix => Sys2Proof.Machine.execArrive ix s
  | .abort ix => Sys2Proof.Machine.execAbort ix s
  | .remreq ix => Sys2Proof.Machine.execRemreq ix s
  | .remack ix => Sys2Proof.Machine.execRemack ix s
  | .collectiveTimeout core job => Sys2Proof.Machine.execCollectiveTimeout core job s
  | .raftformTimeout h k => Sys2Proof.Machine.execRaftformTimeout h k s
  | .raftJoinTimeout h k => Sys2Proof.Machine.execRaftJoinTimeout h k s
  | .remoteAccessTimeout core slot entry => Sys2Proof.Machine.execRemoteAccessTimeout core slot entry s
  | .linkRetryFailure port => Sys2Proof.Machine.execLinkRetryFailure port s
  | .portRetrainAttempt port ok => Sys2Proof.Machine.execPortRetrainAttempt port ok s
  | .foremanMemoryError ring => Sys2Proof.Machine.execForemanMemoryError ring s
  | .foremanWatchdog ring => Sys2Proof.Machine.execForemanWatchdog ring s
  | .syncPlaneLoss ring => Sys2Proof.Machine.execSyncPlaneLoss ring s
  | .thermalTrip => Sys2Proof.Machine.execThermalTrip s
  | .freezeBroadcast => Sys2Proof.Machine.execFreezeBroadcast s
  | .capsuleSeal => Sys2Proof.Machine.execCapsuleSeal s
  | .coldReset images bad => Sys2Proof.Machine.execColdReset images bad s
  | .warmReset images => Sys2Proof.Machine.execWarmReset images s
  | .lqtailDoorbell fn t => Sys2Proof.Machine.execLqtailDoorbell fn t s
  | .launchQueueEntry fn => Sys2Proof.Machine.execLaunchQueueEntry fn s
  | .freplyServe fn seq => Sys2Proof.Machine.execFreplyServe fn seq s
  | .freplyRefuse fn seq => Sys2Proof.Machine.execFreplyRefuse fn seq s
  | .controlRecordPost fn => Sys2Proof.Machine.execControlRecordPost fn s
  | .create fn w => Sys2Proof.Machine.execCreate fn w s
  | .update fn w => Sys2Proof.Machine.execUpdate fn w s
  | .destroy fn w => Sys2Proof.Machine.execDestroy fn w s
  | .read fn w => Sys2Proof.Machine.execRead fn w s
  | .release fn w => Sys2Proof.Machine.execRelease fn w s
  | .freeze fn w => Sys2Proof.Machine.execFreeze fn w s
  | .info fn w => Sys2Proof.Machine.execInfo fn w s
  | .foremanFirmwareUpdate op size version => Sys2Proof.Machine.execForemanFirmwareUpdate op size version s
  | .coreOffline op => Sys2Proof.Machine.execCoreOffline op s
  | .coreOnline op => Sys2Proof.Machine.execCoreOnline op s
  | .dieOffline op => Sys2Proof.Machine.execDieOffline op s
  | .dieOnline op => Sys2Proof.Machine.execDieOnline op s
  | .retrainHbmStack op => Sys2Proof.Machine.execRetrainHbmStack op s
  | .retrainPort op => Sys2Proof.Machine.execRetrainPort op s
  | .addFreePages => Sys2Proof.Machine.execAddFreePages s
  | .configRecordReplace record version value ok => Sys2Proof.Machine.execConfigRecordReplace record version value ok s
  | .getVersion fn => Sys2Proof.Machine.execGetVersion fn s
  | .getCapabilities fn => Sys2Proof.Machine.execGetCapabilities fn s
  | .negotiateAlgorithms fn => Sys2Proof.Machine.execNegotiateAlgorithms fn s
  | .getDigests fn => Sys2Proof.Machine.execGetDigests fn s
  | .getCertificate fn off len => Sys2Proof.Machine.execGetCertificate fn off len s
  | .challenge fn nonce => Sys2Proof.Machine.execChallenge fn nonce s
  | .getMeasurements fn block => Sys2Proof.Machine.execGetMeasurements fn block s
  | .hostBar2Access fn off n write x => Sys2Proof.Machine.execHostBar2Access fn off n write x s
  | .registerWrite fn off x => Sys2Proof.Machine.execRegisterWrite fn off x s
  | .memoryReply core entry => Sys2Proof.Machine.execMemoryReply core entry s
  | .memoryError wh idx fixed => Sys2Proof.Machine.execMemoryError wh idx fixed s
  | .launchQueueTake die => Sys2Proof.Machine.execLaunchQueueTake die s

end Sys2Proof.Machine
end

