-- ==== Sys2Proof/Machine/Fetch.lean ====
section
/-! DEFINITION. Fetching an instruction word (R27, R53, R161), and what an agent's turn does with it. -/

namespace Sys2Proof.Machine

/-- What a fetch gives: the word at the PC with the state it leaves, or the state in which the crew stopped instead. -/
inductive Fetched where
  | word (w : Word) (s : State)
  | stop (s : State)

/-- A core's instruction cache reads the word at a place of coherence (R53): it fetches 16 bytes at a time, and a held
unit, which data stores do not change, may be used or may have left; where the cache is full, some unit leaves (R61; log 9). -/
def State.fetchWord (s : State) (core cn va : Nat) (loc : Loc) : Word × State :=
  let unit := loc.idx / 16
  let off := loc.idx % 16
  let fill (s : State) : Word × State :=
    let x := s.bytes (unit * 16) 16
    let t := s.request core cn va loc
    (BitVec.ofNat 32 (s.bytes loc.idx 4),
      if (s.core core).icache.length < icacheUnits then t.mapCore core (fun c => { c with icache := c.icache.insert unit x })
      else t.takeFree.2.mapCore core (fun c => { c with icache := c.icache.insertWithin icacheUnits t.takeFree.1.toNat unit x }))
  match (s.core core).icache.get? unit with
  | none => fill s
  | some x => if s.takeFree.1.getLsbD 0 then (BitVec.ofNat 32 (fld x off 4), s.takeFree.2) else fill s.takeFree.2

/-- The executing crew fetches the word at its PC (R27): the address is translated as a data read's is and needs X; a
page that can be served parks the crew before anything of the instruction has executed (R161). -/
def State.fetch (s : State) : Fetched :=
  let c := s.crew
  match s.classify s.focusCore none c.ctx 4 .exec true [(0, c.pc.toNat)] with
  | (.trap cause tval, s) => .stop (takeTrap s cause tval)
  | (.go [] xs, s) => .stop ((s.parkOn c.am .exec xs).stall s.fkey)
  | (.go (x :: _) _, s) =>
    let (w, s) := s.fetchWord s.focusCore c.ctx c.pc.toNat x.loc
    .word w s

/-- A core and a slot of the package (R13, R55). -/
def unitExists (core slot : Nat) : Bool := decide (core < 192) && decide (slot < 64)

/-- The state with a crew slot in focus. -/
def State.focus (s : State) (core slot : Nat) : State := { s with focusCore := core, focusSlot := slot }

/-- The focused slot holds a crew that would issue an instruction now if its quarter chose it: it is not stopped, its core's mode lets it, and
no trap is due before its next instruction (R336, R245). -/
def State.fetches (s : State) : Bool :=
  match s.crew? with
  | none => false
  | some c => c.canIssue && s.mayIssue s.fkey && c.savedTrap.isNone

/-- The trap of a crew that is due before its next instruction; otherwise nothing happens in a slot that does not
fetch. -/
def State.dueTrap (s : State) : State :=
  match s.crew? with
  | none => s
  | some c =>
    match c.savedTrap with
    | some (cause, tval) =>
      if c.canIssue && s.mayIssue s.fkey then takeTrap (s.setCrew { c with savedTrap := none }) cause tval else s
    | none => s

end Sys2Proof.Machine
end

