-- ==== Sys2Proof/Machine/Loader.lean ====
section
/-! DEFINITION. Placing a program from outside (log 1): the least that must exist for a crew to fetch a word.  The step
itself never calls these. -/

namespace Sys2Proof.Machine

/-- The first number above every key. -/
def freshKey {α : Type} (m : SMap α) : Nat := m.keys.foldl (fun a k => max a (k + 1)) 1

/-- The launch header of a one-lane task of the program at a VA, with every register and tile allocated (Table 14.1). -/
def programHeader (va : Nat) : Nat :=
  layout [(2, 1), (1, 0), (1, 0), (4, 0), (8, va), (2, 256), (1, 64), (1, 0xFF), (1, 0), (1, 0), (1, 1), (1, 0), (6, 6),
    (2, 0), (8, 1)]

/-- The virtual address, and the physical address, of the page that a program is placed in. -/
def programBase : Nat := 2 ^ 17

/-- Page tables at the physical addresses 0x2000 to 0x9FFF that map the program's page, readable and executable (Table
7.5): PTROOT names the first node. -/
def State.programTables (s : State) : State :=
  let s := s.setPhysBytes 0x2000 0x4001 8
  let s := s.setPhysBytes 0x4000 0x6001 8
  let s := s.setPhysBytes 0x6000 0x8001 8
  s.setPhysBytes (0x8000 + 8) (programBase + 0x17) 8

/-- A context of level 2 and a task of one crew, bound in the focused slot as a bind record binds it (R328, R329), and the only member of
its quarter's active set (R59). -/
def State.programCrew (s : State) : State :=
  let cn := freshKey s.ctxs
  let tn := freshKey s.tasks
  let t : Task :=
    { ctx := cn, die := dieOf s.focusCore, header := programHeader programBase, carry := [], launched := s.clock
      queued := false, estim := 0xFFFFFFFF, page := none, groups := [(0, s.focusCore)], phases := [], seen := [(0, 1)]
      bars := [], marks := [], sweepQs := [], sweepFlags := [], cores := [s.focusCore], token := (0, false), nextSib := siblingBase
      away := [] }
  let s : State := { s with
    ctxs := s.ctxs.insert cn { Ctx.blank with level := 2, owner := s.current, ptroot := 0x2000 }
    tasks := s.tasks.insert tn t }
  (s.enterSlot s.fkey (t.newCrew tn 0 0 0x20000 s.clock) 0).putSet s.focusCore s.focusSlot [s.focusSlot]

/-- The crew of the focused slot would be the one that issues, and would fetch at a PC whose page the tables map for it. -/
def State.placed (s : State) : Option Loc :=
  if s.fetches && !s.crew.stalled && s.settled.elected then
    match s.xlateWalk s.crew.ctx s.crew.pc.toNat .exec with
    | .ok l => some l
    | _ => none
  else none

/-- The word is stored where the focused crew fetches next, and no cache of the core or die holds that address. -/
def State.putWord (s : State) (w : Nat) (loc : Loc) : State :=
  let c := s.crew
  let s := s.setBytes loc.idx w 4
  let s := s.mapCore s.focusCore (fun x => { x with
    icache := x.icache.remove (loc.idx / 16)
    tlb := x.tlb.filter (fun e => !e.covers c.ctx c.pc.toNat) })
  let s := s.mapDie (dieOf s.focusCore) (fun d => { d with tlb := d.tlb.filter (fun e => !e.covers c.ctx c.pc.toNat) })
  { s with
    poison := s.poison.filter (fun n => decide (n ≠ loc.idx / 128))
    agenda := [.issue s.focusCore s.focusSlot] }

/-- The state whose next step fetches and runs the word. -/
def State.loadWord (s : State) (w : Nat) : State :=
  match s.placed with
  | some loc => s.putWord w loc
  | none => (s.programTables.programCrew).putWord w ⟨programBase, true⟩

end Sys2Proof.Machine
end

