-- ==== Sys2Proof/Machine/Sched.lean ====
section
/-! DEFINITION. Turns: what a step of each agent does, and the policy that chooses an agent when the agenda is empty
(log 4). -/

namespace Sys2Proof.Machine

/-- The focused crew's next instruction, fetched, decoded and executed (R36). -/
def State.fetchTurn (s : State) : Host.Outcome State Fault Refusal :=
  match s.fetch with
  | .stop s => .next s
  | .word w s =>
    match decode w with
    | .ok i => exec i s
    | .error _ => execReservedOpcode w s

/-- The wait of a stalled crew is over: its instruction, tried, would not wait (R330; log 72).  The attempt leaves nothing. -/
def State.wakes (s : State) (core slot : Nat) : Bool :=
  let u := s.focus core slot
  u.fetches && u.crew.stalled &&
    match u.fetchTurn with
    | .next t => !(t.crews.get? u.fkey).elim false Crew.stalled
    | _ => true

/-- The stalled crews of the focused slot's quarter whose waits are over are ready (R330). -/
def State.woken (s : State) : State :=
  ((List.range 16).filter (fun i => s.wakes s.focusCore (16 * quarterOf s.focusSlot + i))).foldl (fun u i =>
    u.unstall (crewKey s.focusCore (16 * quarterOf s.focusSlot + i))) s

/-- What the agents of a core find when a crew of it takes its turn: the stores are performed that releases have covered for them (R179). -/
def State.inScope (s : State) : State := s.settleScopes s.focusCore (some s.fkey)

/-- The crew in the focused slot takes its turn: what is due before its next instruction, or its next instruction where its quarter issues
from it (R59, R330).  A crew whose wait goes on tries its instruction again, and the attempt leaves what it left (log 72). -/
def State.issueTurn (s : State) : Host.Outcome State Fault Refusal :=
  if !s.fetches then .next (if s.crew.cut then s.cutBoundary s.fkey else s.dueTrap)
  else
    let u := s.inScope
    if u.crew.stalled && !u.wakes u.focusCore u.focusSlot then u.fetchTurn
    else
      let v := u.woken.settled
      if v.elected then v.fetchTurn else .next v

/-- The instruction is an event of another agent, which no crew fetches. -/
def isEvent (i : Instr) : Bool := (encode i).isNone

/-- An agent's turn. -/
def State.turn (s : State) (t : Turn) : Host.Outcome State Fault Refusal :=
  match t with
  | .issue core slot => if unitExists core slot then (s.focus core slot).issueTurn else .fault .noSuchUnit
  | .fire core slot => if unitExists core slot then fireSlot core slot s else .fault .noSuchUnit
  | .event i => if isEvent i then exec i s else .next s
  | .time n => .next (s.passTime n)
  | .arrive header params data scales => .next { s with msgs := s.msgs ++ [Msg.ofHeader header params data scales] }
  | .ringError ring entry => .next (s.ringError ring entry)
  | .corrected core part => .next (s.correctedError core part)
  | .count core ctr n => .next (s.countBelow core ctr n)
  | .killRegion control => .next (s.killRegion control)
  | .endFaulted key => .next (s.endFaulted key)

/-! ## The model's own policy (log 4) -/

/-- What an agent could do. -/
abbrev Chore := State → Host.Outcome State Fault Refusal

/-- The first place on the package at which a crew of a task can be bound (R329), with its register base as high as it fits,
as the foreman places it where a core may enter spatial mode (R277). -/
def State.findPlace (s : State) (tn : Nat) (t : Task) (k : Nat) : Option (Nat × Nat × Nat × Nat × Nat) :=
  let cores :=
    match t.phases.get? k, t.groups.get? (t.group k) with
    | some p, _ => [p.core]
    | none, some c => [c]
    | none, none => (List.range 192).filter (fun c => s.coreBinds c)
  cores.findSome? (fun core =>
    let free (i : Nat) : Bool :=
      (s.crews.get? (crewKey core i)).isNone && decide (s.reserved.getD (crewKey core i) tn = tn)
    let room (i : Nat) : Option Nat := ((List.range 64).map (63 - ·)).find? (fun b => s.blocksFree core i b (hdrBlocks t.header))
    match (List.range 64).find? (fun i => free i && (room i).isSome), s.recordRoom core t.carry with
    | some slot, some off =>
      let b := (room slot).getD 0
      if s.bindOk tn t k core slot b off then some (k, core, slot, b, off) else none
    | _, _ => none)

/-- A gang binds all its crews at once (R334); otherwise one crew is bound. -/
def State.autoBind (tn : Nat) (s : State) : State :=
  match s.tasks.get? tn with
  | none => s
  | some t =>
    let one (s : State) (k : Nat) : Option State :=
      (s.tasks.get? tn).bind (fun t => (s.findPlace tn t k).bind (fun p => s.bindAll tn [p]))
    if (t.fld 2 1).testBit 0 && decide (t.seen = []) then
      (t.bindable.foldl (fun (acc : Option State) k => acc.bind (fun s => one s k)) (some s)).getD s
    else (t.bindable.findSome? (one s)).getD s

/-- What can happen around one crew. -/
def crewChores (key : Nat) (c : Crew) : List Chore :=
  let core := key / 64
  let slot := key % 64
  [(fun s => (s.focus core slot).issueTurn), (fun s => .next (s.cutBoundary key)), execReplay core slot,
    execAwaitWake core slot, execAwaitDeadline core slot, execSpwaitDeadline core slot, execSpexitComplete core slot,
    execActiveSetSwap core slot] ++
  (List.range c.pend.length).flatMap (fun i =>
    [execLoadComplete core slot i (-1), execStoreComplete core slot i (-1), execRemoteAccessTimeout core slot i])

/-- The element that a stream reads next. -/
def Job.nextElem (j : Job) : Nat :=
  if j.stream.dir = 0 then
    ((List.range 64).map (fun i => 64 * j.stream.next + i)).find? (fun e => (j.buffer.get? e).isNone) |>.getD 0
  else j.pos + j.buffer.length

/-- What can happen in one core. -/
def coreChores (core : Nat) (c : Core) : List Chore :=
  c.jobs.flatMap (fun j =>
    [execJobStart core j.id, execCopyChunk core j.id, execStreamEntry core j.id true j.nextElem,
      execStreamEntry core j.id false 0, execMloadRow core j.id, execGrunRow core j.id, execJobComplete core j.id,
      execCollectiveTimeout core j.id]) ++
  (List.range c.tileOps.length).map (execMmaBroadcast core) ++ (List.range c.replies.length).map (execMemoryReply core)

/-- What can happen in one region: its commit, a firing of a slot, its completion and its stops. -/
def regionChores (key : Nat) (r : Region) : List Chore :=
  let core := key / 64
  let slot := key % 64
  [execSpentCommit core slot false, execRegionCompletion core slot, execDrainEnd core slot, execWatchdog core slot] ++
    (if r.saving = 1 then [execSaveStop core slot] else []) ++
    r.slots.keys.map (fun k => fireSlot (r.cores.getD (k / 64) 0) (k % 64))

/-- What the landing pager of one die can do. -/
def dieChores (die : Nat) (d : Die) : List Chore :=
  execPageridle die :: (List.range d.faults.length).flatMap (fun i => [execLandingPagerServe die i, execFaulttmo die i])

/-- What the foreman can do for one task. -/
def taskChores (tn : Nat) (t : Task) : List Chore :=
  [(fun s => .next (s.autoBind tn)), execGangtmo tn, execSweepTokenHop tn] ++ t.phases.keys.map (execNextPhaseReady tn)

/-- What can happen to one raft. -/
def raftChores (h : Nat) (r : Raft) : List Chore :=
  r.members.keys.flatMap (fun k => [execRaftformTimeout h k, execRaftJoinTimeout h k])

/-- What can happen to a raft message that has arrived. -/
def msgChores (ix : Nat) : List Chore :=
  [execForm ix, execJoin ix, execContrib ix, execResult ix, execArrive ix, execAbort ix, execRemreq ix, execRemack ix]

/-- Everything that some agent of the package could do now, but for errors, and for what the host and the foreman choose. -/
def State.chores (s : State) : List Chore :=
  s.crews.flatMap (fun e => crewChores e.1 e.2) ++ s.cores.flatMap (fun e => coreChores e.1 e.2) ++
  s.regions.flatMap (fun e => regionChores e.1 e.2) ++ s.dies.flatMap (fun e => dieChores e.1 e.2) ++
  s.tasks.flatMap (fun e => taskChores e.1 e.2) ++
  s.reserved.flatMap (fun e => [execGangwait e.2 [e.1], fun s => execPreemptionChoice e.2 ((s.taskAt e.1).getD e.2) [e.1] s]) ++
  s.pageCtr.keys.map execPendingNotificationPost ++
  s.migReqs.map (fun r => fun s => execMigration r.ctx r.va ((s.die r.die).freePages.headD 0) s) ++
  s.migrations.map (fun m => execMigration m.ctx m.va m.new) ++ s.escalations.map (fun e => fun s => .next (s.endFaulted e.key)) ++
  [(fun s => .next (s.checkpoint []))] ++
  s.coppices.map (fun c => execCoppiceDeadline c.ctx c.va) ++ s.rafts.flatMap (fun e => raftChores e.1 e.2) ++
  (List.range s.msgs.length).flatMap msgChores ++ s.retrain.keys.map (fun p => execPortRetrainAttempt p true) ++
  s.funcs.keys.flatMap (fun f => [execLaunchQueueEntry f, execControlRecordPost f]) ++
  [execFreezeBroadcast, execCapsuleSeal, execFslice]

/-- The first of some chores that does something. -/
def State.firstChore (s : State) : List Chore → Option State
  | [] => none
  | f :: fs =>
    match f s with
    | .next s' => if s' = s then s.firstChore fs else some s'
    | _ => s.firstChore fs

/-- With an empty agenda the agents take turns: the chores are tried in order from a place that the clock gives, the first
that does something is done, and the clock advances by a tick. -/
def State.freeTurn (s : State) : Host.Outcome State Fault Refusal :=
  let cs := s.chores
  let k := s.clock % cs.length
  let s' := (s.firstChore (cs.drop k ++ cs.take k)).getD s
  .next (s'.passTime 1)

end Sys2Proof.Machine
end

