-- ==== Sys2Proof/Machine/Step.lean ====
section
/-! DEFINITION. One step of the package, with its three outcomes, and the placing of a word where the next step
fetches. -/

namespace Sys2Proof.Machine

/-- One step: the agent at the head of the agenda takes its turn, or, when the agenda is empty, the agent that the
model's own policy chooses (log 4). -/
def step (s : State) : Host.Outcome State Fault Refusal :=
  match s.agenda with
  | [] => s.freeTurn
  | t :: rest => State.turn { s with agenda := rest } t

/-- The state with the instruction whose bits are `w` placed where the next step fetches (log 1). -/
def State.withFetchWord (s : State) (_nbits w : Nat) : State := s.loadWord w

end Sys2Proof.Machine
end

