-- ==== Sys2Proof/WellFormed.lean ====
section
/-! DEFINITION. Well-formed instructions: what step 2 of R36 checks without regard to MODE. -/

namespace Sys2Proof

/-- An instruction is well formed: its fields keep their limits (R31, and each entry's own) and every register operand
keeps its range and its fixed alignment (R29, R30).  The alignments that follow MODE.type or MODE.ctype are checked at
issue. -/
def Instr.wellFormed (i : Instr) : Bool :=
  Machine.fieldsOk i && (Machine.operands 0 i).all Machine.Opnd.ok

end Sys2Proof
end

