-- ==== Sys2Proof/Safety.lean ====
section
/-! DEFINITION. What counts as a safe run, and the words in which the statements speak of instructions: when a crew issues one,
what its completion is, and what it leaves alone. -/

namespace Sys2Proof.Machine

/-- A step is safe when it answers a next state. -/
def SafeStep (s : State) : Prop := ∃ t, step s = .next t

/-- The invariant of the package's storage: one canonical form, so that equal memories are equal data. -/
def State.Inv (s : State) : Prop := Memory.wf s.mem

/-- The register operands that an instruction writes, under a MODE. -/
def writesOf (m : BitVec 16) (i : Instr) : List Opnd :=
  (operands m i).filter (fun o => decide (o.use = .write) || decide (o.use = .both))

/-- The instruction names vector register `r` as one that it writes. -/
def writesV (m : BitVec 16) (i : Instr) (r : Nat) : Bool :=
  (writesOf m i).any (fun o => o.vec && decide (o.reg ≤ r) && decide (r < o.reg + o.span))

/-- The instruction names scalar register `r` as one that it writes. -/
def writesS (m : BitVec 16) (i : Instr) (r : Nat) : Bool :=
  (writesOf m i).any (fun o => !o.vec && decide (o.reg ≤ r) && decide (r < o.reg + o.span))

/-- No completed and unobserved job has its token in a register that the operands name (R195). -/
def Crew.nothingToObserve (c : Crew) (os : List Opnd) : Bool :=
  os.all (fun o => o.vec || c.unobs.all (fun u => !spansMeet o.reg o.span u.token 1))

/-- `c` is the crew in focus and issues the instruction now: it is bound and not stopped, its core's mode lets it, no trap is due, the
checks of Table 2.4 all pass (R36), and it waits for no access, job or observation (R58, R210, R195). -/
def Issues (s : State) (c : Crew) (i : Instr) : Bool :=
  decide (s.crew? = some c) && c.canIssue && s.mayIssue s.fkey && c.savedTrap.isNone && (checkIssue s c i).isNone &&
    !c.pend.any (fun p => (operands c.mode i).any p.targets) && !c.mustWait (operands c.mode i) && !(storesMemory i && c.awaitsGet) &&
    c.nothingToObserve (operands c.mode i)

/-- `c` is the crew in focus and comes to the checks of Table 2.4 for the instruction. -/
def Reaches (s : State) (c : Crew) : Bool :=
  decide (s.crew? = some c) && c.canIssue && s.mayIssue s.fkey && c.savedTrap.isNone

/-- The executing crew completed instruction `i` with the PC at `pc`: it took no trap, it counted the instruction, and `P` holds of
the state and the crew afterwards. -/
def CompletesAt (s : State) (c : Crew) (i : Instr) (pc : PcWord) (P : State → Crew → Prop) : Prop :=
  ∃ t c', exec i s = .next t ∧ t.crews.get? s.fkey = some c' ∧ c'.pc = pc ∧ c'.issued = c.issued + 1 ∧ c'.frames = c.frames ∧
    c'.waiting = none ∧ P t c'

/-- The executing crew completed instruction `i` and goes on to the next one. -/
abbrev Completes (s : State) (c : Crew) (i : Instr) (P : State → Crew → Prop) : Prop := CompletesAt s c i (c.pc + 4) P

/-- What no completion of an instruction on registers changes in its crew: everything but the PC, the registers, MODE, MODEX, the
barriers, the generators, and what the scoreboard and the recorder keep of an instruction. -/
def Crew.rest (c : Crew) : Crew :=
  { c with
    pc := 0, sreg := [], vreg := [], preds := [], gens := [], bars := [], mode := 0, modex := 0
    replay := none, firstIssue := none, deadline := none, waiting := none, released := false, issued := 0
    path := 0, pathFresh := false, bmap := [], sampleAt := 0
    stalled := false, readyAt := (0, 0), readySince := 0, lastIssue := (0, 0), cache := [] }

/-- A core without its performance counters and its quarters' issue counts, which every instruction advances (R433, R330). -/
def Core.uncounted (c : Core) : Core := { c with ctrs := [], issues := [] }

/-- Everything outside the executing crew is as it was, but for the counters and the recorder: other crews, memory, cores, dies,
tasks, regions, coppices and rafts. -/
def Still (s t : State) : Prop :=
  (∀ k, k ≠ s.fkey → t.crews.get? k = s.crews.get? k) ∧ t.mem = s.mem ∧ t.poison = s.poison ∧ t.tasks = s.tasks ∧
  t.regions = s.regions ∧ t.dies = s.dies ∧ t.coppices = s.coppices ∧ t.rafts = s.rafts ∧ t.msgs = s.msgs ∧
  t.pageCtr = s.pageCtr ∧ t.migReqs = s.migReqs ∧ t.clock = s.clock ∧
  (∀ n, (t.core n).uncounted = (s.core n).uncounted)

/-- Every register of a crew but those that the instruction names as written is as it was, in every lane. -/
def RegsKept (c c' : Crew) (i : Instr) : Prop :=
  (∀ r l, l < 64 → writesV c.mode i r = false → c'.getV r l = c.getV r l) ∧
  (∀ r, writesS c.mode i r = false → c'.getS r = c.getS r)

/-- MODE, MODEX, predicates, barriers and generators are as they were. -/
def ModesKept (c c' : Crew) : Prop :=
  c'.mode = c.mode ∧ c'.modex = c.modex ∧ c'.preds = c.preds ∧ c'.bars = c.bars ∧ c'.gens = c.gens

/-- The executing crew took trap `cause` with `tval` (R400): a new frame on top holds the return PC, the mask, MODEX and MODE, the cause with
the path count, and tval; MODE and MODEX are those of a new crew, and the crew is at TVEC. That the frame keeps the deadline of the instruction
that the trap interrupted, with its PC, so that TRAPRET to it goes on with it, is the model's reading (log 67). -/
def TookTrap (c c' : Crew) (pc : PcWord) (cause : Nat) (tval : DWord) : Prop :=
  c'.frames = { pc := pc.zeroExtend 64, mask := c.am, mode := c.modex ++ c.mode,
                cause := BitVec.ofNat 32 (cause + 256 * c.paths.length), tval := tval
                deadline := c.deadline.map (fun t => (c.pc, t)) } :: c.frames ∧
  c'.pc = c.tvec.truncate 57 ∧ c'.mode = 0 ∧ c'.modex = 6 ∧
  c'.am = c.am ∧ c'.live = c.live ∧ c'.paths = c.paths ∧ c'.bars = c.bars ∧ c'.tvec = c.tvec ∧
  (∀ r l, c'.getV r l = c.getV r l) ∧ (∀ r, c'.getS r = c.getS r) ∧ c'.preds = c.preds ∧ c'.gens = c.gens

/-- A handler is set and a trap frame is free, so that a trap is taken and not escalated (R401). -/
def Crew.handles (c : Crew) : Bool := decide (c.tvec ≠ 0) && decide (c.frames.length < 4)

/-- The instruction is a spatial operator, whose word stands in a slot and not in memory (Table 12.5). -/
def isOperator (i : Instr) : Bool :=
  match i with
  | .opPass _ _ _ _ _ _ => true
  | .opCopy _ _ => true
  | .opSel _ _ => true
  | .opSteer _ _ => true
  | .opMerge _ _ _ => true
  | .opAdd _ _ _ _ _ _ _ => true
  | .opSub _ _ _ _ _ _ _ => true
  | .opMul _ _ _ _ _ _ _ => true
  | .opFma _ _ _ _ _ _ _ => true
  | .opMin _ _ _ _ _ _ _ => true
  | .opMax _ _ _ _ _ _ _ => true
  | .opCmpeq _ _ _ _ _ _ => true
  | .opCmpne _ _ _ _ _ _ => true
  | .opCmplt _ _ _ _ _ _ => true
  | .opCmple _ _ _ _ _ _ => true
  | .opAnd _ _ _ _ _ _ => true
  | .opOr _ _ _ _ _ _ => true
  | .opXor _ _ _ _ _ _ => true
  | .opShl _ _ _ _ _ _ => true
  | .opShr _ _ _ _ _ _ => true
  | .opDot4 _ _ _ _ _ _ _ => true
  | .opCvt _ _ _ _ _ => true
  | .opRate _ _ => true
  | .opScalemul _ _ _ _ => true
  | .opLoopgen _ _ _ _ _ => true
  | .opCount _ _ _ _ _ => true
  | .opAcc _ _ _ _ _ => true
  | .opSrc _ _ => true
  | .opSnk => true
  | .opMemld _ _ => true
  | .opMemst => true
  | .opExitx => true
  | .opInj _ _ => true
  | .opTgate _ _ => true
  | .opEdgetx _ _ => true
  | .opEdgerx _ _ _ _ => true
  | _ => false

end Sys2Proof.Machine
end

