-- ==== Sys2Proof/Certificates/Slice0/Obligations.lean ====
section
/-! DEFINITION. The statements for the provers, from the numbered rules of the manual. -/

open Sys2Proof Sys2Proof.Machine

/-- After reset no crew, task or region is bound, no engine job is held, every macro of every core is invalid, every
cache, TLB and gate is empty, every context register that a new context takes is 0, and the first function holds the
package. That pools and pins are empty, and that PTROOT and every other register for which Table 17.2 gives no reset
value is 0, is the model's own choice (log 2), and so is that memory reads 0 (log 3). -/
def Obligations.ResetLeavesAnEmptyPackage : Prop :=
  State.reset.crews = [] ∧ State.reset.tasks = [] ∧ State.reset.regions = [] ∧ State.reset.coppices = [] ∧
  State.reset.rafts = [] ∧
  (∀ core m, (State.reset.mac core m).owner = none) ∧
  (∀ core, (State.reset.core core).jobs = [] ∧ (State.reset.core core).l1 = [] ∧ (State.reset.core core).icache = [] ∧
    (State.reset.core core).tlb = [] ∧ (State.reset.core core).pools = [] ∧ (State.reset.core core).rvfCtx = none ∧
    (State.reset.core core).version = 0 ∧ (State.reset.core core).killdrop = 0) ∧
  (∀ d, (State.reset.die d).pins = [] ∧ (State.reset.die d).faults = [] ∧ (State.reset.die d).tlb = []) ∧
  (Ctx.blank.dbgctl = 0 ∧ Ctx.blank.vaultbase = 0 ∧ Ctx.blank.poolbase = 0 ∧ Ctx.blank.ptroot = 0 ∧ Ctx.blank.migthr = 0 ∧
    Ctx.blank.tenant = 0 ∧ Ctx.blank.migq = 0 ∧ Ctx.blank.migqht = 0 ∧ Ctx.blank.migovf = 0 ∧ Ctx.blank.cntctl = 0 ∧
    Ctx.blank.cntovf = 0 ∧ Ctx.blank.capctl = 0 ∧ Ctx.blank.trcstat = 0) ∧
  State.reset.current = 0 ∧ (∀ a, State.reset.byte a = 0)

/-- The invariant that every step keeps holds of the state after reset. -/
def Obligations.ResetKeepsStorageCanonical : Prop :=
  State.reset.Inv

/-- In every state whose storage lists rising addresses and no byte equal to what is unlisted, a step that answers a
next state answers one whose storage has that form again: no instruction of any family and no event of any agent breaks
it. -/
def Obligations.EveryStepKeepsStorageCanonical : Prop :=
  ∀ s t : State, s.Inv → step s = .next t → t.Inv

/-- For every instruction and event of the opcode table and every state, exec answers a next state; a step that is not a
next state is the turn of a core or slot that does not exist. -/
def Obligations.NoStepIsRefused : Prop :=
  (∀ (i : Instr) (s : State), ∃ t, exec i s = .next t) ∧
  (∀ s : State, (∃ t, step s = .next t) ∨
    ∃ core slot rest, unitExists core slot = false ∧
      (s.agenda = .issue core slot :: rest ∨ s.agenda = .fire core slot :: rest) ∧ step s = .fault .noSuchUnit)

/-- Where the agenda (log 4) gives a crew its turn and the crew would fetch, the stores of other crews that releases have
covered for it are performed first (log 81), and the waits of its quarter's crews that are over end (log 72). If it does
not wait and its quarter issues from it (R59, R330), the step is exec of the instruction that its word decodes to, or
the trap of a reserved encoding; if its quarter does not choose it, it issues nothing. If its wait goes on it tries its
instruction, with the effect of exec. An event of the agenda is exec of that event; and the word that withFetchWord
places after reset is the one fetched. -/
def Obligations.StepRunsTheDecodedInstruction : Prop :=
  (∀ (s : State) (core slot : Nat) (rest : List Turn), s.agenda = .issue core slot :: rest → unitExists core slot = true →
    let s0 := ({ s with agenda := rest } : State).focus core slot
    let u := s0.inScope
    let v := u.woken.settled
    let runs (x : State) : Prop := ∀ (w : Word) (s1 : State), x.fetch = .word w s1 →
      (∀ i, decode w = .ok i → step s = exec i s1) ∧ (∀ e, decode w = .error e → step s = execReservedOpcode w s1)
    s0.fetches = true →
      (u.crew.stalled = true → u.wakes u.focusCore u.focusSlot = false → runs u) ∧
      (u.crew.stalled = false ∨ u.wakes u.focusCore u.focusSlot = true →
        (v.elected = true → runs v) ∧ (v.elected = false → step s = .next v))) ∧
  (∀ (s : State) (i : Instr) (rest : List Turn), s.agenda = .event i :: rest → isEvent i = true →
    step s = exec i { s with agenda := rest }) ∧
  (∀ n w : Nat, (State.reset.withFetchWord n w).agenda = [.issue 0 0] ∧
    let s0 := ({ State.reset.withFetchWord n w with agenda := [] } : State).focus 0 0
    let v := s0.inScope.woken.settled
    s0.fetches = true ∧ s0.inScope.crew.stalled = false ∧ v.elected = true ∧ ∃ s1, v.fetch = .word (BitVec.ofNat 32 w) s1)

/-- For every well-formed instruction that has a word, decoding its word gives the instruction back with every operand
at every value; and every word that decodes is the word of the instruction it decodes to, so that no bit of a word is
dropped and no word has two readings. -/
def Obligations.DecodeAndEncodeAgree : Prop :=
  (∀ (i : Instr) (w : Word), i.wellFormed = true → isOperator i = false → encode i = some w → decode w = .ok i) ∧
  (∀ (i : Instr) (w : Word), decode w = .ok i → encode i = some w)

/-- The word of every operator, with every value of its fields, is one that the configuration check accepts; words of
different operators or fields differ; and the turn of a slot that holds the word of an operator is exec of that operator
with the slot in focus. -/
def Obligations.OperatorWordsAreFiredAsTheirOperators : Prop :=
  (∀ (i : Instr) (w : Word), isOperator i = true → encode i = some w → operatorOk w = true) ∧
  (∀ i j : Instr, isOperator i = true → isOperator j = true → encode i = encode j → i = j) ∧
  (∀ (s : State) (i : Instr) (w : Word) (k : Nat) (r : Region) (ci : Nat) (x : SpSlot), isOperator i = true →
    encode i = some w → s.focusSlot? = some (k, r, ci, x) → x.cfg.word = w → fireSlot s.focusCore s.focusSlot s = exec i s)

/-- The manual's own example word 0x01141060 is SETM type=bf16x2, rnd=rtz, and words laid out field by field from the
tables decode to NOP, ADD, SMOVI, BRA, LDW, AADD, TRAP and CLOCK, and the operator ADD has its word. -/
def Obligations.WordsWrittenFromTheManualDecode : Prop :=
  decode 0x01141060 = .ok (.setm 0x14 0x1060) ∧ decode 0 = .ok .nop ∧
  decode ((0x28 : BitVec 8) ++ (1 : BitVec 8) ++ (2 : BitVec 8) ++ (3 : BitVec 8)) = .ok (.add 1 2 3) ∧
  decode ((0x10 : BitVec 8) ++ (5 : BitVec 8) ++ (0xFFFE : BitVec 16)) = .ok (.smovi 5 0xFFFE) ∧
  decode ((0x03 : BitVec 8) ++ (0xFFFFFF : BitVec 24)) = .ok (.bra 0xFFFFFF) ∧
  decode ((0x72 : BitVec 8) ++ (7 : BitVec 8) ++ (8 : BitVec 8) ++ (0xFF : BitVec 8)) = .ok (.ldw 7 8 0xFF) ∧
  decode ((0x8B : BitVec 8) ++ (1 : BitVec 8) ++ (2 : BitVec 8) ++ (4 : BitVec 8)) = .ok (.aadd 1 2 4) ∧
  decode ((0xE4 : BitVec 8) ++ (0 : BitVec 8) ++ (0x1234 : BitVec 16)) = .ok (.trap 0x1234) ∧
  decode ((0xEE : BitVec 8) ++ (2 : BitVec 8) ++ (0 : BitVec 16)) = .ok (.clock 2) ∧
  encode (.opAdd 1 2 1 0 1 0 3) = some ((0x08 : BitVec 8) ++ (1 : BitVec 8) ++ (2 : BitVec 8) ++ (0xA3 : BitVec 8))

/-- The lane arithmetic, conversion, bit manipulation and lane exchange instructions: opcodes 0x28 to 0x6F. -/
def laneOnly (i : Instr) : Bool :=
  match i with
  | .add _ _ _ => true
  | .sub _ _ _ => true
  | .mul _ _ _ => true
  | .mulhi _ _ _ => true
  | .fma _ _ _ => true
  | .fms _ _ _ => true
  | .fnma _ _ _ => true
  | .min _ _ _ => true
  | .max _ _ _ => true
  | .abs _ _ => true
  | .neg _ _ => true
  | .cmpeq _ _ _ => true
  | .cmpne _ _ _ => true
  | .cmplt _ _ _ => true
  | .cmple _ _ _ => true
  | .cmpun _ _ _ => true
  | .sel _ _ _ => true
  | .addi _ _ _ => true
  | .movi _ _ => true
  | .movhi _ _ => true
  | .mov _ _ => true
  | .div _ _ _ => true
  | .rem _ _ _ => true
  | .rcp _ _ => true
  | .rsq _ _ => true
  | .sqrt _ _ => true
  | .exp2 _ _ => true
  | .log2 _ _ => true
  | .sinpi _ _ => true
  | .cospi _ _ => true
  | .dot2 _ _ _ => true
  | .dot4 _ _ _ => true
  | .floor _ _ => true
  | .ceil _ _ => true
  | .trunc _ _ => true
  | .rint _ _ => true
  | .fclass _ _ => true
  | .scaleb _ _ _ => true
  | .copysign _ _ _ => true
  | .absdiff _ _ _ => true
  | .cvt _ _ => true
  | .cvtp _ _ _ => true
  | .cvtq _ _ => true
  | .unpklo _ _ => true
  | .unpkhi _ _ => true
  | .cvtsc _ _ _ => true
  | .seedUniform _ => true
  | .seedPerLane _ => true
  | .and _ _ _ => true
  | .or _ _ _ => true
  | .xor _ _ _ => true
  | .not _ _ => true
  | .shl _ _ _ => true
  | .shr _ _ _ => true
  | .sra _ _ _ => true
  | .rotl _ _ _ => true
  | .bfx _ _ _ => true
  | .bfi _ _ _ => true
  | .popc _ _ => true
  | .clz _ _ => true
  | .brev _ _ => true
  | .ballot _ _ _ => true
  | .shuf _ _ _ => true
  | .shufx _ _ _ => true
  | .lrot _ _ _ => true
  | .bcast _ _ _ => true
  | .vget _ _ _ => true
  | .vset _ _ _ => true
  | .redadd _ _ => true
  | .redmin _ _ => true
  | .redmax _ _ => true
  | .laneid _ => true
  | _ => false

/-- What the completion of an instruction on registers leaves alone: everything outside its crew but the counters and the recorder, every
register that the instruction does not name as written, MODE but for SETM, MODEX but for SETMX, the barriers but for RCSET, the predicates
but for PLOG, SFROMP and the compares, the generators of the lanes outside active, and, for a guarded lane instruction, every vector
register of those lanes. -/
def RegisterEffect (s : State) (c : Crew) (i : Instr) (t : State) (c' : Crew) : Prop :=
  Still s t ∧ RegsKept c c' i ∧
  ((∀ a b, i ≠ .mtsc a b) → c'.rest = c.rest) ∧ (∀ a b, i = .mtsc a b → { c' with tsa := c.tsa, tsb := c.tsb }.rest = c.rest) ∧
  ((∀ f v, i ≠ .setm f v) → c'.mode = c.mode) ∧ ((∀ f v, i ≠ .setmx f v) → c'.modex = c.modex) ∧
  ((∀ d o, i ≠ .rcset d o) → c'.bars = c.bars) ∧ ((∀ d a f b, i ≠ .plog d a f b) → (∀ d a, i ≠ .sfromp d a) →
    (∀ d a b, i ≠ .cmpeq d a b ∧ i ≠ .cmpne d a b ∧ i ≠ .cmplt d a b ∧ i ≠ .cmple d a b ∧ i ≠ .cmpun d a b) → c'.preds = c.preds) ∧
  (∀ l, l < 64 → c.active.getLsbD l = false → c'.gen l = c.gen l) ∧
  (laneOnly i = true → (∀ d a b, i ≠ .sel d a b) → ∀ r l, l < 64 → c.active.getLsbD l = false → c'.getV r l = c.getV r l)

/-- NOP, every instruction of opcodes 0x01 to 0x27 that is no branch, every one of opcodes 0x28 to 0x6F (ADD to LANEID),
MTSC and WIDRD, each named: whenever its crew issues it (R36), exec answers a next state in which it has completed with
PC + 4; registers that it does not name as written keep their values, a lane outside active keeps every vector register
for a guarded lane instruction, MODE and MODEX change only for SETM and SETMX, predicates only for PLOG, SFROMP and the
compares, barriers only for RCSET, generators only in active lanes, TSA and TSB only for MTSC, and nothing outside the
crew changes but the counters and the recorder. -/
def Obligations.RegisterInstructionsComplete : Prop :=
  ∀ (s : State) (c : Crew),
    (Issues s c .nop = true → Completes s c .nop (RegisterEffect s c .nop)) ∧
    (∀ d a, Issues s c (.setm d a) = true → Completes s c (.setm d a) (RegisterEffect s c (.setm d a))) ∧
    (∀ d a, Issues s c (.setmx d a) = true → Completes s c (.setmx d a) (RegisterEffect s c (.setmx d a))) ∧
    (∀ d, Issues s c (.getm d) = true → Completes s c (.getm d) (RegisterEffect s c (.getm d))) ∧
    (∀ d a b e, Issues s c (.plog d a b e) = true → Completes s c (.plog d a b e) (RegisterEffect s c (.plog d a b e))) ∧
    (∀ d a, Issues s c (.pcount d a) = true → Completes s c (.pcount d a) (RegisterEffect s c (.pcount d a))) ∧
    (∀ d a, Issues s c (.ptos d a) = true → Completes s c (.ptos d a) (RegisterEffect s c (.ptos d a))) ∧
    (∀ d a, Issues s c (.sfromp d a) = true → Completes s c (.sfromp d a) (RegisterEffect s c (.sfromp d a))) ∧
    (∀ d a b, Issues s c (.sadd d a b) = true → Completes s c (.sadd d a b) (RegisterEffect s c (.sadd d a b))) ∧
    (∀ d a b, Issues s c (.ssub d a b) = true → Completes s c (.ssub d a b) (RegisterEffect s c (.ssub d a b))) ∧
    (∀ d a b, Issues s c (.smul d a b) = true → Completes s c (.smul d a b) (RegisterEffect s c (.smul d a b))) ∧
    (∀ d a b, Issues s c (.sand d a b) = true → Completes s c (.sand d a b) (RegisterEffect s c (.sand d a b))) ∧
    (∀ d a b, Issues s c (.sor d a b) = true → Completes s c (.sor d a b) (RegisterEffect s c (.sor d a b))) ∧
    (∀ d a b, Issues s c (.sxor d a b) = true → Completes s c (.sxor d a b) (RegisterEffect s c (.sxor d a b))) ∧
    (∀ d a b, Issues s c (.sshl d a b) = true → Completes s c (.sshl d a b) (RegisterEffect s c (.sshl d a b))) ∧
    (∀ d a b, Issues s c (.sshr d a b) = true → Completes s c (.sshr d a b) (RegisterEffect s c (.sshr d a b))) ∧
    (∀ d a b, Issues s c (.ssra d a b) = true → Completes s c (.ssra d a b) (RegisterEffect s c (.ssra d a b))) ∧
    (∀ d a b, Issues s c (.sslt d a b) = true → Completes s c (.sslt d a b) (RegisterEffect s c (.sslt d a b))) ∧
    (∀ d a b, Issues s c (.ssltn d a b) = true → Completes s c (.ssltn d a b) (RegisterEffect s c (.ssltn d a b))) ∧
    (∀ d a b, Issues s c (.sseq d a b) = true → Completes s c (.sseq d a b) (RegisterEffect s c (.sseq d a b))) ∧
    (∀ d a b, Issues s c (.smin d a b) = true → Completes s c (.smin d a b) (RegisterEffect s c (.smin d a b))) ∧
    (∀ d a b, Issues s c (.smax d a b) = true → Completes s c (.smax d a b) (RegisterEffect s c (.smax d a b))) ∧
    (∀ d a b, Issues s c (.sadd64 d a b) = true → Completes s c (.sadd64 d a b) (RegisterEffect s c (.sadd64 d a b))) ∧
    (∀ d a, Issues s c (.smovi d a) = true → Completes s c (.smovi d a) (RegisterEffect s c (.smovi d a))) ∧
    (∀ d a, Issues s c (.smovhi d a) = true → Completes s c (.smovhi d a) (RegisterEffect s c (.smovhi d a))) ∧
    (∀ d a, Issues s c (.saddi d a) = true → Completes s c (.saddi d a) (RegisterEffect s c (.saddi d a))) ∧
    (∀ d a, Issues s c (.spchi d a) = true → Completes s c (.spchi d a) (RegisterEffect s c (.spchi d a))) ∧
    (∀ d a, Issues s c (.rcset d a) = true → Completes s c (.rcset d a) (RegisterEffect s c (.rcset d a))) ∧
    (∀ d, Issues s c (.widrd d) = true → Completes s c (.widrd d) (RegisterEffect s c (.widrd d))) ∧
    (∀ d a, Issues s c (.mtsc d a) = true → Completes s c (.mtsc d a) (RegisterEffect s c (.mtsc d a))) ∧
    (∀ d a b, Issues s c (.add d a b) = true → Completes s c (.add d a b) (RegisterEffect s c (.add d a b))) ∧
    (∀ d a b, Issues s c (.sub d a b) = true → Completes s c (.sub d a b) (RegisterEffect s c (.sub d a b))) ∧
    (∀ d a b, Issues s c (.mul d a b) = true → Completes s c (.mul d a b) (RegisterEffect s c (.mul d a b))) ∧
    (∀ d a b, Issues s c (.mulhi d a b) = true → Completes s c (.mulhi d a b) (RegisterEffect s c (.mulhi d a b))) ∧
    (∀ d a b, Issues s c (.fma d a b) = true → Completes s c (.fma d a b) (RegisterEffect s c (.fma d a b))) ∧
    (∀ d a b, Issues s c (.fms d a b) = true → Completes s c (.fms d a b) (RegisterEffect s c (.fms d a b))) ∧
    (∀ d a b, Issues s c (.fnma d a b) = true → Completes s c (.fnma d a b) (RegisterEffect s c (.fnma d a b))) ∧
    (∀ d a b, Issues s c (.min d a b) = true → Completes s c (.min d a b) (RegisterEffect s c (.min d a b))) ∧
    (∀ d a b, Issues s c (.max d a b) = true → Completes s c (.max d a b) (RegisterEffect s c (.max d a b))) ∧
    (∀ d a, Issues s c (.abs d a) = true → Completes s c (.abs d a) (RegisterEffect s c (.abs d a))) ∧
    (∀ d a, Issues s c (.neg d a) = true → Completes s c (.neg d a) (RegisterEffect s c (.neg d a))) ∧
    (∀ d a b, Issues s c (.cmpeq d a b) = true → Completes s c (.cmpeq d a b) (RegisterEffect s c (.cmpeq d a b))) ∧
    (∀ d a b, Issues s c (.cmpne d a b) = true → Completes s c (.cmpne d a b) (RegisterEffect s c (.cmpne d a b))) ∧
    (∀ d a b, Issues s c (.cmplt d a b) = true → Completes s c (.cmplt d a b) (RegisterEffect s c (.cmplt d a b))) ∧
    (∀ d a b, Issues s c (.cmple d a b) = true → Completes s c (.cmple d a b) (RegisterEffect s c (.cmple d a b))) ∧
    (∀ d a b, Issues s c (.cmpun d a b) = true → Completes s c (.cmpun d a b) (RegisterEffect s c (.cmpun d a b))) ∧
    (∀ d a b, Issues s c (.sel d a b) = true → Completes s c (.sel d a b) (RegisterEffect s c (.sel d a b))) ∧
    (∀ d a b, Issues s c (.addi d a b) = true → Completes s c (.addi d a b) (RegisterEffect s c (.addi d a b))) ∧
    (∀ d a, Issues s c (.movi d a) = true → Completes s c (.movi d a) (RegisterEffect s c (.movi d a))) ∧
    (∀ d a, Issues s c (.movhi d a) = true → Completes s c (.movhi d a) (RegisterEffect s c (.movhi d a))) ∧
    (∀ d a, Issues s c (.mov d a) = true → Completes s c (.mov d a) (RegisterEffect s c (.mov d a))) ∧
    (∀ d a b, Issues s c (.div d a b) = true → Completes s c (.div d a b) (RegisterEffect s c (.div d a b))) ∧
    (∀ d a b, Issues s c (.rem d a b) = true → Completes s c (.rem d a b) (RegisterEffect s c (.rem d a b))) ∧
    (∀ d a, Issues s c (.rcp d a) = true → Completes s c (.rcp d a) (RegisterEffect s c (.rcp d a))) ∧
    (∀ d a, Issues s c (.rsq d a) = true → Completes s c (.rsq d a) (RegisterEffect s c (.rsq d a))) ∧
    (∀ d a, Issues s c (.sqrt d a) = true → Completes s c (.sqrt d a) (RegisterEffect s c (.sqrt d a))) ∧
    (∀ d a, Issues s c (.exp2 d a) = true → Completes s c (.exp2 d a) (RegisterEffect s c (.exp2 d a))) ∧
    (∀ d a, Issues s c (.log2 d a) = true → Completes s c (.log2 d a) (RegisterEffect s c (.log2 d a))) ∧
    (∀ d a, Issues s c (.sinpi d a) = true → Completes s c (.sinpi d a) (RegisterEffect s c (.sinpi d a))) ∧
    (∀ d a, Issues s c (.cospi d a) = true → Completes s c (.cospi d a) (RegisterEffect s c (.cospi d a))) ∧
    (∀ d a b, Issues s c (.dot2 d a b) = true → Completes s c (.dot2 d a b) (RegisterEffect s c (.dot2 d a b))) ∧
    (∀ d a b, Issues s c (.dot4 d a b) = true → Completes s c (.dot4 d a b) (RegisterEffect s c (.dot4 d a b))) ∧
    (∀ d a, Issues s c (.floor d a) = true → Completes s c (.floor d a) (RegisterEffect s c (.floor d a))) ∧
    (∀ d a, Issues s c (.ceil d a) = true → Completes s c (.ceil d a) (RegisterEffect s c (.ceil d a))) ∧
    (∀ d a, Issues s c (.trunc d a) = true → Completes s c (.trunc d a) (RegisterEffect s c (.trunc d a))) ∧
    (∀ d a, Issues s c (.rint d a) = true → Completes s c (.rint d a) (RegisterEffect s c (.rint d a))) ∧
    (∀ d a, Issues s c (.fclass d a) = true → Completes s c (.fclass d a) (RegisterEffect s c (.fclass d a))) ∧
    (∀ d a b, Issues s c (.scaleb d a b) = true → Completes s c (.scaleb d a b) (RegisterEffect s c (.scaleb d a b))) ∧
    (∀ d a b, Issues s c (.copysign d a b) = true → Completes s c (.copysign d a b) (RegisterEffect s c (.copysign d a b))) ∧
    (∀ d a b, Issues s c (.absdiff d a b) = true → Completes s c (.absdiff d a b) (RegisterEffect s c (.absdiff d a b))) ∧
    (∀ d a, Issues s c (.cvt d a) = true → Completes s c (.cvt d a) (RegisterEffect s c (.cvt d a))) ∧
    (∀ d a b, Issues s c (.cvtp d a b) = true → Completes s c (.cvtp d a b) (RegisterEffect s c (.cvtp d a b))) ∧
    (∀ d a, Issues s c (.cvtq d a) = true → Completes s c (.cvtq d a) (RegisterEffect s c (.cvtq d a))) ∧
    (∀ d a, Issues s c (.unpklo d a) = true → Completes s c (.unpklo d a) (RegisterEffect s c (.unpklo d a))) ∧
    (∀ d a, Issues s c (.unpkhi d a) = true → Completes s c (.unpkhi d a) (RegisterEffect s c (.unpkhi d a))) ∧
    (∀ d a b, Issues s c (.cvtsc d a b) = true → Completes s c (.cvtsc d a b) (RegisterEffect s c (.cvtsc d a b))) ∧
    (∀ d, Issues s c (.seedUniform d) = true → Completes s c (.seedUniform d) (RegisterEffect s c (.seedUniform d))) ∧
    (∀ d, Issues s c (.seedPerLane d) = true → Completes s c (.seedPerLane d) (RegisterEffect s c (.seedPerLane d))) ∧
    (∀ d a b, Issues s c (.and d a b) = true → Completes s c (.and d a b) (RegisterEffect s c (.and d a b))) ∧
    (∀ d a b, Issues s c (.or d a b) = true → Completes s c (.or d a b) (RegisterEffect s c (.or d a b))) ∧
    (∀ d a b, Issues s c (.xor d a b) = true → Completes s c (.xor d a b) (RegisterEffect s c (.xor d a b))) ∧
    (∀ d a, Issues s c (.not d a) = true → Completes s c (.not d a) (RegisterEffect s c (.not d a))) ∧
    (∀ d a b, Issues s c (.shl d a b) = true → Completes s c (.shl d a b) (RegisterEffect s c (.shl d a b))) ∧
    (∀ d a b, Issues s c (.shr d a b) = true → Completes s c (.shr d a b) (RegisterEffect s c (.shr d a b))) ∧
    (∀ d a b, Issues s c (.sra d a b) = true → Completes s c (.sra d a b) (RegisterEffect s c (.sra d a b))) ∧
    (∀ d a b, Issues s c (.rotl d a b) = true → Completes s c (.rotl d a b) (RegisterEffect s c (.rotl d a b))) ∧
    (∀ d a b, Issues s c (.bfx d a b) = true → Completes s c (.bfx d a b) (RegisterEffect s c (.bfx d a b))) ∧
    (∀ d a b, Issues s c (.bfi d a b) = true → Completes s c (.bfi d a b) (RegisterEffect s c (.bfi d a b))) ∧
    (∀ d a, Issues s c (.popc d a) = true → Completes s c (.popc d a) (RegisterEffect s c (.popc d a))) ∧
    (∀ d a, Issues s c (.clz d a) = true → Completes s c (.clz d a) (RegisterEffect s c (.clz d a))) ∧
    (∀ d a, Issues s c (.brev d a) = true → Completes s c (.brev d a) (RegisterEffect s c (.brev d a))) ∧
    (∀ d a b, Issues s c (.ballot d a b) = true → Completes s c (.ballot d a b) (RegisterEffect s c (.ballot d a b))) ∧
    (∀ d a b, Issues s c (.shuf d a b) = true → Completes s c (.shuf d a b) (RegisterEffect s c (.shuf d a b))) ∧
    (∀ d a b, Issues s c (.shufx d a b) = true → Completes s c (.shufx d a b) (RegisterEffect s c (.shufx d a b))) ∧
    (∀ d a b, Issues s c (.lrot d a b) = true → Completes s c (.lrot d a b) (RegisterEffect s c (.lrot d a b))) ∧
    (∀ d a b, Issues s c (.bcast d a b) = true → Completes s c (.bcast d a b) (RegisterEffect s c (.bcast d a b))) ∧
    (∀ d a b, Issues s c (.vget d a b) = true → Completes s c (.vget d a b) (RegisterEffect s c (.vget d a b))) ∧
    (∀ d a b, Issues s c (.vset d a b) = true → Completes s c (.vset d a b) (RegisterEffect s c (.vset d a b))) ∧
    (∀ d a, Issues s c (.redadd d a) = true → Completes s c (.redadd d a) (RegisterEffect s c (.redadd d a))) ∧
    (∀ d a, Issues s c (.redmin d a) = true → Completes s c (.redmin d a) (RegisterEffect s c (.redmin d a))) ∧
    (∀ d a, Issues s c (.redmax d a) = true → Completes s c (.redmax d a) (RegisterEffect s c (.redmax d a))) ∧
    (∀ d, Issues s c (.laneid d) = true → Completes s c (.laneid d) (RegisterEffect s c (.laneid d)))

/-- SADD, SSUB, SMUL, SAND, SOR, SXOR, SSHL, SSHR, SSRA, SSLT, SSLTN, SSEQ, SMIN and SMAX complete and write s[d] with
the value of Table 3.5, as a wrapped 32-bit number, whatever the guard is. -/
def Obligations.ScalarArithmeticFollowsTheTable : Prop :=
  ∀ (s : State) (c : Crew) (d a b : BitVec 8),
    let x := c.getS a.toNat
    let y := c.getS b.toNat
    let n := y.toNat % 32
    (Issues s c (.sadd d a b) = true → Completes s c (.sadd d a b) (fun _ c' =>
      (c'.getS d.toNat).toNat = (x.toNat + y.toNat) % 2 ^ 32)) ∧
    (Issues s c (.ssub d a b) = true → Completes s c (.ssub d a b) (fun _ c' =>
      (c'.getS d.toNat).toNat = (x.toNat + (2 ^ 32 - y.toNat)) % 2 ^ 32)) ∧
    (Issues s c (.smul d a b) = true → Completes s c (.smul d a b) (fun _ c' =>
      (c'.getS d.toNat).toNat = x.toNat * y.toNat % 2 ^ 32)) ∧
    (Issues s c (.sand d a b) = true → Completes s c (.sand d a b) (fun _ c' =>
      ∀ j, (c'.getS d.toNat).getLsbD j = (x.getLsbD j && y.getLsbD j))) ∧
    (Issues s c (.sor d a b) = true → Completes s c (.sor d a b) (fun _ c' =>
      ∀ j, (c'.getS d.toNat).getLsbD j = (x.getLsbD j || y.getLsbD j))) ∧
    (Issues s c (.sxor d a b) = true → Completes s c (.sxor d a b) (fun _ c' =>
      ∀ j, (c'.getS d.toNat).getLsbD j = (x.getLsbD j ^^ y.getLsbD j))) ∧
    (Issues s c (.sshl d a b) = true → Completes s c (.sshl d a b) (fun _ c' =>
      (c'.getS d.toNat).toNat = x.toNat * 2 ^ n % 2 ^ 32)) ∧
    (Issues s c (.sshr d a b) = true → Completes s c (.sshr d a b) (fun _ c' =>
      (c'.getS d.toNat).toNat = x.toNat / 2 ^ n)) ∧
    (Issues s c (.ssra d a b) = true → Completes s c (.ssra d a b) (fun _ c' =>
      (c'.getS d.toNat).toInt = x.toInt / 2 ^ n)) ∧
    (Issues s c (.sslt d a b) = true → Completes s c (.sslt d a b) (fun _ c' =>
      c'.getS d.toNat = if x.toInt < y.toInt then 1 else 0)) ∧
    (Issues s c (.ssltn d a b) = true → Completes s c (.ssltn d a b) (fun _ c' =>
      c'.getS d.toNat = if x.toNat < y.toNat then 1 else 0)) ∧
    (Issues s c (.sseq d a b) = true → Completes s c (.sseq d a b) (fun _ c' =>
      c'.getS d.toNat = if x.toNat = y.toNat then 1 else 0)) ∧
    (Issues s c (.smin d a b) = true → Completes s c (.smin d a b) (fun _ c' =>
      (c'.getS d.toNat).toInt = min x.toInt y.toInt)) ∧
    (Issues s c (.smax d a b) = true → Completes s c (.smax d a b) (fun _ c' =>
      (c'.getS d.toNat).toInt = max x.toInt y.toInt))

/-- Exec answers a next state in which the crew in focus took the trap. -/
def TrapsWith (s : State) (c : Crew) (i : Instr) (pc : PcWord) (cause : Nat) (tval : DWord) : Prop :=
  ∃ t c', exec i s = .next t ∧ t.crews.get? s.fkey = some c' ∧ TookTrap c c' pc cause tval

/-- Exec answers a next state in which the crew in focus took the trap and nothing else happened (R36, R399): whatever the crew has outstanding
and what it holds beside the trap's registers is as it was, and where no trace is armed so is everything outside it. -/
def OnlyTraps (s : State) (c : Crew) (i : Instr) (pc : PcWord) (cause : Nat) (tval : DWord) : Prop :=
  ∃ t c', exec i s = .next t ∧ t.crews.get? s.fkey = some c' ∧ TookTrap c c' pc cause tval ∧
    { c' with frames := c.frames }.rest = c.rest ∧ (s.traces = [] → Still s t)

/-- SADD64 adds a pair, or a sign-extended single register when MODE.type is not 12 or 13, modulo 2^64; SMOVI writes the
sign-extended immediate, SMOVHI the immediate times 65,536, SADDI adds the sign-extended immediate modulo 2^32, and
SPCHI, whose odd destination traps ILLOP, writes the PC, which is the address of its own word, plus the sign-extended
immediate times 65,536 modulo 2^64. The last four have opcodes 0x10 to 0x13 with d in bits 23:16 and the immediate in
bits 15:0. -/
def Obligations.ScalarConstantsAndPairs : Prop :=
  ∀ (s : State) (c : Crew) (d a b : BitVec 8) (k : BitVec 16),
    (Issues s c (.sadd64 d a b) = true → Completes s c (.sadd64 d a b) (fun _ c' =>
      let y : Int := if modeType c.mode = 12 ∨ modeType c.mode = 13 then ((c.getSS b.toNat).toNat : Int) else (c.getS b.toNat).toInt
      ((c'.getSS d.toNat).toNat : Int) = (((c.getSS a.toNat).toNat : Int) + y) % 2 ^ 64)) ∧
    (Issues s c (.smovi d k) = true → Completes s c (.smovi d k) (fun _ c' => (c'.getS d.toNat).toInt = k.toInt)) ∧
    (Issues s c (.smovhi d k) = true → Completes s c (.smovhi d k) (fun _ c' => (c'.getS d.toNat).toNat = k.toNat * 65536)) ∧
    (Issues s c (.saddi d k) = true → Completes s c (.saddi d k) (fun _ c' =>
      ((c'.getS d.toNat).toNat : Int) = (((c.getS d.toNat).toNat : Int) + k.toInt) % 2 ^ 32)) ∧
    (Issues s c (.spchi d k) = true → Completes s c (.spchi d k) (fun _ c' =>
      ((c'.getSS d.toNat).toNat : Int) = ((c.pc.toNat : Int) + k.toInt * 65536) % 2 ^ 64)) ∧
    (Reaches s c = true → c.handles = true → d.toNat % 2 = 1 →
      TrapsWith s c (.spchi d k) c.pc 0x01 (((0x13 : BitVec 8) ++ d ++ k).zeroExtend 64)) ∧
    decode ((0x10 : BitVec 8) ++ d ++ k) = .ok (.smovi d k) ∧ decode ((0x11 : BitVec 8) ++ d ++ k) = .ok (.smovhi d k) ∧
    decode ((0x12 : BitVec 8) ++ d ++ k) = .ok (.saddi d k) ∧ decode ((0x13 : BitVec 8) ++ d ++ k) = .ok (.spchi d k)

/-- SETM writes exactly the MODE bits of the fields that fmask selects (bits 2:0, 3, 7:4, 11:8, 14:12 and 15 for fmask
bits 0 to 5), SETMX the MODEX bits of ftz, ascope and aord, every other bit keeps its value, and GETM writes MODEX ×
65,536 + MODE to s[d]. -/
def Obligations.ModeWritesAndReads : Prop :=
  ∀ (s : State) (c : Crew) (f : BitVec 6) (v : BitVec 16) (g : BitVec 3) (u : BitVec 6) (d : BitVec 8),
    (Issues s c (.setm f v) = true → Completes s c (.setm f v) (fun _ c' => c'.modex = c.modex ∧ ∀ j, j < 16 →
      c'.mode.getLsbD j = (let k := if j < 3 then 0 else if j = 3 then 1 else if j < 8 then 2 else if j < 12 then 3 else if j < 15 then 4 else 5
        if f.getLsbD k then v.getLsbD j else c.mode.getLsbD j))) ∧
    (Issues s c (.setmx g u) = true → Completes s c (.setmx g u) (fun _ c' => c'.mode = c.mode ∧ ∀ j, j < 16 →
      c'.modex.getLsbD j = (let k := if j = 0 then 0 else if j < 4 then 1 else 2
        if j < 6 ∧ g.getLsbD k then u.getLsbD j else c.modex.getLsbD j))) ∧
    (Issues s c (.getm d) = true → Completes s c (.getm d) (fun _ c' =>
      (c'.getS d.toNat).toNat = c.modex.toNat * 65536 + c.mode.toNat))

/-- In each active lane PLOG writes bit 2 × p[a] + p[b] of its table and SFROMP bit l of the pair; other lanes keep
their bits, and a write to p0 has no effect; PCOUNT counts the active lanes with p[a] = 1 and PTOS gives their bits, 0
elsewhere. -/
def Obligations.PredicateInstructionsFollowTheirLanes : Prop :=
  ∀ (s : State) (c : Crew) (d a b : BitVec 3) (f : BitVec 4) (e : BitVec 8),
    (Issues s c (.plog d a f b) = true → Completes s c (.plog d a f b) (fun _ c' => ∀ n, n < 8 → ∀ l, l < 64 →
      (c'.pred n).getLsbD l = if n = d.toNat ∧ n ≠ 0 ∧ c.active.getLsbD l then
        f.getLsbD ((if (c.pred a.toNat).getLsbD l then 2 else 0) + (if (c.pred b.toNat).getLsbD l then 1 else 0))
        else (c.pred n).getLsbD l)) ∧
    (Issues s c (.sfromp d e) = true → Completes s c (.sfromp d e) (fun _ c' => ∀ n, n < 8 → ∀ l, l < 64 →
      (c'.pred n).getLsbD l = if n = d.toNat ∧ n ≠ 0 ∧ c.active.getLsbD l then (c.getSS e.toNat).getLsbD l
        else (c.pred n).getLsbD l)) ∧
    (Issues s c (.pcount e a) = true → Completes s c (.pcount e a) (fun _ c' =>
      (c'.getS e.toNat).toNat = ((List.range 64).filter (fun l => c.active.getLsbD l && (c.pred a.toNat).getLsbD l)).length)) ∧
    (Issues s c (.ptos e a) = true → Completes s c (.ptos e a) (fun _ c' => ∀ l, l < 64 →
      (c'.getSS e.toNat).getLsbD l = (c.active.getLsbD l && (c.pred a.toNat).getLsbD l)))

/-- The address that lies `off` instruction words from the PC of a crew, modulo 2^57 (R35). -/
def wordsFrom (c : Crew) (off : Int) : PcWord := BitVec.ofInt 57 ((c.pc.toNat : Int) + 4 * off)

/-- A crew after an instruction that only places the PC: every register, mode, predicate, barrier, path and mask is as it was. -/
def OnlyMoved (s t : State) (c c' : Crew) : Prop :=
  c'.rest = c.rest ∧ c'.sreg = c.sreg ∧ c'.vreg = c.vreg ∧ ModesKept c c' ∧ (s.traces = [] → Still s t)

/-- BRA always, BRNZ and BRZ by s[a], BRANY when some active lane has p[a] = 1, BRALL when active is not empty and
every active lane has it: the PC takes PC + sext(offset) × 4 modulo 2^57, otherwise PC + 4; the path list, AM, LIVE
and every register keep their values. That a target across an end of the address space wraps is the model's choice
(log 63). -/
def Obligations.UniformBranchesMoveTheWholePath : Prop :=
  ∀ (s : State) (c : Crew) (o : BitVec 24) (k : BitVec 16) (d : BitVec 8) (p : BitVec 3),
    let some_ := ∃ l, l < 64 ∧ c.active.getLsbD l = true ∧ (c.pred p.toNat).getLsbD l = true
    let all_ := (∃ l, l < 64 ∧ c.active.getLsbD l = true) ∧ ∀ l, l < 64 → c.active.getLsbD l = true → (c.pred p.toNat).getLsbD l = true
    (Issues s c (.bra o) = true → CompletesAt s c (.bra o) (wordsFrom c o.toInt) (fun t c' => OnlyMoved s t c c')) ∧
    (Issues s c (.brnz d k) = true → CompletesAt s c (.brnz d k) (if c.getS d.toNat ≠ 0 then wordsFrom c k.toInt else c.pc + 4)
      (fun t c' => OnlyMoved s t c c')) ∧
    (Issues s c (.brz d k) = true → CompletesAt s c (.brz d k) (if c.getS d.toNat = 0 then wordsFrom c k.toInt else c.pc + 4)
      (fun t c' => OnlyMoved s t c c')) ∧
    (Issues s c (.brany p k) = true →
      (some_ → CompletesAt s c (.brany p k) (wordsFrom c k.toInt) (fun t c' => OnlyMoved s t c c')) ∧
      (¬ some_ → Completes s c (.brany p k) (fun t c' => OnlyMoved s t c c'))) ∧
    (Issues s c (.brall p k) = true →
      (all_ → CompletesAt s c (.brall p k) (wordsFrom c k.toInt) (fun t c' => OnlyMoved s t c c')) ∧
      (¬ all_ → Completes s c (.brall p k) (fun t c' => OnlyMoved s t c c')))

/-- CALL writes PC + 4 to s0:s1 and goes to its relative target; CALLR reads its target before it writes the link
pair; RET and JMPR go to s[a:a+1]. A target with bits 1:0 not zero traps MISALIGN and one at or above 2^57, or for
CALL below 0, traps ACCESS, with tval the target, and neither the link nor the PC is written. That CALL traps below 0
is the model's choice (log 63). -/
def Obligations.CallsAndReturnsPlaceThePc : Prop :=
  ∀ (s : State) (c : Crew) (o : BitVec 24) (d a : BitVec 8),
    let x := c.getSS a.toNat
    let good := x.toNat % 4 = 0 ∧ x.toNat < 2 ^ 57
    let far : Int := (c.pc.toNat : Int) + 4 * o.toInt
    (Issues s c (.call o) = true → c.pc.toNat % 4 = 0 → (far < 0 ∨ 2 ^ 57 ≤ far) → c.handles = true →
      TrapsWith s c (.call o) c.pc 0x03 (BitVec.ofInt 64 far)) ∧
    (Issues s c (.call o) = true → c.pc.toNat % 4 = 0 → 0 ≤ far → far < 2 ^ 57 → CompletesAt s c (.call o) (wordsFrom c o.toInt) (fun t c' => c'.rest = c.rest ∧
      ModesKept c c' ∧ c'.vreg = c.vreg ∧ c'.getSS 0 = (c.pc + 4).zeroExtend 64 ∧ (∀ r, 2 ≤ r → c'.getS r = c.getS r) ∧
      (s.traces = [] → Still s t))) ∧
    (Issues s c (.callr d a) = true → good → CompletesAt s c (.callr d a) (x.truncate 57) (fun t c' => c'.rest = c.rest ∧
      ModesKept c c' ∧ c'.vreg = c.vreg ∧ c'.getSS d.toNat = (c.pc + 4).zeroExtend 64 ∧
      (∀ r, r ≠ d.toNat → r ≠ d.toNat + 1 → c'.getS r = c.getS r) ∧ (s.traces = [] → Still s t))) ∧
    (Issues s c (.ret a) = true → good → CompletesAt s c (.ret a) (x.truncate 57) (fun t c' => OnlyMoved s t c c')) ∧
    (Issues s c (.jmpr a) = true → good → CompletesAt s c (.jmpr a) (x.truncate 57) (fun t c' => OnlyMoved s t c c')) ∧
    (¬ good → c.handles = true →
      let cause := if x.toNat % 4 ≠ 0 then 0x02 else 0x03
      (Issues s c (.callr d a) = true → TrapsWith s c (.callr d a) c.pc cause x) ∧
      (Issues s c (.ret a) = true → TrapsWith s c (.ret a) c.pc cause x) ∧
      (Issues s c (.jmpr a) = true → TrapsWith s c (.jmpr a) c.pc cause x))

/-- With no lane split BRDIV goes to its target or to PC + 4; otherwise it pushes PC + 4 with the lanes not taken, and
the taken lanes go to the target; with 8 entries on the list it traps PATH_OVF with the target as tval and the frame
holding the PC and AM of the BRDIV, the path list unchanged. How a target across an end of the address space is formed
is the model's choice (log 63). -/
def Obligations.DivergentBranchSplitsThePath : Prop :=
  ∀ (s : State) (c : Crew) (p : BitVec 3) (k : BitVec 16), Issues s c (.brdiv p k) = true →
    let taken := c.am &&& c.pred p.toNat
    let target := wordsFrom c k.toInt
    (taken = c.am → CompletesAt s c (.brdiv p k) target (fun t c' => OnlyMoved s t c c')) ∧
    (taken ≠ c.am → taken = 0 → Completes s c (.brdiv p k) (fun t c' => OnlyMoved s t c c')) ∧
    (taken ≠ c.am → taken ≠ 0 → c.paths.length < 8 → CompletesAt s c (.brdiv p k) target (fun t c' =>
      c'.paths = (c.pc + 4, c.am &&& ~~~taken) :: c.paths ∧ c'.am = taken ∧ c'.live = c.live ∧
      { c' with paths := c.paths, am := c.am }.rest = c.rest ∧ c'.sreg = c.sreg ∧ c'.vreg = c.vreg ∧ ModesKept c c' ∧
      (s.traces = [] → Still s t))) ∧
    (taken ≠ c.am → taken ≠ 0 → 8 ≤ c.paths.length → c.handles = true →
      TrapsWith s c (.brdiv p k) c.pc 0x07 (target.zeroExtend 64))

/-- RCSET sets mask to AM, arrived to 0 and resume to its target. RCWAIT by lanes outside the mask, or on a barrier with
no live lane, traps CONVERGE with tval a; otherwise its lanes arrive: when every live lane of the mask has arrived the
path takes those lanes at the resume PC and arrived is cleared; else the next path of the list runs; with no path left
it traps CONVERGE. How RCSET's target across an end of the address space is formed is the model's choice (log 63). -/
def Obligations.ReconvergenceJoinsAtTheBarrier : Prop :=
  (∀ (s : State) (c : Crew) (d : BitVec 3) (k : BitVec 16), Issues s c (.rcset d k) = true →
    Completes s c (.rcset d k) (fun _ c' => c'.bar d.toNat = ⟨c.am, 0, wordsFrom c k.toInt⟩ ∧
      (∀ n, n ≠ d.toNat → c'.bar n = c.bar n))) ∧
  (∀ (s : State) (c : Crew) (a : BitVec 3), Issues s c (.rcwait a) = true →
    let b := c.bar a.toNat
    let bad := c.am &&& ~~~b.mask ≠ 0 ∨ b.mask &&& c.live = 0
    let arrived := b.arrived ||| c.am
    let all_ := b.mask &&& c.live &&& ~~~arrived = 0
    (bad → c.handles = true → TrapsWith s c (.rcwait a) c.pc 0x06 (a.zeroExtend 64)) ∧
    (¬ bad → all_ → CompletesAt s c (.rcwait a) b.resume (fun _ c' => c'.am = b.mask &&& c.live ∧ c'.live = c.live ∧
      c'.paths = c.paths ∧ c'.bar a.toNat = { b with arrived := 0 } ∧ (∀ n, n ≠ a.toNat → c'.bar n = c.bar n) ∧
      c'.sreg = c.sreg ∧ c'.vreg = c.vreg ∧ c'.preds = c.preds ∧ c'.mode = c.mode)) ∧
    (¬ bad → ¬ all_ → ∀ pc m rest, c.paths = (pc, m) :: rest → CompletesAt s c (.rcwait a) pc (fun _ c' => c'.am = m ∧
      c'.live = c.live ∧ c'.paths = rest ∧ c'.bar a.toNat = { b with arrived := arrived } ∧
      (∀ n, n ≠ a.toNat → c'.bar n = c.bar n) ∧ c'.sreg = c.sreg ∧ c'.vreg = c.vreg ∧ c'.preds = c.preds ∧ c'.mode = c.mode)) ∧
    (¬ bad → ¬ all_ → c.paths = [] → c.handles = true → TrapsWith s c (.rcwait a) c.pc 0x06 (a.zeroExtend 64)))

/-- With a path on the list EXIT clears the lanes of AM from LIVE and takes the path's PC and mask. With none it traps
CONVERGE, changing nothing, when lanes stay live; otherwise, once no job or tile operation of the crew is left and no
peer is awaited, the crew retires and its slot is free. -/
def Obligations.ExitEndsTheLanesOfThePath : Prop :=
  ∀ (s : State) (c : Crew), Issues s c .exit = true →
    (∀ pc m rest, c.paths = (pc, m) :: rest → CompletesAt s c .exit pc (fun t c' => c'.live = c.live &&& ~~~c.am ∧ c'.am = m ∧
      c'.paths = rest ∧ { c' with live := c.live, am := c.am, paths := c.paths }.rest = c.rest ∧ c'.sreg = c.sreg ∧
      c'.vreg = c.vreg ∧ ModesKept c c' ∧ (s.traces = [] → Still s t))) ∧
    (c.paths = [] → c.live &&& ~~~c.am ≠ 0 → c.handles = true → TrapsWith s c .exit c.pc 0x06 (c.pc.zeroExtend 64)) ∧
    (c.paths = [] → c.live &&& ~~~c.am = 0 → s.hasJobs s.fkey = false → c.pend.all (fun p => !p.kind.isRemote) = true →
      (s.core s.focusCore).tileOps.all (fun o => decide (o.crew ≠ s.fkey)) = true → ∃ t, exec .exit s = .next t ∧ t.crews.get? s.fkey = none)

/-- Every word with opcode 0x57, 0x87, 0x97, 0xA0 to 0xA3, 0xAB, 0xAF, 0xBA, 0xBB, 0xCC to 0xCF, 0xD6, 0xD7 or 0xF2 to
0xFE decodes to the reserved form and traps ILLOP with the word in tval; 0xFF, UNDEF, does so whatever bits 23:0 hold;
and the word 0 is NOP. -/
def Obligations.ReservedOpcodesTrapIllop : Prop :=
  decode 0 = .ok .nop ∧
  (∀ w : Word, w.toNat / 2 ^ 24 ∈ [0x57, 0x87, 0x97, 0xA0, 0xA1, 0xA2, 0xA3, 0xAB, 0xAF, 0xBA, 0xBB, 0xCC, 0xCD, 0xCE, 0xCF, 0xD6, 0xD7,
      0xF2, 0xF3, 0xF4, 0xF5, 0xF6, 0xF7, 0xF8, 0xF9, 0xFA, 0xFB, 0xFC, 0xFD, 0xFE] →
    decode w = .ok (.reservedOpcode w) ∧
    ∀ (s : State) (c : Crew), Reaches s c = true → c.handles = true →
      TrapsWith s c (.reservedOpcode w) c.pc 0x01 (w.zeroExtend 64)) ∧
  (∀ u : BitVec 24, decode ((0xFF : BitVec 8) ++ u) = .ok (.undef u) ∧
    ∀ (s : State) (c : Crew), Reaches s c = true → c.handles = true →
      TrapsWith s c (.undef u) c.pc 0x01 (((0xFF : BitVec 8) ++ u).zeroExtend 64))

/-- For every instruction word and every crew that comes to it with a handler and a free frame: when a check fails the
trap of that check is taken and nothing else happens: no other register of the crew and nothing that it has outstanding
changes, and where no trace is armed nothing outside it but the counters and the recorder. ILLOP of a bad field or
register comes before PRIV, then ILLOP of the spatial mode, then MODE, then REGALLOC of the first failing field in the
order d, a, b, with its code and register, or its tile, in tval; PRIV is raised below the level that TLBI, CTXSV, CTXRS
or the system register needs. -/
def Obligations.FailedChecksTrapWithTheirCause : Prop :=
  (∀ (s : State) (c : Crew) (i : Instr) (cause : Nat) (tval : DWord), (encode i).isSome = true → isOperator i = false →
    Reaches s c = true → c.handles = true → checkIssue s c i = some (cause, tval) → OnlyTraps s c i c.pc cause tval) ∧
  (∀ (s : State) (c : Crew) (i : Instr),
    let fields := fieldsOk i && (operands c.mode i).all Opnd.ok
    let level := decide (levelNeeded i ≤ (s.ctx c.ctx).level)
    let spatial := spatialOk (s.spatialRole s.fkey) (spatialUse i)
    let modes := modeOk c.mode c.modex i
    let short := (operands c.mode i).find? (fun o => decide ((if o.vec then c.vregs else c.sregs) < o.reg + o.span))
    (fields = false → checkIssue s c i = some (0x01, i.word.zeroExtend 64)) ∧
    (fields = true → level = false → checkIssue s c i = some (0x15, i.word.zeroExtend 64)) ∧
    (fields = true → level = true → spatial = false → checkIssue s c i = some (0x01, i.word.zeroExtend 64)) ∧
    (fields = true → level = true → spatial = true → modes = false → checkIssue s c i = some (0x13, c.mode.zeroExtend 64)) ∧
    (fields = true → level = true → spatial = true → modes = true →
      (∀ o, short = some o → (∀ f t, tileField i = some (f, t) → c.tiles.getLsbD t = true ∨ o.field ≤ f) →
        checkIssue s c i = some (0x12, BitVec.ofNat 64 (o.field * 256 + o.reg))) ∧
      (∀ f t, tileField i = some (f, t) → c.tiles.getLsbD t = false → (∀ o, short = some o → f < o.field) →
        checkIssue s c i = some (0x12, BitVec.ofNat 64 (f * 256 + t))) ∧
      (short = none → (∀ f t, tileField i = some (f, t) → c.tiles.getLsbD t = true) → checkIssue s c i = none))) ∧
  (∀ d a b : BitVec 8, ∀ m t : BitVec 3, levelNeeded (.tlbi d a b) = 1 ∧ levelNeeded (.ctxsv d a b) = 2 ∧ levelNeeded (.ctxrs d a b) = 2 ∧
    levelNeeded (.sread d 0x012) = 1 ∧ levelNeeded (.swrite d 0x012) = 1 ∧ levelNeeded (.swrite d 0x015) = 2 ∧
    levelNeeded (.swrite d 0x000) = 0 ∧ tileField (.mzero t) = some (0, t.toNat) ∧ tileField (.mstore t a b) = some (0, t.toNat) ∧
    tileField (.mread d t b) = some (1, t.toNat) ∧ tileField (.mflags d t) = some (1, t.toNat) ∧
    tileField (.mma d a t m) = some (2, t.toNat))

/-- With a handler and a free frame, TRAP takes USER with tval imm16 and the frame PC the TRAP + 4; BRK takes BREAK with
tval imm16 and the frame PC the BRK itself, except when DBGCTL.brkhalt is 1, when the crew halts with its PC left at the
BRK. Either entry sets MODE to 0, MODEX to 6 and the PC to TVEC, and keeps AM, LIVE, the path list, the barriers and
every other register. -/
def Obligations.TrapAndBreakEnterTheHandler : Prop :=
  ∀ (s : State) (c : Crew) (k : BitVec 16),
    (Issues s c (.trap k) = true → c.handles = true → TrapsWith s c (.trap k) (c.pc + 4) 0x10 (k.zeroExtend 64)) ∧
    (Issues s c (.brk k) = true → (s.ctx c.ctx).dbgctl.getLsbD 1 = false → c.handles = true →
      TrapsWith s c (.brk k) c.pc 0x11 (k.zeroExtend 64)) ∧
    (Issues s c (.brk k) = true → (s.ctx c.ctx).dbgctl.getLsbD 1 = true → ∃ t c', exec (.brk k) s = .next t ∧
      t.crews.get? s.fkey = some c' ∧ c'.halted = true ∧ c'.pc = c.pc ∧ c'.frames = c.frames ∧ c'.sreg = c.sreg ∧
      c'.vreg = c.vreg ∧ c'.mode = c.mode)

/-- With no handler, or with four trap frames in use, TRAP takes no frame: its crew is frozen where it stands and issues
nothing more, and cause, tval and frames are with the foreman, with no handler those of the trap and otherwise cause
STACK_OVF with USER as its tval; no other crew, no task and no memory changes. The foreman's turn that ends the
escalation (its own step is the model's choice, log 101) does nothing while a job or tile operation of the crew is left,
other than a stream, and then the task is gone and every crew of it has left its slot. -/
def Obligations.TrapWithoutRoomEscalates : Prop :=
  (∀ (s : State) (c : Crew) (k : BitVec 16), Issues s c (.trap k) = true → (c.tvec = 0 ∨ 4 ≤ c.frames.length) →
    ∃ t c', exec (.trap k) s = .next t ∧ t.crews.get? s.fkey = some c' ∧ c'.frozen = true ∧ c'.canIssue = false ∧ c'.pc = c.pc ∧
      c'.frames = c.frames ∧ c'.sreg = c.sreg ∧ c'.vreg = c.vreg ∧ ModesKept c c' ∧
      t.escalations = s.escalations ++ [⟨s.fkey, c.task, if c.tvec = 0 then 0x10 else 0x14,
        if c.tvec = 0 then k.zeroExtend 64 else 0x10, c.frames⟩] ∧
      t.tasks = s.tasks ∧ t.mem = s.mem ∧ ∀ q, q ≠ s.fkey → t.crews.get? q = s.crews.get? q) ∧
  (∀ (s : State) (key : Nat) (e : Escalation) (rest : List Turn), s.agenda = .endFaulted key :: rest →
    s.escalations.find? (fun x => decide (x.key = key)) = some e →
    let busy := (s.core (key / 64)).jobs.any (fun j => decide (j.crew = key ∧ j.kind ≠ .stream)) ||
      (s.core (key / 64)).tileOps.any (fun o => decide (o.crew = key))
    (busy = true → step s = .next { s with agenda := rest }) ∧
    (busy = false → ∃ t, step s = .next t ∧ t.tasks.get? e.task = none ∧
      ∀ q c, s.crews.get? q = some c → c.task = e.task → t.crews.get? q = none))

/-- With a frame whose path count is that of the path list and a live lane left in its mask, TRAPRET takes the frame's
PC, its mask AND LIVE, its MODE and MODEX, and the frame is gone; with no lane left the next path of the list runs, or
the crew retires when none is live; a frame PC that is no multiple of 4 or lies at or above 2^57 traps with it as tval
(log 50); with no frame it traps ILLOP, and with another path count, or live lanes and no path to run, CONVERGE with its
own PC. -/
def Obligations.TrapReturnRestoresTheFrame : Prop :=
  ∀ (s : State) (c : Crew), Issues s c .trapret = true →
    (∀ f rest, c.frames = f :: rest → c.paths.length = bitsOf f.cause.toNat 11 8 →
      (f.mask &&& c.live ≠ 0 → f.pc.toNat % 4 = 0 → f.pc.toNat < 2 ^ 57 → ∃ t c', exec .trapret s = .next t ∧
        t.crews.get? s.fkey = some c' ∧ c'.pc = f.pc.truncate 57 ∧ c'.am = f.mask &&& c.live ∧
        c'.mode = f.mode.extractLsb' 0 16 ∧ c'.modex = f.mode.extractLsb' 16 16 ∧ c'.frames = rest ∧
        c'.issued = c.issued + 1 ∧ c'.live = c.live ∧ c'.paths = c.paths ∧ c'.sreg = c.sreg ∧ c'.vreg = c.vreg ∧
        c'.preds = c.preds ∧ c'.bars = c.bars ∧ c'.tvec = c.tvec) ∧
      (f.mask &&& c.live ≠ 0 → c.handles = true → (f.pc.toNat % 4 ≠ 0 → TrapsWith s c .trapret c.pc 0x02 f.pc) ∧
        (f.pc.toNat % 4 = 0 → 2 ^ 57 ≤ f.pc.toNat → TrapsWith s c .trapret c.pc 0x03 f.pc)) ∧
      (f.mask &&& c.live = 0 → ∀ pc m ps, c.paths = (pc, m) :: ps → ∃ t c', exec .trapret s = .next t ∧
        t.crews.get? s.fkey = some c' ∧ c'.pc = pc ∧ c'.am = m ∧ c'.paths = ps ∧ c'.frames = rest ∧
        c'.mode = f.mode.extractLsb' 0 16 ∧ c'.modex = f.mode.extractLsb' 16 16 ∧ c'.live = c.live) ∧
      (f.mask &&& c.live = 0 → c.paths = [] → c.live = 0 → s.hasJobs s.fkey = false →
        c.pend.all (fun p => !p.kind.isRemote) = true →
        (s.core s.focusCore).tileOps.all (fun o => decide (o.crew ≠ s.fkey)) = true → ∃ t, exec .trapret s = .next t ∧ t.crews.get? s.fkey = none) ∧
      (f.mask &&& c.live = 0 → c.paths = [] → c.live ≠ 0 → c.handles = true →
        TrapsWith s c .trapret c.pc 0x06 (c.pc.zeroExtend 64))) ∧
    (c.frames = [] → c.handles = true → TrapsWith s c .trapret c.pc 0x01 ((0xE5000000 : Word).zeroExtend 64)) ∧
    (∀ f rest, c.frames = f :: rest → c.paths.length ≠ bitsOf f.cause.toNat 11 8 → c.handles = true →
      TrapsWith s c .trapret c.pc 0x06 (c.pc.zeroExtend 64))

/-- The system registers as a crew reads them (Table 17.2, Table 18.5): number, whether it is a pair, and value. -/
def sysValues (s : State) (c : Crew) : List (Nat × Bool × DWord) :=
  let x := s.ctx c.ctx
  let top (f : Frame → DWord) : DWord := (c.frames.head?.map f).getD 0
  [(0x000, true, c.tvec), (0x001, false, BitVec.ofNat 64 c.frames.length), (0x002, true, top Frame.pc), (0x003, true, top Frame.mask),
    (0x004, false, top (fun f => f.mode.zeroExtend 64)), (0x005, false, top (fun f => f.cause.zeroExtend 64)), (0x006, true, top Frame.tval),
    (0x007, false, c.remstat.zeroExtend 64),
    (0x008, false, BitVec.ofNat 64 (s.focusSlot + 2 ^ 8 * s.focusCore + 2 ^ 16 * (c.task % 2 ^ 16))),
    (0x009, false, BitVec.ofNat 64 x.level), (0x00A, false, x.dbgctl.zeroExtend 64), (0x010, true, x.vaultbase), (0x011, true, x.poolbase),
    (0x012, true, x.ptroot), (0x013, false, x.migthr.zeroExtend 64), (0x014, false, BitVec.ofNat 64 (c.ctx % 2 ^ 16)),
    (0x015, false, x.tenant.zeroExtend 64), (0x016, true, x.migq), (0x017, false, x.migqht.zeroExtend 64),
    (0x018, false, x.migovf.zeroExtend 64), (0x020, false, (s.core s.focusCore).killdrop.zeroExtend 64),
    (0x030, false, x.cntctl.zeroExtend 64), (0x031, false, x.cntovf.zeroExtend 64), (0x032, false, x.capctl.zeroExtend 64),
    (0x033, true, c.path), (0x034, false, x.trcstat.zeroExtend 64)]

/-- The context registers that SWRITE writes from s[d] or s[d:d+1] (Table 17.2, Table 18.5): number, source, reserved bits, and the context
after the write. -/
def ctxWrites (x : Ctx) (w : Word) (p : DWord) : List (BitVec 16 × DWord × DWord × Ctx) :=
  let z : DWord := w.zeroExtend 64
  [(0x00A, z, 0xFFFFFFFC, { x with dbgctl := w }), (0x010, p, 0xFE0000003FFFFFFE, { x with vaultbase := p }),
    (0x011, p, 0xFE00000003FFFFFE, { x with poolbase := p }), (0x012, p, 0xFFF0000000001FFF, { x with ptroot := p }),
    (0x013, z, 0xFFFF0000, { x with migthr := w }), (0x015, z, 0xFFFFF000, { x with tenant := w }),
    (0x016, p, 0xFE00000000000FF0, { x with migq := p }),
    (0x017, z, 0, { x with migqht := x.migqht.extractLsb' 16 16 ++ w.extractLsb' 0 16 }),
    (0x030, z, 0xFFFFFFFE, { x with cntctl := w }), (0x031, z, 0xFFFFF800, { x with cntovf := x.cntovf &&& ~~~w }),
    (0x032, z, 0xFFFFFFFE, { x with capctl := w })]

/-- SREAD of each register of Tables 17.2 and 18.5 gives its value, in a pair for a 64-bit register, and a read of
MIGOVF clears it. SWRITE of TVEC, TF_PC, TF_MODE and REMSTAT changes that crew register alone, without a frame TF_PC and
TF_MODE trap ILLOP, and SWRITE of DBGCTL, VAULTBASE, POOLBASE, PTROOT, MIGTHR, TENANT, MIGQ, MIGQHT, CNTCTL, CNTOVF and
CAPCTL changes that register of the crew's context alone where no access is outstanding, MIGQHT in its head alone and
CNTOVF by clearing the bits written as 1 (and but for what the counters overflow meanwhile, R433); a nonzero reserved
bit traps ILLOP with nothing else changed. That MIGQ takes a log2 of 1 to 3 is the model's choice (log 104), and that a
written TF_PC is not checked is its reading (log 50). -/
def Obligations.SystemRegistersReadAndWrite : Prop :=
  ∀ (s : State) (c : Crew) (d : BitVec 8) (n : BitVec 16),
    (Issues s c (.sread d n) = true → ∃ wide v, (n.toNat, wide, v) ∈ sysValues s c ∧ Completes s c (.sread d n) (fun t c' =>
      (wide = true → c'.getSS d.toNat = v) ∧ (wide = false → c'.getS d.toNat = v.truncate 32) ∧
      (∀ r, r ≠ d.toNat → wide = false ∨ r ≠ d.toNat + 1 → c'.getS r = c.getS r) ∧ c'.rest = c.rest ∧ c'.vreg = c.vreg ∧
      ModesKept c c' ∧ Still s t ∧ (n = 0x018 → (t.ctx c.ctx).migovf = 0))) ∧
    (let w := c.getS d.toNat
     let p := c.getSS d.toNat
     let kept (t : State) (c' : Crew) : Prop := c'.sreg = c.sreg ∧ c'.vreg = c.vreg ∧ ModesKept c c' ∧ Still s t
     let illop : Prop := OnlyTraps s c (.swrite d n) c.pc 0x01 (((0xE7 : BitVec 8) ++ d ++ n).zeroExtend 64)
     Issues s c (.swrite d n) = true →
      (n = 0x000 → (p &&& 0xFE00000000000003 ≠ 0 → c.handles = true → illop) ∧
        (p &&& 0xFE00000000000003 = 0 → Completes s c (.swrite d n) (fun t c' => c'.tvec = p ∧
          { c' with tvec := c.tvec }.rest = c.rest ∧ kept t c'))) ∧
      (n = 0x007 → Completes s c (.swrite d n) (fun t c' => c'.remstat = 0 ∧ { c' with remstat := c.remstat }.rest = c.rest ∧
        kept t c')) ∧
      (n = 0x002 ∨ n = 0x004 → c.frames = [] → c.handles = true → illop) ∧
      (n = 0x004 → w &&& 0xFFC00000 ≠ 0 → c.handles = true → illop) ∧
      (∀ f rest, c.frames = f :: rest → n = 0x002 ∨ (n = 0x004 ∧ w &&& 0xFFC00000 = 0) → ∃ t c', exec (.swrite d n) s = .next t ∧
        t.crews.get? s.fkey = some c' ∧ c'.pc = c.pc + 4 ∧ c'.issued = c.issued + 1 ∧ c'.waiting = none ∧ kept t c' ∧
        c'.frames = (if n = 0x002 then { f with pc := p } else { f with mode := w }) :: rest ∧
        { c' with frames := c.frames }.rest = c.rest) ∧
      (∀ v reserved y, (n, v, reserved, y) ∈ ctxWrites (s.ctx c.ctx) w p →
        (v &&& reserved ≠ 0 → c.handles = true → illop) ∧
        (v &&& reserved = 0 → Completes s c (.swrite d n) (fun t c' => ModesKept c c' ∧
          (c.pend = [] → c'.sreg = c.sreg ∧ c'.vreg = c.vreg) ∧
          ((s.ctxs.get? c.ctx).isSome = true → (∀ k q, s.crews.get? k = some q → q.pend = []) → (∀ k, (s.core k).replies = []) →
            { t.ctx c.ctx with cntovf := 0 } = { y with cntovf := 0 } ∧
            (∀ k, k ≠ c.ctx → { t.ctx k with cntovf := 0 } = { s.ctx k with cntovf := 0 }) ∧
            ((∀ k, ((s.core s.focusCore).ctrs.getD k Counter.zero).count < 2 ^ 47) → (t.ctx c.ctx).cntovf = y.cntovf))))))

/-- CLOCK writes the time base to its pair and changes nothing else; HALT only advances the PC when DBGCTL.halten is 0,
and otherwise stops the crew at PC + 4; TLBI of the crew's own context by kinds 0 and 1, and at level 2 of any context
by any kind, completes and leaves no held translation of the kind it names in any core TLB, die TLB or last-page
register of any crew; at level 1 kinds 2 and 3 and other contexts trap PRIV, and a context number of 2^16 or more traps
ILLOP. -/
def Obligations.ClockHaltAndTlbiComplete : Prop :=
  ∀ (s : State) (c : Crew) (d a b : BitVec 8),
    let cn := (c.getS b.toNat).toNat
    let gone (e : TlbEntry) : Prop := tlbiHits d.toNat cn (c.getSS a.toNat).toNat e = false
    (Issues s c (.clock d) = true → Completes s c (.clock d) (fun t c' => c'.getSS d.toNat = BitVec.ofNat 64 s.clock ∧
      (∀ r, r ≠ d.toNat → r ≠ d.toNat + 1 → c'.getS r = c.getS r) ∧ c'.rest = c.rest ∧ c'.vreg = c.vreg ∧ ModesKept c c' ∧ Still s t)) ∧
    (Issues s c .halt = true → (s.ctx c.ctx).dbgctl.getLsbD 0 = false → Completes s c .halt (fun t c' => OnlyMoved s t c c')) ∧
    (Issues s c .halt = true → (s.ctx c.ctx).dbgctl.getLsbD 0 = true → Completes s c .halt (fun _ c' => c'.halted = true ∧
      c'.sreg = c.sreg ∧ c'.vreg = c.vreg ∧ ModesKept c c')) ∧
    (Issues s c (.tlbi d a b) = true → cn < 2 ^ 16 → 2 ≤ (s.ctx c.ctx).level ∨ (d.toNat < 2 ∧ cn = c.ctx) →
      Completes s c (.tlbi d a b) (fun t c' => ModesKept c c' ∧ (c.pend = [] → c'.sreg = c.sreg ∧ c'.vreg = c.vreg) ∧
        (∀ n e, e ∈ (t.core n).tlb → gone e) ∧ (∀ n e, e ∈ (t.die n).tlb → gone e) ∧
        (∀ k q, t.crews.get? k = some q → ∀ e ∈ q.lastPage, gone e.2))) ∧
    (Issues s c (.tlbi d a b) = true → cn < 2 ^ 16 → (s.ctx c.ctx).level < 2 → (2 ≤ d.toNat ∨ cn ≠ c.ctx) → c.handles = true →
      OnlyTraps s c (.tlbi d a b) c.pc 0x15 (((0xEF : BitVec 8) ++ d ++ a ++ b).zeroExtend 64)) ∧
    (Issues s c (.tlbi d a b) = true → 2 ^ 16 ≤ cn → c.handles = true →
      OnlyTraps s c (.tlbi d a b) c.pc 0x01 (((0xEF : BitVec 8) ++ d ++ a ++ b).zeroExtend 64))

/-- The crew is as it was but for the PC, the accesses it has outstanding, and the translations its lanes hold. -/
def OnlyIssued (c c' : Crew) : Prop :=
  { c' with pend := c.pend, lastPage := c.lastPage }.rest = c.rest ∧ c'.sreg = c.sreg ∧ c'.vreg = c.vreg ∧ ModesKept c c'

/-- The lanes of active with the addresses v[a:a+1][l] + sext(imm8) × size, modulo 2^64 (R146, R150). -/
def laneVas (c : Crew) (a : Nat) (k : Int) (size : Nat) : List (Nat × Nat) :=
  ((List.range 64).filter (fun l => c.active.getLsbD l)).map (fun l =>
    (l, ((((c.getVV a l).toNat : Int) + k * size) % 2 ^ 64).toNat))

/-- The lanes of active with the addresses s[a:a+1] + zext(v[b][l]) × 4, modulo 2^64 (R151). -/
def indexedVas (c : Crew) (a b : Nat) : List (Nat × Nat) :=
  ((List.range 64).filter (fun l => c.active.getLsbD l)).map (fun l => (l, ((c.getSS a).toNat + (c.getV b l).toNat * 4) % 2 ^ 64))

/-- The vector loads: destination, bytes and lane addresses. -/
def vectorLoad (c : Crew) (i : Instr) : Option (Nat × Nat × List (Nat × Nat)) :=
  match i with
  | .ldb d a k => some (d.toNat, 1, laneVas c a.toNat k.toInt 1)
  | .ldh d a k => some (d.toNat, 2, laneVas c a.toNat k.toInt 2)
  | .ldw d a k => some (d.toNat, 4, laneVas c a.toNat k.toInt 4)
  | .ldd d a k => some (d.toNat, 8, laneVas c a.toNat k.toInt 8)
  | .ldq d a k => some (d.toNat, 16, laneVas c a.toNat k.toInt 16)
  | .ldx d a b => some (d.toNat, 4, indexedVas c a.toNat b.toNat)
  | _ => none

/-- The vector stores: data register, bytes and lane addresses. -/
def vectorStore (c : Crew) (i : Instr) : Option (Nat × Nat × List (Nat × Nat)) :=
  match i with
  | .stb d a k => some (d.toNat, 1, laneVas c a.toNat k.toInt 1)
  | .sth d a k => some (d.toNat, 2, laneVas c a.toNat k.toInt 2)
  | .stw d a k => some (d.toNat, 4, laneVas c a.toNat k.toInt 4)
  | .std d a k => some (d.toNat, 8, laneVas c a.toNat k.toInt 8)
  | .stq d a k => some (d.toNat, 16, laneVas c a.toNat k.toInt 16)
  | .stx d a b => some (d.toNat, 4, indexedVas c a.toNat b.toNat)
  | _ => none

/-- The scalar loads: destination, bytes and address s[a:a+1] + sext(imm8) × size (R152). -/
def scalarLoad (c : Crew) (i : Instr) : Option (Nat × Nat × Nat) :=
  match i with
  | .sld d a k => some (d.toNat, 4, ((((c.getSS a.toNat).toNat : Int) + k.toInt * 4) % 2 ^ 64).toNat)
  | .sld64 d a k => some (d.toNat, 8, ((((c.getSS a.toNat).toNat : Int) + k.toInt * 8) % 2 ^ 64).toNat)
  | _ => none

/-- The scalar stores: data register, bytes and address (R152). -/
def scalarStore (c : Crew) (i : Instr) : Option (Nat × Nat × Nat) :=
  match i with
  | .sst d a k => some (d.toNat, 4, ((((c.getSS a.toNat).toNat : Int) + k.toInt * 4) % 2 ^ 64).toNat)
  | .sst64 d a k => some (d.toNat, 8, ((((c.getSS a.toNat).toNat : Int) + k.toInt * 8) % 2 ^ 64).toNat)
  | _ => none

/-- The low `size` bytes of the vector registers from v[d] on, in lane `l`, as a number. -/
def laneData (c : Crew) (d size l : Nat) : Nat :=
  ((c.getV d l).toNat + (c.getV (d + 1) l).toNat * 2 ^ 32 + (c.getV (d + 2) l).toNat * 2 ^ 64 + (c.getV (d + 3) l).toNat * 2 ^ 96) %
    2 ^ (8 * size)

/-- What stands outstanding once a load has completed: nothing new without an active lane, otherwise one access with every lane's address and
place, or for 16 bytes two of 8 bytes each, the aligned halves, which may be performed apart (R154). -/
def LoadLeaves (c c' : Crew) (dst size : Nat) (sx : Bool) (xs : List LaneXlat) : Prop :=
  if xs = [] then c'.pend = c.pend
  else if size = 16 then ∃ p q : Pend, c'.pend = c.pend ++ [p, q] ∧ p.size = 8 ∧ q.size = 8 ∧ p.kind = .load dst false false ∧
    q.kind = .load (dst + 2) false false ∧ p.accs.map (fun x : LaneAcc => (x.lane, x.va, x.loc)) = xs.map (fun x : LaneXlat => (x.lane, x.va, x.loc)) ∧
    q.accs.map (fun x : LaneAcc => (x.lane, x.va, x.loc)) = xs.map (fun x : LaneXlat => (x.lane, x.va + 8, ⟨x.loc.idx + 8, x.loc.cached⟩))
  else ∃ p : Pend, c'.pend = c.pend ++ [p] ∧ p.size = size ∧ p.kind = .load dst sx false ∧
    p.accs.map (fun x : LaneAcc => (x.lane, x.va, x.loc)) = xs.map (fun x : LaneXlat => (x.lane, x.va, x.loc))

/-- What stands outstanding once a store has completed, as for a load, each lane with the low bytes of its data registers. -/
def StoreLeaves (c c' : Crew) (src size : Nat) (xs : List LaneXlat) : Prop :=
  if xs = [] then c'.pend = c.pend
  else if size = 16 then ∃ p q : Pend, c'.pend = c.pend ++ [p, q] ∧ p.size = 8 ∧ q.size = 8 ∧ p.kind = .store ∧ q.kind = .store ∧
    p.accs.map (fun x : LaneAcc => (x.lane, x.va, x.loc)) = xs.map (fun x : LaneXlat => (x.lane, x.va, x.loc)) ∧
    q.accs.map (fun x : LaneAcc => (x.lane, x.va, x.loc)) = xs.map (fun x : LaneXlat => (x.lane, x.va + 8, ⟨x.loc.idx + 8, x.loc.cached⟩)) ∧
    (∀ x ∈ p.accs, x.data % 2 ^ 64 = laneData c src 8 x.lane) ∧ (∀ x ∈ q.accs, x.data % 2 ^ 64 = laneData c (src + 2) 8 x.lane)
  else ∃ p : Pend, c'.pend = c.pend ++ [p] ∧ p.size = size ∧ p.kind = .store ∧
    p.accs.map (fun x : LaneAcc => (x.lane, x.va, x.loc)) = xs.map (fun x : LaneXlat => (x.lane, x.va, x.loc)) ∧
    ∀ x ∈ p.accs, x.data % 2 ^ (8 * size) = laneData c src size x.lane

/-- LDB, LDH, LDW, LDD, LDQ and STB, STH, STW, STD, STQ compute v[a:a+1][l] + sext(imm8) × size, LDX and STX s[a:a+1] +
zext(v[b][l]) × 4, in each active lane, SLD, SLD64, SST and SST64 one address for the crew. Where the classification of
Table 7.3 lets every lane go, exec answers a next state in which the instruction has completed, and one access, or for
16 bytes one for each aligned half, stands outstanding with those lanes, their places, the destination, and for a store
the low bytes of the data registers; no register and no byte of memory changes until the access is performed. -/
def Obligations.LoadsAndStoresBecomeOutstanding : Prop :=
  (∀ (s s2 : State) (c : Crew) (d a b k : BitVec 8) (xs : List LaneXlat),
    (Issues s c (.ldb d a k) = true →
      s.classify s.focusCore (some s.fkey) c.ctx 1 .read true (laneVas c a.toNat k.toInt 1) = (.go xs [], s2) →
      Completes s c (.ldb d a k) (fun t c' => OnlyIssued c c' ∧ t.mem = s.mem ∧ xs.map (fun x => (x.lane, x.va)) = laneVas c a.toNat k.toInt 1 ∧
        LoadLeaves c c' d.toNat 1 (decide (modeType c.mode ∈ [0, 3, 7, 12])) xs)) ∧
    (Issues s c (.ldh d a k) = true →
      s.classify s.focusCore (some s.fkey) c.ctx 2 .read true (laneVas c a.toNat k.toInt 2) = (.go xs [], s2) →
      Completes s c (.ldh d a k) (fun t c' => OnlyIssued c c' ∧ t.mem = s.mem ∧ xs.map (fun x => (x.lane, x.va)) = laneVas c a.toNat k.toInt 2 ∧
        LoadLeaves c c' d.toNat 2 (decide (modeType c.mode ∈ [0, 3, 7, 12])) xs)) ∧
    (Issues s c (.ldw d a k) = true →
      s.classify s.focusCore (some s.fkey) c.ctx 4 .read true (laneVas c a.toNat k.toInt 4) = (.go xs [], s2) →
      Completes s c (.ldw d a k) (fun t c' => OnlyIssued c c' ∧ t.mem = s.mem ∧ xs.map (fun x => (x.lane, x.va)) = laneVas c a.toNat k.toInt 4 ∧
        LoadLeaves c c' d.toNat 4 false xs)) ∧
    (Issues s c (.ldd d a k) = true →
      s.classify s.focusCore (some s.fkey) c.ctx 8 .read true (laneVas c a.toNat k.toInt 8) = (.go xs [], s2) →
      Completes s c (.ldd d a k) (fun t c' => OnlyIssued c c' ∧ t.mem = s.mem ∧ xs.map (fun x => (x.lane, x.va)) = laneVas c a.toNat k.toInt 8 ∧
        LoadLeaves c c' d.toNat 8 false xs)) ∧
    (Issues s c (.ldq d a k) = true →
      s.classify s.focusCore (some s.fkey) c.ctx 16 .read true (laneVas c a.toNat k.toInt 16) = (.go xs [], s2) →
      Completes s c (.ldq d a k) (fun t c' => OnlyIssued c c' ∧ t.mem = s.mem ∧ xs.map (fun x => (x.lane, x.va)) = laneVas c a.toNat k.toInt 16 ∧
        LoadLeaves c c' d.toNat 16 false xs)) ∧
    (Issues s c (.ldx d a b) = true →
      s.classify s.focusCore (some s.fkey) c.ctx 4 .read true (indexedVas c a.toNat b.toNat) = (.go xs [], s2) →
      Completes s c (.ldx d a b) (fun t c' => OnlyIssued c c' ∧ t.mem = s.mem ∧ xs.map (fun x => (x.lane, x.va)) = indexedVas c a.toNat b.toNat ∧
        LoadLeaves c c' d.toNat 4 false xs)) ∧
    (Issues s c (.stb d a k) = true →
      s.classify s.focusCore (some s.fkey) c.ctx 1 .write false (laneVas c a.toNat k.toInt 1) = (.go xs [], s2) →
      Completes s c (.stb d a k) (fun t c' => OnlyIssued c c' ∧ t.mem = s.mem ∧ xs.map (fun x => (x.lane, x.va)) = laneVas c a.toNat k.toInt 1 ∧
        StoreLeaves c c' d.toNat 1 xs)) ∧
    (Issues s c (.sth d a k) = true →
      s.classify s.focusCore (some s.fkey) c.ctx 2 .write false (laneVas c a.toNat k.toInt 2) = (.go xs [], s2) →
      Completes s c (.sth d a k) (fun t c' => OnlyIssued c c' ∧ t.mem = s.mem ∧ xs.map (fun x => (x.lane, x.va)) = laneVas c a.toNat k.toInt 2 ∧
        StoreLeaves c c' d.toNat 2 xs)) ∧
    (Issues s c (.stw d a k) = true →
      s.classify s.focusCore (some s.fkey) c.ctx 4 .write false (laneVas c a.toNat k.toInt 4) = (.go xs [], s2) →
      Completes s c (.stw d a k) (fun t c' => OnlyIssued c c' ∧ t.mem = s.mem ∧ xs.map (fun x => (x.lane, x.va)) = laneVas c a.toNat k.toInt 4 ∧
        StoreLeaves c c' d.toNat 4 xs)) ∧
    (Issues s c (.std d a k) = true →
      s.classify s.focusCore (some s.fkey) c.ctx 8 .write false (laneVas c a.toNat k.toInt 8) = (.go xs [], s2) →
      Completes s c (.std d a k) (fun t c' => OnlyIssued c c' ∧ t.mem = s.mem ∧ xs.map (fun x => (x.lane, x.va)) = laneVas c a.toNat k.toInt 8 ∧
        StoreLeaves c c' d.toNat 8 xs)) ∧
    (Issues s c (.stq d a k) = true →
      s.classify s.focusCore (some s.fkey) c.ctx 16 .write false (laneVas c a.toNat k.toInt 16) = (.go xs [], s2) →
      Completes s c (.stq d a k) (fun t c' => OnlyIssued c c' ∧ t.mem = s.mem ∧ xs.map (fun x => (x.lane, x.va)) = laneVas c a.toNat k.toInt 16 ∧
        StoreLeaves c c' d.toNat 16 xs)) ∧
    (Issues s c (.stx d a b) = true →
      s.classify s.focusCore (some s.fkey) c.ctx 4 .write false (indexedVas c a.toNat b.toNat) = (.go xs [], s2) →
      Completes s c (.stx d a b) (fun t c' => OnlyIssued c c' ∧ t.mem = s.mem ∧ xs.map (fun x => (x.lane, x.va)) = indexedVas c a.toNat b.toNat ∧
        StoreLeaves c c' d.toNat 4 xs))) ∧
  (∀ (s s2 : State) (c : Crew) (d a k : BitVec 8) (x : LaneXlat),
    let va (size : Nat) : Nat := ((((c.getSS a.toNat).toNat : Int) + k.toInt * size) % 2 ^ 64).toNat
    (Issues s c (.sld d a k) = true → s.classify s.focusCore none c.ctx 4 .read true [(0, va 4)] = (.go [x] [], s2) →
      Completes s c (.sld d a k) (fun t c' => OnlyIssued c c' ∧ t.mem = s.mem ∧ ∃ p : Pend, c'.pend = c.pend ++ [p] ∧ p.size = 4 ∧
        p.kind = .sload d.toNat ∧ p.accs.map (fun y : LaneAcc => (y.va, y.loc)) = [(va 4, x.loc)])) ∧
    (Issues s c (.sld64 d a k) = true → s.classify s.focusCore none c.ctx 8 .read true [(0, va 8)] = (.go [x] [], s2) →
      Completes s c (.sld64 d a k) (fun t c' => OnlyIssued c c' ∧ t.mem = s.mem ∧ ∃ p : Pend, c'.pend = c.pend ++ [p] ∧ p.size = 8 ∧
        p.kind = .sload d.toNat ∧ p.accs.map (fun y : LaneAcc => (y.va, y.loc)) = [(va 8, x.loc)])) ∧
    (Issues s c (.sst d a k) = true → s.classify s.focusCore none c.ctx 4 .write false [(0, va 4)] = (.go [x] [], s2) →
      Completes s c (.sst d a k) (fun t c' => OnlyIssued c c' ∧ t.mem = s.mem ∧ ∃ p : Pend, c'.pend = c.pend ++ [p] ∧ p.size = 4 ∧
        p.kind = .store ∧ p.accs.map (fun y : LaneAcc => (y.va, y.loc, y.data)) = [(va 4, x.loc, (c.getS d.toNat).toNat)])) ∧
    (Issues s c (.sst64 d a k) = true → s.classify s.focusCore none c.ctx 8 .write false [(0, va 8)] = (.go [x] [], s2) →
      Completes s c (.sst64 d a k) (fun t c' => OnlyIssued c c' ∧ t.mem = s.mem ∧ ∃ p : Pend, c'.pend = c.pend ++ [p] ∧ p.size = 8 ∧
        p.kind = .store ∧ p.accs.map (fun y : LaneAcc => (y.va, y.loc, y.data)) = [(va 8, x.loc, (c.getSS d.toNat).toNat)])))

/-- The crew took the trap in place: what it has outstanding is as it was, and where no trace is armed memory and every other crew are too. -/
def TrapsInPlace (s : State) (c : Crew) (i : Instr) (cause : Nat) (tval : DWord) : Prop :=
  ∃ t c', exec i s = .next t ∧ t.crews.get? s.fkey = some c' ∧ TookTrap c c' c.pc cause tval ∧ c'.pend = c.pend ∧
    (s.traces = [] → t.mem = s.mem ∧ t.tasks = s.tasks ∧ t.regions = s.regions ∧ ∀ k, k ≠ s.fkey → t.crews.get? k = s.crews.get? k)

/-- The crew is parked at its instruction with the replay mask `m` on the pages of `zs`, none of them answered; no register of it and no byte
of memory changed. -/
def ParksOn (s : State) (c : Crew) (i : Instr) (m : Nat → Bool) (zs : List LaneXlat) (P : State → Crew → Prop) : Prop :=
  ∃ t c' q, exec i s = .next t ∧ t.crews.get? s.fkey = some c' ∧ c'.pc = c.pc ∧ c'.park = some q ∧
    (∀ l, l < 64 → q.mask.getLsbD l = m l) ∧ (∀ z ∈ zs, z.va / 2 ^ 17 * 2 ^ 17 ∈ q.pages.map ParkPage.va) ∧
    q.pages.all (fun g => decide (g.answer = 0)) = true ∧ c'.sreg = c.sreg ∧ c'.vreg = c.vreg ∧ t.mem = s.mem ∧ P t c'

/-- A misaligned lane is reported before any other condition, with the address of the lowest such lane. Where the
classification traps, the load or store traps with that cause and address and nothing else happens: what the crew has
outstanding is as it was, and where no trace is armed so are memory and every other crew. Where some lanes' pages are
absent and can be served, the crew parks at the instruction with those lanes as its replay mask, a scalar one with AM,
and their pages reported, and the other lanes' accesses stand outstanding. -/
def Obligations.AccessesTrapOrParkAsTheyAreClassified : Prop :=
  (∀ (s : State) (core cn size : Nat) (key : Option Nat) (need : Need) (ld : Bool) (lanes : List (Nat × Nat)) (x : Nat × Nat),
    lanes.find? (fun l => decide (l.2 % size ≠ 0)) = some x →
    s.classify core key cn size need ld lanes = (.trap 0x02 (BitVec.ofNat 64 x.2), s)) ∧
  (∀ (s s2 : State) (c : Crew) (i : Instr) (r size : Nat) (lanes : List (Nat × Nat)) (ld : Bool),
    (if ld then vectorLoad c i else vectorStore c i) = some (r, size, lanes) → Issues s c i = true →
    (∀ cause tval, s.classify s.focusCore (some s.fkey) c.ctx size (if ld then .read else .write) ld lanes = (.trap cause tval, s2) →
      c.handles = true → TrapsInPlace s c i cause tval) ∧
    (∀ xs y ys, s.classify s.focusCore (some s.fkey) c.ctx size (if ld then .read else .write) ld lanes = (.go xs (y :: ys), s2) →
      ParksOn s c i (fun l => (y :: ys).any (fun z => decide (z.lane = l))) (y :: ys) (fun _ c' =>
        (xs = [] → c'.pend = c.pend) ∧ (xs ≠ [] → ∃ ps, c'.pend = c.pend ++ ps ∧ ps ≠ [] ∧
          ∀ p ∈ ps, p.accs.map (fun a : LaneAcc => a.lane) = xs.map LaneXlat.lane)))) ∧
  (∀ (s s2 : State) (c : Crew) (i : Instr) (r size va : Nat) (ld : Bool),
    (if ld then scalarLoad c i else scalarStore c i) = some (r, size, va) → Issues s c i = true →
    (∀ cause tval, s.classify s.focusCore none c.ctx size (if ld then .read else .write) ld [(0, va)] = (.trap cause tval, s2) →
      c.handles = true → TrapsInPlace s c i cause tval) ∧
    (∀ xs y ys, s.classify s.focusCore none c.ctx size (if ld then .read else .write) ld [(0, va)] = (.go xs (y :: ys), s2) →
      ParksOn s c i c.am.getLsbD (y :: ys) (fun _ c' => c'.pend = c.pend)))

/-- Two lists name the same outstanding accesses; whether a lane has its line's request still to make (R155) is no part of it. -/
def SamePends (xs ys : List Pend) : Prop :=
  let plain (p : Pend) : Pend := { p with accs := p.accs.map (fun a : LaneAcc => { a with fresh := false }) }
  xs.map plain = ys.map plain

/-- For an outstanding load of one lane whose line the core's L1 does not hold, LOAD_COMPLETE puts the bytes at its
place, little-endian and sign-extended where the load is, into that lane of the destination and no other register
changes; for a store of one lane, STORE_COMPLETE makes the bytes at its place the low bytes of its data; in either case,
and for a store of any lanes, every byte outside the places named keeps its value where the context asks for no
migration notifications. -/
def Obligations.CompletionsReadAndWriteMemory : Prop :=
  (∀ (s : State) (core slot e : Nat) (m : BitVec 64) (c : Crew) (p : Pend) (a : LaneAcc) (dst : Nat) (sx past : Bool),
    s.crews.get? (crewKey core slot) = some c → c.pend[e]? = some p → p.kind = .load dst sx past → p.accs = [a] → a.lane < 64 →
    m.getLsbD a.lane = true → (p.size = 1 ∨ p.size = 2 ∨ p.size = 4 ∨ p.size = 8 ∨ p.size = 16) → slot < 64 →
    (c.pend.take e).all (fun q => !q.precedes p) = true →
    (a.loc.cached = true → (s.core core).l1.get? (a.loc.idx / 128) = none) →
    bitsOf (s.ctx c.ctx).migthr.toNat 15 0 = 0 →
    ∃ t c', exec (.loadComplete core slot e m) s = .next t ∧ t.crews.get? (crewKey core slot) = some c' ∧
      (let x := s.bytes a.loc.idx p.size
       (p.size < 4 → (c'.getV dst a.lane).toInt =
          if sx ∧ 2 ^ (8 * p.size - 1) ≤ x then (x : Int) - 2 ^ (8 * p.size) else x) ∧
       (4 ≤ p.size → ∀ j, j < p.size / 4 → (c'.getV (dst + j) a.lane).toNat = x / 2 ^ (32 * j) % 2 ^ 32)) ∧
      (∀ r l, (l ≠ a.lane ∧ l < 64) ∨ r < dst ∨ dst + max 1 (p.size / 4) ≤ r → l < 64 → c'.getV r l = c.getV r l) ∧
      c'.sreg = c.sreg ∧ c'.pc = c.pc ∧ SamePends c'.pend (c.pend.eraseIdx e) ∧ t.mem = s.mem) ∧
  (∀ (s : State) (core slot e : Nat) (m : BitVec 64) (c : Crew) (p : Pend) (a : LaneAcc),
    s.crews.get? (crewKey core slot) = some c → c.pend[e]? = some p → p.kind = .store → p.accs = [a] →
    m.getLsbD a.lane = true → slot < 64 → (c.pend.take e).all (fun q => !q.precedes p) = true →
    bitsOf (s.ctx c.ctx).migthr.toNat 15 0 = 0 →
    ∃ t c', exec (.storeComplete core slot e m) s = .next t ∧ t.crews.get? (crewKey core slot) = some c' ∧
      t.bytes a.loc.idx p.size = a.data % 2 ^ (8 * p.size) ∧
      (∀ b, b < a.loc.idx ∨ a.loc.idx + p.size ≤ b → t.byte b = s.byte b) ∧
      c'.sreg = c.sreg ∧ c'.vreg = c.vreg ∧ c'.pc = c.pc ∧ SamePends c'.pend (c.pend.eraseIdx e)) ∧
  (∀ (s t : State) (core slot e : Nat) (m : BitVec 64) (c : Crew) (p : Pend), s.crews.get? (crewKey core slot) = some c →
    c.pend[e]? = some p → bitsOf (s.ctx c.ctx).migthr.toNat 15 0 = 0 →
    exec (.storeComplete core slot e m) s = .next t →
    ∀ b, (∀ a ∈ p.accs, b < a.loc.idx ∨ a.loc.idx + p.size ≤ b) → t.byte b = s.byte b)

/-- REPLAY does nothing while a page that the crew reported has no answer, or while the crew is halted, frozen or cut or
its core's mode keeps it from issuing. Otherwise, with every page served the crew is no longer parked, its PC is
unchanged, and its next issue runs with the replay mask as active, or fetches again after a fetch; with one refused it
traps PAGE_UNRECOV with the refused page's address, of several the first in the order of the lanes (log 120), or with
the PC for a fetch. -/
def Obligations.ParkedCrewsReplayOrTrap : Prop :=
  ∀ (s : State) (core slot : Nat) (c : Crew) (q : Park), slot < 64 → s.crews.get? (crewKey core slot) = some c → c.park = some q →
    let may := !c.halted && !c.frozen && !c.cut && s.mayIssue (crewKey core slot)
    (q.pages.any (fun g => decide (g.answer = 0)) = true ∨ may = false → exec (.replay core slot) s = .next s) ∧
    (may = true → q.pages.all (fun g => decide (g.answer = 1)) = true → ∃ t c', exec (.replay core slot) s = .next t ∧
      t.crews.get? (crewKey core slot) = some c' ∧ c'.park = none ∧ c'.pc = c.pc ∧
      (q.fetch = false → c'.active = q.mask) ∧ (q.fetch = true → c'.replay = none) ∧ c'.sreg = c.sreg ∧ c'.vreg = c.vreg ∧
      t.mem = s.mem) ∧
    (∀ g, may = true → q.pages.all (fun g => decide (g.answer ≠ 0)) = true → q.pages.find? (fun g => decide (g.answer = 2)) = some g →
      c.handles = true → ∃ t c', exec (.replay core slot) s = .next t ∧ t.crews.get? (crewKey core slot) = some c' ∧
        TookTrap c c' c.pc 0x04 (if q.fetch then c.pc.zeroExtend 64 else BitVec.ofNat 64 g.va))

/-- PREF, the three kinds of PAGEHINT and PROBE complete in every crew that issues them, for every address, and change
no register but PROBE's pair. PAGEHINT migrate asks for the page to move when it is mapped and the die is live, PAGEHINT
clear clears the page's access counter, PAGEHINT prefer changes at most the 8 bytes of an invalid entry of kind 01;
PROBE gives 7 for an address of 2^57 or more, 2 for a malformed walk, and 3 plus the kind for an invalid entry. That
clear takes the counter's pending notification and its counts by die with it, and clears whatever s[b] holds, is the
model's reading (log 115). -/
def Obligations.HintsAndProbesNeverFault : Prop :=
  ∀ (s : State) (c : Crew) (d a b : BitVec 8),
    let va := (c.getSS a.toNat).toNat
    let die := (c.getS b.toNat).toNat
    (Issues s c (.pref d a b) = true → Completes s c (.pref d a b) (fun t c' => c'.rest = c.rest ∧ c'.sreg = c.sreg ∧
      c'.vreg = c.vreg ∧ ModesKept c c' ∧ t.mem = s.mem)) ∧
    (Issues s c (.pagehintPrefer a b) = true → Completes s c (.pagehintPrefer a b) (fun t c' => c'.rest = c.rest ∧
      c'.sreg = c.sreg ∧ c'.vreg = c.vreg ∧ ModesKept c c' ∧
      ((¬ ∃ pte e, s.walk c.ctx va = .invalid 1 0 pte e) ∨ 7 < die ∨ (s.window c.ctx va).isSome = true → t.mem = s.mem) ∧
      (∀ pte e, s.walk c.ctx va = .invalid 1 0 pte e → die ≤ 7 → s.dieLive die = true → va < 2 ^ 57 → (s.window c.ctx va).isSome = false →
        (∀ n, n < 8 → s.poc (pte + n) = pte + n) → t.bytes pte 8 = (e - bitsOf e 7 4 * 16 + (8 + die) * 16) % 2 ^ 64))) ∧
    (Issues s c (.pagehintMigrate a b) = true → Completes s c (.pagehintMigrate a b) (fun t c' => c'.rest = c.rest ∧
      c'.sreg = c.sreg ∧ c'.vreg = c.vreg ∧ ModesKept c c' ∧ t.mem = s.mem ∧
      t.migReqs = if die ≤ 7 ∧ s.dieLive die = true ∧ (s.leafOf c.ctx va).isSome = true then s.migReqs ++ [⟨c.ctx, va, die⟩]
        else s.migReqs)) ∧
    (Issues s c (.pagehintClear a b) = true → Completes s c (.pagehintClear a b) (fun t c' => c'.rest = c.rest ∧
      c'.sreg = c.sreg ∧ c'.vreg = c.vreg ∧ ModesKept c c' ∧ t.mem = s.mem ∧
      ∀ e, s.leafOf c.ctx va = some e → t.pageCtr.getD ((e.pa + (va - e.va)) / 2 ^ 17) PageCtr.zero = PageCtr.zero)) ∧
    (Issues s c (.probe d a) = true → Completes s c (.probe d a) (fun t c' => c'.rest = c.rest ∧ c'.vreg = c.vreg ∧
      ModesKept c c' ∧ Still s t ∧ (∀ r, r ≠ d.toNat → r ≠ d.toNat + 1 → c'.getS r = c.getS r) ∧
      (2 ^ 57 ≤ va → c'.getSS d.toNat = 7) ∧
      (va < 2 ^ 57 → s.window c.ctx va = none → s.walk c.ctx va = .malformed → c'.getSS d.toNat = 2) ∧
      (∀ kind lv pte e, va < 2 ^ 57 → s.window c.ctx va = none → s.walk c.ctx va = .invalid kind lv pte e → kind < 4 →
        c'.getSS d.toNat = BitVec.ofNat 64 (3 + kind))))

/-- L2PIN of a length 0 or above 4 MiB gives 0xFFFFFFFD; otherwise, outside the windows and with every page present, it
gives 0xFFFFFFFF where no handle of the die is free, 0xFFFFFFFE where more than 8 ways of a set would be pinned, and
else a free handle that then holds the range (which one, and that handles are a die's, is the model's choice, log 21);
L2UNPIN of a handle of the context frees it, and completes unless it was revoked, when it traps REVOKED; an unknown
handle traps ACCESS. POOLMAP of a line-aligned range within the pool gives the lowest free handle of the core, or
0xFFFFFFFF where none is free or a line is mapped already; a base that is no multiple of 128 traps MISALIGN and an
offset or length outside the limits maps nothing (both, and the lowest handle, are the model's choice, log 14);
POOLUNMAP removes the mapping. -/
def Obligations.PinsAndPoolMappings : Prop :=
  ∀ (s s2 : State) (c : Crew) (d a b : BitVec 8) (xs : List LaneXlat),
    let va := (c.getSS a.toNat).toNat
    let len := (c.getS b.toNat).toNat
    let off := (c.getS b.toNat).toNat
    let mlen := (c.getS (b.toNat + 1)).toNat
    let h := (c.getS a.toNat)
    let die := dieOf s.focusCore
    (Issues s c (.l2pin d a b) = true → len = 0 ∨ 2 ^ 22 < len → Completes s c (.l2pin d a b) (fun _ c' =>
      c'.getS d.toNat = 0xFFFFFFFD ∧ (∀ r, r ≠ d.toNat → c'.getS r = c.getS r) ∧ c'.vreg = c.vreg)) ∧
    (Issues s c (.l2pin d a b) = true → 0 < len → len ≤ 2 ^ 22 → s.windowIn c.ctx va len = none →
      s.classify s.focusCore none c.ctx 1 .read false ((pageStarts va len).map (fun v => (0, v))) = (.go xs [], s2) →
      Completes s c (.l2pin d a b) (fun t c' => (∀ r, r ≠ d.toNat → c'.getS r = c.getS r) ∧ c'.vreg = c.vreg ∧ t.mem = s.mem ∧
        let runs := xs.map (fun x => (s2.backing c.ctx x, pagePart va len x.va))
        let full := ∀ k, k < 64 → ((s.die die).pins.get? k).isSome = true
        (full → c'.getS d.toNat = 0xFFFFFFFF ∧ (t.die die).pins = (s.die die).pins) ∧
        (¬ full → s2.waysSuffice runs = false → c'.getS d.toNat = 0xFFFFFFFE ∧ (t.die die).pins = (s.die die).pins) ∧
        (¬ full → s2.waysSuffice runs = true →
          (s.die die).pins.get? (c'.getS d.toNat).toNat = none ∧ (c'.getS d.toNat).toNat < 64 ∧
            (t.die die).pins.get? (c'.getS d.toNat).toNat = some ⟨c.ctx, va, len, runs, false⟩))) ∧
    (∀ p, Issues s c (.l2unpin a) = true → (s.die die).pins.get? h.toNat = some p → p.ctx = c.ctx →
      (p.revoked = false → Completes s c (.l2unpin a) (fun t c' => c'.rest = c.rest ∧ c'.sreg = c.sreg ∧ c'.vreg = c.vreg ∧
        (t.die die).pins.get? h.toNat = none ∧ t.mem = s.mem ∧ (∀ k, k ≠ h.toNat → (t.die die).pins.get? k = (s.die die).pins.get? k))) ∧
      (p.revoked = true → c.handles = true → TrapsWith s c (.l2unpin a) c.pc 0x05 (BitVec.ofNat 64 p.va))) ∧
    (Issues s c (.l2unpin a) = true → (s.die die).pins.get? h.toNat = none → c.handles = true →
      TrapsWith s c (.l2unpin a) c.pc 0x03 (h.zeroExtend 64)) ∧
    (∀ p, Issues s c (.l2unpin a) = true → (s.die die).pins.get? h.toNat = some p → p.ctx ≠ c.ctx → c.handles = true →
      TrapsWith s c (.l2unpin a) c.pc 0x03 (h.zeroExtend 64)) ∧
    (Issues s c (.poolmap d a b) = true → (off % 128 ≠ 0 ∨ mlen % 128 ≠ 0 ∨ 2 ^ 18 < off + mlen →
        Completes s c (.poolmap d a b) (fun t c' => (∀ r, r ≠ d.toNat → c'.getS r = c.getS r) ∧ c'.vreg = c.vreg ∧ t.mem = s.mem ∧
          (t.core s.focusCore).pools = (s.core s.focusCore).pools)) ∧
      (off % 128 = 0 → mlen % 128 = 0 → off + mlen ≤ 2 ^ 18 → va % 128 ≠ 0 → c.handles = true →
        TrapsWith s c (.poolmap d a b) c.pc 0x02 (BitVec.ofNat 64 va))) ∧
    (Issues s c (.poolmap d a b) = true → off % 128 = 0 → mlen % 128 = 0 → off + mlen ≤ 2 ^ 18 → va % 128 = 0 →
      s.windowIn c.ctx va (max mlen 1) = none →
      s.classify s.focusCore none c.ctx 1 .write false ((pageStarts va (max mlen 1)).map (fun v => (0, v))) = (.go xs [], s2) →
      Completes s c (.poolmap d a b) (fun t c' => (∀ r, r ≠ d.toNat → c'.getS r = c.getS r) ∧ c'.vreg = c.vreg ∧ t.mem = s.mem ∧
        let runs := xs.map (fun x => (s2.backing c.ctx x, pagePart va mlen x.va, off + (x.va - va)))
        let full := ∀ k, k < 16 → ((s.core s.focusCore).pools.get? k).isSome = true
        let taken := ∃ r ∈ runs, ∃ j, j < r.2.1 / 128 ∧ (s.pooled (r.1 + 128 * j)).isSome = true
        (full ∨ taken → c'.getS d.toNat = 0xFFFFFFFF ∧ (t.core s.focusCore).pools = (s.core s.focusCore).pools) ∧
        (¬ full → ¬ taken → (c'.getS d.toNat).toNat < 16 ∧ (s.core s.focusCore).pools.get? (c'.getS d.toNat).toNat = none ∧
          (∀ k, k < (c'.getS d.toNat).toNat → ((s.core s.focusCore).pools.get? k).isSome = true) ∧
          (t.core s.focusCore).pools.get? (c'.getS d.toNat).toNat = some ⟨c.ctx, va, mlen, off, runs, false⟩ ∧
          (∀ k, k ≠ (c'.getS d.toNat).toNat → (t.core s.focusCore).pools.get? k = (s.core s.focusCore).pools.get? k)))) ∧
    (∀ m, Issues s c (.poolunmap a) = true → (s.core s.focusCore).pools.get? h.toNat = some m →
      (m.revoked = false → Completes s c (.poolunmap a) (fun t c' => (c.pend = [] → c'.rest = c.rest ∧ c'.sreg = c.sreg ∧ c'.vreg = c.vreg) ∧
        (t.core s.focusCore).pools.get? h.toNat = none ∧
        ∀ k, k ≠ h.toNat → (t.core s.focusCore).pools.get? k = (s.core s.focusCore).pools.get? k)) ∧
      (m.revoked = true → c.handles = true → TrapsWith s c (.poolunmap a) c.pc 0x05 (BitVec.ofNat 64 m.va)))

/-- With no RGET outstanding for an acquire, no remote access for a release at system scope, and for a releasing FENCEJ
no job of the crew in its gate, a fence completes. A release or full fence at package scope or wider leaves no access
outstanding but remote ones, and none at all at system scope; at core or die scope it leaves beside those only stores to
L1-cacheable memory that are acknowledged for the scope, and before an agent of a core takes its turn no store is left
that a release of another crew has acknowledged for it (that these stores wait no longer than that is the model's
reading, logs 15 and 81). An acquire leaves no load, and at die scope or wider the core's L1 empty; MODE, the masks and
the predicates keep their values. -/
def Obligations.FencesSettleTheirAccesses : Prop :=
  (∀ (s : State) (c : Crew) (k : BitVec 2) (sc : BitVec 3) (i : Instr), (i = .fence k sc ∨ i = .fencej k sc) →
    Issues s c i = true → s.focusSlot < 64 → (k ≠ 1 → c.pend.all (fun p => !(p.kind.isRemote && p.kind.isLoad)) = true) →
    (k ≠ 0 → sc = 4 → c.pend.all (fun p => !p.kind.isRemote) = true) → (i = .fencej k sc → k ≠ 0 → s.hasJobs s.fkey = false) →
    (i = .fencej k sc → c.unobs = []) →
    Completes s c i (fun t c' => (k ≠ 0 → sc ≠ 0 → ∀ p ∈ c'.pend, p.kind.isRemote = true ∨
        ((p.kind = .store ∨ p.kind = .tstore) ∧ sc.toNat ≤ 2 ∧ sc.toNat ≤ p.acked ∧ ∀ a ∈ p.accs, a.loc.cached = true)) ∧
      (k ≠ 0 → sc = 4 → c'.pend = []) ∧
      (k ≠ 1 → ∀ p ∈ c'.pend, p.kind.isLoad = false) ∧ (k ≠ 1 → 2 ≤ sc.toNat → (t.core s.focusCore).l1 = []) ∧
      ModesKept c c' ∧ c'.am = c.am ∧ c'.live = c.live ∧ c'.paths = c.paths ∧ (c.pend = [] → c'.sreg = c.sreg ∧ c'.vreg = c.vreg))) ∧
  (∀ (s : State) (k : Nat) (c : Crew), k ≠ s.fkey → s.inScope.crews.get? k = some c → ∀ p ∈ c.pend, p.kind.isRemote = false →
    ¬ (p.acked = 1 ∧ k / 64 = s.focusCore) ∧ ¬ (p.acked = 2 ∧ k / 64 / 24 = s.focusCore / 24))

/-- An atomic with address pair v[a:a+1] goes on in every active lane: a release that has to come before it waits for no peer, and after it
the classification of Table 7.3 gives the places `xs` and no trap and no absent page (R202). -/
def AtomicGoes (s s2 : State) (c : Crew) (a : BitVec 8) (xs : List LaneXlat) : Prop :=
  let rel := (modexOrd c.modex = 2 ∨ modexOrd c.modex = 3) ∧ c.released = false
  let s1 := if rel then (s.release s.fkey (modexScope c.modex)).mapCrew (fun q => { q with released := true }) else s
  (rel → c.releaseReady (modexScope c.modex) = true) ∧
  s1.classify s1.focusCore (some s1.fkey) c.ctx (4 * spanOf (modeType c.mode)) .both true (laneVas c a.toNat 0 1) = (.go xs [], s2)

/-- What a completed atomic leaves: its crew's mask, modes and predicates as they were, and, relaxed and with an active lane, no register
changed and one access outstanding with every lane's place, its opcode and its destination. -/
def AtomicLeaves (c c' : Crew) (op : Nat) (d : BitVec 8) (xs : List LaneXlat) : Prop :=
  c'.am = c.am ∧ c'.live = c.live ∧ c'.paths = c.paths ∧ c'.mode = c.mode ∧ c'.modex = c.modex ∧ c'.preds = c.preds ∧
  (modexOrd c.modex = 0 → xs ≠ [] → c'.sreg = c.sreg ∧ c'.vreg = c.vreg ∧
    ∃ p r sat ftz, c'.pend = c.pend ++ [p] ∧ p.kind = .atomic d.toNat op (modeType c.mode) r sat ftz ∧
      p.size = 4 * spanOf (modeType c.mode) ∧ p.accs.map (fun x : LaneAcc => (x.lane, x.va, x.loc)) = xs.map (fun x => (x.lane, x.va, x.loc)))

/-- Table 8.4 on integers of `w` bits: what memory takes from the old value, v[d] and v[b]. -/
def atomicTable (op : Nat) (signed : Bool) (w old x y : Nat) : Option Nat :=
  let rd (n : Nat) : Int := if signed ∧ 2 ^ (w - 1) ≤ n then (n : Int) - 2 ^ w else n
  if op = 0x8B then some ((old + y) % 2 ^ w)
  else if op = 0x8C then some (if rd y < rd old then y else old)
  else if op = 0x8D then some (if rd old < rd y then y else old)
  else if op = 0x8E then some (old &&& y)
  else if op = 0x8F then some (old ||| y)
  else if op = 0x90 then some (old ^^^ y)
  else if op = 0x91 then some y
  else if op = 0x92 then (if old = y then some x else none)
  else if op = 0x93 then some (if y ≤ old then 0 else old + 1)
  else some (if old = 0 ∨ y < old then y else old - 1)

/-- AADD, AMIN, AMAX, AAND, AOR, AXOR, AXCHG, ACAS, AINC and ADEC complete when every active lane's address goes on: a
relaxed form leaves one outstanding access with each lane's place, its opcode and destination. Performing one lane on an
integer type gives the old value to v[d] and leaves in memory what Table 8.4 gives, with every other byte unchanged. -/
def Obligations.AtomicsCompleteAndFollowTheTable : Prop :=
  (∀ (s s2 : State) (c : Crew) (d a b : BitVec 8) (xs : List LaneXlat), AtomicGoes s s2 c a xs →
    (Issues s c (.aadd d a b) = true → Completes s c (.aadd d a b) (fun _ c' => AtomicLeaves c c' 0x8B d xs)) ∧
    (Issues s c (.amin d a b) = true → Completes s c (.amin d a b) (fun _ c' => AtomicLeaves c c' 0x8C d xs)) ∧
    (Issues s c (.amax d a b) = true → Completes s c (.amax d a b) (fun _ c' => AtomicLeaves c c' 0x8D d xs)) ∧
    (Issues s c (.aand d a b) = true → Completes s c (.aand d a b) (fun _ c' => AtomicLeaves c c' 0x8E d xs)) ∧
    (Issues s c (.aor d a b) = true → Completes s c (.aor d a b) (fun _ c' => AtomicLeaves c c' 0x8F d xs)) ∧
    (Issues s c (.axor d a b) = true → Completes s c (.axor d a b) (fun _ c' => AtomicLeaves c c' 0x90 d xs)) ∧
    (Issues s c (.axchg d a b) = true → Completes s c (.axchg d a b) (fun _ c' => AtomicLeaves c c' 0x91 d xs)) ∧
    (Issues s c (.acas d a b) = true → Completes s c (.acas d a b) (fun _ c' => AtomicLeaves c c' 0x92 d xs)) ∧
    (Issues s c (.ainc d a b) = true → Completes s c (.ainc d a b) (fun _ c' => AtomicLeaves c c' 0x93 d xs)) ∧
    (Issues s c (.adec d a b) = true → Completes s c (.adec d a b) (fun _ c' => AtomicLeaves c c' 0x94 d xs))) ∧
  (∀ (s : State) (core slot e : Nat) (m : BitVec 64) (c : Crew) (p : Pend) (a : LaneAcc) (dst op ty r : Nat) (sat ftz : Bool) (it : IntFmt),
    s.crews.get? (crewKey core slot) = some c → c.pend[e]? = some p → p.kind = .atomic dst op ty r sat ftz → p.accs = [a] →
    0x8B ≤ op → op ≤ 0x94 → elemKind ty = .int it → p.size = 4 * spanOf ty → it.width = 8 * p.size →
    a.data < 2 ^ it.width → a.cmp < 2 ^ it.width →
    m.getLsbD a.lane = true → a.lane < 64 → slot < 64 → (c.pend.take e).all (fun q => !q.precedes p) = true →
    bitsOf (s.ctx c.ctx).migthr.toNat 15 0 = 0 →
    ∃ t c', exec (.loadComplete core slot e m) s = .next t ∧ t.crews.get? (crewKey core slot) = some c' ∧
      (let old := s.bytes a.loc.idx p.size
       (∀ j, j < p.size / 4 → (c'.getV (dst + j) a.lane).toNat = old / 2 ^ (32 * j) % 2 ^ 32) ∧
       t.bytes a.loc.idx p.size =
        (match atomicTable op it.signed it.width old a.data a.cmp with
         | some x => x % 2 ^ (8 * p.size)
         | none => old)) ∧
      (∀ x, x < a.loc.idx ∨ a.loc.idx + p.size ≤ x → t.byte x = s.byte x) ∧
      (∀ q l, l < 64 → l ≠ a.lane → c'.getV q l = c.getV q l) ∧ c'.sreg = c.sreg ∧ c'.pc = c.pc)

/-- No store of a crew is outstanding that a release has acknowledged for the agents of a core (R179). -/
def NoneTrails (s : State) (core : Nat) : Prop :=
  ∀ k q, s.crews.get? k = some q → ∀ p ∈ q.pend, p.coversCore k core = false

/-- LDACQ whose lanes all translate completes with the load performed: with nothing outstanding, each lane has the bytes
at its place in memory, at core scope where the L1 holds none of the lines; at die scope or wider the L1 is empty. STREL
with no peer awaited completes with a store outstanding after a release. AWAIT whose word differs from s[b] completes
with the word and status 0; with the deadline passed it completes with status 1; otherwise it waits at its PC with its
deadline kept, and AWAIT_WAKE and AWAIT_DEADLINE read again. The values are stated where no migration notification is
asked for, and for AWAIT where no store that a release has acknowledged for its core is still outstanding. -/
def Obligations.AcquireLoadsReleaseStoresAndAwait : Prop :=
  (∀ (s s2 : State) (c : Crew) (d a k : BitVec 8) (xs : List LaneXlat), Issues s c (.ldacq d a k) = true →
    s.classify s.focusCore (some s.fkey) c.ctx (4 * spanOf (modeType c.mode)) .read true
      (laneVas c a.toNat k.toInt (4 * spanOf (modeType c.mode))) = (.go xs [], s2) →
    Completes s c (.ldacq d a k) (fun t c' => (2 ≤ modexScope c.modex → (t.core s.focusCore).l1 = []) ∧ c'.am = c.am ∧
      c'.live = c.live ∧ c'.paths = c.paths ∧ ModesKept c c' ∧ (c.pend = [] → c'.pend = [] ∧ c'.sreg = c.sreg ∧
        (∀ r l, l < 64 → r < d.toNat ∨ d.toNat + spanOf (modeType c.mode) ≤ r → c'.getV r l = c.getV r l) ∧
        (bitsOf (s.ctx c.ctx).migthr.toNat 15 0 = 0 →
          2 ≤ modexScope c.modex ∨ (∀ x ∈ xs, x.loc.cached = true → (s.core s.focusCore).l1.get? (x.loc.idx / 128) = none) →
          ∀ x ∈ xs, (spanOf (modeType c.mode) = 1 → (c'.getV d.toNat x.lane).toNat = s.bytes x.loc.idx 4) ∧
            (spanOf (modeType c.mode) = 2 → (c'.getVV d.toNat x.lane).toNat = s.bytes x.loc.idx 8))))) ∧
  (∀ (s s2 : State) (c : Crew) (d a k : BitVec 8) (xs : List LaneXlat), Issues s c (.strel d a k) = true → c.pend = [] →
    c.released = false →
    (let s1 := (s.release s.fkey (modexScope c.modex)).mapCrew (fun q => { q with released := true })
     s1.classify s1.focusCore (some s1.fkey) c.ctx (4 * spanOf (modeType c.mode)) .write false
      (laneVas c a.toNat k.toInt (4 * spanOf (modeType c.mode))) = (.go xs [], s2)) →
    Completes s c (.strel d a k) (fun _ c' => c'.sreg = c.sreg ∧ c'.vreg = c.vreg ∧ ModesKept c c' ∧
      (xs ≠ [] → ∃ p : Pend, c'.pend = [p] ∧ p.kind = .store ∧
        p.accs.map (fun x : LaneAcc => (x.lane, x.va, x.loc)) = xs.map (fun x => (x.lane, x.va, x.loc)) ∧
        ∀ x ∈ p.accs, x.data % 2 ^ (32 * spanOf (modeType c.mode)) = laneData c d.toNat (4 * spanOf (modeType c.mode)) x.lane))) ∧
  (∀ (s s2 : State) (c : Crew) (d a b : BitVec 8) (x : LaneXlat), Issues s c (.await d a b) = true → c.pend = [] →
    NoneTrails s s.focusCore → bitsOf (s.ctx c.ctx).migthr.toNat 15 0 = 0 →
    (let q := { c with deadline := some (c.deadline.getD (s.clock + (c.getS (b.toNat + 1)).toNat)), waiting := some (.await d a b) }
     (s.setCrew q).classify s.focusCore none c.ctx 4 .read true [(0, (c.getSS a.toNat).toNat)] = (.go [x] [], s2)) →
    let dl := c.deadline.getD (s.clock + (c.getS (b.toNat + 1)).toNat)
    let v := BitVec.ofNat 32 (s.bytes x.loc.idx 4)
    (v ≠ c.getS b.toNat → Completes s c (.await d a b) (fun _ c' => c'.getS d.toNat = v ∧ c'.getS (d.toNat + 1) = 0 ∧
      c'.vreg = c.vreg ∧ ModesKept c c' ∧ c'.deadline = none)) ∧
    (v = c.getS b.toNat → dl ≤ s.clock → Completes s c (.await d a b) (fun _ c' => c'.getS d.toNat = v ∧
      c'.getS (d.toNat + 1) = 1 ∧ c'.vreg = c.vreg ∧ ModesKept c c')) ∧
    (v = c.getS b.toNat → s.clock < dl → ∃ t c', exec (.await d a b) s = .next t ∧ t.crews.get? s.fkey = some c' ∧
      c'.pc = c.pc ∧ c'.waiting = some (.await d a b) ∧ c'.deadline = some dl ∧ c'.stalled = true ∧ c'.sreg = c.sreg ∧ c'.vreg = c.vreg)) ∧
  (∀ (s : State) (core slot : Nat) (c : Crew) (d a b : BitVec 8), slot < 64 → (s.focusOn core slot).crew? = some c →
    c.waiting = some (.await d a b) →
    exec (.awaitWake core slot) s = exec (.await d a b) (s.focusOn core slot) ∧
    (∀ dl, c.deadline = some dl → dl ≤ s.clock →
      exec (.awaitDeadline core slot) s = exec (.await d a b) (s.focusOn core slot)) ∧
    (∀ dl, c.deadline = some dl → s.clock < dl → exec (.awaitDeadline core slot) s = .next s))

/-- The crew, with nothing outstanding, reads the `n` bytes of a structure at `va` in state `s` as plain loads and finds `x` (R209, R246), which
leaves state `s2`: every byte's page is present and readable, and a line of them that the core's L1 holds is as memory is (where it is not, an
older value may be read, R481; log 95).  The context's access counters post nothing (MIGTHR is 0, R168). -/
def StructRead (s s2 : State) (c : Crew) (va n x : Nat) : Prop :=
  bitsOf (s.ctx c.ctx).migthr.toNat 15 0 = 0 ∧ ∃ xs s1,
    s.classify s.focusCore none c.ctx 1 .read true ((List.range n).map (fun i => (0, va + i))) = (.go xs [], s1) ∧
    (∀ y ∈ xs, y.loc.cached = true → ∀ v, (s.core s.focusCore).l1.get? (y.loc.idx / 128) = some v →
      v = s.bytes (y.loc.idx / 128 * 128) 128) ∧
    x = xs.foldr (fun y acc => (s.byte y.loc.idx).toNat + 256 * acc) 0 ∧ s2 = (s1.plainRead xs).2

/-- A job of the crew entered its core's gate behind the others, not started, and its token is pending; no register and no byte of memory
changed. -/
def EntersGate (s t : State) (c c' : Crew) (k : JobKind) (card token : Nat) (P : Job → Prop) : Prop :=
  ∃ j, (t.core s.focusCore).jobs = (s.core s.focusCore).jobs ++ [j] ∧ j.id = (s.core s.focusCore).nextJob ∧
    (t.core s.focusCore).nextJob = j.id + 1 ∧ j.kind = k ∧ j.crew = s.fkey ∧ j.ctx = c.ctx ∧ j.card = card ∧ j.token = token ∧
    j.started = false ∧ j.cancelled = false ∧ c'.tokens = c.tokens.insert token j.id ∧ c'.sreg = c.sreg ∧ c'.vreg = c.vreg ∧
    ModesKept c c' ∧ c'.pend = c.pend ∧ t.mem = s.mem ∧ P j

/-- With its 256-byte card readable, no access outstanding and fewer than 32 jobs in the gate, COPY enters a copy from
offset 0, COPYR one from its offset where the two pages there are not absent, MLOAD a load of its macro, GRUN a run of
the bound object when the rule values fit, STRM a stream when its port and skid entries are free. A malformed card,
offset, port or missing binding enters a job that has stopped with MALFORMED. No register and no byte of memory changes.
-/
def Obligations.JobInstructionsEnterTheGate : Prop :=
  ∀ (s s2 : State) (c : Crew) (d a b : BitVec 8) (m : BitVec 3) (card : Nat),
    let va := (c.getSS a.toNat).toNat
    let k := s.core s.focusCore
    let o := (c.getS b.toNat).toNat % 2 ^ 28
    c.pend = [] → va % 256 = 0 → StructRead s s2 c va 256 card → k.jobs.length < 32 → k.jobs.all (fun j => decide (j.id ≠ k.nextJob)) = true →
    (Issues s c (.copy d a) = true → Completes s c (.copy d a) (fun t c' => EntersGate s t c c' .copy card d.toNat (fun j =>
      j.pos = 0 ∧ (copyCardBad card = true → j.result = some (5 * 2 ^ 28)) ∧
      (copyCardBad card = false → j.result = none ∧ j.reads = cardReads card ∧ j.writes = cardWrites card ∧ j.scope = fld card 1 1)))) ∧
    (Issues s c (.copyr d a b) = true → (copyCardBad card = true ∨ o % 512 ≠ 0 ∨ fld card 24 8 ≤ o) →
      Completes s c (.copyr d a b) (fun t c' => EntersGate s t c c' .copy card d.toNat (fun j => j.result = some (5 * 2 ^ 28)))) ∧
    (∀ s3 s4 x y, Issues s c (.copyr d a b) = true → copyCardBad card = false → o % 512 = 0 → o < fld card 24 8 →
      s2.xlate s.focusCore none c.ctx ((fld card 8 8 + o) % 2 ^ 64) .read = (x, s3) →
      s3.xlate s.focusCore none c.ctx ((fld card 16 8 + o) % 2 ^ 64) .write = (y, s4) →
      (∀ kd lv p, x ≠ .absent kd lv p ∧ y ≠ .absent kd lv p) →
      Completes s c (.copyr d a b) (fun t c' => EntersGate s t c c' .copy card d.toNat (fun j => j.pos = o ∧ j.result = none))) ∧
    (Issues s c (.mload d a m) = true → Completes s c (.mload d a m) (fun t c' => EntersGate s t c c' .mload card d.toNat (fun j =>
      j.aux = [m.toNat] ∧ j.pos = 0 ∧ (mloadCardBad card = true → j.result = some (5 * 2 ^ 28)) ∧
      (mloadCardBad card = false → k.jobs.all (fun q => decide (q.kind ≠ .mload)) = true → j.result = none)))) ∧
    (Issues s c (.grun d a) = true → c.binding = none → Completes s c (.grun d a) (fun t c' =>
      EntersGate s t c c' .grun card d.toNat (fun j => j.result = some (5 * 2 ^ 28)))) ∧
    (∀ g, Issues s c (.grun d a) = true → c.binding = some g →
      (grunCardBad card g = true → Completes s c (.grun d a) (fun t c' =>
        EntersGate s t c c' .grun card d.toNat (fun j => j.result = some (5 * 2 ^ 28)))) ∧
      (grunCardBad card g = false → g.maxrules * fld card 2 1 ≤ 16384 → Completes s c (.grun d a) (fun t c' =>
        EntersGate s t c c' .grun card d.toNat (fun j => j.pos = 0 ∧ j.result = none ∧ j.aux = [g.base.toNat, g.header])))) ∧
    (Issues s c (.strm d a) = true → (streamCardBad card = true ∨ s.streamUnbindable card = true) →
      Completes s c (.strm d a) (fun t c' => EntersGate s t c c' .stream card d.toNat (fun j =>
        j.result = some (5 * 2 ^ 28) ∧ c'.skids = c.skids))) ∧
    (Issues s c (.strm d a) = true → streamCardBad card = false → s.streamUnbindable card = false →
      (fld card 2 1 = 0 → fld card 5 1 ≤ k.skidFree) →
      Completes s c (.strm d a) (fun t c' => EntersGate s t c c' .stream card d.toNat (fun j =>
        j.result = none ∧ j.stream.dir = fld card 2 1 ∧
        (fld card 2 1 = 0 → c'.skids = c.skids.insert (fld card 3 1) ⟨fld card 5 1, [], some j.id⟩ ∧
          (t.core s.focusCore).skidFree = k.skidFree - fld card 5 1) ∧
        (fld card 2 1 ≠ 0 → c'.skids = c.skids ∧ (t.core s.focusCore).skidFree = k.skidFree))))

/-- A job that may start is started. COPY_CHUNK of a started copy whose chunk translates moves at most 512 bytes: each
byte of the destination takes the byte of the source, no other byte of memory changes, and at the end the job has
stopped with OK and its length. MLOAD_ROW reads 128 bytes into the next row, the last one making the context the macro's
owner. STREAM_ENTRY reads an element or delivers a whole entry into its skid queue. JOB_COMPLETE of any job but a
collective takes it from the gate and writes its token, of an MLOAD that never started in its turn at the macro. The
values are stated where no store that a release has acknowledged for the job's core is still outstanding (log 81). -/
def Obligations.JobsStartMoveAndComplete : Prop :=
  (∀ (s : State) (core job : Nat) (j : Job), s.job? core job = some j → j.kind.isCollective = false → s.canStart core j = true →
    (j.kind = .mload → s.macroFree core j = true) →
    ∃ t j', exec (.jobStart core job) s = .next t ∧ t.job? core job = some j' ∧ j'.started = true ∧ j'.pos = j.pos ∧
      j'.card = j.card ∧ j'.result = j.result ∧ t.mem = s.mem ∧ t.crews = s.crews ∧
      (j.kind = .mload → (t.mac core (j.aux.headD 0)).owner = none) ∧
      (j.kind = .grun → (t.core core).gramQ = (s.core core).gramQ ++ [j.id])) ∧
  (∀ (s s2 : State) (core job n : Nat) (j : Job) (xs ys : List LaneXlat), s.job? core job = some j → j.kind = .copy →
    j.started = true → j.result = none → j.cancelled = false →
    j.lost = false →
    n = min 512 (fld j.card 24 8 - j.pos) → NoneTrails s core →
    s.engineClassify core (s.jobTask j) j.ctx (byteVas (fld j.card 8 8 + j.pos) n) (byteVas (fld j.card 16 8 + j.pos) n) = (none, xs, ys, s2) →
    (ys.map (fun y => y.loc.idx)).Nodup → bitsOf (s.ctx j.ctx).migthr.toNat 15 0 = 0 →
    ∃ t j', exec (.copyChunk core job) s = .next t ∧ t.job? core job = some j' ∧
      (∀ k, k < n → t.byte ((ys.map (fun y => y.loc.idx)).getD k 0) = s.byte ((xs.map (fun x => x.loc.idx)).getD k 0)) ∧
      (∀ x, x ∉ ys.map (fun y => y.loc.idx) → t.byte x = s.byte x) ∧
      (fld j.card 24 8 ≤ j.pos + 512 → j'.result = some (tokenOf 0 (fld j.card 24 8))) ∧
      (j.pos + 512 < fld j.card 24 8 → j'.result = none ∧ j'.pos = j.pos + 512)) ∧
  (∀ (s s2 : State) (core job : Nat) (j : Job) (xs : List LaneXlat), s.job? core job = some j → j.kind = .mload →
    j.started = true → j.result = none → j.cancelled = false → NoneTrails s core →
    s.engineClassify core (s.jobTask j) j.ctx (byteVas (fld j.card 8 8 + j.pos * fld j.card 16 8) 128) [] = (none, xs, [], s2) →
    bitsOf (s.ctx j.ctx).migthr.toNat 15 0 = 0 →
    ∃ t j', exec (.mloadRow core job) s = .next t ∧ t.job? core job = some j' ∧ j'.pos = j.pos + 1 ∧
      (t.mac core (j.aux.headD 0)).rows.getD j.pos 0 = packElems 8 (xs.map (fun x => (s.byte x.loc.idx).toNat)) ∧
      (∀ r, r ≠ j.pos → (t.mac core (j.aux.headD 0)).rows.getD r 0 = (s.mac core (j.aux.headD 0)).rows.getD r 0) ∧
      (j.pos = 127 → (t.mac core (j.aux.headD 0)).owner = some j.ctx ∧ (t.mac core (j.aux.headD 0)).fmt = fld j.card 2 1 ∧
        j'.result = some 16384) ∧
      (j.pos ≠ 127 → j'.result = none ∧ (t.mac core (j.aux.headD 0)).owner = (s.mac core (j.aux.headD 0)).owner)) ∧
  (∀ (s s2 : State) (core job e : Nat) (j : Job) (xs : List LaneXlat), s.job? core job = some j → j.kind = .stream →
    j.started = true → j.result = none → j.stream.dir = 0 → j.stream.stop = 0 → e < cardCount j.card → j.stream.next ≤ e / 64 →
    j.buffer.get? e = none → NoneTrails s core →
    s.engineClassify core (s.jobTask j) j.ctx (byteVas (cardAddr j.card e) (cardSize j.card)) [] = (none, xs, [], s2) →
    bitsOf (s.ctx j.ctx).migthr.toNat 15 0 = 0 →
    ∃ t j', exec (.streamEntry core job true e) s = .next t ∧ t.job? core job = some j' ∧
      j'.buffer.get? e = some (packElems 8 (xs.map (fun x => (s.byte x.loc.idx).toNat))) ∧ j'.pos = j.pos) ∧
  (∀ (s : State) (core job e : Nat) (j : Job) (c : Crew) (q : Skid), s.job? core job = some j → j.kind = .stream →
    j.started = true → j.result = none → j.stream.dir = 0 → j.stream.stop = 0 →
    s.crews.get? j.crew = some c → c.skids.get? (fld j.card 3 1) = some q → q.entries.length < q.depth →
    64 * j.stream.next < cardCount j.card →
    (∀ k, 64 * j.stream.next ≤ k → k < min (64 * j.stream.next + 64) (cardCount j.card) → (j.buffer.get? k).isSome = true) →
    ∃ t j' c' q', exec (.streamEntry core job false e) s = .next t ∧ t.job? core job = some j' ∧ t.crews.get? j.crew = some c' ∧
      j'.pos = min (64 * j.stream.next + 64) (cardCount j.card) ∧ c'.skids.get? (fld j.card 3 1) = some q' ∧
      q'.entries.length = q.entries.length + 1 ∧ q'.entries.take q.entries.length = q.entries ∧
      (j'.pos = cardCount j.card → j'.result = some (tokenOf 0 (cardCount j.card)))) ∧
  (∀ (s : State) (core job v : Nat) (j : Job) (c : Crew), s.job? core job = some j → j.kind.isCollective = false → j.result = some v → s.crews.get? j.crew = some c →
    c.tokens.get? j.token = some j.id → (j.kind = .mload → j.started = false → s.macroFree core j = true) →
    ∃ t c', exec (.jobComplete core job) s = .next t ∧ t.job? core job = none ∧ t.crews.get? j.crew = some c' ∧
      c'.getS j.token = BitVec.ofNat 32 v ∧ c'.tokens.get? j.token = none ∧ (∀ r, r ≠ j.token → c'.getS r = c.getS r) ∧
      c'.vreg = c.vreg ∧ c'.pc = c.pc ∧ c'.unobs.map Unobserved.token = c.unobs.map Unobserved.token ++ [j.token] ∧
      (j.scope < 2 → t.mem = s.mem))

/-- WAITC completes when each of the four counts is at most its field, and otherwise its crew waits, not ready. POP of
an entry gives the lanes it holds with p7 set there, of a queue with no entry and no job clears p7, and otherwise waits.
STRMBAR of a nonempty range puts one barrier behind the streams of the core. JOBQ gives 0xF and the progress for a pending
job (none for a collective), or the token. JOBCAN stops a copy, load or run that has not started with status 4, marks
one that has, and has no effect on a register with no pending job. -/
def Obligations.WaitsSkidQueuesAndQueries : Prop :=
  ∀ (s : State) (c : Crew),
    (∀ (l n cp tl : BitVec 6), Issues s c (.waitc l n cp tl) = true →
      let q := s.counts s.fkey
      (q.1 ≤ l.toNat → q.2.1 ≤ n.toNat → q.2.2.1 ≤ cp.toNat → q.2.2.2 ≤ tl.toNat → Completes s c (.waitc l n cp tl) (fun t c' =>
        c'.unobs = [] ∧ ModesKept c c' ∧ c'.am = c.am ∧ (c.unobs = [] → Still s t ∧ c'.rest = c.rest ∧ c'.sreg = c.sreg ∧
          c'.vreg = c.vreg))) ∧
      (l.toNat < q.1 ∨ n.toNat < q.2.1 ∨ cp.toNat < q.2.2.1 ∨ tl.toNat < q.2.2.2 → exec (.waitc l n cp tl) s = .next (s.stall s.fkey))) ∧
    (∀ (d : BitVec 8) (q : BitVec 2), Issues s c (.pop d q) = true →
      (c.skids.get? q.toNat = none → Completes s c (.pop d q) (fun t c' => c'.pred 7 = c.pred 7 &&& ~~~c.active ∧ c'.vreg = c.vreg ∧
        c'.sreg = c.sreg ∧ c'.skids = c.skids ∧ t.mem = s.mem)) ∧
      (∀ k e es, c.skids.get? q.toNat = some k → k.entries = e :: es → Completes s c (.pop d q) (fun t c' =>
        (∀ x, x < 64 → c.active.getLsbD x = true → (c'.pred 7).getLsbD x = decide (x < e.elems.length)) ∧
        (∀ x, x < 64 → c.active.getLsbD x = true → x < e.elems.length → c'.getV d.toNat x = e.elems.getD x 0) ∧
        (∀ r x, x < 64 → r ≠ d.toNat ∨ c.active.getLsbD x = false → c'.getV r x = c.getV r x) ∧ c'.sreg = c.sreg ∧ t.mem = s.mem ∧
        (es ≠ [] ∨ k.job.isSome = true → ∃ k', c'.skids.get? q.toNat = some k' ∧ k'.entries = es ∧ k'.job = k.job))) ∧
      (∀ k, c.skids.get? q.toNat = some k → k.entries = [] → k.job.isSome = true → exec (.pop d q) s = .next (s.stall s.fkey)) ∧
      (∀ k, c.skids.get? q.toNat = some k → k.entries = [] → k.job = none → Completes s c (.pop d q) (fun _ c' =>
        c'.pred 7 = c.pred 7 &&& ~~~c.active ∧ c'.vreg = c.vreg ∧ c'.sreg = c.sreg))) ∧
    (∀ (a b : BitVec 8), Issues s c (.strmbar a b) = true → Completes s c (.strmbar a b) (fun t c' => c'.rest = c.rest ∧
      c'.sreg = c.sreg ∧ c'.vreg = c.vreg ∧ ModesKept c c' ∧ t.mem = s.mem ∧
      ((c.getS b.toNat).toNat = 0 → (t.core s.focusCore).bars = (s.core s.focusCore).bars) ∧
      ((c.getS b.toNat).toNat ≠ 0 → ∃ r, (t.core s.focusCore).bars = (s.core s.focusCore).bars ++ [r] ∧ r.crew = s.fkey ∧
        r.before = (s.core s.focusCore).nextJob ∧
        r.jobs = ((s.core s.focusCore).jobs.filter (fun j => decide (j.kind = .stream))).map Job.id ∧ r.range.base = (c.getSS a.toNat).toNat / 128 * 128 ∧
        (c.getSS a.toNat).toNat + (c.getS b.toNat).toNat ≤ r.range.base + r.range.len))) ∧
    (∀ (d a : BitVec 8) (id : Nat) (j : Job), Issues s c (.jobq d a) = true → c.tokens.get? a.toNat = some id →
      s.job? s.focusCore id = some j → Completes s c (.jobq d a) (fun t c' => t.mem = s.mem ∧
        (c'.getS d.toNat).toNat = 15 * 2 ^ 28 + (if j.kind.isCollective then 0 else j.pos % 2 ^ 28) ∧ (∀ r, r ≠ d.toNat → c'.getS r = c.getS r) ∧ c'.vreg = c.vreg)) ∧
    (∀ (d a : BitVec 8), Issues s c (.jobq d a) = true → c.tokens.get? a.toNat = none → c.pend = [] → Completes s c (.jobq d a) (fun t c' =>
        t.mem = s.mem ∧ c'.getS d.toNat = c.getS a.toNat ∧ (∀ r, r ≠ d.toNat → c'.getS r = c.getS r) ∧ c'.vreg = c.vreg)) ∧
    (∀ (a : BitVec 8), Issues s c (.jobcan a) = true → c.tokens.get? a.toNat = none → Completes s c (.jobcan a) (fun t c' =>
        Still s t ∧ c'.rest = c.rest ∧ c'.sreg = c.sreg ∧ c'.vreg = c.vreg)) ∧
    (∀ (a : BitVec 8) (id : Nat) (j : Job), Issues s c (.jobcan a) = true → c.tokens.get? a.toNat = some id →
      s.job? s.focusCore id = some j → j.kind = .copy ∨ j.kind = .mload ∨ j.kind = .grun → j.result = none →
      Completes s c (.jobcan a) (fun t c' => c'.sreg = c.sreg ∧ c'.vreg = c.vreg ∧ t.mem = s.mem ∧
        ∃ j' : Job, t.job? s.focusCore id = some j' ∧ j'.cancelled = true ∧ j'.pos = j.pos ∧
          (j.started = false → j'.result = some (tokenOf 4 j.pos)) ∧ (j.started = true → j'.result = none)))

/-- For every crew instruction that comes to its checks and passes them: with outstanding accesses that write its
registers it executes as after those accesses are performed; where it reads the token of a completed job it executes as
after the acquire that observes the job; and where it names a register with a pending job or that a peer's reply is
awaited in, or would store while an RGET has not returned (log 74), and no other access owes it a register, its crew
waits and is not ready, and nothing else happens. -/
def Obligations.WaitingInstructionsSettleFirst : Prop :=
  ∀ (s : State) (c : Crew) (i : Instr), isOperator i = false → isEvent i = false → Reaches s c = true →
    (checkIssue s c i).isNone = true → c.sregs ≤ 64 →
    let os := operands c.mode i
    (c.pend.any (fun p => os.any p.targets) = true → exec i s = exec i (s.perform s.fkey (fun p => os.any p.targets))) ∧
    (c.pend.any (fun p => os.any p.targets) = false → (c.mustWait os || (storesMemory i && c.awaitsGet)) = true →
      exec i s = .next (s.stall s.fkey)) ∧
    (c.pend.any (fun p => os.any p.targets) = false → (c.mustWait os || (storesMemory i && c.awaitsGet)) = false →
      exec i s = exec i (s.observe os))

/-- MZERO, where no operation of its crew on its tile is outstanding or no outstanding one meets a cell error, leaves +0
in every cell and no error, and keeps the flags where no tile operation is outstanding; with none outstanding and no
cell error, MREAD gives eight columns to the active lanes and no other register changes, MFLAGS moves the flags into
s[d] and clears them, MSTORE whose pages are present leaves one outstanding access that holds each active lane's row
line by line. MMA whose block and scales are readable, valid and of the macro's format is accepted as one tile operation
that holds its operands. -/
def Obligations.StandInstructionsWorkOnTheirTiles : Prop :=
  ∀ (s : State) (c : Crew) (t3 : BitVec 3),
    let k := s.core s.focusCore
    let x := s.tile s.focusCore t3.toNat
    (Issues s c (.mzero t3) = true → (k.tileOps.all (fun o => decide (o.crew ≠ s.fkey ∨ o.tile ≠ t3.toNat)) = true ∨
        (∀ o ∈ k.tileOps, (s.tile s.focusCore o.tile).errors = [])) → Completes s c (.mzero t3) (fun t c' => (∀ n, (t.tile s.focusCore t3.toNat).cells.getD n 0 = 0) ∧
      (t.tile s.focusCore t3.toNat).errors = [] ∧ c'.rest = c.rest ∧ c'.sreg = c.sreg ∧ c'.vreg = c.vreg ∧ ModesKept c c' ∧
      t.mem = s.mem ∧ (∀ u, u ≠ t3.toNat → k.tileOps = [] → t.tile s.focusCore u = s.tile s.focusCore u) ∧
      (k.tileOps = [] → (t.tile s.focusCore t3.toNat).flags = x.flags))) ∧
    (k.tileOps.all (fun o => decide (o.crew ≠ s.fkey ∨ o.tile ≠ t3.toNat)) = true → x.errors = [] →
      (∀ (d col : BitVec 8), Issues s c (.mread d t3 col) = true → Completes s c (.mread d t3 col) (fun t c' =>
        (∀ j l, j < 8 → l < 64 → c.active.getLsbD l = true →
          c'.getV (d.toNat + j) l = x.cells.getD (128 * l + (col.toNat + j)) 0) ∧
        (∀ r l, l < 64 → c.active.getLsbD l = false ∨ r < d.toNat ∨ d.toNat + 8 ≤ r → c'.getV r l = c.getV r l) ∧
        c'.rest = c.rest ∧ c'.sreg = c.sreg ∧ ModesKept c c' ∧ Still s t)) ∧
      (∀ (d : BitVec 8), Issues s c (.mflags d t3) = true → Completes s c (.mflags d t3) (fun t c' =>
        (c'.getS d.toNat).toNat = x.flags.toNat ∧ (t.tile s.focusCore t3.toNat).flags = 0 ∧
        (t.tile s.focusCore t3.toNat).cells = x.cells ∧ (∀ r, r ≠ d.toNat → c'.getS r = c.getS r) ∧ c'.vreg = c.vreg ∧
        c'.rest = c.rest ∧ ModesKept c c' ∧ t.mem = s.mem)) ∧
      (∀ (a f : BitVec 8) (xs : List LaneXlat) (s2 : State), Issues s c (.mstore t3 a f) = true → c.active ≠ 0 →
        let n := if f = 0 then 4 else 2
        s.classify s.focusCore (some s.fkey) c.ctx 128 .write false ((laneVas c a.toNat 0 1).flatMap (fun r =>
          (List.range n).map (fun j => (r.1, (r.2 + 128 * j) % 2 ^ 64)))) = (.go xs [], s2) →
        Completes s c (.mstore t3 a f) (fun t c' => OnlyIssued c c' ∧ t.mem = s.mem ∧ ∃ p : Pend, c'.pend = c.pend ++ [p] ∧
          p.kind = .tstore ∧ p.size = 128 ∧
          p.accs.map (fun y : LaneAcc => (y.lane, y.va, y.loc)) = xs.map (fun y : LaneXlat => (y.lane, y.va, y.loc)) ∧
          (∀ y ∈ p.accs, ∃ j, j < n ∧ y.va = ((c.getVV a.toNat y.lane).toNat + 128 * j) % 2 ^ 64 ∧
            (f = 0 → y.data = packElems 32 ((List.range 32).map (fun q => (x.cells.getD (128 * y.lane + 32 * j + q) 0).toNat))) ∧
            (f ≠ 0 → y.data = packElems 16 ((List.range 64).map (fun q =>
              standRnd .bf16 (Fmt.binary32.value (x.cells.getD (128 * y.lane + 64 * j + q) 0).toNat)))))))) ∧
    (∀ (d a : BitVec 8) (m : BitVec 3) (b sa sb : Nat) (s2 s3 s4 : State), Issues s c (.mma d a t3 m) = true → c.pend = [] → c.waiting = none →
      c.active = BitVec.allOnes 64 → (c.getSS a.toNat).toNat % 64 = 0 → StructRead s s2 c (c.getSS a.toNat).toNat 64 b →
      formatBlockBad b = false → (fld b 0 1 ≠ 3 → d.toNat + 32 ≤ c.vregs) →
      k.jobs.all (fun j => decide (j.kind ≠ .mload)) = true → (s.mac s.focusCore m.toNat).owner = some c.ctx →
      fld b 1 1 = (s.mac s.focusCore m.toNat).fmt → (fld b 2 1 = 0 → fld b 8 8 % 4 = 0 ∧ fld b 16 8 % 4 = 0) →
      StructRead s2 s3 c (fld b 8 8) 256 sa → StructRead s3 s4 c (fld b 16 8) (if fld b 2 1 = 0 then 4 else 512) sb →
      x.errors = [] → Completes s c (.mma d a t3 m) (fun t c' => ∃ op : TileOp, (t.core s.focusCore).tileOps = k.tileOps ++ [op] ∧
        op.crew = s.fkey ∧ op.pc = c.pc ∧ op.tile = t3.toNat ∧ op.mac = m.toNat ∧ op.block = b ∧ op.sa = sa ∧ op.sb = sb ∧
        op.tsa = c.tsa ∧ op.tsb = c.tsb ∧ op.a.length = 64 ∧
        (∀ l, l < 64 → op.a.getD l 0 = packElems 32 ((List.range (if fld b 0 1 = 3 then 16 else 32)).map (fun j =>
          (c.getV (d.toNat + j) l).toNat))) ∧
        c'.rest = c.rest ∧ c'.sreg = c.sreg ∧ c'.vreg = c.vreg ∧ ModesKept c c' ∧ t.mem = s.mem ∧
        (∀ u, t.tile s.focusCore u = s.tile s.focusCore u)))

/-- The broadcast of an accepted MMA that no older one on its tile or macro precedes gives each of the 64 × 128 cells of
its tile the new value of the cell rule applied to the old one, changes no other tile, and takes that operation from the
stand; where a cell of the tile is in error, the operation ends with no effect and its crew traps POISON with the tile
next (that the trap waits for the crew's next instruction is the model's reading, log 16). MACRO_ERROR makes the macro invalid, drops every operation from it, and each crew that had one traps POISON with
the macro number next. TILE_CELL_ERROR keeps the cell as erroneous and no value changes. -/
def Obligations.BroadcastsAndErrorsOfTheStand : Prop :=
  (∀ (s : State) (core e : Nat) (op : TileOp), (s.core core).tileOps[e]? = some op →
    ((s.core core).tileOps.take e).all (fun o => decide (o.tile ≠ op.tile) && decide (o.mac ≠ op.mac)) = true →
    ∃ t, exec (.mmaBroadcast core e) s = .next t ∧ ((s.tile core op.tile).errors = [] →
      (∀ i n, i < 64 → n < 128 → (t.tile core op.tile).cells.getD (128 * i + n) 0 =
        (mmaCell op (aGroups op i) (bGroups op (s.mac core op.mac) n) i n ((s.tile core op.tile).cells.getD (128 * i + n) 0)).1) ∧
      (∀ u, u ≠ op.tile → t.tile core u = s.tile core u) ∧ t.crews = s.crews) ∧
      ((s.tile core op.tile).errors ≠ [] → (∀ u, t.tile core u = s.tile core u) ∧ ∀ c, s.crews.get? op.crew = some c →
        ∃ c', t.crews.get? op.crew = some c' ∧ c'.savedTrap = some (0x0E, BitVec.ofNat 64 op.tile) ∧ c'.sreg = c.sreg ∧ c'.vreg = c.vreg) ∧
      (t.core core).tileOps = (s.core core).tileOps.eraseIdx e ∧ t.mem = s.mem) ∧
  (∀ (s : State) (core mac : Nat), ∃ t, exec (.macroError core mac) s = .next t ∧ (t.mac core mac).owner = none ∧
    (t.core core).tileOps = (s.core core).tileOps.filter (fun o => decide (o.mac ≠ mac)) ∧ t.mem = s.mem ∧
    (∀ m, m ≠ mac → t.mac core m = s.mac core m) ∧
    (∀ o ∈ (s.core core).tileOps, o.mac = mac → ∀ c, s.crews.get? o.crew = some c → ∃ c', t.crews.get? o.crew = some c' ∧
      c'.savedTrap = some (0x0E, BitVec.ofNat 64 mac) ∧ c'.sreg = c.sreg ∧ c'.vreg = c.vreg)) ∧
  (∀ (s : State) (core tile cell : Nat), tile < 8 → cell < 8192 → ∃ t, exec (.tileCellError core tile cell) s = .next t ∧
    cell ∈ (t.tile core tile).errors ∧ (t.tile core tile).cells = (s.tile core tile).cells ∧
    (t.tile core tile).flags = (s.tile core tile).flags ∧ t.mem = s.mem)

/-- GBIND of a 64-byte aligned object that passes the checks of R263 binds it and gives 0; one that fails a structural
check leaves no binding and gives the status and the offset; a misaligned address traps MISALIGN. GSTAT gives the last
report, the state of the binding with maxrules, or an entry of the rule-value file, 0x7FC00000 where another context
wrote it. GRUN_ROW of the run that has the engine writes its next row, ends it with OK after the last, or stops a
cancelled one. -/
def Obligations.GrammarsBindRunAndReport : Prop :=
  (∀ (s : State) (c : Crew) (d a sel : BitVec 8),
    let va := (c.getSS a.toNat).toNat
    (∀ s2 b, Issues s c (.gbind d a) = true → c.pend = [] → bitsOf (s.ctx c.ctx).migthr.toNat 15 0 = 0 → va % 64 = 0 → validateObject va s = (.ok b, s2) →
      Completes s c (.gbind d a) (fun t c' => c'.binding = some b ∧ b.base = c.getSS a.toNat ∧ c'.getS d.toNat = 0 ∧ c'.gramReport = 0 ∧
        (∀ r, r ≠ d.toNat → c'.getS r = c.getS r) ∧ c'.vreg = c.vreg ∧ ModesKept c c' ∧ t.mem = s.mem)) ∧
    (∀ s2 st off, Issues s c (.gbind d a) = true → c.pend = [] → bitsOf (s.ctx c.ctx).migthr.toNat 15 0 = 0 → va % 64 = 0 → validateObject va s = (.error (.status st off), s2) →
      Completes s c (.gbind d a) (fun t c' => c'.binding = none ∧ c'.getS d.toNat = BitVec.ofNat 32 (st * 2 ^ 28 + min off 0x0FFFFFFF) ∧
        (∀ r, r ≠ d.toNat → c'.getS r = c.getS r) ∧ c'.vreg = c.vreg ∧ ModesKept c c' ∧ t.mem = s.mem)) ∧
    (Issues s c (.gbind d a) = true → va % 64 ≠ 0 → c.handles = true → TrapsWith s c (.gbind d a) c.pc 0x02 (c.getSS a.toNat)) ∧
    (Issues s c (.gstat d a sel) = true → Completes s c (.gstat d a sel) (fun t c' =>
      (sel = 0 → c'.getSS d.toNat = c.gramReport) ∧
      (sel = 1 → (c'.getS d.toNat).toNat = 2 * c.gramFlags.toNat + c.binding.isSome.toNat ∧
        c'.getS (d.toNat + 1) = BitVec.ofNat 32 ((c.binding.map Binding.maxrules).getD 0)) ∧
      (sel = 2 → c'.getS (d.toNat + 1) = 0 ∧ c'.getS d.toNat =
        if (s.core s.focusCore).rvfCtx = none ∨ (s.core s.focusCore).rvfCtx = some c.ctx then
          (s.core s.focusCore).rvf.getD (rvfKey c.ctx (c.getS a.toNat).toNat) 0 else 0x7FC00000) ∧
      (∀ r, r ≠ d.toNat → r ≠ d.toNat + 1 → c'.getS r = c.getS r) ∧ c'.vreg = c.vreg ∧ c'.rest = c.rest ∧ ModesKept c c' ∧
      Still s t))) ∧
  (∀ (s s2 : State) (core job : Nat) (j : Job) (sects : List Sect) (bad : Bool), s.job? core job = some j → j.kind = .grun →
    j.started = true → j.result = none → (s.core core).gramQ.head? = some job →
    (j.cancelled = true → ∃ t j', exec (.grunRow core job) s = .next t ∧ t.job? core job = some j' ∧
      j'.result = some (tokenOf 4 j.pos) ∧ t.mem = s.mem) ∧
    (j.cancelled = false → grunRow core (s.jobTask j) j s = (.ok (sects, bad), s2) →
      ∃ t j', exec (.grunRow core job) s = .next t ∧ t.job? core job = some j' ∧ j'.pos = j.pos + 1 ∧
        j'.nonfin = (j.nonfin || bad) ∧ t.mem = s2.mem ∧
        (j.pos + 1 = (GramHeader.ofBytes (j.aux.getD 1 0)).nrow →
          j'.result = some (tokenOf 0 (GramHeader.ofBytes (j.aux.getD 1 0)).nrow)) ∧
        (j.pos + 1 ≠ (GramHeader.ofBytes (j.aux.getD 1 0)).nrow → j'.result = none)) ∧
    (∀ report cause, j.cancelled = false → grunRow core (s.jobTask j) j s = (.error (.grammar cause report), s2) →
      ∃ t j', exec (.grunRow core job) s = .next t ∧ t.job? core job = some j' ∧ j'.result = some (tokenOf 7 j.pos) ∧
        j'.aux = [report])) ∧
  (∀ (s s2 : State) (core task cn : Nat) (y : Nat × Nat) (ps : List LaneXlat), NoneTrails s core →
    s.engineClassify core task cn [] (byteVas y.1 4) = (none, [], ps, s2) → bitsOf (s.ctx cn).migthr.toNat 15 0 = 0 →
    (ps.map (fun p => p.loc.idx)).Nodup → y.2 < 2 ^ 32 →
    ∃ s3, writeRow core task cn [y] s = (.ok (), s3) ∧
      (∀ k, k < 4 → (s3.byte ((ps.map (fun p => p.loc.idx)).getD k 0)).toNat = fld y.2 k 1) ∧
      (∀ q, q ∉ ps.map (fun p => p.loc.idx) → s3.byte q = s.byte q))

/-- The slot in focus can fire: it holds the word of operator `i`, in live region `r` with key `k`, table index `ci`, slot state `x`. -/
def SlotHolds (s : State) (i : Instr) (k : Nat) (r : Region) (ci : Nat) (x : SpSlot) : Prop :=
  s.focusSlot? = some (k, r, ci, x) ∧ s.regions.get? k = some r ∧ encode i = some x.cfg.word ∧ isOperator i = true

/-- The slot in focus fired (R279): the heads of positions `ps` left its queues, the tokens `es` entered the queues of their targets behind
what was there, no other queue of the region changed, `P` holds of the slot, and memory and every crew are as they were. -/
def Fires (s t : State) (k : Nat) (r : Region) (ci : Nat) (ps : List Nat) (es : List (Nat × Tok)) (P : SpSlot → Prop) : Prop :=
  ∃ r', t.regions.get? k = some r' ∧
    (∀ key y, r.slots.get? key = some y → ∃ y', r'.slots.get? key = some y' ∧
      ∀ p, p < 3 → y'.queue p = (if key = slotKey ci s.focusSlot ∧ p ∈ ps then (y.queue p).tail else y.queue p) ++
        (es.filter (fun e => decide (key = slotKey ci (e.1 / 4) ∧ p = e.1 % 4))).map Prod.snd) ∧
    (∃ y', r'.slots.get? (slotKey ci s.focusSlot) = some y' ∧ P y') ∧
    (∀ q, q ≠ k → t.regions.get? q = s.regions.get? q) ∧ t.mem = s.mem ∧ t.crews = s.crews

/-- What an operator of codes 0x08 to 0x16 gives on 32-bit integers (R275): signed for type 0, unsigned for type 1; `z` is the addend of FMA. -/
def integerOperator (op ty : Nat) (x y z : Word) : Word :=
  let lt (a b : Word) : Bool := if ty = 0 then decide (a.toInt < b.toInt) else decide (a.toNat < b.toNat)
  let flag (b : Bool) : Word := if b then 1 else 0
  if op = 0x08 then x + y
  else if op = 0x09 then x - y
  else if op = 0x0A then x * y
  else if op = 0x0B then x * y + z
  else if op = 0x0C then (if lt y x then y else x)
  else if op = 0x0D then (if lt x y then y else x)
  else if op = 0x0E then flag (decide (x = y))
  else if op = 0x0F then flag (decide (x ≠ y))
  else if op = 0x10 then flag (lt x y)
  else if op = 0x11 then flag (!lt y x)
  else if op = 0x12 then x &&& y
  else if op = 0x13 then x ||| y
  else if op = 0x14 then x ^^^ y
  else if op = 0x15 then x <<< (y.toNat % 32)
  else x >>> (y.toNat % 32)

/-- The operators of codes 0x08 to 0x17 (Table 12.5). -/
def arithmeticOperator (i : Instr) : Bool :=
  match i with
  | .opAdd _ _ _ _ _ _ _ => true
  | .opSub _ _ _ _ _ _ _ => true
  | .opMul _ _ _ _ _ _ _ => true
  | .opFma _ _ _ _ _ _ _ => true
  | .opMin _ _ _ _ _ _ _ => true
  | .opMax _ _ _ _ _ _ _ => true
  | .opCmpeq _ _ _ _ _ _ => true
  | .opCmpne _ _ _ _ _ _ => true
  | .opCmplt _ _ _ _ _ _ => true
  | .opCmple _ _ _ _ _ _ => true
  | .opAnd _ _ _ _ _ _ => true
  | .opOr _ _ _ _ _ _ => true
  | .opXor _ _ _ _ _ _ => true
  | .opShl _ _ _ _ _ _ => true
  | .opShr _ _ _ _ _ _ => true
  | .opDot4 _ _ _ _ _ _ _ => true
  | _ => false

/-- For ADD, SUB, MUL, FMA, MIN, MAX, CMPEQ, CMPNE, CMPLT, CMPLE, AND, OR, XOR, SHL, SHR and DOT4, whose slot may fire,
with a DATA token at the head of each position it uses and room at its targets: the operator fires, consumes those
heads, and sends one DATA token to A and B, or nothing where the predicate gate is closed; on the 32-bit integer types
without saturation the value is that of the integer operation, with K in place of R where the word says so. Heads that
are not all DATA give the one token that R280 forms. -/
def Obligations.ArithmeticOperatorsFire : Prop :=
  ∀ (s : State) (i : Instr) (k : Nat) (r : Region) (ci : Nat) (x : SpSlot), SlotHolds s i k r ci x → arithmeticOperator i = true →
    r.room ci x.loads.length (sendAll x.cfg.both ⟨0, 0⟩) = true →
    (∀ vs : List Word, x.heads x.cfg.uses = some (vs.map (fun v => ⟨v, 0⟩)) →
      let last := vs.getD (vs.length - 1) 0
      let b := if x.cfg.mod.testBit 5 then x.cfg.konst else vs.getD 1 0
      let z := if x.cfg.mod.testBit 7 then last else x.cfg.konst
      ∃ t v, exec i s = .next t ∧
        Fires s t k r ci x.cfg.uses (if x.cfg.mod.testBit 6 ∧ last.getLsbD 0 = false then [] else sendAll x.cfg.both ⟨v, 0⟩) (fun y =>
          y.cfg = x.cfg ∧ y.acc = x.acc) ∧
        (x.cfg.ty ≤ 1 → x.cfg.op ≤ 0x16 → (x.cfg.op = 0x0B ∨ x.cfg.mod.testBit 7 = false) →
          v = integerOperator x.cfg.op x.cfg.ty (vs.getD 0 0) b z)) ∧
    (∀ h hs, x.heads x.cfg.uses = some (h :: hs) → (h :: hs).any (fun u => decide (u.tag ≠ 0)) = true →
      ∃ t, exec i s = .next t ∧
        Fires s t k r ci x.cfg.uses (sendAll x.cfg.both (mixTok x ci s.focusSlot (h :: hs))) (fun _ => True)) ∧
    (x.heads x.cfg.uses = none → exec i s = .next s)

/-- PASS and COPY send the head unchanged; SEL sends L or R by P, STEER sends L to A or B by P and two SCALEs to both
unchanged, PASS with a predicate gate forwards a SCALE beside a SCALE; MERGE takes the DATA head that arrived or that P
names; RATE sends a scale and then its elements; SCALEMUL latches a scale and sends the product of a float element and
that scale, rounded once to FP32; CVT sends one token of the converted elements, under every rounding code but that of
the generator; LOOPGEN takes its bound and sends the indices K0 + i
× K1; COUNT and ACC take DATA and send their value before a MARK of the rank; TGATE takes a round edge and then releases
L; INJ sends a placed TIDE or an injected pair; EDGERX sends the track's first token. -/
def Obligations.RoutingOperatorsFire : Prop :=
  ∀ (s : State) (i : Instr) (k : Nat) (r : Region) (ci : Nat) (x : SpSlot), SlotHolds s i k r ci x →
    let c := x.cfg
    let both (u : Tok) := sendAll c.both u
    let done (ps : List Nat) (es : List (Nat × Tok)) (P : SpSlot → Prop) : Prop :=
      r.room ci x.loads.length es = true → ∃ t, exec i s = .next t ∧ Fires s t k r ci ps es P
    (∀ pa pb pg pr pk pt, i = .opPass pa pb pg pr pk pt → c.mod.testBit 6 = false → ∀ u q, x.left = u :: q → done [0] (sendAll c.targets u) (fun _ => True)) ∧
    (∀ pa pb pg pr pk pt, i = .opPass pa pb pg pr pk pt → c.mod.testBit 6 = true → ∀ v p : Word, x.heads c.uses = some [⟨v, 0⟩, ⟨p, 0⟩] →
      done [0, 2] (if p.getLsbD 0 then both ⟨v, 0⟩ else []) (fun _ => True)) ∧
    (∀ pa pb pg pr pk pt, i = .opPass pa pb pg pr pk pt → c.mod.testBit 6 = true → ∀ (v w : Word) q q', x.left = ⟨v, 1⟩ :: q → x.pred = ⟨w, 1⟩ :: q' →
      done [0, 2] (both ⟨v, 1⟩) (fun _ => True)) ∧
    (∀ pa pb, i = .opCopy pa pb → ∀ u q, x.left = u :: q → done [0] (sendAll c.targets u) (fun _ => True)) ∧
    (∀ pa pb, i = .opSel pa pb → ∀ a b p : Word, x.heads [0, 1, 2] = some [⟨a, 0⟩, ⟨b, 0⟩, ⟨p, 0⟩] →
      done [0, 1, 2] (both ⟨if p.getLsbD 0 then a else b, 0⟩) (fun _ => True)) ∧
    (∀ pa pb, i = .opSteer pa pb → ∀ a p : Word, x.heads [0, 2] = some [⟨a, 0⟩, ⟨p, 0⟩] →
      let g := if p.getLsbD 0 then c.tgtA else c.tgtB
      done [0, 2] (if g % 4 = 3 then [] else [(g, ⟨a, 0⟩)]) (fun _ => True)) ∧
    (∀ pa pb, i = .opSteer pa pb → ∀ (v w : Word) q q', x.left = ⟨v, 1⟩ :: q → x.pred = ⟨w, 1⟩ :: q' → done [0, 2] (both ⟨v, 1⟩) (fun _ => True)) ∧
    (∀ pa pb pg, i = .opMerge pa pb pg → c.mod.testBit 6 = false → ∀ (v : Word) q, x.left = ⟨v, 0⟩ :: q → done [0] (both ⟨v, 0⟩) (fun _ => True)) ∧
    (∀ pa pb pg, i = .opMerge pa pb pg → c.mod.testBit 6 = false → x.left = [] → ∀ (v : Word) q, x.right = ⟨v, 0⟩ :: q →
      done [1] (both ⟨v, 0⟩) (fun _ => True)) ∧
    (∀ pa pb pg, i = .opMerge pa pb pg → c.mod.testBit 6 = true → ∀ (p v : Word) q q', x.pred = ⟨p, 0⟩ :: q →
      x.queue (if p.getLsbD 0 then 0 else 1) = ⟨v, 0⟩ :: q' →
      done [2, if p.getLsbD 0 then 0 else 1] (both ⟨v, 0⟩) (fun _ => True)) ∧
    (∀ pa pb px pr pt, i = .opCvt pa pb px pr pt → ∀ (v : Word) q, x.left = ⟨v, 0⟩ :: q → r.room ci x.loads.length (both ⟨0, 0⟩) = true →
      ∃ t y, exec i s = .next t ∧ Fires s t k r ci [0] (both ⟨y, 0⟩) (fun z => z.cfg = c) ∧
        (c.mod / 16 % 8 ≠ 5 → y = BitVec.ofNat 32 (packElems (widthOf (c.ecr0.toNat % 16)) ((List.range (countOf (c.ecr0.toNat % 16))).map (fun n =>
          convertElem c.ty (c.ecr0.toNat % 16) ⟨c.mod / 16 % 8, c.mod.testBit 7, false, 0⟩ (elemAt (widthOf c.ty) v.toNat n)))))) ∧
    (∀ pa pb, i = .opRate pa pb → c.tgtA % 4 ≠ 3 → x.block = 0 → ∀ (v : Word) q, x.right = ⟨v, 1⟩ :: q →
      done [1] [(c.tgtA, ⟨v, 1⟩)] (fun y => y.block = 32)) ∧
    (∀ pa pb, i = .opRate pa pb → c.tgtA % 4 ≠ 3 → ∀ (n : Nat) (v : Word) q, x.block = n + 1 → x.left = ⟨v, 0⟩ :: q →
      done [0] [(c.tgtA, ⟨v, 0⟩)] (fun y => y.block = n)) ∧
    (∀ pa pb pk pt, i = .opScalemul pa pb pk pt → ∀ (v : Word) q, x.left = ⟨v, 1⟩ :: q → done [0] [] (fun y => y.acc = v)) ∧
    (∀ pa pb pk pt, i = .opScalemul pa pb pk pt → ∀ (v : Word) q, x.left = ⟨v, 0⟩ :: q → r.room ci x.loads.length (both ⟨0, 0⟩) = true →
      ∃ t y, exec i s = .next t ∧ Fires s t k r ci [0] (both ⟨y, 0⟩) (fun z => z.acc = x.acc) ∧
        ∀ f, elemKind c.ty = .flt f → let scale := if x.acc.toNat < 256 then Fmt.e4m3.value x.acc.toNat else Fmt.binary32.value x.acc.toNat
          y = BitVec.ofNat 32 (rndFloat .binary32 ⟨0, false, false, 0⟩ ((f.value (elemAt f.width v.toNat 0)).mul scale))) ∧
    (∀ pa pb pr pk pt, i = .opLoopgen pa pb pr pk pt → x.loop = none → ∀ (v : Word) q, x.left = ⟨v, 0⟩ :: q → done [0] [] (fun y => y.loop = some (v, 0))) ∧
    (∀ pa pb pr pk pt, i = .opLoopgen pa pb pr pk pt → c.tgtA % 4 ≠ 3 → ∀ (n : Word) (m : Nat), x.loop = some (n, m) → (m : Int) < n.toInt →
      done [] [(c.tgtA, ⟨c.ecr0 + BitVec.ofNat 32 m * c.ecr1, 0⟩)] (fun y => y.loop = some (n, m + 1))) ∧
    (∀ pa pb pr pk pt, i = .opCount pa pb pr pk pt → ∀ (v : Word) q, x.left = ⟨v, 0⟩ :: q → done [0] [] (fun y => y.acc = x.acc + 1)) ∧
    (∀ pa pb pr pk pt, i = .opAcc pa pb pr pk pt → c.ty ≤ 1 → ∀ (v : Word) q, x.left = ⟨v, 0⟩ :: q → done [0] [] (fun y => y.acc = x.acc + v)) ∧
    (∀ pa pb pr pk pt, i = .opCount pa pb pr pk pt → ∀ (v : Word) q, x.left = ⟨v, 2⟩ :: q → c.mod / 32 % 8 ≤ v.toNat % 8 →
      done [0] (both ⟨x.acc, 0⟩ ++ both ⟨v, 2⟩) (fun y => y.acc = 0)) ∧
    (∀ pa pb pr pk pt, i = .opAcc pa pb pr pk pt → ∀ (v : Word) q, x.left = ⟨v, 2⟩ :: q → c.mod / 32 % 8 ≤ v.toNat % 8 →
      done [0] (both ⟨x.acc, 0⟩ ++ both ⟨v, 2⟩) (fun y => y.acc = c.konst)) ∧
    (∀ pa pb, i = .opInj pa pb → ∀ (n : Nat) ns, x.tides = n :: ns → x.tide < n →
      done [] (both ⟨BitVec.ofNat 32 n, 3⟩) (fun y => y.tides = ns ∧ y.tide = n)) ∧
    (∀ pa pb, i = .opInj pa pb → x.tides = [] → r.paused = false → r.saving = 0 → r.stopping = none → ∀ (a b : Word) q, x.injects = (⟨a, 0⟩, ⟨b, 0⟩) :: q →
      done [] ((if c.tgtA % 4 = 3 then [] else [(c.tgtA, ⟨a, 0⟩)]) ++ (if c.tgtB % 4 = 3 then [] else [(c.tgtB, ⟨b, 0⟩)]))
        (fun y => y.injects = q)) ∧
    (∀ pa pb, i = .opTgate pa pb → x.gate = 0 → ∀ u q, x.right = u :: q → u.tag = 3 ∨ u.tag = 5 → done [1] [] (fun y => y.gate = u.tag)) ∧
    (∀ pa pb, i = .opTgate pa pb → x.gate ≠ 0 → ∀ u q, x.left = u :: q →
      done [0] (both u) (fun y => y.gate = if u.tag = x.gate then 0 else x.gate)) ∧
    (∀ pa pb pt pc, i = .opEdgerx pa pb pt pc → ∀ u q, x.track = u :: q → done [] (both u) (fun y => y.track = q))

/-- SRC sends a placed TIDE before anything else, and otherwise the next element that its bound stream has read. SNK
writes its DATA head to the next element's address of its bound stream. MEMLD sends a request for the word at base + 4 ×
index, and its reply lands as a DATA token with the word in memory; MEMST writes the word there and no other byte
changes. EXITX puts its heads behind the records of its exit buffer, and EDGETX its head on an empty track of the
neighbour. What SNK writes and what a reply brings are stated where no store that a release has acknowledged for the
core is still outstanding (log 81). -/
def Obligations.MemoryAndBoundaryOperatorsFire : Prop :=
  (∀ (s : State) (i : Instr) (k : Nat) (r : Region) (ci : Nat) (x : SpSlot), SlotHolds s i k r ci x →
    let c := x.cfg
    let sl := s.focusSlot
    (∀ pa pb, i = .opSrc pa pb → ∀ n ns, x.tides = n :: ns → r.room ci x.loads.length (sendAll c.both ⟨BitVec.ofNat 32 n, 3⟩) = true →
      ∃ t, exec i s = .next t ∧ Fires s t k r ci [] (sendAll c.both ⟨BitVec.ofNat 32 n, 3⟩) (fun y => y.tides = ns)) ∧
    (∀ pa pb, i = .opSrc pa pb → x.tides = [] → r.paused = false → r.saving = 0 → r.stopping = none → ∀ (j : Job) (v : Nat), s.portJob k ci sl = some j →
      j.stream.part = 0 → j.buffer.get? j.stream.next = some v → cardSize j.card ≠ 8 →
      r.room ci x.loads.length (sendAll c.both ⟨0, 0⟩) = true →
      ∃ t, exec i s = .next t ∧ Fires s t k r ci [] (sendAll c.both ⟨BitVec.ofNat 32 v, 0⟩) (fun _ => True) ∧
        ∃ j' : Job, t.job? (k / 64) j.id = some j' ∧ (s.job? (k / 64) j.id = some j → j'.pos = j.pos + 1)) ∧
    (i = .opSnk → x.reported = false → ∀ (v : Word) q (j : Job) (s2 : State) (ys : List LaneXlat), x.left = ⟨v, 0⟩ :: q →
      s.portJob k ci sl = some j → s.job? (k / 64) j.id = some j → cardSize j.card ≤ 4 → j.pos < cardCount j.card →
      NoneTrails s (r.cores.getD ci 0) →
      ((s.setSlot k ci sl { x with left := q, pos := x.pos + 1, half := none }).engineClassify (r.cores.getD ci 0) (s.jobTask j) j.ctx []
        (byteVas (cardAddr j.card j.pos) (cardSize j.card)) = (none, [], ys, s2)) →
      (ys.map (fun y => y.loc.idx)).Nodup → bitsOf (s.ctx j.ctx).migthr.toNat 15 0 = 0 →
      ∃ t, exec i s = .next t ∧ (∃ j' : Job, t.job? (k / 64) j.id = some j' ∧ j'.pos = j.pos + 1) ∧
        (∀ m, m < cardSize j.card → (t.byte ((ys.map (fun y => y.loc.idx)).getD m 0)).toNat = fld v.toNat m 1) ∧
        (∀ b, b ∉ ys.map (fun y => y.loc.idx) → t.byte b = s.byte b) ∧
        (∃ r' y', t.regions.get? k = some r' ∧ r'.slots.get? (slotKey ci sl) = some y' ∧ y'.left = q)) ∧
    (∀ pa pb, i = .opMemld pa pb → ∀ (v : Word) q (l : Loc) (s2 : State), x.left = ⟨v, 0⟩ :: q → s.memGo s.focusCore r.ctx x (c.memVa v) .read = (.ok l, s2) →
      r.room ci x.loads.length (sendAll c.both ⟨0, 0⟩) = true →
      ∃ t, exec i s = .next t ∧ t.mem = s.mem ∧
        (∃ r' y', t.regions.get? k = some r' ∧ r'.slots.get? (slotKey ci sl) = some y' ∧ y'.left = q ∧ y'.loads = x.loads ++ [none]) ∧
        (∃ p, (t.core s.focusCore).replies = (s.core s.focusCore).replies ++ [p] ∧ p.loc = l ∧ p.slot = slotKey ci sl ∧ p.region = k ∧
          p.version = (s.core s.focusCore).version)) ∧
    (i = .opMemst → ∀ (v w : Word) q q' (l : Loc) (s2 : State), x.left = ⟨v, 0⟩ :: q → x.right = ⟨w, 0⟩ :: q' →
      s.memGo s.focusCore r.ctx x (c.memVa v) .write = (.ok l, s2) → bitsOf (s.ctx r.ctx).migthr.toNat 15 0 = 0 →
      ∃ t, exec i s = .next t ∧ t.bytes l.idx 4 = w.toNat ∧ (∀ b, b < l.idx ∨ l.idx + 4 ≤ b → t.byte b = s.byte b) ∧
        (∃ r' y', t.regions.get? k = some r' ∧ r'.slots.get? (slotKey ci sl) = some y' ∧ y'.left = q ∧ y'.right = q')) ∧
    (i = .opExitx → ∀ u hs, x.heads c.uses = some (u :: hs) → x.exits.length < 8 →
      ∃ t r' y' e, exec i s = .next t ∧ t.regions.get? k = some r' ∧ r'.slots.get? (slotKey ci sl) = some y' ∧
        y'.exits = x.exits ++ [e] ∧ e.left = u ∧ e.right = hs.getD 0 ⟨0, 0⟩ ∧ y'.left = x.left.tail ∧ t.mem = s.mem) ∧
    (∀ pt pc, i = .opEdgetx pt pc → ∀ u q c' h' cr y, x.left = u :: q → neighbour s.focusCore c.edge.1 = some (c', h', cr) →
      (edgeSlots (r.slots.map (fun e => (e.1, e.2.cfg))) (r.cores.idxOf c') 0x39 h' c.edge.2).head? = some y →
      y ≠ slotKey ci sl → (∃ z, r.slots.get? y = some z ∧ z.track = []) →
      ∃ t r' z' y', exec i s = .next t ∧ t.regions.get? k = some r' ∧ r'.slots.get? y = some z' ∧ z'.track = [u] ∧
        r'.slots.get? (slotKey ci sl) = some y' ∧ y'.left = q ∧ t.mem = s.mem)) ∧
  (∀ (s : State) (core e : Nat) (p : MemReply) (r : Region) (x : SpSlot) (rest : List (Option Tok)), (s.core core).replies[e]? = some p →
    p.version = (s.core core).version → (s.regionAt core).isSome = true →
    ((s.core core).replies.take e).all (fun q => decide (q.slot ≠ p.slot)) = true → s.regions.get? p.region = some r →
    r.slots.get? p.slot = some x → x.loads = none :: rest → p.slot < 64 * 48 → NoneTrails s core → bitsOf (s.ctx p.ctx).migthr.toNat 15 0 = 0 →
    ∃ t r' x', exec (.memoryReply core e) s = .next t ∧ (t.core core).replies = (s.core core).replies.eraseIdx e ∧
      t.regions.get? p.region = some r' ∧ r'.slots.get? p.slot = some x' ∧
      (∀ g ∈ x.cfg.both, ∀ y, g / 4 ≠ p.slot % 64 → r.slots.get? (slotKey (p.slot / 64) (g / 4)) = some y → ∃ y' qs,
        r'.slots.get? (slotKey (p.slot / 64) (g / 4)) = some y' ∧ y'.queue (g % 4) = y.queue (g % 4) ++ qs ∧
        (⟨BitVec.ofNat 32 (s.bytes p.loc.idx 4), 0⟩ : Tok) ∈ qs)) ∧
  (∀ (s : State) (core e : Nat) (p : MemReply), (s.core core).replies[e]? = some p → p.version ≠ (s.core core).version →
    ∃ t, exec (.memoryReply core e) s = .next t ∧ (t.core core).killdrop = (s.core core).killdrop + 1 ∧
      (t.core core).replies = (s.core core).replies.eraseIdx e ∧ t.regions = s.regions ∧ t.mem = s.mem)

/-- SPENT of a readable image waits with the named cores draining, so that no crew of them issues but one whose MMA the
stand has still to accept, and completes at the SPENT_COMMIT that finds it drained. SPENT_COMMIT of a drained switch
whose checks pass makes the region live and every version one higher, and completes SPENT with the version; with a
failing check, or a configuration store in error, no region is left and SPENT completes with the ABORTED token. SPWAIT
completes with status 0 at completion or 1 at its deadline; SPEXIT of an empty region whose completion is stored ends it
and gives its status. -/
def Obligations.SpatialModeIsEnteredAndLeft : Prop :=
  (∀ (s s2 s3 : State) (c : Crew) (d a b : BitVec 8) (hdr img : Nat), Issues s c (.spent d a b) = true → c.pend = [] →
    c.sib.sibling = false → s.regions.get? s.fkey = none → (c.getSS a.toNat).toNat % 64 = 0 → StructRead s s2 c (c.getSS a.toNat).toNat 64 hdr →
    StructRead s2 s3 c (c.getSS a.toNat).toNat (max 64 (fld hdr 12 4)) img →
    ∃ t c' r, exec (.spent d a b) s = .next t ∧ t.crews.get? s.fkey = some c' ∧
      c'.pc = c.pc ∧ c'.waiting = some .spent ∧ t.regions.get? s.fkey = some r ∧ r.live = false ∧
      r.cores = imageCores img s.focusCore ∧ r.token = d.toNat ∧ r.image = img ∧ t.mem = s.mem ∧
      (∀ n slot, n ∈ r.cores → slot < 64 → (t.crews.get? (crewKey n slot)).elim false Crew.inMma = false →
        t.mayIssue (crewKey n slot) = false) ∧
      (t.drained r.cores = true → ((r.cores.foldl State.settleCore t).crews.get? s.fkey).bind Crew.savedTrap = none →
        ∃ t2 c2, exec (.spentCommit s.focusCore s.focusSlot false) t = .next t2 ∧ t2.crews.get? s.fkey = some c2 ∧ c2.pc = c.pc + 4 ∧
          c2.issued = c.issued + 1 ∧ c2.waiting = none)) ∧
  (∀ (s : State) (core slot : Nat) (r : Region) (c : Crew) (bad : Bool), s.regions.get? (crewKey core slot) = some r → r.live = false →
    s.drained r.cores = true → (r.cores.foldl State.settleCore s).crews.get? (crewKey core slot) = some c → slot < 64 →
    c.savedTrap = none →
    let u := r.cores.foldl State.settleCore s
    (u.imageReason (crewKey core slot) r.image none = none → bad = true →
      ∃ t c' ci, exec (.spentCommit core slot bad) s = .next t ∧ t.crews.get? (crewKey core slot) = some c' ∧ c'.pc = c.pc + 4 ∧
        t.regions.get? (crewKey core slot) = none ∧ c'.getS r.token = abortedToken 2 ci 0xFFFF ∧ ci < max 1 r.cores.length) ∧
    (u.imageReason (crewKey core slot) r.image none = none → bad = false →
      ∃ t c' r', exec (.spentCommit core slot bad) s = .next t ∧ t.crews.get? (crewKey core slot) = some c' ∧ c'.pc = c.pc + 4 ∧
        t.regions.get? (crewKey core slot) = some r' ∧ r'.live = true ∧ r'.round = r.round ∧
        c'.getS r.token = ((t.core core).version).zeroExtend 32 ∧
        (r.cores.Nodup → ∀ n ∈ r.cores, (t.core n).version = (s.core n).version + 1) ∧
        (∀ q, q ≠ r.token → c'.getS q = c.getS q) ∧ c'.vreg = c.vreg) ∧
    (∀ reason ci info, u.imageReason (crewKey core slot) r.image none = some (reason, ci, info) →
      ∃ t c', exec (.spentCommit core slot bad) s = .next t ∧ t.crews.get? (crewKey core slot) = some c' ∧ c'.pc = c.pc + 4 ∧
        t.regions.get? (crewKey core slot) = none ∧ c'.getS r.token = abortedToken reason ci info ∧
        (∀ q, q ≠ r.token → c'.getS q = c.getS q) ∧ c'.vreg = c.vreg)) ∧
  (∀ (s : State) (c : Crew) (d a : BitVec 8) (k : Nat) (r : Region), Issues s c (.spwait d a) = true → s.focusSlot < 64 → c.pend = [] →
    s.regionAt s.focusCore = some (k, r) →
    let dl := c.deadline.getD (s.clock + (c.getS a.toNat).toNat)
    (r.complete = true → Completes s c (.spwait d a) (fun t c' => c'.getS d.toNat = r.status ∧ c'.getS (d.toNat + 1) = 0 ∧
      c'.vreg = c.vreg ∧ t.mem = s.mem ∧ (2 ≤ r.scope → (t.core s.focusCore).l1 = []))) ∧
    (r.complete = false → dl ≤ s.clock → Completes s c (.spwait d a) (fun t c' => c'.getS d.toNat = r.status ∧
      c'.getS (d.toNat + 1) = 1 ∧ c'.vreg = c.vreg ∧ t.mem = s.mem)) ∧
    (r.complete = false → s.clock < dl → ∃ t c', exec (.spwait d a) s = .next t ∧ t.crews.get? s.fkey = some c' ∧ c'.pc = c.pc ∧
      c'.waiting = some (.spwait d a) ∧ c'.deadline = some dl ∧ c'.sreg = c.sreg)) ∧
  (∀ (s : State) (core slot : Nat) (c : Crew) (d a : BitVec 8) (dl : Nat), (s.focusOn core slot).crew? = some c →
    c.waiting = some (.spwait d a) → c.deadline = some dl → dl ≤ s.clock →
    exec (.spwaitDeadline core slot) s = exec (.spwait d a) (s.focusOn core slot)) ∧
  (∀ (s : State) (core slot : Nat) (c : Crew) (d : BitVec 8), (s.focusOn core slot).crew? = some c → c.waiting = some (.spexit d) →
    exec (.spexitComplete core slot) s = exec (.spexit d) (s.focusOn core slot)) ∧
  (∀ (s : State) (c : Crew) (d : BitVec 8) (r : Region), Issues s c (.spexit d) = true → s.regions.get? s.fkey = some r →
    (s.exitReady s.fkey r = false → ∃ t c', exec (.spexit d) s = .next t ∧ t.crews.get? s.fkey = some c' ∧ c'.pc = c.pc ∧
      c'.waiting = some (.spexit d) ∧ t.regions = s.regions) ∧
    (s.exitReady s.fkey r = true → r.complete = true → c.pend = [] → r.handlers = [] → s.traces = [] →
      Completes s c (.spexit d) (fun t c' => t.regions.get? s.fkey = none ∧ c'.getS d.toNat = r.status ∧
        (∀ q, q ≠ d.toNat → c'.getS q = c.getS q) ∧ c'.vreg = c.vreg ∧ t.mem = s.mem ∧
        c'.unobs = c.unobs.filter (fun u => !u.region)))) ∧
  (∀ (s s2 : State) (core slot : Nat) (r : Region) (l : Loc), s.regions.get? (crewKey core slot) = some r → r.live = true →
    r.complete = false → r.withOp 0x31 ≠ [] → (r.withOp 0x31).all (fun e => e.2.reported) = true →
    (s.regionStreams (crewKey core slot)).all (fun j => decide (j.stream.dir ≠ 2)) = true → r.cwPark = none →
    r.cw.toNat % 4 = 0 → slot < 64 → r.scope < 2 → s.xlate core none r.ctx r.cw.toNat .write = (.ok l, s2) →
    bitsOf (s.ctx r.ctx).migthr.toNat 15 0 = 0 →
    ∃ t r', exec (.regionCompletion core slot) s = .next t ∧ t.regions.get? (crewKey core slot) = some r' ∧ r'.complete = true ∧
      t.bytes l.idx 4 = (2 ^ 31 + r.status.toNat) % 2 ^ 32 ∧ (∀ b, b < l.idx ∨ l.idx + 4 ≤ b → t.byte b = s.byte b))

/-- For a crew whose core is in spatial mode: ECW puts one change behind the slot's others; TMARK with no TIDE still to
emit opens the next round and gives its number; SPINJ puts a pair into an INJ slot with fewer than four; SPTAKE takes
the oldest record that names the crew, or waits; SPSTOP end begins an end stop of cause 6, hold and quiet set their
states, without effect once the region is ending, and release lifts them; SPSTAT gives a status pair; SPRCFG of a
good descriptor of one entry gives 0 with one change at its slot. -/
def Obligations.RegionInstructionsAct : Prop :=
  ∀ (s : State) (c : Crew) (k : Nat) (r : Region) (d a b : BitVec 8), s.regionAt s.focusCore = some (k, r) → s.regions.get? k = some r →
    let kept (t : State) (c' : Crew) : Prop := c'.vreg = c.vreg ∧ ModesKept c c' ∧ t.mem = s.mem
    (∀ y, Issues s c (.ecw a b) = true → (c.getS b.toNat).toNat / 2 ^ 7 % 2 = 0 → (c.getS b.toNat).toNat < 2 ^ 16 →
      (c.getS b.toNat).toNat / 256 < r.cores.length →
      r.slots.get? ((c.getS b.toNat).toNat / 256 * 64 + (c.getS b.toNat).toNat % 64) = some y → ((c.getS b.toNat).toNat / 64 % 2 = 0 → y.cfg.op ∉ [0x02, 0x20, 0x34]) → y.cfg.op ≠ 0x20 → y.cfg.empty = false →
      ((r.waiting ((c.getS b.toNat).toNat / 256)).filter (fun h => match h with | .ecw _ _ => true | _ => false)).length < 16 →
      Completes s c (.ecw a b) (fun t c' => kept t c' ∧ c'.sreg = c.sreg ∧ ∃ r' y', t.regions.get? k = some r' ∧
        r'.slots.get? ((c.getS b.toNat).toNat / 256 * 64 + (c.getS b.toNat).toNat % 64) = some y' ∧
        y'.changes = y.changes ++ [.ecw ((c.getS b.toNat).toNat / 64 % 2) (c.getS a.toNat)] ∧ y'.cfg = y.cfg)) ∧
    (Issues s c (.tmark d) = true → r.slots.all (fun e => e.2.tides.isEmpty) = true →
      Completes s c (.tmark d) (fun t c' => kept t c' ∧ c'.getS d.toNat = BitVec.ofNat 32 (r.round + 1) ∧
        (∀ q, q ≠ d.toNat → c'.getS q = c.getS q) ∧ ∃ r', t.regions.get? k = some r' ∧ r'.round = r.round + 1 ∧
        ∀ n x, r.slots.get? n = some x → ∃ x', r'.slots.get? n = some x' ∧
          x'.tides = if x.cfg.op = 0x30 ∨ x.cfg.op = 0x35 then [r.round + 1] else [])) ∧
    (∀ x, Issues s c (.spinj a b) = true → let sel := (c.getS b.toNat).toNat
      sel / 64 % 4 = 0 → sel / 2 ^ 19 % 2 = 0 → sel < 2 ^ 23 → sel / 2 ^ 16 % 8 ≤ 5 → sel / 2 ^ 20 % 8 ≤ 5 →
      sel / 256 % 256 < r.cores.length → r.slots.get? (sel / 256 % 256 * 64 + sel % 64) = some x → x.cfg.op = 0x35 →
      x.injects.length < 4 →
      Completes s c (.spinj a b) (fun t c' => kept t c' ∧ c'.sreg = c.sreg ∧ ∃ r' x', t.regions.get? k = some r' ∧
        r'.slots.get? (sel / 256 % 256 * 64 + sel % 64) = some x' ∧
        x'.injects = x.injects ++ [(⟨c.getS a.toNat, sel / 2 ^ 16 % 8⟩, ⟨c.getS (a.toNat + 1), sel / 2 ^ 20 % 8⟩)])) ∧
    (Issues s c (.sptake d) = true →
      (r.exitsFor s.fkey = [] → ∃ t c', exec (.sptake d) s = .next t ∧ t.crews.get? s.fkey = some c' ∧ c'.pc = c.pc ∧
        c'.waiting = some (.sptake d) ∧ c'.sreg = c.sreg ∧ t.regions = s.regions) ∧
      (∀ n x e, (n, x, e) ∈ r.exitsFor s.fkey → (∀ f ∈ r.exitsFor s.fkey, f ≠ (n, x, e) → e.seq < f.2.2.seq) → Completes s c (.sptake d) (fun t c' => kept t c' ∧
        c'.getS d.toNat = e.left.value ∧ c'.getS (d.toNat + 1) = e.right.value ∧
        c'.getS (d.toNat + 2) = BitVec.ofNat 32 (n % 64 + e.left.tag * 256 + e.right.tag * 4096) ∧ c'.getS (d.toNat + 3) = 0 ∧
        ∃ r' x', t.regions.get? k = some r' ∧ r'.slots.get? n = some x' ∧ x'.exits = x.exits.tail))) ∧
    (Issues s c .spstopEnd = true → Completes s c .spstopEnd (fun t c' => kept t c' ∧ c'.sreg = c.sreg ∧ ∃ r', t.regions.get? k = some r' ∧
      (r.canEnd = true → r'.stopping = some 6 ∧ r'.held = false) ∧ (r.canEnd = false → r' = r))) ∧
    (Issues s c .spstopHold = true → Completes s c .spstopHold (fun t c' => kept t c' ∧ c'.sreg = c.sreg ∧ ∃ r', t.regions.get? k = some r' ∧
      (r.canEnd = true → r'.held = true ∧ r'.slots = r.slots) ∧ (r.canEnd = false → r' = r))) ∧
    (Issues s c .spstopQuiet = true → Completes s c .spstopQuiet (fun t c' => kept t c' ∧ c'.sreg = c.sreg ∧ ∃ r', t.regions.get? k = some r' ∧
      (r.canEnd = true → r.quiet = false → r'.quiet = true ∧ r'.paused = true ∧ r'.round = r.round + 1) ∧
      (r.canEnd = false → r' = r))) ∧
    (Issues s c .spstopRelease = true → Completes s c .spstopRelease (fun t c' => kept t c' ∧ c'.sreg = c.sreg ∧ ∃ r', t.regions.get? k = some r' ∧
      (r.live = true → r.held = true ∨ r.quiet = true → r'.held = false ∧ r'.quiet = false ∧ r'.paused = false ∧ r'.slots = r.slots) ∧
      (r.held = false → r.quiet = false → r' = r))) ∧
    (∀ sel : BitVec 8, Issues s c (.spstat d a sel) = true →
      (sel ≠ 2 ∧ sel ≠ 3 ∨ ((c.getS a.toNat).toNat / 64 % 4 = 0 ∧ (c.getS a.toNat).toNat < 2 ^ 14 ∧
        (c.getS a.toNat).toNat / 256 < r.cores.length)) →
      Completes s c (.spstat d a sel) (fun t c' => kept t c' ∧ t.regions = s.regions ∧
        (∀ q, q ≠ d.toNat → q ≠ d.toNat + 1 → c'.getS q = c.getS q) ∧
        (sel = 0 → c'.getS d.toNat = r.status ∧
          c'.getS (d.toNat + 1) = BitVec.ofNat 32 (r.stateCode + r.completeRound % 2 ^ 16 * 2 ^ 16)) ∧
        (sel = 1 → r.first = none → c'.getS d.toNat = 0) ∧
        (sel = 2 → ∀ x, r.slots.get? ((c.getS a.toNat).toNat / 256 * 64 + (c.getS a.toNat).toNat % 64) = some x →
          c'.getS d.toNat = BitVec.ofNat 32 x.lost))) ∧
    (∀ (s2 s3 : State) (hdr desc : Nat), Issues s c (.sprcfg d a) = true → c.pend = [] → (c.getSS a.toNat).toNat % 16 = 0 →
      StructRead s s2 c (c.getSS a.toNat).toNat 16 hdr → fld hdr 0 2 = 1 →
      StructRead s2 s3 c (c.getSS a.toNat).toNat 48 desc → r.slots.all (fun e => e.2.changes.isEmpty) = true →
      ∀ n cfg, rcfgEntry r desc 0 = some (n, cfg) →
      (let all_ := (r.latest.insert n cfg).filter (fun e => !e.2.empty)
       rcfgBad r all_ desc 0 = false ∧ all_.all (fun e => slotLinked all_ e.1 e.2 && edgeOk all_ r.cores e.1 e.2) = true) →
      Completes s c (.sprcfg d a) (fun t c' => kept t c' ∧ c'.getS d.toNat = 0 ∧ (∀ q, q ≠ d.toNat → c'.getS q = c.getS q) ∧
        ∃ r' x', t.regions.get? k = some r' ∧ r'.slots.get? n = some x' ∧ x'.cfg = (r.slotAt n).cfg ∧
          x'.changes = (r.slotAt n).changes ++ [.entry cfg r.cfgSeq] ∧
          (∀ m, m ≠ n → r'.slots.get? m = r.slots.get? m)))

/-- WATCHDOG of a region that holds a token, under no hold, with no firing for WDTICKS begins an end stop of cause 7,
and does nothing before. DRAIN_END of a quiet region whose round is complete and which holds no token makes it a hold;
of an end stop that can fire no more it discards every token. SAVE_STOP first opens a round with the sources paused, or
none in a region that an end stop has stopped, and freezes the region once nothing moves; the holds of SPSTOP stay.
DEBUG_HALT freezes one core; HALT_RELEASE lets a halted crew and its core go on; a corrected error is counted, and an
uncorrectable one reloads the image and restarts the watchdog, or ends the region with cause 8 where the image cannot be
read. -/
def Obligations.RegionEventsAct : Prop :=
  (∀ (s : State) (core slot : Nat) (r : Region), s.regions.get? (crewKey core slot) = some r →
    (r.canEnd = true → r.held = false → r.saving ≠ 2 → r.halted = [] → 0 < r.tokens →
      (r.lastFire + s.wdticks ≤ s.clock → ∃ t r', exec (.watchdog core slot) s = .next t ∧
        t.regions.get? (crewKey core slot) = some r' ∧ r'.stopping = some 7 ∧ r'.lastFire = s.clock ∧ t.mem = s.mem) ∧
      (s.clock < r.lastFire + s.wdticks → exec (.watchdog core slot) s = .next s)) ∧
    (r.stopping = none → r.quiet = true → r.held = false → r.completeRound = r.round → r.tokens = 0 →
      ∃ t r', exec (.drainEnd core slot) s = .next t ∧ t.regions.get? (crewKey core slot) = some r' ∧ r'.held = true ∧
        r'.slots = r.slots ∧ t.mem = s.mem) ∧
    (∀ cause, r.stopping = some cause → r.live = true → r.stopped = false → s.regionStill r = true →
      (r.withOp 0x31).all (fun e => e.2.reported) = true →
      ∃ t r', exec (.drainEnd core slot) s = .next t ∧ t.regions.get? (crewKey core slot) = some r' ∧ r'.stopped = true ∧
        r'.tokens = 0 ∧ r'.discarded = min (r.discarded + r.tokens) 0xFFFF ∧ t.mem = s.mem) ∧
    (r.live = true → r.stopping = none ∨ r.stopped = true → r.saving = 0 → ∃ t r', exec (.saveStop core slot) s = .next t ∧
      t.regions.get? (crewKey core slot) = some r' ∧ r'.saving = 1 ∧ r'.held = r.held ∧
      r'.round = (if r.stopped then r.round else r.round + 1) ∧ t.mem = s.mem) ∧
    (r.live = true → r.stopping = none ∨ r.stopped = true → r.saving = 1 → s.regionStill r = true → s.streamsStill (crewKey core slot) = true →
      ∃ t r', exec (.saveStop core slot) s = .next t ∧ t.regions.get? (crewKey core slot) = some r' ∧ r'.saving = 2 ∧
        r'.held = r.held ∧ r'.slots = r.slots ∧ t.mem = s.mem)) ∧
  (∀ (s : State) (core k : Nat) (r : Region), s.regionAt core = some (k, r) → s.regions.get? k = some r →
    (∃ t r', exec (.debugHalt core) s = .next t ∧ t.regions.get? k = some r' ∧ core ∈ r'.halted ∧ r'.slots = r.slots ∧ t.mem = s.mem) ∧
    (∃ t r', exec (.configStoreError core true) s = .next t ∧ t.regions.get? k = some r' ∧
      r'.corrected = min (r.corrected + 1) 0xFFFF ∧ r'.slots = r.slots ∧ t.mem = s.mem) ∧
    (∀ s2, s.takeFree.2.rereadImage (k / 64) (s.crews.getD k Crew.blank).task r.ctx r.imageVa.toNat r.size = (none, s2) →
      r.canEnd = true → ∃ t r', exec (.configStoreError core false) s = .next t ∧ t.regions.get? k = some r' ∧ r'.stopping = some 8) ∧
    (∀ s2 img, s.takeFree.2.rereadImage (k / 64) (s.crews.getD k Crew.blank).task r.ctx r.imageVa.toNat r.size = (some img, s2) → imageCrc img r.size = BitVec.ofNat 32 (fld img 8 4) →
      ∃ t r', exec (.configStoreError core false) s = .next t ∧ t.regions.get? k = some r' ∧ r'.reloads = min (r.reloads + 1) 0xFFFF ∧
        r'.lastFire = s.clock ∧ r'.stopping = r.stopping)) ∧
  (∀ (s : State) (core slot : Nat) (c : Crew), s.crews.get? (crewKey core slot) = some c → c.halted = true → slot < 64 →
    ∃ t c', exec (.haltRelease core slot) s = .next t ∧ t.crews.get? (crewKey core slot) = some c' ∧ c'.halted = false ∧
      c'.sreg = c.sreg ∧ c'.vreg = c.vreg ∧ t.mem = s.mem)

/-- LAUNCH of a readable header gives a new task number with the task behind its die's launch queue, or the status of
a malformed header or a full queue. ENQ writes the elements of the lowest active lanes behind the tail as far as there
is room and sets p7 there, or with w = 1 waits for room, DEQ gives them in order and advances the head, QINIT leaves
an empty queue, QLEN gives the length, SWEEP adds a queue once, QFENCE only goes on. BUFGET gives the lowest free
handle or a status (that 1 to 127 bytes are out of range is the model's reading, log 84), BUFPASS another owner,
BUFDROP frees, BUFADDR gives the address in the window. ESTIM sets the task's estimate and WIDFLD gives a field of
each lane's WID. -/
def Obligations.LaunchesQueuesAndBuffersAct : Prop :=
  (∀ (s s2 : State) (c : Crew) (d a : BitVec 8) (h : Nat), Issues s c (.launch d a) = true → c.pend = [] →
    (c.getSS a.toNat).toNat % 128 = 0 → StructRead (s.release s.fkey 3) s2 c (c.getSS a.toNat).toNat 128 h →
    (hdrMalformed h = true → Completes s c (.launch d a) (fun t c' => c'.getS d.toNat = 0xFFFFFFFE ∧ t.tasks = s.tasks ∧
      (∀ r, r ≠ d.toNat → c'.getS r = c.getS r) ∧ c'.vreg = c.vreg)) ∧
    (hdrMalformed h = false → 64 ≤ (s.die (dieOf s.focusCore)).launchQ.length → Completes s c (.launch d a) (fun t c' =>
      c'.getS d.toNat = 0xFFFFFFFF ∧ t.tasks = s.tasks)) ∧
    (hdrMalformed h = false → (s.die (dieOf s.focusCore)).launchQ.length < 64 → (∃ n, n < 2 ^ 16 ∧ s.tasks.get? n = none) →
      Completes s c (.launch d a) (fun t c' => ∃ n k, n < 2 ^ 16 ∧ s.tasks.get? n = none ∧ c'.getS d.toNat = BitVec.ofNat 32 n ∧
        t.tasks.get? n = some k ∧ k.header = h ∧ k.ctx = c.ctx ∧ k.queued = true ∧ k.launched = s.clock ∧
        (t.die (dieOf s.focusCore)).launchQ = (s.die (dieOf s.focusCore)).launchQ ++ [n] ∧
        (∀ m, m ≠ n → t.tasks.get? m = s.tasks.get? m) ∧ (∀ r, r ≠ d.toNat → c'.getS r = c.getS r) ∧ c'.vreg = c.vreg))) ∧
  (∀ (s : State) (c : Crew) (d a : BitVec 8) (l : BitVec 4) (w r : BitVec 1) (i : Nat), c.pend = [] →
    let check (n : Need) : Prop := s.queueCheck c.ctx (c.getSS a.toNat) l.toNat (some n) = .ok i
    let cap := 2 ^ l.toNat
    let active := (List.range 64).filter (fun x => c.active.getLsbD x)
    let len := s.queueLen i
    (Issues s c (.enq d a l w r) = true → check .both → (r = 1 → (s.core s.focusCore).pools = []) →
      let ls := active.take (cap - len)
      (w = 1 → cap - len < min active.length cap → r = 0 → exec (.enq d a l w r) s = .next (s.stall s.fkey)) ∧
      (w = 0 ∨ min active.length cap ≤ cap - len →
        s.slotTrap c.ctx (c.getSS a.toNat) i ((List.range ls.length).map (fun j => (s.queueTail i + j) % cap)) .write = none → Completes s c (.enq d a l w r) (fun t c' =>
        (∀ j, j < ls.length → t.bytes (i + 64 + 4 * ((s.queueTail i + j) % cap)) 4 = (c.getV d.toNat (ls.getD j 0)).toNat) ∧
        t.queueTail i = (s.queueTail i + ls.length) % 2 ^ 32 ∧ t.queueHead i = s.queueHead i ∧
        (∀ x, x < i ∨ i + 64 + 4 * cap ≤ x → t.byte x = s.byte x) ∧
        (∀ x, x < 64 → c.active.getLsbD x = true → (c'.pred 7).getLsbD x = decide (x ∈ ls)) ∧
        c'.sreg = c.sreg ∧ c'.vreg = c.vreg))) ∧
    (∀ q : BitVec 1, Issues s c (.deq d a l q) = true → check .both → let ls := active.take len
      s.slotTrap c.ctx (c.getSS a.toNat) i ((List.range ls.length).map (fun j => (s.queueHead i + j) % cap)) .read = none →
      Completes s c (.deq d a l q) (fun t c' =>
        (∀ j, j < ls.length → c'.getV d.toNat (ls.getD j 0) = BitVec.ofNat 32 (s.bytes (i + 64 + 4 * ((s.queueHead i + j) % cap)) 4)) ∧
        (∀ y x, x < 64 → y ≠ d.toNat ∨ x ∉ ls → c'.getV y x = c.getV y x) ∧
        t.queueHead i = (s.queueHead i + ls.length) % 2 ^ 32 ∧ (∀ x, x < i ∨ i + 4 ≤ x → t.byte x = s.byte x) ∧
        (∀ x, x < 64 → c.active.getLsbD x = true → (c'.pred 7).getLsbD x = decide (x ∈ ls)) ∧ c'.sreg = c.sreg)) ∧
    (Issues s c (.qlen d a l) = true → check .read → Completes s c (.qlen d a l) (fun t c' => c'.getS d.toNat = BitVec.ofNat 32 len ∧ t.mem = s.mem ∧
      (∀ y, y ≠ d.toNat → c'.getS y = c.getS y) ∧ c'.vreg = c.vreg)) ∧
    (∀ k, Issues s c (.sweep d a l) = true → check .read → s.tasks.get? c.task = some k → Completes s c (.sweep d a l) (fun t c' => t.mem = s.mem ∧
      (∀ y, y ≠ d.toNat → c'.getS y = c.getS y) ∧ c'.vreg = c.vreg ∧ ∃ k', t.tasks.get? c.task = some k' ∧
      (k.sweepQs.contains (i, l.toNat) = true → c'.getS d.toNat = 0 ∧ k'.sweepQs = k.sweepQs) ∧
      (k.sweepQs.contains (i, l.toNat) = false → 16 ≤ k.sweepQs.length → c'.getS d.toNat = 1 ∧ k'.sweepQs = k.sweepQs) ∧
      (k.sweepQs.contains (i, l.toNat) = false → k.sweepQs.length < 16 →
        c'.getS d.toNat = 0 ∧ k'.sweepQs = k.sweepQs ++ [(i, l.toNat)])))) ∧
  (∀ (s : State) (c : Crew) (a : BitVec 8) (l : BitVec 4) (i : Nat), Issues s c (.qinit a l) = true → c.pend = [] →
    s.queueReach c.ctx (c.getSS a.toNat) l.toNat (some .write) false = .ok i → Completes s c (.qinit a l) (fun t c' => t.queueHead i = 0 ∧
      t.queueTail i = 0 ∧ (t.byte (i + 8)).toNat = l.toNat ∧ t.byte (i + 9) = 1 ∧ (∀ x, x < i ∨ i + 64 ≤ x → t.byte x = s.byte x) ∧
      c'.sreg = c.sreg ∧ c'.vreg = c.vreg)) ∧
  (∀ (s : State) (c : Crew), Issues s c .qfence = true → Completes s c .qfence (fun t c' => Still s t ∧ c'.rest = c.rest ∧
    c'.sreg = c.sreg ∧ c'.vreg = c.vreg ∧ ModesKept c c')) ∧
  (∀ (s : State) (c : Crew) (d a b : BitVec 8), c.pend = [] →
    let n := (c.getS a.toNat).toNat
    let k := s.core s.focusCore
    (Issues s c (.bufget d a) = true → Completes s c (.bufget d a) (fun t c' => t.mem = s.mem ∧ c'.vreg = c.vreg ∧
      (∀ y, y ≠ d.toNat → c'.getS y = c.getS y) ∧ (n < 128 ∨ 2 ^ 17 < n → c'.getS d.toNat = 0xFFFFFFFE) ∧
      (∀ h off, 128 ≤ n → n ≤ 2 ^ 17 → k.buffers.lowestFree 32 = some h → s.bufferSpace s.focusCore ((n + 127) / 128 * 128) = some off →
        c'.getS d.toNat = BitVec.ofNat 32 h ∧
        (t.core s.focusCore).buffers.get? h = some ⟨off, (n + 127) / 128 * 128, c.task, c.number, []⟩) ∧
      (128 ≤ n → n ≤ 2 ^ 17 → s.bufferSpace s.focusCore ((n + 127) / 128 * 128) = none → c'.getS d.toNat = 0xFFFFFFFF) ∧
      (128 ≤ n → n ≤ 2 ^ 17 → k.buffers.lowestFree 32 = none → c'.getS d.toNat = 0xFFFFFFFF))) ∧
    (∀ x, n < 32 → k.buffers.get? n = some x → x.task = c.task → x.owner = c.number →
      (Issues s c (.bufdrop a) = true → x.share = [] → Completes s c (.bufdrop a) (fun t c' => c'.sreg = c.sreg ∧ c'.vreg = c.vreg ∧
        (t.core s.focusCore).buffers.get? n = none ∧ (∀ m, m ≠ n → (t.core s.focusCore).buffers.get? m = k.buffers.get? m))) ∧
      (Issues s c (.bufaddr d a) = true → Completes s c (.bufaddr d a) (fun t c' => t.mem = s.mem ∧ c'.vreg = c.vreg ∧
        c'.getSS d.toNat = BitVec.ofNat 64 (bitsOf (s.ctx c.ctx).poolbase.toNat 56 26 * 2 ^ 26 + s.focusCore * 2 ^ 18 + x.off))) ∧
      (∀ u, Issues s c (.bufpass a b) = true → x.share = [] → s.tasks.get? c.task = some u → (c.getS b.toNat).toNat < hdrCrews u.header →
        u.group (c.getS b.toNat).toNat = u.groupOf c → u.seen.get? (c.getS b.toNat).toNat ≠ some 2 →
        Completes s c (.bufpass a b) (fun t c' => c'.sreg = c.sreg ∧ c'.vreg = c.vreg ∧
          (t.core s.focusCore).buffers.get? n = some { x with owner := (c.getS b.toNat).toNat }))) ∧
    (k.buffers.get? n = none → c.handles = true →
      (Issues s c (.bufdrop a) = true → TrapsWith s c (.bufdrop a) c.pc 0x09 ((c.getS a.toNat).zeroExtend 64)) ∧
      (Issues s c (.bufaddr d a) = true → TrapsWith s c (.bufaddr d a) c.pc 0x09 ((c.getS a.toNat).zeroExtend 64)))) ∧
  (∀ (s : State) (c : Crew) (d a : BitVec 8) (f : BitVec 3) (k : Task), s.tasks.get? c.task = some k →
    (Issues s c (.estim a) = true → Completes s c (.estim a) (fun t c' => c'.sreg = c.sreg ∧ c'.vreg = c.vreg ∧ t.mem = s.mem ∧
      ∃ k', t.tasks.get? c.task = some k' ∧ k'.estim = c.getS a.toNat ∧ k'.header = k.header)) ∧
    (Issues s c (.widfld d f) = true → Completes s c (.widfld d f) (fun t c' => Still s t ∧ c'.sreg = c.sreg ∧
      (∀ x, x < 64 → c.active.getLsbD x = true → (c'.getV d.toNat x).toNat =
        if f.toNat < fld k.header 22 1 then
          (c.widbase.toNat + x) % 2 ^ 64 / 2 ^ hdrBase k.header f.toNat % 2 ^ hdrWidth k.header f.toNat % 2 ^ 32 else 0) ∧
      (∀ y x, x < 64 → y ≠ d.toNat ∨ c.active.getLsbD x = false → c'.getV y x = c.getV y x))))

/-- The crew left its slot, and its number's next phase waits in its task, on the core of its group, with wait condition `kind` (R327, R336). -/
def PhaseWaits (s : State) (c : Crew) (i : Instr) (kind : Nat) (P : State → Phase → Prop) : Prop :=
  ∃ t k p, exec i s = .next t ∧ t.crews.get? s.fkey = none ∧ t.tasks.get? c.task = some k ∧ k.phases.get? c.number = some p ∧
    p.kind = kind ∧ p.core = s.homeCore s.fkey c ∧ p.recOff = some c.recOff ∧ P t p

/-- For a crew of a task with no divergence, no job and no access left: PHEND none leaves a phase that is ready, PHEND
bar one that waits for the current generation of its barrier, or, where BARARR has recorded an arrival of the crew, one
that is ready exactly if that arrival's generation has completed, and the record is gone; PHEND queue and word ones that
wait at the address of their pair, once its checks pass; with no trace armed the phase record begins with the address of
the next instruction. BARARR marks the generation at which the crew arrived and goes on. A divergent crew's PHEND traps
CONVERGE, and one whose carry set the kernel lacks traps ILLOP. -/
def Obligations.PhasesEndAndWait : Prop :=
  ∀ (s : State) (c : Crew) (cs bar l : BitVec 4) (pr : BitVec 6) (k : Task) (i : Instr),
    (i = .phendNone cs ∨ i = .phendBar cs bar ∨ i = .phendQueue cs l pr ∨ i = .phendWord cs pr) → Issues s c i = true →
    s.tasks.get? c.task = some k →
    (c.carry.length ≤ cs.toNat → c.handles = true → TrapsWith s c i c.pc 0x01 (i.word.zeroExtend 64)) ∧
    (cs.toNat < c.carry.length → c.sib.sibling = false → c.paths ≠ [] ∨ c.am ≠ c.live → c.handles = true →
      TrapsWith s c i c.pc 0x06 (c.pc.zeroExtend 64)) ∧
    (cs.toNat < c.carry.length → c.paths = [] → c.am = c.live → c.pend = [] → c.skids = [] → s.hasJobs s.fkey = false →
      (s.core s.focusCore).tileOps = [] → s.traces = [] →
      let written (t : State) : Prop := t.bytes (poolIdx (s.homeCore s.fkey c) c.recOff) 8 = (c.pc + 4).toNat
      (i = .phendNone cs → PhaseWaits s c i 0 (fun t p => p.ready = true ∧ written t)) ∧
      (i = .phendBar cs bar → c.sib.sibling = false → PhaseWaits s c i 1 (fun t p => p.bar = bar.toNat ∧ p.gen = (k.bar bar.toNat).gen ∧
        written t ∧ ∀ g, k.marks.get? (c.number * 16 + bar.toNat) = some g → p.ready = decide (g ≠ (k.bar bar.toNat).gen) ∧
          ∃ k', t.tasks.get? c.task = some k' ∧ k'.marks.get? (c.number * 16 + bar.toNat) = none)) ∧
      (∀ x, i = .phendQueue cs l pr → s.queueCheck c.ctx (c.getSS pr.toNat) l.toNat (some .read) = .ok x →
        PhaseWaits s c i 2 (fun t p => p.ready = false ∧ p.addr = c.getSS pr.toNat ∧ p.depth = l.toNat ∧ written t)) ∧
      (∀ s2 x, i = .phendWord cs pr →
        s.classify s.focusCore none c.ctx 4 .read true [(0, (c.getSS pr.toNat).toNat)] = (.go [x] [], s2) →
        PhaseWaits s c i 3 (fun t p => p.ready = false ∧ p.addr = c.getSS pr.toNat ∧ written t))) ∧
    (∀ a : BitVec 8, Issues s c (.bararr a) = true → c.sib.sibling = false → c.pend = [] → Completes s c (.bararr a) (fun t c' =>
      c'.sreg = c.sreg ∧ c'.vreg = c.vreg ∧ ∃ k', t.tasks.get? c.task = some k' ∧
        k'.marks.get? (c.number * 16 + (c.getS a.toNat).toNat % 16) = some (k.bar ((c.getS a.toNat).toNat % 16)).gen ∧
        (c.number ∈ (k'.bar ((c.getS a.toNat).toNat % 16)).arrived ∨
          (k'.bar ((c.getS a.toNat).toNat % 16)).gen = (k.bar ((c.getS a.toNat).toNat % 16)).gen + 1)))

/-- The foreman takes a launch of the current function whose descriptors are readable and creates the task. BIND of one
allowed place puts the crew there: a crew never bound starts at its entry with the lanes below N, s2:s3 from the header,
MODE and MODEX as created, and its slot's bind record as Table 14.2 lays it out. A phase that waits for a word becomes
ready when the word's bit 31 is 1. GANGWAIT reserves slots, GANGTMO ends an unbound gang with GANG_STARVED,
PREEMPTION_CHOICE of the task of lowest class that holds slots a newcomer lacks, in row 1 of Table 14.5, reserves the
victim's slot, and the sweep token leaves an idle core. -/
def Obligations.ForemenBindAndScheduleTasks : Prop :=
  (∀ (s : State) (die n : Nat) (t : Task), s.dieLive die = true → s.updating die = false →
    (s.die die).launchQ.find? (fun m => (s.tasks.get? m).elim false (fun u => decide ((s.ctx u.ctx).owner = s.current))) = some n →
    s.tasks.get? n = some t → t.page = none → fld t.header 2 1 % 2 = 0 →
    (∀ i, i < 24 * fld t.header 20 1 → ∃ l, s.xlateWalk t.ctx (fld t.header 48 8 + i) .read = .ok l ∧ s.poisoned l.idx 1 = false) →
    ∃ u k, exec (.launchQueueTake die) s = .next u ∧ u.tasks.get? n = some k ∧ k.queued = false ∧ k.header = t.header ∧
      k.carry.length = fld t.header 20 1 ∧ n ∉ (u.die die).launchQ ∧ u.mem = s.mem ∧ u.crews = s.crews) ∧
  (∀ (s : State) (n k core slot rbase off : Nat) (t : Task), s.tasks.get? n = some t → fld t.header 2 1 % 2 = 0 ∨ t.seen ≠ [] →
    s.bindOk n t k core slot rbase off = true → k < siblingBase →
    ∃ u c, exec (.bind n [(k, core, slot, rbase, off)]) s = .next u ∧ u.crews.get? (crewKey core slot) = some c ∧
      (∀ q, q ≠ crewKey core slot → u.crews.get? q = s.crews.get? q) ∧
      (t.phases.get? k = none → c.task = n ∧ c.number = k ∧ c.ctx = t.ctx ∧ c.pc = BitVec.ofNat 57 (fld t.header 8 8) ∧
        c.getSS 2 = BitVec.ofNat 64 (fld t.header 40 8) ∧ c.mode = 0 ∧ c.modex = 6 ∧ c.am = c.live ∧
        (∀ l, l < 64 → c.live.getLsbD l = decide (64 * k + l < fld t.header 32 8)) ∧ c.widbase = BitVec.ofNat 64 (64 * k) ∧
        c.paths = [] ∧ c.frames = [] ∧ c.tvec = 0 ∧ c.vreg = [] ∧
        u.bindRecs.get? (crewKey core slot) = some (c.bindRecord slot 0)) ∧
      (∃ t', u.tasks.get? n = some t' ∧ t'.phases.get? k = none)) ∧
  (∀ (s : State) (n k : Nat) (t : Task) (p : Phase) (l : Loc), s.tasks.get? n = some t → t.phases.get? k = some p → p.kind = 3 →
    p.ready = false → p.wait = none → p.addr.toNat % 4 = 0 → s.xlateWalk t.ctx p.addr.toNat .read = .ok l → s.poisoned l.idx 4 = false →
    ∃ u t' p', exec (.nextPhaseReady n k) s = .next u ∧ u.tasks.get? n = some t' ∧ t'.phases.get? k = some p' ∧
      p'.ready = (s.bytes l.idx 4).testBit 31 ∧ p'.trap = p.trap ∧ u.mem = s.mem) ∧
  (∀ (s : State) (n : Nat) (t : Task), s.tasks.get? n = some t → fld t.header 2 1 % 2 = 1 → t.queued = false → t.seen = [] →
    (∀ slots : List Nat, t.launched + s.params.gangWait ≤ s.clock →
      (∀ q ∈ slots, s.reserved.get? q = none ∧ ∃ c v, s.crews.get? q = some c ∧ s.tasks.get? c.task = some v ∧ c.task ≠ n ∧
        fld v.header 2 1 / 2 % 2 = 1 ∧ c.prio ≤ fld t.header 3 1 % 4 ∧ c.boundAt + s.params.gangWait ≤ s.clock) →
      hdrCrews t.header ≤ (((List.range 192).filter s.coreLive).map (s.freeSlots n)).sum + slots.dedup.length →
      ∃ u, exec (.gangwait n slots) s = .next u ∧ (0 < hdrCrews t.header → ∀ q ∈ slots, u.reserved.get? q = some n) ∧
        (s.coppices = [] → s.regions = [] → (∀ q ∈ slots, ∀ c, s.crews.get? q = some c → c.park = none) →
          u.crews = s.crews ∧ u.tasks = s.tasks)) ∧
    (∀ l, t.launched + s.params.gangTmo ≤ s.clock → t.cores = [] → s.xlateWalk t.ctx (fld t.header 56 8) .write = .ok l →
      ∃ u, exec (.gangtmo n) s = .next u ∧ u.tasks.get? n = none ∧ u.bytes l.idx 4 = 2 ^ 31 + 1 ∧
        (∀ x, x < l.idx ∨ l.idx + 4 ≤ x → u.byte x = s.byte x))) ∧
  (∀ (s : State) (a v q : Nat) (u t : Task) (c : Crew), s.tasks.get? a = some u → s.tasks.get? v = some t → s.crews.get? q = some c →
    c.task = v → s.reserved.get? q = none → u.queued = false → 0 < s.lacking a u (q / 64) → 0 < s.short a u → s.chosen a u v t = true → t.estim.toNat ≤ s.params.drainThr →
    ∃ w, exec (.preemptionChoice a v [q]) s = .next w ∧ w.reserved.get? q = some a ∧ w.crews = s.crews ∧ w.tasks = s.tasks) ∧
  (∀ (s : State) (n core : Nat) (t : Task), s.tasks.get? n = some t → t.sweepStop t.token.1 = some core → t.sweepQs ≠ [] →
    s.sweepIdle n t core = true → (t.sweepStop (core + 1)).isSome = true →
    ∃ u t', exec (.sweepTokenHop n) s = .next u ∧ u.tasks.get? n = some t' ∧
      t'.token = (core + 1, t.token.2 || t.sweepFlags.contains core) ∧ core ∉ t'.sweepFlags ∧ u.mem = s.mem)

/-- CPINIT of a legal and accessible record arms it with status 1 and gives 0, or gives a status. SPROUT of an armed
coppice opens it and gives 2^31 + n, with n ready siblings that hold the crew's registers, the next PC and their index.
REWARD of a RUNNING sibling sets ARRIVED, or INVALID for a bad reward, and its phase waits at the coppice; a LATE one
only deposits it, and one that has arrived changes nothing. CUT of a RUNNING bound sibling gives 1 and marks it cut, of
a live LATE one 4 and the same; of another it gives its state. All this while no deadline has come that is not taken
yet. CPSTAT gives the unit's or the record's fields, CPADV the advantage. At the deadline RUNNING becomes LATE and the
barrier completes. -/
def Obligations.CoppicesBranchAndMeet : Prop :=
  (∀ (s s2 : State) (c : Crew) (d a : BitVec 8) (xs : List LaneXlat) (h : Nat), Issues s c (.cpinit d a) = true → c.pend = [] →
    bitsOf (s.ctx c.ctx).migthr.toNat 15 0 = 0 →
    let va := (c.getSS a.toNat).toNat
    let here := s.coppices.filter (fun x => decide (x.die = dieOf s.focusCore))
    va % 256 = 0 → s.classify s.focusCore none c.ctx 1 .both true ((List.range 16).map (fun i => (0, va + i))) = (.go xs [], s2) →
    h = s.placeBytes xs →
    ((s.coppice? c.ctx va).isSome = true → Completes s c (.cpinit d a) (fun t c' => c'.getS d.toNat = 0xFFFFFFFD ∧
      t.coppices = s.coppices ∧ t.mem = s.mem ∧ (∀ r, r ≠ d.toNat → c'.getS r = c.getS r))) ∧
    (s.coppice? c.ctx va = none → coppiceOk h = false → Completes s c (.cpinit d a) (fun t c' => c'.getS d.toNat = 0xFFFFFFFE ∧
      t.coppices = s.coppices ∧ t.mem = s.mem)) ∧
    (∀ s3 ys, s.coppice? c.ctx va = none → coppiceOk h = true →
      (s2.pocRead xs).classify s.focusCore none c.ctx 1 .both false ((List.range (256 + 16 * fld h 0 2)).map (fun i => (0, va + i))) = (.go ys [], s3) →
      (16 ≤ here.length → Completes s c (.cpinit d a) (fun t c' => c'.getS d.toNat = 0xFFFFFFFF ∧ t.coppices = s.coppices)) ∧
      (here.length < 16 → (ys.map (fun y => y.loc.idx)).Nodup →
        Completes s c (.cpinit d a) (fun t c' => c'.getS d.toNat = 0 ∧ (∀ r, r ≠ d.toNat → c'.getS r = c.getS r) ∧ c'.vreg = c.vreg ∧
          (∃ x, t.coppices = s.coppices ++ [x] ∧ x.ctx = c.ctx ∧ x.va = va ∧ x.task = c.task ∧ x.phase = 1 ∧ x.n = fld h 0 2 ∧
            x.timeout = fld h 8 8) ∧
          (∀ m, 16 ≤ m → m < 40 → (t.byte ((ys.map (fun y => y.loc.idx)).getD m 0)).toNat = if m = 16 then 1 else 0) ∧
          (∀ b, b ∉ ys.map (fun y => y.loc.idx) → t.byte b = s.byte b))))) ∧
  (∀ (s : State) (c : Crew) (d a b : BitVec 8) (k : Task) (x : Coppice), Issues s c (.sprout d a b) = true → c.sib.sibling = false →
    c.paths = [] → c.am = c.live → c.getS b.toNat = 0xFFFFFFFF → c.pend = [] → (s.core s.focusCore).tileOps = [] →
    s.tasks.get? c.task = some k →
    ((s.coppice? c.ctx (c.getSS a.toNat).toNat = none ∨
      (s.coppice? c.ctx (c.getSS a.toNat).toNat = some x ∧ (x.phase ≠ 1 ∨ x.task ≠ c.task))) →
      Completes s c (.sprout d a b) (fun t c' => c'.getS d.toNat = 0xFFFFFFFF ∧ t.coppices = s.coppices ∧ t.tasks = s.tasks)) ∧
    (s.coppice? c.ctx (c.getSS a.toNat).toNat = some x → x.phase = 1 → x.task = c.task → s.otherJobs s.fkey = false →
      Completes s c (.sprout d a b) (fun t c' => c'.getS d.toNat = BitVec.ofNat 32 (2 ^ 31 + x.n) ∧
        (∀ r, r ≠ d.toNat → c'.getS r = c.getS r) ∧ c'.vreg = c.vreg ∧
        (∃ y, t.coppice? c.ctx (c.getSS a.toNat).toNat = some y ∧ y.phase = 2 ∧ y.deadline = s.clock + x.timeout ∧
          y.first = k.nextSib ∧ y.sibs.length = x.sibs.length ∧ ∀ z ∈ y.sibs, z.state = 1 ∧ z.alive = true) ∧
        ∃ k', t.tasks.get? c.task = some k' ∧ k'.nextSib = k.nextSib + x.n ∧ ∀ i, i < x.n → ∃ p q,
          k'.phases.get? (k.nextSib + i) = some p ∧ p.ready = true ∧ p.whole = some q ∧ p.core = s.focusCore ∧
          q.sib.sibling = true ∧ q.sib.index = i ∧ q.pc = c.pc + 4 ∧ q.getS d.toNat = BitVec.ofNat 32 i ∧
          (∀ r, r ≠ d.toNat → q.getS r = c.getS r) ∧ q.vreg = c.vreg ∧ q.live = c.live ∧ q.mode = c.mode))) ∧
  (∀ (s : State) (c : Crew) (a : BitVec 8) (cs : BitVec 4) (k : Task) (x : Coppice), Issues s c (.reward a cs) = true →
    c.sib.sibling = true → cs.toNat < c.carry.length → c.paths = [] → c.am = c.live → c.pend = [] → c.skids = [] →
    s.hasJobs s.fkey = false → (s.core s.focusCore).tileOps = [] → s.tasks.get? c.task = some k →
    s.coppice? c.ctx c.sib.record.toNat = some x → c.sib.index < x.sibs.length → x.crew c.sib.index = c.number →
    x.overdue s.clock = false →
    ((x.sib c.sib.index).state = 1 → x.phase = 2 → (∃ j, j ≠ c.sib.index ∧ j < x.sibs.length ∧ (x.sib j).state = 1) →
      PhaseWaits s c (.reward a cs) 4 (fun t p => p.addr = c.sib.record ∧ ∃ y, t.coppice? c.ctx c.sib.record.toNat = some y ∧
        (y.sib c.sib.index).reward = c.getS a.toNat ∧
        (y.sib c.sib.index).state = if (c.getS a.toNat).toNat % 2 ^ 31 < 0x7F800000 then 2 else 5)) ∧
    ((x.sib c.sib.index).state = 4 → Completes s c (.reward a cs) (fun t c' => c'.sreg = c.sreg ∧ c'.vreg = c.vreg ∧
      ∃ y, t.coppice? c.ctx c.sib.record.toNat = some y ∧ (y.sib c.sib.index).reward = c.getS a.toNat ∧
        (y.sib c.sib.index).state = 4)) ∧
    ((x.sib c.sib.index).state = 2 ∨ (x.sib c.sib.index).state = 5 → Completes s c (.reward a cs) (fun t c' => c'.sreg = c.sreg ∧
      c'.vreg = c.vreg ∧ t.coppices = s.coppices))) ∧
  (∀ (s : State) (c : Crew) (d a b : BitVec 8), Issues s c (.cut d a b) = true →
    let va := (c.getSS a.toNat).toNat
    let i := (c.getS b.toNat).toNat
    (s.coppice? c.ctx va = none → Completes s c (.cut d a b) (fun t c' => c'.getS d.toNat = 0xFFFFFFFF ∧ t.coppices = s.coppices)) ∧
    (∀ x, s.coppice? c.ctx va = some x → x.task ≠ c.task → x.overdue s.clock = false →
      Completes s c (.cut d a b) (fun t c' => c'.getS d.toNat = 0xFFFFFFFF ∧ t.coppices = s.coppices)) ∧
    (∀ x, s.coppice? c.ctx va = some x → x.task = c.task → x.overdue s.clock = false → x.n ≤ i →
      Completes s c (.cut d a b) (fun t c' => c'.getS d.toNat = 0xFFFFFFFE ∧ t.coppices = s.coppices)) ∧
    (∀ x, s.coppice? c.ctx va = some x → x.task = c.task → x.overdue s.clock = false → i < x.n → (x.sib i).state ≠ 1 →
      ((x.sib i).state = 4 → (x.sib i).alive = false) →
      Completes s c (.cut d a b) (fun t c' => c'.getS d.toNat = BitVec.ofNat 32 (x.sib i).state ∧ t.coppices = s.coppices)) ∧
    (∀ x key q, s.coppice? c.ctx va = some x → x.task = c.task → x.overdue s.clock = false → i < x.n → i < x.sibs.length →
      s.keyOf c.task (x.crew i) = some key → s.crews.get? key = some q → key ≠ s.fkey →
      ((x.sib i).state = 4 → (x.sib i).alive = true → x.phase = 3 → Completes s c (.cut d a b) (fun t c' => c'.getS d.toNat = 4 ∧
        t.coppices = s.coppices ∧ ∃ q' : Crew, t.crews.get? key = some q' ∧ q'.cut = true ∧ q'.sreg = q.sreg ∧ q'.vreg = q.vreg)) ∧
      ((x.sib i).state = 1 → x.phase = 2 → (∃ j, j ≠ i ∧ j < x.sibs.length ∧ (x.sib j).state = 1) → Completes s c (.cut d a b) (fun t c' => c'.getS d.toNat = 1 ∧ (∀ r, r ≠ d.toNat → c'.getS r = c.getS r) ∧
        (∃ y, t.coppice? c.ctx va = some y ∧ (y.sib i).state = 3) ∧ ∃ q' : Crew, t.crews.get? key = some q' ∧ q'.cut = true ∧
        q'.sreg = q.sreg ∧ q'.vreg = q.vreg)))) ∧
  (∀ (s s2 : State) (c : Crew) (d a sel : BitVec 8), Issues s c (.cpstat d a sel) = true → c.pend = [] →
    (∀ x, s.coppice? c.ctx (c.getSS a.toNat).toNat = some x → x.phase < 3 → x.overdue s.clock = false → Completes s c (.cpstat d a sel) (fun t c' =>
      (sel = 0 → c'.getS d.toNat = x.status ∧ c'.getS (d.toNat + 1) = BitVec.ofNat 32 x.n) ∧
      (sel = 1 → c'.getS d.toNat = x.mu ∧ c'.getS (d.toNat + 1) = x.sigma) ∧ c'.vreg = c.vreg ∧ t.mem = s.mem)) ∧
    (∀ h, (∀ x, s.coppice? c.ctx (c.getSS a.toNat).toNat = some x → x.phase = 3) → (c.getSS a.toNat).toNat % 4 = 0 →
      StructRead s s2 c (c.getSS a.toNat).toNat 32 h → Completes s c (.cpstat d a sel) (fun t c' =>
        (sel = 0 → (c'.getS d.toNat).toNat = fld h 16 4 ∧ (c'.getS (d.toNat + 1)).toNat = fld h 0 2) ∧
        (sel = 1 → (c'.getS d.toNat).toNat = fld h 24 4 ∧ (c'.getS (d.toNat + 1)).toNat = fld h 28 4) ∧ c'.vreg = c.vreg ∧
        t.mem = s.mem))) ∧
  (∀ (s : State) (c : Crew) (d : BitVec 8), Issues s c (.cpadv d) = true → c.sib.sibling = true →
    Completes s c (.cpadv d) (fun t c' => c'.getS d.toNat = (if c.sib.delivered then c.sib.advantage else 0x7FC00000) ∧
      (∀ r, r ≠ d.toNat → c'.getS r = c.getS r) ∧ c'.vreg = c.vreg ∧ Still s t)) ∧
  (∀ (s : State) (cn va : Nat) (x : Coppice), s.coppice? cn va = some x → x.phase = 2 → x.suspended = none → x.sibs.length = x.n →
    (x.deadline ≤ s.clock → (∃ z ∈ x.sibs, z.state = 1 ∧ z.alive = true) →
      ∃ t y, exec (.coppiceDeadline cn va) s = .next t ∧ t.coppice? cn va = some y ∧ y.phase = 3 ∧
        y.status.getLsbD 31 = true ∧ y.status.getLsbD 30 = true ∧
        (∀ i, i < x.n → (y.sib i).state = if (x.sib i).state = 1 then 4 else (x.sib i).state)) ∧
    (s.clock < x.deadline → exec (.coppiceDeadline cn va) s = .next s))

/-- Every bound crew that waits in RAFTFORM or RAFTRE at rank `k` of handle `h` completed with `x` and `y` in its pair. -/
def RaftAnswers (s t : State) (h k x y : Nat) : Prop :=
  ∀ key c d, s.crews.get? key = some c → c.waiting = some (.raftform d h k) ∨ c.waiting = some (.raftre d h k) →
    ∃ c', t.crews.get? key = some c' ∧ c'.getS d = BitVec.ofNat 32 x ∧ c'.getS (d + 1) = BitVec.ofNat 32 y ∧
      (∀ r, r ≠ d → r ≠ d + 1 → c'.getS r = c.getS r) ∧ c'.vreg = c.vreg ∧ c'.pc = c.pc + 4 ∧ c'.waiting = none ∧
      c'.issued = c.issued + 1 ∧ c'.frames = c.frames

/-- Message `ix` is `m`, for this device, and the first of those whose order it keeps (R193, R395). -/
def FirstMsg (s : State) (ix : Nat) (m : Msg) : Prop :=
  s.msgs[ix]? = some m ∧ m.ddev = s.devnum ∧ (s.msgs.take ix).all (fun x => !x.leads m) = true

/-- A message from this device gets to rank `k` of a raft: it is here, or a live port reaches its device (R376). -/
def Reachable (s : State) (r : Raft) (k : Nat) : Prop := r.device s.devnum k = s.devnum ∨ s.reaches (r.device s.devnum k) = true

/-- RAFTFORM of a readable descriptor joins at the issuer's rank: the crew waits, a member holds its window, and one
message of type 1 goes to the coordinator; a malformed descriptor completes with MALFORMED. The report makes the raft
live in generation 1 and completes the waiting crew with OK and its raft word. When all have joined alike the
coordinator reports to every rank that a live port reaches, and where they differ it reports the mismatch. A failed
formation or the timer, which runs from the first issue, ends the wait with its status. A member that times out takes
back its join and tells the coordinator, which ends the formation; it names the lowest rank lacking where the
coordinator is here, otherwise another rank, a free value (log 52). RAFTRE waits and joins anew; when all joined,
generation and table follow and the waiting crews complete. -/
def Obligations.RaftsFormAndReform : Prop :=
  (∀ (s s2 s3 : State) (c : Crew) (d a : BitVec 8) (desc raw h : Nat), Issues s c (.raftform d a) = true → c.waiting = none → c.pend = [] →
    let va := (c.getSS a.toNat).toNat
    let m := fld desc 2 2
    let table := (List.range m).map (fun i => fld raw (4 * i) 4)
    let kind := fld desc 0 1
    let self := if kind = 0 then s.devnum else s.focusCore
    let k := table.idxOf self
    let found := s.rafts.findEntry (fun _ r => !r.live && decide (r.ctx = c.ctx ∧ r.kind = kind ∧ r.key = fld desc 4 4))
    va % 64 = 0 → StructRead s s2 c va 64 desc → fld desc 32 8 % 4 = 0 → StructRead s2 s3 c (fld desc 32 8) (4 * m) raw →
    (descBad desc table self = true → Completes s c (.raftform d a) (fun t c' => c'.getS d.toNat = BitVec.ofNat 32 (5 * 2 ^ 28) ∧
      c'.getS (d.toNat + 1) = 0 ∧ (∀ r, r ≠ d.toNat → r ≠ d.toNat + 1 → c'.getS r = c.getS r) ∧ c'.vreg = c.vreg ∧ t.rafts = s.rafts)) ∧
    (descBad desc table self = false → found = none → s.rafts.lowestFree 64 = none → Completes s c (.raftform d a) (fun t c' =>
      c'.getS d.toNat = BitVec.ofNat 32 (raftStatus 11 3 k) ∧ c'.getS (d.toNat + 1) = 0 ∧ t.rafts = s.rafts)) ∧
    (descBad desc table self = false → (found = none ∧ s.rafts.lowestFree 64 = some h) ∨ found.map Prod.fst = some h →
      ∃ t c' r mem msg, exec (.raftform d a) s = .next t ∧ t.crews.get? s.fkey = some c' ∧
        c'.waiting = some (.raftform d.toNat h k) ∧ c'.pc = c.pc ∧ c'.sreg = c.sreg ∧ c'.vreg = c.vreg ∧ t.mem = s.mem ∧
        t.rafts.get? h = some r ∧ r.live = false ∧ r.ctx = c.ctx ∧ r.kind = kind ∧ r.key = fld desc 4 4 ∧ r.members.get? k = some mem ∧
        mem.winBase = fld desc 16 8 ∧ mem.winLen = fld desc 24 8 ∧
        mem.deadline = some (c.deadline.getD (c.firstIssue.getD s.clock + descTimeout desc)) ∧
        (∀ g, g ≠ h → t.rafts.get? g = s.rafts.get? g) ∧
        msg.typ = 1 ∧ msg.key = fld desc 4 4 ∧ msg.src = k ∧ msg.dst = 0 ∧ msg.params = 0 :: m :: descTimeout desc :: table ∧
        (kind = 1 ∨ table.getD 0 0 = s.devnum → t.msgs = s.msgs ++ [msg] ∧ t.netOut = s.netOut) ∧
        (kind = 0 → table.getD 0 0 ≠ s.devnum → s.reaches (table.getD 0 0) = true → t.netOut = s.netOut ++ [msg] ∧ t.msgs = s.msgs))) ∧
  (∀ (s : State) (ix h : Nat) (m : Msg) (r : Raft), FirstMsg s ix m → s.formingOfMsg m = some (h, r) →
    (m.typ = 1 → m.params.head? = some 1 → ∃ t r', exec (.form ix) s = .next t ∧ t.rafts.get? h = some r' ∧ r'.live = true ∧ r'.gen = 1 ∧
      r'.table = r.table ∧ r'.ctx = r.ctx ∧ t.msgs = s.msgs.eraseIdx ix ∧ t.mem = s.mem ∧
      RaftAnswers s t h m.dst 0 (m.dst + h * 2 ^ 22)) ∧
    (m.typ = 1 → m.params.head? ≠ some 1 → ∃ t r', exec (.form ix) s = .next t ∧ t.rafts.get? h = some r' ∧
      r'.live = r.live ∧ t.crews = s.crews ∧ t.mem = s.mem ∧
      ((∃ k, k < r.table.length ∧ k ≠ m.src ∧ r.forms.get? k = none) → r'.forms.get? m.src = some m.params.tail ∧
        t.msgs = s.msgs.eraseIdx ix ∧ t.netOut = s.netOut) ∧
      (s.givenUp r = true → (∀ k, k < r.table.length → k = m.src ∨ r.forms.get? k = some m.params.tail) →
        t.msgs = s.msgs.eraseIdx ix ∧ t.netOut = s.netOut) ∧
      (s.givenUp r = false → (∀ k, k < r.table.length → k = m.src ∨ r.forms.get? k = some m.params.tail) →
        ∀ k, k < r.table.length → Reachable s r k →
          ∃ x : Msg, x ∈ t.msgs ++ t.netOut ∧ x.typ = 1 ∧ x.key = r.key ∧ x.src = 0 ∧ x.dst = k ∧ x.params = [1]) ∧
      (∀ q, (∀ k, k < r.table.length → k = m.src ∨ (r.forms.get? k).isSome = true) →
        let join (k : Nat) := (r.forms.insert m.src m.params.tail).get? k
        (List.range r.table.length).find? (fun k => decide (join k ≠ join 0)) = some q →
        ∀ k, k < r.table.length → Reachable s r k → ∃ x : Msg, x ∈ t.msgs ++ t.netOut ∧ x.typ = 6 ∧ x.key = r.key ∧ x.src = 0 ∧ x.dst = k ∧
          x.status = if k = q then raftStatus 11 4 q else raftStatus 8 4 q)) ∧
    (m.typ = 6 → r.live = false → m.dst = 0 → m.src ≠ 0 → ∃ t, exec (.abort ix) s = .next t ∧ t.mem = s.mem ∧ t.crews = s.crews ∧
      ∀ k, k < r.table.length → k = 0 ∨ (k ≠ m.src ∧ (r.forms.get? k).isSome = true) → Reachable s r k →
        ∃ x : Msg, x ∈ t.msgs ++ t.netOut ∧ x.typ = 6 ∧ x.key = r.key ∧ x.src = 0 ∧ x.dst = k ∧ x.status = m.status) ∧
    (m.typ = 6 → r.live = false → m.dst ≠ 0 ∨ m.src = 0 → ∃ t, exec (.abort ix) s = .next t ∧ t.msgs = s.msgs.eraseIdx ix ∧ t.mem = s.mem ∧
      RaftAnswers s t h m.dst m.status 0 ∧ (∀ r', t.rafts.get? h = some r' → r'.members.get? m.dst = none))) ∧
  (∀ (s : State) (h k n : Nat) (r : Raft) (m : RaftMember), s.rafts.get? h = some r → r.members.get? k = some m → m.deadline = some n →
    (s.clock < n → exec (.raftformTimeout h k) s = .next s) ∧
    (r.live = false → m.rejoin = false → n ≤ s.clock → s.report? r k = none → k ≠ 0 → ∃ t o, exec (.raftformTimeout h k) s = .next t ∧ t.mem = s.mem ∧
      RaftAnswers s t h k (raftStatus 9 0 o) 0 ∧ (∀ q, (r.members.get? 0).isSome = true → r.forming false = .lacks q → o = q) ∧
      (1 < r.table.length → (r.members.get? 0 = none ∨ ∀ q, r.forming false ≠ .lacks q) → o ≠ k ∧ o < r.table.length) ∧
      (Reachable s r 0 → ∃ x : Msg, x ∈ t.msgs ++ t.netOut ∧ x.typ = 6 ∧ x.key = r.key ∧ x.src = k ∧ x.dst = 0 ∧ x.status = raftStatus 9 0 o) ∧
      (∀ r', t.rafts.get? h = some r' → r'.members.get? k = none ∧ r'.forms.get? k = none) ∧
      ∀ x ∈ t.msgs, x.key = r.key → x.typ = 1 → x.src = k → x.gen = 1 → x.sdev = s.devnum → x.params.head? ≠ some 0) ∧
    (∀ q, r.live = false → m.rejoin = false → n ≤ s.clock → s.report? r k = none → k = 0 → r.gen = 1 → r.device s.devnum 0 = s.devnum →
      r.forming true = .lacks q → ∃ t, exec (.raftformTimeout h 0) s = .next t ∧ t.mem = s.mem ∧
      RaftAnswers s t h 0 (raftStatus 9 0 q) 0 ∧ ∀ j, j ≠ 0 → (r.forms.get? j).isSome = true → j < r.table.length → Reachable s r j →
        ∃ x : Msg, x ∈ t.msgs ++ t.netOut ∧ x.typ = 6 ∧ x.key = r.key ∧ x.dst = j ∧ x.status = raftStatus 9 0 q) ∧
    let first (failed : List Nat) := (List.range r.table.length).find? (fun x => !failed.contains x)
    (∀ q y, r.live = true → m.rejoin = true → n ≤ s.clock → first m.failed = some q → q ≠ k → first (m.failed ++ [q]) = some y → y ≠ k → Reachable s r y →
      ∃ t r' m' x, exec (.raftJoinTimeout h k) s = .next t ∧ t.crews = s.crews ∧ t.mem = s.mem ∧ t.rafts.get? h = some r' ∧
        r'.members.get? k = some m' ∧ m'.failed = m.failed ++ [q] ∧ m'.deadline = some (s.clock + r.timeout) ∧
        x ∈ t.msgs ++ t.netOut ∧ x.typ = 2 ∧ x.key = r.key ∧ x.src = k ∧ x.params = [0, m.drop] ∧ x.dst = y) ∧
    (r.live = true → m.rejoin = true → n ≤ s.clock → first m.failed = some k ∨ (∃ q, first m.failed = some q ∧ first (m.failed ++ [q]) = some k) →
      let stay := ({ r with joins := r.joins.insert k (decide (m.drop = 1)) } : Raft).stay
      stay.contains k = true →
      ∃ t r', exec (.raftJoinTimeout h k) s = .next t ∧ t.mem = s.mem ∧ t.rafts.get? h = some r' ∧ r'.gen = (r.gen + 1) % 2 ^ 16 ∧
        r'.table = stay.map (fun q => r.table.getD q 0) ∧ RaftAnswers s t h k 0 (stay.idxOf k + h * 2 ^ 22))) ∧
  (∀ (s : State) (c : Crew) (d a b : BitVec 8), Issues s c (.raftre d a b) = true → c.waiting = none →
    let h := (c.getS a.toNat).toNat % 64
    (s.myRaft h = none ∨ 1 < (c.getS b.toNat).toNat → Completes s c (.raftre d a b) (fun t c' =>
      c'.getS d.toNat = BitVec.ofNat 32 (5 * 2 ^ 28) ∧ c'.getS (d.toNat + 1) = 0 ∧
      (∀ r, r ≠ d.toNat → r ≠ d.toNat + 1 → c'.getS r = c.getS r) ∧ c'.vreg = c.vreg ∧ t.rafts = s.rafts)) ∧
    (∀ r k m q, s.myRaft h = some (r, k) → (c.getS b.toNat).toNat ≤ 1 → s.memberJobs h k = [] → r.members.get? k = some m →
      (List.range r.table.length).find? (fun x => !m.failed.contains x) = some q → Reachable s r q →
      ∃ t c' m' x, exec (.raftre d a b) s = .next t ∧ t.crews.get? s.fkey = some c' ∧ c'.waiting = some (.raftre d.toNat h k) ∧
        c'.pc = c.pc ∧ c'.sreg = c.sreg ∧ t.mem = s.mem ∧ (t.rafts.get? h).bind (fun y => y.members.get? k) = some m' ∧
        m'.deadline = some (c.deadline.getD (s.clock + r.timeout)) ∧ m'.drop = (c.getS b.toNat).toNat ∧ m'.rejoin = true ∧
        x ∈ t.msgs ++ t.netOut ∧ x.typ = 2 ∧ x.key = r.key ∧ x.src = k ∧ x.dst = q ∧ x.params = [0, (c.getS b.toNat).toNat])) ∧
  (∀ (s : State) (ix h : Nat) (m : Msg) (r : Raft), FirstMsg s ix m → m.typ = 2 → s.raftOfMsg m = some (h, r) →
    (m.params.head? = some 1 → ∃ t, exec (.join ix) s = .next t ∧ t.mem = s.mem ∧ ∀ k, (r.members.get? k).isSome = true →
      (k ∈ m.params.tail → RaftAnswers s t h k 0 (m.params.tail.idxOf k + h * 2 ^ 22) ∧ ∃ r', t.rafts.get? h = some r' ∧
        r'.gen = (r.gen + 1) % 2 ^ 16 ∧ r'.table = m.params.tail.map (fun q => r.table.getD q 0)) ∧
      (k ∉ m.params.tail → RaftAnswers s t h k (raftStatus 11 5 k) 0)) ∧
    (m.params.head? ≠ some 1 → (∃ k, k < r.table.length ∧ k ≠ m.src ∧ r.joins.get? k = none) →
      ∃ t r', exec (.join ix) s = .next t ∧ t.rafts.get? h = some r' ∧ r'.joins.get? m.src = some (decide (m.params.getD 1 0 = 1)) ∧
        r'.gen = r.gen ∧ r'.table = r.table ∧ t.crews = s.crews ∧ t.mem = s.mem ∧ t.msgs = s.msgs.eraseIdx ix) ∧
    (m.params.head? ≠ some 1 → m.params.getD 1 0 ≠ 1 → (∀ k, k < r.table.length → k = m.src ∨ (r.joins.get? k).isSome = true) →
      (∀ e ∈ r.joins, e.2 = false) → ∃ t, exec (.join ix) s = .next t ∧ t.mem = s.mem ∧
        ∀ k, k < r.table.length → (r.members.get? k).isSome = true → RaftAnswers s t h k 0 (k + h * 2 ^ 22) ∧
          ∃ r', t.rafts.get? h = some r' ∧ r'.gen = (r.gen + 1) % 2 ^ 16 ∧ r'.table = r.table))

/-- With its card readable and every page of its regions present, each of the six enters a job; a bad card or raft stops
it with MALFORMED, a stale generation with ABORT_LOCAL cause 1. A starting barrier takes the member's next number and
sends ARRIVE; the others send their source elements. The coordinator keeps parts, joining the segments of each, and with
the last one sends every rank its result by Table 16.5, or aborts at the lowest rank that differs. RESULT writes its
elements from its offset on, and ends OK when all of the destination has come. An abort gives the job its status, with
which it ends once no earlier job of the member is pending; its timer ends it at once, naming the lowest rank lacking
where the coordinator is here, otherwise another rank, a free value (log 52). CABORT gives the member's jobs
ABORT_LOCAL, and does nothing with a handle of no raft of its; CSTAT reads the raft. A message leaves the device where a
live port reaches the other end. -/
def Obligations.CollectivesRunAndEnd : Prop :=
  (∀ (s s2 : State) (c : Crew) (d a : BitVec 8) (card op : Nat) (i : Instr),
    (i, op) ∈ [(Instr.car d a, 0xDA), (.cag d a, 0xDB), (.crs d a, 0xDC), (.cbc d a, 0xDD), (.ca2a d a, 0xDE), (.cbar d a, 0xDF)] →
    Issues s c i = true → c.pend = [] → (c.getSS a.toNat).toNat % 256 = 0 → StructRead s s2 c (c.getSS a.toNat).toNat 256 card →
    (s.core s.focusCore).jobs.length < 32 →
    (s.core s.focusCore).jobs.all (fun j => decide (j.id ≠ (s.core s.focusCore).nextJob)) = true →
    let h := fld card 4 1
    let enters (P : Job → Prop) : Prop := Completes s c i (fun t c' => EntersGate s t c c' (.collective op) card d.toNat P)
    (s.myRaft h = none → enters (fun j => j.result = some (5 * 2 ^ 28))) ∧
    (∀ r k, s.myRaft h = some (r, k) →
      (collCardBad op card r.table.length k = true → enters (fun j => j.result = some (5 * 2 ^ 28))) ∧
      (collCardBad op card r.table.length k = false → fld card 6 2 ≠ 0 → fld card 6 2 ≠ r.gen % 2 ^ 16 →
        enters (fun j => j.result = some (raftStatus 11 1 k))) ∧
      (∀ s3 s4 xs ys, collCardBad op card r.table.length k = false → fld card 6 2 = 0 ∨ fld card 6 2 = r.gen % 2 ^ 16 →
        s2.xlateAll s.focusCore none c.ctx .read (((cardReads card).flatMap Range.pages).map (fun v => (0, v))) = (xs, s3) →
        s3.xlateAll s.focusCore none c.ctx .write (((cardWrites card).flatMap Range.pages).map (fun v => (0, v))) = (ys, s4) →
        xs.any LaneXlat.isAbsent = false → ys.any LaneXlat.isAbsent = false →
        enters (fun j => j.result = none ∧ j.aux = [h, k, 0] ∧ j.reads = cardReads card ∧ j.writes = cardWrites card ∧
          j.scope = fld card 1 1)))) ∧
  (∀ (s : State) (core job op : Nat) (j : Job) (r : Raft), s.job? core job = some j → j.kind = .collective op → j.result = none → j.ending = none →
    let h := j.raftOf.1
    let k := j.raftOf.2.1
    s.rafts.get? h = some r →
    (∀ mem, s.canStart core j = true → r.live = true → r.ctx = j.ctx → r.members.get? k = some mem →
      ((s.memberJobs h k).filter (fun e => e.2.started)).length < 8 →
      (∀ w, mem.aborts.get? ((mem.started + 1) % 2 ^ 16) = some w → ∃ t j', exec (.jobStart core job) s = .next t ∧
        t.job? core job = some j' ∧ j'.started = true ∧ j'.ending = some (w, 31) ∧
        ((s.memberJobs h k).all (fun e => !e.2.started) = true → j'.result = some w)) ∧
      (op = 0xDF → j.lost = false → mem.aborts.get? ((mem.started + 1) % 2 ^ 16) = none → r.routeDead 0 = false → r.routeDead k = false →
        Reachable s r 0 → ∃ t j' r' x, exec (.jobStart core job) s = .next t ∧ t.job? core job = some j' ∧ j'.started = true ∧ j'.pos = 1 ∧
          j'.result = none ∧ j'.aux = [h, k, mem.started + 1] ∧ j'.deadline = some (s.clock + j.collTimeout r) ∧
          t.rafts.get? h = some r' ∧ (r'.members.get? k).map RaftMember.started = some (mem.started + 1) ∧
          x ∈ t.msgs ++ t.netOut ∧ x.typ = 5 ∧ x.key = r.key ∧ x.src = k ∧ x.dst = 0 ∧ x.seq = (mem.started + 1) % 2 ^ 16)) ∧
    (∀ s2 xs, j.started = true → j.pos = 0 → j.lost = false → op ≠ 0xDF → r.routeDead 0 = false → r.routeDead k = false → Reachable s r 0 →
      NoneTrails s core → bitsOf (s.ctx j.ctx).migthr.toNat 15 0 = 0 →
      let z := collZ (fld j.card 3 1)
      let n := collSrc op r.table.length (fld j.card 32 8) (fld j.card 8 4) k
      s.collAccess core j .read (byteVas (fld j.card 16 8) (z * n) ++
        byteVas (fld j.card 40 8) (if fld j.card 3 1 = 2 then n / 32 else 0)) = (.ok xs, s2) →
      ∃ t j' x, exec (.jobStart core job) s = .next t ∧ t.job? core job = some j' ∧ j'.pos = 1 ∧ j'.result = none ∧
        x ∈ t.msgs ++ t.netOut ∧ x.typ = 3 ∧ x.key = r.key ∧ x.src = k ∧ x.dst = 0 ∧ x.seq = j.raftOf.2.2 % 2 ^ 16 ∧ x.offset = 0 ∧
        x.params = [op, fld j.card 2 1, fld j.card 3 1, fld j.card 32 8, fld j.card 8 4, j.collTimeout r] ∧
        x.data = elemsOf z ((xs.take (z * n)).map (fun y => (s.byte y.loc.idx).toNat)) ∧
        x.scales = (xs.drop (z * n)).map (fun y => (s.byte y.loc.idx).toNat)) ∧
    (∀ n, j.started = true → j.deadline = some n → n ≤ s.clock → ∃ t j' o, exec (.collectiveTimeout core job) s = .next t ∧
      t.mem = s.mem ∧ t.job? core job = some j' ∧ j'.result = some (raftStatus 9 0 o) ∧
      (Reachable s r 0 → ∃ x : Msg, x ∈ t.msgs ++ t.netOut ∧ x.typ = 6 ∧ x.key = r.key ∧ x.src = k ∧ x.dst = 0 ∧ x.params = [0] ∧
        x.status = raftStatus 9 0 o) ∧
      (∀ q, (r.members.get? 0).isSome = true → (List.range r.table.length).find? (fun y =>
        ((r.colls.getD (j.raftOf.2.2 % 2 ^ 16) Coll.blank).parts.get? y).isNone) = some q → o = q) ∧
      (r.members.get? 0 = none → 1 < r.table.length → o ≠ k ∧ o < r.table.length))) ∧
  (∀ (s : State) (ix h : Nat) (m : Msg) (r : Raft) (i : Instr), (i = .contrib ix ∧ m.typ = 3) ∨ (i = .arrive ix ∧ m.typ = 5) →
    FirstMsg s ix m → s.raftOfMsg m = some (h, r) → s.rafts.get? h = some r → m.dst = 0 →
    let c := r.colls.getD m.seq Coll.blank
    let parts := c.parts.insert m.src m
    let ms := parts.map Prod.snd
    let need := if m.typ = 5 then 0 else collSrc (m.params.getD 0 0) r.table.length (m.params.getD 3 0) (m.params.getD 4 0) m.src
    let whole := m.offset = 0 ∧ need ≤ m.data.length
    let segs := m :: c.segs.getD m.src []
    let has (e : Msg) (i : Nat) : Prop := e.offset ≤ i ∧ i < e.offset + e.data.length
    c.aborted = none → c.sent = false →
    (¬ whole → (∃ i, i < need ∧ ∀ e ∈ segs, ¬ has e i) → ∃ t r', exec i s = .next t ∧ t.msgs = s.msgs.eraseIdx ix ∧ t.netOut = s.netOut ∧
      t.mem = s.mem ∧ t.rafts.get? h = some r' ∧ (r'.colls.getD m.seq Coll.blank).parts = c.parts ∧
      (r'.colls.getD m.seq Coll.blank).segs.getD m.src [] = segs) ∧
    (¬ whole → (∀ i, i < need → ∃ e ∈ segs, has e i) → parts.length < r.table.length → ∃ t r' x, exec i s = .next t ∧
      t.msgs = s.msgs.eraseIdx ix ∧ t.netOut = s.netOut ∧ t.mem = s.mem ∧ t.rafts.get? h = some r' ∧
      (r'.colls.getD m.seq Coll.blank).parts.get? m.src = some x ∧ x.src = m.src ∧ x.params = m.params ∧ x.offset = 0 ∧
      x.data.length = need ∧ ∀ i, i < need → ∃ e ∈ segs, has e i ∧ x.data.getD i 0 = e.data.getD (i - e.offset) 0) ∧
    (whole → parts.length < r.table.length → ∃ t r', exec i s = .next t ∧ t.msgs = s.msgs.eraseIdx ix ∧ t.netOut = s.netOut ∧ t.mem = s.mem ∧
      t.rafts.get? h = some r' ∧ (r'.colls.getD m.seq Coll.blank).parts = parts) ∧
    (∀ y, whole → r.table.length ≤ parts.length → ms.head? = some y →
      (∀ z, ms.find? (fun x => decide (x.params ≠ y.params)) = some z → ∃ t, exec i s = .next t ∧ t.mem = s.mem ∧
        ∀ k, k < r.table.length → Reachable s r k → ∃ x : Msg, x ∈ t.msgs ++ t.netOut ∧ x.typ = 6 ∧ x.key = r.key ∧ x.dst = k ∧ x.seq = m.seq % 2 ^ 16 ∧
          x.params = [1] ∧ x.status = if k = z.src then raftStatus 11 4 z.src else raftStatus 8 4 z.src) ∧
      ((∀ x ∈ ms, x.params = y.params) → ∃ t, exec i s = .next t ∧ t.mem = s.mem ∧ ∀ k, k < r.table.length → r.routeDead k = false → r.routeDead 0 = false → Reachable s r k →
        ∃ x : Msg, x ∈ t.msgs ++ t.netOut ∧ x.typ = 4 ∧ x.key = r.key ∧ x.dst = k ∧ x.seq = m.seq % 2 ^ 16 ∧
          let op := y.params.getD 0 0
          let typ := y.params.getD 2 0
          let n := y.params.getD 3 0
          (op = 0xDA → 2 ≤ ms.length → (x.data, x.scales) = reduceElems typ (y.params.getD 1 0) 0 n ms) ∧
          (op = 0xDC → 2 ≤ ms.length → (x.data, x.scales) = reduceElems typ (y.params.getD 1 0) (k * n) n ms) ∧
          (op = 0xDB → x.data = ms.flatMap Msg.data ∧ x.scales = ms.flatMap Msg.scales) ∧
          (∀ b, op = 0xDD → ms[y.params.getD 4 0]? = some b → x.data = b.data ∧ x.scales = b.scales) ∧
          (op = 0xDE → x.data = ms.flatMap (fun b => (b.data.drop (k * n)).take n)) ∧
          (op = 0xDF → x.data = [] ∧ x.scales = [])))) ∧
  (∀ (s : State) (ix h core : Nat) (m : Msg) (r : Raft) (j : Job), FirstMsg s ix m → s.raftOfMsg m = some (h, r) →
    s.job? core j.id = some j → j.ending = none →
    (∀ s2 xs, m.typ = 4 → (s.dropMsg ix).jobOfMsg h m = some (some (core, j)) → j.lost = false →
      let z := collZ (fld j.card 3 1)
      let data := bytesOfElems z m.data
      let n := collDst j.collOp r.table.length (fld j.card 32 8)
      let got := (m.offset, m.data.length) :: j.got
      let covered := ∀ i, i < n → ∃ e ∈ got, e.1 ≤ i ∧ i < e.1 + e.2
      (s.dropMsg ix).collAccess core j .write (byteVas (fld j.card 24 8 + z * m.offset) data.length ++
        byteVas (fld j.card 48 8 + m.offset / 32) m.scales.length) = (.ok xs, s2) →
      (xs.map (fun y => y.loc.idx)).Nodup → NoneTrails s core → bitsOf (s.ctx j.ctx).migthr.toNat 15 0 = 0 →
      ∃ t j', exec (.result ix) s = .next t ∧ t.job? core j.id = some j' ∧ (covered → j'.result = some 0) ∧
        (¬ covered → j'.result = none ∧ j'.got = got) ∧ t.msgs = s.msgs.eraseIdx ix ∧
        (∀ i, i < xs.length → t.byte ((xs.map (fun y => y.loc.idx)).getD i 0) = BitVec.ofNat 8 ((data ++ m.scales).getD i 0)) ∧
        (∀ x, x ∉ xs.map (fun y => y.loc.idx) → t.byte x = s.byte x)) ∧
    (m.typ = 6 → s.formingOfMsg m = none → m.params.head? = some 1 → j.result = none →
      (s.memberJobs h m.dst).find? (fun e => e.2.started && decide (e.2.raftOf.2.2 % 2 ^ 16 = m.seq)) = some (core, j) →
      ∃ t j', exec (.abort ix) s = .next t ∧ t.job? core j.id = some j' ∧ j'.ending = some (m.status, 31) ∧ t.mem = s.mem ∧
        t.msgs = s.msgs.eraseIdx ix ∧ (s.firstJob h m.dst = some (core, j) → j'.result = some m.status))) ∧
  (∀ (s : State) (ix h : Nat) (m : Msg) (r : Raft), FirstMsg s ix m → m.typ = 6 → s.formingOfMsg m = none →
    s.raftOfMsg m = some (h, r) → m.dst = 0 → m.params.head? = some 0 → (r.colls.getD m.seq Coll.blank).aborted = none →
    ∃ t, exec (.abort ix) s = .next t ∧ t.mem = s.mem ∧ t.crews = s.crews ∧ ∀ k, k < r.table.length → Reachable s r k → ∃ x : Msg, x ∈ t.msgs ++ t.netOut ∧
      x.typ = 6 ∧ x.key = r.key ∧ x.dst = k ∧ x.seq = m.seq % 2 ^ 16 ∧ x.status = m.status ∧ x.params = [1]) ∧
  (∀ (s : State) (c : Crew) (d a sel : BitVec 8),
    let g := (c.getS a.toNat).toNat
    let h := g % 64
    (Issues s c (.cabort a) = true → Completes s c (.cabort a) (fun t c' => c'.sreg = c.sreg ∧ c'.vreg = c.vreg ∧ t.mem = s.mem ∧
      (64 ≤ g ∨ s.myRaft g = none → t.msgs = s.msgs ∧ t.netOut = s.netOut ∧ t.rafts = s.rafts ∧
        ∀ core, (t.core core).jobs = (s.core core).jobs) ∧
      ∀ r k core j, s.myRaft g = some (r, k) → (core, j) ∈ s.memberJobs g k → s.job? core j.id = some j → j.started = true →
        j.ending = none → (Reachable s r 0 → ∃ x : Msg, x ∈ t.msgs ++ t.netOut ∧ x.typ = 6 ∧ x.key = r.key ∧ x.src = k ∧ x.dst = 0 ∧
          x.params = [0] ∧ x.status = raftStatus 8 0 k) ∧
        ∃ j' : Job, t.job? core j.id = some j' ∧ j'.ending = some (raftStatus 11 0 k, 31) ∧
          (s.memberJobs g k = [(core, j)] → j'.result = some (raftStatus 11 0 k)))) ∧
    (Issues s c (.cstat d a sel) = true →
      let gives (x y : Nat) : Prop := Completes s c (.cstat d a sel) (fun t c' => c'.getS d.toNat = BitVec.ofNat 32 x ∧
        c'.getS (d.toNat + 1) = BitVec.ofNat 32 y ∧ (∀ r, r ≠ d.toNat → r ≠ d.toNat + 1 → c'.getS r = c.getS r) ∧
        c'.vreg = c.vreg ∧ Still s t)
      (s.myRaft h = none → gives 0xFFFFFFFF 0) ∧
      (∀ r k m, s.myRaft h = some (r, k) → r.members.get? k = some m →
        (sel = 0 → gives m.last (r.gen % 2 ^ 16 + r.table.length * 2 ^ 16)) ∧
        (sel = 1 → gives (k + h * 2 ^ 22) (r.hopBound + ((s.memberJobs h k).filter (fun e => e.2.started)).length % 2 ^ 8 * 2 ^ 16)) ∧
        (sel = 2 → m.abort = 0 → gives 31 0) ∧
        (sel = 2 → m.abort ≠ 0 → gives (m.port + m.abort / 2 ^ 24 % 16 * 2 ^ 8 + m.abort / 2 ^ 28 * 2 ^ 12)
          m.abortDev))))

/-- With a live raft, a rank inside it and aligned offsets, RPUT and RGET complete with one outstanding access and one
request for each active lane; a bad raft, rank or offset traps, and over a failed route every lane fails at once. A
REMREQ of another device is delivered in its order (log 79), and one that has been writes the word of the target's
window at its point of coherence, or reads it there and of a pool-mapped range the backing line (log 70), and replies,
or refuses. REMACK completes its lane, with the value for RGET. The timeout fails the lanes with status 9 and fills
REMSTAT. A port that fails leaves LIVE, its routes die and the started collectives over them take ABORT_LINK; an attempt
brings it back, or not. -/
def Obligations.RemoteAccessesAndPorts : Prop :=
  (∀ (s : State) (c : Crew) (d a b : BitVec 8) (get : Bool) (i : Instr), i = (if get then .rget d a b else .rput d a b) →
    Issues s c i = true →
    let w := (c.getS b.toNat).toNat
    let h := w / 2 ^ 22 % 64
    let k := w % 2 ^ 22
    let lanes := (List.range 64).filter (fun l => c.active.getLsbD l)
    let off (l : Nat) : Nat := (c.getVV a.toNat l).toNat
    (s.myRaft h = none → c.handles = true → TrapsWith s c i c.pc 0x03 ((c.getS b.toNat).zeroExtend 64)) ∧
    (∀ r me, s.myRaft h = some (r, me) →
      (2 ^ 28 ≤ w ∨ r.table.length ≤ k → c.handles = true → TrapsWith s c i c.pc 0x03 ((c.getS b.toNat).zeroExtend 64)) ∧
      (w < 2 ^ 28 → k < r.table.length →
        (∀ l, lanes.find? (fun l => decide (off l % 4 ≠ 0)) = some l → c.handles = true →
          TrapsWith s c i c.pc 0x02 (c.getVV a.toNat l)) ∧
        ((∀ l ∈ lanes, off l % 4 = 0) → get = true ∨ c.pend = [] →
          (lanes = [] → Completes s c i (fun t c' => Still s t ∧ c'.rest = c.rest ∧ c'.sreg = c.sreg ∧ c'.vreg = c.vreg)) ∧
          (lanes ≠ [] → r.routeDead k = true ∨ r.routeDead me = true → Completes s c i (fun t c' => t.msgs = s.msgs ∧ t.netOut = s.netOut ∧ c'.pend = c.pend ∧
            t.mem = s.mem ∧ c'.remstat = (if c.remstat ≠ 0 then c.remstat else BitVec.ofNat 32 (10 * 2 ^ 28 + h * 2 ^ 22 + k)) ∧
            c'.sreg = c.sreg ∧ (get = false → c'.vreg = c.vreg) ∧
            (get = true → ∀ l ∈ lanes, c'.getV d.toNat l = if modeType c.mode = 2 then 0x7FC00000 else 0xFFFFFFFF) ∧
            (∀ y l, l < 64 → y ≠ d.toNat ∨ l ∉ lanes → c'.getV y l = c.getV y l))) ∧
          (lanes ≠ [] → r.routeDead k = false → r.routeDead me = false → Completes s c i (fun t c' => t.mem = s.mem ∧ c'.sreg = c.sreg ∧ c'.vreg = c.vreg ∧
            c'.remstat = c.remstat ∧ c'.am = c.am ∧ ∃ p : Pend, c'.pend = c.pend ++ [p] ∧ p.kind = .remote get d.toNat ∧
              p.accs.map LaneAcc.lane = lanes ∧
              (∀ x ∈ p.accs, x.gens.getD 0 0 = s.clock + r.timeout ∧ x.gens.getD 1 0 = h ∧ x.gens.getD 2 0 = k ∧ x.va = off x.lane ∧
                (Reachable s r k → ∃ m : Msg, m ∈ t.msgs ++ t.netOut ∧ m.typ = 7 ∧ m.key = r.key ∧ m.src = me ∧ m.dst = k ∧
                  m.params = [get.toNat, off x.lane, (c.getV d.toNat x.lane).toNat, s.fkey, x.cmp])))))))) ∧
  (∀ (s : State) (ix h : Nat) (m : Msg) (r : Raft), FirstMsg s ix m → s.raftOfMsg m = some (h, r) →
    ((r.members.get? m.dst).isSome = true → m.typ = 7 → m.sdev ≠ m.ddev → m.params.length ≤ 5 →
      exec (.remreq ix) s = .next { s with msgs := s.msgs.set ix { m with params := m.params.take 5 ++ [0] } }) ∧
    (∀ w, m.typ = 7 → r.members.get? m.dst = some w → m.sdev = m.ddev ∨ 5 < m.params.length →
      let get := decide (m.params.getD 0 0 = 1)
      let off := m.params.getD 1 0
      let va := (w.winBase + off) % 2 ^ 64
      let replies (t : State) (status value : Nat) : Prop :=
        r.routeDead m.dst = false → r.routeDead m.src = false → Reachable s r m.src → ∃ x : Msg, x ∈ t.msgs ++ t.netOut ∧ x.typ = 8 ∧ x.key = r.key ∧ x.src = m.dst ∧
        x.dst = m.src ∧ x.params = [m.params.getD 3 0, m.params.getD 4 0, status, value]
      (w.winLen < off + 4 ∨ va % 4 ≠ 0 → ∃ t, exec (.remreq ix) s = .next t ∧ t.mem = s.mem ∧ replies t 8 0) ∧
      (∀ l, off + 4 ≤ w.winLen → va % 4 = 0 → s.xlateWalk r.ctx va (if get then .read else .write) = .ok l →
        let i := if l.cached then l.idx else s.backing r.ctx ⟨0, va, .ok l⟩
        (get = true → s.poisoned i 4 = true → ∃ t, exec (.remreq ix) s = .next t ∧ t.mem = s.mem ∧ replies t 8 0) ∧
        (get = true → s.poisoned i 4 = false → ∃ t, exec (.remreq ix) s = .next t ∧ t.mem = s.mem ∧ replies t 0 (s.bytes i 4)) ∧
        (get = false → ∃ t, exec (.remreq ix) s = .next t ∧ t.bytes l.idx 4 = m.params.getD 2 0 % 2 ^ 32 ∧ replies t 0 0 ∧
          (∀ b, b < l.idx ∨ l.idx + 4 ≤ b → t.byte b = s.byte b)))) ∧
    (∀ c, m.typ = 8 → s.crews.get? (m.params.getD 0 0) = some c →
      let mine (a : LaneAcc) : Bool := decide (a.cmp = m.params.getD 1 0 ∧ a.gens.getD 1 0 = h)
      ∃ t c', exec (.remack ix) s = .next t ∧ t.mem = s.mem ∧ t.crews.get? (m.params.getD 0 0) = some c' ∧
        c'.pc = c.pc ∧ c'.sreg = c.sreg ∧
        (∀ e ∈ c'.pend, e.kind.isRemote = true → ∀ a ∈ e.accs, mine a = false) ∧
        (m.params.getD 2 0 = 0 → c'.remstat = c.remstat ∧ ∀ e ∈ c.pend, ∀ dst, e.kind = .remote true dst → ∀ a ∈ e.accs, mine a = true →
          c'.getV dst a.lane = BitVec.ofNat 32 (m.params.getD 3 0)) ∧
        ((∀ e ∈ c.pend, ∀ dst, e.kind ≠ .remote true dst) → c'.vreg = c.vreg))) ∧
  (∀ (s : State) (core slot : Nat) (c : Crew) (p : Pend) (get : Bool) (dst n h k f : Nat), s.crews.get? (crewKey core slot) = some c →
    c.pend = [p] → p.kind = .remote get dst → p.accs ≠ [] → (∀ a ∈ p.accs, a.gens = [n, h, k, f]) →
    (n ≤ s.clock → ∃ t c', exec (.remoteAccessTimeout core slot 0) s = .next t ∧ t.mem = s.mem ∧
      t.crews.get? (crewKey core slot) = some c' ∧ c'.pend = [] ∧ c'.pc = c.pc ∧ c'.sreg = c.sreg ∧
      c'.remstat = (if c.remstat ≠ 0 then c.remstat else BitVec.ofNat 32 (9 * 2 ^ 28 + h * 2 ^ 22 + k)) ∧
      (get = true → ∀ a ∈ p.accs, c'.getV dst a.lane = BitVec.ofNat 32 f) ∧ (get = false → c'.vreg = c.vreg)) ∧
    (s.clock < n → ∃ t, exec (.remoteAccessTimeout core slot 0) s = .next t ∧ t.crews.get? (crewKey core slot) = some c)) ∧
  (∀ (s : State) (port : Nat), port < 28 → s.livePorts.testBit port = true →
    ∃ t, exec (.linkRetryFailure port) s = .next t ∧ t.mem = s.mem ∧ t.livePorts = s.livePorts - 2 ^ port ∧
      t.service.capgen = (s.service.capgen + 2) % 2 ^ 32 ∧ t.retrain.get? port = some (0, s.clock) ∧
      (∀ h r k, s.rafts.get? h = some r → r.live = true → r.routes.get? k = some port →
        (∃ r', t.rafts.get? h = some r' ∧ r'.routeDead k = true) ∧
        (∀ core j, s.job? core j.id = some j → j.kind.isCollective = true → j.started = true → j.result = none →
          j.ending = none → j.raftOf.1 = h → (r.members.get? j.raftOf.2.1).isSome = true → let k := j.raftOf.2.1
          let w := raftStatus 10 (if port < 24 then 0 else 1) k
          ∃ j' : Job, t.job? core j.id = some j' ∧ j'.ending = some (w, port) ∧ (s.memberJobs h k = [(core, j)] → j'.result = some w)))) ∧
  (∀ (s : State) (port n u : Nat), s.retrain.get? port = some (n, u) → u ≤ s.clock →
    s.service.actions.any (fun a => decide (a.cmd = 5 ∧ a.arg % 32 = port)) = false →
    (∃ t, exec (.portRetrainAttempt port true) s = .next t ∧ t.mem = s.mem ∧ t.livePorts = s.livePorts ||| 2 ^ port ∧
      t.retrain.get? port = none ∧ t.service.capgen = (s.service.capgen + 2) % 2 ^ 32 ∧
      (t.func 0).outbox = (s.func 0).outbox ++
        [layout [(2, 7), (6, 0), (8, (s.func 0).seq + 1), (32, layout [(1, port), (1, 0), (1, n + 1)])]]) ∧
    (s.params.portTry ≤ n + 1 → ∃ t, exec (.portRetrainAttempt port false) s = .next t ∧ t.livePorts = s.livePorts ∧
      t.retrain.get? port = none ∧ (t.func 0).outbox = (s.func 0).outbox ++
        [layout [(2, 7), (6, 0), (8, (s.func 0).seq + 1), (32, layout [(1, port), (1, 1), (1, n + 1)])]]) ∧
    (n + 1 < s.params.portTry → ∃ t, exec (.portRetrainAttempt port false) s = .next t ∧ t.livePorts = s.livePorts ∧
      t.retrain.get? port = some (n + 1, s.clock + 10000000) ∧ t.funcs = s.funcs))

/-- MARK puts its user event at the head of the core's ring. TRCARM arms one trace of the context with 0, answers all
ones where one is armed, disarms with the bytes written, and traps on a bad word or a misaligned buffer. CNTRD gives a
counter of issued instructions or of an event that the model counts whole (log 32): where the counter is of lines found
or missed in L1, the crew's outstanding accesses are performed first. CNTCFG sets a counter for the task, cleared on
request, or traps. The four device-fatal triggers freeze the ring that detects them, FREEZE_BROADCAST the next one, and
CAPSULE_SEAL stores the capsule, with flag bit 2 where a frozen ring's MAC fails, and lets the rings go on, or after a
fatal trigger ends every task; what a trigger
does after a device-fatal seal is the model's choice (log 118). -/
def Obligations.RecorderMarksCountsFreezesAndSeals : Prop :=
  (∀ (s : State) (c : Crew) (d : BitVec 8) (x : BitVec 16), Issues s c (.mark d x) = true → c.replay = none →
    let n := s.fkey / 64
    let old := s.ring n
    let e := eventOf s.clock (s.tag c.ctx) 3 0 (s.fkey % 64) (x.toNat + (c.getS d.toNat).toNat * 2 ^ 16)
    Completes s c (.mark d x) (fun t c' => t.mem = s.mem ∧ c'.rest = c.rest ∧ c'.sreg = c.sreg ∧ c'.vreg = c.vreg ∧
      ModesKept c c' ∧ (∀ m, m ≠ n → t.ring m = s.ring m) ∧
      (old.frozen = none → (t.ring n).events = (e :: old.events).take (ringCapacity n) ∧ (t.ring n).written = old.written + 1) ∧
      (old.frozen.isSome = true → (t.ring n).events = old.events ∧ (t.ring n).discarded = old.discarded + 1))) ∧
  (∀ (s : State) (c : Crew) (d a b : BitVec 8), Issues s c (.trcarm d a b) = true → c.pend = [] →
    let w := (c.getS b.toNat).toNat
    let va := (c.getSS a.toNat).toNat
    let size := w / 2 ^ 8 % 32
    let armed := 1 + size * 2 ^ 8
    (w ≠ 0 → (w ≠ armed ∨ size < 16 ∨ 30 < size) → c.handles = true →
      TrapsWith s c (.trcarm d a b) c.pc 0x01 ((c.getS b.toNat).zeroExtend 64)) ∧
    (w = armed → 16 ≤ size → size ≤ 30 → va % 2 ^ size ≠ 0 → c.handles = true →
      TrapsWith s c (.trcarm d a b) c.pc 0x02 (c.getSS a.toNat)) ∧
    (∀ xs s2, w = armed → 16 ≤ size → size ≤ 30 → va % 2 ^ size = 0 →
      s.classify s.focusCore none c.ctx 1 .write false ((bufferPages va (2 ^ size)).map (fun v => (0, v))) = (.go xs [], s2) →
      ((∃ x ∈ s.traces, x.ctx = c.ctx) → Completes s c (.trcarm d a b) (fun t c' => c'.getS d.toNat = BitVec.allOnes 32 ∧
        t.traces = s.traces ∧ (∀ r, r ≠ d.toNat → c'.getS r = c.getS r) ∧ c'.vreg = c.vreg ∧ t.mem = s.mem)) ∧
      ((∀ x ∈ s.traces, x.ctx ≠ c.ctx) → Completes s c (.trcarm d a b) (fun t c' => c'.getS d.toNat = 0 ∧
        (∃ x ∈ t.traces, x.ctx = c.ctx ∧ x.task = c.task ∧ x.va = va ∧ x.size = size) ∧
        (∀ r, r ≠ d.toNat → c'.getS r = c.getS r) ∧ c'.vreg = c.vreg))) ∧
    (w = 0 → s.traceOf c = none → Completes s c (.trcarm d a b) (fun t c' => c'.getS d.toNat = BitVec.allOnes 32 ∧
      t.traces = s.traces ∧ t.mem = s.mem)) ∧
    (∀ x, w = 0 → s.traceOf c = some x → Completes s c (.trcarm d a b) (fun t c' => c'.getS d.toNat = BitVec.ofNat 32 x.written ∧
      (∀ y ∈ t.traces, y.ctx ≠ c.ctx ∨ y.task ≠ c.task) ∧ (∀ r, r ≠ d.toNat → c'.getS r = c.getS r) ∧ c'.vreg = c.vreg))) ∧
  (∀ (s : State) (c : Crew) (d k : BitVec 8), Issues s c (.cntrd d k) = true →
    let x := (s.core s.focusCore).ctrs.getD k.toNat Counter.zero
    let lines := k.toNat < 8 ∧ x.cfg % 2 ^ 16 ∈ [0x1000, 0x1001]
    Completes s c (.cntrd d k) (fun t c' =>
      (¬ lines ∨ c.pend = [] → (∀ r, r ≠ d.toNat → r ≠ d.toNat + 1 → c'.getS r = c.getS r) ∧ c'.vreg = c.vreg ∧ t.mem = s.mem ∧
        ModesKept c c') ∧
      (k.toNat = 9 ∨ (k.toNat < 8 ∧ (x.cfg.testBit 16 = false ∨ (s.current ≠ 0 ∧ 0x5000 ≤ x.cfg % 2 ^ 16) ∨ (lines ∧ c.pend = []) ∨
          x.cfg % 2 ^ 16 ∈ [0x0001, 0x0002, 0x0003, 0x0004, 0x1002, 0x1003, 0x1004, 0x3000, 0x3001, 0x3002, 0x3003, 0x4000, 0x4001])) →
        c'.getSS d.toNat = BitVec.ofNat 64 x.count))) ∧
  (∀ (s : State) (c : Crew) (k b : BitVec 8), Issues s c (.cntcfg k b) = true →
    let w := (c.getS b.toNat).toNat
    let x := s.ctx c.ctx
    (x.level = 0 → x.cntctl.getLsbD 0 = false → c.handles = true →
      TrapsWith s c (.cntcfg k b) c.pc 0x15 ((Instr.cntcfg k b).word.zeroExtend 64)) ∧
    (x.level ≠ 0 ∨ x.cntctl.getLsbD 0 = true →
      (2 ^ 20 ≤ w ∨ w % 2 ^ 16 ∉ counterEvents → c.handles = true →
        TrapsWith s c (.cntcfg k b) c.pc 0x01 ((c.getS b.toNat).zeroExtend 64)) ∧
      (w < 2 ^ 20 → w % 2 ^ 16 ∈ counterEvents → Completes s c (.cntcfg k b) (fun t c' =>
        let y := (t.core s.focusCore).ctrs.getD k.toNat Counter.zero
        y.cfg = w % 2 ^ 18 + w / 2 ^ 19 * 2 ^ 19 ∧ y.task = c.task ∧ (w.testBit 18 = true → y.count = 0) ∧
        (c.pend = [] ∨ ((s.core s.focusCore).ctrs.getD k.toNat Counter.zero).cfg % 2 ^ 16 ∉ [0x1000, 0x1001] →
          c'.sreg = c.sreg ∧ c'.vreg = c.vreg ∧ ModesKept c c' ∧ t.mem = s.mem))))) ∧
  (∀ (s : State) (ring cause : Nat) (i : Instr),
    (i, cause) ∈ [(Instr.foremanMemoryError ring, 0x80), (.foremanWatchdog ring, 0x81), (.syncPlaneLoss ring, 0x82), (.thermalTrip, 0x83)] →
    (i = .thermalTrip → ring = headRing) → s.isForeman ring = true → s.service.fatal = false →
    ∃ t f, exec i s = .next t ∧ t.freeze = some f ∧ f.stay = true ∧ t.crews = s.crews ∧ t.mem = s.mem ∧ t.tasks = s.tasks ∧
      (t.func 0).outbox = (s.func 0).outbox ++ [layout [(2, 4), (6, 0), (8, (s.func 0).seq + 1), (32, cause)]] ∧
      (s.freeze = none → f.cause = cause ∧ f.origin = ring ∧ f.next = 1 ∧ (t.ring ring).frozen = some (0, BitVec.ofNat 32 s.clock)) ∧
      (∀ g, s.freeze = some g → f.further = g.further + 1 ∧ f.cause = g.cause ∧ f.left = g.left ∧ t.rings = s.rings)) ∧
  (∀ (s : State) (f : Freeze), s.freeze = some f →
    (∀ n rest, f.left = n :: rest → ∃ t g, exec .freezeBroadcast s = .next t ∧ t.freeze = some g ∧ g.left = rest ∧
      g.next = f.next + 1 ∧ g.cause = f.cause ∧ (t.ring n).frozen = some (f.next, BitVec.ofNat 32 s.clock) ∧
      (∀ m, m ≠ n → t.ring m = s.ring m) ∧ t.crews = s.crews ∧ t.mem = s.mem) ∧
    (f.left = [] → ∃ t x, exec .capsuleSeal s = .next t ∧ t.freeze = none ∧ t.capsules.get? 2 = some x ∧
      x.number = s.capsuleCount + 1 ∧ t.capsuleCount = s.capsuleCount + 1 ∧ x.cause = f.cause ∧ x.origin = f.origin ∧
      x.flags % 4 = f.stay.toNat ∧ (x.flags / 4 = 0 ↔ ∀ e ∈ s.rings, e.2.frozen.isSome = true →
        e.2.events.reverse.foldl (ringMac s.boots) (e.2.macs.getLastD e.2.mac) = e.2.mac) ∧ x.further = f.further ∧
      (f.stay = false → t.crews = s.crews ∧ t.tasks = s.tasks ∧ t.mem = s.mem ∧
        ∀ n, (t.ring n).frozen = none ∧ (t.ring n).events = (s.ring n).events) ∧
      (f.stay = true → t.tasks = [] ∧ t.service.fatal = true))) ∧
  (∀ (s : State) (wh idx : Nat) (fixed : Bool), wh ≤ 4 → ∃ t, exec (.memoryError wh idx fixed) s = .next t ∧ t.mem = s.mem ∧
    t.crews = s.crews ∧ (fixed = true → t.poison = s.poison) ∧
    (fixed = false → idx / 128 ∈ t.poison ∧ ∀ n, n ∈ t.poison ↔ n = idx / 128 ∨ n ∈ s.poison) ∧
    ((s.ring (s.errorRing wh idx)).frozen = none → (t.ring (s.errorRing wh idx)).written = (s.ring (s.errorRing wh idx)).written + 1))

/-- The crew may use the `n` bytes at `va` under `need` (R412, R414), with translations left as in `s2`; `xs` are their places, each at its
point of coherence, in order. -/
def AreaPlaces (s s2 : State) (c : Crew) (va n : Nat) (need : Need) (xs : List LaneXlat) : Prop :=
  ∃ ys, s.classify s.focusCore none c.ctx 1 need (decide (need = .read)) ((pageStarts va n).map (fun v => (0, v))) = (.go ys [], s2) ∧
    xs = ys.flatMap (fun x => (List.range (pagePart va n x.va)).map (fun i =>
      ⟨0, x.va + i, .ok ⟨s2.poc (x.loc.idx + i), x.loc.cached⟩⟩))

/-- The crew reads the `n` bytes of a save area at `va` in state `s` as loads (R414) and finds `x`, which leaves state `s2`: as `StructRead` does
for a structure. -/
def AreaRead (s s2 : State) (c : Crew) (va n x : Nat) : Prop :=
  bitsOf (s.ctx c.ctx).migthr.toNat 15 0 = 0 ∧ ∃ xs s1, AreaPlaces s s1 c va n .read xs ∧
    (∀ y ∈ xs, y.loc.cached = true → ∀ v, (s.core s.focusCore).l1.get? (y.loc.idx / 128) = some v →
      v = s.bytes (y.loc.idx / 128 * 128) 128) ∧
    x = xs.foldr (fun y acc => (s.byte y.loc.idx).toNat + 256 * acc) 0 ∧ s2 = (s1.plainRead xs).2

/-- CTXSV of a bound crew of the core with no job, access or region left writes the bytes of its save area at s[a:a+1],
removes the crew from its slot, notes it away in its task and gives the size; while a job of the crew is left that does
not go along it waits, and the crew in the slot issues nothing; slot bits out of range give 0xFFFFFFFD and an empty or
own slot 0xFFFFFFFF, with nothing changed. CTXRS of an area that is well formed and whose CRC agrees binds in the free
slot the crew that it describes, with its PC, masks, modes and registers, and gives 0, waits while its home pool has no
room for a phase record, or traps where a PC of the area is none (log 50); a malformed area, a wrong CRC or an occupied
slot gives its status. The area is read as loads, with its values stated where what L1 holds of it is as memory is. -/
def Obligations.ContextsAreSavedAndRestored : Prop :=
  (∀ (s : State) (c : Crew) (d a b : BitVec 8), Issues s c (.ctxsv d a b) = true →
    let x := (c.getS b.toNat).toNat
    let va := (c.getSS a.toNat).toNat
    let key := crewKey s.focusCore (x % 64)
    let fails (v : Word) : Prop := Completes s c (.ctxsv d a b) (fun t c' => c'.getS d.toNat = v ∧
      (∀ r, r ≠ d.toNat → c'.getS r = c.getS r) ∧ c'.vreg = c.vreg ∧ Still s t)
    (64 ≤ x → fails 0xFFFFFFFD) ∧
    (x < 64 → (s.crews.get? key = none ∨ key = s.fkey) → fails 0xFFFFFFFF) ∧
    (∀ q, x < 64 → s.crews.get? key = some q → key ≠ s.fkey → q.savedTrap = none → q.cut = false →
      (s.regionSaved key = false → fails 0xFFFFFFFE) ∧
      (s.regionSaved key = true → s.canSave key = false → ∃ t c', exec (.ctxsv d a b) s = .next t ∧ t.crews.get? s.fkey = some c' ∧
        c'.waiting = some (.ctxsv key) ∧ c'.pc = c.pc ∧ c'.sreg = c.sreg ∧ c'.vreg = c.vreg ∧ t.mem = s.mem ∧
        (∀ k, k ≠ s.fkey → t.crews.get? k = s.crews.get? k) ∧ (s.focusSlot < 64 → t.mayIssue key = false)) ∧
      (∀ s2 xs, s.regions.get? key = none → s.canSave key = true → q.pend = [] → (s.core s.focusCore).tileOps = [] →
        (s.core s.focusCore).jobs.any (fun j => j.suspends key false) = false → c.pend = [] → (s.core s.focusCore).pools = [] →
        s.regions.all (fun e => e.2.live || !e.2.cores.contains s.focusCore) = true → s.traces = [] → va % 256 = 0 →
        bitsOf (s.ctx c.ctx).migthr.toNat 15 0 = 0 →
        let bytes := q.areaBytes (s.tilesOf key q) [] []
        let ps := xs.map (fun y => y.loc.idx)
        AreaPlaces s s2 c va bytes.length .write xs → ps.Nodup → Completes s c (.ctxsv d a b) (fun t c' =>
          c'.getS d.toNat = BitVec.ofNat 32 bytes.length ∧ (∀ r, r ≠ d.toNat → c'.getS r = c.getS r) ∧ c'.vreg = c.vreg ∧
          t.crews.get? key = none ∧ (∀ k, k ≠ key → k ≠ s.fkey → t.crews.get? k = s.crews.get? k) ∧
          (∀ k, k < bytes.length → k < ps.length → t.byte (ps.getD k 0) = BitVec.ofNat 8 (bytes.getD k 0)) ∧
          (∀ p, p ∉ ps → t.byte p = s.byte p) ∧
          (∀ u, s.tasks.get? q.task = some u → ∃ v, t.tasks.get? q.task = some v ∧ v.away = q.number :: u.away))))) ∧
  (∀ (s : State) (c : Crew) (d a b : BitVec 8), Issues s c (.ctxrs d a b) = true → c.pend = [] →
    let x := (c.getS b.toNat).toNat
    let va := (c.getSS a.toNat).toNat
    let slot := x % 64
    let key := crewKey s.focusCore slot
    let fails (v : Word) : Prop := Completes s c (.ctxrs d a b) (fun t c' => c'.getS d.toNat = v ∧
      (∀ r, r ≠ d.toNat → c'.getS r = c.getS r) ∧ c'.vreg = c.vreg ∧ t.mem = s.mem ∧ t.tasks = s.tasks ∧
      ∀ k, k ≠ s.fkey → t.crews.get? k = s.crews.get? k)
    (2 ^ 14 ≤ x ∨ x / 64 % 4 ≠ 0 → fails 0xFFFFFFFD) ∧
    (2 ^ 14 > x → x / 64 % 4 = 0 → va % 256 ≠ 0 → c.handles = true → OnlyTraps s c (.ctxrs d a b) c.pc 0x02 (c.getSS a.toNat)) ∧
    (∀ s2 h, x < 2 ^ 14 → x / 64 % 4 = 0 → va % 256 = 0 → AreaRead s s2 c va 2048 h →
      let size := fld h 8 4
      (areaOk h size = false → fails 0xFFFFFFFE) ∧
      (∀ s3 rest, areaOk h size = true → AreaRead s2 s3 c (va + 2048) (size - 2048) rest →
        let bytes := h + rest * 2 ^ (8 * 2048)
        let bs := bytesOf size bytes
        let f := fld bytes
        let sound := (crc32c (bs.take 12 ++ [0, 0, 0, 0] ++ bs.drop 16)).toNat = fld h 12 4
        let tiles := BitVec.ofNat 8 (fld h 47 1)
        let free := (s.crews.get? key).isNone && s.blocksFree s.focusCore slot (x / 2 ^ 8 % 64) (fld h 44 2 / 8) &&
          (s.ctxs.get? (fld h 72 2)).isSome && !s.crews.any (fun e => decide (e.1 / 64 = s.focusCore) && decide (e.2.tiles &&& tiles ≠ 0))
        let task := (s.tasks.get? (fld h 74 2)).getD (newTask (fld h 72 2) (dieOf s.focusCore) 0 s.clock)
        let room := s.recordRoom (s.groupMove (fld h 74 2) task (task.group (fld h 80 8 / 64)) s.focusCore).1 task.carry
        (¬ sound → fails 0xFFFFFFFC) ∧
        (sound → free = false → fails 0xFFFFFFFF) ∧
        (sound → free = true → fld h 47 1 = 0 → (∀ q, q < 4 → fld h (1152 + 32 * q + 13) 1 = 0 ∧ fld h (1152 + 32 * q + 15) 1 = 0) →
          fld h 6 2 < 8 → f 1328 16 = 0 → s.traces = [] → (s.core s.focusCore).jobs.length ≤ 32 →
          (∀ e ∈ s.savedAreas, e.bytes = bytes → e.jobs = [] ∧ e.bars = []) →
          (∀ cause tval, areaPcTrap h = some (cause, tval) → c.handles = true → TrapsWith s c (.ctxrs d a b) c.pc cause tval) ∧
          (areaPcTrap h = none → room = none → ∃ t c', exec (.ctxrs d a b) s = .next t ∧ t.crews.get? s.fkey = some c' ∧
            c'.pc = c.pc ∧ c'.stalled = true ∧ c'.sreg = c.sreg ∧ c'.vreg = c.vreg ∧ t.mem = s.mem ∧ t.tasks = s.tasks ∧
            ∀ k, k ≠ s.fkey → t.crews.get? k = s.crews.get? k) ∧
          (areaPcTrap h = none → room.isSome = true → Completes s c (.ctxrs d a b) (fun t c' => c'.getS d.toNat = 0 ∧
            (∀ r, r ≠ d.toNat → c'.getS r = c.getS r) ∧ c'.vreg = c.vreg ∧ t.mem = s.mem ∧
            (∀ k, k ≠ key → k ≠ s.fkey → t.crews.get? k = s.crews.get? k) ∧ ∃ q, t.crews.get? key = some q ∧
              q.pc = BitVec.ofNat 57 (f 16 8) ∧ q.am = BitVec.ofNat 64 (f 24 8) ∧ q.live = BitVec.ofNat 64 (f 32 8) ∧
              q.mode = BitVec.ofNat 16 (f 40 2) ∧ q.modex = BitVec.ofNat 16 (f 42 2) ∧ q.vregs = f 44 2 ∧ q.sregs = f 46 1 ∧
              q.ctx = f 72 2 ∧ q.number = f 80 8 / 64 ∧ q.tvec = BitVec.ofNat 64 (f 152 8) ∧ q.rbase = x / 2 ^ 8 % 64 ∧
              some q.recOff = room ∧
              (∀ i, i < 64 → q.getS i = BitVec.ofNat 32 (f (640 + 4 * i) 4)) ∧
              (∀ i, 1 ≤ i → i < 8 → q.pred i = BitVec.ofNat 64 (f (88 + 8 * (i - 1)) 8)) ∧
              (∀ r l, r < f 44 2 → l < 64 → q.getV r l = BitVec.ofNat 32 (f (2048 + 256 * r + 4 * l) 4))))))))

/-- Every crew bound and parked on page `va` of context `cn` has the answer `a`, 1 served or 2 refused, and nothing else of it changed. -/
def PageAnswered (s t : State) (cn va a : Nat) : Prop :=
  ∀ key c p, s.crews.get? key = some c → c.ctx = cn → c.park = some p → ∃ c' p', t.crews.get? key = some c' ∧ c'.park = some p' ∧
    p'.mask = p.mask ∧ p'.pages = p.pages.map (fun g => if g.va = va ∧ g.answer = 0 then { g with answer := a } else g) ∧
    c'.pc = c.pc ∧ c'.sreg = c.sreg ∧ c'.vreg = c.vreg

/-- The record and those of its page left the fault queue of its die (R164). -/
def RecordsGone (s t : State) (die : Nat) (r : FaultRec) : Prop :=
  (t.die die).faults = (s.die die).faults.filter (fun q => !decide (q.ctx = r.ctx ∧ q.va = r.va))

/-- A record whose page is mapped is answered as served to every parked crew; one of an unmapped address is refused; a
first touch takes the lowest free page, zeroes it and writes its leaf; what the pager cannot serve goes to the owner's
function as a kind 1 record. A record of kind 11 needs no pager. A reply of the host is served where the walk
finds a leaf, and refused otherwise or after FAULTTMO. An idle pager leaves its core. The first MIGRATION makes a page's
entry invalid of kind 10, the next copies its bytes and rewrites its leaf (log 112). A held notification is posted when
there is room, and one whose row cannot be stored is lost with MIGQ 3:0 cleared. FABTMO traps TIMEOUT where FABTMO ticks
have passed since the access was issued, or since the instruction that waits at an address became the crew's next (log
121), less those in which a service action paused it. A live region on core 23 takes the save stop before the pager
serves there. A ready crew joins its quarter's active set where it is the first outside by R330 and a place is free, and after
256 ck, as log 72 reckons them, takes that of the member admitted earliest. -/
def Obligations.FaultsPagesAndTimeoutsAreServed : Prop :=
  (∀ (s : State) (die entry : Nat) (r : FaultRec), s.dieLive die = true → (s.die die).faults[entry]? = some r → r.passed = false →
    (∀ i, i < 24 → (s.core (die * 24 + i)).faultWait = []) → s.doneStores = [] →
    s.regions.all (fun e => !e.2.cores.contains (die * 24 + 23)) = true →
    let e := Instr.landingPagerServe die entry
    (∀ x, s.walk r.ctx r.va = .leaf x → ∃ t, exec e s = .next t ∧ RecordsGone s t die r ∧ PageAnswered s t r.ctx r.va 1 ∧ t.mem = s.mem ∧
      (r.kind ≠ 3 → s.coreLive (die * 24 + 23) = true → (t.die die).pager = true ∧ (t.die die).pagerIdle = s.clock) ∧
      (r.kind = 3 ∨ s.coreLive (die * 24 + 23) = false → (t.die die).pager = (s.die die).pager)) ∧
    (s.walk r.ctx r.va = .malformed ∨ (∃ lv p x, s.walk r.ctx r.va = .invalid 0 lv p x) →
      ∃ t, exec e s = .next t ∧ RecordsGone s t die r ∧ PageAnswered s t r.ctx r.va 2 ∧ t.mem = s.mem) ∧
    (∀ p x pg rest, s.walk r.ctx r.va = .invalid 1 0 p x → x.testBit 7 = false → (s.die die).freePages = pg :: rest → (∀ a, s.poc a = a) →
      ∃ t, exec e s = .next t ∧ RecordsGone s t die r ∧ PageAnswered s t r.ctx r.va 1 ∧ (t.die die).freePages = rest ∧
        t.bytes p 8 = (pg + 15) % 2 ^ 64 ∧ (∀ a, a < p ∨ p + 8 ≤ a → pg ≤ a → a < pg + 2 ^ 17 → t.byte a = 0) ∧
        (∀ a, a < p ∨ p + 8 ≤ a → a < pg ∨ pg + 2 ^ 17 ≤ a → t.byte a = s.byte a)) ∧
    (∀ p x, s.walk r.ctx r.va = .invalid 2 0 p x → exec e s = .next s) ∧
    (∀ kind lv p x, s.walk r.ctx r.va = .invalid kind lv p x → kind = 3 ∨ (kind ≠ 0 ∧ lv ≠ 0) → ∃ t r', exec e s = .next t ∧
      (t.die die).faults[entry]? = some r' ∧ r'.passed = true ∧ r'.ctx = r.ctx ∧ r'.va = r.va ∧ t.crews = s.crews ∧ t.mem = s.mem ∧
      (t.func (s.ctx r.ctx).owner).outbox = (s.func (s.ctx r.ctx).owner).outbox ++
        [layout [(2, 1), (6, 0), (8, (s.func (s.ctx r.ctx).owner).seq + 1), (32, r.toNat)]])) ∧
  (∀ (s : State) (die entry k : Nat) (r : FaultRec) (x : TlbEntry) (g : Region), s.dieLive die = true →
    (s.die die).faults[entry]? = some r → r.passed = false → r.kind ≠ 3 → (∀ i, i < 24 → (s.core (die * 24 + i)).faultWait = []) →
    s.doneStores = [] → s.walk r.ctx r.va = .leaf x → s.coreLive (die * 24 + 23) = true → s.regions.all (fun e => e.2.live) = true →
    s.regionAt (die * 24 + 23) = some (k, g) → g.saving ≠ 2 → exec (.landingPagerServe die entry) s = .next (s.saveStop k)) ∧
  (∀ (s : State) (die entry : Nat) (r : FaultRec), (s.die die).faults[entry]? = some r → (∀ i, i < 24 → (s.core (die * 24 + i)).faultWait = []) →
    (r.passed = true → r.entered + s.params.faultTmo ≤ s.clock → ∃ t, exec (.faulttmo die entry) s = .next t ∧ RecordsGone s t die r ∧
      PageAnswered s t r.ctx r.va 2 ∧ t.mem = s.mem) ∧
    (r.passed = false ∨ s.clock < r.entered + s.params.faultTmo → exec (.faulttmo die entry) s = .next s)) ∧
  (∀ (s : State) (fn seq die : Nat) (r : FaultRec), s.replyTo fn seq = some (die, r) → (∀ i, i < 24 → (s.core (die * 24 + i)).faultWait = []) →
    (∀ x, s.walk r.ctx r.va = .leaf x → s.doneStores = [] → ∃ t, exec (.freplyServe fn seq) s = .next t ∧ RecordsGone s t die r ∧
      PageAnswered s t r.ctx r.va 1 ∧ t.mem = s.mem) ∧
    ((∀ x, s.walk r.ctx r.va ≠ .leaf x) → ∃ t, exec (.freplyServe fn seq) s = .next t ∧ RecordsGone s t die r ∧
      PageAnswered s t r.ctx r.va 2 ∧ t.mem = s.mem) ∧
    (∃ t, exec (.freplyRefuse fn seq) s = .next t ∧ RecordsGone s t die r ∧ PageAnswered s t r.ctx r.va 2 ∧ t.mem = s.mem)) ∧
  (∀ (s : State) (die : Nat), (s.die die).pager = true → (s.die die).faults.all FaultRec.passed = true →
    ((s.die die).pagerIdle + s.params.pagerIdle ≤ s.clock → ∃ t, exec (.pageridle die) s = .next t ∧ (t.die die).pager = false ∧
      (t.die die).faults = (s.die die).faults ∧ t.crews = s.crews ∧ t.mem = s.mem) ∧
    (s.clock < (s.die die).pagerIdle + s.params.pagerIdle → exec (.pageridle die) s = .next s)) ∧
  (∀ (s : State) (ctx va page pte : Nat) (e : TlbEntry), (∀ x ∈ s.cores, x.2.pools = []) → (∀ x ∈ s.crews, x.2.pend = []) →
    s.migrations.find? (fun m => decide (m.ctx = ctx ∧ m.va ≤ va ∧ va < m.va + m.size ∧ m.new = page)) = none →
    s.walk ctx va = .leaf e → s.entryOf ctx e.va = some pte → e.size = 2 ^ 17 → s.window ctx va = none →
    (∀ d ∈ s.dies, d.2.pins = []) → page % 2 ^ 17 = 0 → s.migTarget ctx e (page / 2 ^ 37) = true → (s.die (page / 2 ^ 37)).freePages.contains page = true →
    e.pa ≠ page → ∃ t, exec (.migration ctx va page) s = .next t ∧ t.bytes pte 8 = 4 ∧ (∀ a, a < pte ∨ pte + 8 ≤ a → t.byte a = s.byte a) ∧
      page ∉ (t.die (page / 2 ^ 37)).freePages ∧
      t.migrations = s.migrations ++ [⟨ctx, e.va, e.pa, page, 2 ^ 17, [(pte, s.bytes pte 8)]⟩]) ∧
  (∀ (s : State) (m : Migration) (pte x : Nat), s.Inv → (∀ c ∈ s.cores, c.2.pools = []) →
    s.migrations.find? (fun y => decide (y.ctx = m.ctx ∧ y.va ≤ m.va ∧ m.va < y.va + y.size ∧ y.new = m.new)) = some m →
    m.leaves = [(pte, x)] → m.size = 2 ^ 17 → m.old % 2 ^ 17 = 0 →
    m.old + 2 ^ 17 ≤ m.new ∨ m.new + 2 ^ 17 ≤ m.old → pte + 8 ≤ m.new ∨ m.new + 2 ^ 17 ≤ pte → pte + 8 ≤ m.old ∨ m.old + 2 ^ 17 ≤ pte →
    ∃ t, exec (.migration m.ctx m.va m.new) s = .next t ∧ (∀ i, i < 2 ^ 17 → t.byte (m.new + i) = s.byte (m.old + i)) ∧
      t.bytes pte 8 = (x - m.old + m.new) % 2 ^ 64 ∧
      (∀ a, a < m.new ∨ m.new + 2 ^ 17 ≤ a → a < pte ∨ pte + 8 ≤ a → t.byte a = s.byte a) ∧
      m ∉ t.migrations ∧ t.pageCtr.get? (m.old / 2 ^ 17) = none) ∧
  (∀ (s : State) (page : Nat) (l : Loc),
    let p := s.pageCtr.getD page PageCtr.zero
    let x := s.ctx p.ctx
    let k := x.migq.toNat % 2 ^ 4
    let tail := x.migqht.toNat / 2 ^ 16
    let head := x.migqht.toNat % 2 ^ 16
    p.pending = true → k ≠ 0 → (tail + 2 ^ 16 - head) % 2 ^ 16 ≠ 2 ^ k → (s.ctxs.get? p.ctx).isSome = true →
    s.xlateWalk p.ctx (x.migq.toNat / 2 ^ 12 % 2 ^ 45 * 2 ^ 12 + 16 * (tail % 2 ^ k)) .write = .ok l →
    ∃ t, exec (.pendingNotificationPost page) s = .next t ∧ t.bytes l.idx 16 = p.notification % 2 ^ 128 ∧
      (t.pageCtr.getD page PageCtr.zero).pending = false ∧ ((t.ctx p.ctx).migqht.toNat) = (tail + 1) % 2 ^ 16 * 2 ^ 16 + head ∧
      (∀ a, a < l.idx ∨ l.idx + 16 ≤ a → t.byte a = s.byte a)) ∧
  (∀ (s : State) (page : Nat),
    let p := s.pageCtr.getD page PageCtr.zero
    let x := s.ctx p.ctx
    let k := x.migq.toNat % 2 ^ 4
    let tail := x.migqht.toNat / 2 ^ 16
    p.pending = true → k ≠ 0 → (tail + 2 ^ 16 - x.migqht.toNat % 2 ^ 16) % 2 ^ 16 ≠ 2 ^ k → (s.ctxs.get? p.ctx).isSome = true →
    (∀ l, s.xlateWalk p.ctx (x.migq.toNat / 2 ^ 12 % 2 ^ 45 * 2 ^ 12 + 16 * (tail % 2 ^ k)) .write ≠ .ok l) →
    ∃ t, exec (.pendingNotificationPost page) s = .next t ∧ t.mem = s.mem ∧ (t.pageCtr.getD page PageCtr.zero).pending = false ∧
      (t.ctx p.ctx).migq.toNat = x.migq.toNat / 2 ^ 4 * 2 ^ 4 ∧ (t.ctx p.ctx).migqht = x.migqht ∧
      (t.ctx p.ctx).migovf.toNat = min (2 ^ 32 - 1) (x.migovf.toNat + 1)) ∧
  (∀ (s : State) (core slot : Nat) (c : Crew) (va : BitVec 64), s.crews.get? (crewKey core slot) = some c →
    c.canIssue = true → c.handles = true →
    let paused := s.service.actions.any (fun a => decide (a.cmd = 3 ∨ a.cmd = 4))
    let late (since : Nat) : Bool := !paused && decide (since + s.params.fabtmo + s.pausedSince since ≤ s.clock)
    (late c.readyAt.1 = true → (s.waitAddrs c).contains va.toNat = true → ∃ t c', exec (.fabtmo core slot false va) s = .next t ∧
      t.crews.get? (crewKey core slot) = some c' ∧ TookTrap c c' c.pc 0x0F va ∧ c'.pend = c.pend) ∧
    (late c.readyAt.1 = false ∨ (s.waitAddrs c).contains va.toNat = false → exec (.fabtmo core slot false va) s = .next s) ∧
    (c.pend.find? (fun q => decide (q.seq + 1 = c.issued) && !q.kind.isRemote && late q.issuedAt) = none →
      exec (.fabtmo core slot true va) s = .next s) ∧
    (∀ p, c.pend.find? (fun q => decide (q.seq + 1 = c.issued) && !q.kind.isRemote && late q.issuedAt) = some p → ∃ t c', exec (.fabtmo core slot true va) s = .next t ∧
      t.crews.get? (crewKey core slot) = some c' ∧ TookTrap { c with pc := p.pc } c' p.pc 0x0F (BitVec.ofNat 64 ((p.accs.head?.map LaneAcc.va).getD 0)) ∧
      c'.pend = c.pend.filter (fun q => !(decide (q.seq + 1 = c.issued) && !q.kind.isRemote)))) ∧
  (∀ (s : State) (core slot : Nat) (c : Crew), s.crews.get? (crewKey core slot) = some c →
    let others := (s.core core).activeSet.filter (fun n => decide (n / 16 ≠ slot / 16))
    let set := (s.core core).activeSet.filter (fun n => decide (n / 16 = slot / 16) && s.isReady (crewKey core n))
    s.isReady (crewKey core slot) = true → slot ∉ set →
    (set.length < 4 →
      (∀ n, n / 16 = slot / 16 → n ≠ slot → n ∉ set → s.isReady (crewKey core n) = true → s.goesBefore core slot n = true) →
      ∃ t, exec (.activeSetSwap core slot) s = .next t ∧ t.crews = s.crews ∧ t.mem = s.mem ∧
        (t.core core).activeSet = others ++ (set ++ [slot])) ∧
    (4 ≤ set.length → (s.clock - c.readyAt.1) * 27 < 2560 → (s.issueTime (crewKey core slot)).2 - c.readyAt.2 < 256 →
      exec (.activeSetSwap core slot) s = .next s) ∧
    (∀ m ms, set = m :: ms → 4 ≤ set.length →
      2560 ≤ (s.clock - c.readyAt.1) * 27 ∨ 256 ≤ (s.issueTime (crewKey core slot)).2 - c.readyAt.2 →
      ∃ t, exec (.activeSetSwap core slot) s = .next t ∧ t.mem = s.mem ∧ (t.core core).activeSet = others ++ (ms ++ [slot]) ∧
        (∀ k, k ≠ crewKey core m → t.crews.get? k = s.crews.get? k) ∧
        ∀ q, s.crews.get? (crewKey core m) = some q → ∃ q' : Crew, t.crews.get? (crewKey core m) = some q' ∧
          q'.readyAt = s.issueTime (crewKey core slot) ∧ q'.cache = [] ∧ q'.pc = q.pc ∧ q'.sreg = q.sreg ∧ q'.vreg = q.vreg))

/-- A register write sets its register and no other. A BAR2 access reads or writes staging bytes inside the function's
BAR. The doorbell sets LQTAIL, or records in LQERR that the queue is not set up or overrun. An entry that can be taken
becomes a queued task with its number in LQLAST; a bad one is skipped with LQERR; of a function that is not current, or
for a die whose foreman is being updated, it waits. CREATE, UPDATE and DESTROY make,
rewrite and remove a context of the function, or answer the error in CXSTAT. The oldest control record enters the ring
while it has room. RELEASE, FREEZE, READ and INFO act on capsules. FSLICE makes the next function with work current;
while a crew of the outgoing one cannot be saved, none of them issues.
That these complete within their event, which error comes first, and that a trigger after a device-fatal seal starts
nothing are the model's choices (logs 107, 108, 118). -/
def Obligations.HostRegistersQueuesAndContexts : Prop :=
  (∀ (s : State) (fn off x : Nat), fn ≤ s.vfs →
    let e := Instr.registerWrite fn off x
    let f := s.func fn
    let w := x % 2 ^ 32
    let sets (g : Func) : Prop := ∃ t, exec e s = .next t ∧ t.func fn = g ∧ (∀ n, n ≠ fn → t.func n = s.func n) ∧ t.mem = s.mem ∧
      t.crews = s.crews ∧ t.ctxs = s.ctxs ∧ t.service = s.service
    (off = 0x010 → sets { f with lqbase := w }) ∧ (off = 0x014 → sets { f with lqlog2 := w % 16 }) ∧
    (off = 0x020 → sets { f with lqerr := if w.testBit 31 then f.lqerr % 2 ^ 31 else f.lqerr }) ∧
    (off = 0x028 → sets { f with lqctx := w % 2 ^ 16 }) ∧ (off = 0x034 → sets { f with cmhead := w }) ∧
    (off = 0x108 → sets { f with capoff := x % 2 ^ 64 }) ∧ (off = 0x110 → sets { f with caplen := w }) ∧
    (off = 0x114 → sets { f with capdst := w }) ∧ (off = 0x204 → sets { f with cxoff := w }) ∧
    (off = 0x10008 → fn = 0 → ∃ t, exec e s = .next t ∧ t.service.svcarg = x % 2 ^ 64 ∧ t.funcs = s.funcs) ∧
    (off = 0x10008 → fn ≠ 0 → sets f) ∧
    (off ∉ [0x010, 0x014, 0x020, 0x028, 0x034, 0x108, 0x110, 0x114, 0x204, 0x10008] → sets f)) ∧
  (∀ (s : State) (fn off n x : Nat), (∀ a, s.poc a = a) →
    let base := s.service.stageBase + (if fn = 0 then 0 else (fn - 1) * 2 ^ 24) + off
    let size := if fn = 0 then 2 ^ 28 else 2 ^ 24
    (fn ≤ s.vfs → off + n ≤ size →
      (∃ t, exec (.hostBar2Access fn off n true x) s = .next t ∧ t.bytes base n = x % 2 ^ (8 * n) ∧ t.crews = s.crews ∧
        (∀ a, a < base ∨ base + n ≤ a → t.byte a = s.byte a)) ∧
      (∃ t, exec (.hostBar2Access fn off n false x) s = .next t ∧ (t.func fn).readback = s.bytes base n ∧ t.mem = s.mem ∧
        t.crews = s.crews)) ∧
    (∀ b, s.vfs < fn ∨ size < off + n → exec (.hostBar2Access fn off n b x) s = .next s)) ∧
  (∀ (s : State) (fn u : Nat), fn ≤ s.vfs →
    let f := s.func fn
    let n := (u % 2 ^ 32 + 2 ^ 32 - f.lqhead) % 2 ^ 32
    let errs (reason : Nat) : Prop := ∃ t, exec (.lqtailDoorbell fn u) s = .next t ∧ (t.func fn).lqtail = f.lqtail ∧ t.tasks = s.tasks ∧
      (f.lqerr.testBit 31 = true → t.func fn = f) ∧
      (f.lqerr.testBit 31 = false → (t.func fn).lqerr = 2 ^ 31 + reason * 2 ^ 28 + u % 2 ^ 32 % 2 ^ 12 ∧ (t.func fn).irqs = 1 :: f.irqs)
    (f.lqlog2 = 0 → errs 3) ∧ (f.lqlog2 ≠ 0 → 2 ^ f.lqlog2 < n → errs 2) ∧
    (f.lqlog2 ≠ 0 → n ≤ 2 ^ f.lqlog2 → ∃ t, exec (.lqtailDoorbell fn u) s = .next t ∧ (t.func fn).lqtail = u % 2 ^ 32 ∧
      t.crews = s.crews ∧ t.mem = s.mem)) ∧
  (∀ (s : State) (fn : Nat), fn ≤ s.vfs →
    let f := s.func fn
    let pa := s.barBase fn + f.lqbase + 128 * (f.lqhead % 2 ^ f.lqlog2)
    let h := s.physBytes pa 128
    let bad := s.poisoned (s.poc pa) 128
    let illegal := hdrMalformed h = true ∨ (s.ctxs.get? f.lqctx).map Ctx.owner ≠ some fn ∨ barSize fn < f.lqbase + 128 * 2 ^ f.lqlog2
    (fn ≠ s.current → exec (.launchQueueEntry fn) s = .next s) ∧
    (f.lqlog2 ≠ 0 → f.lqhead ≠ f.lqtail → fn = s.current →
      (∀ reason, (bad = true ∧ reason = 4) ∨ (bad = false ∧ illegal ∧ reason = 1) → ∃ t, exec (.launchQueueEntry fn) s = .next t ∧
        (t.func fn).lqhead = (f.lqhead + 1) % 2 ^ 32 ∧ t.tasks = s.tasks ∧ t.mem = s.mem ∧
        (f.lqerr.testBit 31 = false → (t.func fn).lqerr = 2 ^ 31 + reason * 2 ^ 28 + f.lqhead % 2 ^ 12)) ∧
      (bad = false → ¬ illegal → s.launchDie = none ∨ (∃ d, s.launchDie = some d ∧ s.updating d = true) →
        exec (.launchQueueEntry fn) s = .next s) ∧
      (∀ d, bad = false → ¬ illegal → s.launchDie = some d → s.updating d = false → (∃ n, n < 2 ^ 16 ∧ s.tasks.get? n = none) →
        ∃ t n k, exec (.launchQueueEntry fn) s = .next t ∧ s.tasks.get? n = none ∧ t.tasks.get? n = some k ∧ k.header = h ∧
          k.ctx = f.lqctx ∧ k.queued = true ∧ (t.die d).launchQ = (s.die d).launchQ ++ [n] ∧ (t.func fn).lqlast = n ∧
          (t.func fn).lqhead = (f.lqhead + 1) % 2 ^ 32 ∧ t.mem = s.mem ∧ t.crews = s.crews))) ∧
  (∀ (s : State) (fn r : Nat) (rest : List Nat), (s.func fn).outbox = r :: rest →
    let f := s.func fn
    ((f.cmtail + 2 ^ 32 - f.cmhead) % 2 ^ 32 = 64 → exec (.controlRecordPost fn) s = .next s) ∧
    ((f.cmtail + 2 ^ 32 - f.cmhead) % 2 ^ 32 ≠ 64 → ∃ t, exec (.controlRecordPost fn) s = .next t ∧ (t.func fn).outbox = rest ∧
      (t.func fn).ring.get? (f.cmtail % 64) = some r ∧ (t.func fn).cmtail = (f.cmtail + 1) % 2 ^ 32 ∧ (t.func fn).irqs = 0 :: f.irqs)) ∧
  (∀ (s : State) (fn w : Nat), fn ≤ s.vfs →
    let ends (i : Instr) (x : Nat) (P : State → Prop) : Prop := ∃ t, exec i s = .next t ∧ (t.func fn).cxstat = x ∧
      (t.func fn).irqs.head? = some 4 ∧ P t
    let own := w / 2 ^ 16 % 2 ^ 16
    (s.descriptor fn = none → ends (.create fn w) (2 ^ 28) (fun t => t.ctxs = s.ctxs)) ∧
    (∀ x, s.descriptor fn = some x →
      (descriptorBad x = true ∨ w ≠ 1 → ends (.create fn w) (2 ^ 28) (fun t => t.ctxs = s.ctxs)) ∧
      (∀ n, descriptorBad x = false → w = 1 → fld x 36 4 < 2 ^ 12 → (fn = 0 → 0x011 ≤ fld x 36 4) →
        (s.ctxs.filter (fun e => decide (e.2.owner = fn))).length < 256 → s.ctxs.lowestFree 4096 = some n →
        ends (.create fn w) n (fun t => (∀ m, m ≠ n → t.ctxs.get? m = s.ctxs.get? m) ∧ t.mem = s.mem ∧ ∃ c, t.ctxs.get? n = some c ∧
          c.owner = fn ∧ c.level = fld x 0 1 ∧ c.level ≤ 1 ∧ c.ptroot = BitVec.ofNat 64 (fld x 8 8) ∧
          c.vaultbase = BitVec.ofNat 64 (fld x 16 8) ∧ c.poolbase = BitVec.ofNat 64 (fld x 24 8) ∧
          c.tenant = BitVec.ofNat 32 (if fn = 0 then fld x 36 4 else fn) ∧ c.dbgctl = 0 ∧ c.migq = BitVec.ofNat 64 (fld x 40 8))) ∧
      (∀ c, w % 2 ^ 16 = 2 → s.ctxs.get? own = some c → c.owner = fn → descriptorBad x = false → fld x 0 1 = c.level →
        ends (.update fn w) own (fun t => (∀ m, m ≠ own → t.ctxs.get? m = s.ctxs.get? m) ∧ ∃ c', t.ctxs.get? own = some c' ∧
          c'.owner = fn ∧ c'.level = c.level ∧ c'.tenant = c.tenant ∧ c'.ptroot = BitVec.ofNat 64 (fld x 8 8) ∧
          c'.vaultbase = BitVec.ofNat 64 (fld x 16 8) ∧ c'.poolbase = BitVec.ofNat 64 (fld x 24 8) ∧ c'.dbgctl = c.dbgctl))) ∧
    (∀ i k, (i, k) ∈ [(Instr.update fn w, 2), (.destroy fn w, 3)] →
      (w % 2 ^ 16 ≠ k → ends i (2 ^ 28) (fun t => t.ctxs = s.ctxs)) ∧
      (w % 2 ^ 16 = k → (∀ c, s.ctxs.get? own = some c → c.owner ≠ fn) → ends i (2 * 2 ^ 28) (fun t => t.ctxs = s.ctxs))) ∧
    (∀ c, w % 2 ^ 16 = 3 → s.ctxs.get? own = some c → c.owner = fn → ends (.destroy fn w) own (fun t => t.ctxs.get? own = none ∧
      (∀ m k, t.tasks.get? m = some k → k.ctx ≠ own) ∧ ∀ h r, t.rafts.get? h = some r → r.ctx ≠ own))) ∧
  (∀ (s : State) (fn w : Nat), fn ≤ s.vfs →
    let f := s.func fn
    let ends (i : Instr) (x : Nat) (P : State → Prop) : Prop := ∃ t, exec i s = .next t ∧ (t.func fn).capstat = x * 2 ^ 28 ∧
      (t.func fn).irqs = 2 :: f.irqs ∧ t.crews = s.crews ∧ P t
    let n := w / 2 ^ 4 % 4
    (w % 16 = 2 → (fn ≠ 0 → ends (.release fn w) 2 (fun t => t.capsules = s.capsules)) ∧
      (fn = 0 → 2 ≤ n ∨ s.capsules.get? n = none → ends (.release fn w) 1 (fun t => t.capsules = s.capsules)) ∧
      (fn = 0 → n < 2 → (s.capsules.get? n).isSome = true → ends (.release fn w) 0 (fun t => t.capsules.get? n = none ∧
        ∀ m, m ≠ n → t.capsules.get? m = s.capsules.get? m))) ∧
    (w % 16 = 3 → ends (.freeze fn w) 0 (fun t => (s.freeze = none → s.service.fatal = false → ∃ g, t.freeze = some g ∧ g.cause = 0x84 ∧ g.stay = false) ∧
      t.mem = s.mem)) ∧
    (∀ i off len, (i, off, len) ∈ [(Instr.read fn w, f.capoff, f.caplen), (.info fn w, 0, 64)] →
      (i = .read fn w → w % 16 = 1) → (i = .info fn w → w % 16 = 4) →
      (s.viewOf fn w = none → ends i 2 (fun t => t.mem = s.mem)) ∧
      (∀ v, s.viewOf fn w = some v → (s.capsules.get? n = none → ends i 1 (fun t => t.mem = s.mem)) ∧
        (∀ c, s.capsules.get? n = some c → let bs := c.bytes v (decide (n = 2))
          (len = 0 ∨ 2 ^ 24 < len ∨ bs.length < off + len ∨ barSize fn < f.capdst + len → ends i 3 (fun t => t.mem = s.mem)) ∧
          (len ≠ 0 → len ≤ 2 ^ 24 → off + len ≤ bs.length → f.capdst + len ≤ barSize fn → (∀ a, s.poc a = a) → ends i 0 (fun t =>
            (∀ k, k < len → t.byte (s.barBase fn + f.capdst + k) = BitVec.ofNat 8 (bs.getD (off + k) 0)) ∧
            (∀ a, a < s.barBase fn + f.capdst ∨ s.barBase fn + f.capdst + len ≤ a → t.byte a = s.byte a)))))) ) ∧
  (∀ (s : State) (n : Nat), s.nextFunction = some n →
    (s.hasWork s.current = true → s.clock < s.sliceStart + s.params.fslice → exec .fslice s = .next s) ∧
    (s.hasWork s.current = false ∨ s.sliceStart + s.params.fslice ≤ s.clock → s.regions = [] → (s.crews.map Prod.fst).Nodup →
      (∃ e ∈ s.crews, (s.ctx e.2.ctx).owner = s.current ∧ s.canSave e.1 = false) → ∃ t, exec .fslice s = .next t ∧ t.current = s.current ∧
        t.crews = s.crews ∧ t.mem = s.mem ∧
        ∀ k c, s.crews.get? k = some c → (s.ctx c.ctx).owner = s.current → t.mayIssue k = false) ∧
    (s.hasWork s.current = false ∨ s.sliceStart + s.params.fslice ≤ s.clock → s.regions = [] → (s.crews.map Prod.fst).Nodup → (∀ n, (s.core n).tileOps = []) →
      (∀ e ∈ s.crews, (s.ctx e.2.ctx).owner = s.current → s.canSave e.1 = true) → ∃ t, exec .fslice s = .next t ∧ t.current = n ∧
        t.sliceStart = s.clock ∧ ∀ k c, s.crews.get? k = some c →
          if (s.ctx c.ctx).owner = s.current then t.crews.get? k = none else t.crews.get? k = some c))

/-- Action `a` is over: it no longer runs, SVCSTAT has its result and detail with the busy bit of the others, and the PF's kind 5 record
is in its outbox (R444, R451). -/
def ActionEnds (s t : State) (a : Action) (result detail : Nat) : Prop :=
  t.service.actions = s.service.actions.filter (fun b => decide (b ≠ a)) ∧
  t.service.svcstat = detail + result * 2 ^ 28 + (if t.service.actions = [] then 0 else 2 ^ 31) ∧
  (t.func 0).outbox = (s.func 0).outbox ++
    [layout [(2, 5), (6, 0), (8, (s.func 0).seq + 1), (32, layout [(4, a.cmd), (4, t.service.svcstat)])]]

/-- A cold reset keeps the flash, the key store and the flash capsule alone, stops without an identity record, and
with every image accepted measures them all, makes the foreman's level-2 context and is ready (its number, log 76); a
warm reset keeps CLOCK, capsules, rings and parameters too (what it keeps of state with no Reset column is the model's
choice, log 75). Each SPDM request is answered. A record is replaced unless it is unsigned or too old. A command that
cannot act is refused; the others start, and end with SVCSTAT and a kind 5 record: firmware measured or rejected,
cores and dies off, once nothing is left on them, no access to them is outstanding and no page of theirs is mapped, and
on with the live sets and CAPGEN changed, a stack or a port retrained, free pages added. -/
def Obligations.BootAttestationAndServiceAct : Prop :=
  (∀ (s : State) (images : List (Nat × Nat × Nat × Bool)) (bad : List Nat),
    let id := s.service.flash.get? 0
    let inForce (v x : Nat) : Prop := id = some (v, x) ∧ 0 ∉ bad ∧ s.service.keystore.getD 0 0 ≤ v
    ((∀ v x, ¬ inForce v x) → ∃ t, exec (.coldReset images bad) s = .next t ∧ t.service.fatal = true ∧ t.service.ready = false ∧
      t.crews = [] ∧ t.mem = [] ∧ t.tasks = [] ∧ t.clock = 0 ∧ t.service.flash = s.service.flash) ∧
    (∀ v x, inForce v x → (∀ e ∈ images, e.2.2.2 = true) → ∃ t, exec (.coldReset images bad) s = .next t ∧ t.service.ready = true ∧
      t.service.stage = 3 ∧ t.service.log.length = images.length ∧ t.devnum = x % 2 ^ 22 ∧ t.crews = [] ∧ t.mem = [] ∧ t.tasks = [] ∧
      (∀ n, n ≠ 4095 → t.ctxs.get? n = State.reset.ctxs.get? n) ∧ (t.ctxs.get? 4095).map Ctx.level = some 2 ∧ t.cores = State.reset.cores ∧ t.rings = [] ∧ t.clock = 0 ∧ t.service.flash = s.service.flash ∧
      t.service.keystore = s.service.keystore ∧ t.capsules.get? 2 = s.capsules.get? 2 ∧ t.capsules.get? 0 = none ∧
      t.capsules.get? 1 = none) ∧
    ((∀ e ∈ images, e.2.2.2 = true) → (s.cores.map Prod.fst).Nodup → ∃ t, exec (.warmReset images) s = .next t ∧ t.service.ready = true ∧
      t.service.stage = 3 ∧ t.service.log.length = images.length ∧ t.clock = s.clock ∧ t.crews = [] ∧ t.mem = [] ∧ t.tasks = [] ∧
      t.capsules = s.capsules ∧ t.params = s.params ∧ t.wdticks = s.wdticks ∧ t.vfs = s.vfs ∧ (t.ctxs.get? 4095).map Ctx.level = some 2 ∧ t.devnum = s.devnum ∧ t.service.flash = s.service.flash ∧
      (∀ n, (t.ring n).events = (s.ring n).events ∧ (t.ring n).frozen = none) ∧
      ∀ n, (t.core n).version = (s.core n).version ∧ (t.core n).killdrop = (s.core n).killdrop ∧ (t.core n).jobs = [] ∧ (t.core n).l1 = [])) ∧
  (∀ (s : State) (fn off len nonce block q : Nat) (i : Instr) (fields : List Nat),
    let chain := Config.certChain
    let digest := sha512 chain
    (i, q, fields) ∈ [(Instr.getVersion fn, 0, [0x12]), (.getCapabilities fn, 1, [1, 1, 1, 0, 0, 0]), (.negotiateAlgorithms fn, 2, [4096, 512]),
      (.getDigests fn, 3, [digest]), (.getCertificate fn off len, 4, (chain.drop off).take len),
      (.challenge fn nonce, 5, [nonce, digest, s.service.mr,
        Config.sign (bytesOf 32 nonce ++ bytesOf 64 digest ++ bytesOf 64 s.service.mr)]),
      (.getMeasurements fn block, 6, s.service.block block)] →
    (fn ≤ s.vfs → exec i s = .next { s with spdm := s.spdm ++ [⟨fn, q, fields⟩] }) ∧ (s.vfs < fn → exec i s = .next s)) ∧
  (∀ (s : State) (n version value : Nat) (ok : Bool),
    (ok = false ∨ version < s.service.keystore.getD n 0 → exec (.configRecordReplace n version value ok) s = .next s) ∧
    (ok = true → s.service.keystore.getD n 0 ≤ version → ∃ t, exec (.configRecordReplace n version value ok) s = .next t ∧
      t.service.flash.get? n = some (version, value) ∧ t.service.keystore.get? n = some version ∧ t.mem = s.mem ∧ t.crews = s.crews ∧
      (∀ m, m ≠ n → t.service.flash.get? m = s.service.flash.get? m))) ∧
  (∀ (s : State) (x y op cmd : Nat) (ok : Bool) (i : Instr),
    let arg := s.service.svcarg
    (i, cmd, ok) ∈ [(Instr.foremanFirmwareUpdate 0 x y, 1, s.dieLive (arg % 8) &&
          decide (s.service.log.length + (s.service.actions.filter (fun a => decide (a.cmd = 1))).length < 4096)),
      (.coreOffline 0, 2, !arg.testBit 8 && s.coreLive (arg % 256) && decide (arg % 256 < 192)),
      (.coreOnline 0, 2, arg.testBit 8 && decide (arg % 256 < 192) && s.dieLive (dieOf (arg % 256))),
      (.dieOffline 0, 3, !arg.testBit 8 && s.dieLive (arg % 8)), (.dieOnline 0, 3, arg.testBit 8),
      (.retrainHbmStack op, 4, s.stackLive (arg % 16)), (.retrainPort 0, 5, decide (arg % 32 < 28)), (.addFreePages, 6, s.dieLive (arg % 8))] →
    let a : Action := ⟨cmd, arg⟩
    (s.canAct a = false ∨ ok = false → ∃ t, exec i s = .next t ∧ t.service.svcstat = 2 ^ 28 + (if s.service.actions = [] then 0 else 2 ^ 31) ∧
      t.service.actions = s.service.actions ∧ t.funcs = s.funcs ∧ t.crews = s.crews ∧ t.mem = s.mem) ∧
    (s.canAct a = true → ok = true → ∃ t, exec i s = .next t ∧ t.mem = s.mem ∧
      (i = .foremanFirmwareUpdate 0 x y ∨ i = .coreOffline 0 ∨ i = .dieOffline 0 →
        t.service.actions = s.service.actions ++ [a] ∧ t.service.svcstat = 2 ^ 31 ∧ t.crews = s.crews) ∧
      (i = .retrainPort 0 → t.service.actions = s.service.actions ++ [a] ∧ (s.portUsed (arg % 32) = false ∨ arg.testBit 63 = true →
        t.livePorts.testBit (arg % 32) = false)) ∧
      (i = .coreOnline 0 → ActionEnds s t a 0 0 ∧ t.liveCores.testBit (arg % 256) = true ∧
        t.service.capgen = (s.service.capgen + 2) % 2 ^ 32) ∧
      (i = .dieOnline 0 → ActionEnds s t a 0 0 ∧ t.liveDies.testBit (arg % 8) = true ∧
        (s.liveDies.testBit (arg % 8) = false → t.service.hashVersion = s.service.hashVersion + 1)) ∧
      (i = .retrainHbmStack op → ActionEnds s t a (if op = 0 then 0 else 2) 0) ∧
      (i = .addFreePages → arg / 2 ^ 8 % 2 ^ 16 = 0 → let off := arg / 2 ^ 24 % 2 ^ 32
        (off % 8 ≠ 0 ∨ 2 ^ 28 < off + 8 → ActionEnds s t a 2 0 ∧ t.dies = s.dies) ∧
        (off % 8 = 0 → off + 8 ≤ 2 ^ 28 → let base := s.physBytes (s.service.stageBase + off) 8
          (s.pageGood (arg % 8) base = true → ActionEnds s t a 0 0 ∧
            (t.die (arg % 8)).freePages = insertPage base (s.die (arg % 8)).freePages) ∧
          (s.pageGood (arg % 8) base = false → ActionEnds s t a 0 1 ∧ (t.die (arg % 8)).freePages = (s.die (arg % 8)).freePages))))) ∧
  (∀ (s : State) (size version : Nat) (a : Action),
    let digest := sha512 (bytesOf size (s.physBytes (s.service.stageBase + a.arg / 2 ^ 8 % 2 ^ 40) size))
    (s.running 1 (fun _ => true) = some a → ∀ op, op = 2 ∨ op = 3 → ∃ t, exec (.foremanFirmwareUpdate op size version) s = .next t ∧
      ActionEnds s t a (if op = 2 then 0 else 2) 0 ∧ t.service.log.length = s.service.log.length + 1 ∧
      t.service.mr = sha512 (bytesOf 64 s.service.mr ++ bytesOf 64 digest) ∧
      (op = 2 → t.service.fw.get? (0x10 + a.arg % 8) = some version) ∧ (op = 3 → t.service.fw = s.service.fw)) ∧
    (s.running 2 (fun x => !x.testBit 8) = some a → s.coresEmpty (fun c => decide (c = a.arg % 256)) = true →
      s.untouched (inPool (a.arg % 256)) = true → ∃ t, exec (.coreOffline 2) s = .next t ∧ ActionEnds s t a 0 0 ∧ t.liveCores.testBit (a.arg % 256) = false ∧
        t.service.capgen = (s.service.capgen + 2) % 2 ^ 32) ∧
    (s.running 3 (fun x => !x.testBit 8) = some a → s.coresEmpty (fun c => decide (dieOf c = a.arg % 8)) = true →
      s.untouched (onDie (a.arg % 8)) = true → s.dieUnmapped (a.arg % 8) = true → (∀ m ∈ s.migrations, m.new / 2 ^ 37 ≠ a.arg % 8) →
      ∃ t, exec (.dieOffline 2) s = .next t ∧ ActionEnds s t a 0 0 ∧ t.liveDies.testBit (a.arg % 8) = false ∧
        (s.liveDies.testBit (a.arg % 8) = true → t.service.hashVersion = s.service.hashVersion + 1)) ∧
    (s.running 5 (fun _ => true) = some a → s.livePorts.testBit (a.arg % 32) = false →
      (∃ t, exec (.retrainPort 2) s = .next t ∧ ActionEnds s t a 0 0 ∧ t.livePorts.testBit (a.arg % 32) = true ∧
        t.retrain.get? (a.arg % 32) = none) ∧
      (∃ t, exec (.retrainPort 3) s = .next t ∧ ActionEnds s t a 2 0 ∧ t.livePorts = s.livePorts)))

/-- Width in bits and signedness of the integer types of MODE.type (Table 4.1). -/
def intType (ty : Nat) : Option (Nat × Bool) :=
  match ty with
  | 0 => some (32, true)
  | 1 => some (32, false)
  | 3 => some (16, true)
  | 4 => some (16, false)
  | 7 => some (8, true)
  | 8 => some (8, false)
  | 12 => some (64, true)
  | 13 => some (64, false)
  | _ => none

/-- Width in bits of an element of MODE.type (Table 4.1). -/
def typeWidth (ty : Nat) : Option Nat :=
  if ty ∈ [0, 1, 2] then some 32 else if ty ∈ [3, 4, 5, 6] then some 16 else if ty ∈ [7, 8, 9, 10] then some 8
  else if ty = 11 then some 4 else if ty ∈ [12, 13] then some 64 else none

/-- The format of the float types of MODE.type (Table 4.1). -/
def floatType (ty : Nat) : Option Fmt :=
  match ty with
  | 2 => some .binary32
  | 5 => some .binary16
  | 6 => some .bf16
  | 9 => some .e4m3
  | 10 => some .e5m2
  | 11 => some .e2m1
  | _ => none

/-- The operand at v[a] in lane `l`: one register, or the pair for w = 64 (R83). -/
def wholeBits (c : Crew) (w a l : Nat) : Nat := (c.getV a l).toNat + if w = 64 then (c.getV (a + 1) l).toNat * 2 ^ 32 else 0

/-- Element `k` of `w` bits of the operand at v[a] in lane `l` (R83). -/
def elemBits (c : Crew) (w a l k : Nat) : Nat := wholeBits c w a l / 2 ^ (w * k) % 2 ^ w

/-- A `w`-bit element as an integer. -/
def elemInt (w : Nat) (signed : Bool) (x : Nat) : Int := if signed && decide (2 ^ (w - 1) ≤ x) then (x : Int) - 2 ^ w else x

/-- An exact integer written to a `w`-bit element (R108): the low bits, or with MODE.sat the nearest value of the type. -/
def writtenInt (w : Nat) (signed sat : Bool) (v : Int) : Nat :=
  let lo : Int := if signed then -(2 ^ (w - 1)) else 0
  let hi : Int := if signed then 2 ^ (w - 1) - 1 else 2 ^ w - 1
  ((if sat then max lo (min hi v) else v) % 2 ^ w).toNat

/-- The integer instructions of two sources, with what they write of elements x and y: the exact integer, and whether it saturates by
MODE.sat (R111, R112, R114, R116). -/
def intFunctions (d a b : BitVec 8) (w : Nat) : List (Instr × Bool × (Int → Int → Int)) :=
  [(.add d a b, true, fun x y => x + y), (.sub d a b, true, fun x y => x - y), (.mul d a b, true, fun x y => x * y),
    (.mulhi d a b, false, fun x y => x * y / 2 ^ w), (.min d a b, true, min), (.max d a b, true, max),
    (.absdiff d a b, true, fun x y => max (x - y) (y - x)),
    (.div d a b, true, fun x y => if y = 0 then 0 else x.tdiv y), (.rem d a b, false, fun x y => if y = 0 then x else x - x.tdiv y * y)]

/-- Where its crew issues it the instruction completes, and changes nothing but vector registers: in each active lane `P` holds of the operand
of `w`-bit elements at v[d], and every other register and lane keeps its bits. -/
def WritesLanes (s : State) (c : Crew) (i : Instr) (d w : Nat) (P : Crew → Nat → Prop) : Prop :=
  Issues s c i = true → Completes s c i (fun t c' => Still s t ∧ c'.rest = c.rest ∧ c'.sreg = c.sreg ∧ ModesKept c c' ∧
    (∀ l, l < 64 → c.active.getLsbD l = true → P c' l) ∧
    (∀ q l, l < 64 → c.active.getLsbD l = false ∨ (q ≠ d ∧ (w = 64 → q ≠ d + 1)) → c'.getV q l = c.getV q l))

/-- One element converted from MODE.type to MODE.ctype (R97): an integer written as a sum is, or the source value rounded once. -/
def convertedBits (ty ct : Nat) (r : Rnd) (x : Nat) : Option Nat :=
  match intType ty, floatType ty, intType ct, floatType ct with
  | some (w, sg), _, some (wc, sc), _ => some (writtenInt wc sc r.sat (elemInt w sg x))
  | some (w, sg), _, _, some f => some (rndFloat f r (Val.ofInt (elemInt w sg x)))
  | _, some f, some (wc, sc), _ => some (rndInt ⟨sc, wc⟩ r (f.read r.ftz x))
  | _, some f, _, some g => some (rndFloat g r (f.read r.ftz x))
  | _, _, _, _ => none

/-- The conversions write each element of the result from its source element, rounded once to MODE.ctype (R97, R99 to R102), where MODE.rnd is not
code 5. -/
def ConversionsRound (s : State) (c : Crew) (d a b : BitVec 8) : Prop :=
  let ty := modeType c.mode
  let ct := modeCtype c.mode
  let r : Rnd := ⟨modeRnd c.mode, c.mode.getLsbD 15, c.modex.getLsbD 0, 0⟩
  ∀ w wc, typeWidth ty = some w → typeWidth ct = some wc → modeRnd c.mode ≠ 5 →
    let n := if w = 64 then 1 else 32 / w
    let nc := if wc = 64 then 1 else 32 / wc
    let from_ (i : Instr) (src : Nat → Nat → Nat) : Prop := WritesLanes s c i d.toNat wc (fun c' l =>
      ∀ j, j < nc → some (elemBits c' wc d.toNat l j) = convertedBits ty ct r (src l j))
    from_ (.cvt d a) (fun l j => elemBits c w a.toNat l j) ∧
    from_ (.cvtp d a b) (fun l j => elemBits c w (if j < n then a.toNat else b.toNat) l (j % n)) ∧
    from_ (.cvtq d a) (fun l j => elemBits c w (a.toNat + j / n) l (j % n)) ∧
    from_ (.unpklo d a) (fun l j => elemBits c w a.toNat l j) ∧
    from_ (.unpkhi d a) (fun l j => elemBits c w a.toNat l (nc + j)) ∧
    WritesLanes s c (.cvtsc d a b) d.toNat wc (fun c' l => ∀ j, j < nc →
      let y := (Fmt.binary32.read r.ftz (c.getV (a.toNat + j) l).toNat).mul (Fmt.binary32.read r.ftz (c.getS b.toNat).toNat)
      (∀ f, floatType ct = some f → elemBits c' wc d.toNat l j = rndFloat f r y) ∧
      (∀ wi sg, intType ct = some (wi, sg) → elemBits c' wc d.toNat l j = rndInt ⟨sg, wi⟩ r y))

/-- The generator of lane `l` after SEED of `x` (R96). -/
def seeded (x : Word) (l : Nat) : Word :=
  let x := x + BitVec.ofNat 32 l * 0x9E3779B9
  let x := (x ^^^ (x >>> 16)) * 0x85EBCA6B
  let x := (x ^^^ (x >>> 13)) * 0xC2B2AE35
  let x := x ^^^ (x >>> 16)
  if x = 0 then 1 else x

/-- SEED sets the generators of the active lanes, LANEID and WIDRD write lane numbers and WIDs, MTSC sets the scale latches (R96, R139, R355, R251). -/
def SeedsAndNumbers (s : State) (c : Crew) (d a b : BitVec 8) : Prop :=
  (∀ i x, (i, x) ∈ [(Instr.seedUniform a, fun _ : Nat => c.getS a.toNat), (.seedPerLane a, fun l => c.getV a.toNat l)] →
    Issues s c i = true → Completes s c i (fun t c' => Still s t ∧ c'.rest = c.rest ∧ c'.sreg = c.sreg ∧ c'.vreg = c.vreg ∧
      c'.mode = c.mode ∧ c'.modex = c.modex ∧ c'.preds = c.preds ∧ c'.bars = c.bars ∧
      ∀ l, l < 64 → c'.gen l = if c.active.getLsbD l then seeded (x l) l else c.gen l)) ∧
  WritesLanes s c (.laneid d) d.toNat 32 (fun c' l => (c'.getV d.toNat l).toNat = l) ∧
  WritesLanes s c (.widrd d) d.toNat 64 (fun c' l => wholeBits c' 64 d.toNat l = (c.widbase.toNat + l) % 2 ^ 64) ∧
  (Issues s c (.mtsc a b) = true → Completes s c (.mtsc a b) (fun t c' => Still s t ∧ c'.tsa = c.getS a.toNat ∧ c'.tsb = c.getS b.toNat ∧
    { c' with tsa := c.tsa, tsb := c.tsb }.rest = c.rest ∧ c'.sreg = c.sreg ∧ c'.vreg = c.vreg ∧ ModesKept c c'))

/-- AND to BREV work on bits (R134 to R137): the logic on whole operands, the shifts by the count modulo the width and the bit counts on each
element, BFX and BFI on the field that v[b] gives. -/
def BitsAreManipulated (s : State) (c : Crew) (d a b : BitVec 8) : Prop :=
  let ty := modeType c.mode
  ∀ w, typeWidth ty = some w →
    let full := max 32 w
    let x (q : BitVec 8) (l : Nat) : Nat := wholeBits c w q.toNat l
    let bits (i : Instr) (f : Nat → Nat) : Prop := WritesLanes s c i d.toNat w (fun c' l => wholeBits c' w d.toNat l = f l)
    let e (q : BitVec 8) (l k : Nat) : Nat := elemBits c w q.toNat l k
    let elems (i : Instr) (P : Nat → Nat → Nat → Prop) : Prop := WritesLanes s c i d.toNat w (fun c' l =>
      ∀ k, w * k < full → P l k (elemBits c' w d.toNat l k))
    let field (l : Nat) : Nat × Nat := ((c.getV b.toNat l).toNat % 256, min ((c.getV b.toNat l).toNat / 256 % 256) (full - (c.getV b.toNat l).toNat % 256))
    bits (.and d a b) (fun l => x a l &&& x b l) ∧ bits (.or d a b) (fun l => x a l ||| x b l) ∧
    bits (.xor d a b) (fun l => x a l ^^^ x b l) ∧ bits (.not d a) (fun l => 2 ^ full - 1 - x a l) ∧
    elems (.shl d a b) (fun l k y => y = e a l k * 2 ^ (e b l k % w) % 2 ^ w) ∧
    elems (.shr d a b) (fun l k y => y = e a l k / 2 ^ (e b l k % w)) ∧
    elems (.sra d a b) (fun l k y => elemInt w true y = elemInt w true (e a l k) / 2 ^ (e b l k % w)) ∧
    elems (.rotl d a b) (fun l k y => ∀ j, j < w → y.testBit j = (e a l k).testBit ((j + w - e b l k % w) % w)) ∧
    elems (.popc d a) (fun l k y => y = ((List.range w).filter (fun j => (e a l k).testBit j)).length % 2 ^ w) ∧
    elems (.clz d a) (fun l k y => y ≤ w ∧ (∀ j, w - y ≤ j → j < w → (e a l k).testBit j = false) ∧
      (y < w → (e a l k).testBit (w - 1 - y) = true)) ∧
    elems (.brev d a) (fun l k y => ∀ j, j < w → y.testBit j = (e a l k).testBit (w - 1 - j)) ∧
    bits (.bfx d a b) (fun l =>
      let n := (field l).2
      let f := x a l / 2 ^ (field l).1 % 2 ^ n
      if (ty = 0 ∨ ty = 12) ∧ 0 < n ∧ f.testBit (n - 1) = true then f + 2 ^ full - 2 ^ n else f) ∧
    WritesLanes s c (.bfi d a b) d.toNat w (fun c' l => ∀ j, j < full → (wholeBits c' w d.toNat l).testBit j =
      if (field l).1 ≤ j ∧ j < (field l).1 + (field l).2 then (x a l).testBit (j - (field l).1) else (x d l).testBit j)

/-- SHUF to BCAST move operands between lanes and VGET and VSET to and from scalars, a source lane whether it is active or not (R130, R138, R140,
R141); BALLOT collects a bit of each active lane. -/
def LanesExchange (s : State) (c : Crew) (d a b : BitVec 8) : Prop :=
  (Issues s c (.ballot d a b) = true → Completes s c (.ballot d a b) (fun t c' => Still s t ∧ c'.rest = c.rest ∧ c'.vreg = c.vreg ∧
    ModesKept c c' ∧ RegsKept c c' (.ballot d a b) ∧
    ∀ l, l < 64 → (c'.getSS d.toNat).getLsbD l = (c.active.getLsbD l && (c.getV a.toNat l).getLsbD b.toNat))) ∧
  ∀ w, typeWidth (modeType c.mode) = some w →
    let x (l : Nat) : Nat := wholeBits c w a.toNat l
    let bits (i : Instr) (f : Nat → Nat) : Prop := WritesLanes s c i d.toNat w (fun c' l => wholeBits c' w d.toNat l = f l)
    bits (.shuf d a b) (fun l => x ((c.getV b.toNat l).toNat % 64)) ∧ bits (.shufx d a b) (fun l => x (l ^^^ b.toNat)) ∧
    bits (.lrot d a b) (fun l => x ((l + b.toNat) % 64)) ∧ bits (.bcast d a b) (fun _ => x b.toNat) ∧
    (Issues s c (.vget d a b) = true → Completes s c (.vget d a b) (fun t c' => Still s t ∧ c'.rest = c.rest ∧ c'.vreg = c.vreg ∧
      ModesKept c c' ∧ RegsKept c c' (.vget d a b) ∧ c'.getS d.toNat = c.getV a.toNat b.toNat ∧
      (w = 64 → c'.getS (d.toNat + 1) = c.getV (a.toNat + 1) b.toNat))) ∧
    WritesLanes s c (.vset d a b) d.toNat w (fun c' l => wholeBits c' w d.toNat l =
      if l = b.toNat then (c.getS a.toNat).toNat + (if w = 64 then (c.getS (a.toNat + 1)).toNat * 2 ^ 32 else 0) else wholeBits c w d.toNat l)

/-- The reductions of the integer types and of f32 over the active lanes (R142, R143): the exact sum written once, the smallest and the largest;
with no lane active 0, the largest value of the type, and the smallest. -/
def LanesReduce (s : State) (c : Crew) (d a : BitVec 8) : Prop :=
  let ty := modeType c.mode
  let sat := c.mode.getLsbD 15
  let lanes := (List.range 64).filter (fun l => c.active.getLsbD l)
  let gives (i : Instr) (P : Crew → Prop) : Prop := Issues s c i = true → Completes s c i (fun t c' => Still s t ∧ c'.rest = c.rest ∧
    c'.vreg = c.vreg ∧ ModesKept c c' ∧ RegsKept c c' i ∧ P c')
  (∀ w signed, intType ty = some (w, signed) →
    let get (l k : Nat) : Int := elemInt w signed (elemBits c w a.toNat l k)
    let out (c' : Crew) (k : Nat) : Nat :=
      ((c'.getS d.toNat).toNat + if w = 64 then (c'.getS (d.toNat + 1)).toNat * 2 ^ 32 else 0) / 2 ^ (w * k) % 2 ^ w
    let best (i : Instr) (no : Int) (le : Int → Int → Prop) : Prop := gives i (fun c' => ∀ k, w * k < max 32 w →
      let y := elemInt w signed (out c' k)
      (lanes = [] → y = no) ∧ (lanes ≠ [] → (∃ l ∈ lanes, y = get l k) ∧ ∀ l ∈ lanes, le y (get l k)))
    gives (.redadd d a) (fun c' => ∀ k, w * k < max 32 w → out c' k = writtenInt w signed sat ((lanes.map (fun l => get l k)).sum)) ∧
    best (.redmin d a) (if signed then 2 ^ (w - 1) - 1 else 2 ^ w - 1) (fun x y => x ≤ y) ∧
    best (.redmax d a) (if signed then -(2 ^ (w - 1)) else 0) (fun x y => y ≤ x)) ∧
  (ty = 2 → modeRnd c.mode ≠ 5 →
    let x (l : Nat) : Val := Fmt.binary32.read (c.modex.getLsbD 0) (c.getV a.toNat l).toNat
    let r (code : Nat) : Rnd := ⟨code, false, c.modex.getLsbD 0, 0⟩
    gives (.redadd d a) (fun c' => c'.getS d.toNat = BitVec.ofNat 32 (rndFloat .binary32 (r (modeRnd c.mode))
      (if lanes = [] then .num false 0 1 else sumVals (decide (modeRnd c.mode = 2)) (lanes.map x)))) ∧
    gives (.redmin d a) (fun c' => c'.getS d.toNat = BitVec.ofNat 32 (rndFloat .binary32 (r 1)
      (if lanes = [] then .inf false else (lanes.map x).foldl Val.min .nan))) ∧
    gives (.redmax d a) (fun c' => c'.getS d.toNat = BitVec.ofNat 32 (rndFloat .binary32 (r 1)
      (if lanes = [] then .inf true else (lanes.map x).foldl Val.max .nan))))

/-- For every integer type ADD, SUB, MUL, MULHI, MIN, MAX, ABSDIFF, DIV, REM, ADDI, ABS and NEG write in each element of
each active lane the exact result, wrapped to the width or saturated; DIV by zero writes all ones. For f32 with a code
other than 5, ADD, SUB, MUL and FMA write the exact sum or product rounded once. CMPEQ to CMPLE set p[d] by the relation
of element 0, CMPUN of integers clears it. SEL chooses by the guard in the lanes of AM, MOV copies, MOVI and MOVHI write
their constant. Conversions write each element rounded once (with a code other than 5), SEED the hash of its seed, LANEID
the lane, WIDRD the WID and MTSC the latches; AND to BREV work on bits, BALLOT to VSET between lanes, and the integer and
f32 reductions over the active lanes (whose f32 sum takes no note of MODE.sat, log 60). Other lanes and registers keep
every bit. -/
def Obligations.LaneArithmeticFollowsItsTables : Prop :=
  ∀ (s : State) (c : Crew) (d a b : BitVec 8),
    let ty := modeType c.mode
    let sat := c.mode.getLsbD 15
    let on (l : Nat) : Prop := l < 64 ∧ c.active.getLsbD l = true
    (∀ w signed, intType ty = some (w, signed) →
      let get (c : Crew) (r : BitVec 8) (l k : Nat) : Int := elemInt w signed (elemBits c w r.toNat l k)
      let writes (i : Instr) (f : Nat → Nat → Nat) : Prop := Completes s c i (fun t c' => Still s t ∧ c'.rest = c.rest ∧ c'.sreg = c.sreg ∧
        ModesKept c c' ∧ (∀ l k, on l → w * k < max 32 w → elemBits c' w d.toNat l k = f l k) ∧
        (∀ r l, l < 64 → ¬ on l ∨ (r ≠ d.toNat ∧ (w = 64 → r ≠ d.toNat + 1)) → c'.getV r l = c.getV r l))
      (∀ i sats f, (i, sats, f) ∈ intFunctions d a b w → Issues s c i = true →
        writes i (fun l k => if i = .div d a b ∧ get c b l k = 0 then 2 ^ w - 1 else
          writtenInt w signed (sat && sats) (f (get c a l k) (get c b l k)))) ∧
      (Issues s c (.addi d a b) = true → writes (.addi d a b) (fun l k => writtenInt w signed sat (get c a l k + b.toInt))) ∧
      (Issues s c (.abs d a) = true → writes (.abs d a) (fun l k => writtenInt w signed sat (max (get c a l k) (-(get c a l k))))) ∧
      (Issues s c (.neg d a) = true → writes (.neg d a) (fun l k => writtenInt w signed sat (-(get c a l k)))) ∧
      (∀ (p : BitVec 3) i rel, (i, rel) ∈ [(Instr.cmpeq p a b, fun x y : Int => decide (x = y)), (.cmpne p a b, fun x y => decide (x ≠ y)),
          (.cmplt p a b, fun x y => decide (x < y)), (.cmple p a b, fun x y => decide (x ≤ y)), (.cmpun p a b, fun _ _ => false)] →
        Issues s c i = true → Completes s c i (fun t c' => Still s t ∧ c'.rest = c.rest ∧ c'.sreg = c.sreg ∧ c'.vreg = c.vreg ∧
          (∀ l, on l → p ≠ 0 → (c'.pred p.toNat).getLsbD l = rel (get c a l 0) (get c b l 0)) ∧
          (∀ l, l < 64 → ¬ on l → (c'.pred p.toNat).getLsbD l = (c.pred p.toNat).getLsbD l) ∧
          (∀ q, q ≠ p.toNat → c'.pred q = c.pred q)))) ∧
    (ty = 2 → modeRnd c.mode ≠ 5 →
      let r : Rnd := ⟨modeRnd c.mode, sat, c.modex.getLsbD 0, 0⟩
      let x (v : BitVec 8) (l : Nat) : Val := Fmt.binary32.read (c.modex.getLsbD 0) (c.getV v.toNat l).toNat
      ∀ i f, (i, f) ∈ [(Instr.add d a b, fun l => sumVals (decide (modeRnd c.mode = 2)) [x a l, x b l]),
          (.sub d a b, fun l => sumVals (decide (modeRnd c.mode = 2)) [x a l, (x b l).neg]), (.mul d a b, fun l => (x a l).mul (x b l)),
          (.fma d a b, fun l => sumVals (decide (modeRnd c.mode = 2)) [(x a l).mul (x b l), x d l])] →
        Issues s c i = true → Completes s c i (fun t c' => Still s t ∧ c'.rest = c.rest ∧ c'.sreg = c.sreg ∧ ModesKept c c' ∧
          (∀ l, on l → c'.getV d.toNat l = BitVec.ofNat 32 (rndFloat .binary32 r (f l))) ∧
          (∀ q l, l < 64 → ¬ on l ∨ q ≠ d.toNat → c'.getV q l = c.getV q l))) ∧
    (Issues s c (.sel d a b) = true → Completes s c (.sel d a b) (fun t c' => Still s t ∧ c'.sreg = c.sreg ∧ ModesKept c c' ∧
      (∀ l, l < 64 → c.am.getLsbD l = true → c'.getV d.toNat l = if c.guard.getLsbD l then c.getV a.toNat l else c.getV b.toNat l) ∧
      (∀ r l, l < 64 → c.am.getLsbD l = false ∨ (r ≠ d.toNat ∧ (ty = 12 ∨ ty = 13 → r ≠ d.toNat + 1)) → c'.getV r l = c.getV r l))) ∧
    (Issues s c (.mov d a) = true → Completes s c (.mov d a) (fun t c' => Still s t ∧ c'.sreg = c.sreg ∧ ModesKept c c' ∧
      (∀ l, on l → c'.getV d.toNat l = c.getV a.toNat l ∧ (ty = 12 ∨ ty = 13 → c'.getV (d.toNat + 1) l = c.getV (a.toNat + 1) l)) ∧
      (∀ r l, l < 64 → ¬ on l ∨ (r ≠ d.toNat ∧ (ty = 12 ∨ ty = 13 → r ≠ d.toNat + 1)) → c'.getV r l = c.getV r l))) ∧
    (∀ m : BitVec 16,
      (Issues s c (.movi d m) = true → Completes s c (.movi d m) (fun t c' => Still s t ∧ c'.sreg = c.sreg ∧ ModesKept c c' ∧
        ∀ l, on l → (ty ∈ [0, 1, 2] → c'.getV d.toNat l = m.signExtend 32) ∧
          (ty ∈ [12, 13] → c'.getVV d.toNat l = m.signExtend 64) ∧ (ty ∈ [3, 4, 5, 6, 7, 8, 9, 10, 11] → c'.getV d.toNat l = m ++ m))) ∧
      (Issues s c (.movhi d m) = true → Completes s c (.movhi d m) (fun t c' => Still s t ∧ c'.sreg = c.sreg ∧ ModesKept c c' ∧
        (∀ l, on l → c'.getV d.toNat l = m ++ (c.getV d.toNat l).extractLsb' 0 16) ∧
        (∀ r l, l < 64 → ¬ on l ∨ r ≠ d.toNat → c'.getV r l = c.getV r l)))) ∧
    ConversionsRound s c d a b ∧ SeedsAndNumbers s c d a b ∧ BitsAreManipulated s c d a b ∧ LanesExchange s c d a b ∧
    LanesReduce s c d a
end

