-- ==== Sys2Proof/Laws/Store.lean ====
section
/-! SUPPORT. The laws of sparse storage: a read after a write, and that every operation keeps the canonical form. -/

namespace Sys2Proof.Machine

variable {α : Type}

theorem SMap.sortedFrom_mono {lo lo' : Nat} (h : lo' ≤ lo) :
    ∀ {m : SMap α}, m.sortedFrom lo = true → m.sortedFrom lo' = true
  | [], _ => rfl
  | (j, y) :: m, hs => by
    simp only [SMap.sortedFrom, Bool.and_eq_true, decide_eq_true_eq] at hs ⊢
    exact ⟨by omega, hs.2⟩

/-- A read after an insertion, whatever the order of the keys. -/
theorem SMap.get?_insert (m : SMap α) (k k' : Nat) (x : α) :
    (m.insert k x).get? k' = if k' = k then some x else m.get? k' := by
  induction m with
  | nil => rfl
  | cons e m ih =>
    obtain ⟨j, y⟩ := e
    simp only [SMap.insert]
    split
    · rfl
    · split
      · rename_i h1 h2
        subst h2
        simp only [SMap.get?]
        split <;> rfl
      · simp only [SMap.get?]
        rw [ih]
        by_cases h1 : k' = j
        · rw [if_pos h1, if_pos h1, if_neg (by omega)]
        · rw [if_neg h1, if_neg h1]

theorem SMap.sortedFrom_insert {lo k : Nat} (x : α) (hk : lo ≤ k) :
    ∀ {m : SMap α}, m.sortedFrom lo = true → (m.insert k x).sortedFrom lo = true
  | [], _ => by simp [SMap.insert, SMap.sortedFrom, hk]
  | (j, y) :: m, hs => by
    simp only [SMap.sortedFrom, Bool.and_eq_true, decide_eq_true_eq] at hs
    simp only [SMap.insert]
    split
    · simp only [SMap.sortedFrom, Bool.and_eq_true, decide_eq_true_eq]
      exact ⟨hk, by omega, hs.2⟩
    · split
      · rename_i h1 h2
        subst h2
        simp only [SMap.sortedFrom, Bool.and_eq_true, decide_eq_true_eq]
        exact ⟨hk, hs.2⟩
      · simp only [SMap.sortedFrom, Bool.and_eq_true, decide_eq_true_eq]
        exact ⟨hs.1, SMap.sortedFrom_insert x (by omega) hs.2⟩

theorem SMap.sortedFrom_remove {lo : Nat} (k : Nat) :
    ∀ {m : SMap α}, m.sortedFrom lo = true → (m.remove k).sortedFrom lo = true
  | [], _ => rfl
  | (j, y) :: m, hs => by
    simp only [SMap.sortedFrom, Bool.and_eq_true, decide_eq_true_eq] at hs
    simp only [SMap.remove]
    split
    · exact SMap.sortedFrom_mono (by omega) (SMap.sortedFrom_remove k hs.2)
    · simp only [SMap.sortedFrom, Bool.and_eq_true, decide_eq_true_eq]
      exact ⟨hs.1, SMap.sortedFrom_remove k hs.2⟩

/-- A read after a removal, whatever the order of the keys. -/
theorem SMap.get?_remove (m : SMap α) (k k' : Nat) :
    (m.remove k).get? k' = if k' = k then none else m.get? k' := by
  induction m with
  | nil => simp [SMap.remove, SMap.get?]
  | cons e m ih =>
    obtain ⟨j, y⟩ := e
    simp only [SMap.remove]
    split
    · rename_i h
      rw [ih]
      split
      · rfl
      · simp only [SMap.get?]
        rw [if_neg (by omega)]
    · simp only [SMap.get?]
      rw [ih]
      by_cases h1 : k' = j
      · rw [if_pos h1, if_pos h1, if_neg (by omega)]
      · rw [if_neg h1, if_neg h1]

theorem SMap.mem_insert {m : SMap α} {k : Nat} {x : α} {e : Nat × α} (h : e ∈ m.insert k x) :
    e = (k, x) ∨ e ∈ m := by
  induction m with
  | nil => simpa [SMap.insert] using h
  | cons f m ih =>
    obtain ⟨j, y⟩ := f
    simp only [SMap.insert] at h
    split at h
    · simpa [List.mem_cons] using h
    · split at h
      · simp only [List.mem_cons] at h ⊢
        tauto
      · simp only [List.mem_cons] at h ⊢
        rcases h with h | h
        · tauto
        · rcases ih h with h | h <;> tauto

theorem SMap.mem_remove {m : SMap α} {k : Nat} {e : Nat × α} (h : e ∈ m.remove k) : e ∈ m := by
  induction m with
  | nil => exact h
  | cons f m ih =>
    obtain ⟨j, y⟩ := f
    simp only [SMap.remove] at h
    split at h
    · exact List.mem_cons_of_mem _ (ih h)
    · simp only [List.mem_cons] at h ⊢
      exact h.imp_right ih

variable [DecidableEq α]

theorem SMap.wf_nil (d : α) : SMap.wf ([] : SMap α) d = true := rfl

theorem SMap.wf_iff {m : SMap α} {d : α} :
    m.wf d = true ↔ m.sortedFrom 0 = true ∧ ∀ e ∈ m, e.2 ≠ d := by
  simp [SMap.wf, List.all_eq_true]

/-- Writing keeps the canonical form. -/
theorem SMap.wf_setD {m : SMap α} {d : α} (h : m.wf d = true) (k : Nat) (x : α) :
    (m.setD k x d).wf d = true := by
  rw [SMap.wf_iff] at h ⊢
  unfold SMap.setD
  split
  · exact ⟨SMap.sortedFrom_remove k h.1, fun e he => h.2 e (SMap.mem_remove he)⟩
  · rename_i hx
    refine ⟨SMap.sortedFrom_insert x (Nat.zero_le k) h.1, fun e he => ?_⟩
    rcases SMap.mem_insert he with rfl | he
    · exact hx
    · exact h.2 e he

/-- A read after a write gives the value written at that key, and leaves every other key alone. -/
theorem SMap.getD_setD (m : SMap α) (d : α) (k k' : Nat) (x : α) :
    (m.setD k x d).getD k' d = if k' = k then x else m.getD k' d := by
  unfold SMap.getD SMap.setD
  by_cases hx : x = d
  · rw [if_pos hx, SMap.get?_remove]
    by_cases hk : k' = k <;> simp [hk, hx]
  · rw [if_neg hx, SMap.get?_insert]
    by_cases hk : k' = k <;> simp [hk]

omit [DecidableEq α] in
theorem SMap.getD_insert (m : SMap α) (d : α) (k k' : Nat) (x : α) :
    (m.insert k x).getD k' d = if k' = k then x else m.getD k' d := by
  unfold SMap.getD
  rw [SMap.get?_insert]
  by_cases hk : k' = k <;> simp [hk]

end Sys2Proof.Machine
end

