-- ==== Sys2Proof/Laws/State.lean ====
section
/-! SUPPORT. What each update of State and of a crew leaves alone, one lemma for each field, and what is read back. -/

namespace Sys2Proof.Machine

/-! ## The package -/

section setCrewAt
variable (s : State) (k : Nat) (c : Crew)
@[simp] theorem State.setCrewAt_clock : (s.setCrewAt k c).clock = s.clock := rfl
@[simp] theorem State.setCrewAt_freeIx : (s.setCrewAt k c).freeIx = s.freeIx := rfl
@[simp] theorem State.setCrewAt_agenda : (s.setCrewAt k c).agenda = s.agenda := rfl
@[simp] theorem State.setCrewAt_focusCore : (s.setCrewAt k c).focusCore = s.focusCore := rfl
@[simp] theorem State.setCrewAt_focusSlot : (s.setCrewAt k c).focusSlot = s.focusSlot := rfl
@[simp] theorem State.setCrewAt_mem : (s.setCrewAt k c).mem = s.mem := rfl
@[simp] theorem State.setCrewAt_poison : (s.setCrewAt k c).poison = s.poison := rfl
@[simp] theorem State.setCrewAt_pageCtr : (s.setCrewAt k c).pageCtr = s.pageCtr := rfl
@[simp] theorem State.setCrewAt_migReqs : (s.setCrewAt k c).migReqs = s.migReqs := rfl
@[simp] theorem State.setCrewAt_migrations : (s.setCrewAt k c).migrations = s.migrations := rfl
@[simp] theorem State.setCrewAt_bindRecs : (s.setCrewAt k c).bindRecs = s.bindRecs := rfl
@[simp] theorem State.setCrewAt_cores : (s.setCrewAt k c).cores = s.cores := rfl
@[simp] theorem State.setCrewAt_dies : (s.setCrewAt k c).dies = s.dies := rfl
@[simp] theorem State.setCrewAt_ctxs : (s.setCrewAt k c).ctxs = s.ctxs := rfl
@[simp] theorem State.setCrewAt_regions : (s.setCrewAt k c).regions = s.regions := rfl
@[simp] theorem State.setCrewAt_wdticks : (s.setCrewAt k c).wdticks = s.wdticks := rfl
@[simp] theorem State.setCrewAt_params : (s.setCrewAt k c).params = s.params := rfl
@[simp] theorem State.setCrewAt_tasks : (s.setCrewAt k c).tasks = s.tasks := rfl
@[simp] theorem State.setCrewAt_reserved : (s.setCrewAt k c).reserved = s.reserved := rfl
@[simp] theorem State.setCrewAt_doneStores : (s.setCrewAt k c).doneStores = s.doneStores := rfl
@[simp] theorem State.setCrewAt_coppices : (s.setCrewAt k c).coppices = s.coppices := rfl
@[simp] theorem State.setCrewAt_rings : (s.setCrewAt k c).rings = s.rings := rfl
@[simp] theorem State.setCrewAt_traces : (s.setCrewAt k c).traces = s.traces := rfl
@[simp] theorem State.setCrewAt_freeze : (s.setCrewAt k c).freeze = s.freeze := rfl
@[simp] theorem State.setCrewAt_escalations : (s.setCrewAt k c).escalations = s.escalations := rfl
@[simp] theorem State.setCrewAt_capsules : (s.setCrewAt k c).capsules = s.capsules := rfl
@[simp] theorem State.setCrewAt_capsuleCount : (s.setCrewAt k c).capsuleCount = s.capsuleCount := rfl
@[simp] theorem State.setCrewAt_boots : (s.setCrewAt k c).boots = s.boots := rfl
@[simp] theorem State.setCrewAt_current : (s.setCrewAt k c).current = s.current := rfl
@[simp] theorem State.setCrewAt_sliceStart : (s.setCrewAt k c).sliceStart = s.sliceStart := rfl
@[simp] theorem State.setCrewAt_switching : (s.setCrewAt k c).switching = s.switching := rfl
@[simp] theorem State.setCrewAt_pauses : (s.setCrewAt k c).pauses = s.pauses := rfl
@[simp] theorem State.setCrewAt_savedCtrs : (s.setCrewAt k c).savedCtrs = s.savedCtrs := rfl
@[simp] theorem State.setCrewAt_savedAreas : (s.setCrewAt k c).savedAreas = s.savedAreas := rfl
@[simp] theorem State.setCrewAt_funcs : (s.setCrewAt k c).funcs = s.funcs := rfl
@[simp] theorem State.setCrewAt_vfs : (s.setCrewAt k c).vfs = s.vfs := rfl
@[simp] theorem State.setCrewAt_rafts : (s.setCrewAt k c).rafts = s.rafts := rfl
@[simp] theorem State.setCrewAt_msgs : (s.setCrewAt k c).msgs = s.msgs := rfl
@[simp] theorem State.setCrewAt_netOut : (s.setCrewAt k c).netOut = s.netOut := rfl
@[simp] theorem State.setCrewAt_msgDrops : (s.setCrewAt k c).msgDrops = s.msgDrops := rfl
@[simp] theorem State.setCrewAt_devnum : (s.setCrewAt k c).devnum = s.devnum := rfl
@[simp] theorem State.setCrewAt_livePorts : (s.setCrewAt k c).livePorts = s.livePorts := rfl
@[simp] theorem State.setCrewAt_retrain : (s.setCrewAt k c).retrain = s.retrain := rfl
@[simp] theorem State.setCrewAt_service : (s.setCrewAt k c).service = s.service := rfl
@[simp] theorem State.setCrewAt_spdm : (s.setCrewAt k c).spdm = s.spdm := rfl
@[simp] theorem State.setCrewAt_liveDies : (s.setCrewAt k c).liveDies = s.liveDies := rfl
@[simp] theorem State.setCrewAt_liveCores : (s.setCrewAt k c).liveCores = s.liveCores := rfl
@[simp] theorem State.setCrewAt_liveStacks : (s.setCrewAt k c).liveStacks = s.liveStacks := rfl
@[simp] theorem State.setCrewAt_liveVaults : (s.setCrewAt k c).liveVaults = s.liveVaults := rfl
end setCrewAt

section setCrew
variable (s : State) (c : Crew)
@[simp] theorem State.setCrew_clock : (s.setCrew c).clock = s.clock := rfl
@[simp] theorem State.setCrew_freeIx : (s.setCrew c).freeIx = s.freeIx := rfl
@[simp] theorem State.setCrew_agenda : (s.setCrew c).agenda = s.agenda := rfl
@[simp] theorem State.setCrew_focusCore : (s.setCrew c).focusCore = s.focusCore := rfl
@[simp] theorem State.setCrew_focusSlot : (s.setCrew c).focusSlot = s.focusSlot := rfl
@[simp] theorem State.setCrew_mem : (s.setCrew c).mem = s.mem := rfl
@[simp] theorem State.setCrew_poison : (s.setCrew c).poison = s.poison := rfl
@[simp] theorem State.setCrew_pageCtr : (s.setCrew c).pageCtr = s.pageCtr := rfl
@[simp] theorem State.setCrew_migReqs : (s.setCrew c).migReqs = s.migReqs := rfl
@[simp] theorem State.setCrew_migrations : (s.setCrew c).migrations = s.migrations := rfl
@[simp] theorem State.setCrew_bindRecs : (s.setCrew c).bindRecs = s.bindRecs := rfl
@[simp] theorem State.setCrew_cores : (s.setCrew c).cores = s.cores := rfl
@[simp] theorem State.setCrew_dies : (s.setCrew c).dies = s.dies := rfl
@[simp] theorem State.setCrew_ctxs : (s.setCrew c).ctxs = s.ctxs := rfl
@[simp] theorem State.setCrew_regions : (s.setCrew c).regions = s.regions := rfl
@[simp] theorem State.setCrew_wdticks : (s.setCrew c).wdticks = s.wdticks := rfl
@[simp] theorem State.setCrew_params : (s.setCrew c).params = s.params := rfl
@[simp] theorem State.setCrew_tasks : (s.setCrew c).tasks = s.tasks := rfl
@[simp] theorem State.setCrew_reserved : (s.setCrew c).reserved = s.reserved := rfl
@[simp] theorem State.setCrew_doneStores : (s.setCrew c).doneStores = s.doneStores := rfl
@[simp] theorem State.setCrew_coppices : (s.setCrew c).coppices = s.coppices := rfl
@[simp] theorem State.setCrew_rings : (s.setCrew c).rings = s.rings := rfl
@[simp] theorem State.setCrew_traces : (s.setCrew c).traces = s.traces := rfl
@[simp] theorem State.setCrew_freeze : (s.setCrew c).freeze = s.freeze := rfl
@[simp] theorem State.setCrew_escalations : (s.setCrew c).escalations = s.escalations := rfl
@[simp] theorem State.setCrew_capsules : (s.setCrew c).capsules = s.capsules := rfl
@[simp] theorem State.setCrew_capsuleCount : (s.setCrew c).capsuleCount = s.capsuleCount := rfl
@[simp] theorem State.setCrew_boots : (s.setCrew c).boots = s.boots := rfl
@[simp] theorem State.setCrew_current : (s.setCrew c).current = s.current := rfl
@[simp] theorem State.setCrew_sliceStart : (s.setCrew c).sliceStart = s.sliceStart := rfl
@[simp] theorem State.setCrew_switching : (s.setCrew c).switching = s.switching := rfl
@[simp] theorem State.setCrew_pauses : (s.setCrew c).pauses = s.pauses := rfl
@[simp] theorem State.setCrew_savedCtrs : (s.setCrew c).savedCtrs = s.savedCtrs := rfl
@[simp] theorem State.setCrew_savedAreas : (s.setCrew c).savedAreas = s.savedAreas := rfl
@[simp] theorem State.setCrew_funcs : (s.setCrew c).funcs = s.funcs := rfl
@[simp] theorem State.setCrew_vfs : (s.setCrew c).vfs = s.vfs := rfl
@[simp] theorem State.setCrew_rafts : (s.setCrew c).rafts = s.rafts := rfl
@[simp] theorem State.setCrew_msgs : (s.setCrew c).msgs = s.msgs := rfl
@[simp] theorem State.setCrew_netOut : (s.setCrew c).netOut = s.netOut := rfl
@[simp] theorem State.setCrew_msgDrops : (s.setCrew c).msgDrops = s.msgDrops := rfl
@[simp] theorem State.setCrew_devnum : (s.setCrew c).devnum = s.devnum := rfl
@[simp] theorem State.setCrew_livePorts : (s.setCrew c).livePorts = s.livePorts := rfl
@[simp] theorem State.setCrew_retrain : (s.setCrew c).retrain = s.retrain := rfl
@[simp] theorem State.setCrew_service : (s.setCrew c).service = s.service := rfl
@[simp] theorem State.setCrew_spdm : (s.setCrew c).spdm = s.spdm := rfl
@[simp] theorem State.setCrew_liveDies : (s.setCrew c).liveDies = s.liveDies := rfl
@[simp] theorem State.setCrew_liveCores : (s.setCrew c).liveCores = s.liveCores := rfl
@[simp] theorem State.setCrew_liveStacks : (s.setCrew c).liveStacks = s.liveStacks := rfl
@[simp] theorem State.setCrew_liveVaults : (s.setCrew c).liveVaults = s.liveVaults := rfl
end setCrew

section mapCrew
variable (s : State) (f : Crew → Crew)
@[simp] theorem State.mapCrew_clock : (s.mapCrew f).clock = s.clock := rfl
@[simp] theorem State.mapCrew_freeIx : (s.mapCrew f).freeIx = s.freeIx := rfl
@[simp] theorem State.mapCrew_agenda : (s.mapCrew f).agenda = s.agenda := rfl
@[simp] theorem State.mapCrew_focusCore : (s.mapCrew f).focusCore = s.focusCore := rfl
@[simp] theorem State.mapCrew_focusSlot : (s.mapCrew f).focusSlot = s.focusSlot := rfl
@[simp] theorem State.mapCrew_mem : (s.mapCrew f).mem = s.mem := rfl
@[simp] theorem State.mapCrew_poison : (s.mapCrew f).poison = s.poison := rfl
@[simp] theorem State.mapCrew_pageCtr : (s.mapCrew f).pageCtr = s.pageCtr := rfl
@[simp] theorem State.mapCrew_migReqs : (s.mapCrew f).migReqs = s.migReqs := rfl
@[simp] theorem State.mapCrew_migrations : (s.mapCrew f).migrations = s.migrations := rfl
@[simp] theorem State.mapCrew_bindRecs : (s.mapCrew f).bindRecs = s.bindRecs := rfl
@[simp] theorem State.mapCrew_cores : (s.mapCrew f).cores = s.cores := rfl
@[simp] theorem State.mapCrew_dies : (s.mapCrew f).dies = s.dies := rfl
@[simp] theorem State.mapCrew_ctxs : (s.mapCrew f).ctxs = s.ctxs := rfl
@[simp] theorem State.mapCrew_regions : (s.mapCrew f).regions = s.regions := rfl
@[simp] theorem State.mapCrew_wdticks : (s.mapCrew f).wdticks = s.wdticks := rfl
@[simp] theorem State.mapCrew_params : (s.mapCrew f).params = s.params := rfl
@[simp] theorem State.mapCrew_tasks : (s.mapCrew f).tasks = s.tasks := rfl
@[simp] theorem State.mapCrew_reserved : (s.mapCrew f).reserved = s.reserved := rfl
@[simp] theorem State.mapCrew_doneStores : (s.mapCrew f).doneStores = s.doneStores := rfl
@[simp] theorem State.mapCrew_coppices : (s.mapCrew f).coppices = s.coppices := rfl
@[simp] theorem State.mapCrew_rings : (s.mapCrew f).rings = s.rings := rfl
@[simp] theorem State.mapCrew_traces : (s.mapCrew f).traces = s.traces := rfl
@[simp] theorem State.mapCrew_freeze : (s.mapCrew f).freeze = s.freeze := rfl
@[simp] theorem State.mapCrew_escalations : (s.mapCrew f).escalations = s.escalations := rfl
@[simp] theorem State.mapCrew_capsules : (s.mapCrew f).capsules = s.capsules := rfl
@[simp] theorem State.mapCrew_capsuleCount : (s.mapCrew f).capsuleCount = s.capsuleCount := rfl
@[simp] theorem State.mapCrew_boots : (s.mapCrew f).boots = s.boots := rfl
@[simp] theorem State.mapCrew_current : (s.mapCrew f).current = s.current := rfl
@[simp] theorem State.mapCrew_sliceStart : (s.mapCrew f).sliceStart = s.sliceStart := rfl
@[simp] theorem State.mapCrew_switching : (s.mapCrew f).switching = s.switching := rfl
@[simp] theorem State.mapCrew_pauses : (s.mapCrew f).pauses = s.pauses := rfl
@[simp] theorem State.mapCrew_savedCtrs : (s.mapCrew f).savedCtrs = s.savedCtrs := rfl
@[simp] theorem State.mapCrew_savedAreas : (s.mapCrew f).savedAreas = s.savedAreas := rfl
@[simp] theorem State.mapCrew_funcs : (s.mapCrew f).funcs = s.funcs := rfl
@[simp] theorem State.mapCrew_vfs : (s.mapCrew f).vfs = s.vfs := rfl
@[simp] theorem State.mapCrew_rafts : (s.mapCrew f).rafts = s.rafts := rfl
@[simp] theorem State.mapCrew_msgs : (s.mapCrew f).msgs = s.msgs := rfl
@[simp] theorem State.mapCrew_netOut : (s.mapCrew f).netOut = s.netOut := rfl
@[simp] theorem State.mapCrew_msgDrops : (s.mapCrew f).msgDrops = s.msgDrops := rfl
@[simp] theorem State.mapCrew_devnum : (s.mapCrew f).devnum = s.devnum := rfl
@[simp] theorem State.mapCrew_livePorts : (s.mapCrew f).livePorts = s.livePorts := rfl
@[simp] theorem State.mapCrew_retrain : (s.mapCrew f).retrain = s.retrain := rfl
@[simp] theorem State.mapCrew_service : (s.mapCrew f).service = s.service := rfl
@[simp] theorem State.mapCrew_spdm : (s.mapCrew f).spdm = s.spdm := rfl
@[simp] theorem State.mapCrew_liveDies : (s.mapCrew f).liveDies = s.liveDies := rfl
@[simp] theorem State.mapCrew_liveCores : (s.mapCrew f).liveCores = s.liveCores := rfl
@[simp] theorem State.mapCrew_liveStacks : (s.mapCrew f).liveStacks = s.liveStacks := rfl
@[simp] theorem State.mapCrew_liveVaults : (s.mapCrew f).liveVaults = s.liveVaults := rfl
end mapCrew

section mapCrewAt
variable (s : State) (k : Nat) (f : Crew → Crew)
@[simp] theorem State.mapCrewAt_clock : (s.mapCrewAt k f).clock = s.clock := by unfold State.mapCrewAt; split <;> rfl
@[simp] theorem State.mapCrewAt_freeIx : (s.mapCrewAt k f).freeIx = s.freeIx := by unfold State.mapCrewAt; split <;> rfl
@[simp] theorem State.mapCrewAt_agenda : (s.mapCrewAt k f).agenda = s.agenda := by unfold State.mapCrewAt; split <;> rfl
@[simp] theorem State.mapCrewAt_focusCore : (s.mapCrewAt k f).focusCore = s.focusCore := by unfold State.mapCrewAt; split <;> rfl
@[simp] theorem State.mapCrewAt_focusSlot : (s.mapCrewAt k f).focusSlot = s.focusSlot := by unfold State.mapCrewAt; split <;> rfl
@[simp] theorem State.mapCrewAt_mem : (s.mapCrewAt k f).mem = s.mem := by unfold State.mapCrewAt; split <;> rfl
@[simp] theorem State.mapCrewAt_poison : (s.mapCrewAt k f).poison = s.poison := by unfold State.mapCrewAt; split <;> rfl
@[simp] theorem State.mapCrewAt_pageCtr : (s.mapCrewAt k f).pageCtr = s.pageCtr := by unfold State.mapCrewAt; split <;> rfl
@[simp] theorem State.mapCrewAt_migReqs : (s.mapCrewAt k f).migReqs = s.migReqs := by unfold State.mapCrewAt; split <;> rfl
@[simp] theorem State.mapCrewAt_migrations : (s.mapCrewAt k f).migrations = s.migrations := by unfold State.mapCrewAt; split <;> rfl
@[simp] theorem State.mapCrewAt_bindRecs : (s.mapCrewAt k f).bindRecs = s.bindRecs := by unfold State.mapCrewAt; split <;> rfl
@[simp] theorem State.mapCrewAt_cores : (s.mapCrewAt k f).cores = s.cores := by unfold State.mapCrewAt; split <;> rfl
@[simp] theorem State.mapCrewAt_dies : (s.mapCrewAt k f).dies = s.dies := by unfold State.mapCrewAt; split <;> rfl
@[simp] theorem State.mapCrewAt_ctxs : (s.mapCrewAt k f).ctxs = s.ctxs := by unfold State.mapCrewAt; split <;> rfl
@[simp] theorem State.mapCrewAt_regions : (s.mapCrewAt k f).regions = s.regions := by unfold State.mapCrewAt; split <;> rfl
@[simp] theorem State.mapCrewAt_wdticks : (s.mapCrewAt k f).wdticks = s.wdticks := by unfold State.mapCrewAt; split <;> rfl
@[simp] theorem State.mapCrewAt_params : (s.mapCrewAt k f).params = s.params := by unfold State.mapCrewAt; split <;> rfl
@[simp] theorem State.mapCrewAt_tasks : (s.mapCrewAt k f).tasks = s.tasks := by unfold State.mapCrewAt; split <;> rfl
@[simp] theorem State.mapCrewAt_reserved : (s.mapCrewAt k f).reserved = s.reserved := by unfold State.mapCrewAt; split <;> rfl
@[simp] theorem State.mapCrewAt_doneStores : (s.mapCrewAt k f).doneStores = s.doneStores := by unfold State.mapCrewAt; split <;> rfl
@[simp] theorem State.mapCrewAt_coppices : (s.mapCrewAt k f).coppices = s.coppices := by unfold State.mapCrewAt; split <;> rfl
@[simp] theorem State.mapCrewAt_rings : (s.mapCrewAt k f).rings = s.rings := by unfold State.mapCrewAt; split <;> rfl
@[simp] theorem State.mapCrewAt_traces : (s.mapCrewAt k f).traces = s.traces := by unfold State.mapCrewAt; split <;> rfl
@[simp] theorem State.mapCrewAt_freeze : (s.mapCrewAt k f).freeze = s.freeze := by unfold State.mapCrewAt; split <;> rfl
@[simp] theorem State.mapCrewAt_escalations : (s.mapCrewAt k f).escalations = s.escalations := by unfold State.mapCrewAt; split <;> rfl
@[simp] theorem State.mapCrewAt_capsules : (s.mapCrewAt k f).capsules = s.capsules := by unfold State.mapCrewAt; split <;> rfl
@[simp] theorem State.mapCrewAt_capsuleCount : (s.mapCrewAt k f).capsuleCount = s.capsuleCount := by unfold State.mapCrewAt; split <;> rfl
@[simp] theorem State.mapCrewAt_boots : (s.mapCrewAt k f).boots = s.boots := by unfold State.mapCrewAt; split <;> rfl
@[simp] theorem State.mapCrewAt_current : (s.mapCrewAt k f).current = s.current := by unfold State.mapCrewAt; split <;> rfl
@[simp] theorem State.mapCrewAt_sliceStart : (s.mapCrewAt k f).sliceStart = s.sliceStart := by unfold State.mapCrewAt; split <;> rfl
@[simp] theorem State.mapCrewAt_switching : (s.mapCrewAt k f).switching = s.switching := by unfold State.mapCrewAt; split <;> rfl
@[simp] theorem State.mapCrewAt_pauses : (s.mapCrewAt k f).pauses = s.pauses := by unfold State.mapCrewAt; split <;> rfl
@[simp] theorem State.mapCrewAt_savedCtrs : (s.mapCrewAt k f).savedCtrs = s.savedCtrs := by unfold State.mapCrewAt; split <;> rfl
@[simp] theorem State.mapCrewAt_savedAreas : (s.mapCrewAt k f).savedAreas = s.savedAreas := by unfold State.mapCrewAt; split <;> rfl
@[simp] theorem State.mapCrewAt_funcs : (s.mapCrewAt k f).funcs = s.funcs := by unfold State.mapCrewAt; split <;> rfl
@[simp] theorem State.mapCrewAt_vfs : (s.mapCrewAt k f).vfs = s.vfs := by unfold State.mapCrewAt; split <;> rfl
@[simp] theorem State.mapCrewAt_rafts : (s.mapCrewAt k f).rafts = s.rafts := by unfold State.mapCrewAt; split <;> rfl
@[simp] theorem State.mapCrewAt_msgs : (s.mapCrewAt k f).msgs = s.msgs := by unfold State.mapCrewAt; split <;> rfl
@[simp] theorem State.mapCrewAt_netOut : (s.mapCrewAt k f).netOut = s.netOut := by unfold State.mapCrewAt; split <;> rfl
@[simp] theorem State.mapCrewAt_msgDrops : (s.mapCrewAt k f).msgDrops = s.msgDrops := by unfold State.mapCrewAt; split <;> rfl
@[simp] theorem State.mapCrewAt_devnum : (s.mapCrewAt k f).devnum = s.devnum := by unfold State.mapCrewAt; split <;> rfl
@[simp] theorem State.mapCrewAt_livePorts : (s.mapCrewAt k f).livePorts = s.livePorts := by unfold State.mapCrewAt; split <;> rfl
@[simp] theorem State.mapCrewAt_retrain : (s.mapCrewAt k f).retrain = s.retrain := by unfold State.mapCrewAt; split <;> rfl
@[simp] theorem State.mapCrewAt_service : (s.mapCrewAt k f).service = s.service := by unfold State.mapCrewAt; split <;> rfl
@[simp] theorem State.mapCrewAt_spdm : (s.mapCrewAt k f).spdm = s.spdm := by unfold State.mapCrewAt; split <;> rfl
@[simp] theorem State.mapCrewAt_liveDies : (s.mapCrewAt k f).liveDies = s.liveDies := by unfold State.mapCrewAt; split <;> rfl
@[simp] theorem State.mapCrewAt_liveCores : (s.mapCrewAt k f).liveCores = s.liveCores := by unfold State.mapCrewAt; split <;> rfl
@[simp] theorem State.mapCrewAt_liveStacks : (s.mapCrewAt k f).liveStacks = s.liveStacks := by unfold State.mapCrewAt; split <;> rfl
@[simp] theorem State.mapCrewAt_liveVaults : (s.mapCrewAt k f).liveVaults = s.liveVaults := by unfold State.mapCrewAt; split <;> rfl
end mapCrewAt

section setCore
variable (s : State) (n : Nat) (c : Core)
@[simp] theorem State.setCore_clock : (s.setCore n c).clock = s.clock := rfl
@[simp] theorem State.setCore_freeIx : (s.setCore n c).freeIx = s.freeIx := rfl
@[simp] theorem State.setCore_agenda : (s.setCore n c).agenda = s.agenda := rfl
@[simp] theorem State.setCore_focusCore : (s.setCore n c).focusCore = s.focusCore := rfl
@[simp] theorem State.setCore_focusSlot : (s.setCore n c).focusSlot = s.focusSlot := rfl
@[simp] theorem State.setCore_mem : (s.setCore n c).mem = s.mem := rfl
@[simp] theorem State.setCore_poison : (s.setCore n c).poison = s.poison := rfl
@[simp] theorem State.setCore_pageCtr : (s.setCore n c).pageCtr = s.pageCtr := rfl
@[simp] theorem State.setCore_migReqs : (s.setCore n c).migReqs = s.migReqs := rfl
@[simp] theorem State.setCore_migrations : (s.setCore n c).migrations = s.migrations := rfl
@[simp] theorem State.setCore_crews : (s.setCore n c).crews = s.crews := rfl
@[simp] theorem State.setCore_bindRecs : (s.setCore n c).bindRecs = s.bindRecs := rfl
@[simp] theorem State.setCore_dies : (s.setCore n c).dies = s.dies := rfl
@[simp] theorem State.setCore_ctxs : (s.setCore n c).ctxs = s.ctxs := rfl
@[simp] theorem State.setCore_regions : (s.setCore n c).regions = s.regions := rfl
@[simp] theorem State.setCore_wdticks : (s.setCore n c).wdticks = s.wdticks := rfl
@[simp] theorem State.setCore_params : (s.setCore n c).params = s.params := rfl
@[simp] theorem State.setCore_tasks : (s.setCore n c).tasks = s.tasks := rfl
@[simp] theorem State.setCore_reserved : (s.setCore n c).reserved = s.reserved := rfl
@[simp] theorem State.setCore_doneStores : (s.setCore n c).doneStores = s.doneStores := rfl
@[simp] theorem State.setCore_coppices : (s.setCore n c).coppices = s.coppices := rfl
@[simp] theorem State.setCore_rings : (s.setCore n c).rings = s.rings := rfl
@[simp] theorem State.setCore_traces : (s.setCore n c).traces = s.traces := rfl
@[simp] theorem State.setCore_freeze : (s.setCore n c).freeze = s.freeze := rfl
@[simp] theorem State.setCore_escalations : (s.setCore n c).escalations = s.escalations := rfl
@[simp] theorem State.setCore_capsules : (s.setCore n c).capsules = s.capsules := rfl
@[simp] theorem State.setCore_capsuleCount : (s.setCore n c).capsuleCount = s.capsuleCount := rfl
@[simp] theorem State.setCore_boots : (s.setCore n c).boots = s.boots := rfl
@[simp] theorem State.setCore_current : (s.setCore n c).current = s.current := rfl
@[simp] theorem State.setCore_sliceStart : (s.setCore n c).sliceStart = s.sliceStart := rfl
@[simp] theorem State.setCore_switching : (s.setCore n c).switching = s.switching := rfl
@[simp] theorem State.setCore_pauses : (s.setCore n c).pauses = s.pauses := rfl
@[simp] theorem State.setCore_savedCtrs : (s.setCore n c).savedCtrs = s.savedCtrs := rfl
@[simp] theorem State.setCore_savedAreas : (s.setCore n c).savedAreas = s.savedAreas := rfl
@[simp] theorem State.setCore_funcs : (s.setCore n c).funcs = s.funcs := rfl
@[simp] theorem State.setCore_vfs : (s.setCore n c).vfs = s.vfs := rfl
@[simp] theorem State.setCore_rafts : (s.setCore n c).rafts = s.rafts := rfl
@[simp] theorem State.setCore_msgs : (s.setCore n c).msgs = s.msgs := rfl
@[simp] theorem State.setCore_netOut : (s.setCore n c).netOut = s.netOut := rfl
@[simp] theorem State.setCore_msgDrops : (s.setCore n c).msgDrops = s.msgDrops := rfl
@[simp] theorem State.setCore_devnum : (s.setCore n c).devnum = s.devnum := rfl
@[simp] theorem State.setCore_livePorts : (s.setCore n c).livePorts = s.livePorts := rfl
@[simp] theorem State.setCore_retrain : (s.setCore n c).retrain = s.retrain := rfl
@[simp] theorem State.setCore_service : (s.setCore n c).service = s.service := rfl
@[simp] theorem State.setCore_spdm : (s.setCore n c).spdm = s.spdm := rfl
@[simp] theorem State.setCore_liveDies : (s.setCore n c).liveDies = s.liveDies := rfl
@[simp] theorem State.setCore_liveCores : (s.setCore n c).liveCores = s.liveCores := rfl
@[simp] theorem State.setCore_liveStacks : (s.setCore n c).liveStacks = s.liveStacks := rfl
@[simp] theorem State.setCore_liveVaults : (s.setCore n c).liveVaults = s.liveVaults := rfl
end setCore

section mapCore
variable (s : State) (n : Nat) (f : Core → Core)
@[simp] theorem State.mapCore_clock : (s.mapCore n f).clock = s.clock := rfl
@[simp] theorem State.mapCore_freeIx : (s.mapCore n f).freeIx = s.freeIx := rfl
@[simp] theorem State.mapCore_agenda : (s.mapCore n f).agenda = s.agenda := rfl
@[simp] theorem State.mapCore_focusCore : (s.mapCore n f).focusCore = s.focusCore := rfl
@[simp] theorem State.mapCore_focusSlot : (s.mapCore n f).focusSlot = s.focusSlot := rfl
@[simp] theorem State.mapCore_mem : (s.mapCore n f).mem = s.mem := rfl
@[simp] theorem State.mapCore_poison : (s.mapCore n f).poison = s.poison := rfl
@[simp] theorem State.mapCore_pageCtr : (s.mapCore n f).pageCtr = s.pageCtr := rfl
@[simp] theorem State.mapCore_migReqs : (s.mapCore n f).migReqs = s.migReqs := rfl
@[simp] theorem State.mapCore_migrations : (s.mapCore n f).migrations = s.migrations := rfl
@[simp] theorem State.mapCore_crews : (s.mapCore n f).crews = s.crews := rfl
@[simp] theorem State.mapCore_bindRecs : (s.mapCore n f).bindRecs = s.bindRecs := rfl
@[simp] theorem State.mapCore_dies : (s.mapCore n f).dies = s.dies := rfl
@[simp] theorem State.mapCore_ctxs : (s.mapCore n f).ctxs = s.ctxs := rfl
@[simp] theorem State.mapCore_regions : (s.mapCore n f).regions = s.regions := rfl
@[simp] theorem State.mapCore_wdticks : (s.mapCore n f).wdticks = s.wdticks := rfl
@[simp] theorem State.mapCore_params : (s.mapCore n f).params = s.params := rfl
@[simp] theorem State.mapCore_tasks : (s.mapCore n f).tasks = s.tasks := rfl
@[simp] theorem State.mapCore_reserved : (s.mapCore n f).reserved = s.reserved := rfl
@[simp] theorem State.mapCore_doneStores : (s.mapCore n f).doneStores = s.doneStores := rfl
@[simp] theorem State.mapCore_coppices : (s.mapCore n f).coppices = s.coppices := rfl
@[simp] theorem State.mapCore_rings : (s.mapCore n f).rings = s.rings := rfl
@[simp] theorem State.mapCore_traces : (s.mapCore n f).traces = s.traces := rfl
@[simp] theorem State.mapCore_freeze : (s.mapCore n f).freeze = s.freeze := rfl
@[simp] theorem State.mapCore_escalations : (s.mapCore n f).escalations = s.escalations := rfl
@[simp] theorem State.mapCore_capsules : (s.mapCore n f).capsules = s.capsules := rfl
@[simp] theorem State.mapCore_capsuleCount : (s.mapCore n f).capsuleCount = s.capsuleCount := rfl
@[simp] theorem State.mapCore_boots : (s.mapCore n f).boots = s.boots := rfl
@[simp] theorem State.mapCore_current : (s.mapCore n f).current = s.current := rfl
@[simp] theorem State.mapCore_sliceStart : (s.mapCore n f).sliceStart = s.sliceStart := rfl
@[simp] theorem State.mapCore_switching : (s.mapCore n f).switching = s.switching := rfl
@[simp] theorem State.mapCore_pauses : (s.mapCore n f).pauses = s.pauses := rfl
@[simp] theorem State.mapCore_savedCtrs : (s.mapCore n f).savedCtrs = s.savedCtrs := rfl
@[simp] theorem State.mapCore_savedAreas : (s.mapCore n f).savedAreas = s.savedAreas := rfl
@[simp] theorem State.mapCore_funcs : (s.mapCore n f).funcs = s.funcs := rfl
@[simp] theorem State.mapCore_vfs : (s.mapCore n f).vfs = s.vfs := rfl
@[simp] theorem State.mapCore_rafts : (s.mapCore n f).rafts = s.rafts := rfl
@[simp] theorem State.mapCore_msgs : (s.mapCore n f).msgs = s.msgs := rfl
@[simp] theorem State.mapCore_netOut : (s.mapCore n f).netOut = s.netOut := rfl
@[simp] theorem State.mapCore_msgDrops : (s.mapCore n f).msgDrops = s.msgDrops := rfl
@[simp] theorem State.mapCore_devnum : (s.mapCore n f).devnum = s.devnum := rfl
@[simp] theorem State.mapCore_livePorts : (s.mapCore n f).livePorts = s.livePorts := rfl
@[simp] theorem State.mapCore_retrain : (s.mapCore n f).retrain = s.retrain := rfl
@[simp] theorem State.mapCore_service : (s.mapCore n f).service = s.service := rfl
@[simp] theorem State.mapCore_spdm : (s.mapCore n f).spdm = s.spdm := rfl
@[simp] theorem State.mapCore_liveDies : (s.mapCore n f).liveDies = s.liveDies := rfl
@[simp] theorem State.mapCore_liveCores : (s.mapCore n f).liveCores = s.liveCores := rfl
@[simp] theorem State.mapCore_liveStacks : (s.mapCore n f).liveStacks = s.liveStacks := rfl
@[simp] theorem State.mapCore_liveVaults : (s.mapCore n f).liveVaults = s.liveVaults := rfl
end mapCore

section setDie
variable (s : State) (n : Nat) (d : Die)
@[simp] theorem State.setDie_clock : (s.setDie n d).clock = s.clock := rfl
@[simp] theorem State.setDie_freeIx : (s.setDie n d).freeIx = s.freeIx := rfl
@[simp] theorem State.setDie_agenda : (s.setDie n d).agenda = s.agenda := rfl
@[simp] theorem State.setDie_focusCore : (s.setDie n d).focusCore = s.focusCore := rfl
@[simp] theorem State.setDie_focusSlot : (s.setDie n d).focusSlot = s.focusSlot := rfl
@[simp] theorem State.setDie_mem : (s.setDie n d).mem = s.mem := rfl
@[simp] theorem State.setDie_poison : (s.setDie n d).poison = s.poison := rfl
@[simp] theorem State.setDie_pageCtr : (s.setDie n d).pageCtr = s.pageCtr := rfl
@[simp] theorem State.setDie_migReqs : (s.setDie n d).migReqs = s.migReqs := rfl
@[simp] theorem State.setDie_migrations : (s.setDie n d).migrations = s.migrations := rfl
@[simp] theorem State.setDie_crews : (s.setDie n d).crews = s.crews := rfl
@[simp] theorem State.setDie_bindRecs : (s.setDie n d).bindRecs = s.bindRecs := rfl
@[simp] theorem State.setDie_cores : (s.setDie n d).cores = s.cores := rfl
@[simp] theorem State.setDie_ctxs : (s.setDie n d).ctxs = s.ctxs := rfl
@[simp] theorem State.setDie_regions : (s.setDie n d).regions = s.regions := rfl
@[simp] theorem State.setDie_wdticks : (s.setDie n d).wdticks = s.wdticks := rfl
@[simp] theorem State.setDie_params : (s.setDie n d).params = s.params := rfl
@[simp] theorem State.setDie_tasks : (s.setDie n d).tasks = s.tasks := rfl
@[simp] theorem State.setDie_reserved : (s.setDie n d).reserved = s.reserved := rfl
@[simp] theorem State.setDie_doneStores : (s.setDie n d).doneStores = s.doneStores := rfl
@[simp] theorem State.setDie_coppices : (s.setDie n d).coppices = s.coppices := rfl
@[simp] theorem State.setDie_rings : (s.setDie n d).rings = s.rings := rfl
@[simp] theorem State.setDie_traces : (s.setDie n d).traces = s.traces := rfl
@[simp] theorem State.setDie_freeze : (s.setDie n d).freeze = s.freeze := rfl
@[simp] theorem State.setDie_escalations : (s.setDie n d).escalations = s.escalations := rfl
@[simp] theorem State.setDie_capsules : (s.setDie n d).capsules = s.capsules := rfl
@[simp] theorem State.setDie_capsuleCount : (s.setDie n d).capsuleCount = s.capsuleCount := rfl
@[simp] theorem State.setDie_boots : (s.setDie n d).boots = s.boots := rfl
@[simp] theorem State.setDie_current : (s.setDie n d).current = s.current := rfl
@[simp] theorem State.setDie_sliceStart : (s.setDie n d).sliceStart = s.sliceStart := rfl
@[simp] theorem State.setDie_switching : (s.setDie n d).switching = s.switching := rfl
@[simp] theorem State.setDie_pauses : (s.setDie n d).pauses = s.pauses := rfl
@[simp] theorem State.setDie_savedCtrs : (s.setDie n d).savedCtrs = s.savedCtrs := rfl
@[simp] theorem State.setDie_savedAreas : (s.setDie n d).savedAreas = s.savedAreas := rfl
@[simp] theorem State.setDie_funcs : (s.setDie n d).funcs = s.funcs := rfl
@[simp] theorem State.setDie_vfs : (s.setDie n d).vfs = s.vfs := rfl
@[simp] theorem State.setDie_rafts : (s.setDie n d).rafts = s.rafts := rfl
@[simp] theorem State.setDie_msgs : (s.setDie n d).msgs = s.msgs := rfl
@[simp] theorem State.setDie_netOut : (s.setDie n d).netOut = s.netOut := rfl
@[simp] theorem State.setDie_msgDrops : (s.setDie n d).msgDrops = s.msgDrops := rfl
@[simp] theorem State.setDie_devnum : (s.setDie n d).devnum = s.devnum := rfl
@[simp] theorem State.setDie_livePorts : (s.setDie n d).livePorts = s.livePorts := rfl
@[simp] theorem State.setDie_retrain : (s.setDie n d).retrain = s.retrain := rfl
@[simp] theorem State.setDie_service : (s.setDie n d).service = s.service := rfl
@[simp] theorem State.setDie_spdm : (s.setDie n d).spdm = s.spdm := rfl
@[simp] theorem State.setDie_liveDies : (s.setDie n d).liveDies = s.liveDies := rfl
@[simp] theorem State.setDie_liveCores : (s.setDie n d).liveCores = s.liveCores := rfl
@[simp] theorem State.setDie_liveStacks : (s.setDie n d).liveStacks = s.liveStacks := rfl
@[simp] theorem State.setDie_liveVaults : (s.setDie n d).liveVaults = s.liveVaults := rfl
end setDie

section mapDie
variable (s : State) (n : Nat) (f : Die → Die)
@[simp] theorem State.mapDie_clock : (s.mapDie n f).clock = s.clock := rfl
@[simp] theorem State.mapDie_freeIx : (s.mapDie n f).freeIx = s.freeIx := rfl
@[simp] theorem State.mapDie_agenda : (s.mapDie n f).agenda = s.agenda := rfl
@[simp] theorem State.mapDie_focusCore : (s.mapDie n f).focusCore = s.focusCore := rfl
@[simp] theorem State.mapDie_focusSlot : (s.mapDie n f).focusSlot = s.focusSlot := rfl
@[simp] theorem State.mapDie_mem : (s.mapDie n f).mem = s.mem := rfl
@[simp] theorem State.mapDie_poison : (s.mapDie n f).poison = s.poison := rfl
@[simp] theorem State.mapDie_pageCtr : (s.mapDie n f).pageCtr = s.pageCtr := rfl
@[simp] theorem State.mapDie_migReqs : (s.mapDie n f).migReqs = s.migReqs := rfl
@[simp] theorem State.mapDie_migrations : (s.mapDie n f).migrations = s.migrations := rfl
@[simp] theorem State.mapDie_crews : (s.mapDie n f).crews = s.crews := rfl
@[simp] theorem State.mapDie_bindRecs : (s.mapDie n f).bindRecs = s.bindRecs := rfl
@[simp] theorem State.mapDie_cores : (s.mapDie n f).cores = s.cores := rfl
@[simp] theorem State.mapDie_ctxs : (s.mapDie n f).ctxs = s.ctxs := rfl
@[simp] theorem State.mapDie_regions : (s.mapDie n f).regions = s.regions := rfl
@[simp] theorem State.mapDie_wdticks : (s.mapDie n f).wdticks = s.wdticks := rfl
@[simp] theorem State.mapDie_params : (s.mapDie n f).params = s.params := rfl
@[simp] theorem State.mapDie_tasks : (s.mapDie n f).tasks = s.tasks := rfl
@[simp] theorem State.mapDie_reserved : (s.mapDie n f).reserved = s.reserved := rfl
@[simp] theorem State.mapDie_doneStores : (s.mapDie n f).doneStores = s.doneStores := rfl
@[simp] theorem State.mapDie_coppices : (s.mapDie n f).coppices = s.coppices := rfl
@[simp] theorem State.mapDie_rings : (s.mapDie n f).rings = s.rings := rfl
@[simp] theorem State.mapDie_traces : (s.mapDie n f).traces = s.traces := rfl
@[simp] theorem State.mapDie_freeze : (s.mapDie n f).freeze = s.freeze := rfl
@[simp] theorem State.mapDie_escalations : (s.mapDie n f).escalations = s.escalations := rfl
@[simp] theorem State.mapDie_capsules : (s.mapDie n f).capsules = s.capsules := rfl
@[simp] theorem State.mapDie_capsuleCount : (s.mapDie n f).capsuleCount = s.capsuleCount := rfl
@[simp] theorem State.mapDie_boots : (s.mapDie n f).boots = s.boots := rfl
@[simp] theorem State.mapDie_current : (s.mapDie n f).current = s.current := rfl
@[simp] theorem State.mapDie_sliceStart : (s.mapDie n f).sliceStart = s.sliceStart := rfl
@[simp] theorem State.mapDie_switching : (s.mapDie n f).switching = s.switching := rfl
@[simp] theorem State.mapDie_pauses : (s.mapDie n f).pauses = s.pauses := rfl
@[simp] theorem State.mapDie_savedCtrs : (s.mapDie n f).savedCtrs = s.savedCtrs := rfl
@[simp] theorem State.mapDie_savedAreas : (s.mapDie n f).savedAreas = s.savedAreas := rfl
@[simp] theorem State.mapDie_funcs : (s.mapDie n f).funcs = s.funcs := rfl
@[simp] theorem State.mapDie_vfs : (s.mapDie n f).vfs = s.vfs := rfl
@[simp] theorem State.mapDie_rafts : (s.mapDie n f).rafts = s.rafts := rfl
@[simp] theorem State.mapDie_msgs : (s.mapDie n f).msgs = s.msgs := rfl
@[simp] theorem State.mapDie_netOut : (s.mapDie n f).netOut = s.netOut := rfl
@[simp] theorem State.mapDie_msgDrops : (s.mapDie n f).msgDrops = s.msgDrops := rfl
@[simp] theorem State.mapDie_devnum : (s.mapDie n f).devnum = s.devnum := rfl
@[simp] theorem State.mapDie_livePorts : (s.mapDie n f).livePorts = s.livePorts := rfl
@[simp] theorem State.mapDie_retrain : (s.mapDie n f).retrain = s.retrain := rfl
@[simp] theorem State.mapDie_service : (s.mapDie n f).service = s.service := rfl
@[simp] theorem State.mapDie_spdm : (s.mapDie n f).spdm = s.spdm := rfl
@[simp] theorem State.mapDie_liveDies : (s.mapDie n f).liveDies = s.liveDies := rfl
@[simp] theorem State.mapDie_liveCores : (s.mapDie n f).liveCores = s.liveCores := rfl
@[simp] theorem State.mapDie_liveStacks : (s.mapDie n f).liveStacks = s.liveStacks := rfl
@[simp] theorem State.mapDie_liveVaults : (s.mapDie n f).liveVaults = s.liveVaults := rfl
end mapDie

section mapCtx
variable (s : State) (n : Nat) (f : Ctx → Ctx)
@[simp] theorem State.mapCtx_clock : (s.mapCtx n f).clock = s.clock := by unfold State.mapCtx; split <;> rfl
@[simp] theorem State.mapCtx_freeIx : (s.mapCtx n f).freeIx = s.freeIx := by unfold State.mapCtx; split <;> rfl
@[simp] theorem State.mapCtx_agenda : (s.mapCtx n f).agenda = s.agenda := by unfold State.mapCtx; split <;> rfl
@[simp] theorem State.mapCtx_focusCore : (s.mapCtx n f).focusCore = s.focusCore := by unfold State.mapCtx; split <;> rfl
@[simp] theorem State.mapCtx_focusSlot : (s.mapCtx n f).focusSlot = s.focusSlot := by unfold State.mapCtx; split <;> rfl
@[simp] theorem State.mapCtx_mem : (s.mapCtx n f).mem = s.mem := by unfold State.mapCtx; split <;> rfl
@[simp] theorem State.mapCtx_poison : (s.mapCtx n f).poison = s.poison := by unfold State.mapCtx; split <;> rfl
@[simp] theorem State.mapCtx_pageCtr : (s.mapCtx n f).pageCtr = s.pageCtr := by unfold State.mapCtx; split <;> rfl
@[simp] theorem State.mapCtx_migReqs : (s.mapCtx n f).migReqs = s.migReqs := by unfold State.mapCtx; split <;> rfl
@[simp] theorem State.mapCtx_migrations : (s.mapCtx n f).migrations = s.migrations := by unfold State.mapCtx; split <;> rfl
@[simp] theorem State.mapCtx_crews : (s.mapCtx n f).crews = s.crews := by unfold State.mapCtx; split <;> rfl
@[simp] theorem State.mapCtx_bindRecs : (s.mapCtx n f).bindRecs = s.bindRecs := by unfold State.mapCtx; split <;> rfl
@[simp] theorem State.mapCtx_cores : (s.mapCtx n f).cores = s.cores := by unfold State.mapCtx; split <;> rfl
@[simp] theorem State.mapCtx_dies : (s.mapCtx n f).dies = s.dies := by unfold State.mapCtx; split <;> rfl
@[simp] theorem State.mapCtx_regions : (s.mapCtx n f).regions = s.regions := by unfold State.mapCtx; split <;> rfl
@[simp] theorem State.mapCtx_wdticks : (s.mapCtx n f).wdticks = s.wdticks := by unfold State.mapCtx; split <;> rfl
@[simp] theorem State.mapCtx_params : (s.mapCtx n f).params = s.params := by unfold State.mapCtx; split <;> rfl
@[simp] theorem State.mapCtx_tasks : (s.mapCtx n f).tasks = s.tasks := by unfold State.mapCtx; split <;> rfl
@[simp] theorem State.mapCtx_reserved : (s.mapCtx n f).reserved = s.reserved := by unfold State.mapCtx; split <;> rfl
@[simp] theorem State.mapCtx_doneStores : (s.mapCtx n f).doneStores = s.doneStores := by unfold State.mapCtx; split <;> rfl
@[simp] theorem State.mapCtx_coppices : (s.mapCtx n f).coppices = s.coppices := by unfold State.mapCtx; split <;> rfl
@[simp] theorem State.mapCtx_rings : (s.mapCtx n f).rings = s.rings := by unfold State.mapCtx; split <;> rfl
@[simp] theorem State.mapCtx_traces : (s.mapCtx n f).traces = s.traces := by unfold State.mapCtx; split <;> rfl
@[simp] theorem State.mapCtx_freeze : (s.mapCtx n f).freeze = s.freeze := by unfold State.mapCtx; split <;> rfl
@[simp] theorem State.mapCtx_escalations : (s.mapCtx n f).escalations = s.escalations := by unfold State.mapCtx; split <;> rfl
@[simp] theorem State.mapCtx_capsules : (s.mapCtx n f).capsules = s.capsules := by unfold State.mapCtx; split <;> rfl
@[simp] theorem State.mapCtx_capsuleCount : (s.mapCtx n f).capsuleCount = s.capsuleCount := by unfold State.mapCtx; split <;> rfl
@[simp] theorem State.mapCtx_boots : (s.mapCtx n f).boots = s.boots := by unfold State.mapCtx; split <;> rfl
@[simp] theorem State.mapCtx_current : (s.mapCtx n f).current = s.current := by unfold State.mapCtx; split <;> rfl
@[simp] theorem State.mapCtx_sliceStart : (s.mapCtx n f).sliceStart = s.sliceStart := by unfold State.mapCtx; split <;> rfl
@[simp] theorem State.mapCtx_switching : (s.mapCtx n f).switching = s.switching := by unfold State.mapCtx; split <;> rfl
@[simp] theorem State.mapCtx_pauses : (s.mapCtx n f).pauses = s.pauses := by unfold State.mapCtx; split <;> rfl
@[simp] theorem State.mapCtx_savedCtrs : (s.mapCtx n f).savedCtrs = s.savedCtrs := by unfold State.mapCtx; split <;> rfl
@[simp] theorem State.mapCtx_savedAreas : (s.mapCtx n f).savedAreas = s.savedAreas := by unfold State.mapCtx; split <;> rfl
@[simp] theorem State.mapCtx_funcs : (s.mapCtx n f).funcs = s.funcs := by unfold State.mapCtx; split <;> rfl
@[simp] theorem State.mapCtx_vfs : (s.mapCtx n f).vfs = s.vfs := by unfold State.mapCtx; split <;> rfl
@[simp] theorem State.mapCtx_rafts : (s.mapCtx n f).rafts = s.rafts := by unfold State.mapCtx; split <;> rfl
@[simp] theorem State.mapCtx_msgs : (s.mapCtx n f).msgs = s.msgs := by unfold State.mapCtx; split <;> rfl
@[simp] theorem State.mapCtx_netOut : (s.mapCtx n f).netOut = s.netOut := by unfold State.mapCtx; split <;> rfl
@[simp] theorem State.mapCtx_msgDrops : (s.mapCtx n f).msgDrops = s.msgDrops := by unfold State.mapCtx; split <;> rfl
@[simp] theorem State.mapCtx_devnum : (s.mapCtx n f).devnum = s.devnum := by unfold State.mapCtx; split <;> rfl
@[simp] theorem State.mapCtx_livePorts : (s.mapCtx n f).livePorts = s.livePorts := by unfold State.mapCtx; split <;> rfl
@[simp] theorem State.mapCtx_retrain : (s.mapCtx n f).retrain = s.retrain := by unfold State.mapCtx; split <;> rfl
@[simp] theorem State.mapCtx_service : (s.mapCtx n f).service = s.service := by unfold State.mapCtx; split <;> rfl
@[simp] theorem State.mapCtx_spdm : (s.mapCtx n f).spdm = s.spdm := by unfold State.mapCtx; split <;> rfl
@[simp] theorem State.mapCtx_liveDies : (s.mapCtx n f).liveDies = s.liveDies := by unfold State.mapCtx; split <;> rfl
@[simp] theorem State.mapCtx_liveCores : (s.mapCtx n f).liveCores = s.liveCores := by unfold State.mapCtx; split <;> rfl
@[simp] theorem State.mapCtx_liveStacks : (s.mapCtx n f).liveStacks = s.liveStacks := by unfold State.mapCtx; split <;> rfl
@[simp] theorem State.mapCtx_liveVaults : (s.mapCtx n f).liveVaults = s.liveVaults := by unfold State.mapCtx; split <;> rfl
end mapCtx

section mapRegion
variable (s : State) (k : Nat) (f : Region → Region)
@[simp] theorem State.mapRegion_clock : (s.mapRegion k f).clock = s.clock := by unfold State.mapRegion; split <;> rfl
@[simp] theorem State.mapRegion_freeIx : (s.mapRegion k f).freeIx = s.freeIx := by unfold State.mapRegion; split <;> rfl
@[simp] theorem State.mapRegion_agenda : (s.mapRegion k f).agenda = s.agenda := by unfold State.mapRegion; split <;> rfl
@[simp] theorem State.mapRegion_focusCore : (s.mapRegion k f).focusCore = s.focusCore := by unfold State.mapRegion; split <;> rfl
@[simp] theorem State.mapRegion_focusSlot : (s.mapRegion k f).focusSlot = s.focusSlot := by unfold State.mapRegion; split <;> rfl
@[simp] theorem State.mapRegion_mem : (s.mapRegion k f).mem = s.mem := by unfold State.mapRegion; split <;> rfl
@[simp] theorem State.mapRegion_poison : (s.mapRegion k f).poison = s.poison := by unfold State.mapRegion; split <;> rfl
@[simp] theorem State.mapRegion_pageCtr : (s.mapRegion k f).pageCtr = s.pageCtr := by unfold State.mapRegion; split <;> rfl
@[simp] theorem State.mapRegion_migReqs : (s.mapRegion k f).migReqs = s.migReqs := by unfold State.mapRegion; split <;> rfl
@[simp] theorem State.mapRegion_migrations : (s.mapRegion k f).migrations = s.migrations := by unfold State.mapRegion; split <;> rfl
@[simp] theorem State.mapRegion_crews : (s.mapRegion k f).crews = s.crews := by unfold State.mapRegion; split <;> rfl
@[simp] theorem State.mapRegion_bindRecs : (s.mapRegion k f).bindRecs = s.bindRecs := by unfold State.mapRegion; split <;> rfl
@[simp] theorem State.mapRegion_cores : (s.mapRegion k f).cores = s.cores := by unfold State.mapRegion; split <;> rfl
@[simp] theorem State.mapRegion_dies : (s.mapRegion k f).dies = s.dies := by unfold State.mapRegion; split <;> rfl
@[simp] theorem State.mapRegion_ctxs : (s.mapRegion k f).ctxs = s.ctxs := by unfold State.mapRegion; split <;> rfl
@[simp] theorem State.mapRegion_wdticks : (s.mapRegion k f).wdticks = s.wdticks := by unfold State.mapRegion; split <;> rfl
@[simp] theorem State.mapRegion_params : (s.mapRegion k f).params = s.params := by unfold State.mapRegion; split <;> rfl
@[simp] theorem State.mapRegion_tasks : (s.mapRegion k f).tasks = s.tasks := by unfold State.mapRegion; split <;> rfl
@[simp] theorem State.mapRegion_reserved : (s.mapRegion k f).reserved = s.reserved := by unfold State.mapRegion; split <;> rfl
@[simp] theorem State.mapRegion_doneStores : (s.mapRegion k f).doneStores = s.doneStores := by unfold State.mapRegion; split <;> rfl
@[simp] theorem State.mapRegion_coppices : (s.mapRegion k f).coppices = s.coppices := by unfold State.mapRegion; split <;> rfl
@[simp] theorem State.mapRegion_rings : (s.mapRegion k f).rings = s.rings := by unfold State.mapRegion; split <;> rfl
@[simp] theorem State.mapRegion_traces : (s.mapRegion k f).traces = s.traces := by unfold State.mapRegion; split <;> rfl
@[simp] theorem State.mapRegion_freeze : (s.mapRegion k f).freeze = s.freeze := by unfold State.mapRegion; split <;> rfl
@[simp] theorem State.mapRegion_escalations : (s.mapRegion k f).escalations = s.escalations := by unfold State.mapRegion; split <;> rfl
@[simp] theorem State.mapRegion_capsules : (s.mapRegion k f).capsules = s.capsules := by unfold State.mapRegion; split <;> rfl
@[simp] theorem State.mapRegion_capsuleCount : (s.mapRegion k f).capsuleCount = s.capsuleCount := by unfold State.mapRegion; split <;> rfl
@[simp] theorem State.mapRegion_boots : (s.mapRegion k f).boots = s.boots := by unfold State.mapRegion; split <;> rfl
@[simp] theorem State.mapRegion_current : (s.mapRegion k f).current = s.current := by unfold State.mapRegion; split <;> rfl
@[simp] theorem State.mapRegion_sliceStart : (s.mapRegion k f).sliceStart = s.sliceStart := by unfold State.mapRegion; split <;> rfl
@[simp] theorem State.mapRegion_switching : (s.mapRegion k f).switching = s.switching := by unfold State.mapRegion; split <;> rfl
@[simp] theorem State.mapRegion_pauses : (s.mapRegion k f).pauses = s.pauses := by unfold State.mapRegion; split <;> rfl
@[simp] theorem State.mapRegion_savedCtrs : (s.mapRegion k f).savedCtrs = s.savedCtrs := by unfold State.mapRegion; split <;> rfl
@[simp] theorem State.mapRegion_savedAreas : (s.mapRegion k f).savedAreas = s.savedAreas := by unfold State.mapRegion; split <;> rfl
@[simp] theorem State.mapRegion_funcs : (s.mapRegion k f).funcs = s.funcs := by unfold State.mapRegion; split <;> rfl
@[simp] theorem State.mapRegion_vfs : (s.mapRegion k f).vfs = s.vfs := by unfold State.mapRegion; split <;> rfl
@[simp] theorem State.mapRegion_rafts : (s.mapRegion k f).rafts = s.rafts := by unfold State.mapRegion; split <;> rfl
@[simp] theorem State.mapRegion_msgs : (s.mapRegion k f).msgs = s.msgs := by unfold State.mapRegion; split <;> rfl
@[simp] theorem State.mapRegion_netOut : (s.mapRegion k f).netOut = s.netOut := by unfold State.mapRegion; split <;> rfl
@[simp] theorem State.mapRegion_msgDrops : (s.mapRegion k f).msgDrops = s.msgDrops := by unfold State.mapRegion; split <;> rfl
@[simp] theorem State.mapRegion_devnum : (s.mapRegion k f).devnum = s.devnum := by unfold State.mapRegion; split <;> rfl
@[simp] theorem State.mapRegion_livePorts : (s.mapRegion k f).livePorts = s.livePorts := by unfold State.mapRegion; split <;> rfl
@[simp] theorem State.mapRegion_retrain : (s.mapRegion k f).retrain = s.retrain := by unfold State.mapRegion; split <;> rfl
@[simp] theorem State.mapRegion_service : (s.mapRegion k f).service = s.service := by unfold State.mapRegion; split <;> rfl
@[simp] theorem State.mapRegion_spdm : (s.mapRegion k f).spdm = s.spdm := by unfold State.mapRegion; split <;> rfl
@[simp] theorem State.mapRegion_liveDies : (s.mapRegion k f).liveDies = s.liveDies := by unfold State.mapRegion; split <;> rfl
@[simp] theorem State.mapRegion_liveCores : (s.mapRegion k f).liveCores = s.liveCores := by unfold State.mapRegion; split <;> rfl
@[simp] theorem State.mapRegion_liveStacks : (s.mapRegion k f).liveStacks = s.liveStacks := by unfold State.mapRegion; split <;> rfl
@[simp] theorem State.mapRegion_liveVaults : (s.mapRegion k f).liveVaults = s.liveVaults := by unfold State.mapRegion; split <;> rfl
end mapRegion

section setByte
variable (s : State) (a : Nat) (x : Byte)
@[simp] theorem State.setByte_clock : (s.setByte a x).clock = s.clock := rfl
@[simp] theorem State.setByte_freeIx : (s.setByte a x).freeIx = s.freeIx := rfl
@[simp] theorem State.setByte_agenda : (s.setByte a x).agenda = s.agenda := rfl
@[simp] theorem State.setByte_focusCore : (s.setByte a x).focusCore = s.focusCore := rfl
@[simp] theorem State.setByte_focusSlot : (s.setByte a x).focusSlot = s.focusSlot := rfl
@[simp] theorem State.setByte_poison : (s.setByte a x).poison = s.poison := rfl
@[simp] theorem State.setByte_pageCtr : (s.setByte a x).pageCtr = s.pageCtr := rfl
@[simp] theorem State.setByte_migReqs : (s.setByte a x).migReqs = s.migReqs := rfl
@[simp] theorem State.setByte_migrations : (s.setByte a x).migrations = s.migrations := rfl
@[simp] theorem State.setByte_crews : (s.setByte a x).crews = s.crews := rfl
@[simp] theorem State.setByte_bindRecs : (s.setByte a x).bindRecs = s.bindRecs := rfl
@[simp] theorem State.setByte_cores : (s.setByte a x).cores = s.cores := rfl
@[simp] theorem State.setByte_dies : (s.setByte a x).dies = s.dies := rfl
@[simp] theorem State.setByte_ctxs : (s.setByte a x).ctxs = s.ctxs := rfl
@[simp] theorem State.setByte_regions : (s.setByte a x).regions = s.regions := rfl
@[simp] theorem State.setByte_wdticks : (s.setByte a x).wdticks = s.wdticks := rfl
@[simp] theorem State.setByte_params : (s.setByte a x).params = s.params := rfl
@[simp] theorem State.setByte_tasks : (s.setByte a x).tasks = s.tasks := rfl
@[simp] theorem State.setByte_reserved : (s.setByte a x).reserved = s.reserved := rfl
@[simp] theorem State.setByte_doneStores : (s.setByte a x).doneStores = s.doneStores := rfl
@[simp] theorem State.setByte_coppices : (s.setByte a x).coppices = s.coppices := rfl
@[simp] theorem State.setByte_rings : (s.setByte a x).rings = s.rings := rfl
@[simp] theorem State.setByte_traces : (s.setByte a x).traces = s.traces := rfl
@[simp] theorem State.setByte_freeze : (s.setByte a x).freeze = s.freeze := rfl
@[simp] theorem State.setByte_escalations : (s.setByte a x).escalations = s.escalations := rfl
@[simp] theorem State.setByte_capsules : (s.setByte a x).capsules = s.capsules := rfl
@[simp] theorem State.setByte_capsuleCount : (s.setByte a x).capsuleCount = s.capsuleCount := rfl
@[simp] theorem State.setByte_boots : (s.setByte a x).boots = s.boots := rfl
@[simp] theorem State.setByte_current : (s.setByte a x).current = s.current := rfl
@[simp] theorem State.setByte_sliceStart : (s.setByte a x).sliceStart = s.sliceStart := rfl
@[simp] theorem State.setByte_switching : (s.setByte a x).switching = s.switching := rfl
@[simp] theorem State.setByte_pauses : (s.setByte a x).pauses = s.pauses := rfl
@[simp] theorem State.setByte_savedCtrs : (s.setByte a x).savedCtrs = s.savedCtrs := rfl
@[simp] theorem State.setByte_savedAreas : (s.setByte a x).savedAreas = s.savedAreas := rfl
@[simp] theorem State.setByte_funcs : (s.setByte a x).funcs = s.funcs := rfl
@[simp] theorem State.setByte_vfs : (s.setByte a x).vfs = s.vfs := rfl
@[simp] theorem State.setByte_rafts : (s.setByte a x).rafts = s.rafts := rfl
@[simp] theorem State.setByte_msgs : (s.setByte a x).msgs = s.msgs := rfl
@[simp] theorem State.setByte_netOut : (s.setByte a x).netOut = s.netOut := rfl
@[simp] theorem State.setByte_msgDrops : (s.setByte a x).msgDrops = s.msgDrops := rfl
@[simp] theorem State.setByte_devnum : (s.setByte a x).devnum = s.devnum := rfl
@[simp] theorem State.setByte_livePorts : (s.setByte a x).livePorts = s.livePorts := rfl
@[simp] theorem State.setByte_retrain : (s.setByte a x).retrain = s.retrain := rfl
@[simp] theorem State.setByte_service : (s.setByte a x).service = s.service := rfl
@[simp] theorem State.setByte_spdm : (s.setByte a x).spdm = s.spdm := rfl
@[simp] theorem State.setByte_liveDies : (s.setByte a x).liveDies = s.liveDies := rfl
@[simp] theorem State.setByte_liveCores : (s.setByte a x).liveCores = s.liveCores := rfl
@[simp] theorem State.setByte_liveStacks : (s.setByte a x).liveStacks = s.liveStacks := rfl
@[simp] theorem State.setByte_liveVaults : (s.setByte a x).liveVaults = s.liveVaults := rfl
end setByte

section takeFree
variable (s : State)
@[simp] theorem State.takeFree_clock : s.takeFree.2.clock = s.clock := rfl
@[simp] theorem State.takeFree_agenda : s.takeFree.2.agenda = s.agenda := rfl
@[simp] theorem State.takeFree_focusCore : s.takeFree.2.focusCore = s.focusCore := rfl
@[simp] theorem State.takeFree_focusSlot : s.takeFree.2.focusSlot = s.focusSlot := rfl
@[simp] theorem State.takeFree_mem : s.takeFree.2.mem = s.mem := rfl
@[simp] theorem State.takeFree_poison : s.takeFree.2.poison = s.poison := rfl
@[simp] theorem State.takeFree_pageCtr : s.takeFree.2.pageCtr = s.pageCtr := rfl
@[simp] theorem State.takeFree_migReqs : s.takeFree.2.migReqs = s.migReqs := rfl
@[simp] theorem State.takeFree_migrations : s.takeFree.2.migrations = s.migrations := rfl
@[simp] theorem State.takeFree_crews : s.takeFree.2.crews = s.crews := rfl
@[simp] theorem State.takeFree_bindRecs : s.takeFree.2.bindRecs = s.bindRecs := rfl
@[simp] theorem State.takeFree_cores : s.takeFree.2.cores = s.cores := rfl
@[simp] theorem State.takeFree_dies : s.takeFree.2.dies = s.dies := rfl
@[simp] theorem State.takeFree_ctxs : s.takeFree.2.ctxs = s.ctxs := rfl
@[simp] theorem State.takeFree_regions : s.takeFree.2.regions = s.regions := rfl
@[simp] theorem State.takeFree_wdticks : s.takeFree.2.wdticks = s.wdticks := rfl
@[simp] theorem State.takeFree_params : s.takeFree.2.params = s.params := rfl
@[simp] theorem State.takeFree_tasks : s.takeFree.2.tasks = s.tasks := rfl
@[simp] theorem State.takeFree_reserved : s.takeFree.2.reserved = s.reserved := rfl
@[simp] theorem State.takeFree_doneStores : s.takeFree.2.doneStores = s.doneStores := rfl
@[simp] theorem State.takeFree_coppices : s.takeFree.2.coppices = s.coppices := rfl
@[simp] theorem State.takeFree_rings : s.takeFree.2.rings = s.rings := rfl
@[simp] theorem State.takeFree_traces : s.takeFree.2.traces = s.traces := rfl
@[simp] theorem State.takeFree_freeze : s.takeFree.2.freeze = s.freeze := rfl
@[simp] theorem State.takeFree_escalations : s.takeFree.2.escalations = s.escalations := rfl
@[simp] theorem State.takeFree_capsules : s.takeFree.2.capsules = s.capsules := rfl
@[simp] theorem State.takeFree_capsuleCount : s.takeFree.2.capsuleCount = s.capsuleCount := rfl
@[simp] theorem State.takeFree_boots : s.takeFree.2.boots = s.boots := rfl
@[simp] theorem State.takeFree_current : s.takeFree.2.current = s.current := rfl
@[simp] theorem State.takeFree_sliceStart : s.takeFree.2.sliceStart = s.sliceStart := rfl
@[simp] theorem State.takeFree_switching : s.takeFree.2.switching = s.switching := rfl
@[simp] theorem State.takeFree_pauses : s.takeFree.2.pauses = s.pauses := rfl
@[simp] theorem State.takeFree_savedCtrs : s.takeFree.2.savedCtrs = s.savedCtrs := rfl
@[simp] theorem State.takeFree_savedAreas : s.takeFree.2.savedAreas = s.savedAreas := rfl
@[simp] theorem State.takeFree_funcs : s.takeFree.2.funcs = s.funcs := rfl
@[simp] theorem State.takeFree_vfs : s.takeFree.2.vfs = s.vfs := rfl
@[simp] theorem State.takeFree_rafts : s.takeFree.2.rafts = s.rafts := rfl
@[simp] theorem State.takeFree_msgs : s.takeFree.2.msgs = s.msgs := rfl
@[simp] theorem State.takeFree_netOut : s.takeFree.2.netOut = s.netOut := rfl
@[simp] theorem State.takeFree_msgDrops : s.takeFree.2.msgDrops = s.msgDrops := rfl
@[simp] theorem State.takeFree_devnum : s.takeFree.2.devnum = s.devnum := rfl
@[simp] theorem State.takeFree_livePorts : s.takeFree.2.livePorts = s.livePorts := rfl
@[simp] theorem State.takeFree_retrain : s.takeFree.2.retrain = s.retrain := rfl
@[simp] theorem State.takeFree_service : s.takeFree.2.service = s.service := rfl
@[simp] theorem State.takeFree_spdm : s.takeFree.2.spdm = s.spdm := rfl
@[simp] theorem State.takeFree_liveDies : s.takeFree.2.liveDies = s.liveDies := rfl
@[simp] theorem State.takeFree_liveCores : s.takeFree.2.liveCores = s.liveCores := rfl
@[simp] theorem State.takeFree_liveStacks : s.takeFree.2.liveStacks = s.liveStacks := rfl
@[simp] theorem State.takeFree_liveVaults : s.takeFree.2.liveVaults = s.liveVaults := rfl
end takeFree

section record
variable (s : State) (r : SMap Ring) (n tag cls type who payload : Nat)
theorem State.withRings_clock : ({ s with rings := r } : State).clock = s.clock := rfl
@[simp] theorem State.record_clock : (s.record n tag cls type who payload).clock = s.clock := State.withRings_clock s _
theorem State.withRings_freeIx : ({ s with rings := r } : State).freeIx = s.freeIx := rfl
@[simp] theorem State.record_freeIx : (s.record n tag cls type who payload).freeIx = s.freeIx := State.withRings_freeIx s _
theorem State.withRings_agenda : ({ s with rings := r } : State).agenda = s.agenda := rfl
@[simp] theorem State.record_agenda : (s.record n tag cls type who payload).agenda = s.agenda := State.withRings_agenda s _
theorem State.withRings_focusCore : ({ s with rings := r } : State).focusCore = s.focusCore := rfl
@[simp] theorem State.record_focusCore : (s.record n tag cls type who payload).focusCore = s.focusCore := State.withRings_focusCore s _
theorem State.withRings_focusSlot : ({ s with rings := r } : State).focusSlot = s.focusSlot := rfl
@[simp] theorem State.record_focusSlot : (s.record n tag cls type who payload).focusSlot = s.focusSlot := State.withRings_focusSlot s _
theorem State.withRings_mem : ({ s with rings := r } : State).mem = s.mem := rfl
@[simp] theorem State.record_mem : (s.record n tag cls type who payload).mem = s.mem := State.withRings_mem s _
theorem State.withRings_poison : ({ s with rings := r } : State).poison = s.poison := rfl
@[simp] theorem State.record_poison : (s.record n tag cls type who payload).poison = s.poison := State.withRings_poison s _
theorem State.withRings_pageCtr : ({ s with rings := r } : State).pageCtr = s.pageCtr := rfl
@[simp] theorem State.record_pageCtr : (s.record n tag cls type who payload).pageCtr = s.pageCtr := State.withRings_pageCtr s _
theorem State.withRings_migReqs : ({ s with rings := r } : State).migReqs = s.migReqs := rfl
theorem State.withRings_migrations : ({ s with rings := r } : State).migrations = s.migrations := rfl
@[simp] theorem State.record_migReqs : (s.record n tag cls type who payload).migReqs = s.migReqs := State.withRings_migReqs s _
@[simp] theorem State.record_migrations : (s.record n tag cls type who payload).migrations = s.migrations := State.withRings_migrations s _
theorem State.withRings_crews : ({ s with rings := r } : State).crews = s.crews := rfl
@[simp] theorem State.record_crews : (s.record n tag cls type who payload).crews = s.crews := State.withRings_crews s _
theorem State.withRings_bindRecs : ({ s with rings := r } : State).bindRecs = s.bindRecs := rfl
@[simp] theorem State.record_bindRecs : (s.record n tag cls type who payload).bindRecs = s.bindRecs := State.withRings_bindRecs s _
theorem State.withRings_cores : ({ s with rings := r } : State).cores = s.cores := rfl
@[simp] theorem State.record_cores : (s.record n tag cls type who payload).cores = s.cores := State.withRings_cores s _
theorem State.withRings_dies : ({ s with rings := r } : State).dies = s.dies := rfl
@[simp] theorem State.record_dies : (s.record n tag cls type who payload).dies = s.dies := State.withRings_dies s _
theorem State.withRings_ctxs : ({ s with rings := r } : State).ctxs = s.ctxs := rfl
@[simp] theorem State.record_ctxs : (s.record n tag cls type who payload).ctxs = s.ctxs := State.withRings_ctxs s _
theorem State.withRings_regions : ({ s with rings := r } : State).regions = s.regions := rfl
@[simp] theorem State.record_regions : (s.record n tag cls type who payload).regions = s.regions := State.withRings_regions s _
theorem State.withRings_wdticks : ({ s with rings := r } : State).wdticks = s.wdticks := rfl
@[simp] theorem State.record_wdticks : (s.record n tag cls type who payload).wdticks = s.wdticks := State.withRings_wdticks s _
theorem State.withRings_params : ({ s with rings := r } : State).params = s.params := rfl
@[simp] theorem State.record_params : (s.record n tag cls type who payload).params = s.params := State.withRings_params s _
theorem State.withRings_tasks : ({ s with rings := r } : State).tasks = s.tasks := rfl
@[simp] theorem State.record_tasks : (s.record n tag cls type who payload).tasks = s.tasks := State.withRings_tasks s _
theorem State.withRings_reserved : ({ s with rings := r } : State).reserved = s.reserved := rfl
@[simp] theorem State.record_reserved : (s.record n tag cls type who payload).reserved = s.reserved := State.withRings_reserved s _
theorem State.withRings_doneStores : ({ s with rings := r } : State).doneStores = s.doneStores := rfl
@[simp] theorem State.record_doneStores : (s.record n tag cls type who payload).doneStores = s.doneStores := State.withRings_doneStores s _
theorem State.withRings_coppices : ({ s with rings := r } : State).coppices = s.coppices := rfl
@[simp] theorem State.record_coppices : (s.record n tag cls type who payload).coppices = s.coppices := State.withRings_coppices s _
theorem State.withRings_traces : ({ s with rings := r } : State).traces = s.traces := rfl
@[simp] theorem State.record_traces : (s.record n tag cls type who payload).traces = s.traces := State.withRings_traces s _
theorem State.withRings_freeze : ({ s with rings := r } : State).freeze = s.freeze := rfl
theorem State.withRings_escalations : ({ s with rings := r } : State).escalations = s.escalations := rfl
@[simp] theorem State.record_freeze : (s.record n tag cls type who payload).freeze = s.freeze := State.withRings_freeze s _
@[simp] theorem State.record_escalations : (s.record n tag cls type who payload).escalations = s.escalations := State.withRings_escalations s _
theorem State.withRings_capsules : ({ s with rings := r } : State).capsules = s.capsules := rfl
@[simp] theorem State.record_capsules : (s.record n tag cls type who payload).capsules = s.capsules := State.withRings_capsules s _
theorem State.withRings_capsuleCount : ({ s with rings := r } : State).capsuleCount = s.capsuleCount := rfl
@[simp] theorem State.record_capsuleCount : (s.record n tag cls type who payload).capsuleCount = s.capsuleCount := State.withRings_capsuleCount s _
theorem State.withRings_boots : ({ s with rings := r } : State).boots = s.boots := rfl
@[simp] theorem State.record_boots : (s.record n tag cls type who payload).boots = s.boots := State.withRings_boots s _
theorem State.withRings_current : ({ s with rings := r } : State).current = s.current := rfl
@[simp] theorem State.record_current : (s.record n tag cls type who payload).current = s.current := State.withRings_current s _
theorem State.withRings_sliceStart : ({ s with rings := r } : State).sliceStart = s.sliceStart := rfl
theorem State.withRings_switching : ({ s with rings := r } : State).switching = s.switching := rfl
theorem State.withRings_pauses : ({ s with rings := r } : State).pauses = s.pauses := rfl
@[simp] theorem State.record_sliceStart : (s.record n tag cls type who payload).sliceStart = s.sliceStart := State.withRings_sliceStart s _
@[simp] theorem State.record_switching : (s.record n tag cls type who payload).switching = s.switching := State.withRings_switching s _
@[simp] theorem State.record_pauses : (s.record n tag cls type who payload).pauses = s.pauses := State.withRings_pauses s _
theorem State.withRings_savedCtrs : ({ s with rings := r } : State).savedCtrs = s.savedCtrs := rfl
@[simp] theorem State.record_savedCtrs : (s.record n tag cls type who payload).savedCtrs = s.savedCtrs := State.withRings_savedCtrs s _
theorem State.withRings_savedAreas : ({ s with rings := r } : State).savedAreas = s.savedAreas := rfl
@[simp] theorem State.record_savedAreas : (s.record n tag cls type who payload).savedAreas = s.savedAreas := State.withRings_savedAreas s _
theorem State.withRings_funcs : ({ s with rings := r } : State).funcs = s.funcs := rfl
@[simp] theorem State.record_funcs : (s.record n tag cls type who payload).funcs = s.funcs := State.withRings_funcs s _
theorem State.withRings_vfs : ({ s with rings := r } : State).vfs = s.vfs := rfl
@[simp] theorem State.record_vfs : (s.record n tag cls type who payload).vfs = s.vfs := State.withRings_vfs s _
theorem State.withRings_rafts : ({ s with rings := r } : State).rafts = s.rafts := rfl
@[simp] theorem State.record_rafts : (s.record n tag cls type who payload).rafts = s.rafts := State.withRings_rafts s _
theorem State.withRings_msgs : ({ s with rings := r } : State).msgs = s.msgs := rfl
@[simp] theorem State.record_msgs : (s.record n tag cls type who payload).msgs = s.msgs := State.withRings_msgs s _
theorem State.withRings_netOut : ({ s with rings := r } : State).netOut = s.netOut := rfl
@[simp] theorem State.record_netOut : (s.record n tag cls type who payload).netOut = s.netOut := State.withRings_netOut s _
theorem State.withRings_msgDrops : ({ s with rings := r } : State).msgDrops = s.msgDrops := rfl
@[simp] theorem State.record_msgDrops : (s.record n tag cls type who payload).msgDrops = s.msgDrops := State.withRings_msgDrops s _
theorem State.withRings_devnum : ({ s with rings := r } : State).devnum = s.devnum := rfl
@[simp] theorem State.record_devnum : (s.record n tag cls type who payload).devnum = s.devnum := State.withRings_devnum s _
theorem State.withRings_livePorts : ({ s with rings := r } : State).livePorts = s.livePorts := rfl
@[simp] theorem State.record_livePorts : (s.record n tag cls type who payload).livePorts = s.livePorts := State.withRings_livePorts s _
theorem State.withRings_retrain : ({ s with rings := r } : State).retrain = s.retrain := rfl
@[simp] theorem State.record_retrain : (s.record n tag cls type who payload).retrain = s.retrain := State.withRings_retrain s _
theorem State.withRings_service : ({ s with rings := r } : State).service = s.service := rfl
@[simp] theorem State.record_service : (s.record n tag cls type who payload).service = s.service := State.withRings_service s _
theorem State.withRings_spdm : ({ s with rings := r } : State).spdm = s.spdm := rfl
@[simp] theorem State.record_spdm : (s.record n tag cls type who payload).spdm = s.spdm := State.withRings_spdm s _
theorem State.withRings_liveDies : ({ s with rings := r } : State).liveDies = s.liveDies := rfl
@[simp] theorem State.record_liveDies : (s.record n tag cls type who payload).liveDies = s.liveDies := State.withRings_liveDies s _
theorem State.withRings_liveCores : ({ s with rings := r } : State).liveCores = s.liveCores := rfl
@[simp] theorem State.record_liveCores : (s.record n tag cls type who payload).liveCores = s.liveCores := State.withRings_liveCores s _
theorem State.withRings_liveStacks : ({ s with rings := r } : State).liveStacks = s.liveStacks := rfl
@[simp] theorem State.record_liveStacks : (s.record n tag cls type who payload).liveStacks = s.liveStacks := State.withRings_liveStacks s _
theorem State.withRings_liveVaults : ({ s with rings := r } : State).liveVaults = s.liveVaults := rfl
@[simp] theorem State.record_liveVaults : (s.record n tag cls type who payload).liveVaults = s.liveVaults := State.withRings_liveVaults s _
end record

section mapFunc
variable (s : State) (r : SMap Func) (n : Nat) (f : Func → Func)
theorem State.withFuncs_clock : ({ s with funcs := r } : State).clock = s.clock := rfl
@[simp] theorem State.mapFunc_clock : (s.mapFunc n f).clock = s.clock := State.withFuncs_clock s _
theorem State.withFuncs_freeIx : ({ s with funcs := r } : State).freeIx = s.freeIx := rfl
@[simp] theorem State.mapFunc_freeIx : (s.mapFunc n f).freeIx = s.freeIx := State.withFuncs_freeIx s _
theorem State.withFuncs_agenda : ({ s with funcs := r } : State).agenda = s.agenda := rfl
@[simp] theorem State.mapFunc_agenda : (s.mapFunc n f).agenda = s.agenda := State.withFuncs_agenda s _
theorem State.withFuncs_focusCore : ({ s with funcs := r } : State).focusCore = s.focusCore := rfl
@[simp] theorem State.mapFunc_focusCore : (s.mapFunc n f).focusCore = s.focusCore := State.withFuncs_focusCore s _
theorem State.withFuncs_focusSlot : ({ s with funcs := r } : State).focusSlot = s.focusSlot := rfl
@[simp] theorem State.mapFunc_focusSlot : (s.mapFunc n f).focusSlot = s.focusSlot := State.withFuncs_focusSlot s _
theorem State.withFuncs_mem : ({ s with funcs := r } : State).mem = s.mem := rfl
@[simp] theorem State.mapFunc_mem : (s.mapFunc n f).mem = s.mem := State.withFuncs_mem s _
theorem State.withFuncs_poison : ({ s with funcs := r } : State).poison = s.poison := rfl
@[simp] theorem State.mapFunc_poison : (s.mapFunc n f).poison = s.poison := State.withFuncs_poison s _
theorem State.withFuncs_pageCtr : ({ s with funcs := r } : State).pageCtr = s.pageCtr := rfl
@[simp] theorem State.mapFunc_pageCtr : (s.mapFunc n f).pageCtr = s.pageCtr := State.withFuncs_pageCtr s _
theorem State.withFuncs_migReqs : ({ s with funcs := r } : State).migReqs = s.migReqs := rfl
theorem State.withFuncs_migrations : ({ s with funcs := r } : State).migrations = s.migrations := rfl
@[simp] theorem State.mapFunc_migReqs : (s.mapFunc n f).migReqs = s.migReqs := State.withFuncs_migReqs s _
@[simp] theorem State.mapFunc_migrations : (s.mapFunc n f).migrations = s.migrations := State.withFuncs_migrations s _
theorem State.withFuncs_crews : ({ s with funcs := r } : State).crews = s.crews := rfl
@[simp] theorem State.mapFunc_crews : (s.mapFunc n f).crews = s.crews := State.withFuncs_crews s _
theorem State.withFuncs_bindRecs : ({ s with funcs := r } : State).bindRecs = s.bindRecs := rfl
@[simp] theorem State.mapFunc_bindRecs : (s.mapFunc n f).bindRecs = s.bindRecs := State.withFuncs_bindRecs s _
theorem State.withFuncs_cores : ({ s with funcs := r } : State).cores = s.cores := rfl
@[simp] theorem State.mapFunc_cores : (s.mapFunc n f).cores = s.cores := State.withFuncs_cores s _
theorem State.withFuncs_dies : ({ s with funcs := r } : State).dies = s.dies := rfl
@[simp] theorem State.mapFunc_dies : (s.mapFunc n f).dies = s.dies := State.withFuncs_dies s _
theorem State.withFuncs_ctxs : ({ s with funcs := r } : State).ctxs = s.ctxs := rfl
@[simp] theorem State.mapFunc_ctxs : (s.mapFunc n f).ctxs = s.ctxs := State.withFuncs_ctxs s _
theorem State.withFuncs_regions : ({ s with funcs := r } : State).regions = s.regions := rfl
@[simp] theorem State.mapFunc_regions : (s.mapFunc n f).regions = s.regions := State.withFuncs_regions s _
theorem State.withFuncs_wdticks : ({ s with funcs := r } : State).wdticks = s.wdticks := rfl
@[simp] theorem State.mapFunc_wdticks : (s.mapFunc n f).wdticks = s.wdticks := State.withFuncs_wdticks s _
theorem State.withFuncs_params : ({ s with funcs := r } : State).params = s.params := rfl
@[simp] theorem State.mapFunc_params : (s.mapFunc n f).params = s.params := State.withFuncs_params s _
theorem State.withFuncs_tasks : ({ s with funcs := r } : State).tasks = s.tasks := rfl
@[simp] theorem State.mapFunc_tasks : (s.mapFunc n f).tasks = s.tasks := State.withFuncs_tasks s _
theorem State.withFuncs_reserved : ({ s with funcs := r } : State).reserved = s.reserved := rfl
@[simp] theorem State.mapFunc_reserved : (s.mapFunc n f).reserved = s.reserved := State.withFuncs_reserved s _
theorem State.withFuncs_doneStores : ({ s with funcs := r } : State).doneStores = s.doneStores := rfl
@[simp] theorem State.mapFunc_doneStores : (s.mapFunc n f).doneStores = s.doneStores := State.withFuncs_doneStores s _
theorem State.withFuncs_coppices : ({ s with funcs := r } : State).coppices = s.coppices := rfl
@[simp] theorem State.mapFunc_coppices : (s.mapFunc n f).coppices = s.coppices := State.withFuncs_coppices s _
theorem State.withFuncs_rings : ({ s with funcs := r } : State).rings = s.rings := rfl
@[simp] theorem State.mapFunc_rings : (s.mapFunc n f).rings = s.rings := State.withFuncs_rings s _
theorem State.withFuncs_traces : ({ s with funcs := r } : State).traces = s.traces := rfl
@[simp] theorem State.mapFunc_traces : (s.mapFunc n f).traces = s.traces := State.withFuncs_traces s _
theorem State.withFuncs_freeze : ({ s with funcs := r } : State).freeze = s.freeze := rfl
theorem State.withFuncs_escalations : ({ s with funcs := r } : State).escalations = s.escalations := rfl
@[simp] theorem State.mapFunc_freeze : (s.mapFunc n f).freeze = s.freeze := State.withFuncs_freeze s _
@[simp] theorem State.mapFunc_escalations : (s.mapFunc n f).escalations = s.escalations := State.withFuncs_escalations s _
theorem State.withFuncs_capsules : ({ s with funcs := r } : State).capsules = s.capsules := rfl
@[simp] theorem State.mapFunc_capsules : (s.mapFunc n f).capsules = s.capsules := State.withFuncs_capsules s _
theorem State.withFuncs_capsuleCount : ({ s with funcs := r } : State).capsuleCount = s.capsuleCount := rfl
@[simp] theorem State.mapFunc_capsuleCount : (s.mapFunc n f).capsuleCount = s.capsuleCount := State.withFuncs_capsuleCount s _
theorem State.withFuncs_boots : ({ s with funcs := r } : State).boots = s.boots := rfl
@[simp] theorem State.mapFunc_boots : (s.mapFunc n f).boots = s.boots := State.withFuncs_boots s _
theorem State.withFuncs_current : ({ s with funcs := r } : State).current = s.current := rfl
@[simp] theorem State.mapFunc_current : (s.mapFunc n f).current = s.current := State.withFuncs_current s _
theorem State.withFuncs_sliceStart : ({ s with funcs := r } : State).sliceStart = s.sliceStart := rfl
theorem State.withFuncs_switching : ({ s with funcs := r } : State).switching = s.switching := rfl
theorem State.withFuncs_pauses : ({ s with funcs := r } : State).pauses = s.pauses := rfl
@[simp] theorem State.mapFunc_sliceStart : (s.mapFunc n f).sliceStart = s.sliceStart := State.withFuncs_sliceStart s _
@[simp] theorem State.mapFunc_switching : (s.mapFunc n f).switching = s.switching := State.withFuncs_switching s _
@[simp] theorem State.mapFunc_pauses : (s.mapFunc n f).pauses = s.pauses := State.withFuncs_pauses s _
theorem State.withFuncs_savedCtrs : ({ s with funcs := r } : State).savedCtrs = s.savedCtrs := rfl
@[simp] theorem State.mapFunc_savedCtrs : (s.mapFunc n f).savedCtrs = s.savedCtrs := State.withFuncs_savedCtrs s _
theorem State.withFuncs_savedAreas : ({ s with funcs := r } : State).savedAreas = s.savedAreas := rfl
@[simp] theorem State.mapFunc_savedAreas : (s.mapFunc n f).savedAreas = s.savedAreas := State.withFuncs_savedAreas s _
theorem State.withFuncs_vfs : ({ s with funcs := r } : State).vfs = s.vfs := rfl
@[simp] theorem State.mapFunc_vfs : (s.mapFunc n f).vfs = s.vfs := State.withFuncs_vfs s _
theorem State.withFuncs_rafts : ({ s with funcs := r } : State).rafts = s.rafts := rfl
@[simp] theorem State.mapFunc_rafts : (s.mapFunc n f).rafts = s.rafts := State.withFuncs_rafts s _
theorem State.withFuncs_msgs : ({ s with funcs := r } : State).msgs = s.msgs := rfl
@[simp] theorem State.mapFunc_msgs : (s.mapFunc n f).msgs = s.msgs := State.withFuncs_msgs s _
theorem State.withFuncs_netOut : ({ s with funcs := r } : State).netOut = s.netOut := rfl
@[simp] theorem State.mapFunc_netOut : (s.mapFunc n f).netOut = s.netOut := State.withFuncs_netOut s _
theorem State.withFuncs_msgDrops : ({ s with funcs := r } : State).msgDrops = s.msgDrops := rfl
@[simp] theorem State.mapFunc_msgDrops : (s.mapFunc n f).msgDrops = s.msgDrops := State.withFuncs_msgDrops s _
theorem State.withFuncs_devnum : ({ s with funcs := r } : State).devnum = s.devnum := rfl
@[simp] theorem State.mapFunc_devnum : (s.mapFunc n f).devnum = s.devnum := State.withFuncs_devnum s _
theorem State.withFuncs_livePorts : ({ s with funcs := r } : State).livePorts = s.livePorts := rfl
@[simp] theorem State.mapFunc_livePorts : (s.mapFunc n f).livePorts = s.livePorts := State.withFuncs_livePorts s _
theorem State.withFuncs_retrain : ({ s with funcs := r } : State).retrain = s.retrain := rfl
@[simp] theorem State.mapFunc_retrain : (s.mapFunc n f).retrain = s.retrain := State.withFuncs_retrain s _
theorem State.withFuncs_service : ({ s with funcs := r } : State).service = s.service := rfl
@[simp] theorem State.mapFunc_service : (s.mapFunc n f).service = s.service := State.withFuncs_service s _
theorem State.withFuncs_spdm : ({ s with funcs := r } : State).spdm = s.spdm := rfl
@[simp] theorem State.mapFunc_spdm : (s.mapFunc n f).spdm = s.spdm := State.withFuncs_spdm s _
theorem State.withFuncs_liveDies : ({ s with funcs := r } : State).liveDies = s.liveDies := rfl
@[simp] theorem State.mapFunc_liveDies : (s.mapFunc n f).liveDies = s.liveDies := State.withFuncs_liveDies s _
theorem State.withFuncs_liveCores : ({ s with funcs := r } : State).liveCores = s.liveCores := rfl
@[simp] theorem State.mapFunc_liveCores : (s.mapFunc n f).liveCores = s.liveCores := State.withFuncs_liveCores s _
theorem State.withFuncs_liveStacks : ({ s with funcs := r } : State).liveStacks = s.liveStacks := rfl
@[simp] theorem State.mapFunc_liveStacks : (s.mapFunc n f).liveStacks = s.liveStacks := State.withFuncs_liveStacks s _
theorem State.withFuncs_liveVaults : ({ s with funcs := r } : State).liveVaults = s.liveVaults := rfl
@[simp] theorem State.mapFunc_liveVaults : (s.mapFunc n f).liveVaults = s.liveVaults := State.withFuncs_liveVaults s _
end mapFunc

/-! ## A crew -/

section setS
variable (s : Crew) (n : Nat) (x : Word)
@[simp] theorem Crew.setS_ctx : (s.setS n x).ctx = s.ctx := rfl
@[simp] theorem Crew.setS_task : (s.setS n x).task = s.task := rfl
@[simp] theorem Crew.setS_number : (s.setS n x).number = s.number := rfl
@[simp] theorem Crew.setS_prio : (s.setS n x).prio = s.prio := rfl
@[simp] theorem Crew.setS_rbase : (s.setS n x).rbase = s.rbase := rfl
@[simp] theorem Crew.setS_vregs : (s.setS n x).vregs = s.vregs := rfl
@[simp] theorem Crew.setS_sregs : (s.setS n x).sregs = s.sregs := rfl
@[simp] theorem Crew.setS_tiles : (s.setS n x).tiles = s.tiles := rfl
@[simp] theorem Crew.setS_widbase : (s.setS n x).widbase = s.widbase := rfl
@[simp] theorem Crew.setS_carry : (s.setS n x).carry = s.carry := rfl
@[simp] theorem Crew.setS_pc : (s.setS n x).pc = s.pc := rfl
@[simp] theorem Crew.setS_am : (s.setS n x).am = s.am := rfl
@[simp] theorem Crew.setS_live : (s.setS n x).live = s.live := rfl
@[simp] theorem Crew.setS_mode : (s.setS n x).mode = s.mode := rfl
@[simp] theorem Crew.setS_modex : (s.setS n x).modex = s.modex := rfl
@[simp] theorem Crew.setS_preds : (s.setS n x).preds = s.preds := rfl
@[simp] theorem Crew.setS_bars : (s.setS n x).bars = s.bars := rfl
@[simp] theorem Crew.setS_paths : (s.setS n x).paths = s.paths := rfl
@[simp] theorem Crew.setS_vreg : (s.setS n x).vreg = s.vreg := rfl
@[simp] theorem Crew.setS_gens : (s.setS n x).gens = s.gens := rfl
@[simp] theorem Crew.setS_tvec : (s.setS n x).tvec = s.tvec := rfl
@[simp] theorem Crew.setS_frames : (s.setS n x).frames = s.frames := rfl
@[simp] theorem Crew.setS_remstat : (s.setS n x).remstat = s.remstat := rfl
@[simp] theorem Crew.setS_tsa : (s.setS n x).tsa = s.tsa := rfl
@[simp] theorem Crew.setS_tsb : (s.setS n x).tsb = s.tsb := rfl
@[simp] theorem Crew.setS_binding : (s.setS n x).binding = s.binding := rfl
@[simp] theorem Crew.setS_sib : (s.setS n x).sib = s.sib := rfl
@[simp] theorem Crew.setS_gramReport : (s.setS n x).gramReport = s.gramReport := rfl
@[simp] theorem Crew.setS_gramFlags : (s.setS n x).gramFlags = s.gramFlags := rfl
@[simp] theorem Crew.setS_pend : (s.setS n x).pend = s.pend := rfl
@[simp] theorem Crew.setS_tokens : (s.setS n x).tokens = s.tokens := rfl
@[simp] theorem Crew.setS_unobs : (s.setS n x).unobs = s.unobs := rfl
@[simp] theorem Crew.setS_skids : (s.setS n x).skids = s.skids := rfl
@[simp] theorem Crew.setS_lastPage : (s.setS n x).lastPage = s.lastPage := rfl
@[simp] theorem Crew.setS_park : (s.setS n x).park = s.park := rfl
@[simp] theorem Crew.setS_replay : (s.setS n x).replay = s.replay := rfl
@[simp] theorem Crew.setS_replayVa : (s.setS n x).replayVa = s.replayVa := rfl
@[simp] theorem Crew.setS_firstIssue : (s.setS n x).firstIssue = s.firstIssue := rfl
@[simp] theorem Crew.setS_deadline : (s.setS n x).deadline = s.deadline := rfl
@[simp] theorem Crew.setS_waiting : (s.setS n x).waiting = s.waiting := rfl
@[simp] theorem Crew.setS_released : (s.setS n x).released = s.released := rfl
@[simp] theorem Crew.setS_halted : (s.setS n x).halted = s.halted := rfl
@[simp] theorem Crew.setS_frozen : (s.setS n x).frozen = s.frozen := rfl
@[simp] theorem Crew.setS_stalled : (s.setS n x).stalled = s.stalled := rfl
@[simp] theorem Crew.setS_awaitSib : (s.setS n x).awaitSib = s.awaitSib := rfl
@[simp] theorem Crew.setS_savedTrap : (s.setS n x).savedTrap = s.savedTrap := rfl
@[simp] theorem Crew.setS_recOff : (s.setS n x).recOff = s.recOff := rfl
@[simp] theorem Crew.setS_boundAt : (s.setS n x).boundAt = s.boundAt := rfl
@[simp] theorem Crew.setS_cut : (s.setS n x).cut = s.cut := rfl
@[simp] theorem Crew.setS_path : (s.setS n x).path = s.path := rfl
@[simp] theorem Crew.setS_pathFresh : (s.setS n x).pathFresh = s.pathFresh := rfl
@[simp] theorem Crew.setS_issued : (s.setS n x).issued = s.issued := rfl
@[simp] theorem Crew.setS_bmap : (s.setS n x).bmap = s.bmap := rfl
@[simp] theorem Crew.setS_sampleAt : (s.setS n x).sampleAt = s.sampleAt := rfl
@[simp] theorem Crew.setS_readyAt : (s.setS n x).readyAt = s.readyAt := rfl
@[simp] theorem Crew.setS_readySince : (s.setS n x).readySince = s.readySince := rfl
@[simp] theorem Crew.setS_lastIssue : (s.setS n x).lastIssue = s.lastIssue := rfl
@[simp] theorem Crew.setS_cache : (s.setS n x).cache = s.cache := rfl
end setS

section setV
variable (s : Crew) (n l : Nat) (x : Word)
@[simp] theorem Crew.setV_ctx : (s.setV n l x).ctx = s.ctx := rfl
@[simp] theorem Crew.setV_task : (s.setV n l x).task = s.task := rfl
@[simp] theorem Crew.setV_number : (s.setV n l x).number = s.number := rfl
@[simp] theorem Crew.setV_prio : (s.setV n l x).prio = s.prio := rfl
@[simp] theorem Crew.setV_rbase : (s.setV n l x).rbase = s.rbase := rfl
@[simp] theorem Crew.setV_vregs : (s.setV n l x).vregs = s.vregs := rfl
@[simp] theorem Crew.setV_sregs : (s.setV n l x).sregs = s.sregs := rfl
@[simp] theorem Crew.setV_tiles : (s.setV n l x).tiles = s.tiles := rfl
@[simp] theorem Crew.setV_widbase : (s.setV n l x).widbase = s.widbase := rfl
@[simp] theorem Crew.setV_carry : (s.setV n l x).carry = s.carry := rfl
@[simp] theorem Crew.setV_pc : (s.setV n l x).pc = s.pc := rfl
@[simp] theorem Crew.setV_am : (s.setV n l x).am = s.am := rfl
@[simp] theorem Crew.setV_live : (s.setV n l x).live = s.live := rfl
@[simp] theorem Crew.setV_mode : (s.setV n l x).mode = s.mode := rfl
@[simp] theorem Crew.setV_modex : (s.setV n l x).modex = s.modex := rfl
@[simp] theorem Crew.setV_preds : (s.setV n l x).preds = s.preds := rfl
@[simp] theorem Crew.setV_bars : (s.setV n l x).bars = s.bars := rfl
@[simp] theorem Crew.setV_paths : (s.setV n l x).paths = s.paths := rfl
@[simp] theorem Crew.setV_sreg : (s.setV n l x).sreg = s.sreg := rfl
@[simp] theorem Crew.setV_gens : (s.setV n l x).gens = s.gens := rfl
@[simp] theorem Crew.setV_tvec : (s.setV n l x).tvec = s.tvec := rfl
@[simp] theorem Crew.setV_frames : (s.setV n l x).frames = s.frames := rfl
@[simp] theorem Crew.setV_remstat : (s.setV n l x).remstat = s.remstat := rfl
@[simp] theorem Crew.setV_tsa : (s.setV n l x).tsa = s.tsa := rfl
@[simp] theorem Crew.setV_tsb : (s.setV n l x).tsb = s.tsb := rfl
@[simp] theorem Crew.setV_binding : (s.setV n l x).binding = s.binding := rfl
@[simp] theorem Crew.setV_sib : (s.setV n l x).sib = s.sib := rfl
@[simp] theorem Crew.setV_gramReport : (s.setV n l x).gramReport = s.gramReport := rfl
@[simp] theorem Crew.setV_gramFlags : (s.setV n l x).gramFlags = s.gramFlags := rfl
@[simp] theorem Crew.setV_pend : (s.setV n l x).pend = s.pend := rfl
@[simp] theorem Crew.setV_tokens : (s.setV n l x).tokens = s.tokens := rfl
@[simp] theorem Crew.setV_unobs : (s.setV n l x).unobs = s.unobs := rfl
@[simp] theorem Crew.setV_skids : (s.setV n l x).skids = s.skids := rfl
@[simp] theorem Crew.setV_lastPage : (s.setV n l x).lastPage = s.lastPage := rfl
@[simp] theorem Crew.setV_park : (s.setV n l x).park = s.park := rfl
@[simp] theorem Crew.setV_replay : (s.setV n l x).replay = s.replay := rfl
@[simp] theorem Crew.setV_replayVa : (s.setV n l x).replayVa = s.replayVa := rfl
@[simp] theorem Crew.setV_firstIssue : (s.setV n l x).firstIssue = s.firstIssue := rfl
@[simp] theorem Crew.setV_deadline : (s.setV n l x).deadline = s.deadline := rfl
@[simp] theorem Crew.setV_waiting : (s.setV n l x).waiting = s.waiting := rfl
@[simp] theorem Crew.setV_released : (s.setV n l x).released = s.released := rfl
@[simp] theorem Crew.setV_halted : (s.setV n l x).halted = s.halted := rfl
@[simp] theorem Crew.setV_frozen : (s.setV n l x).frozen = s.frozen := rfl
@[simp] theorem Crew.setV_stalled : (s.setV n l x).stalled = s.stalled := rfl
@[simp] theorem Crew.setV_awaitSib : (s.setV n l x).awaitSib = s.awaitSib := rfl
@[simp] theorem Crew.setV_savedTrap : (s.setV n l x).savedTrap = s.savedTrap := rfl
@[simp] theorem Crew.setV_recOff : (s.setV n l x).recOff = s.recOff := rfl
@[simp] theorem Crew.setV_boundAt : (s.setV n l x).boundAt = s.boundAt := rfl
@[simp] theorem Crew.setV_cut : (s.setV n l x).cut = s.cut := rfl
@[simp] theorem Crew.setV_path : (s.setV n l x).path = s.path := rfl
@[simp] theorem Crew.setV_pathFresh : (s.setV n l x).pathFresh = s.pathFresh := rfl
@[simp] theorem Crew.setV_issued : (s.setV n l x).issued = s.issued := rfl
@[simp] theorem Crew.setV_bmap : (s.setV n l x).bmap = s.bmap := rfl
@[simp] theorem Crew.setV_sampleAt : (s.setV n l x).sampleAt = s.sampleAt := rfl
@[simp] theorem Crew.setV_readyAt : (s.setV n l x).readyAt = s.readyAt := rfl
@[simp] theorem Crew.setV_readySince : (s.setV n l x).readySince = s.readySince := rfl
@[simp] theorem Crew.setV_lastIssue : (s.setV n l x).lastIssue = s.lastIssue := rfl
@[simp] theorem Crew.setV_cache : (s.setV n l x).cache = s.cache := rfl
end setV

section setGen
variable (s : Crew) (r : SMap Word) (l : Nat) (x : Word)
theorem Crew.withGens_ctx : ({ s with gens := r } : Crew).ctx = s.ctx := rfl
@[simp] theorem Crew.setGen_ctx : (s.setGen l x).ctx = s.ctx := Crew.withGens_ctx s _
theorem Crew.withGens_task : ({ s with gens := r } : Crew).task = s.task := rfl
@[simp] theorem Crew.setGen_task : (s.setGen l x).task = s.task := Crew.withGens_task s _
theorem Crew.withGens_number : ({ s with gens := r } : Crew).number = s.number := rfl
@[simp] theorem Crew.setGen_number : (s.setGen l x).number = s.number := Crew.withGens_number s _
theorem Crew.withGens_prio : ({ s with gens := r } : Crew).prio = s.prio := rfl
@[simp] theorem Crew.setGen_prio : (s.setGen l x).prio = s.prio := Crew.withGens_prio s _
theorem Crew.withGens_rbase : ({ s with gens := r } : Crew).rbase = s.rbase := rfl
@[simp] theorem Crew.setGen_rbase : (s.setGen l x).rbase = s.rbase := Crew.withGens_rbase s _
theorem Crew.withGens_vregs : ({ s with gens := r } : Crew).vregs = s.vregs := rfl
@[simp] theorem Crew.setGen_vregs : (s.setGen l x).vregs = s.vregs := Crew.withGens_vregs s _
theorem Crew.withGens_sregs : ({ s with gens := r } : Crew).sregs = s.sregs := rfl
@[simp] theorem Crew.setGen_sregs : (s.setGen l x).sregs = s.sregs := Crew.withGens_sregs s _
theorem Crew.withGens_tiles : ({ s with gens := r } : Crew).tiles = s.tiles := rfl
@[simp] theorem Crew.setGen_tiles : (s.setGen l x).tiles = s.tiles := Crew.withGens_tiles s _
theorem Crew.withGens_widbase : ({ s with gens := r } : Crew).widbase = s.widbase := rfl
@[simp] theorem Crew.setGen_widbase : (s.setGen l x).widbase = s.widbase := Crew.withGens_widbase s _
theorem Crew.withGens_carry : ({ s with gens := r } : Crew).carry = s.carry := rfl
@[simp] theorem Crew.setGen_carry : (s.setGen l x).carry = s.carry := Crew.withGens_carry s _
theorem Crew.withGens_pc : ({ s with gens := r } : Crew).pc = s.pc := rfl
@[simp] theorem Crew.setGen_pc : (s.setGen l x).pc = s.pc := Crew.withGens_pc s _
theorem Crew.withGens_am : ({ s with gens := r } : Crew).am = s.am := rfl
@[simp] theorem Crew.setGen_am : (s.setGen l x).am = s.am := Crew.withGens_am s _
theorem Crew.withGens_live : ({ s with gens := r } : Crew).live = s.live := rfl
@[simp] theorem Crew.setGen_live : (s.setGen l x).live = s.live := Crew.withGens_live s _
theorem Crew.withGens_mode : ({ s with gens := r } : Crew).mode = s.mode := rfl
@[simp] theorem Crew.setGen_mode : (s.setGen l x).mode = s.mode := Crew.withGens_mode s _
theorem Crew.withGens_modex : ({ s with gens := r } : Crew).modex = s.modex := rfl
@[simp] theorem Crew.setGen_modex : (s.setGen l x).modex = s.modex := Crew.withGens_modex s _
theorem Crew.withGens_preds : ({ s with gens := r } : Crew).preds = s.preds := rfl
@[simp] theorem Crew.setGen_preds : (s.setGen l x).preds = s.preds := Crew.withGens_preds s _
theorem Crew.withGens_bars : ({ s with gens := r } : Crew).bars = s.bars := rfl
@[simp] theorem Crew.setGen_bars : (s.setGen l x).bars = s.bars := Crew.withGens_bars s _
theorem Crew.withGens_paths : ({ s with gens := r } : Crew).paths = s.paths := rfl
@[simp] theorem Crew.setGen_paths : (s.setGen l x).paths = s.paths := Crew.withGens_paths s _
theorem Crew.withGens_sreg : ({ s with gens := r } : Crew).sreg = s.sreg := rfl
@[simp] theorem Crew.setGen_sreg : (s.setGen l x).sreg = s.sreg := Crew.withGens_sreg s _
theorem Crew.withGens_vreg : ({ s with gens := r } : Crew).vreg = s.vreg := rfl
@[simp] theorem Crew.setGen_vreg : (s.setGen l x).vreg = s.vreg := Crew.withGens_vreg s _
theorem Crew.withGens_tvec : ({ s with gens := r } : Crew).tvec = s.tvec := rfl
@[simp] theorem Crew.setGen_tvec : (s.setGen l x).tvec = s.tvec := Crew.withGens_tvec s _
theorem Crew.withGens_frames : ({ s with gens := r } : Crew).frames = s.frames := rfl
@[simp] theorem Crew.setGen_frames : (s.setGen l x).frames = s.frames := Crew.withGens_frames s _
theorem Crew.withGens_remstat : ({ s with gens := r } : Crew).remstat = s.remstat := rfl
@[simp] theorem Crew.setGen_remstat : (s.setGen l x).remstat = s.remstat := Crew.withGens_remstat s _
theorem Crew.withGens_tsa : ({ s with gens := r } : Crew).tsa = s.tsa := rfl
@[simp] theorem Crew.setGen_tsa : (s.setGen l x).tsa = s.tsa := Crew.withGens_tsa s _
theorem Crew.withGens_tsb : ({ s with gens := r } : Crew).tsb = s.tsb := rfl
@[simp] theorem Crew.setGen_tsb : (s.setGen l x).tsb = s.tsb := Crew.withGens_tsb s _
theorem Crew.withGens_binding : ({ s with gens := r } : Crew).binding = s.binding := rfl
@[simp] theorem Crew.setGen_binding : (s.setGen l x).binding = s.binding := Crew.withGens_binding s _
theorem Crew.withGens_sib : ({ s with gens := r } : Crew).sib = s.sib := rfl
@[simp] theorem Crew.setGen_sib : (s.setGen l x).sib = s.sib := Crew.withGens_sib s _
theorem Crew.withGens_gramReport : ({ s with gens := r } : Crew).gramReport = s.gramReport := rfl
@[simp] theorem Crew.setGen_gramReport : (s.setGen l x).gramReport = s.gramReport := Crew.withGens_gramReport s _
theorem Crew.withGens_gramFlags : ({ s with gens := r } : Crew).gramFlags = s.gramFlags := rfl
@[simp] theorem Crew.setGen_gramFlags : (s.setGen l x).gramFlags = s.gramFlags := Crew.withGens_gramFlags s _
theorem Crew.withGens_pend : ({ s with gens := r } : Crew).pend = s.pend := rfl
@[simp] theorem Crew.setGen_pend : (s.setGen l x).pend = s.pend := Crew.withGens_pend s _
theorem Crew.withGens_tokens : ({ s with gens := r } : Crew).tokens = s.tokens := rfl
@[simp] theorem Crew.setGen_tokens : (s.setGen l x).tokens = s.tokens := Crew.withGens_tokens s _
theorem Crew.withGens_unobs : ({ s with gens := r } : Crew).unobs = s.unobs := rfl
@[simp] theorem Crew.setGen_unobs : (s.setGen l x).unobs = s.unobs := Crew.withGens_unobs s _
theorem Crew.withGens_skids : ({ s with gens := r } : Crew).skids = s.skids := rfl
@[simp] theorem Crew.setGen_skids : (s.setGen l x).skids = s.skids := Crew.withGens_skids s _
theorem Crew.withGens_lastPage : ({ s with gens := r } : Crew).lastPage = s.lastPage := rfl
@[simp] theorem Crew.setGen_lastPage : (s.setGen l x).lastPage = s.lastPage := Crew.withGens_lastPage s _
theorem Crew.withGens_park : ({ s with gens := r } : Crew).park = s.park := rfl
@[simp] theorem Crew.setGen_park : (s.setGen l x).park = s.park := Crew.withGens_park s _
theorem Crew.withGens_replay : ({ s with gens := r } : Crew).replay = s.replay := rfl
theorem Crew.withGens_replayVa : ({ s with gens := r } : Crew).replayVa = s.replayVa := rfl
theorem Crew.withGens_firstIssue : ({ s with gens := r } : Crew).firstIssue = s.firstIssue := rfl
@[simp] theorem Crew.setGen_replay : (s.setGen l x).replay = s.replay := Crew.withGens_replay s _
@[simp] theorem Crew.setGen_replayVa : (s.setGen l x).replayVa = s.replayVa := Crew.withGens_replayVa s _
@[simp] theorem Crew.setGen_firstIssue : (s.setGen l x).firstIssue = s.firstIssue := Crew.withGens_firstIssue s _
theorem Crew.withGens_deadline : ({ s with gens := r } : Crew).deadline = s.deadline := rfl
@[simp] theorem Crew.setGen_deadline : (s.setGen l x).deadline = s.deadline := Crew.withGens_deadline s _
theorem Crew.withGens_waiting : ({ s with gens := r } : Crew).waiting = s.waiting := rfl
@[simp] theorem Crew.setGen_waiting : (s.setGen l x).waiting = s.waiting := Crew.withGens_waiting s _
theorem Crew.withGens_released : ({ s with gens := r } : Crew).released = s.released := rfl
@[simp] theorem Crew.setGen_released : (s.setGen l x).released = s.released := Crew.withGens_released s _
theorem Crew.withGens_halted : ({ s with gens := r } : Crew).halted = s.halted := rfl
@[simp] theorem Crew.setGen_halted : (s.setGen l x).halted = s.halted := Crew.withGens_halted s _
theorem Crew.withGens_frozen : ({ s with gens := r } : Crew).frozen = s.frozen := rfl
@[simp] theorem Crew.setGen_frozen : (s.setGen l x).frozen = s.frozen := Crew.withGens_frozen s _
theorem Crew.withGens_stalled : ({ s with gens := r } : Crew).stalled = s.stalled := rfl
@[simp] theorem Crew.setGen_stalled : (s.setGen l x).stalled = s.stalled := Crew.withGens_stalled s _
theorem Crew.withGens_awaitSib : ({ s with gens := r } : Crew).awaitSib = s.awaitSib := rfl
@[simp] theorem Crew.setGen_awaitSib : (s.setGen l x).awaitSib = s.awaitSib := Crew.withGens_awaitSib s _
theorem Crew.withGens_savedTrap : ({ s with gens := r } : Crew).savedTrap = s.savedTrap := rfl
@[simp] theorem Crew.setGen_savedTrap : (s.setGen l x).savedTrap = s.savedTrap := Crew.withGens_savedTrap s _
theorem Crew.withGens_recOff : ({ s with gens := r } : Crew).recOff = s.recOff := rfl
@[simp] theorem Crew.setGen_recOff : (s.setGen l x).recOff = s.recOff := Crew.withGens_recOff s _
theorem Crew.withGens_boundAt : ({ s with gens := r } : Crew).boundAt = s.boundAt := rfl
@[simp] theorem Crew.setGen_boundAt : (s.setGen l x).boundAt = s.boundAt := Crew.withGens_boundAt s _
theorem Crew.withGens_cut : ({ s with gens := r } : Crew).cut = s.cut := rfl
@[simp] theorem Crew.setGen_cut : (s.setGen l x).cut = s.cut := Crew.withGens_cut s _
theorem Crew.withGens_path : ({ s with gens := r } : Crew).path = s.path := rfl
@[simp] theorem Crew.setGen_path : (s.setGen l x).path = s.path := Crew.withGens_path s _
theorem Crew.withGens_pathFresh : ({ s with gens := r } : Crew).pathFresh = s.pathFresh := rfl
@[simp] theorem Crew.setGen_pathFresh : (s.setGen l x).pathFresh = s.pathFresh := Crew.withGens_pathFresh s _
theorem Crew.withGens_issued : ({ s with gens := r } : Crew).issued = s.issued := rfl
@[simp] theorem Crew.setGen_issued : (s.setGen l x).issued = s.issued := Crew.withGens_issued s _
theorem Crew.withGens_bmap : ({ s with gens := r } : Crew).bmap = s.bmap := rfl
@[simp] theorem Crew.setGen_bmap : (s.setGen l x).bmap = s.bmap := Crew.withGens_bmap s _
theorem Crew.withGens_sampleAt : ({ s with gens := r } : Crew).sampleAt = s.sampleAt := rfl
@[simp] theorem Crew.setGen_sampleAt : (s.setGen l x).sampleAt = s.sampleAt := Crew.withGens_sampleAt s _
theorem Crew.withGens_readyAt : ({ s with gens := r } : Crew).readyAt = s.readyAt := rfl
theorem Crew.withGens_readySince : ({ s with gens := r } : Crew).readySince = s.readySince := rfl
@[simp] theorem Crew.setGen_readyAt : (s.setGen l x).readyAt = s.readyAt := Crew.withGens_readyAt s _
@[simp] theorem Crew.setGen_readySince : (s.setGen l x).readySince = s.readySince := Crew.withGens_readySince s _
theorem Crew.withGens_lastIssue : ({ s with gens := r } : Crew).lastIssue = s.lastIssue := rfl
@[simp] theorem Crew.setGen_lastIssue : (s.setGen l x).lastIssue = s.lastIssue := Crew.withGens_lastIssue s _
theorem Crew.withGens_cache : ({ s with gens := r } : Crew).cache = s.cache := rfl
@[simp] theorem Crew.setGen_cache : (s.setGen l x).cache = s.cache := Crew.withGens_cache s _
end setGen

section setBar
variable (s : Crew) (n : Nat) (b : Barrier)
@[simp] theorem Crew.setBar_ctx : (s.setBar n b).ctx = s.ctx := rfl
@[simp] theorem Crew.setBar_task : (s.setBar n b).task = s.task := rfl
@[simp] theorem Crew.setBar_number : (s.setBar n b).number = s.number := rfl
@[simp] theorem Crew.setBar_prio : (s.setBar n b).prio = s.prio := rfl
@[simp] theorem Crew.setBar_rbase : (s.setBar n b).rbase = s.rbase := rfl
@[simp] theorem Crew.setBar_vregs : (s.setBar n b).vregs = s.vregs := rfl
@[simp] theorem Crew.setBar_sregs : (s.setBar n b).sregs = s.sregs := rfl
@[simp] theorem Crew.setBar_tiles : (s.setBar n b).tiles = s.tiles := rfl
@[simp] theorem Crew.setBar_widbase : (s.setBar n b).widbase = s.widbase := rfl
@[simp] theorem Crew.setBar_carry : (s.setBar n b).carry = s.carry := rfl
@[simp] theorem Crew.setBar_pc : (s.setBar n b).pc = s.pc := rfl
@[simp] theorem Crew.setBar_am : (s.setBar n b).am = s.am := rfl
@[simp] theorem Crew.setBar_live : (s.setBar n b).live = s.live := rfl
@[simp] theorem Crew.setBar_mode : (s.setBar n b).mode = s.mode := rfl
@[simp] theorem Crew.setBar_modex : (s.setBar n b).modex = s.modex := rfl
@[simp] theorem Crew.setBar_preds : (s.setBar n b).preds = s.preds := rfl
@[simp] theorem Crew.setBar_paths : (s.setBar n b).paths = s.paths := rfl
@[simp] theorem Crew.setBar_sreg : (s.setBar n b).sreg = s.sreg := rfl
@[simp] theorem Crew.setBar_vreg : (s.setBar n b).vreg = s.vreg := rfl
@[simp] theorem Crew.setBar_gens : (s.setBar n b).gens = s.gens := rfl
@[simp] theorem Crew.setBar_tvec : (s.setBar n b).tvec = s.tvec := rfl
@[simp] theorem Crew.setBar_frames : (s.setBar n b).frames = s.frames := rfl
@[simp] theorem Crew.setBar_remstat : (s.setBar n b).remstat = s.remstat := rfl
@[simp] theorem Crew.setBar_tsa : (s.setBar n b).tsa = s.tsa := rfl
@[simp] theorem Crew.setBar_tsb : (s.setBar n b).tsb = s.tsb := rfl
@[simp] theorem Crew.setBar_binding : (s.setBar n b).binding = s.binding := rfl
@[simp] theorem Crew.setBar_sib : (s.setBar n b).sib = s.sib := rfl
@[simp] theorem Crew.setBar_gramReport : (s.setBar n b).gramReport = s.gramReport := rfl
@[simp] theorem Crew.setBar_gramFlags : (s.setBar n b).gramFlags = s.gramFlags := rfl
@[simp] theorem Crew.setBar_pend : (s.setBar n b).pend = s.pend := rfl
@[simp] theorem Crew.setBar_tokens : (s.setBar n b).tokens = s.tokens := rfl
@[simp] theorem Crew.setBar_unobs : (s.setBar n b).unobs = s.unobs := rfl
@[simp] theorem Crew.setBar_skids : (s.setBar n b).skids = s.skids := rfl
@[simp] theorem Crew.setBar_lastPage : (s.setBar n b).lastPage = s.lastPage := rfl
@[simp] theorem Crew.setBar_park : (s.setBar n b).park = s.park := rfl
@[simp] theorem Crew.setBar_replay : (s.setBar n b).replay = s.replay := rfl
@[simp] theorem Crew.setBar_replayVa : (s.setBar n b).replayVa = s.replayVa := rfl
@[simp] theorem Crew.setBar_firstIssue : (s.setBar n b).firstIssue = s.firstIssue := rfl
@[simp] theorem Crew.setBar_deadline : (s.setBar n b).deadline = s.deadline := rfl
@[simp] theorem Crew.setBar_waiting : (s.setBar n b).waiting = s.waiting := rfl
@[simp] theorem Crew.setBar_released : (s.setBar n b).released = s.released := rfl
@[simp] theorem Crew.setBar_halted : (s.setBar n b).halted = s.halted := rfl
@[simp] theorem Crew.setBar_frozen : (s.setBar n b).frozen = s.frozen := rfl
@[simp] theorem Crew.setBar_stalled : (s.setBar n b).stalled = s.stalled := rfl
@[simp] theorem Crew.setBar_awaitSib : (s.setBar n b).awaitSib = s.awaitSib := rfl
@[simp] theorem Crew.setBar_savedTrap : (s.setBar n b).savedTrap = s.savedTrap := rfl
@[simp] theorem Crew.setBar_recOff : (s.setBar n b).recOff = s.recOff := rfl
@[simp] theorem Crew.setBar_boundAt : (s.setBar n b).boundAt = s.boundAt := rfl
@[simp] theorem Crew.setBar_cut : (s.setBar n b).cut = s.cut := rfl
@[simp] theorem Crew.setBar_path : (s.setBar n b).path = s.path := rfl
@[simp] theorem Crew.setBar_pathFresh : (s.setBar n b).pathFresh = s.pathFresh := rfl
@[simp] theorem Crew.setBar_issued : (s.setBar n b).issued = s.issued := rfl
@[simp] theorem Crew.setBar_bmap : (s.setBar n b).bmap = s.bmap := rfl
@[simp] theorem Crew.setBar_sampleAt : (s.setBar n b).sampleAt = s.sampleAt := rfl
@[simp] theorem Crew.setBar_readyAt : (s.setBar n b).readyAt = s.readyAt := rfl
@[simp] theorem Crew.setBar_readySince : (s.setBar n b).readySince = s.readySince := rfl
@[simp] theorem Crew.setBar_lastIssue : (s.setBar n b).lastIssue = s.lastIssue := rfl
@[simp] theorem Crew.setBar_cache : (s.setBar n b).cache = s.cache := rfl
end setBar

section setPred
variable (s : Crew) (n : Nat) (m : Mask)
@[simp] theorem Crew.setPred_ctx : (s.setPred n m).ctx = s.ctx := by unfold Crew.setPred; split <;> rfl
@[simp] theorem Crew.setPred_task : (s.setPred n m).task = s.task := by unfold Crew.setPred; split <;> rfl
@[simp] theorem Crew.setPred_number : (s.setPred n m).number = s.number := by unfold Crew.setPred; split <;> rfl
@[simp] theorem Crew.setPred_prio : (s.setPred n m).prio = s.prio := by unfold Crew.setPred; split <;> rfl
@[simp] theorem Crew.setPred_rbase : (s.setPred n m).rbase = s.rbase := by unfold Crew.setPred; split <;> rfl
@[simp] theorem Crew.setPred_vregs : (s.setPred n m).vregs = s.vregs := by unfold Crew.setPred; split <;> rfl
@[simp] theorem Crew.setPred_sregs : (s.setPred n m).sregs = s.sregs := by unfold Crew.setPred; split <;> rfl
@[simp] theorem Crew.setPred_tiles : (s.setPred n m).tiles = s.tiles := by unfold Crew.setPred; split <;> rfl
@[simp] theorem Crew.setPred_widbase : (s.setPred n m).widbase = s.widbase := by unfold Crew.setPred; split <;> rfl
@[simp] theorem Crew.setPred_carry : (s.setPred n m).carry = s.carry := by unfold Crew.setPred; split <;> rfl
@[simp] theorem Crew.setPred_pc : (s.setPred n m).pc = s.pc := by unfold Crew.setPred; split <;> rfl
@[simp] theorem Crew.setPred_am : (s.setPred n m).am = s.am := by unfold Crew.setPred; split <;> rfl
@[simp] theorem Crew.setPred_live : (s.setPred n m).live = s.live := by unfold Crew.setPred; split <;> rfl
@[simp] theorem Crew.setPred_mode : (s.setPred n m).mode = s.mode := by unfold Crew.setPred; split <;> rfl
@[simp] theorem Crew.setPred_modex : (s.setPred n m).modex = s.modex := by unfold Crew.setPred; split <;> rfl
@[simp] theorem Crew.setPred_bars : (s.setPred n m).bars = s.bars := by unfold Crew.setPred; split <;> rfl
@[simp] theorem Crew.setPred_paths : (s.setPred n m).paths = s.paths := by unfold Crew.setPred; split <;> rfl
@[simp] theorem Crew.setPred_sreg : (s.setPred n m).sreg = s.sreg := by unfold Crew.setPred; split <;> rfl
@[simp] theorem Crew.setPred_vreg : (s.setPred n m).vreg = s.vreg := by unfold Crew.setPred; split <;> rfl
@[simp] theorem Crew.setPred_gens : (s.setPred n m).gens = s.gens := by unfold Crew.setPred; split <;> rfl
@[simp] theorem Crew.setPred_tvec : (s.setPred n m).tvec = s.tvec := by unfold Crew.setPred; split <;> rfl
@[simp] theorem Crew.setPred_frames : (s.setPred n m).frames = s.frames := by unfold Crew.setPred; split <;> rfl
@[simp] theorem Crew.setPred_remstat : (s.setPred n m).remstat = s.remstat := by unfold Crew.setPred; split <;> rfl
@[simp] theorem Crew.setPred_tsa : (s.setPred n m).tsa = s.tsa := by unfold Crew.setPred; split <;> rfl
@[simp] theorem Crew.setPred_tsb : (s.setPred n m).tsb = s.tsb := by unfold Crew.setPred; split <;> rfl
@[simp] theorem Crew.setPred_binding : (s.setPred n m).binding = s.binding := by unfold Crew.setPred; split <;> rfl
@[simp] theorem Crew.setPred_sib : (s.setPred n m).sib = s.sib := by unfold Crew.setPred; split <;> rfl
@[simp] theorem Crew.setPred_gramReport : (s.setPred n m).gramReport = s.gramReport := by unfold Crew.setPred; split <;> rfl
@[simp] theorem Crew.setPred_gramFlags : (s.setPred n m).gramFlags = s.gramFlags := by unfold Crew.setPred; split <;> rfl
@[simp] theorem Crew.setPred_pend : (s.setPred n m).pend = s.pend := by unfold Crew.setPred; split <;> rfl
@[simp] theorem Crew.setPred_tokens : (s.setPred n m).tokens = s.tokens := by unfold Crew.setPred; split <;> rfl
@[simp] theorem Crew.setPred_unobs : (s.setPred n m).unobs = s.unobs := by unfold Crew.setPred; split <;> rfl
@[simp] theorem Crew.setPred_skids : (s.setPred n m).skids = s.skids := by unfold Crew.setPred; split <;> rfl
@[simp] theorem Crew.setPred_lastPage : (s.setPred n m).lastPage = s.lastPage := by unfold Crew.setPred; split <;> rfl
@[simp] theorem Crew.setPred_park : (s.setPred n m).park = s.park := by unfold Crew.setPred; split <;> rfl
@[simp] theorem Crew.setPred_replay : (s.setPred n m).replay = s.replay := by unfold Crew.setPred; split <;> rfl
@[simp] theorem Crew.setPred_replayVa : (s.setPred n m).replayVa = s.replayVa := by unfold Crew.setPred; split <;> rfl
@[simp] theorem Crew.setPred_firstIssue : (s.setPred n m).firstIssue = s.firstIssue := by unfold Crew.setPred; split <;> rfl
@[simp] theorem Crew.setPred_deadline : (s.setPred n m).deadline = s.deadline := by unfold Crew.setPred; split <;> rfl
@[simp] theorem Crew.setPred_waiting : (s.setPred n m).waiting = s.waiting := by unfold Crew.setPred; split <;> rfl
@[simp] theorem Crew.setPred_released : (s.setPred n m).released = s.released := by unfold Crew.setPred; split <;> rfl
@[simp] theorem Crew.setPred_halted : (s.setPred n m).halted = s.halted := by unfold Crew.setPred; split <;> rfl
@[simp] theorem Crew.setPred_frozen : (s.setPred n m).frozen = s.frozen := by unfold Crew.setPred; split <;> rfl
@[simp] theorem Crew.setPred_stalled : (s.setPred n m).stalled = s.stalled := by unfold Crew.setPred; split <;> rfl
@[simp] theorem Crew.setPred_awaitSib : (s.setPred n m).awaitSib = s.awaitSib := by unfold Crew.setPred; split <;> rfl
@[simp] theorem Crew.setPred_savedTrap : (s.setPred n m).savedTrap = s.savedTrap := by unfold Crew.setPred; split <;> rfl
@[simp] theorem Crew.setPred_recOff : (s.setPred n m).recOff = s.recOff := by unfold Crew.setPred; split <;> rfl
@[simp] theorem Crew.setPred_boundAt : (s.setPred n m).boundAt = s.boundAt := by unfold Crew.setPred; split <;> rfl
@[simp] theorem Crew.setPred_cut : (s.setPred n m).cut = s.cut := by unfold Crew.setPred; split <;> rfl
@[simp] theorem Crew.setPred_path : (s.setPred n m).path = s.path := by unfold Crew.setPred; split <;> rfl
@[simp] theorem Crew.setPred_pathFresh : (s.setPred n m).pathFresh = s.pathFresh := by unfold Crew.setPred; split <;> rfl
@[simp] theorem Crew.setPred_issued : (s.setPred n m).issued = s.issued := by unfold Crew.setPred; split <;> rfl
@[simp] theorem Crew.setPred_bmap : (s.setPred n m).bmap = s.bmap := by unfold Crew.setPred; split <;> rfl
@[simp] theorem Crew.setPred_sampleAt : (s.setPred n m).sampleAt = s.sampleAt := by unfold Crew.setPred; split <;> rfl
@[simp] theorem Crew.setPred_readyAt : (s.setPred n m).readyAt = s.readyAt := by unfold Crew.setPred; split <;> rfl
@[simp] theorem Crew.setPred_readySince : (s.setPred n m).readySince = s.readySince := by unfold Crew.setPred; split <;> rfl
@[simp] theorem Crew.setPred_lastIssue : (s.setPred n m).lastIssue = s.lastIssue := by unfold Crew.setPred; split <;> rfl
@[simp] theorem Crew.setPred_cache : (s.setPred n m).cache = s.cache := by unfold Crew.setPred; split <;> rfl
end setPred

section next
variable (s : Crew)
@[simp] theorem Crew.next_ctx : (s.next).ctx = s.ctx := rfl
@[simp] theorem Crew.next_task : (s.next).task = s.task := rfl
@[simp] theorem Crew.next_number : (s.next).number = s.number := rfl
@[simp] theorem Crew.next_prio : (s.next).prio = s.prio := rfl
@[simp] theorem Crew.next_rbase : (s.next).rbase = s.rbase := rfl
@[simp] theorem Crew.next_vregs : (s.next).vregs = s.vregs := rfl
@[simp] theorem Crew.next_sregs : (s.next).sregs = s.sregs := rfl
@[simp] theorem Crew.next_tiles : (s.next).tiles = s.tiles := rfl
@[simp] theorem Crew.next_widbase : (s.next).widbase = s.widbase := rfl
@[simp] theorem Crew.next_carry : (s.next).carry = s.carry := rfl
@[simp] theorem Crew.next_am : (s.next).am = s.am := rfl
@[simp] theorem Crew.next_live : (s.next).live = s.live := rfl
@[simp] theorem Crew.next_mode : (s.next).mode = s.mode := rfl
@[simp] theorem Crew.next_modex : (s.next).modex = s.modex := rfl
@[simp] theorem Crew.next_preds : (s.next).preds = s.preds := rfl
@[simp] theorem Crew.next_bars : (s.next).bars = s.bars := rfl
@[simp] theorem Crew.next_paths : (s.next).paths = s.paths := rfl
@[simp] theorem Crew.next_sreg : (s.next).sreg = s.sreg := rfl
@[simp] theorem Crew.next_vreg : (s.next).vreg = s.vreg := rfl
@[simp] theorem Crew.next_gens : (s.next).gens = s.gens := rfl
@[simp] theorem Crew.next_tvec : (s.next).tvec = s.tvec := rfl
@[simp] theorem Crew.next_frames : (s.next).frames = s.frames := rfl
@[simp] theorem Crew.next_remstat : (s.next).remstat = s.remstat := rfl
@[simp] theorem Crew.next_tsa : (s.next).tsa = s.tsa := rfl
@[simp] theorem Crew.next_tsb : (s.next).tsb = s.tsb := rfl
@[simp] theorem Crew.next_binding : (s.next).binding = s.binding := rfl
@[simp] theorem Crew.next_sib : (s.next).sib = s.sib := rfl
@[simp] theorem Crew.next_gramReport : (s.next).gramReport = s.gramReport := rfl
@[simp] theorem Crew.next_gramFlags : (s.next).gramFlags = s.gramFlags := rfl
@[simp] theorem Crew.next_pend : (s.next).pend = s.pend := rfl
@[simp] theorem Crew.next_tokens : (s.next).tokens = s.tokens := rfl
@[simp] theorem Crew.next_unobs : (s.next).unobs = s.unobs := rfl
@[simp] theorem Crew.next_skids : (s.next).skids = s.skids := rfl
@[simp] theorem Crew.next_lastPage : (s.next).lastPage = s.lastPage := rfl
@[simp] theorem Crew.next_park : (s.next).park = s.park := rfl
@[simp] theorem Crew.next_replay : (s.next).replay = s.replay := rfl
@[simp] theorem Crew.next_replayVa : (s.next).replayVa = s.replayVa := rfl
@[simp] theorem Crew.next_firstIssue : (s.next).firstIssue = s.firstIssue := rfl
@[simp] theorem Crew.next_deadline : (s.next).deadline = s.deadline := rfl
@[simp] theorem Crew.next_waiting : (s.next).waiting = s.waiting := rfl
@[simp] theorem Crew.next_released : (s.next).released = s.released := rfl
@[simp] theorem Crew.next_halted : (s.next).halted = s.halted := rfl
@[simp] theorem Crew.next_frozen : (s.next).frozen = s.frozen := rfl
@[simp] theorem Crew.next_stalled : (s.next).stalled = s.stalled := rfl
@[simp] theorem Crew.next_awaitSib : (s.next).awaitSib = s.awaitSib := rfl
@[simp] theorem Crew.next_savedTrap : (s.next).savedTrap = s.savedTrap := rfl
@[simp] theorem Crew.next_recOff : (s.next).recOff = s.recOff := rfl
@[simp] theorem Crew.next_boundAt : (s.next).boundAt = s.boundAt := rfl
@[simp] theorem Crew.next_cut : (s.next).cut = s.cut := rfl
@[simp] theorem Crew.next_path : (s.next).path = s.path := rfl
@[simp] theorem Crew.next_pathFresh : (s.next).pathFresh = s.pathFresh := rfl
@[simp] theorem Crew.next_issued : (s.next).issued = s.issued := rfl
@[simp] theorem Crew.next_bmap : (s.next).bmap = s.bmap := rfl
@[simp] theorem Crew.next_sampleAt : (s.next).sampleAt = s.sampleAt := rfl
@[simp] theorem Crew.next_readyAt : (s.next).readyAt = s.readyAt := rfl
@[simp] theorem Crew.next_readySince : (s.next).readySince = s.readySince := rfl
@[simp] theorem Crew.next_lastIssue : (s.next).lastIssue = s.lastIssue := rfl
@[simp] theorem Crew.next_cache : (s.next).cache = s.cache := rfl
end next

/-! ## Reading back -/

/-- A scalar register after a write. -/
@[simp] theorem Crew.getS_setS (c : Crew) (n k : Nat) (x : Word) : (c.setS n x).getS k = if k = n then x else c.getS k :=
  SMap.getD_setD _ _ _ _ _

/-- Vector registers are not scalar ones. -/
@[simp] theorem Crew.getS_setV (c : Crew) (n l k : Nat) (x : Word) : (c.setV n l x).getS k = c.getS k := rfl

@[simp] theorem Crew.getV_setS (c : Crew) (n k l : Nat) (x : Word) : (c.setS n x).getV k l = c.getV k l := rfl

/-- A lane of a vector register after a write. -/
theorem Crew.getV_setV (c : Crew) (n l k j : Nat) (x : Word) :
    (c.setV n l x).getV k j = if k * 64 + j = n * 64 + l then x else c.getV k j :=
  SMap.getD_setD _ _ _ _ _

/-- Within the 64 lanes a write reaches one lane of one register. -/
theorem Crew.getV_setV_lane {l j : Nat} (c : Crew) (n k : Nat) (x : Word) (hl : l < 64) (hj : j < 64) :
    (c.setV n l x).getV k j = if k = n ∧ j = l then x else c.getV k j := by
  rw [Crew.getV_setV]
  congr 1
  simp only [eq_iff_iff]
  omega

@[simp] theorem Crew.pred_zero (c : Crew) : c.pred 0 = BitVec.allOnes 64 := rfl

/-- A predicate after a write: p0 discards it (R70). -/
theorem Crew.pred_setPred (c : Crew) (n k : Nat) (m : Mask) :
    (c.setPred n m).pred k = if k = n ∧ n ≠ 0 then m else c.pred k := by
  unfold Crew.setPred
  by_cases hn : n = 0
  · simp [hn]
  · rw [if_neg hn]
    unfold Crew.pred
    by_cases hk : k = 0
    · rw [if_pos hk, if_pos hk, if_neg (by omega)]
    · rw [if_neg hk, if_neg hk]
      refine (SMap.getD_setD _ _ _ _ _).trans ?_
      by_cases h : k = n <;> simp [h, hn]

/-- The crews after a write to a slot. -/
@[simp] theorem State.crews_setCrewAt (s : State) (k j : Nat) (c : Crew) :
    (s.setCrewAt k c).crews.get? j = if j = k then some c else s.crews.get? j := SMap.get?_insert _ _ _ _

@[simp] theorem State.fkey_setCrewAt (s : State) (k : Nat) (c : Crew) : (s.setCrewAt k c).fkey = s.fkey := rfl

@[simp] theorem State.fkey_mapCrew (s : State) (f : Crew → Crew) : (s.mapCrew f).fkey = s.fkey := rfl

@[simp] theorem State.crews_setCrew (s : State) (j : Nat) (c : Crew) :
    (s.setCrew c).crews.get? j = if j = s.fkey then some c else s.crews.get? j := SMap.get?_insert _ _ _ _

/-- The crew in focus, where one is bound. -/
theorem State.crew_of_crew? {s : State} {c : Crew} (h : s.crew? = some c) : s.crew = c := by
  unfold State.crew SMap.getD
  unfold State.crew? at h
  rw [h]

@[simp] theorem State.crew_setCrew (s : State) (c : Crew) : (s.setCrew c).crew = c := by
  unfold State.crew SMap.getD
  rw [show (s.setCrew c).fkey = s.fkey from rfl, State.crews_setCrew, if_pos rfl]

@[simp] theorem State.crew_mapCrew (s : State) (f : Crew → Crew) : (s.mapCrew f).crew = f s.crew := State.crew_setCrew _ _

@[simp] theorem State.crew?_mapCrew (s : State) (f : Crew → Crew) : (s.mapCrew f).crew? = some (f s.crew) := by
  unfold State.crew? State.mapCrew
  rw [show (s.setCrew (f s.crew)).fkey = s.fkey from rfl, State.crews_setCrew, if_pos rfl]

/-- A core after a write. -/
@[simp] theorem State.core_setCore (s : State) (n k : Nat) (c : Core) :
    (s.setCore n c).core k = if k = n then c else s.core k := SMap.getD_setD _ _ _ _ _

@[simp] theorem State.core_mapCore (s : State) (n k : Nat) (f : Core → Core) :
    (s.mapCore n f).core k = if k = n then f (s.core n) else s.core k := State.core_setCore _ _ _ _

/-- A die after a write. -/
@[simp] theorem State.die_setDie (s : State) (n k : Nat) (d : Die) :
    (s.setDie n d).die k = if k = n then d else s.die k := SMap.getD_setD _ _ _ _ _

@[simp] theorem State.die_mapDie (s : State) (n k : Nat) (f : Die → Die) :
    (s.mapDie n f).die k = if k = n then f (s.die n) else s.die k := State.die_setDie _ _ _ _

/-- A ring after an event: its own has taken it, the others keep theirs. -/
theorem State.ring_record (s : State) (n k tag cls type who payload : Nat) :
    (s.record n tag cls type who payload).ring k =
      if k = n then (s.ring n).push s.boots (ringCapacity n) (eventOf s.clock tag cls type who payload) else s.ring k :=
  SMap.getD_setD _ _ _ _ _

/-- A function after a change. -/
theorem State.func_mapFunc (s : State) (n k : Nat) (f : Func → Func) :
    (s.mapFunc n f).func k = if k = n then f (s.func n) else s.func k := SMap.getD_setD _ _ _ _ _

/-- Storage after a write of one byte. -/
@[simp] theorem State.byte_setByte (s : State) (a b : Nat) (x : Byte) :
    (s.setByte a x).byte b = if b = a then x else s.byte b := SMap.getD_setD _ _ _ _ _

end Sys2Proof.Machine
end

