-- ==== Sys2Proof/Laws/Memory.lean ====
section
/-! SUPPORT. The laws of memory: what is read after a write, which operations leave memory alone, and that every operation that
writes memory keeps its canonical form. -/

namespace Sys2Proof.Machine

/-! ## Reading back -/

/-- A byte outside the bytes written is as it was. -/
theorem State.byte_setBytes_out (n : Nat) : ∀ (s : State) (a x b : Nat), (b < a ∨ a + n ≤ b) →
    (s.setBytes a x n).byte b = s.byte b := by
  induction n with
  | zero => intro s a x b _; rfl
  | succ n ih =>
    intro s a x b h
    rw [State.setBytes, ih _ _ _ _ (by omega), State.byte_setByte, if_neg (by omega)]

/-- A byte inside the bytes written is that byte of the value (R6). -/
theorem State.byte_setBytes_in (n : Nat) : ∀ (s : State) (a x i : Nat), i < n →
    (s.setBytes a x n).byte (a + i) = BitVec.ofNat 8 (x / 256 ^ i) := by
  induction n with
  | zero => intro s a x i h; omega
  | succ n ih =>
    intro s a x i h
    rw [State.setBytes]
    cases i with
    | zero =>
      rw [State.byte_setBytes_out _ _ _ _ _ (by omega), State.byte_setByte, if_pos (Nat.add_zero a), Nat.pow_zero, Nat.div_one]
    | succ i =>
      rw [show a + (i + 1) = a + 1 + i by omega, ih _ _ _ _ (by omega), Nat.div_div_eq_div_mul, Nat.pow_succ, Nat.mul_comm 256]

/-- Bytes depend on the bytes alone. -/
theorem State.bytes_congr {s t : State} (n : Nat) : ∀ a : Nat, (∀ i, i < n → s.byte (a + i) = t.byte (a + i)) →
    s.bytes a n = t.bytes a n := by
  induction n with
  | zero => intro a _; rfl
  | succ n ih =>
    intro a h
    rw [State.bytes, State.bytes, ih (a + 1) (fun i hi => by
      have := h (i + 1) (by omega)
      rwa [show a + 1 + i = a + (i + 1) by omega]), show s.byte a = t.byte a from h 0 (by omega)]

/-- Reading outside the bytes written. -/
theorem State.bytes_setBytes_out (s : State) (a x n b m : Nat) (h : b + m ≤ a ∨ a + n ≤ b) :
    (s.setBytes a x n).bytes b m = s.bytes b m :=
  State.bytes_congr m b (fun i hi => State.byte_setBytes_out n s a x (b + i) (by omega))

/-- Reading what was written (R6). -/
theorem State.bytes_setBytes (n : Nat) : ∀ (s : State) (a x : Nat), (s.setBytes a x n).bytes a n = x % 256 ^ n := by
  induction n with
  | zero => intro s a x; simp [State.bytes, Nat.mod_one]
  | succ n ih =>
    intro s a x
    rw [State.setBytes, State.bytes, ih, State.byte_setBytes_out n _ _ _ _ (by omega), State.byte_setByte, if_pos rfl,
      BitVec.toNat_ofNat, Nat.pow_succ _ n, Nat.mul_comm (256 ^ n), Nat.mod_mul]

/-! ## What leaves memory alone -/

/-- A fold of steps that leave memory alone. -/
theorem State.foldl_mem {β : Type} (f : State → β → State) (h : ∀ s b, (f s b).mem = s.mem) (l : List β) :
    ∀ s : State, (l.foldl f s).mem = s.mem := by
  induction l with
  | nil => intro s; rfl
  | cons b l ih => intro s; rw [List.foldl_cons, ih, h]

@[simp] theorem State.recordCrew_mem (s : State) (k cls type payload : Nat) : (s.recordCrew k cls type payload).mem = s.mem :=
  State.record_mem _ _ _ _ _ _ _

@[simp] theorem State.recordForeman_mem (s : State) (die tag cls type payload : Nat) :
    (s.recordForeman die tag cls type payload).mem = s.mem := State.record_mem _ _ _ _ _ _ _

@[simp] theorem State.recordMode_mem (s : State) (k : Nat) (r : Region) (kind reason : Nat) :
    (s.recordMode k r kind reason).mem = s.mem := State.record_mem _ _ _ _ _ _ _

@[simp] theorem State.postRecord_mem (s : State) (n kind payload : Nat) : (s.postRecord n kind payload).mem = s.mem :=
  State.mapFunc_mem _ _ _

@[simp] theorem State.bump_mem (s : State) (core k n : Nat) : (s.bump core k n).mem = s.mem := by
  unfold State.bump
  simp only []
  split
  · simp
  · split <;> simp

@[simp] theorem State.countEvent_mem (s : State) (core code task n : Nat) : (s.countEvent core code task n).mem = s.mem :=
  State.foldl_mem (fun (s : State) (e : Nat × Counter) => s.bump core e.1 n) (fun s e => State.bump_mem s core e.1 n) _ s

@[simp] theorem State.countPage_mem (s : State) (core cn va idx : Nat) : (s.countPage core cn va idx).mem = s.mem := by
  unfold State.countPage
  split <;> rfl

@[simp] theorem State.holdTlb_mem (s : State) (core : Nat) (lane : Option (Nat × Nat)) (e : TlbEntry) :
    (s.holdTlb core lane e).mem = s.mem := by
  unfold State.holdTlb
  have h : (if (s.core core).tlb.length < 64 ∧ (s.die (dieOf core)).tlb.length < 8192 then ((0 : DWord), s) else s.takeFree).2.mem =
      s.mem := by split <;> rfl
  cases lane <;> simpa using h

@[simp] theorem State.heldTlb_mem (s : State) (core cn va : Nat) : (s.heldTlb core cn va).2.mem = s.mem := by
  unfold State.heldTlb
  simp only []
  split
  · rfl
  all_goals
    repeat' split
    all_goals rfl

@[simp] theorem State.countTlb_mem (s : State) (core : Nat) (lane : Option (Nat × Nat)) (m : TlbMiss) :
    (s.countTlb core lane m).mem = s.mem := by
  unfold State.countTlb
  cases m <;> simp

@[simp] theorem State.xlate_mem (s : State) (core : Nat) (lane : Option (Nat × Nat)) (cn va : Nat) (need : Need) :
    (s.xlate core lane cn va need).2.mem = s.mem := by
  unfold State.xlate
  split
  · rfl
  · split
    · rfl
    · rfl
    · split
      · rfl
      · split
        · rename_i h
          have := State.heldTlb_mem s core cn va
          rw [h] at this
          simpa using this
        · rename_i h
          have := State.heldTlb_mem s core cn va
          rw [h] at this
          simp only []
          split <;> simpa using this

@[simp] theorem State.xlateAll_mem (core : Nat) (key : Option Nat) (cn : Nat) (need : Need) (xs : List (Nat × Nat)) :
    ∀ s : State, (s.xlateAll core key cn need xs).2.mem = s.mem := by
  induction xs with
  | nil => intro s; rfl
  | cons x xs ih =>
    intro s
    rw [State.xlateAll]
    simp only [ih, State.xlate_mem]

@[simp] theorem State.classify_mem (s : State) (core : Nat) (key : Option Nat) (cn size : Nat) (need : Need) (isLoad : Bool)
    (lanes : List (Nat × Nat)) : (s.classify core key cn size need isLoad lanes).2.mem = s.mem := by
  unfold State.classify
  simp only []
  split
  · rfl
  · split
    · simp
    · split
      · simp
      · split
        · simp
        · split <;> simp

@[simp] theorem State.sendFault_mem (s : State) (r : FaultRec) : (s.sendFault r).mem = s.mem := by
  have h : ((s.recordFault r 0).countEvent r.core 0x1004 r.task 1).mem = s.mem := by
    unfold State.recordFault
    rw [State.countEvent_mem, State.record_mem]
  unfold State.sendFault
  simp only []
  split <;> exact h

@[simp] theorem State.sendFaultsOf_mem (s : State) (core slot who task cn : Nat) (need : Need) (xs : List LaneXlat) :
    (s.sendFaultsOf core slot who task cn need xs).mem = s.mem := by
  unfold State.sendFaultsOf
  generalize hf : (fun (acc : State × List Nat) (x : LaneXlat) => _) = f
  have hstep : ∀ acc x, (f acc x).1.mem = acc.1.mem := by
    intro acc x
    rw [← hf]
    simp only []
    split
    · rfl
    · split
      · simp
      · rfl
  have : ∀ (l : List LaneXlat) (acc : State × List Nat), (l.foldl f acc).1.mem = acc.1.mem := by
    intro l
    induction l with
    | nil => intro acc; rfl
    | cons x l ih => intro acc; rw [List.foldl_cons, ih, hstep]
  exact this xs _

@[simp] theorem State.sendFaults_mem (s : State) (core slot cn : Nat) (need : Need) (xs : List LaneXlat) :
    (s.sendFaults core slot cn need xs).mem = s.mem := State.sendFaultsOf_mem _ _ _ _ _ _ _ _

@[simp] theorem State.countL1_mem (s : State) (k : Nat) (p : Pend) (a : LaneAcc) (missed : Bool) :
    (s.countL1 k p a missed).mem = s.mem := by
  unfold State.countL1
  split
  · rfl
  · exact State.countEvent_mem _ _ _ _ _

@[simp] theorem State.parkOn_mem (s : State) (m : Mask) (need : Need) (xs : List LaneXlat) : (s.parkOn m need xs).mem = s.mem := by
  unfold State.parkOn
  simp [State.parkFor]

@[simp] theorem State.acquireL1_mem (s : State) (core k : Nat) : (s.acquireL1 core k).mem = s.mem := by
  unfold State.acquireL1
  split <;> simp

/-! ## The canonical form -/

/-- A fold of steps that keep the canonical form. -/
theorem State.foldl_wf {β : Type} (f : State → β → State) (h : ∀ s b, Memory.wf s.mem → Memory.wf (f s b).mem) (l : List β) :
    ∀ s : State, Memory.wf s.mem → Memory.wf (l.foldl f s).mem := by
  induction l with
  | nil => intro s hs; exact hs
  | cons b l ih => intro s hs; exact ih _ (h s b hs)

/-- A filter of the pairs keeps the canonical form. -/
theorem SMap.sortedFrom_filter {α : Type} (p : Nat × α → Bool) : ∀ {lo : Nat} {m : SMap α},
    m.sortedFrom lo = true → SMap.sortedFrom lo (m.filter p) = true
  | _, [], _ => rfl
  | lo, (j, y) :: m, h => by
    simp only [SMap.sortedFrom, Bool.and_eq_true, decide_eq_true_eq] at h
    have ih := SMap.sortedFrom_filter p h.2
    rw [List.filter_cons]
    split
    · simp only [SMap.sortedFrom, Bool.and_eq_true, decide_eq_true_eq]
      exact ⟨h.1, ih⟩
    · exact SMap.sortedFrom_mono (by omega) ih

theorem Memory.wf_filter (p : Host.Cell → Bool) {m : List Host.Cell} (h : Memory.wf m) : Memory.wf (m.filter p) := by
  unfold Memory.wf at h ⊢
  rw [SMap.wf_iff] at h ⊢
  exact ⟨SMap.sortedFrom_filter p h.1, fun e he => h.2 e (List.mem_filter.mp he).1⟩

/-- The memory of reset is in canonical form. -/
theorem State.reset_wf : Memory.wf State.reset.mem := rfl

theorem State.setByte_wf {s : State} (h : Memory.wf s.mem) (a : Nat) (x : Byte) : Memory.wf (s.setByte a x).mem :=
  SMap.wf_setD h a x

theorem State.setBytes_wf (n : Nat) : ∀ {s : State} (a x : Nat), Memory.wf s.mem → Memory.wf (s.setBytes a x n).mem := by
  induction n with
  | zero => intro s a x h; exact h
  | succ n ih => intro s a x h; exact ih _ _ (State.setByte_wf h _ _)

theorem State.setPhysBytes_wf (n : Nat) : ∀ {s : State} (a x : Nat), Memory.wf s.mem → Memory.wf (s.setPhysBytes a x n).mem := by
  induction n with
  | zero => intro s a x h; exact h
  | succ n ih => intro s a x h; exact ih _ _ (State.setByte_wf h _ _)

theorem State.zeroPage_wf {s : State} (h : Memory.wf s.mem) (pa : Nat) : Memory.wf (s.zeroPage pa).mem := Memory.wf_filter _ h

theorem State.copyPage_wf {s : State} (h : Memory.wf s.mem) (old new size : Nat) : Memory.wf (s.copyPage old new size).mem :=
  State.foldl_wf _ (fun _ _ hs => State.setByte_wf hs _ _) _ _ (Memory.wf_filter _ h)

theorem State.unitWrite_wf {s : State} (h : Memory.wf s.mem) (cn va n x : Nat) : Memory.wf (s.unitWrite cn va n x).mem := by
  unfold State.unitWrite
  split
  · exact State.setBytes_wf _ _ _ h
  · exact h

theorem State.postNotification_wf {s : State} (h : Memory.wf s.mem) (pg : Nat) : Memory.wf (s.postNotification pg).mem := by
  unfold State.postNotification
  simp only []
  split
  · exact h
  · split
    · split
      · exact h
      · simpa using h
    · split
      · simpa using State.setBytes_wf _ _ _ h
      · simpa using h

theorem State.request_wf {s : State} (h : Memory.wf s.mem) (core cn va : Nat) (loc : Loc) :
    Memory.wf (s.request core cn va loc).mem := by
  unfold State.request
  simp only []
  split
  · exact h
  · split
    · exact State.postNotification_wf (by simpa using h) _
    · simpa using h

theorem State.requestIf_wf {s : State} (h : Memory.wf s.mem) (b : Bool) (core cn va : Nat) (loc : Loc) :
    Memory.wf (s.requestIf b core cn va loc).mem := by
  unfold State.requestIf
  split
  · exact State.request_wf h _ _ _ _
  · exact h

theorem State.writeAt_wf {s : State} (h : Memory.wf s.mem) (core : Nat) (loc : Loc) (size x : Nat) :
    Memory.wf (s.writeAt core loc size x).mem := by
  unfold State.writeAt
  simp only []
  split
  · exact State.setBytes_wf _ _ _ h
  · simpa using State.setBytes_wf _ _ _ h

@[simp] theorem State.fillL1_mem (s : State) (core line : Nat) : (s.fillL1 core line).mem = s.mem := by
  unfold State.fillL1
  simp only []
  split <;> simp

@[simp] theorem State.leaveL1_mem (s : State) (core : Nat) (lines : List Nat) : (s.leaveL1 core lines).mem = s.mem := by
  unfold State.leaveL1
  simp

@[simp] theorem State.readPlain_mem (s : State) (core : Nat) (loc : Loc) (size : Nat) :
    (s.readPlain core loc size).2.2.mem = s.mem := by
  unfold State.readPlain
  split
  · rfl
  · split
    · simp
    · split <;> simp

@[simp] theorem State.readBypass_mem (s : State) (core : Nat) (loc : Loc) (size : Nat) : (s.readBypass core loc size).2.mem = s.mem := by
  unfold State.readBypass
  simp only []
  split <;> simp

theorem State.performLane_wf {s : State} (h : Memory.wf s.mem) (k : Nat) (p : Pend) (a : LaneAcc) :
    Memory.wf (s.performLane k p a).1.mem := by
  unfold State.performLane
  simp only []
  split
  · split
    · split
      · rw [State.mapCrewAt_mem]; exact State.requestIf_wf (by simpa using h) _ _ _ _ _
      · simpa using h
    · split
      · rw [State.mapCrewAt_mem]; exact State.requestIf_wf (by simpa using h) _ _ _ _ _
      · simpa using h
  · split
    · rw [State.mapCrewAt_mem]; exact State.requestIf_wf (by simpa using h) _ _ _ _ _
    · simpa using h
  · exact State.requestIf_wf (State.writeAt_wf h _ _ _ _) _ _ _ _ _
  · exact State.requestIf_wf (State.writeAt_wf h _ _ _ _) _ _ _ _ _
  · rw [State.mapCrewAt_mem]
    refine State.requestIf_wf ?_ _ _ _ _ _
    split
    · exact State.writeAt_wf (by simpa using h) _ _ _ _
    · simpa using h
  · exact h

theorem State.performLanes_wf (k : Nat) (p : Pend) (accs : List LaneAcc) :
    ∀ {s : State} (lines : List Nat), Memory.wf s.mem → Memory.wf (s.performLanes k p accs lines).1.mem := by
  induction accs with
  | nil => intro s lines h; exact h
  | cons a rest ih => intro s lines h; exact ih _ (State.performLane_wf h _ _ _)

theorem State.performAll_wf {s : State} (h : Memory.wf s.mem) (k : Nat) (p : Pend) : Memory.wf (s.performAll k p).mem :=
  State.performLanes_wf k p p.accs [] h

@[simp] theorem State.spendLines_mem (s : State) (k seq : Nat) (lines : List Nat) : (s.spendLines k seq lines).mem = s.mem := by
  unfold State.spendLines
  split <;> simp

theorem State.perform_wf {s : State} (h : Memory.wf s.mem) (k : Nat) (want : Pend → Bool) : Memory.wf (s.perform k want).mem := by
  unfold State.perform
  split
  · exact h
  · simp only []
    split
    · exact h
    · refine State.foldl_wf _ (fun s m hs => ?_) _ _ (by simpa using h)
      rw [State.spendLines_mem]
      exact State.performLanes_wf k m.1 m.1.accs [] hs

theorem State.completeLanes_wf {s : State} (h : Memory.wf s.mem) (k i : Nat) (m : Mask) (ok : PendKind → Bool) :
    Memory.wf (s.completeLanes k i m ok).mem := by
  unfold State.completeLanes
  split
  · exact h
  · split
    · exact h
    · simp only []
      split
      · exact h
      · rw [State.spendLines_mem]
        exact State.performLanes_wf k _ _ [] (by simpa using h)

theorem State.writeBack_wf {s : State} (h : Memory.wf s.mem) (core : Nat) (which : Nat → Bool) :
    Memory.wf (s.writeBack core which).mem := by
  unfold State.writeBack
  refine State.foldl_wf _ (fun s m hs => ?_) _ _ h
  split
  · exact State.foldl_wf _ (fun s r hs => State.setBytes_wf _ _ _ hs) _ _ hs
  · exact hs

theorem State.release_wf {s : State} (h : Memory.wf s.mem) (key k : Nat) : Memory.wf (s.release key k).mem := by
  unfold State.release
  split
  · exact h
  · simp only []
    split <;> split
    · exact State.writeBack_wf (State.perform_wf h _ _) _ _
    · exact State.writeBack_wf (by simpa using State.perform_wf h _ _) _ _
    · exact State.perform_wf h _ _
    · simpa using State.perform_wf h _ _

/-- What performs accesses of some crews keeps the canonical form. -/
theorem State.settleScopes_wf {s : State} (h : Memory.wf s.mem) (core : Nat) (self : Option Nat) :
    Memory.wf (s.settleScopes core self).mem := by
  refine State.foldl_wf _ (fun s k hs => ?_) _ _ h
  split
  · exact hs
  · exact State.perform_wf hs _ _

theorem State.settlePool_wf {s : State} (h : Memory.wf s.mem) (core off len : Nat) : Memory.wf (s.settlePool core off len).mem :=
  State.foldl_wf _ (fun _ _ hs => State.perform_wf hs _ _) _ _ h

theorem State.acquire_wf {s : State} (h : Memory.wf s.mem) (key k : Nat) : Memory.wf (s.acquire key k).mem := by
  unfold State.acquire
  rw [State.acquireL1_mem]
  exact State.perform_wf h _ _

theorem State.storeDone_wf {s : State} (h : Memory.wf s.mem) (cn die va value : Nat) :
    Memory.wf (s.storeDone cn die va value).mem := by
  unfold State.storeDone
  split
  · exact State.setBytes_wf _ _ _ h
  · simpa using h
  · exact h

@[simp] theorem State.keepTrace_mem (s : State) (t t' : Trace) : (s.keepTrace t t').mem = s.mem := rfl

theorem State.putPacket_wf {s : State} (h : Memory.wf s.mem) (t : Trace) (k type payload : Nat) :
    Memory.wf (s.putPacket t k type payload).mem := by
  unfold State.putPacket
  simp only []
  split
  · rw [State.keepTrace_mem]
    exact State.unitWrite_wf h _ _ _ _
  · split
    · rw [State.mapCtx_mem]
      refine State.unitWrite_wf ?_ _ _ _ _
      rw [State.keepTrace_mem]
      exact State.unitWrite_wf (State.unitWrite_wf h _ _ _ _) _ _ _ _
    · rw [State.keepTrace_mem]
      exact State.unitWrite_wf (State.unitWrite_wf h _ _ _ _) _ _ _ _

theorem State.packet_wf {s : State} (h : Memory.wf s.mem) (k type payload : Nat) : Memory.wf (s.packet k type payload).mem := by
  unfold State.packet
  split
  · exact h
  · split
    · exact h
    · split
      · exact State.putPacket_wf h _ _ _ _
      · simp only []
        split
        · rw [State.mapCrewAt_mem]
          exact State.putPacket_wf h _ _ _ _
        · refine State.putPacket_wf ?_ _ _ _ _
          rw [State.mapCrewAt_mem]
          exact State.putPacket_wf h _ _ _ _

theorem State.traceBranch_wf {s : State} (h : Memory.wf s.mem) (k : Nat) (taken : Bool) : Memory.wf (s.traceBranch k taken).mem := by
  unfold State.traceBranch
  split
  · exact h
  · split
    · exact h
    · simp only []
      split
      · simpa using h
      · rw [State.mapCrewAt_mem]
        exact State.putPacket_wf h _ _ _ _

end Sys2Proof.Machine
end

