-- ==== Sys2Proof/Laws/Ops.lean ====
section
/-! SUPPORT. What the shared operations of issuing can do: recording and counting, taking a trap, completing an instruction, and
that each keeps the canonical form of memory. -/

namespace Sys2Proof.Machine

/-! ## Recording -/

/-- A crew without what only the recorder and the arbitration keep of it: path signature, open BMAP, sample period, when it became ready and
when it issued, and the register cache, which changes timing only (R60). -/
def Crew.unsigned (c : Crew) : Crew :=
  { c with path := 0, pathFresh := false, bmap := [], sampleAt := 0
           stalled := false, readyAt := (0, 0), readySince := 0, lastIssue := (0, 0), cache := [] }

/-- `t` is `s` but for the recorder and the counters: rings, freezes, traces and their buffers, what the recorder keeps in a crew,
the counters of the cores and what their overflow sets. -/
structure Recorded (s t : State) : Prop where
  crews : ∀ k, (t.crews.get? k).map Crew.unsigned = (s.crews.get? k).map Crew.unsigned
  cores : ∀ n, (t.core n).uncounted = (s.core n).uncounted
  focusCore : t.focusCore = s.focusCore
  focusSlot : t.focusSlot = s.focusSlot
  same : t.clock = s.clock ∧ t.freeIx = s.freeIx ∧ t.agenda = s.agenda ∧ t.poison = s.poison ∧ t.pageCtr = s.pageCtr ∧
    t.migReqs = s.migReqs ∧ t.dies = s.dies ∧ t.regions = s.regions ∧ t.tasks = s.tasks ∧ t.coppices = s.coppices ∧
    t.rafts = s.rafts ∧ t.msgs = s.msgs ∧ t.current = s.current
  quiet : s.traces = [] → t.traces = [] ∧ t.mem = s.mem
  wf : Memory.wf s.mem → Memory.wf t.mem

theorem Recorded.refl (s : State) : Recorded s s :=
  ⟨fun _ => rfl, fun _ => rfl, rfl, rfl, ⟨rfl, rfl, rfl, rfl, rfl, rfl, rfl, rfl, rfl, rfl, rfl, rfl, rfl⟩, fun h => ⟨h, rfl⟩, id⟩

theorem Recorded.trans {s t u : State} (h : Recorded s t) (h' : Recorded t u) : Recorded s u where
  crews k := (h'.crews k).trans (h.crews k)
  cores n := (h'.cores n).trans (h.cores n)
  focusCore := h'.focusCore.trans h.focusCore
  focusSlot := h'.focusSlot.trans h.focusSlot
  same := by
    have a := h.same
    have b := h'.same
    simp only [b, a, and_self]
  quiet e := ⟨(h'.quiet (h.quiet e).1).1, ((h'.quiet (h.quiet e).1).2).trans (h.quiet e).2⟩
  wf e := h'.wf (h.wf e)

theorem Recorded.fkey {s t : State} (h : Recorded s t) : t.fkey = s.fkey := by
  unfold State.fkey
  rw [h.focusCore, h.focusSlot]

/-- The crew in focus afterwards differs only in what the recorder keeps. -/
theorem Recorded.crew {s t : State} (h : Recorded s t) {c : Crew} (hc : s.crew? = some c) :
    ∃ c', t.crew? = some c' ∧ c'.unsigned = c.unsigned := by
  have hk := h.crews s.fkey
  unfold State.crew? at hc
  rw [hc] at hk
  unfold State.crew?
  rw [h.fkey]
  cases hx : t.crews.get? s.fkey with
  | none => rw [hx] at hk; simp at hk
  | some c' => rw [hx] at hk; exact ⟨c', rfl, by simpa using hk⟩

theorem Recorded.isSome {s t : State} (h : Recorded s t) (hc : s.crew?.isSome = true) : t.crew?.isSome = true := by
  obtain ⟨c, hc⟩ := Option.isSome_iff_exists.mp hc
  obtain ⟨c', h', _⟩ := h.crew hc
  rw [h']
  rfl

theorem State.record_recorded (s : State) (n tag cls type who payload : Nat) :
    Recorded s (s.record n tag cls type who payload) where
  crews k := by rw [State.record_crews]
  cores k := by unfold State.core; rw [State.record_cores]
  focusCore := State.record_focusCore _ _ _ _ _ _ _
  focusSlot := State.record_focusSlot _ _ _ _ _ _ _
  same := by simp
  quiet e := ⟨by rw [State.record_traces, e], State.record_mem _ _ _ _ _ _ _⟩
  wf e := by rwa [State.record_mem]

theorem State.recordCrew_recorded (s : State) (k cls type payload : Nat) : Recorded s (s.recordCrew k cls type payload) :=
  State.record_recorded _ _ _ _ _ _ _

/-- A change of what the recorder keeps in a crew. -/
theorem State.mapCrewAt_recorded (s : State) (k : Nat) (f : Crew → Crew) (hf : ∀ c, (f c).unsigned = c.unsigned) :
    Recorded s (s.mapCrewAt k f) where
  crews j := by
    unfold State.mapCrewAt
    cases h : s.crews.get? k with
    | none => rfl
    | some c =>
      simp only [State.crews_setCrewAt]
      by_cases hj : j = k
      · subst hj
        rw [if_pos rfl, h, Option.map_some, Option.map_some, hf]
      · rw [if_neg hj]
  cores n := by unfold State.core; rw [State.mapCrewAt_cores]
  focusCore := State.mapCrewAt_focusCore _ _ _
  focusSlot := State.mapCrewAt_focusSlot _ _ _
  same := by simp
  quiet e := ⟨by rw [State.mapCrewAt_traces, e], State.mapCrewAt_mem _ _ _⟩
  wf e := by rwa [State.mapCrewAt_mem]

/-- Changing the crew in focus, where one is bound, is changing the crew in its slot. -/
theorem State.mapCrew_eq_mapCrewAt {s : State} (hc : s.crew?.isSome = true) (f : Crew → Crew) :
    s.mapCrew f = s.mapCrewAt s.fkey f := by
  obtain ⟨c, hc⟩ := Option.isSome_iff_exists.mp hc
  unfold State.mapCrew State.mapCrewAt State.setCrew
  rw [State.crew_of_crew? hc]
  unfold State.crew? at hc
  rw [hc]

theorem State.mapCrew_recorded {s : State} (hc : s.crew?.isSome = true) (f : Crew → Crew)
    (hf : ∀ c, (f c).unsigned = c.unsigned) : Recorded s (s.mapCrew f) := by
  rw [State.mapCrew_eq_mapCrewAt hc]
  exact State.mapCrewAt_recorded s _ f hf

/-- A change of traces, contexts and memory alone. -/
theorem Recorded.of_eq {s t : State} (hs : ∃ tr cs m, t = { s with traces := tr, ctxs := cs, mem := m })
    (hq : s.traces = [] → t.traces = [] ∧ t.mem = s.mem) (hw : Memory.wf s.mem → Memory.wf t.mem) : Recorded s t := by
  obtain ⟨tr, cs, m, rfl⟩ := hs
  exact ⟨fun _ => rfl, fun _ => rfl, rfl, rfl, ⟨rfl, rfl, rfl, rfl, rfl, rfl, rfl, rfl, rfl, rfl, rfl, rfl, rfl⟩, hq, hw⟩

theorem State.setBytes_eq (n : Nat) : ∀ (s : State) (a x : Nat), ∃ m, s.setBytes a x n = { s with mem := m } := by
  induction n with
  | zero => intro s a x; exact ⟨s.mem, rfl⟩
  | succ n ih =>
    intro s a x
    obtain ⟨m, h⟩ := ih (s.setByte a (BitVec.ofNat 8 x)) (a + 1) (x / 256)
    exact ⟨m, h⟩

theorem State.unitWrite_eq (s : State) (cn va n x : Nat) : ∃ m, s.unitWrite cn va n x = { s with mem := m } := by
  unfold State.unitWrite
  split
  · exact State.setBytes_eq _ _ _ _
  · exact ⟨s.mem, rfl⟩

theorem State.mapCtx_eq (s : State) (n : Nat) (f : Ctx → Ctx) : ∃ cs, s.mapCtx n f = { s with ctxs := cs } := by
  unfold State.mapCtx
  cases s.ctxs.get? n with
  | none => exact ⟨s.ctxs, rfl⟩
  | some c => exact ⟨_, rfl⟩

theorem State.putPacket_eq (s : State) (t : Trace) (k type payload : Nat) :
    ∃ tr cs m, s.putPacket t k type payload = { s with traces := tr, ctxs := cs, mem := m } := by
  unfold State.putPacket
  simp only []
  split
  · obtain ⟨m1, h1⟩ := State.unitWrite_eq s t.ctx (t.va + 8) 8 (t.dropped + 1)
    rw [h1]
    exact ⟨_, s.ctxs, m1, rfl⟩
  · obtain ⟨m1, h1⟩ := State.unitWrite_eq s t.ctx (t.va + 64 + t.written) 16
      (layout [(4, s.clock), (1, type), (1, k % 64), (2, k / 64), (8, payload)])
    obtain ⟨m2, h2⟩ := State.unitWrite_eq { s with mem := m1 } t.ctx t.va 8 (t.written + 16)
    rw [h1, h2]
    split
    · generalize hx : (State.keepTrace _ _ _ : State) = x
      obtain ⟨m3, h3⟩ := State.unitWrite_eq x t.ctx (t.va + 20) 4 3
      rw [h3]
      obtain ⟨cs, h4⟩ := State.mapCtx_eq { x with mem := m3 } t.ctx (fun c => { c with trcstat := 3 })
      rw [h4, ← hx]
      exact ⟨_, cs, m3, rfl⟩
    · exact ⟨_, s.ctxs, m2, rfl⟩

/-- A packet is written only into an armed trace. -/
theorem State.putPacket_recorded {s : State} (hs : s.traces ≠ []) (t : Trace) (k type payload : Nat) :
    Recorded s (s.putPacket t k type payload) :=
  Recorded.of_eq (State.putPacket_eq s t k type payload) (fun e => absurd e hs) (fun e => State.putPacket_wf e _ _ _ _)

theorem State.traces_of_traceOf {s : State} {c : Crew} {t : Trace} (h : s.traceOf c = some t) : s.traces ≠ [] := by
  unfold State.traceOf at h
  intro e
  rw [e] at h
  simp at h

theorem State.packet_recorded (s : State) (k type payload : Nat) : Recorded s (s.packet k type payload) := by
  unfold State.packet
  split
  · exact Recorded.refl s
  · rename_i c _
    split
    · exact Recorded.refl s
    · rename_i t h
      split
      · exact State.putPacket_recorded (State.traces_of_traceOf h) _ _ _ _
      · simp only []
        have h1 := (State.putPacket_recorded (State.traces_of_traceOf h) t k 2 (bmapPayload c.bmap)).trans
          (State.mapCrewAt_recorded (s.putPacket t k 2 (bmapPayload c.bmap)) k (fun c => { c with bmap := [] }) (fun _ => rfl))
        split
        · exact h1
        · rename_i h2
          exact h1.trans (State.putPacket_recorded (State.traces_of_traceOf h2) _ _ _ _)

theorem State.traceBranch_recorded (s : State) (k : Nat) (taken : Bool) : Recorded s (s.traceBranch k taken) := by
  unfold State.traceBranch
  split
  · exact Recorded.refl s
  · split
    · exact Recorded.refl s
    · rename_i h
      simp only []
      split
      · exact State.mapCrewAt_recorded s k _ (fun _ => rfl)
      · exact (State.putPacket_recorded (State.traces_of_traceOf h) _ _ _ _).trans
          (State.mapCrewAt_recorded _ k _ (fun _ => rfl))

/-! ## Counting -/

theorem State.mapFunc_recorded (s : State) (n : Nat) (f : Func → Func) : Recorded s (s.mapFunc n f) where
  crews k := by rw [State.mapFunc_crews]
  cores k := by unfold State.core; rw [State.mapFunc_cores]
  focusCore := State.mapFunc_focusCore _ _ _
  focusSlot := State.mapFunc_focusSlot _ _ _
  same := by simp
  quiet e := ⟨by rw [State.mapFunc_traces, e], State.mapFunc_mem _ _ _⟩
  wf e := by rwa [State.mapFunc_mem]

theorem State.mapCore_counters_recorded (s : State) (core : Nat) (f : Core → Core)
    (hf : ∀ c, (f c).uncounted = c.uncounted) : Recorded s (s.mapCore core f) where
  crews k := by rw [State.mapCore_crews]
  cores k := by
    rw [State.core_mapCore]
    by_cases h : k = core
    · rw [if_pos h, hf, h]
    · rw [if_neg h]
  focusCore := State.mapCore_focusCore _ _ _
  focusSlot := State.mapCore_focusSlot _ _ _
  same := by simp
  quiet e := ⟨by rw [State.mapCore_traces, e], State.mapCore_mem _ _ _⟩
  wf e := by rwa [State.mapCore_mem]

theorem State.bump_recorded (s : State) (core k n : Nat) : Recorded s (s.bump core k n) := by
  unfold State.bump
  simp only []
  have h1 := State.mapCore_counters_recorded s core (fun c => { c with
    ctrs := c.ctrs.setD k { (s.core core).ctrs.getD k Counter.zero with
      count := (((s.core core).ctrs.getD k Counter.zero).count + n) % 2 ^ 48 } Counter.zero }) (fun _ => rfl)
  split
  · exact h1
  · have h2 : ∀ (x : State) (cs : SMap Ctx), Recorded x { x with ctxs := cs } := fun x cs =>
      Recorded.of_eq ⟨x.traces, cs, x.mem, rfl⟩ (fun e => ⟨e, rfl⟩) id
    split
    · exact ((h1.trans (h2 _ _)).trans (State.mapFunc_recorded _ _ _)).trans (State.mapFunc_recorded _ _ _)
    · exact h1.trans (h2 _ _)

/-- A fold of steps that only record. -/
theorem State.foldl_recorded {β : Type} (f : State → β → State) (h : ∀ s b, Recorded s (f s b)) (l : List β) :
    ∀ s : State, Recorded s (l.foldl f s) := by
  induction l with
  | nil => intro s; exact Recorded.refl s
  | cons b l ih => intro s; exact (h s b).trans (ih _)

theorem State.countEvent_recorded (s : State) (core code task n : Nat) : Recorded s (s.countEvent core code task n) :=
  State.foldl_recorded (fun (s : State) (e : Nat × Counter) => s.bump core e.1 n) (fun s e => State.bump_recorded s core e.1 n) _ s

theorem State.noteReplay_recorded (s : State) (k : Nat) (c : Crew) : Recorded s (s.noteReplay k c) := by
  unfold State.noteReplay
  split
  · exact State.record_recorded _ _ _ _ _ _ _
  · exact Recorded.refl s

theorem State.noteIssue_recorded (s : State) (key : Nat) (c : Crew) (os : List Opnd) : Recorded s (s.noteIssue key c os) :=
  (State.mapCore_counters_recorded s (key / 64) (fun k => { k with
    issues := k.issues.setD (quarterOf (key % 64)) (k.issues.getD (quarterOf (key % 64)) 0 + 1) 0 }) (fun _ => rfl)).trans
  (State.mapCrewAt_recorded _ key _ (fun _ => rfl))

theorem State.countIssue_recorded (s : State) (key : Nat) (c : Crew) (i : Instr) : Recorded s (s.countIssue key c i) := by
  have h := ((State.bump_recorded s (key / 64) 9 1).trans (State.countEvent_recorded _ (key / 64) 0x0001 c.task 1)).trans
    (State.countEvent_recorded _ (key / 64) (if isLane c i then 0x0002 else 0x0003) c.task 1)
  have h' : ∀ {u : State}, Recorded s u → Recorded s
      (if c.mainReads (operands c.mode i) = 0 then u
        else u.countEvent (key / 64) 0x0004 c.task (c.mainReads (operands c.mode i))) := by
    intro u hu
    split
    · exact hu
    · exact hu.trans (State.countEvent_recorded _ _ _ _ _)
  have h'' := (h' h).trans (State.noteIssue_recorded _ key c (operands c.mode i))
  have hm : ∀ {u : State}, Recorded s u → Recorded s (u.countEvent (key / 64) 0x3000 c.task 1) :=
    fun hu => hu.trans (State.countEvent_recorded _ _ _ _ _)
  cases i <;> first | exact h'' | exact hm h''

/-! ## Flow -/

theorem State.sampleBranch_recorded {s : State} (hc : s.crew?.isSome = true) (target : PcWord) :
    Recorded s (s.sampleBranch target) := by
  unfold State.sampleBranch
  split
  · exact Recorded.refl s
  · have h := State.recordCrew_recorded s s.fkey 0 0 (pcBits target.toNat)
    exact h.trans (State.mapCrew_recorded (h.isSome hc) _ (fun _ => rfl))

theorem State.signTarget_recorded {s : State} (hc : s.crew?.isSome = true) (target : PcWord) :
    Recorded s (s.signTarget target) :=
  State.mapCrew_recorded hc (fun c => c.sign (target.zeroExtend 64)) (fun _ => rfl)

theorem State.takenBranch_recorded {s : State} (hc : s.crew?.isSome = true) (target : PcWord) :
    Recorded s (s.takenBranch target) := by
  have h := State.signTarget_recorded hc target
  exact h.trans (State.sampleBranch_recorded (h.isSome hc) target)

theorem State.poppedPath_recorded {s : State} (hc : s.crew?.isSome = true) : Recorded s s.poppedPath := by
  unfold State.poppedPath
  exact (State.mapCrew_recorded hc (fun c => c.sign ((c.pc.zeroExtend 64) ^^^ 2)) (fun _ => rfl)).trans
    (State.packet_recorded _ _ _ _)

theorem State.flowOf_recorded (k : Flow) (c : Crew) (target : Option PcWord) {s : State} (hc : s.crew?.isSome = true) :
    Recorded s (State.flowOf k c target s) := by
  have pk := fun k x => State.packet_recorded s s.fkey k x
  have tb := fun b => State.traceBranch_recorded s s.fkey b
  have far : Recorded s (s.flowFar target) := by
    unfold State.flowFar
    split
    · exact State.takenBranch_recorded hc _
    · exact Recorded.refl s
  have cond : Recorded s (s.flowCond target) := by
    unfold State.flowCond
    split
    · exact (tb _).trans (State.takenBranch_recorded ((tb _).isSome hc) _)
    · exact tb _
  have reg : Recorded s (s.flowReg target) := by
    unfold State.flowReg
    split
    · exact (pk _ _).trans (State.signTarget_recorded ((pk _ _).isSome hc) _)
    · exact Recorded.refl s
  have call : Recorded s (s.flowCall target) := by
    unfold State.flowCall
    split
    · exact State.signTarget_recorded hc _
    · exact Recorded.refl s
  have fence : ∀ kind scope : Nat, Recorded s (s.flowFence c.pc kind scope) := by
    intro kind scope
    unfold State.flowFence
    split
    · exact State.recordCrew_recorded _ _ _ _ _
    · exact Recorded.refl s
  cases k with
  | far => exact far
  | call => exact call
  | cond => exact cond
  | reg => exact reg
  | fence kind scope => exact fence kind scope
  | plain => exact Recorded.refl s
  | divide =>
    show Recorded s (s.flowSplit c.paths.length target)
    unfold State.flowSplit
    split
    · exact tb _
    · split
      · exact (pk _ _).trans (State.mapCrew_recorded ((pk _ _).isSome hc) _ (fun _ => rfl))
      · exact (tb _).trans (State.mapCrew_recorded ((tb _).isSome hc) _ (fun _ => rfl))
  | join =>
    show Recorded s (s.flowJoin c.paths.length target)
    unfold State.flowJoin
    split
    · exact Recorded.refl s
    · split
      · exact State.poppedPath_recorded hc
      · exact (pk _ _).trans (State.mapCrew_recorded ((pk _ _).isSome hc) _ (fun _ => rfl))
  | exit =>
    show Recorded s (s.flowExit target)
    unfold State.flowExit
    split
    · exact (pk _ _).trans (State.poppedPath_recorded ((pk _ _).isSome hc))
    · exact Recorded.refl s
  | back =>
    show Recorded s (s.flowReturn c.paths.length target)
    unfold State.flowReturn
    split
    · exact Recorded.refl s
    · simp only []
      generalize hu : s.recordCrew s.fkey 0 2 _ = u
      have hr : Recorded s u := by rw [← hu]; exact State.recordCrew_recorded _ _ _ _ _
      have h1 := hr.trans (State.packet_recorded u u.fkey 8 u.crew.am.toNat)
      split
      · exact h1.trans (State.poppedPath_recorded (h1.isSome hc))
      · exact h1

/-- What a completed instruction leaves in the recorder is all that `flow` changes. -/
theorem flow_recorded (i : Instr) (c : Crew) (target : Option PcWord) {s : State} (hc : s.crew?.isSome = true) :
    Recorded s (flow i c target s) := by
  have h := State.noteReplay_recorded s s.fkey c
  exact h.trans (State.flowOf_recorded (flowKind i) c target (h.isSome hc))

/-! ## Issuing -/

/-- An instruction that issues has exactly the effect of its body (R36, R58, R195). -/
theorem issueState_of_issues {s : State} {c : Crew} {i : Instr} (h : Issues s c i = true) (body : State → Res) :
    issueState i s body = finish i c (body s) := by
  simp only [Issues, Bool.and_eq_true, decide_eq_true_eq, Bool.not_eq_true', Option.isNone_iff_eq_none] at h
  obtain ⟨⟨⟨⟨⟨⟨⟨⟨hc, hcan⟩, hmay⟩, htrap⟩, hchk⟩, hpend⟩, hwait⟩, hget⟩, hobs⟩ := h
  have hcrew := State.crew_of_crew? hc
  have hnone : ∀ o ∈ operands c.mode i, ∀ u ∈ c.unobs, (!o.vec && spansMeet o.reg o.span u.token 1) = false := by
    intro o ho u hu
    unfold Crew.nothingToObserve at hobs
    rw [List.all_eq_true] at hobs
    have := hobs o ho
    rw [Bool.or_eq_true] at this
    rcases this with hv | ha
    · rw [hv]; rfl
    · rw [List.all_eq_true] at ha
      have := ha u hu
      rw [Bool.not_eq_true'] at this
      rw [this, Bool.and_false]
  have hany : ∀ (g : Opnd → Bool), ∀ u ∈ c.unobs,
      (operands c.mode i).any (fun o => g o && (!o.vec && spansMeet o.reg o.span u.token 1)) = false := by
    intro g u hu
    rw [List.any_eq_false]
    intro o ho
    rw [hnone o ho u hu, Bool.and_false]
    simp
  have hobserve : s.observe (operands c.mode i) = s := by
    unfold State.observe
    simp only [hcrew]
    have hseen : c.unobs.filter (fun u => (operands c.mode i).any (fun o =>
        (o.use = .read || o.use = .both) && (!o.vec && spansMeet o.reg o.span u.token 1))) = [] := by
      rw [List.filter_eq_nil_iff]
      intro u hu
      rw [hany (fun o => o.use = .read || o.use = .both) u hu]
      simp
    have hkept : c.unobs.filter (fun u => !(operands c.mode i).any (fun o =>
        (o.use = .read || o.use = .both) && (!o.vec && spansMeet o.reg o.span u.token 1))) = c.unobs := by
      rw [List.filter_eq_self]
      intro u hu
      rw [hany (fun o => o.use = .read || o.use = .both) u hu]
      rfl
    have hmap : c.unobs.map (fun u => if (operands c.mode i).any (fun o =>
        o.use = .write && (!o.vec && spansMeet o.reg o.span u.token 1)) then { u with token := 64 } else u) = c.unobs := by
      conv_rhs => rw [← List.map_id c.unobs]
      refine List.map_congr_left (fun u hu => ?_)
      have := hany (fun o => o.use = .write) u hu
      rw [this]
      rfl
    rw [hseen, hkept, hmap]
    simp
  unfold issueState
  simp only [hc]
  rw [if_neg (by rw [hcan, hmay]; decide), if_neg (by rw [htrap]; decide), hchk]
  simp only []
  rw [hpend]
  simp only [Bool.false_eq_true, if_false, hcrew, hwait, hget, hobserve, Bool.or_self]

theorem issue_of_issues {s : State} {c : Crew} {i : Instr} (h : Issues s c i = true) (body : State → Res) :
    issue i s body = .next (finish i c (body s)) := by
  rw [issue, issueState_of_issues h]

/-- Completing with the PC advanced: the crew has retired the instruction, and otherwise the state is the body's but for the
recorder and the counters. -/
theorem finish_done (i : Instr) (c : Crew) (s : State) :
    Recorded (s.mapCrew (fun c => c.retireInstr.next)) (finish i c (.done s)) := by
  have h := flow_recorded i c none (s := s.mapCrew (fun c => c.retireInstr.next)) (by simp)
  exact h.trans (State.countIssue_recorded _ _ _ _)

/-- Completing with the PC placed. -/
theorem finish_jump (i : Instr) (c : Crew) (s : State) (pc : PcWord) :
    Recorded (s.mapCrew (fun c => { c.retireInstr with pc := pc })) (finish i c (.jump s pc)) := by
  have h := flow_recorded i c (some pc) (s := s.mapCrew (fun c => { c.retireInstr with pc := pc })) (by simp)
  exact h.trans (State.countIssue_recorded _ _ _ _)

/-- Completing with the PC placed where the crew has waited. -/
theorem finish_resume (i : Instr) (c : Crew) (s : State) (pc : PcWord) :
    Recorded (s.mapCrew (fun c => { c.retireInstr with pc := pc, deadline := c.deadline })) (finish i c (.resume s pc)) := by
  have h := flow_recorded i c (some pc) (s := s.mapCrew (fun c => { c.retireInstr with pc := pc, deadline := c.deadline })) (by simp)
  exact h.trans (State.countIssue_recorded _ _ _ _)

/-- The crew after a completion with the PC advanced. -/
theorem finish_done_crew (i : Instr) (c : Crew) (s : State) :
    ∃ c', (finish i c (.done s)).crews.get? s.fkey = some c' ∧ c'.unsigned = s.crew.retireInstr.next.unsigned := by
  obtain ⟨c', h, h'⟩ := (finish_done i c s).crew (State.crew?_mapCrew s _)
  refine ⟨c', ?_, h'⟩
  unfold State.crew? at h
  rwa [(finish_done i c s).fkey, State.fkey_mapCrew] at h

/-- The crew after a completion with the PC placed. -/
theorem finish_jump_crew (i : Instr) (c : Crew) (s : State) (pc : PcWord) :
    ∃ c', (finish i c (.jump s pc)).crews.get? s.fkey = some c' ∧
      c'.unsigned = ({ s.crew.retireInstr with pc := pc } : Crew).unsigned := by
  obtain ⟨c', h, h'⟩ := (finish_jump i c s pc).crew (State.crew?_mapCrew s _)
  refine ⟨c', ?_, h'⟩
  unfold State.crew? at h
  rwa [(finish_jump i c s pc).fkey, State.fkey_mapCrew] at h

/-! ## Taking a trap -/

/-- With a handler set and a frame free, the trap is taken (R400): the frame, the entry state, and nothing else but what the
recorder keeps. -/
theorem takeTrap_of_handles {s : State} {c : Crew} (hc : s.crew? = some c) (hh : c.handles = true) (cause : Nat) (tval : DWord) :
    ∃ u, Recorded s u ∧ takeTrap s cause tval = u.mapCrew (fun x => { x with
      frames := { pc := (if cause = 0x10 then c.pc + 4 else c.pc).zeroExtend 64, mask := x.am, mode := x.modex ++ x.mode,
                  cause := BitVec.ofNat 32 (cause + 256 * x.paths.length), tval := tval
                  deadline := x.deadline.map (fun t => (x.pc, t)) } :: x.frames
      mode := 0, modex := 6, pc := x.tvec.truncate 57, replay := none, firstIssue := none, deadline := none, waiting := none
      released := false, stalled := false, readyAt := u.issueTime u.fkey, readySince := (u.issueTime u.fkey).2 }) := by
  simp only [Crew.handles, Bool.and_eq_true, decide_eq_true_eq] at hh
  unfold takeTrap
  simp only [State.crew_of_crew? hc]
  rw [if_neg hh.1, if_neg (by omega)]
  exact ⟨_, (State.recordCrew_recorded _ _ _ _ _).trans (State.packet_recorded _ _ _ _), rfl⟩

/-! ## The canonical form through an instruction -/

theorem State.trigger_mem (s : State) (origin cause : Nat) (tval : DWord) : (s.trigger origin cause tval).mem = s.mem := by
  unfold State.trigger State.freezeRing
  simp only []
  split
  · rfl
  · split
    · rfl
    · simp only [State.record_mem]

theorem State.mapRaft_mem (s : State) (h : Nat) (f : Raft → Raft) : (s.mapRaft h f).mem = s.mem := by
  unfold State.mapRaft
  split <;> rfl

theorem State.sendRaft_mem (s : State) (r : Raft) (typ src dst seq status : Nat) (params data scales : List Nat) :
    (s.sendRaft r typ src dst seq status params data scales).mem = s.mem := by
  unfold State.sendRaft
  simp only []
  split
  · rfl
  · split <;> rfl

theorem State.mapJob_mem (s : State) (core id : Nat) (f : Job → Job) : (s.mapJob core id f).mem = s.mem := State.mapCore_mem _ _ _

theorem State.keepWord_mem (s : State) (h k word port : Nat) : (s.keepWord h k word port).mem = s.mem := by
  unfold State.keepWord
  exact State.mapRaft_mem _ _ _

theorem State.endJob_mem (s : State) (core : Nat) (j : Job) (word port : Nat) : (s.endJob core j word port).mem = s.mem := by
  unfold State.endJob
  simp only []
  rw [State.keepWord_mem, State.mapJob_mem]

theorem State.endReady_mem (h k : Nat) : ∀ (n : Nat) (s : State), (s.endReady h k n).mem = s.mem := by
  intro n
  induction n with
  | zero => intro s; rfl
  | succ n ih =>
    intro s
    unfold State.endReady
    split
    · rfl
    · split
      · rfl
      · rw [ih, State.endJob_mem]

theorem State.endCollective_mem (s : State) (core id word port : Nat) : (s.endCollective core id word port).mem = s.mem := by
  unfold State.endCollective
  split
  · rfl
  · simp only []
    split
    · rfl
    · rw [State.endReady_mem, State.mapJob_mem]

theorem State.numberJob_mem (s : State) (core : Nat) (j : Job) (r : Raft) (m : RaftMember) : (s.numberJob core j r m).2.2.mem = s.mem := by
  unfold State.numberJob
  simp only []
  rw [State.mapJob_mem, State.mapRaft_mem]

theorem State.originAbort_mem (s : State) (core id own sent port : Nat) : (s.originAbort core id own sent port).mem = s.mem := by
  unfold State.originAbort
  split
  · rfl
  · simp only []
    split
    · rfl
    · split
      · exact State.endCollective_mem _ _ _ _ _
      · split
        · rw [State.endCollective_mem, State.sendRaft_mem, State.mapRaft_mem]
        · split
          · next heq =>
            rw [State.endCollective_mem]
            have := congrArg (fun x => x.2.2.mem) heq
            simpa [State.numberJob_mem] using this.symm
          · next heq =>
            rw [State.endCollective_mem, State.sendRaft_mem, State.mapRaft_mem]
            have := congrArg (fun x => x.2.2.mem) heq
            simpa [State.numberJob_mem] using this.symm

theorem State.abortByProgram_mem (s : State) (core : Nat) (j : Job) : (s.abortByProgram core j).mem = s.mem :=
  State.originAbort_mem _ _ _ _ _ _

theorem State.dropMacro_mem (s : State) (core : Nat) (j : Job) : (s.dropMacro core j).mem = s.mem := by
  unfold State.dropMacro
  split
  · exact State.mapCore_mem _ _ _
  · rfl

theorem State.dropJobs_mem (s : State) (k : Nat) : (s.dropJobs k).mem = s.mem := by
  unfold State.dropJobs
  simp only []
  split
  · rfl
  · rw [State.mapCore_mem]
    rw [State.foldl_mem (fun (s : State) (j : Job) => s.dropMacro (k / 64) j) (fun s j => State.dropMacro_mem s _ j)]
    exact State.foldl_mem (fun (s : State) (j : Job) => s.abortByProgram (k / 64) j)
      (fun s j => State.abortByProgram_mem s _ j) _ s

@[simp] theorem State.leaveSet_mem (s : State) (k : Nat) : (s.leaveSet k).mem = s.mem := by
  unfold State.leaveSet
  simp

@[simp] theorem State.vacate_mem (s : State) (k : Nat) : (s.vacate k).mem = s.mem := State.leaveSet_mem s k

@[simp] theorem State.stall_mem (s : State) (k : Nat) : (s.stall k).mem = s.mem := by
  unfold State.stall
  simp

theorem State.mapCoreIf_mem (s : State) (b : Bool) (core : Nat) (f : Core → Core) :
    (if b = true then s.mapCore core f else s).mem = s.mem := by
  split
  · exact State.mapCore_mem _ _ _
  · rfl

theorem State.dropCrew_mem (s : State) (k tag : Nat) : (s.dropCrew k tag).mem = s.mem := by
  unfold State.dropCrew
  split
  · rfl
  · simp only []
    rw [State.vacate_mem, State.mapCoreIf_mem, State.mapCoreIf_mem]
    split
    · exact State.recordForeman_mem _ _ _ _ _ _
    · rw [State.mapCore_mem]; exact State.recordForeman_mem _ _ _ _ _ _

theorem State.finishWaiting_wf {s : State} (h : Memory.wf s.mem) (k : Nat) (f : Crew → Crew) :
    Memory.wf (s.finishWaiting k f).mem := by
  unfold State.finishWaiting
  split
  · exact h
  · exact ((State.noteReplay_recorded _ _ _).trans (State.countIssue_recorded _ _ _ _)).wf (by rw [State.setCrewAt_mem]; exact h)

theorem State.abandonSpents_mem (s : State) (p : Nat → Region → Bool) : (s.abandonSpents p).mem = s.mem := by
  unfold State.abandonSpents
  simp only []
  split
  · rfl
  · exact State.foldl_mem (fun (s : State) (e : Nat × Region) =>
      ({ s.recordMode e.1 e.2 1 0 with regions := s.regions.remove e.1 } : State).mapCrewAt e.1 (fun c => { c with waiting := none }))
      (fun s e => by rw [State.mapCrewAt_mem]; exact State.recordMode_mem s e.1 e.2 1 0) _ s

theorem State.endTakes_wf {s : State} (h : Memory.wf s.mem) (hs : List Nat) : Memory.wf (s.endTakes hs).mem := by
  unfold State.endTakes
  refine State.foldl_wf _ (fun s k hs => ?_) _ _ h
  split
  · exact State.finishWaiting_wf hs _ _
  · exact hs

theorem State.dropRegions_wf {s : State} (h : Memory.wf s.mem) (n : Nat) : Memory.wf (s.dropRegions n).mem := by
  unfold State.dropRegions
  simp only []
  rw [State.abandonSpents_mem]
  refine State.endTakes_wf ?_ _
  exact (State.foldl_mem (fun (s : State) (e : Nat × Region) => s.recordMode e.1 e.2 7 0)
    (fun s e => State.recordMode_mem s _ _ _ _) _ s) ▸ h

theorem State.finishTask_wf {s : State} (h : Memory.wf s.mem) (n status : Nat) : Memory.wf (s.finishTask n status).mem := by
  unfold State.finishTask
  split
  · exact h
  · refine State.storeDone_wf ?_ _ _ _ _
    exact State.foldl_wf (fun (s : State) (c : Nat) => s.writeBack c (fun _ => true))
      (fun s c hs => State.writeBack_wf hs c _) _ s h

theorem State.killTask_wf {s : State} (h : Memory.wf s.mem) (n status : Nat) : Memory.wf (s.killTask n status).mem := by
  unfold State.killTask
  refine State.finishTask_wf ?_ _ _
  refine State.foldl_wf _ (fun s k hs => ?_) _ _ ?_
  · rw [State.dropCrew_mem, State.dropJobs_mem]
    exact State.packet_wf (State.perform_wf hs _ _) _ _ _
  · exact State.dropRegions_wf h _

theorem State.escalate_wf {s : State} (h : Memory.wf s.mem) (cause : Nat) (tval : DWord) :
    Memory.wf (s.escalate cause tval).mem := by
  unfold State.escalate
  simp only []
  rw [State.mapCrew_mem]
  split
  · rw [State.trigger_mem, State.recordCrew_mem]; exact h
  · rw [State.recordCrew_mem]; exact h

theorem State.endFaulted_wf {s : State} (h : Memory.wf s.mem) (key : Nat) : Memory.wf (s.endFaulted key).mem := by
  unfold State.endFaulted
  split
  · exact h
  · split
    · exact h
    · exact State.killTask_wf (by exact h) _ _

theorem takeTrap_wf {s : State} (h : Memory.wf s.mem) (cause : Nat) (tval : DWord) : Memory.wf (takeTrap s cause tval).mem := by
  unfold takeTrap
  simp only []
  split
  · exact State.escalate_wf h _ _
  · split
    · exact State.escalate_wf h _ _
    · rw [State.mapCrew_mem]
      exact State.packet_wf (by rw [State.recordCrew_mem]; exact h) _ _ _

theorem State.observe_wf {s : State} (h : Memory.wf s.mem) (os : List Opnd) : Memory.wf (s.observe os).mem := by
  unfold State.observe
  simp only []
  split
  · exact h
  · exact State.foldl_wf _ (fun s u hs => State.acquire_wf hs _ _) _ _ (by rw [State.mapCrew_mem]; exact h)

/-- The state of a result. -/
def Res.state : Res → State
  | .done s => s
  | .jump s _ => s
  | .resume s _ => s
  | .gone s => s
  | .ended s => s
  | .hold s => s
  | .trap s _ _ => s

theorem finish_wf (i : Instr) (c : Crew) (r : Res) (h : Memory.wf r.state.mem) : Memory.wf (finish i c r).mem := by
  cases r with
  | done s => exact (finish_done i c s).wf (by rw [State.mapCrew_mem]; exact h)
  | jump s pc => exact (finish_jump i c s pc).wf (by rw [State.mapCrew_mem]; exact h)
  | resume s pc => exact (finish_resume i c s pc).wf (by rw [State.mapCrew_mem]; exact h)
  | gone s => exact ((State.noteReplay_recorded s _ c).trans (State.countIssue_recorded _ _ c i)).wf h
  | ended s => exact h
  | hold s =>
    show Memory.wf (s.stall s.fkey).mem
    rw [State.stall_mem]
    exact h
  | trap s cause tval => exact (State.countIssue_recorded _ _ c i).wf (takeTrap_wf h cause tval)

/-- Issuing an instruction keeps the canonical form if its body does. -/
theorem issueState_wf {i : Instr} {s : State} {body : State → Res} (h : Memory.wf s.mem)
    (hb : ∀ s, Memory.wf s.mem → Memory.wf (body s).state.mem) : Memory.wf (issueState i s body).mem := by
  unfold issueState
  split
  · exact h
  · split
    · exact h
    · split
      · exact takeTrap_wf (by rw [State.setCrew_mem]; exact h) _ _
      · split
        · exact takeTrap_wf h _ _
        · simp only []
          have hw := fun f => State.perform_wf h s.fkey f
          split
          · split
            · rw [State.stall_mem]; exact hw _
            · exact finish_wf _ _ _ (hb _ (State.observe_wf (hw _) _))
          · split
            · rw [State.stall_mem]; exact h
            · exact finish_wf _ _ _ (hb _ (State.observe_wf h _))

end Sys2Proof.Machine
end

