-- ==== Sys2Proof/Tests/Slice0.lean ====
section
/-! SUPPORT. A state and operands that meet the hypotheses of each statement, terms that the check refuses, and tests of decoding and of one
step. -/

namespace Sys2Proof.Tests

open Sys2Proof Sys2Proof.Machine

set_option Elab.async false

/-! ## States for the witnesses -/

/-- A crew of one live lane, with a handler set, in a context with the vault window at 2^30 and the pool window at 2^31. -/
def demo : State :=
  let s := (State.reset.loadWord 0).mapCrew (fun c => { c with tvec := 0x30000 })
  { s with ctxs := s.ctxs.mapVals (fun (x : Ctx) => { x with vaultbase := 0x40000001, poolbase := 0x80000001 }) }

/-- The crew in focus with scalar registers set. -/
def withS (s : State) (rs : List (Nat × Word)) : State := s.mapCrew (fun c => rs.foldl (fun c e => c.setS e.1 e.2) c)

/-- The crew in focus with an address pair s[r:r+1]. -/
def at2 (s : State) (r : Nat) (va : Nat) : State := withS s [(r, BitVec.ofNat 32 va), (r + 1, BitVec.ofNat 32 (va / 2 ^ 32))]

/-- The instruction issues at its state. -/
def ok (s : State) (i : Instr) : Bool := Issues s s.crew i

/-- The classification lets every lane go. -/
def isGo (x : Machine.Class) : Bool :=
  match x with
  | .go _ [] => true
  | _ => false

/-- What `isGo` says: the classification answers lanes and a state, as the statements ask. -/
theorem goes_of {r : Machine.Class × State} (h : isGo r.1 = true) : ∃ xs s2, r = (.go xs [], s2) := by
  obtain ⟨x, s2⟩ := r
  cases x with
  | go xs ys => cases ys with
    | nil => exact ⟨xs, s2, rfl⟩
    | cons y ys => simp [isGo] at h
  | _ => simp [isGo] at h

/-- No line of these places that the core's L1 holds differs from memory. -/
def l1Agrees (s : State) (xs : List LaneXlat) : Bool :=
  xs.all (fun y => !y.loc.cached || ((s.core s.focusCore).l1.get? (y.loc.idx / 128)).all (fun v => decide (v = s.bytes (y.loc.idx / 128 * 128) 128)))

/-- The bytes of a structure and the state that reading them leaves. -/
def readAt (s : State) (va n : Nat) : Option (Nat × State) :=
  match s.classify s.focusCore none s.crew.ctx 1 .read true ((List.range n).map (fun i => (0, va + i))) with
  | (.go xs [], s1) => if l1Agrees s xs then some (xs.foldr (fun y acc => (s.byte y.loc.idx).toNat + 256 * acc) 0, (s1.plainRead xs).2) else none
  | _ => none

theorem structRead_of {s s2 : State} {c : Crew} {va n x : Nat} (hc : s.crew = c)
    (hm : bitsOf (s.ctx c.ctx).migthr.toNat 15 0 = 0) (h : readAt s va n = some (x, s2)) :
    StructRead s s2 c va n x := by
  subst hc
  unfold readAt at h
  split at h
  · rename_i xs s1 he
    split at h
    · rename_i ha
      simp only [Option.some.injEq, Prod.mk.injEq] at h
      refine ⟨hm, xs, s1, he, fun y hy hc v hv => ?_, h.1.symm, h.2.symm⟩
      simpa [hc, hv] using List.all_eq_true.mp ha y hy
    · cases h
  · cases h

/-- A structure can be read and its bytes have a property. -/
theorem read_has {s : State} {va n : Nat} {P : Nat → State → Bool}
    (hm : bitsOf (s.ctx s.crew.ctx).migthr.toNat 15 0 = 0)
    (h : (match readAt s va n with | some p => P p.1 p.2 | none => false) = true) :
    ∃ s2 x, StructRead s s2 s.crew va n x ∧ P x s2 = true := by
  cases e : readAt s va n with
  | none => simp [e] at h
  | some p => exact ⟨p.2, p.1, structRead_of rfl hm (by rw [e]), by simpa [e] using h⟩


/-! ## Witnesses -/

theorem witness_EveryStepKeepsStorageCanonical : State.reset.Inv ∧ (∃ t, step State.reset = .next t) := by
  refine ⟨(by decide +kernel : Memory.wf State.reset.mem), ?_⟩
  have h : (match step State.reset with | .next _ => true | _ => false) = true := by decide +kernel
  revert h
  cases e : step State.reset with
  | next t => exact fun _ => ⟨t, rfl⟩
  | fault f => simp
  | refused f => simp


/-- The demo crew under another MODE. -/
def inMode (m : BitVec 16) : State := demo.mapCrew (fun c => { c with mode := m })

theorem witness_RegisterInstructionsComplete_0 :
    [.nop, .setm 0x14 0x1060, .setmx 7 0x3F, .getm 8, .plog 1 2 6 3, .pcount 8 1, .ptos 8 1, .sfromp 1 8, .sadd 8 16 24,
     .ssub 8 16 24, .smul 8 16 24, .sand 8 16 24, .sor 8 16 24, .sxor 8 16 24, .sshl 8 16 24, .sshr 8 16 24, .ssra 8 16 24,
     .sslt 8 16 24, .ssltn 8 16 24, .sseq 8 16 24, .smin 8 16 24, .smax 8 16 24, .sadd64 8 16 24, .smovi 8 0xFFFE,
     .smovhi 8 0xFFFE, .saddi 8 0xFFFE, .spchi 8 0xFFFE, .rcset 7 4, .widrd 8, .mtsc 8 16, .add 8 16 24, .sub 8 16 24,
     .mul 8 16 24, .mulhi 8 16 24, .fma 8 16 24, .fms 8 16 24, .fnma 8 16 24, .min 8 16 24, .max 8 16 24, .abs 8 16,
     .neg 8 16, .cmpeq 1 16 24, .cmpne 1 16 24, .cmplt 1 16 24, .cmple 1 16 24, .sel 8 16 24, .addi 8 16 0xFF,
     .movi 8 0x8000, .movhi 8 0x8000, .mov 8 16, .div 8 16 24, .rem 8 16 24, .absdiff 8 16 24, .cvt 8 16, .seedUniform 8,
     .seedPerLane 8, .and 8 16 24, .or 8 16 24, .xor 8 16 24, .not 8 16, .shl 8 16 24, .shr 8 16 24, .sra 8 16 24,
     .rotl 8 16 24, .bfx 8 16 24, .bfi 8 16 24, .popc 8 16, .clz 8 16, .brev 8 16, .ballot 8 16 0, .shuf 8 16 24,
     .shufx 8 16 24, .lrot 8 16 24, .bcast 8 16 24, .vget 8 16 24, .vset 8 16 24, .redadd 8 16, .redmin 8 16, .redmax 8 16,
     .laneid 8].all
      (fun i => ok (inMode 0x0) i) = true := by decide +kernel

theorem witness_RegisterInstructionsComplete_20 :
    [.cmpun 1 16 24, .rcp 8 16, .rsq 8 16, .sqrt 8 16, .exp2 8 16, .log2 8 16, .sinpi 8 16, .cospi 8 16, .floor 8 16,
     .ceil 8 16, .trunc 8 16, .rint 8 16, .fclass 8 16, .scaleb 8 16 24, .copysign 8 16 24, .cvtsc 8 16 24].all
      (fun i => ok (inMode 0x20) i) = true := by decide +kernel

theorem witness_RegisterInstructionsComplete_30 :
    [.dot2 8 16 24, .unpklo 8 16, .unpkhi 8 16].all
      (fun i => ok (inMode 0x30) i) = true := by decide +kernel

theorem witness_RegisterInstructionsComplete_70 :
    [.dot4 8 16 24].all
      (fun i => ok (inMode 0x70) i) = true := by decide +kernel

theorem witness_RegisterInstructionsComplete_300 :
    [.cvtp 8 16 24].all
      (fun i => ok (inMode 0x300) i) = true := by decide +kernel

theorem witness_RegisterInstructionsComplete_700 :
    [.cvtq 8 16].all
      (fun i => ok (inMode 0x700) i) = true := by decide +kernel

theorem witness_ScalarArithmeticFollowsTheTable :
    ok (withS demo [(16, 0x80000000), (24, 0x3F)]) (.ssra 8 16 24) = true ∧ ok (withS demo [(16, 0xFFFFFFFF), (24, 1)]) (.sslt 8 16 24) = true ∧
      [Instr.sadd 63 63 63, .ssub 8 16 24, .smul 8 16 24, .sand 8 16 24, .sor 8 16 24, .sxor 8 16 24, .sshl 8 16 24, .sshr 8 16 24,
       .ssltn 8 16 24, .sseq 8 8 8, .smin 8 16 24, .smax 0 0 0].all (ok demo) = true := by decide +kernel

theorem witness_ScalarConstantsAndPairs :
    [Instr.sadd64 62 16 25, .smovi 63 0x8000, .smovhi 0 0xFFFF, .saddi 8 0x8000, .spchi 62 0x8000].all (ok demo) = true ∧
      ok (inMode 0xC0) (.sadd64 8 16 24) = true := by decide +kernel

theorem witness_ModeWritesAndReads :
    [Instr.setm 0x3F 0xFFFF, .setm 0 0, .setmx 7 0x3F, .getm 63].all (ok demo) = true := by decide +kernel

theorem witness_PredicateInstructionsFollowTheirLanes :
    [Instr.plog 0 1 0xF 7, .plog 7 7 0 0, .sfromp 0 62, .sfromp 7 62, .pcount 63 7, .ptos 62 0].all (ok demo) = true := by
  decide +kernel

/-- Two live lanes, of which p1 holds the first. -/
def twoLanes : State := demo.mapCrew (fun c => ({ c with am := 3, live := 3 } : Crew).setPred 1 1)

theorem witness_UniformBranchesMoveTheWholePath :
    [Instr.bra 0x800000, .brnz 8 0x8000, .brz 8 0x7FFF, .brany 1 4, .brany 2 4, .brall 0 4, .brall 1 4].all (ok twoLanes) = true ∧
      (twoLanes.crew.active.getLsbD 0 && (twoLanes.crew.pred 1).getLsbD 0 && !(twoLanes.crew.pred 1).getLsbD 1 &&
        decide (twoLanes.crew.pred 2 = 0) && decide (twoLanes.crew.pred 0 = BitVec.allOnes 64)) = true := by decide +kernel

theorem witness_CallsAndReturnsPlaceThePc :
    [Instr.call 0x800000, .callr 8 8, .callr 0 10, .ret 10, .jmpr 10].all (ok (at2 (at2 demo 8 (2 ^ 57 - 4)) 10 4)) = true ∧
      [Instr.callr 8 8, .ret 8, .jmpr 8].all (ok (at2 demo 8 (2 ^ 57))) = true ∧
      [Instr.callr 8 8, .ret 8, .jmpr 8].all (ok (at2 demo 8 6)) = true ∧ demo.crew.handles = true ∧ demo.crew.pc.toNat % 4 = 0 ∧
      (ok demo (.call 0x800000) = true ∧ (demo.crew.pc.toNat : Int) + 4 * (0x800000 : BitVec 24).toInt < 0) ∧
      (ok demo (.call 1) = true ∧ 0 ≤ (demo.crew.pc.toNat : Int) + 4 * (1 : BitVec 24).toInt ∧
        (demo.crew.pc.toNat : Int) + 4 * (1 : BitVec 24).toInt < 2 ^ 57) := by decide +kernel

/-- A crew with a full path list. -/
def fullPaths : State := twoLanes.mapCrew (fun c => { c with paths := List.replicate 8 (0x40, 0) })

theorem witness_DivergentBranchSplitsThePath :
    ok twoLanes (.brdiv 0 4) = true ∧ (twoLanes.crew.am &&& twoLanes.crew.pred 0 = twoLanes.crew.am) ∧
      ok twoLanes (.brdiv 2 4) = true ∧ (twoLanes.crew.am &&& twoLanes.crew.pred 2 = 0) ∧ twoLanes.crew.am ≠ 0 ∧
      ok twoLanes (.brdiv 1 4) = true ∧ (twoLanes.crew.am &&& twoLanes.crew.pred 1 = 1) ∧ twoLanes.crew.paths.length < 8 ∧
      ok fullPaths (.brdiv 1 4) = true ∧ fullPaths.crew.paths.length = 8 ∧ fullPaths.crew.handles = true := by decide +kernel

/-- The crew of `s` with barrier 1 armed for a mask. -/
def armed (s : State) (mask arrived : BitVec 64) : State := s.mapCrew (fun c => c.setBar 1 ⟨mask, arrived, 0x40⟩)

/-- The second of two lanes runs, and a path of the first is listed. -/
def secondLane : State := twoLanes.mapCrew (fun c => { c with am := 2, paths := [(0x80, 1)] })

theorem witness_ReconvergenceJoinsAtTheBarrier :
    ok twoLanes (.rcset 7 0x8000) = true ∧ ok (armed twoLanes 1 0) (.rcwait 1) = true ∧
      twoLanes.crew.am &&& ~~~(1 : BitVec 64) ≠ 0 ∧ ok (armed twoLanes 3 0) (.rcwait 1) = true ∧
      ok (armed secondLane 3 0) (.rcwait 1) = true ∧ secondLane.crew.paths = [(0x80, 1)] ∧
      ok (armed (twoLanes.mapCrew (fun c => { c with am := 2 })) 3 0) (.rcwait 1) = true ∧ ok twoLanes (.rcwait 0) = true := by decide +kernel

theorem witness_ExitEndsTheLanesOfThePath :
    ok secondLane .exit = true ∧ ok (twoLanes.mapCrew (fun c => { c with am := 2 })) .exit = true ∧
      (twoLanes.mapCrew (fun c => { c with am := 2 })).crew.live &&& ~~~(2 : BitVec 64) ≠ 0 ∧ ok twoLanes .exit = true ∧
      twoLanes.crew.paths = [] ∧ twoLanes.crew.live &&& ~~~twoLanes.crew.am = 0 ∧ twoLanes.hasJobs twoLanes.fkey = false ∧
      twoLanes.crew.pend = [] ∧ (twoLanes.core twoLanes.focusCore).tileOps = [] ∧ twoLanes.crew.handles = true := by decide +kernel

theorem witness_ReservedOpcodesTrapIllop :
    Reaches demo demo.crew = true ∧ demo.crew.handles = true ∧ (0x57000000 : Word).toNat / 2 ^ 24 = 0x57 ∧
      (0xFEFFFFFF : Word).toNat / 2 ^ 24 = 0xFE := by decide +kernel

/-- The demo in a context of level 0. -/
def lowLevel : State := { demo with ctxs := demo.ctxs.mapVals (fun (x : Ctx) => { x with level := 0 }) }

theorem witness_FailedChecksTrapWithTheirCause :
    Reaches demo demo.crew = true ∧ demo.crew.handles = true ∧
      checkIssue demo demo.crew (.sadd 64 0 0) = some (0x01, 0x14400000) ∧
      Reaches lowLevel lowLevel.crew = true ∧ (checkIssue lowLevel lowLevel.crew (.tlbi 0 8 8)).map Prod.fst = some 0x15 ∧
      (checkIssue demo demo.crew (.spexit 8)).map Prod.fst = some 0x01 ∧
      (checkIssue (inMode 0xE0) (inMode 0xE0).crew (.add 8 16 24)) = some (0x13, 0xE0) ∧
      (let s := demo.mapCrew (fun c => { c with vregs := 8 })
       Reaches s s.crew = true ∧ (checkIssue s s.crew (.add 8 0 0)).map Prod.fst = some 0x12) := by decide +kernel

/-- The demo in a context whose DBGCTL has a value. -/
def debugged (x : Word) : State := { demo with ctxs := demo.ctxs.mapVals (fun (c : Ctx) => { c with dbgctl := x.zeroExtend _ }) }

theorem witness_TrapAndBreakEnterTheHandler :
    ok demo (.trap 0xFFFF) = true ∧ ok demo (.brk 0) = true ∧ ((demo.ctx demo.crew.ctx).dbgctl.getLsbD 1 = false) ∧
      demo.crew.handles = true ∧ ok (debugged 2) (.brk 0xFFFF) = true ∧
      ((debugged 2).ctx (debugged 2).crew.ctx).dbgctl.getLsbD 1 = true := by decide +kernel

/-- A trap frame. -/
def frame (pc : DWord) (mask : BitVec 64) (paths : Nat) : Frame :=
  { pc := pc, mask := mask, mode := 0x00060020, cause := BitVec.ofNat 32 (0x10 + 256 * paths), tval := 0 }

/-- A crew with frames. -/
def framed (s : State) (fs : List Frame) : State := s.mapCrew (fun c => { c with frames := fs })

theorem witness_TrapWithoutRoomEscalates :
    (let s := demo.mapCrew (fun c => { c with tvec := 0 })
     ok s (.trap 1) = true ∧ s.crew.tvec = 0 ∧ (s.tasks.get? s.crew.task).isSome = true) ∧
    (let s := framed demo (List.replicate 4 (frame 0x40 1 0))
     ok s (.trap 1) = true ∧ s.crew.frames.length = 4) ∧
    (let s := { framed demo (List.replicate 4 (frame 0x40 1 0)) with tasks := [] }
     ok s (.trap 1) = true ∧ (s.tasks.get? s.crew.task).isSome = false) := by decide +kernel

theorem witness_TrapReturnRestoresTheFrame :
    ok (framed demo [frame 0x20040 3 0]) .trapret = true ∧ (framed demo [frame 0x20040 3 0]).crew.live = 1 ∧
      bitsOf (frame 0x20040 3 0).cause.toNat 11 8 = 0 ∧
      (let s := framed secondLane [frame 0x20040 4 1]
       ok s .trapret = true ∧ s.crew.paths.length = bitsOf (frame 0x20040 4 1).cause.toNat 11 8 ∧ (4 : BitVec 64) &&& s.crew.live = 0) ∧
      (let s := (framed demo [frame 0x20040 1 0]).mapCrew (fun c => { c with live := 0 })
       ok s .trapret = true ∧ s.crew.paths = [] ∧ s.hasJobs s.fkey = false ∧ s.crew.pend = [] ∧ (s.core s.focusCore).tileOps = []) ∧
      (let s := framed demo [frame 0x20042 1 0]
       ok s .trapret = true ∧ (1 : BitVec 64) &&& s.crew.live ≠ 0 ∧ s.crew.handles = true ∧ (frame 0x20042 1 0).pc.toNat % 4 ≠ 0) ∧
      (let s := framed demo [frame 0x200000000000000 1 0]
       ok s .trapret = true ∧ (1 : BitVec 64) &&& s.crew.live ≠ 0 ∧ s.crew.handles = true ∧
         2 ^ 57 ≤ (frame 0x200000000000000 1 0).pc.toNat) ∧
      (let s := framed demo [frame 0x20040 2 0]
       ok s .trapret = true ∧ (2 : BitVec 64) &&& s.crew.live = 0 ∧ s.crew.live ≠ 0 ∧ s.crew.handles = true) ∧
      (ok demo .trapret = true ∧ demo.crew.frames = []) ∧
      (let s := framed demo [frame 0x20040 1 1]
       ok s .trapret = true ∧ s.crew.paths.length ≠ bitsOf (frame 0x20040 1 1).cause.toNat 11 8 ∧ s.crew.handles = true) := by
  decide +kernel

theorem witness_SystemRegistersReadAndWrite :
    [0x000, 0x001, 0x009, 0x012, 0x018].all (fun n => ok demo (.sread 8 (BitVec.ofNat 16 n))) = true ∧
      demo.crew? = some demo.crew ∧ demo.crew.frames = [] ∧
      [0x000, 0x007, 0x002, 0x004].all (fun n => ok (framed demo [frame 0x20040 3 0]) (.swrite 8 (BitVec.ofNat 16 n))) = true ∧
      [0x00A, 0x013, 0x015, 0x016, 0x032].all (fun n => ok demo (.swrite 8 (BitVec.ofNat 16 n))) = true ∧
      (demo.ctxs.get? demo.crew.ctx).isSome = true ∧ demo.crew.pend = [] ∧
      (let s := withS demo [(8, 0xFFFFFFFF)]
       ok s (.swrite 8 0x013) = true ∧ ((s.crew.getS 8).zeroExtend 64 : DWord) &&& sysReserved 0x013 ≠ 0) := by decide +kernel

theorem witness_ClockHaltAndTlbiComplete :
    ok demo (.clock 62) = true ∧ ok (debugged 0) .halt = true ∧ ok (debugged 1) .halt = true ∧
      (let s := withS demo [(9, BitVec.ofNat 32 demo.crew.ctx)]
       ok s (.tlbi 1 10 9) = true ∧ (s.crew.getS 9).toNat = s.crew.ctx ∧ s.crew.ctx < 2 ^ 16 ∧
         (∀ e ∈ s.cores, e.2.replies = [])) ∧
      (let s : State := { withS demo [(9, BitVec.ofNat 32 demo.crew.ctx)] with
          ctxs := demo.ctxs.mapVals (fun (x : Ctx) => { x with level := 1 }) }
       ok s (.tlbi 2 10 9) = true ∧ (s.ctx s.crew.ctx).level < 2 ∧ s.crew.handles = true) := by decide +kernel


/-- The demo with s10:s11 and v[10:11] in lane 0 at an address. -/
def pointing (s : State) (va : Nat) : State :=
  (at2 s 10 va).mapCrew (fun c => (c.setV 10 0 (BitVec.ofNat 32 va)).setV 11 0 (BitVec.ofNat 32 (va / 2 ^ 32)))

/-- The vault window of the demo's context. -/
def vaultVa : Nat := 0x40000000

theorem witness_LoadsAndStoresBecomeOutstanding :
    (let s := pointing demo (vaultVa + 0x800)
     [Instr.ldb 20 10 0x80, .ldh 20 10 0xFF, .ldw 20 10 0x7F, .ldd 20 10 0, .ldq 20 10 0x80, .ldx 20 10 12].all (fun i =>
       ok s i && (vectorLoad s.crew i).elim false (fun x =>
         isGo (s.classify s.focusCore (some s.fkey) s.crew.ctx x.2.1 .read true x.2.2).1)) &&
     [Instr.stb 20 10 0x80, .sth 20 10 0xFF, .stw 20 10 0x7F, .std 20 10 0, .stq 20 10 0x80, .stx 20 10 12].all (fun i =>
       ok s i && (vectorStore s.crew i).elim false (fun x =>
         isGo (s.classify s.focusCore (some s.fkey) s.crew.ctx x.2.1 .write false x.2.2).1)) &&
     [Instr.sld 20 10 0x80, .sld64 20 10 0x7F].all (fun i =>
       ok s i && (scalarLoad s.crew i).elim false (fun x => isGo (s.classify s.focusCore none s.crew.ctx x.2.1 .read true [(0, x.2.2)]).1)) &&
     [Instr.sst 20 10 0x80, .sst64 20 10 0x7F].all (fun i =>
       ok s i && (scalarStore s.crew i).elim false (fun x =>
         isGo (s.classify s.focusCore none s.crew.ctx x.2.1 .write false [(0, x.2.2)]).1))) = true ∧
    (let s := inMode 1
     ok s (.ldw 20 10 0) = true ∧ vectorLoad s.crew (.ldw 20 10 0) = some (20, 4, []) ∧
       isGo (s.classify s.focusCore (some s.fkey) s.crew.ctx 4 .read true []).1 = true) := by decide +kernel

/-- The classification traps with a cause. -/
def trapsBy (x : Machine.Class) : Nat :=
  match x with
  | .trap cause _ => cause
  | _ => 0

/-- The classification finds absent pages. -/
def hasAbsent (x : Machine.Class) : Bool :=
  match x with
  | .go _ (_ :: _) => true
  | _ => false

/-- The demo with a page of kind 01 at 0x60000. -/
def untouched : State := demo.setPhysBytes (0x8000 + 24) 2 8

theorem witness_AccessesTrapOrParkAsTheyAreClassified :
    ([(0, vaultVa), (1, vaultVa + 2)].find? (fun l : Nat × Nat => decide (l.2 % 4 ≠ 0)) = some (1, vaultVa + 2)) ∧
      (let s := pointing demo 0x1000000
       [Instr.ldw 20 10 0, .ldb 20 10 0].all (fun i => ok s i && (vectorLoad s.crew i).elim false (fun x =>
         decide (trapsBy (s.classify s.focusCore (some s.fkey) s.crew.ctx x.2.1 .read true x.2.2).1 ≠ 0))) &&
       [Instr.stw 20 10 0].all (fun i => ok s i && (vectorStore s.crew i).elim false (fun x =>
         decide (trapsBy (s.classify s.focusCore (some s.fkey) s.crew.ctx x.2.1 .write false x.2.2).1 ≠ 0))) &&
       [Instr.sld 20 10 0].all (fun i => ok s i && (scalarLoad s.crew i).elim false (fun x =>
         decide (trapsBy (s.classify s.focusCore none s.crew.ctx x.2.1 .read true [(0, x.2.2)]).1 ≠ 0))) &&
       [Instr.sst 20 10 0].all (fun i => ok s i && (scalarStore s.crew i).elim false (fun x =>
         decide (trapsBy (s.classify s.focusCore none s.crew.ctx x.2.1 .write false [(0, x.2.2)]).1 ≠ 0))) && s.crew.handles) = true ∧
      (let s := pointing untouched 0x60000
       [Instr.ldw 20 10 0, .stw 20 10 0].all (fun i => ok s i) && hasAbsent (s.classify s.focusCore (some s.fkey) s.crew.ctx 4 .read true
         (laneVas s.crew 10 0 4)).1 && hasAbsent (s.classify s.focusCore (some s.fkey) s.crew.ctx 4 .write false (laneVas s.crew 10 0 4)).1) =
        true := by decide +kernel

/-- An outstanding access of one lane. -/
def oneLane (k : PendKind) (size idx data : Nat) : Pend :=
  { kind := k, size := size, accs := [{ lane := 0, va := vaultVa, loc := ⟨idx, false⟩, data := data, cmp := 0, gens := [], fresh := false }], pc := 0, seq := 0 }

/-- The crew with outstanding accesses. -/
def owing (s : State) (ps : List Pend) : State := s.mapCrew (fun c => { c with pend := ps })

theorem witness_CompletionsReadAndWriteMemory :
    [1, 2, 4, 8, 16].all (fun n =>
      let s := owing demo [oneLane (.load 20 (decide (n < 4)) false) n (vaultIdx 0 0 0) 0]
      decide (s.crews.get? (crewKey 0 0) = some s.crew) && decide ((1 : BitVec 64).getLsbD 0 = true) &&
        decide (bitsOf (s.ctx s.crew.ctx).migthr.toNat 15 0 = 0) && (s.crew.pend.take 0).all (fun q => !q.precedes (oneLane .store 4 0 0))) = true ∧
      (let s := owing demo [oneLane .store 4 (vaultIdx 0 0 0) 0x12345678]
       s.crews.get? (crewKey 0 0) = some s.crew ∧ s.crew.pend[0]? = some (oneLane .store 4 (vaultIdx 0 0 0) 0x12345678)) := by
  decide +kernel

/-- A crew parked on a page. -/
def parked (s : State) (fetch : Bool) (answer : Nat) : State :=
  s.mapCrew (fun c => { c with park := some { mask := 1, va := 0x60000, fetch := fetch, pages := [{ va := 0x60000, answer := answer }] } })

theorem witness_ParkedCrewsReplayOrTrap :
    [(false, 0), (false, 1), (false, 2), (true, 0), (true, 1), (true, 2)].all (fun x =>
      let s := parked demo x.1 x.2
      decide (s.crews.get? (crewKey 0 0) = some s.crew) && (s.crew.park).isSome && s.crew.handles) = true := by decide +kernel

theorem witness_HintsAndProbesNeverFault :
    [Instr.pref 2 10 0, .pagehintPrefer 10 12, .pagehintMigrate 10 12, .pagehintClear 10 12, .probe 20 10].all
        (ok (pointing untouched 0x60000)) = true ∧
      ok (pointing demo (2 ^ 57)) (.probe 20 10) = true ∧ (demo.leafOf demo.crew.ctx 0x20000).isSome = true ∧
      (match untouched.walk untouched.crew.ctx 0x60000 with | .invalid 1 0 _ _ => true | _ => false) = true ∧
      (untouched.window untouched.crew.ctx 0x60000).isNone = true ∧ untouched.dieLive 0 = true ∧
      (List.range 8).all (fun n => decide (untouched.poc (0x8018 + n) = 0x8018 + n)) = true := by decide +kernel


/-- The demo with a readable and writable page at 0x60000. -/
def paged : State := demo.setPhysBytes (0x8000 + 24) 0x6000F 8

/-- A pin and a pool mapping of context 1. -/
def pinned (rev : Bool) : State :=
  (demo.mapDie 0 (fun d => { d with pins := [(0, ⟨demo.crew.ctx, 0x60000, 128, [], rev⟩)] })).mapCore 0
    (fun k => { k with pools := [(0, ⟨demo.crew.ctx, 0x60000, 128, 0, [], rev⟩)] })

theorem witness_PinsAndPoolMappings :
    [0, 2 ^ 22 + 1].all (fun n => ok (withS (at2 demo 10 0x60000) [(12, BitVec.ofNat 32 n)]) (.l2pin 8 10 12)) = true ∧
      (let s := withS (at2 paged 10 0x60000) [(12, 128)]
       ok s (.l2pin 8 10 12) = true ∧ s.windowIn s.crew.ctx 0x60000 128 = none ∧
         isGo (s.classify s.focusCore none s.crew.ctx 1 .read false ((pageStarts 0x60000 128).map (fun v => (0, v)))).1 = true) ∧
      [false, true].all (fun rev => ok (pinned rev) (.l2unpin 8) && ok (pinned rev) (.poolunmap 8) &&
        (((pinned rev).die (dieOf (pinned rev).focusCore)).pins.get? ((pinned rev).crew.getS 8).toNat).any
          (fun p => decide (p.ctx = (pinned rev).crew.ctx ∧ p.revoked = rev)) &&
        (((pinned rev).core (pinned rev).focusCore).pools.get? ((pinned rev).crew.getS 8).toNat).any (fun p => decide (p.revoked = rev)) &&
        (pinned rev).crew.handles) = true ∧
      (let s : State := { pinned false with ctxs := (pinned false).ctxs.insert 9 Ctx.blank }
       let s := s.mapCrew (fun c => { c with ctx := 9 })
       ok s (.l2unpin 8) = true ∧ s.crew.handles = true ∧ ((s.die 0).pins.get? 0).any (fun p => decide (p.ctx ≠ s.crew.ctx)) = true) ∧
      (let s := withS (at2 paged 10 0x60001) [(12, 0), (13, 128)]
       ok s (.poolmap 8 10 12) = true ∧ s.crew.handles = true ∧ (s.crew.getSS 10).toNat % 128 ≠ 0) ∧
      [(1, 128), (0, 1), (2 ^ 18, 128)].all (fun x : Nat × Nat =>
        ok (withS (at2 paged 10 0x60000) [(12, BitVec.ofNat 32 x.1), (13, BitVec.ofNat 32 x.2)]) (.poolmap 8 10 12)) = true ∧
      ok demo (.l2unpin 8) = true ∧ (demo.die (dieOf demo.focusCore)).pins.get? (demo.crew.getS 8).toNat = none ∧
      [(0, 0), (0, 2 ^ 18), (2 ^ 18, 0), (128, 128)].all (fun x =>
        let s := withS (at2 paged 10 0x60000) [(12, BitVec.ofNat 32 x.1), (13, BitVec.ofNat 32 x.2)]
        ok s (.poolmap 8 10 12) && decide (s.windowIn s.crew.ctx 0x60000 (max x.2 1) = none) &&
         (decide (x.2 = 2 ^ 18) ||
          isGo (s.classify s.focusCore none s.crew.ctx 1 .write false ((pageStarts 0x60000 (max x.2 1)).map (fun v => (0, v)))).1)) = true := by
  decide +kernel

theorem witness_FencesSettleTheirAccesses :
    (let s := owing demo [oneLane .store 4 (vaultIdx 0 0 0) 7]
     [(0, 0), (0, 2), (1, 0), (1, 1), (2, 0), (2, 4)].all (fun x : Nat × Nat =>
       let k := BitVec.ofNat 2 x.1
       let n := BitVec.ofNat 3 x.2
       [Instr.fence k n, .fencej k n].all (ok s)) && s.crew.pend.all (fun p => !p.kind.isRemote) && !s.hasJobs s.fkey &&
       decide (s.crew.unobs = [])) = true := by decide +kernel

/-- A crew with MODE and MODEX. -/
def inModes (s : State) (m x : BitVec 16) : State := s.mapCrew (fun c => { c with mode := m, modex := x })

/-- The atomics of signed integers with v10:v11 as address. -/
def atomics : List Instr :=
  [.aadd 20 10 12, .amin 20 10 12, .amax 20 10 12, .aand 20 10 12, .aor 20 10 12, .axor 20 10 12, .axchg 20 10 12, .acas 20 10 12]

/-- An outstanding atomic of lane 0 on i32. -/
def atomicOf (op : Nat) : Pend :=
  { oneLane (.atomic 20 op 0 0 false false) 4 (vaultIdx 0 0 0) 5 with
    accs := [{ lane := 0, va := vaultVa, loc := ⟨vaultIdx 0 0 0, false⟩, data := 5, cmp := 9, gens := [], fresh := false }] }

/-- The classification that `AtomicGoes` asks for answers lanes only. -/
theorem atomicGoes_of {s : State} {c : Crew} {a : BitVec 8}
    (hr : (modexOrd c.modex = 2 ∨ modexOrd c.modex = 3) ∧ c.released = false → c.releaseReady (modexScope c.modex) = true)
    (h : isGo ((if (modexOrd c.modex = 2 ∨ modexOrd c.modex = 3) ∧ c.released = false then
        (s.release s.fkey (modexScope c.modex)).mapCrew (fun q => { q with released := true }) else s).classify
      (if (modexOrd c.modex = 2 ∨ modexOrd c.modex = 3) ∧ c.released = false then
        (s.release s.fkey (modexScope c.modex)).mapCrew (fun q => { q with released := true }) else s).focusCore
      (some (if (modexOrd c.modex = 2 ∨ modexOrd c.modex = 3) ∧ c.released = false then
        (s.release s.fkey (modexScope c.modex)).mapCrew (fun q => { q with released := true }) else s).fkey) c.ctx
      (4 * spanOf (modeType c.mode)) .both true (laneVas c a.toNat 0 1)).1 = true) : ∃ xs s2, AtomicGoes s s2 c a xs := by
  obtain ⟨xs, s2, e⟩ := goes_of h
  exact ⟨xs, s2, hr, e⟩

/-- A crew at an atomic of one active lane, with MODE and MODEX. -/
def atAtomic (mode ord : Nat) : State := inModes (pointing demo vaultVa) (BitVec.ofNat 16 mode) (BitVec.ofNat 16 (6 + ord * 16))

theorem witness_AtomicsCompleteAndFollowTheTable_goes :
    ∀ mode ∈ [0, 0x10], ∀ ord ∈ [0, 1, 2, 3], ∃ xs s2, AtomicGoes (atAtomic mode ord) s2 (atAtomic mode ord).crew 10 xs := by
  intro mode hm ord ho
  apply atomicGoes_of <;> revert ord <;> revert mode <;> decide +kernel

theorem witness_AtomicsCompleteAndFollowTheTable :
    [0, 1, 2, 3].all (fun ord => atomics.all (ok (atAtomic 0 ord)) && [Instr.ainc 20 10 12, .adec 20 10 12].all (ok (atAtomic 0x10 ord))) = true ∧
      ([0x8B, 0x94].all (fun op =>
        let s := owing demo [atomicOf op]
        decide (s.crews.get? (crewKey 0 0) = some s.crew) && decide (s.crew.pend[0]? = some (atomicOf op)) &&
          decide (elemKind 0 = .int ⟨true, 32⟩) && decide (4 = 4 * spanOf 0) && (1 : BitVec 64).getLsbD 0 &&
          decide (bitsOf (s.ctx s.crew.ctx).migthr.toNat 15 0 = 0)) = true) := by decide +kernel

/-- A crew at AWAIT of a word of the vault, with the value it waits to change from and its deadline. -/
def awaiting (old dl : Word) : State := withS (at2 demo 10 vaultVa) [(12, old), (13, dl)]

/-- A crew that waits at AWAIT since before. -/
def waitedTill (n : Nat) : State :=
  (awaiting 0 5).mapCrew (fun c => { c with waiting := some (.await 20 10 12), deadline := some n })

theorem witness_AcquireLoadsReleaseStoresAndAwait :
    [0x0006, 0x0002, 0x0000].all (fun m =>
      let s := inModes (pointing demo vaultVa) 0 m
      ok s (.ldacq 20 10 1) && s.crew.pend.isEmpty && ok s (.strel 20 10 1) && !s.crew.released &&
      isGo (s.classify s.focusCore (some s.fkey) s.crew.ctx 4 .read true (laneVas s.crew 10 1 4)).1 &&
      isGo ((let s1 := (s.release s.fkey (modexScope s.crew.modex)).mapCrew (fun q => { q with released := true })
        s1.classify s1.focusCore (some s1.fkey) s.crew.ctx 4 .write false (laneVas s.crew 10 1 4)).1)) = true ∧
      [(1, 5, 0), (0, 0, 1), (0, 5, 2)].all (fun x : Nat × Nat × Nat =>
        let s := awaiting (BitVec.ofNat 32 x.1) (BitVec.ofNat 32 x.2.1)
        let c := s.crew
        let q := { c with deadline := some (s.clock + x.2.1), waiting := some (.await 20 10 12) }
        ok s (.await 20 10 12) && c.pend.isEmpty && decide (c.deadline = none) &&
          (match (s.setCrew q).classify s.focusCore none c.ctx 4 .read true [(0, (c.getSS 10).toNat)] with
           | (.go [y] [], _) => decide (x.2.2 = 0 ↔ BitVec.ofNat 32 (s.bytes y.loc.idx 4) ≠ c.getS 12)
           | _ => false)) = true ∧
      (let s := waitedTill 0
       ok s (.await 20 10 12) = true ∧ (s.focusOn 0 0).crew? = some s.crew ∧ s.crew.waiting = some (.await 20 10 12) ∧
         s.crew.deadline = some 0 ∧ (waitedTill 7).crew.deadline = some 7 ∧ (waitedTill 7).clock < 7) := by decide +kernel

/-- The bytes of a card: header fields, read regions and write regions. -/
def cardOf (header : List (Nat × Nat)) (reads writes : List (Nat × Nat)) : Nat :=
  let regions (rs : List (Nat × Nat)) : List (Nat × Nat) := (rs ++ List.replicate (4 - rs.length) (0, 0)).flatMap (fun (r : Nat × Nat) => [(8, r.1), (8, r.2)])
  layout header + layout (regions reads) * 2 ^ 512 + layout (regions writes) * 2 ^ 1024

/-- The demo with a structure at byte `o` of the vault window, and s10:s11 pointing to it. -/
def holding (s : State) (o x n : Nat) : State := at2 (s.setBytes (vaultIdx 0 0 o) x n) 10 (vaultVa + o)

/-- A copy of `len` bytes from 0x1000 to 0x2000 of the vault window. -/
def copyCard (len : Nat) : Nat :=
  cardOf [(1, 1), (1, 0), (6, 0), (8, vaultVa + 0x1000), (8, vaultVa + 0x2000), (8, len)] [(vaultVa + 0x1000, len)]
    [(vaultVa + 0x2000, len)]

/-- A load of a macro from 0x4000 of the vault window. -/
def mloadCard : Nat := cardOf [(1, 3), (1, 0), (1, 0), (5, 0), (8, vaultVa + 0x4000), (8, 128)] [(vaultVa + 0x4000, 0x4000)] []

/-- A stream of 65 words from 0x1000 of the vault window into skid queue 1. -/
def streamCard : Nat :=
  cardOf [(1, 2), (1, 0), (1, 0), (1, 1), (1, 2), (1, 4), (1, 0), (1, 0), (8, vaultVa + 0x1000), (4, 65), (4, 1), (4, 1), (4, 1), (8, 4)]
    [(vaultVa + 0x1000, 260)] []

/-- A grammar object of one row, one column, one rule and one terminal symbol's table, bound. -/
def smallBinding : Binding :=
  { base := BitVec.ofNat 64 (vaultVa + 0x1000), header := 0, maxrules := 1 }

/-- The demo with a card at the start of the vault window, in s10:s11, and 512 in s12. -/
def carded (card : Nat) : State := withS (holding demo 0 card 256) [(12, 512)]

/-- The instructions issue with a card of whose bytes `P` holds. -/
def entered (card : Nat) (is : List Instr) (P : Nat → State → Crew → Bool) : Bool :=
  is.all (ok (carded card)) && (carded card).crew.pend.isEmpty && decide (((carded card).crew.getSS 10).toNat % 256 = 0) &&
    decide (((carded card).core (carded card).focusCore).jobs.length < 32) &&
    decide (bitsOf ((carded card).ctx (carded card).crew.ctx).migthr.toNat 15 0 = 0) &&
    (match readAt (carded card) vaultVa 256 with | some p => P p.1 p.2 (carded card).crew | none => false)

theorem witness_JobInstructionsEnterTheGate_copy :
    entered (copyCard 600) [.copy 8 10, .copyr 8 10 12] (fun x s2 c => !copyCardBad x &&
        (match s2.xlate s2.focusCore none c.ctx ((fld x 8 8 + 512) % 2 ^ 64) .read with
         | (.ok _, s3) => (match s3.xlate s3.focusCore none c.ctx ((fld x 16 8 + 512) % 2 ^ 64) .write with | (.ok _, _) => true | _ => false)
         | _ => false)) = true ∧
     entered (copyCard 512) [.copyr 8 10 12] (fun x _ _ => decide (fld x 24 8 ≤ 512)) = true := by decide +kernel

theorem witness_JobInstructionsEnterTheGate_malformed :
    entered 0 [.copy 8 10, .copyr 8 10 12, .mload 8 10 3, .strm 8 10, .grun 8 10] (fun x _ c =>
       copyCardBad x && mloadCardBad x && streamCardBad x && c.binding.isNone && grunCardBad x smallBinding) = true := by decide +kernel

theorem witness_JobInstructionsEnterTheGate_mload :
     entered mloadCard [.mload 8 10 7] (fun x _ _ => !mloadCardBad x) = true := by decide +kernel

theorem witness_JobInstructionsEnterTheGate_strm :
     entered streamCard [.strm 8 10] (fun x s2 _ => !streamCardBad x && !s2.streamUnbindable x && decide (fld x 5 1 ≤ 256)) = true := by
  decide +kernel


/-- An object of one row and one column, as a binding keeps it. -/
def oneRow : Binding :=
  { base := BitVec.ofNat 64 (vaultVa + 0x1000), header := layout [(12, 0), (4, 1), (4, 1), (4, 0), (4, 64)], maxrules := 1 }

/-- The crew with that object bound. -/
def boundTo (s : State) : State := s.mapCrew (fun c => { c with binding := some oneRow })

/-- A run of that object over one vector. -/
def grunCard : Nat :=
  cardOf [(1, 4), (1, 0), (1, 1), (5, 0), (8, vaultVa + 0x2000), (8, 4), (8, vaultVa + 0x3000), (8, 4)]
    [(vaultVa + 0x1000, 64), (vaultVa + 0x2000, 4)] [(vaultVa + 0x3000, 4)]

theorem witness_JobInstructionsEnterTheGate_grun :
    (let s := boundTo (carded grunCard)
     ok s (.grun 8 10) = true ∧ (match readAt s vaultVa 256 with
       | some p => (match s.crew.binding with
         | some g => !grunCardBad p.1 g && decide (g.maxrules * fld p.1 2 1 ≤ 16384)
         | none => false)
       | none => false) = true ∧
     (match s.crew.binding with | some g => grunCardBad 0 g | none => false) = true) := by decide +kernel

/-- A job of the demo's crew. -/
def jobOf (kind : JobKind) (card : Nat) : Job :=
  { id := 3, kind := kind, crew := demo.fkey, ctx := demo.crew.ctx, card := card, cardVa := 0, token := 8, scope := 1
    reads := cardReads card, writes := cardWrites card, seq := 0, started := false, cancelled := false, pos := 0, buffer := []
    stream := .zero, lost := false, result := none, aux := [2], deadline := none, nonfin := false, ending := none, ended := 0 }

/-- The demo with jobs in the gate of core 0 and s8 pending for job 3. -/
def gated (js : List Job) : State :=
  (demo.mapCore 0 (fun k => { k with jobs := js, nextJob := 9 })).mapCrew (fun c => { c with tokens := [(8, 3)] })

theorem witness_JobsStartMoveAndComplete_start :
    [jobOf .copy (copyCard 600), jobOf .mload mloadCard, jobOf .grun grunCard, jobOf .stream streamCard].all (fun j =>
      decide ((gated [j]).job? 0 3 = some j) && !j.kind.isCollective && (gated [j]).canStart 0 j && (gated [j]).macroFree 0 j) = true := by
  decide +kernel

/-- The engine's classification lets every access go. -/
def engineGo (x : Option Nat × List LaneXlat × List LaneXlat × State) : Bool := decide (x.1 = none)

/-- A started copy of 4 bytes. -/
def smallCopy : Job := { jobOf .copy (copyCard 4) with started := true }

/-- A started load of a macro, after 126 or 127 rows. -/
def loading (n : Nat) : Job := { jobOf .mload mloadCard with started := true, pos := n }

/-- A stream of two words into skid queue 1. -/
def twoWords : Nat :=
  cardOf [(1, 2), (1, 0), (1, 0), (1, 1), (1, 2), (1, 4), (1, 0), (1, 0), (8, vaultVa + 0x1000), (4, 2), (4, 1), (4, 1), (4, 1), (8, 4)]
    [(vaultVa + 0x1000, 8)] []

/-- That stream, started, with elements read. -/
def streaming (b : SMap Nat) : Job := { jobOf .stream twoWords with started := true, buffer := b }

theorem witness_JobsStartMoveAndComplete_move :
    (let s := gated [smallCopy]
     s.job? 0 3 = some smallCopy ∧ smallCopy.lost = false ∧
       engineGo (s.engineClassify 0 (s.jobTask smallCopy) smallCopy.ctx (byteVas (fld smallCopy.card 8 8) 4) (byteVas (fld smallCopy.card 16 8) 4)) = true ∧
       ((s.engineClassify 0 (s.jobTask smallCopy) smallCopy.ctx (byteVas (fld smallCopy.card 8 8) 4) (byteVas (fld smallCopy.card 16 8) 4)).2.2.1.map
         (fun y => y.loc.idx)).Nodup ∧ bitsOf (s.ctx smallCopy.ctx).migthr.toNat 15 0 = 0) ∧
    [126, 127].all (fun n =>
      let s := gated [loading n]
      decide (s.job? 0 3 = some (loading n)) && engineGo (s.engineClassify 0 (s.jobTask (loading n)) demo.crew.ctx
        (byteVas (fld mloadCard 8 8 + n * fld mloadCard 16 8) 128) [])) = true ∧
    (let s := gated [streaming []]
     s.job? 0 3 = some (streaming []) ∧ 1 < cardCount twoWords ∧ (streaming []).buffer.get? 1 = none ∧
       engineGo (s.engineClassify 0 (s.jobTask (streaming [])) demo.crew.ctx (byteVas (cardAddr twoWords 1) (cardSize twoWords)) []) = true) ∧
    (let j := streaming [(0, 5), (1, 6)]
     let s := (gated [j]).mapCrew (fun c => { c with skids := [(1, ⟨4, [], some 3⟩)] })
     s.job? 0 3 = some j ∧ s.crews.get? j.crew = some s.crew ∧ s.crew.skids.get? (fld j.card 3 1) = some ⟨4, [], some 3⟩ ∧
       64 * j.stream.next < cardCount j.card ∧
       (List.range 2).all (fun k => (j.buffer.get? k).isSome) = true ∧ min (64 * j.stream.next + 64) (cardCount j.card) = 2) ∧
    (let j := { smallCopy with result := some 600 }
     let s := gated [j]
     s.job? 0 3 = some j ∧ s.crews.get? j.crew = some s.crew ∧ s.crew.tokens.get? j.token = some j.id ∧ j.scope < 2) := by decide +kernel

/-- The demo's crew with a skid queue 2 in a state. -/
def skidded (q : Skid) : State := demo.mapCrew (fun c => { c with skids := [(2, q)], am := 7, live := 7 })

theorem witness_WaitsSkidQueuesAndQueries :
    (ok demo (.waitc 0 0 0 0) = true ∧ demo.counts demo.fkey = (0, 0, 0, 0) ∧ demo.crew.unobs = []) ∧
    (let s := owing demo [oneLane .store 4 (vaultIdx 0 0 0) 7]
     ok s (.waitc 63 0 63 63) = true ∧ 0 < (s.counts s.fkey).2.1) ∧
    (ok demo (.pop 8 2) = true ∧ demo.crew.skids.get? 2 = none) ∧
    (ok (skidded ⟨4, [⟨[5, 6]⟩], none⟩) (.pop 8 2) = true ∧ ok (skidded ⟨4, [⟨[5, 6]⟩], some 3⟩) (.pop 8 2) = true ∧
      ok (skidded ⟨4, [], some 3⟩) (.pop 8 2) = true ∧ ok (skidded ⟨4, [], none⟩) (.pop 8 2) = true) ∧
    [0, 1, 128].all (fun n => ok (withS (at2 demo 10 (vaultVa + 127)) [(12, BitVec.ofNat 32 n)]) (.strmbar 10 12)) = true ∧
    (let s := gated [jobOf .copy (copyCard 600)]
     ok s (.jobq 9 8) = true ∧ ok s (.jobcan 8) = true ∧ s.crew.tokens.get? 8 = some 3 ∧ (s.job? s.focusCore 3).isSome = true ∧
       ok s (.jobq 9 7) = true ∧ ok s (.jobcan 7) = true ∧ s.crew.tokens.get? 7 = none ∧ s.crew.pend = []) ∧
    (let s := gated [smallCopy]
     ok s (.jobcan 8) = true ∧ s.job? s.focusCore 3 = some smallCopy ∧ smallCopy.result = none) := by decide +kernel

theorem witness_WaitingInstructionsSettleFirst :
    (let s := owing demo [oneLane (.sload 8) 4 (vaultIdx 0 0 0) 0]
     let os := operands s.crew.mode (.sadd 9 8 8)
     Reaches s s.crew = true ∧ (checkIssue s s.crew (.sadd 9 8 8)).isNone = true ∧ s.crew.sregs ≤ 64 ∧
       s.crew.pend.any (fun p => os.any p.targets) = true) ∧
    (let s := gated [smallCopy]
     let os := operands s.crew.mode (.sadd 9 8 8)
     Reaches s s.crew = true ∧ (checkIssue s s.crew (.sadd 9 8 8)).isNone = true ∧
       s.crew.pend.any (fun p => os.any p.targets) = false ∧ s.crew.mustWait os = true) ∧
    (let s := demo.mapCrew (fun c => { c with unobs := [⟨8, 1, false⟩] })
     let os := operands s.crew.mode (.sadd 9 8 8)
     Reaches s s.crew = true ∧ (checkIssue s s.crew (.sadd 9 8 8)).isNone = true ∧
       s.crew.pend.any (fun p => os.any p.targets) = false ∧ s.crew.mustWait os = false ∧ s.crew.nothingToObserve os = false) := by
  decide +kernel

/-- The demo with every lane live and every core tile allocated, and a valid macro 5. -/
def stand : State :=
  (demo.setMac 0 5 { owner := some demo.crew.ctx, fmt := 0, rows := [] }).mapCrew (fun c =>
    { c with am := BitVec.allOnes 64, live := BitVec.allOnes 64, tiles := 0xFF })

/-- A format block of MXFP8 operands with scales at 0x1000 and 0x1400 of the vault window. -/
def block : Nat := layout [(1, 0), (1, 0), (1, 0), (5, 0), (8, vaultVa + 0x1000), (8, vaultVa + 0x1400)]

theorem witness_StandInstructionsWorkOnTheirTiles :
    (ok stand (.mzero 7) = true ∧ ok stand (.mread 8 7 120) = true ∧ ok stand (.mflags 8 7) = true ∧
      (stand.core 0).tileOps = [] ∧ (stand.tile 0 7).errors = [] ∧ (stand.core 0).jobs = []) ∧
    (let s := stand.mapCrew (fun c => (c.setV 10 0 (BitVec.ofNat 32 vaultVa)).setV 11 0 0)
     [0, 1].all (fun f =>
      let s := s.mapCrew (fun c => { c with am := 1, live := 1 })
      ok s (.mstore 7 10 f) && decide (s.crew.active ≠ 0) && isGo (s.classify s.focusCore (some s.fkey) s.crew.ctx 128 .write false
        ((laneVas s.crew 10 0 1).flatMap (fun r => (List.range (if f = 0 then 4 else 2)).map (fun j => (r.1, (r.2 + 128 * j) % 2 ^ 64))))).1)) =
        true ∧
    (let s := holding stand 0 block 64
     ok s (.mma 0 10 7 5) = true ∧ s.crew.pend = [] ∧ s.crew.waiting = none ∧ bitsOf (s.ctx s.crew.ctx).migthr.toNat 15 0 = 0 ∧ s.crew.active = BitVec.allOnes 64 ∧ (s.mac 0 5).owner = some s.crew.ctx ∧
       (match readAt s vaultVa 64 with
        | some p => decide (p.1 = block) && !formatBlockBad block && decide (32 ≤ s.crew.vregs) && decide (fld block 1 1 = (s.mac 0 5).fmt) &&
          (match readAt p.2 (fld block 8 8) 256 with
           | some q => (readAt q.2 (fld block 16 8) 4).isSome
           | none => false)
        | none => false) = true) := by decide +kernel


/-- An accepted MMA on tile 7 and macro 5. -/
def mmaOp (t m : Nat) : TileOp :=
  { crew := 0, pc := 0, seq := 0, tile := t, mac := m, a := List.replicate 64 0, block := block, sa := 0, sb := 0, tsa := 0x3F800000, tsb := 0x3F800000 }

theorem witness_BroadcastsAndErrorsOfTheStand :
    (let s := stand.mapCore 0 (fun k => { k with tileOps := [mmaOp 6 4, mmaOp 7 5] })
     (s.core 0).tileOps[1]? = some (mmaOp 7 5) ∧
       ((s.core 0).tileOps.take 1).all (fun o => decide (o.tile ≠ (mmaOp 7 5).tile) && decide (o.mac ≠ (mmaOp 7 5).mac)) = true ∧
       (s.crews.get? (mmaOp 7 5).crew).isSome = true ∧ (s.tile 0 7).errors = []) ∧
    (let s := (stand.mapCore 0 (fun k => { k with tileOps := [mmaOp 7 5] })).setTile 0 7 { stand.tile 0 7 with errors := [8191] }
     (s.core 0).tileOps[0]? = some (mmaOp 7 5) ∧ (s.tile 0 7).errors = [8191] ∧ (s.crews.get? (mmaOp 7 5).crew).isSome = true) := by
  decide +kernel

/-- A grammar object of one terminal, one rule, one row and one section, at 0x1000 of the vault window. -/
def object : Nat :=
  layout [(4, 0x4D4D5247), (1, 1), (1, 0), (2, 0), (4, 1), (4, 1), (4, 1), (4, 1), (2, 1), (2, 0), (4, 192), (4, 64), (4, 80), (4, 96),
    (4, 112), (16, 0), (4, 0), (12, 0), (4, 128), (2, 1), (1, 1), (9, 0), (4, 132), (4, 1), (8, 0), (4, 0), (4, 1), (4, 0), (4, 1),
    (4, 0), (4, 0x80000000)]

/-- The demo with that object, and s10:s11 pointing to it. -/
def withObject (s : State) (x : Nat) : State := holding s 0x1000 x 192

theorem witness_GrammarsBindRunAndReport_bind :
    (let s := withObject demo object
     ok s (.gbind 8 10) = true ∧ s.crew.pend = [] ∧ (s.crew.getSS 10).toNat % 64 = 0 ∧
       (match validateObject (s.crew.getSS 10).toNat s with | (.ok _, _) => true | _ => false) = true) ∧
    (let s := withObject demo (object + 2 ^ 48)
     ok s (.gbind 8 10) = true ∧
       (match validateObject (s.crew.getSS 10).toNat s with | (.error (.status _ _), _) => true | _ => false) = true) ∧
    (let s := at2 demo 10 (vaultVa + 32)
     ok s (.gbind 8 10) = true ∧ (s.crew.getSS 10).toNat % 64 ≠ 0 ∧ s.crew.handles = true) ∧
    [Instr.gstat 8 0 0, .gstat 62 0 1, .gstat 8 10 2].all (ok demo) = true := by decide +kernel

/-- A started run of the bound object. -/
def running (cancelled : Bool) : Job :=
  { jobOf .grun grunCard with started := true, cancelled := cancelled, aux := [vaultVa + 0x1000, fld object 4 44] }

/-- The demo with that object and its run at the head of the engine's queue. -/
def runningOf (x : Nat) (cancelled : Bool) : State :=
  (withObject (gated [running cancelled]) x).mapCore 0 (fun k => { k with gramQ := [3] })

theorem witness_GrammarsBindRunAndReport_run :
    [true, false].all (fun b => decide ((runningOf object b).job? 0 3 = some (running b)) &&
      decide (((runningOf object b).core 0).gramQ.head? = some 3)) = true ∧
    (match grunRow 0 1 (running false) (runningOf object false) with | (.ok _, _) => true | _ => false) = true ∧
    (match grunRow 0 1 (running false) (runningOf (object + 64 * 2 ^ (8 * 86)) false) with | (.error (.grammar _ _), _) => true | _ => false) =
      true := by decide +kernel

theorem witness_GrammarsBindRunAndReport_row :
    (let x := demo.engineClassify 0 1 demo.crew.ctx [] (byteVas (vaultVa + 0x3000) 4)
     x.1 = none ∧ x.2.1 = [] ∧ bitsOf (demo.ctx demo.crew.ctx).migthr.toNat 15 0 = 0 ∧ (x.2.2.1.map (fun p => p.loc.idx)).Nodup) := by
  decide +kernel

/-- A slot entry of an operator with queues of four on every position. -/
def entry (i : Instr) (e0 e1 : Word) : SlotCfg :=
  { word := (encode i).getD 0, ecr0 := e0, ecr1 := e1, dl := 4, dr := 4, dp := 4, pre := 0, ii := 1 }

/-- A slot of an operator with what its queues hold. -/
def slotOf (i : Instr) (e0 e1 : Word) (l r p : List Tok) : SpSlot :=
  { SpSlot.load (entry i e0 e1) 0 with left := l, right := r, pred := p }

/-- A live region of core 0 whose control crew is the crew of slot 0. -/
def regionWith (slots : SMap SpSlot) : Region :=
  { ctx := demo.crew.ctx, control := 0, cores := [0], imageVa := 0, image := 0, size := 64, scope := 1, regionId := 1
    cw := BitVec.ofNat 64 (vaultVa + 0x8000), token := 9, live := true, held := false, quiet := false, paused := false
    stopping := none, stopped := false, halted := [], round := 1, poisons := 0, cwfail := false, first := none, complete := false
    cwPark := none, exitSeq := 0, cfgSeq := 0, saving := 0, lastFire := 0, corrected := 0, reloads := 0, discarded := 0
    slots := slots, logs := [], handlers := [] }

/-- Slot 1, which takes what slot 0 sends to positions 4 and 5. -/
def receiver : SpSlot := slotOf (.opAdd 3 3 0 0 0 0 0) 0 0 [] [] []

/-- The demo with a region whose slot 0, in focus, holds an operator. -/
def spatial (x : SpSlot) : State := { demo with regions := [(0, regionWith [(0, x), (1, receiver)])] }

/-- The slot in focus holds the word of an operator, and a property holds of it. -/
def heldBy (s : State) (i : Instr) (P : Region → Nat → SpSlot → Bool) : Bool :=
  match s.focusSlot? with
  | some (k, r, ci, x) => decide (s.regions.get? k = some r) && decide (encode i = some x.cfg.word) && isOperator i && P r ci x
  | none => false

theorem heldBy_of {s : State} {i : Instr} {P : Region → Nat → SpSlot → Bool} (h : heldBy s i P = true) :
    ∃ k r ci x, SlotHolds s i k r ci x ∧ P r ci x = true := by
  unfold heldBy at h
  split at h
  · rename_i k r ci x he
    simp only [Bool.and_eq_true, decide_eq_true_eq] at h
    exact ⟨k, r, ci, x, ⟨he, h.1.1.1, h.1.1.2, h.1.2⟩, h.2⟩
  · cases h

/-- A DATA token. -/
def data (v : Word) : Tok := ⟨v, 0⟩

/-- There is room at the targets of the slot. -/
def roomFor (r : Region) (ci : Nat) (x : SpSlot) (es : List (Nat × Tok)) : Bool := r.room ci x.loads.length es

theorem witness_ArithmeticOperatorsFire :
    [Instr.opAdd 4 5 0 0 0 0 0, .opSub 4 3 0 0 0 0 1, .opMul 4 3 0 0 0 0 0, .opFma 4 3 1 0 0 0 0, .opMin 4 3 0 0 1 1 0, .opMax 4 3 0 1 0 0 0,
     .opCmpeq 4 3 0 0 0 0, .opCmpne 4 3 0 0 0 0, .opCmplt 4 3 0 0 0 1, .opCmple 4 3 0 0 0 0, .opAnd 4 3 0 0 0 0, .opOr 4 3 0 0 0 0,
     .opXor 4 3 0 0 0 0, .opShl 4 3 0 0 0 0, .opShr 4 3 0 0 0 0, .opDot4 4 3 0 0 0 0 7].all (fun i =>
       heldBy (spatial (slotOf i 5 6 [data 1] [data 2] [data 1])) i (fun r ci x => decide (0x08 ≤ x.cfg.op ∧ x.cfg.op ≤ 0x17) &&
         roomFor r ci x (sendAll x.cfg.both ⟨0, 0⟩) &&
         (match x.heads x.cfg.uses with | some hs => hs.all (fun u => decide (u.tag = 0)) | none => false)) &&
       heldBy (spatial (slotOf i 5 6 [⟨7, 2⟩] [data 2] [data 1])) i (fun r ci x => roomFor r ci x (sendAll x.cfg.both ⟨0, 0⟩) &&
         (match x.heads x.cfg.uses with | some hs => hs.any (fun u => decide (u.tag ≠ 0)) | none => false)) &&
       heldBy (spatial (slotOf i 5 6 [] [] [])) i (fun _ _ x => decide (x.heads x.cfg.uses = none))) = true := by decide +kernel

/-- A slot that an operator finds, with room for two tokens at each target. -/
def routes (i : Instr) (x : SpSlot) (op : Nat) : Bool :=
  heldBy (spatial x) i (fun r ci y => decide (y.cfg.op = op) && decide (y = x) &&
    roomFor r ci y (sendAll y.cfg.both ⟨0, 0⟩ ++ sendAll y.cfg.both ⟨0, 2⟩) && roomFor r ci y (sendAll y.cfg.targets ⟨0, 0⟩))

theorem witness_RoutingOperatorsFire :
    routes (.opPass 4 5 0 0 0 0) (slotOf (.opPass 4 5 0 0 0 0) 0 0 [⟨7, 2⟩] [] []) 0x01 = true ∧
    [0, 1].all (fun p => routes (.opPass 4 5 1 0 0 0) (slotOf (.opPass 4 5 1 0 0 0) 0 0 [data 7] [] [data p]) 0x01) = true ∧
    routes (.opCopy 4 5) (slotOf (.opCopy 4 5) 0x0304 0 [data 7] [] []) 0x02 = true ∧
    [0, 1].all (fun p => routes (.opSel 4 5) (slotOf (.opSel 4 5) 0 0 [data 7] [data 8] [data p]) 0x03) = true ∧
    [0, 1].all (fun p => routes (.opSteer 4 5) (slotOf (.opSteer 4 5) 0 0 [data 7] [] [data p]) 0x04) = true ∧
    routes (.opSteer 4 5) (slotOf (.opSteer 4 5) 0 0 [⟨7, 1⟩] [] [⟨8, 1⟩]) 0x04 = true ∧
    routes (.opMerge 4 5 0) (slotOf (.opMerge 4 5 0) 0 0 [data 7] [] []) 0x05 = true ∧
    routes (.opMerge 4 5 0) (slotOf (.opMerge 4 5 0) 0 0 [] [data 7] []) 0x05 = true ∧
    [0, 1].all (fun p => routes (.opMerge 4 5 1) (slotOf (.opMerge 4 5 1) 0 0 [data 7] [data 7] [data p]) 0x05) = true ∧
    routes (.opCvt 4 5 0 0 0) (slotOf (.opCvt 4 5 0 0 0) 2 0 [data 7] [] []) 0x20 = true ∧
    routes (.opRate 4 3) (slotOf (.opRate 4 3) 0 0 [] [⟨7, 1⟩] []) 0x21 = true ∧
    routes (.opRate 4 3) { slotOf (.opRate 4 3) 0 0 [data 7] [] [] with block := 32 } 0x21 = true ∧
    routes (.opScalemul 4 5 0 0) (slotOf (.opScalemul 4 5 0 0) 0 0 [⟨7, 1⟩] [] []) 0x22 = true ∧
    routes (.opScalemul 4 5 0 0) (slotOf (.opScalemul 4 5 0 0) 0 0 [data 7] [] []) 0x22 = true ∧
    routes (.opLoopgen 4 3 0 0 0) (slotOf (.opLoopgen 4 3 0 0 0) 1 2 [data 7] [] []) 0x28 = true ∧
    routes (.opLoopgen 4 3 0 0 0) { slotOf (.opLoopgen 4 3 0 0 0) 1 2 [] [] [] with loop := some (3, 2) } 0x28 = true ∧
    routes (.opCount 4 5 1 0 0) (slotOf (.opCount 4 5 1 0 0) 0 0 [data 7] [] []) 0x29 = true ∧
    routes (.opCount 4 5 1 0 0) (slotOf (.opCount 4 5 1 0 0) 0 0 [⟨1, 2⟩] [] []) 0x29 = true ∧
    routes (.opAcc 4 5 1 0 0) (slotOf (.opAcc 4 5 1 0 0) 0 0 [data 7] [] []) 0x2A = true ∧
    routes (.opAcc 4 5 1 0 0) (slotOf (.opAcc 4 5 1 0 0) 0 0 [⟨1, 2⟩] [] []) 0x2A = true ∧
    routes (.opInj 4 5) { slotOf (.opInj 4 5) 0 0 [] [] [] with tides := [1], tide := 0 } 0x35 = true ∧
    routes (.opInj 4 5) { slotOf (.opInj 4 5) 0 0 [] [] [] with tides := [], injects := [(data 1, data 2)] } 0x35 = true ∧
    routes (.opTgate 4 5) (slotOf (.opTgate 4 5) 0 0 [] [⟨1, 3⟩] []) 0x36 = true ∧
    routes (.opTgate 4 5) (slotOf (.opTgate 4 5) 0 0 [] [⟨1, 5⟩] []) 0x36 = true ∧
    [3, 5].all (fun g => routes (.opTgate 4 5) { slotOf (.opTgate 4 5) 0 0 [⟨1, g⟩] [] [] with gate := g } 0x36) = true ∧
    routes (.opEdgerx 4 5 0 1) { slotOf (.opEdgerx 4 5 0 1) 0 0 [] [] [] with track := [data 7] } 0x39 = true ∧
    (regionWith []).paused = false ∧ (regionWith []).saving = 0 ∧ (regionWith []).stopping = none := by decide +kernel

/-- A stream of two words between 0x1000 of the vault window and slot 0 of table index 0. -/
def portCard (dir : Nat) : Nat :=
  cardOf [(1, 2), (1, 0), (1, dir), (1, 0), (1, 2), (1, 0), (1, 0), (1, 0), (8, vaultVa + 0x1000), (4, 2), (4, 1), (4, 1), (4, 1), (8, 4)]
    (if dir = 1 then [(vaultVa + 0x1000, 8)] else []) (if dir = 1 then [] else [(vaultVa + 0x1000, 8)])

/-- That stream, started. -/
def portStream (dir : Nat) : Job :=
  { jobOf .stream (portCard dir) with started := true, stream := { StreamPos.zero with dir := dir }, buffer := [(0, 77)] }

/-- A spatial state with that stream in the gate. -/
def ported (x : SpSlot) (dir : Nat) : State := (spatial x).mapCore 0 (fun k => { k with jobs := [portStream dir], nextJob := 9 })

/-- A memory operator's base is 0x1000 of the vault window. -/
def memBase : Word := BitVec.ofNat 32 (vaultVa + 0x1000)

/-- A region of cores 0 and 1: EDGETX to the east in slot 0 of core 0, EDGERX from the west in slot 0 of core 1. -/
def crossing (tx rx : Instr) : State :=
  { demo with regions := [(0, { regionWith [(0, slotOf tx 0 0 [data 7] [] []), (64, slotOf rx 0 0 [] [] [])] with cores := [0, 1] })] }

theorem witness_MemoryAndBoundaryOperatorsFire_tide :
    heldBy (spatial (slotOf (.opSrc 4 5) 0 0 [] [] [])) (.opSrc 4 5) (fun r ci x => decide (x.cfg.op = 0x30) && decide (x.tides = [1]) &&
      roomFor r ci x (sendAll x.cfg.both ⟨1, 3⟩)) = true := by decide +kernel

/-- What the statement asks of a SRC whose stream has read its next element. -/
def sourceHas (s : State) (j : Job) (r : Region) (ci : Nat) (x : SpSlot) : Bool :=
  decide (x.cfg.op = 0x30) && x.tides.isEmpty && !r.paused && decide (r.saving = 0) && r.stopping.isNone && decide (s.portJob 0 ci s.focusSlot = some j) &&
    decide (j.stream.part = 0) && (j.buffer.get? j.stream.next).isSome && !(cardSize j.card == 8) && decide (s.job? 0 j.id = some j) &&
    roomFor r ci x (sendAll x.cfg.both ⟨0, 0⟩)

/-- What the statement asks of a SNK whose stream has a next element. -/
def sinkTakes (s : State) (j : Job) (r : Region) (ci : Nat) (x : SpSlot) : Bool :=
  decide (x.cfg.op = 0x31) && !x.reported && decide (x.left = [data 7]) && decide (s.portJob 0 ci s.focusSlot = some j) &&
    decide (s.job? 0 j.id = some j) && decide (cardSize j.card ≤ 4) && decide (j.pos < cardCount j.card) &&
    (let e := (s.setSlot 0 ci s.focusSlot { x with left := [], pos := x.pos + 1, half := none }).engineClassify (r.cores.getD ci 0) (s.jobTask j) j.ctx []
      (byteVas (cardAddr j.card j.pos) (cardSize j.card))
     decide (e.1 = none ∧ e.2.1 = [] ∧ (e.2.2.1.map (fun y => y.loc.idx)).Nodup))

theorem witness_MemoryAndBoundaryOperatorsFire_source :
    (let s := ported { slotOf (.opSrc 4 5) 0 0 [] [] [] with tides := [] } 1
     heldBy s (.opSrc 4 5) (sourceHas s (portStream 1))) = true := by decide +kernel

theorem witness_MemoryAndBoundaryOperatorsFire_sink :
    (let s := ported (slotOf .opSnk 0 0 [data 7] [] []) 2
     heldBy s .opSnk (sinkTakes s (portStream 2))) = true := by decide +kernel

theorem witness_MemoryAndBoundaryOperatorsFire_memory :
    (let s := spatial (slotOf (.opMemld 4 5) memBase 0 [data 7] [] [])
     heldBy s (.opMemld 4 5) (fun r ci x => decide (x.cfg.op = 0x32) && roomFor r ci x (sendAll x.cfg.both ⟨0, 0⟩) &&
       (match s.memGo s.focusCore r.ctx x (x.cfg.memVa 7) .read with | (.ok _, _) => true | _ => false)) = true) ∧
    (let s := spatial (slotOf .opMemst memBase 0 [data 7] [data 8] [])
     heldBy s .opMemst (fun r _ x => decide (x.cfg.op = 0x33) &&
       (match s.memGo s.focusCore r.ctx x (x.cfg.memVa 7) .write with | (.ok _, _) => true | _ => false)) = true) ∧
    [0, 7].all (fun n => heldBy (spatial { slotOf .opExitx 0 0 [data 7] [data 8] [] with exits := List.replicate n ⟨0, data 1, data 2⟩ }) .opExitx
      (fun _ _ x => decide (x.cfg.op = 0x34) && decide (x.heads x.cfg.uses = some [data 7, data 8]) && decide (x.exits.length = n))) = true ∧
    heldBy (crossing (.opEdgetx 0 1) (.opEdgerx 4 3 0 3)) (.opEdgetx 0 1) (fun r _ x => decide (x.cfg.op = 0x38) && decide (x.left = [data 7]) &&
      decide (neighbour 0 x.cfg.edge.1 = some (1, 3, false)) &&
      decide ((edgeSlots (r.slots.map (fun e => (e.1, e.2.cfg))) (r.cores.idxOf 1) 0x39 3 x.cfg.edge.2).head? = some 64) &&
      ((r.slots.get? 64).any (fun z => z.track.isEmpty))) = true := by decide +kernel

/-- A reply to the demo's region. -/
def reply (v : BitVec 16) : MemReply := { region := 0, version := v, slot := 0, ctx := demo.crew.ctx, va := vaultVa, loc := ⟨vaultIdx 0 0 0, false⟩ }

theorem witness_MemoryAndBoundaryOperatorsFire_replies :
    (let x := { slotOf (.opMemld 4 5) memBase 0 [] [] [] with loads := [none] }
     let s := (spatial x).mapCore 0 (fun k => { k with replies := [reply 0, reply 9] })
     (s.core 0).replies[0]? = some (reply 0) ∧ (reply 0).version = (s.core 0).version ∧ (s.regionAt 0).isSome = true ∧
       s.regions.get? 0 = some (regionWith [(0, x), (1, receiver)]) ∧ (regionWith [(0, x), (1, receiver)]).slots.get? 0 = some x ∧
       x.loads = [none] ∧ 4 ∈ x.cfg.both ∧ (4 : Nat) / 4 ≠ 0 ∧ (s.core 0).replies[1]? = some (reply 9) ∧
       (reply 9).version ≠ (s.core 0).version) := by decide +kernel


/-- The demo in spatial mode with core 1 of the region beside core 0, and slots of its own. -/
def regional (r : Region) : State := { demo with regions := [(0, r)] }

/-- An image of one core: SRC in slot 0, SNK in slot 1, and a checksum. -/
def image (crc : Nat) : Nat :=
  layout [(4, 0x46435053), (1, 1), (1, 1), (1, 0), (1, 0), (4, crc), (4, 1152), (2, 1), (46, 0), (2, 0), (2, 0), (4, 128), (56, 0),
    (4, 0x30040300), (8, 0), (1, 0), (1, 0), (1, 0), (1, 1),
    (4, 0x31030300), (8, 0), (1, 4), (1, 0), (1, 0), (1, 1)]

/-- The image with its own checksum. -/
def goodImage : Nat := image 2918267696

theorem witness_SpatialModeIsEnteredAndLeft_drains :
    [at2 demo 10 vaultVa, holding demo 0 (image 0) 200].all (fun s =>
     ok s (.spent 8 10 12) && s.crew.pend.isEmpty && !s.crew.sib.sibling && decide (s.regions.get? s.fkey = none) &&
       decide ((s.crew.getSS 10).toNat % 64 = 0) && decide (bitsOf (s.ctx s.crew.ctx).migthr.toNat 15 0 = 0) &&
       (match readAt s vaultVa 64 with
        | some p => (readAt p.2 vaultVa (max 64 (fld p.1 12 4))).isSome
        | none => false)) = true := by decide +kernel

/-- The demo, with its registers above the queues, waiting at SPENT of an image. -/
def draining (img : Nat) : State :=
  { demo.mapCrew (fun c => { c with rbase := 60, waiting := some .spent }) with
    regions := [(0, { regionWith [] with live := false, image := img })] }

/-- The CRC register after bytes, each step evaluated before the next. -/
def crcStrict : List Nat → Nat → Nat
  | [], a => a
  | b :: bs, a =>
    match (crcByte (BitVec.ofNat 32 a) b).toNat with
    | 0 => crcStrict bs 0
    | n + 1 => crcStrict bs (n + 1)

theorem crcStrict_eq (bs : List Nat) : ∀ a : Word, crcStrict bs a.toNat = (bs.foldl crcByte a).toNat := by
  induction bs with
  | nil => intro a; rfl
  | cons b bs ih =>
    intro a
    simp only [crcStrict, List.foldl_cons, BitVec.ofNat_toNat, BitVec.setWidth_eq]
    rw [← ih (crcByte a b)]
    split <;> simp_all

/-- The bytes that the checksum of the image runs over. -/
def imageBytes : List Nat := (List.range (fld goodImage 12 4)).map (fun i => if 8 ≤ i ∧ i < 12 then 0 else fld goodImage i 1)

theorem crc_goodImage : imageCrc goodImage (fld goodImage 12 4) = BitVec.ofNat 32 (fld goodImage 8 4) := by
  have h : crcStrict imageBytes (BitVec.allOnes 32).toNat = 2 ^ 32 - 1 - fld goodImage 8 4 := by decide +kernel
  rw [crcStrict_eq] at h
  unfold imageCrc crc32c
  have e : imageBytes.foldl crcByte (BitVec.allOnes 32) = BitVec.ofNat 32 (2 ^ 32 - 1 - fld goodImage 8 4) := by
    rw [← h]; simp
  rw [show (List.range (fld goodImage 12 4)).map (fun i => if 8 ≤ i ∧ i < 12 then 0 else fld goodImage i 1) = imageBytes from rfl, e]
  decide +kernel

/-- The checks of the image before its checksum all pass. -/
theorem reason_goodImage (s : State)
    (h0 : imageFault goodImage (0 / 64) = none)
    (h : (imageCores goodImage (0 / 64)).findIdx? (fun c => !s.coreLive c || (s.regionAt c).isSome || (decide (c % 24 = 23) && (s.die (dieOf c)).pager)) = none)
    (h2 : ((imageSlots goodImage).find? (fun e => !(e.2.ok && targetsOk (imageSlots goodImage) e.1 e.2 &&
      s.handlerOk (imageCores goodImage (0 / 64)) 0 e.1 e.2))).or ((imageSlots goodImage).find? (fun e => !producersOk (imageSlots goodImage) e.1 e.2)) = none)
    (h3 : (imageCores goodImage (0 / 64)).findIdx? (fun c => (List.range 4).any (fun q =>
      decide (2048 * s.freeBlocks c q < quarterBytes (imageSlots goodImage) ((imageCores goodImage (0 / 64)).idxOf c) q))) = none)
    (h4 : (imageSlots goodImage).find? (fun e => !edgeOk (imageSlots goodImage) (imageCores goodImage (0 / 64)) e.1 e.2) = none) :
    s.imageReason 0 goodImage none = none := by
  unfold State.imageReason
  simp only [h0, h, h2, h3, h4, crc_goodImage]
  simp

theorem witness_SpatialModeIsEnteredAndLeft_commit :
    ((draining goodImage).drained [0] = true ∧ (draining goodImage).crew.savedTrap = none ∧ (State.settleCore (draining goodImage) 0).crews.get? (crewKey 0 0) = some (draining goodImage).crew ∧
      ((draining goodImage).regions.get? (crewKey 0 0)).any (fun r => decide (r.live = false ∧ r.cores = [0])) = true) ∧
    (State.settleCore (draining goodImage) 0).imageReason 0 goodImage none = none ∧
    (State.settleCore (draining 0) 0).imageReason 0 0 none = some (1, 0, 0xFFFF) := by
  refine ⟨by decide +kernel, reason_goodImage _ (by decide +kernel) (by decide +kernel) (by decide +kernel) (by decide +kernel) (by decide +kernel), by decide +kernel⟩

/-- A region whose one SNK has reported. -/
def reported (c : Bool) : Region := { regionWith [(1, { slotOf .nop 0 0 [] [] [] with cfg := ⟨0x31030300, 0, 0, 4, 0, 0, 0, 1⟩, reported := true })] with complete := c }

theorem witness_SpatialModeIsEnteredAndLeft_leaves :
    [true, false].all (fun b => ok (regional (reported b)) (.spwait 8 10) && (regional (reported b)).crew.pend.isEmpty &&
      decide ((regional (reported b)).regionAt 0 = some (0, reported b)) && decide ((regional (reported b)).regions.get? (regional (reported b)).fkey = some (reported b)) &&
      (regional (reported b)).exitReady 0 (reported b) && ok (regional (reported b)) (.spexit 8)) = true ∧
    (let s := withS (regional (reported false)) [(10, 5)]
     ok s (.spwait 8 10) = true ∧ s.clock < s.clock + (s.crew.getS 10).toNat) ∧
    (reported true).handlers = [] ∧ (regional (reported true)).traces = [] ∧
    (regional (regionWith [(1, receiver)])).exitReady 0 (regionWith [(1, { receiver with left := [data 1] })]) = false ∧
    (let s := (regional (reported false)).mapCrew (fun c => { c with waiting := some (.spwait 8 10), deadline := some 0 })
     (s.focusOn 0 0).crew? = some s.crew) ∧
    (let s := (regional (reported false)).mapCrew (fun c => { c with waiting := some (.spexit 8) })
     (s.focusOn 0 0).crew? = some s.crew) ∧
    (let s := regional (reported false)
     let r := reported false
     r.live = true ∧ r.complete = false ∧ r.withOp 0x31 ≠ [] ∧ (r.withOp 0x31).all (fun e => e.2.reported) = true ∧
       (s.regionStreams 0).all (fun j => decide (j.stream.dir ≠ 2)) = true ∧ r.cwPark = none ∧ r.cw.toNat % 4 = 0 ∧ r.scope < 2 ∧
       (match s.xlate 0 none r.ctx r.cw.toNat .write with | (.ok _, _) => true | _ => false) = true) := by decide +kernel

/-- INJ in slot 0 and EXITX, whose handler is the crew of slot 0, in slot 1. -/
def exits (es : List ExitRec) : Region :=
  { regionWith [(0, { slotOf .nop 0 0 [] [] [] with cfg := ⟨0x35040300, 0, 0, 0, 0, 0, 0, 1⟩ }),
      (1, { slotOf .nop 0 0 [] [] [] with cfg := ⟨0x34030300, 0, 0, 4, 4, 0, 0, 1⟩, exits := es })] with control := 1 }

/-- The spatial demo with registers set. -/
def inSpace (r : Region) (rs : List (Nat × Word)) : State := withS (at2 (regional r) 10 vaultVa) rs

/-- The statement's first premises. -/
def regionOk (s : State) (r : Region) : Bool := decide (s.regionAt s.focusCore = some (0, r)) && decide (s.regions.get? 0 = some r)

theorem witness_RegionInstructionsAct_changes :
    (let r := regionWith [(0, receiver)]
     [0, 64].all (fun n => let s := inSpace r [(12, BitVec.ofNat 32 n)]
       regionOk s r && ok s (.ecw 8 12) && decide (r.slots.get? 0 = some receiver) && decide (receiver.cfg.op = 0x08) && !receiver.cfg.empty &&
         decide ((r.waiting 0).length < 16)) = true) ∧
    (let r := regionWith [(0, receiver)]
     regionOk (inSpace r []) r = true ∧ ok (inSpace r []) (.tmark 8) = true ∧ r.slots.all (fun e => e.2.tides.isEmpty) = true) ∧
    (let r := exits []
     [0, 0x500000, 0x050000].all (fun n => let s := inSpace r [(12, BitVec.ofNat 32 n)]
       regionOk s r && ok s (.spinj 8 12) && decide (n / 64 % 4 = 0 ∧ n / 2 ^ 19 % 2 = 0 ∧ n < 2 ^ 23 ∧ n / 2 ^ 16 % 8 ≤ 5 ∧ n / 2 ^ 20 % 8 ≤ 5) &&
         ((r.slots.get? 0).any (fun x => decide (x.cfg.op = 0x35 ∧ x.injects.length < 4)))) = true) := by decide +kernel

/-- Four words of an exit record's handler. -/
theorem witness_RegionInstructionsAct_exits :
    (let r := exits []
     regionOk (inSpace r []) r = true ∧ ok (inSpace r []) (.sptake 8) = true ∧ r.exitsFor (inSpace r []).fkey = []) ∧
    (let r := exits [⟨3, data 1, data 2⟩, ⟨4, data 5, data 6⟩]
     regionOk (inSpace r []) r = true ∧ ok (inSpace r []) (.sptake 8) = true ∧
       (r.exitsFor (inSpace r []).fkey).map (fun e => (e.1, e.2.2)) = [(1, ⟨3, data 1, data 2⟩)]) := by decide +kernel

theorem witness_RegionInstructionsAct_stops :
    [regionWith [(0, receiver)], { regionWith [(0, receiver)] with complete := true }, { regionWith [(0, receiver)] with quiet := true }].all (fun r =>
      regionOk (inSpace r []) r && [Instr.spstopEnd, .spstopHold, .spstopQuiet, .spstopRelease].all (ok (inSpace r []))) = true ∧
    [0, 1, 2, 3, 4].all (fun sel => ok (inSpace (regionWith [(0, receiver)]) []) (.spstat 8 (if sel = 2 ∨ sel = 3 then 12 else 0) sel)) = true ∧
    (regionWith [(0, receiver)]).canEnd = true ∧ (regionWith [(0, receiver)]).first = none ∧
    ({ regionWith [(0, receiver)] with complete := true } : Region).canEnd = false := by decide +kernel

/-- Two slots that feed each other's left positions, with preloads on the right. -/
def ring : Region :=
  regionWith [(0, { receiver with cfg := ⟨0x08040320, 0, 0, 4, 0, 0, 0, 1⟩ }), (1, { receiver with cfg := ⟨0x08000320, 0, 0, 4, 0, 0, 0, 1⟩ })]

/-- An SPRCFG descriptor that makes slot 1 a MUL. -/
def descriptor : Nat :=
  layout [(2, 1), (14, 0), (1, 0), (1, 1), (14, 0), (4, 0x0A000320), (8, 0), (1, 4), (1, 0), (1, 0), (1, 1)]

theorem witness_RegionInstructionsAct_replaces :
    (let s := holding (regional ring) 0 descriptor 48
     regionOk s ring = true ∧ ok s (.sprcfg 8 10) = true ∧ s.crew.pend = [] ∧ (s.crew.getSS 10).toNat % 16 = 0 ∧
       (match readAt s vaultVa 16 with
        | some p => decide (fld p.1 0 2 = 1) && (match readAt p.2 vaultVa 48 with
          | some q => ring.slots.all (fun e => e.2.changes.isEmpty) &&
            (match rcfgEntry ring q.1 0 with
             | some (n, cfg) => 
               (let all_ := (ring.latest.insert n cfg).filter (fun e => !e.2.empty)
                !rcfgBad ring all_ q.1 0 && all_.all (fun e => slotLinked all_ e.1 e.2 && edgeOk all_ ring.cores e.1 e.2))
             | none => false)
          | none => false)
        | none => false) = true) := by decide +kernel

/-- A region with one token that can go nowhere. -/
def stuck : Region := regionWith [(0, { receiver with left := [data 1] })]

theorem witness_RegionEventsAct_stops :
    (let s := regional stuck
     s.regions.get? (crewKey 0 0) = some stuck ∧ stuck.canEnd = true ∧ stuck.held = false ∧ stuck.saving ≠ 2 ∧ stuck.halted = [] ∧ 0 < stuck.tokens ∧
       s.clock < stuck.lastFire + s.wdticks ∧
       ({ s with clock := 10000000 } : State).regions.get? (crewKey 0 0) = some stuck ∧ stuck.lastFire + s.wdticks ≤ 10000000) ∧
    (let r := { regionWith [(0, receiver)] with quiet := true }
     (regional r).regions.get? (crewKey 0 0) = some r ∧ r.stopping = none ∧ r.quiet = true ∧ r.held = false ∧ r.completeRound = r.round ∧
       r.tokens = 0) ∧
    (let r := { stuck with stopping := some 6 }
     (regional r).regions.get? (crewKey 0 0) = some r ∧ r.live = true ∧ r.stopped = false ∧ (regional r).regionStill r = true ∧
       (r.withOp 0x31).all (fun e => e.2.reported) = true) ∧
    (stuck.saving = 0 ∧ (let r := { stuck with saving := 1 }
      (regional r).regions.get? (crewKey 0 0) = some r ∧ r.canEnd = true ∧ (regional r).regionStill r = true ∧
        (regional r).streamsStill (crewKey 0 0) = true)) := by decide +kernel

/-- A region whose image stands in the vault window. -/
def imaged : Region := { stuck with imageVa := BitVec.ofNat 64 vaultVa, size := 1152 }

theorem witness_RegionEventsAct_errors :
    (let s := regional stuck
     s.regionAt 0 = some (0, stuck) ∧ s.regions.get? 0 = some stuck ∧ stuck.canEnd = true ∧
       (s.takeFree.2.rereadImage 0 s.crew.task stuck.ctx stuck.imageVa.toNat stuck.size).1 = none) ∧
    (let s := demo.mapCrew (fun c => { c with halted := true })
     s.crews.get? (crewKey 0 0) = some s.crew ∧ s.crew.halted = true) := by decide +kernel

theorem witness_RegionEventsAct_reloads :
    ((holding (regional imaged) 0 goodImage 200).regionAt 0 = some (0, imaged) ∧
      (holding (regional imaged) 0 goodImage 200).regions.get? 0 = some imaged ∧
      ((holding (regional imaged) 0 goodImage 200).takeFree.2.rereadImage 0 demo.crew.task imaged.ctx imaged.imageVa.toNat imaged.size).1 = some goodImage) ∧
    imageCrc goodImage imaged.size = BitVec.ofNat 32 (fld goodImage 8 4) := by
  refine ⟨by decide +kernel, ?_⟩
  rw [show imaged.size = fld goodImage 12 4 from by decide +kernel, crc_goodImage]


/-- A launch header of `n` lanes with flags, priority and a completion word at 0x9000 of the vault window. -/
def header (flags prio vregs n : Nat) : Nat :=
  layout [(2, 1), (1, flags), (1, prio), (4, 0), (8, programBase), (2, vregs), (1, 64), (1, 0), (1, 0), (1, 0), (1, 1), (1, 0), (6, 6),
    (2, 0), (8, n), (8, 77), (8, vaultVa), (8, vaultVa + 0x9000)]

theorem witness_LaunchesQueuesAndBuffersAct_launch :
    [header 0 0 256 1, 0].all (fun x =>
      let s := holding demo 0 x 128
      ok s (.launch 8 10) && s.crew.pend.isEmpty && decide ((s.crew.getSS 10).toNat % 128 = 0) &&
        (match readAt (s.release s.fkey 3) vaultVa 128 with | some p => decide (p.1 = x) | none => false) &&
        decide (hdrMalformed x = decide (x = 0)) && decide ((s.die (dieOf s.focusCore)).launchQ.length < 64) &&
        decide (s.tasks.get? 5 = none)) = true ∧
    64 ≤ ((demo.mapDie 0 (fun d => { d with launchQ := List.range 64 })).die (dieOf demo.focusCore)).launchQ.length := by decide +kernel

/-- A queue of two elements at 0x100 of the vault window with a head and a tail. -/
def queued (hd tl : Nat) : State :=
  let s := holding demo 0x100 (layout [(4, hd), (4, tl), (1, 1), (1, 1)]) 10
  s.mapCrew (fun c => { c with am := 7, live := 7 })

theorem witness_LaunchesQueuesAndBuffersAct_queues :
    [(0, 0), (0, 2), (0xFFFFFFFF, 0)].all (fun x : Nat × Nat =>
      let s := queued x.1 x.2
      s.crew.pend.isEmpty &&
      [Need.both, .read].all (fun n => match s.queueCheck s.crew.ctx (s.crew.getSS 10) 1 (some n) with
        | .ok i => decide (i = vaultIdx 0 0 0x100)
        | _ => false) &&
      decide (s.slotTrap s.crew.ctx (s.crew.getSS 10) (vaultIdx 0 0 0x100) [0, 1] .write = none ∧
        s.slotTrap s.crew.ctx (s.crew.getSS 10) (vaultIdx 0 0 0x100) [0, 1] .read = none) &&
      [Instr.enq 20 10 1 0 0, .enq 20 10 1 1 0, .enq 20 10 1 0 1, .deq 20 10 1 0, .qlen 20 10 1, .sweep 20 10 1, .qfence].all (ok s) &&
      decide ((s.core s.focusCore).pools = []) && (s.tasks.get? s.crew.task).any (fun k => decide (k.sweepQs = [])) &&
      ok s (.qinit 10 1) && (match s.queueReach s.crew.ctx (s.crew.getSS 10) 1 (some .write) false with | .ok _ => true | _ => false)) = true ∧
    (queued 0 2).queueLen (vaultIdx 0 0 0x100) = 2 ∧ (queued 0xFFFFFFFF 0).queueLen (vaultIdx 0 0 0x100) = 1 ∧
    (let s := (queued 0 0).mapTask 1 (fun t => { t with sweepQs := [(vaultIdx 0 0 0x100, 1)] })
     (s.tasks.get? s.crew.task).any (fun k => k.sweepQs.contains (vaultIdx 0 0 0x100, 1)) = true ∧ ok s (.sweep 20 10 1) = true) ∧
    (let s := (queued 0 0).mapTask 1 (fun t => { t with sweepQs := List.replicate 16 (0, 0) })
     (s.tasks.get? s.crew.task).any (fun k => !k.sweepQs.contains (vaultIdx 0 0 0x100, 1) && decide (16 ≤ k.sweepQs.length)) = true) := by
  decide +kernel

/-- The crew owns buffer 3. -/
def owner : State := demo.mapCore 0 (fun k => { k with buffers := [(3, ⟨0, 128, demo.crew.task, demo.crew.number, []⟩)] })

theorem witness_LaunchesQueuesAndBuffersAct_buffers :
    [127, 128, 2 ^ 17, 2 ^ 17 + 1].all (fun n => let s := withS demo [(10, BitVec.ofNat 32 n)]
      ok s (.bufget 8 10) && decide (((s.core s.focusCore).buffers.lowestFree 32) = some 0)) = true ∧
    (let s := withS owner [(10, 3)]
     ok s (.bufdrop 10) = true ∧ ok s (.bufaddr 8 10) = true ∧ ok s (.bufpass 10 11) = true ∧
       (s.core s.focusCore).buffers.get? 3 = some ⟨0, 128, s.crew.task, s.crew.number, []⟩ ∧
       (s.tasks.get? s.crew.task).any (fun u => decide (0 < hdrCrews u.header ∧ u.group 0 = u.group s.crew.number ∧
         u.seen.get? 0 ≠ some 2)) = true) ∧
    (ok demo (.bufdrop 10) = true ∧ ok demo (.bufaddr 8 10) = true ∧ (demo.core demo.focusCore).buffers.get? 0 = none ∧ demo.crew.handles = true) ∧
    (let s := demo.mapCore 0 (fun k => { k with buffers := (List.range 32).map (fun h => (h, ⟨128 * h, 128, 1, 0, []⟩)) })
     (s.core s.focusCore).buffers.lowestFree 32 = none) ∧
    (ok demo (.estim 10) = true ∧ [0, 1, 5].all (fun f => ok demo (.widfld 8 f)) = true ∧ (demo.tasks.get? demo.crew.task).isSome = true) := by
  decide +kernel

theorem witness_LaunchesQueuesAndBuffersAct_space : demo.bufferSpace demo.focusCore 128 = some 0 := by
  have h : (demo.core demo.focusCore).buffers = [] ∧ demo.params.bufLo = 0 ∧ demo.params.bufHi = 0x20000 := by decide +kernel
  simp [State.bufferSpace, h.1, h.2.1, h.2.2, SMap.vals]

/-- The demo's crew with one carry set. -/
def phased (s : State) : State := s.mapCrew (fun c => { c with carry := [⟨[4], [8]⟩] })

theorem witness_PhasesEndAndWait :
    (let s := phased (at2 demo 10 vaultVa)
     [Instr.phendNone 0, .phendNone 1, .phendBar 0 15, .phendBar 1 15, .phendQueue 0 1 10, .phendWord 0 10, .phendQueue 15 1 10, .phendWord 15 10,
       .bararr 8].all (ok s) = true ∧ (s.tasks.get? s.crew.task).isSome = true ∧ s.crew.carry.length = 1 ∧ s.crew.handles = true ∧
       s.crew.sib.sibling = false ∧ s.crew.paths = [] ∧ s.crew.am = s.crew.live ∧ s.crew.pend = [] ∧ s.crew.skids = [] ∧
       s.hasJobs s.fkey = false ∧ (s.core s.focusCore).tileOps = [] ∧ s.traces = [] ∧
       isGo (s.classify s.focusCore none s.crew.ctx 4 .read true [(0, (s.crew.getSS 10).toNat)]).1 = true) ∧
    (let s := phased (queued 0 0)
     ok s (.phendQueue 0 1 10) = true ∧
       (match s.queueCheck s.crew.ctx (s.crew.getSS 10) 1 (some .read) with | .ok _ => true | _ => false) = true) ∧
    (let s := phased secondLane
     ok s (.phendNone 0) = true ∧ s.crew.paths ≠ []) := by decide +kernel

/-- A task of a header. -/
def taskOf (h : Nat) : Task := { newTask demo.crew.ctx 0 h 0 with queued := false }

/-- The demo with task 2. -/
def withTask (t : Task) : State := { demo with tasks := demo.tasks.insert 2 t }

theorem witness_ForemenBindAndScheduleTasks_take :
    (let s := (withTask { taskOf (header 0 0 256 1) with queued := true }).mapDie 0 (fun d => { d with launchQ := [2] })
     s.dieLive 0 = true ∧ (s.die 0).launchQ.find? (fun m => (s.tasks.get? m).elim false (fun u => decide ((s.ctx u.ctx).owner = s.current))) = some 2 ∧
       (s.tasks.get? 2).any (fun t => decide (t.page = none ∧ fld t.header 2 1 % 2 = 0 ∧ fld t.header 20 1 = 0)) = true) := by decide +kernel

/-- A descriptor of one carry set can be read. -/
theorem witness_ForemenBindAndScheduleTasks_descriptor :
    (List.range 24).all (fun i => match demo.xlateWalk demo.crew.ctx (vaultVa + i) .read with
      | .ok l => !demo.poisoned l.idx 1
      | _ => false) = true := by decide +kernel

/-- A phase that waits. -/
def waitingPhase (kind : Nat) (ready : Bool) : Phase :=
  { kind := kind, addr := BitVec.ofNat 64 (vaultVa + 0x40), depth := 0, bar := 0, gen := 0, core := 1, recOff := some 0x20000, whole := none
    jobs := [], tiles := [], region := none, ready := ready, wait := none, trap := none }

theorem witness_ForemenBindAndScheduleTasks_bind :
    (let t := taskOf (header 0 1 8 100)
     (withTask t).tasks.get? 2 = some t ∧ fld t.header 2 1 % 2 = 0 ∧ (withTask t).bindOk 2 t 1 3 63 63 0x20000 = true ∧ 1 < siblingBase ∧
       t.phases.get? 1 = none) ∧
    (let t := { taskOf (header 0 1 8 100) with phases := [(1, waitingPhase 0 true)], seen := [(1, 1)] }
     (withTask t).tasks.get? 2 = some t ∧ (withTask t).bindOk 2 t 1 1 0 0 0x21000 = true) := by decide +kernel

theorem witness_ForemenBindAndScheduleTasks_word :
    (let t := { taskOf (header 0 1 8 100) with phases := [(1, waitingPhase 3 false)] }
     let p := waitingPhase 3 false
     (withTask t).tasks.get? 2 = some t ∧ t.phases.get? 1 = some p ∧ p.kind = 3 ∧ p.ready = false ∧ p.wait = none ∧ p.addr.toNat % 4 = 0 ∧
       (match (withTask t).xlateWalk t.ctx p.addr.toNat .read with | .ok l => !(withTask t).poisoned l.idx 4 | _ => false) = true) := by
  decide +kernel

/-- The demo's task is checkpointable and its crew of the lowest class. -/
def yielding (h : Nat) : State := (withTask (taskOf h)).mapTask 1 (fun t => { t with header := header 2 0 256 1 })

/-- A gang of one crew. -/
def gangTask : Task := taskOf (header 1 3 8 1)

/-- That gang waits, for long, beside a task that may be checkpointed. -/
def gangState : State := { yielding (header 1 3 8 1) with clock := 10 ^ 9 }

theorem witness_ForemenBindAndScheduleTasks_gang :
    gangState.tasks.get? 2 = some gangTask ∧ fld gangTask.header 2 1 % 2 = 1 ∧ gangTask.queued = false ∧ gangTask.seen = [] ∧
      gangTask.launched + gangState.params.gangWait ≤ gangState.clock ∧ gangState.reserved.get? 0 = none ∧
      gangState.crews.get? 0 = some gangState.crew ∧ gangState.crew.task = 1 ∧
      (gangState.tasks.get? 1).any (fun v => decide (fld v.header 2 1 / 2 % 2 = 1)) = true ∧ gangState.crew.prio ≤ fld gangTask.header 3 1 % 4 ∧
      gangState.crew.boundAt + gangState.params.gangWait ≤ gangState.clock ∧ hdrCrews gangTask.header ≤ ([0] : List Nat).dedup.length ∧
      gangTask.launched + gangState.params.gangTmo ≤ gangState.clock ∧ gangTask.cores = [] := by decide +kernel

theorem witness_ForemenBindAndScheduleTasks_gangDone :
    (match gangState.xlateWalk gangTask.ctx (fld gangTask.header 56 8) .write with | .ok _ => true | _ => false) = true := by decide +kernel

/-- A task of one crew that waits for core 0. -/
def waitingTask : Task := { taskOf (header 0 3 8 1) with groups := [(0, 0)] }

/-- The demo with that task, its own task checkpointable and its crew of the lowest class, and no other slot of core 0 free. -/
def crammed : State :=
  { (withTask waitingTask).mapTask 1 (fun t => { t with header := header 2 0 256 1, estim := 0 }) with
    reserved := (List.range 63).map (fun i => (i + 1, 9)) }

theorem witness_ForemenBindAndScheduleTasks_preempts :
    crammed.tasks.get? 2 = some waitingTask ∧ crammed.crews.get? 0 = some crammed.crew ∧ crammed.crew.task = 1 ∧
      crammed.reserved.get? 0 = none ∧ waitingTask.queued = false ∧
      (crammed.tasks.get? 1).any (fun t => crammed.chosen 2 waitingTask 1 t && decide (t.estim.toNat ≤ crammed.params.drainThr)) = true := by
  decide +kernel

/-- A task that is short of slots on a core lacks them there and altogether. -/
theorem lacks_of_shortOn {s : State} {n core : Nat} {u : Task} (hc : core < 192) (h : 0 < s.shortOn n u core) :
    0 < s.lacking n u core ∧ 0 < s.short n u := by
  have hs : s.shortOn n u core ≤ ((List.range 192).map (s.shortOn n u)).sum :=
    List.single_le_sum (fun _ _ => Nat.zero_le _) _ (List.mem_map_of_mem (List.mem_range.mpr hc))
  unfold State.lacking State.short
  omega

theorem witness_ForemenBindAndScheduleTasks_lacks : 0 < crammed.lacking 2 waitingTask 0 ∧ 0 < crammed.short 2 waitingTask :=
  lacks_of_shortOn (by decide) (by decide +kernel)

theorem witness_ForemenBindAndScheduleTasks_sweep :
    (let t := { taskOf (header 0 3 8 1) with sweepQs := [(vaultIdx 0 0 0x100, 1)], cores := [2, 5], token := (0, true), sweepFlags := [2] }
     (withTask t).tasks.get? 2 = some t ∧ t.sweepStop t.token.1 = some 2 ∧ t.sweepQs ≠ [] ∧ (withTask t).sweepIdle 2 t 2 = true ∧
       (t.sweepStop 3).isSome = true) := by decide +kernel

/-- A coppice record of `n` siblings. -/
def coppiceRecord (n : Nat) : Nat := layout [(2, n), (1, 1), (1, 0), (4, 0x358637BD), (8, 1000)]

/-- A coppice of context 1 in a phase, whose siblings are in states. -/
def coppiceOf (phase : Nat) (states : List Nat) : Coppice :=
  { newCoppice demo.crew.ctx vaultVa 0 demo.crew.task 0 (coppiceRecord states.length) with
    phase := phase, deadline := 1000, first := siblingBase, sibs := states.map (fun x => ⟨x, 0, 0, 0, decide (x = 1)⟩) }

/-- The demo with s10:s11 at a record of two siblings, and coppices. -/
def coppiced (xs : List Coppice) : State := { holding (phased demo) 0 (coppiceRecord 2) 16 with coppices := xs }

theorem witness_CoppicesBranchAndMeet_init :
    [[], [coppiceOf 1 [0, 0]], List.replicate 16 { coppiceOf 1 [0] with va := 7 }].all (fun xs =>
      let s := coppiced xs
      ok s (.cpinit 8 10) && s.crew.pend.isEmpty && decide ((s.crew.getSS 10).toNat % 256 = 0) &&
      (match s.classify s.focusCore none s.crew.ctx 1 .both true ((List.range 16).map (fun i => (0, vaultVa + i))) with
       | (.go ys [], s2) => coppiceOk (s.placeBytes ys) &&
         isGo ((s2.pocRead ys).classify s.focusCore none s.crew.ctx 1 .both false ((List.range (256 + 16 * 2)).map (fun i => (0, vaultVa + i)))).1
       | _ => false)) = true ∧
    (coppiced [coppiceOf 1 [0, 0]]).coppice? demo.crew.ctx vaultVa = some (coppiceOf 1 [0, 0]) ∧
    (coppiced []).coppice? demo.crew.ctx vaultVa = none ∧ coppiceOk 0 = false ∧ (ok (holding demo 0 0 16) (.cpinit 8 10) = true) := by
  decide +kernel

/-- The places of a record are distinct. -/
theorem witness_CoppicesBranchAndMeet_places :
    (match (coppiced []).classify 0 none demo.crew.ctx 1 .both false ((List.range 288).map (fun i => (0, vaultVa + i))) with
     | (.go ys [], _) => decide ((ys.map (fun y => y.loc.idx)).Nodup)
     | _ => false) = true := by decide +kernel

theorem witness_CoppicesBranchAndMeet_sprout :
    [[], [coppiceOf 1 [0, 0]], [coppiceOf 2 [1, 1]]].all (fun xs =>
      let s := withS (coppiced xs) [(12, 0xFFFFFFFF)]
      ok s (.sprout 8 10 12) && !s.crew.sib.sibling && s.crew.paths.isEmpty && decide (s.crew.am = s.crew.live) && s.crew.pend.isEmpty &&
        (s.core 0).tileOps.isEmpty && (s.tasks.get? s.crew.task).isSome && !s.otherJobs s.fkey &&
        decide (s.coppice? s.crew.ctx (s.crew.getSS 10).toNat = xs.head?) && xs.all (fun x => decide (x.task = s.crew.task))) = true := by
  decide +kernel

/-- The demo's crew as sibling `i` of the coppice. -/
def asSibling (s : State) (i : Nat) : State :=
  s.mapCrew (fun c => { c with number := siblingBase + i, sib := ⟨BitVec.ofNat 64 vaultVa, i, true, false, 0x3F800000⟩ })

theorem witness_CoppicesBranchAndMeet_reward :
    [(coppiceOf 2 [1, 1], 1), (coppiceOf 3 [2, 4], 4), (coppiceOf 3 [2, 2], 2), (coppiceOf 3 [2, 5], 5)].all (fun x =>
      let s := asSibling (coppiced [x.1]) 1
      ok s (.reward 8 0) && s.crew.sib.sibling && decide (0 < s.crew.carry.length) && s.crew.paths.isEmpty && decide (s.crew.am = s.crew.live) &&
        s.crew.pend.isEmpty && s.crew.skids.isEmpty && !s.hasJobs s.fkey && (s.core 0).tileOps.isEmpty && (s.tasks.get? s.crew.task).isSome &&
        decide (s.coppice? s.crew.ctx s.crew.sib.record.toNat = some x.1) && decide (1 < x.1.sibs.length) &&
        decide ((x.1.sib 1).state = x.2 ∧ x.1.crew 1 = s.crew.number) && !x.1.overdue s.clock) = true ∧
    (coppiceOf 2 [1, 1]).phase = 2 ∧ ((coppiceOf 2 [1, 1]).sib 0).state = 1 := by decide +kernel

theorem witness_CoppicesBranchAndMeet_cut :
    [[], [coppiceOf 2 [1, 1]], [coppiceOf 3 [2, 3]], [coppiceOf 3 [4, 2]]].all (fun xs => [0, 1, 2].all (fun i =>
      let s := withS (coppiced xs) [(12, BitVec.ofNat 32 i)]
      ok s (.cut 8 10 12) && decide (s.coppice? s.crew.ctx (s.crew.getSS 10).toNat = xs.head?) && xs.all (fun x => decide (x.task = s.crew.task ∧ x.n = 2) && !x.overdue s.clock))) =
      true ∧
    (let s := (coppiced [coppiceOf 2 [1, 1]]).setCrewAt 9 { demo.crew with number := siblingBase, task := demo.crew.task }
     s.keyOf s.crew.task ((coppiceOf 2 [1, 1]).crew 0) = some 9 ∧ (s.crews.get? 9).isSome = true ∧ 9 ≠ s.fkey ∧ ok s (.cut 8 10 12) = true ∧
       ((coppiceOf 2 [1, 1]).sib 0).state = 1 ∧ ((coppiceOf 2 [1, 1]).sib 1).state = 1 ∧ (coppiceOf 2 [1, 1]).overdue s.clock = false) ∧
    (let x : Coppice := { coppiceOf 3 [2, 2] with sibs := [⟨4, 0, 0, 0, true⟩, ⟨2, 0, 0, 0, false⟩] }
     let s := (coppiced [x]).setCrewAt 9 { demo.crew with number := siblingBase, task := demo.crew.task }
     s.coppice? s.crew.ctx (s.crew.getSS 10).toNat = some x ∧ s.keyOf s.crew.task (x.crew 0) = some 9 ∧ (s.crews.get? 9).isSome = true ∧
       9 ≠ s.fkey ∧ ok s (.cut 8 10 12) = true ∧ (x.sib 0).state = 4 ∧ (x.sib 0).alive = true ∧ x.phase = 3 ∧ x.overdue s.clock = false) ∧
    (let x : Coppice := { coppiceOf 2 [1, 1] with task := 7 }
     ok (coppiced [x]) (.cut 8 10 12) = true ∧ (coppiced [x]).coppice? demo.crew.ctx vaultVa = some x ∧ x.task ≠ demo.crew.task) := by decide +kernel

theorem witness_CoppicesBranchAndMeet_reads :
    [0, 1].all (fun sel => [[], [coppiceOf 2 [1, 1]]].all (fun xs =>
      let s := coppiced xs
      ok s (.cpstat 8 10 sel) && s.crew.pend.isEmpty && decide (s.coppice? s.crew.ctx (s.crew.getSS 10).toNat = xs.head?) &&
        xs.all (fun x => decide (x.phase < 3) && !x.overdue s.clock) && decide (bitsOf (s.ctx s.crew.ctx).migthr.toNat 15 0 = 0) && (readAt s vaultVa 32).isSome)) = true ∧
    (let s := asSibling (coppiced []) 1
     ok s (.cpadv 8) = true ∧ s.crew.sib.sibling = true) ∧
    (let x := coppiceOf 2 [1, 2]
     (coppiced [x]).coppice? demo.crew.ctx vaultVa = some x ∧ x.phase = 2 ∧ x.suspended = none ∧ x.sibs.length = x.n ∧
       (coppiced [x]).clock < x.deadline ∧ x.deadline ≤ ({ coppiced [x] with clock := 1000 } : State).clock ∧
       x.sibs.any (fun z => decide (z.state = 1) && z.alive) = true) := by decide +kernel

theorem witness_LaunchesQueuesAndBuffersAct_noSpace :
    ({ demo with params := { demo.params with bufHi := 0 } } : State).bufferSpace demo.focusCore 128 = none := by
  have h : (demo.core demo.focusCore).buffers = [] ∧ demo.params.bufLo = 0 := by decide +kernel
  simp [State.bufferSpace, State.core, h.2, SMap.vals]


/-- A member with a deadline. -/
def member (dl : Option Nat) : RaftMember := RaftMember.fresh vaultVa 256 dl 0 31 0 0

/-- A raft of cores 0 and 1 of the demo's context, both members here. -/
def raft (live : Bool) (dl : Option Nat) : Raft :=
  { ctx := demo.crew.ctx, key := 7, kind := 1, timeout := 5000000, table := [0, 1], gen := 1, live := live
    members := [(0, member dl), (1, member dl)], routes := [], colls := [], forms := [], joins := [], origins := [] }

/-- The demo with raft handle 2 and messages. -/
def rafted (r : Raft) (ms : List Msg) : State := { demo with rafts := [(2, r)], msgs := ms }

/-- A message of raft key 7. -/
def msg (typ src dst status : Nat) (params : List Nat) : Msg :=
  { key := 7, gen := 1, seq := 1, typ := typ, src := src, dst := dst, status := status, offset := 0, sdev := 0, ddev := 0, params := params
    data := [], scales := [] }

/-- A descriptor of a raft of cores whose table is at 0x100 of the vault window. -/
def descriptorOf (kind : Nat) : Nat :=
  layout [(1, kind), (1, 0), (2, 2), (4, 7), (8, 0), (8, vaultVa), (8, 256), (8, vaultVa + 0x100)]

/-- The demo with a descriptor and its table of ranks. -/
def described (s : State) (kind x y : Nat) : State :=
  (holding s 0 (descriptorOf kind) 64).setBytes (vaultIdx 0 0 0x100) (x + 2 ^ 32 * y) 8

/-- The descriptor and its table are read as the statement asks. -/
def readsDescriptor (s : State) (bad : Bool) : Bool :=
  ok s (.raftform 8 10) && decide (s.crew.waiting = none) && s.crew.pend.isEmpty && decide ((s.crew.getSS 10).toNat % 64 = 0) &&
    (match readAt s vaultVa 64 with
     | some p => decide (fld p.1 32 8 % 4 = 0) && (match readAt p.2 (fld p.1 32 8) (4 * fld p.1 2 2) with
       | some q => decide (descBad p.1 ((List.range (fld p.1 2 2)).map (fun i => fld q.1 (4 * i) 4))
           (if fld p.1 0 1 = 0 then s.devnum else s.focusCore) = bad)
       | none => false)
     | none => false)

theorem witness_RaftsFormAndReform_form :
    readsDescriptor (described demo 1 0 1) false = true ∧ readsDescriptor (described demo 1 5 1) true = true ∧
    readsDescriptor (described demo 0 0 9) false = true ∧ readsDescriptor (described demo 0 9 0) false = true ∧
    (demo.rafts.lowestFree 64 = some 0) ∧
    (let s := { demo with rafts := (List.range 64).map (fun h => (h, raft true none)) }
     readsDescriptor (described s 1 0 1) false = true ∧ s.rafts.lowestFree 64 = none) ∧
    readsDescriptor (described (rafted (raft false (some 9)) []) 1 0 1) false = true := by decide +kernel

/-- The statement's premises about a message. -/
def taken (s : State) (m : Msg) (r : Raft) : Bool :=
  decide (s.msgs[0]? = some m) && decide (m.ddev = s.devnum) && decide (s.formingOfMsg m = some (2, r))

theorem witness_RaftsFormAndReform_messages :
    (let r := raft false (some 9)
     [msg 1 0 1 0 [1], msg 1 1 0 0 [0, 2, 5000000, 0, 1], msg 6 0 1 (9 * 2 ^ 28) [2]].all (fun m => taken (rafted r [m]) m r) = true ∧
       (r.forms.get? 0 = none)) ∧
    (let r := { raft false (some 9) with forms := [(0, [2, 5000000, 0, 1])] }
     taken (rafted r [msg 1 1 0 0 [0, 2, 5000000, 0, 1]]) (msg 1 1 0 0 [0, 2, 5000000, 0, 1]) r = true ∧
       r.forms.get? 0 = some (msg 1 1 0 0 [0, 2, 5000000, 0, 1]).params.tail) := by decide +kernel

theorem witness_RaftsFormAndReform_timers :
    (let r := raft false (some 0)
     (rafted r []).rafts.get? 2 = some r ∧ r.members.get? 0 = some (member (some 0)) ∧ r.members.get? 1 = some (member (some 0)) ∧
       r.forming true = .lacks 0 ∧ (raft false (some 9)).members.get? 1 = some (member (some 9)) ∧ demo.clock < 9) ∧
    (let r := { raft true (some 0) with joins := [(0, false)] }
     r.live = true ∧ (List.range r.table.length).find? (fun x => !(member (some 0)).failed.contains x) = some 0 ∧ (0 : Nat) ≠ 1 ∧
       r.members.get? 1 = some (member (some 0)) ∧ r.stay.contains 0 = true ∧ r.members.get? 0 = some (member (some 0))) := by decide +kernel

theorem witness_RaftsFormAndReform_again :
    (ok demo (.raftre 8 10 12) = true ∧ demo.crew.waiting = none ∧ demo.myRaft 0 = none) ∧
    [0, 1].all (fun n =>
      let s := withS (rafted (raft true none) []) [(10, 2), (12, BitVec.ofNat 32 n)]
      ok s (.raftre 8 10 12) && decide (s.myRaft 2 = some (raft true none, 0)) && (s.memberJobs 2 0).isEmpty &&
        decide ((raft true none).members.get? 0 = some (member none))) = true ∧
    (let r := raft true (some 9)
     [msg 2 0 1 0 [1, 0, 1], msg 2 0 1 0 [1, 0], msg 2 1 0 0 [0, 0], msg 2 1 0 0 [0, 1]].all (fun m =>
       decide ((rafted r [m]).msgs[0]? = some m) && decide ((rafted r [m]).raftOfMsg m = some (2, r))) = true ∧ r.joins.get? 0 = none) ∧
    (let r := { raft true (some 9) with joins := [(0, false)] }
     (rafted r [msg 2 1 0 0 [0, 0]]).raftOfMsg (msg 2 1 0 0 [0, 0]) = some (2, r) ∧ (r.joins.get? 0).isSome = true ∧
       r.joins.all (fun e => decide (e.2 = false)) = true ∧ (r.members.get? 0).isSome = true) := by decide +kernel

theorem witness_RaftsFormAndReform_lacking :
    (let r := raft false (some 0)
     let s := rafted r []
     s.report? r 0 = none ∧ s.report? r 1 = none ∧ r.gen = 1 ∧ (member (some 0)).rejoin = false ∧ r.forming false = .lacks 0 ∧ [0, 1].all (fun k => decide (r.device s.devnum k = s.devnum)) = true) ∧
    (let r := { raft false (some 9) with forms := [(0, [2, 5000000, 0, 1])] }
     let m := msg 1 1 0 0 [0, 2, 6000000, 0, 1]
     taken (rafted r [m]) m r = true ∧ ((List.range r.table.length).find? (fun k =>
       decide ((r.forms.insert m.src m.params.tail).get? k ≠ (r.forms.insert m.src m.params.tail).get? 0))) = some 1) ∧
    demo.reaches 9 = true ∧ demo.devnum ≠ 9 := by decide +kernel

/-- A live raft of three cores whose members wait at RAFTRE. -/
def threesome : Raft := { raft true (some 0) with table := [0, 1, 2], members := [(1, member (some 0)), (2, member (some 0))] }

theorem witness_RaftsFormAndReform_fails :
    (let first (failed : List Nat) := (List.range threesome.table.length).find? (fun x => !failed.contains x)
     (rafted threesome []).rafts.get? 2 = some threesome ∧ threesome.live = true ∧ first [] = some 0 ∧ first [0] = some 1 ∧
       [1, 2].all (fun k => decide (threesome.members.get? k = some (member (some 0)) ∧ threesome.device demo.devnum k = demo.devnum)) = true ∧
       ({ threesome with joins := threesome.joins.insert 1 false } : Raft).stay.contains 1 = true) ∧
    (List.range (raft true none).table.length).find? (fun x => !(member none).failed.contains x) = some 0 := by decide +kernel

/-- A collective card: elements at 0x1000 and 0x2000 of the vault window. -/
def collCard (typ root count dst : Nat) : Nat :=
  cardOf [(1, 5), (1, 0), (1, 0), (1, typ), (1, 2), (1, 0), (2, 1), (4, root), (4, 0), (8, if count = 0 then 0 else vaultVa + 0x1000),
    (8, if count = 0 then 0 else vaultVa + dst), (8, count)]
    (if count = 0 then [] else [(vaultVa + 0x1000, 64)]) (if count = 0 then [] else [(vaultVa + dst, 64)])

/-- A collective instruction issues with a good card. -/
def entersColl (i : Instr) (op card : Nat) : Bool :=
  let s := holding (rafted (raft true none) []) 0 card 256
  ok s i && s.crew.pend.isEmpty && decide ((s.crew.getSS 10).toNat % 256 = 0) && decide ((s.core 0).jobs.length < 32) &&
    (match readAt s vaultVa 256 with
     | some p => decide (p.1 = card) && decide (s.myRaft (fld p.1 4 1) = some (raft true none, 0)) && !collCardBad op p.1 2 0 &&
       decide (fld p.1 6 2 = 1) && !((p.2.xlateAll 0 none s.crew.ctx .read (((cardReads p.1).flatMap Range.pages).map (fun v => (0, v)))).1.any
         LaneXlat.isAbsent) && !((p.2.xlateAll 0 none s.crew.ctx .write (((cardWrites p.1).flatMap Range.pages).map (fun v => (0, v)))).1.any
         LaneXlat.isAbsent)
     | none => false)

theorem witness_CollectivesRunAndEnd_enter :
    entersColl (.car 8 10) 0xDA (collCard 0 0 4 0x2000) = true ∧ entersColl (.cag 8 10) 0xDB (collCard 1 0 4 0x2000) = true ∧
    entersColl (.crs 8 10) 0xDC (collCard 0 0 4 0x2000) = true ∧ entersColl (.cbc 8 10) 0xDD (collCard 0 0 4 0x1000) = true ∧
    entersColl (.cbc 8 10) 0xDD (collCard 0 1 4 0x2000) = true ∧ entersColl (.ca2a 8 10) 0xDE (collCard 0 0 4 0x2000) = true ∧
    entersColl (.cbar 8 10) 0xDF (collCard 0 0 0 0) = true := by decide +kernel

theorem witness_CollectivesRunAndEnd_refused :
    (let s := holding demo 0 (collCard 0 0 4 0x2000) 256
     ok s (.car 8 10) = true ∧ s.myRaft 2 = none) ∧
    collCardBad 0xDA (collCard 0 0 0 0) 2 0 = true ∧
    (let r := { raft true none with gen := 3 }
     let s := holding (rafted r []) 0 (collCard 0 0 4 0x2000) 256
     ok s (.car 8 10) = true ∧ s.myRaft 2 = some (r, 0) ∧ fld (collCard 0 0 4 0x2000) 6 2 ≠ 0 ∧
       fld (collCard 0 0 4 0x2000) 6 2 ≠ r.gen % 2 ^ 16) := by decide +kernel

/-- A collective job of the demo's crew at rank `k`. -/
def collJob (op k : Nat) (started : Bool) (pos : Nat) : Job :=
  { jobOf (.collective op) (collCard 0 0 (if op = 0xDF then 0 else 4) 0x2000) with
    aux := [2, k, if started then 1 else 0], started := started, pos := pos, deadline := if started then some 0 else none }

/-- A state with a collective job in the gate. -/
def collecting (r : Raft) (j : Job) (ms : List Msg) : State :=
  (rafted r ms).mapCore 0 (fun k => { k with jobs := [j], nextJob := 9 })

theorem witness_CollectivesRunAndEnd_start :
    (let r := raft true none
     let j := collJob 0xDF 0 false 0
     let s := collecting r j []
     s.job? 0 3 = some j ∧ s.rafts.get? 2 = some r ∧ s.canStart 0 j = true ∧ r.ctx = j.ctx ∧ r.members.get? 0 = some (member none) ∧
       ((s.memberJobs 2 0).filter (fun e => e.2.started)).length < 8 ∧ (member none).aborts.get? 1 = none ∧ r.routeDead 0 = false) ∧
    (let r := { raft true none with members := [(0, { member none with aborts := [(1, 9)] })] }
     let j := collJob 0xDA 0 false 0
     let s := collecting r j []
     s.job? 0 3 = some j ∧ s.canStart 0 j = true ∧ r.members.get? 0 = some { member none with aborts := [(1, 9)] }) ∧
    (let r := raft true none
     let j := collJob 0xDA 0 true 0
     let s := collecting r j []
     s.job? 0 3 = some j ∧ j.result = none ∧
       (match s.collAccess 0 j .read (byteVas (fld j.card 16 8) 16 ++ byteVas (fld j.card 40 8) 0) with | (.ok _, _) => true | _ => false) = true) ∧
    [0, 1].all (fun k => let j := collJob 0xDA k true 1
      let s := collecting (raft true none) j []
      decide (s.job? 0 3 = some j) && decide (j.deadline = some 0) && decide ((0 : Nat) ≤ s.clock)) = true ∧
    (List.range 2).find? (fun y => (((raft true none).colls.getD (1 % 2 ^ 16) Coll.blank).parts.get? y).isNone) = some 0 := by decide +kernel

/-- A contribution of rank `k`. -/
def part (op k count : Nat) : Msg := { msg 3 k 0 0 [op, 0, 0, count, 0, 5000000] with data := [1, 2, 3, 4] }

/-- The coordinator's raft with the part of rank 0. -/
def gathering (m : Msg) : Raft := { raft true none with colls := [(1, { Coll.blank with parts := [(0, m)] })] }

theorem witness_CollectivesRunAndEnd_gather :
    (let r := raft true none
     [part 0xDA 0 4, { msg 5 0 0 0 [0xDF, 0, 0, 0, 0, 5000000] with typ := 5 }].all (fun m =>
       decide ((rafted r [m]).msgs[0]? = some m) && decide ((rafted r [m]).raftOfMsg m = some (2, r)) &&
       decide ((r.colls.getD m.seq Coll.blank).aborted = none ∧ (r.colls.getD m.seq Coll.blank).sent = false)) = true) ∧
    [0xDA, 0xDB, 0xDC, 0xDD, 0xDE].all (fun op => [4, 5].all (fun n =>
      let r := gathering (part op 0 4)
      let m := part op 1 n
      decide ((rafted r [m]).raftOfMsg m = some (2, r)) && decide ((rafted r [m]).rafts.get? 2 = some r) &&
        decide (2 ≤ ((r.colls.getD 1 Coll.blank).parts.insert 1 m).length) && decide (((r.colls.getD 1 Coll.blank).parts.insert 1 m).length = 2) &&
        decide ((part op 0 4).params = m.params ↔ n = 4))) = true := by decide +kernel

theorem witness_CollectivesRunAndEnd_results :
    (let r := raft true none
     let j := collJob 0xDA 0 true 1
     let m := { msg 4 0 0 0 [] with data := [1, 2, 3, 4] }
     let s := collecting r j [m]
     s.msgs[0]? = some m ∧ s.raftOfMsg m = some (2, r) ∧ (s.dropMsg 0).jobOfMsg 2 m = some (some (0, j)) ∧ s.job? 0 j.id = some j ∧
       j.lost = false ∧ j.ending = none ∧ m.ddev = s.devnum ∧
       (match (s.dropMsg 0).collAccess 0 j .write (byteVas (fld j.card 24 8) 16 ++ byteVas (fld j.card 48 8) 0) with
        | (.ok xs, _) => decide ((xs.map (fun y => y.loc.idx)).Nodup)
        | _ => false) = true) ∧
    (let r := raft true none
     let j := collJob 0xDA 0 true 1
     let m := msg 6 0 0 (8 * 2 ^ 28) [1]
     let s := collecting r j [m]
     s.msgs[0]? = some m ∧ s.raftOfMsg m = some (2, r) ∧ (s.dropMsg 0).jobOfMsg 2 m = some (some (0, j)) ∧ s.formingOfMsg m = none) ∧
    (let r := raft true none
     let m := msg 6 1 0 (8 * 2 ^ 28) [0]
     (rafted r [m]).msgs[0]? = some m ∧ (rafted r [m]).formingOfMsg m = none ∧ (rafted r [m]).raftOfMsg m = some (2, r) ∧
       (r.colls.getD m.seq Coll.blank).aborted = none) ∧
    (ok demo (.cabort 10) = true ∧ demo.myRaft 0 = none ∧ [0, 1, 2].all (fun sel => ok demo (.cstat 8 10 sel)) = true) ∧
    (let j := collJob 0xDA 0 true 1
     let s := withS (collecting (raft true none) j []) [(10, 2)]
     ok s (.cabort 10) = true ∧ [0, 1, 2].all (fun sel => ok s (.cstat 8 10 sel)) = true ∧ s.myRaft 2 = some (raft true none, 0) ∧
       (0, j) ∈ s.memberJobs 2 0 ∧ s.job? 0 j.id = some j ∧ (member none).abort = 0 ∧ ({ member none with abort := 9 } : RaftMember).abort ≠ 0) := by
  decide +kernel

/-- The demo's crew about to reach rank 1 of raft 2 at an offset. -/
def reaching (r : Raft) (off w : Nat) : State := withS (pointing (rafted r []) off) [(12, BitVec.ofNat 32 w)]

theorem witness_RemoteAccessesAndPorts_issue :
    [Instr.rget 20 10 12, .rput 20 10 12].all (fun i =>
      ok (reaching (raft true none) 8 (2 * 2 ^ 22 + 1)) i && ok (reaching (raft true none) 9 (2 * 2 ^ 22 + 1)) i &&
      ok (reaching (raft true none) 8 (3 * 2 ^ 22 + 1)) i && ok (reaching (raft true none) 8 (2 * 2 ^ 22 + 2)) i &&
      ok (reaching (raft true none) 8 (2 ^ 28 + 2 * 2 ^ 22)) i &&
      ok (reaching { raft true none with routes := [(1, 40)] } 8 (2 * 2 ^ 22 + 1)) i) = true ∧
    (reaching (raft true none) 8 0).myRaft 2 = some (raft true none, 0) ∧ (reaching (raft true none) 8 0).myRaft 3 = none ∧
    (raft true none).routeDead 1 = false ∧ ({ raft true none with routes := [(1, 40)] } : Raft).routeDead 1 = true ∧ demo.crew.handles = true := by
  decide +kernel

theorem witness_RemoteAccessesAndPorts_requests :
    (let r := raft true none
     [msg 7 0 1 0 [1, 0, 0, 0, 5], msg 7 0 1 0 [0, 252, 77, 0, 5], msg 7 0 1 0 [1, 256, 0, 0, 5], msg 8 1 0 0 [0, 5, 0, 9]].all (fun m =>
       decide ((rafted r [m]).msgs[0]? = some m) && decide ((rafted r [m]).raftOfMsg m = some (2, r))) = true ∧
     r.members.get? 1 = some (member none) ∧
     (match demo.xlateWalk r.ctx vaultVa .read, demo.xlateWalk r.ctx (vaultVa + 252) .write with
      | .ok l, .ok _ => !demo.poisoned l.idx 4
      | _, _ => false) = true ∧ (rafted r []).crews.get? 0 = some demo.crew) ∧
    (let p : Pend := { kind := .remote true 20, size := 4, accs := [{ lane := 0, va := 8, loc := ⟨0, false⟩, data := 0, cmp := 5, gens := [9, 2, 1, 0xFFFFFFFF], fresh := false }], pc := 0, seq := 0 }
     let s := owing (rafted (raft true none) []) [p]
     s.crews.get? (crewKey 0 0) = some s.crew ∧ s.crew.pend = [p] ∧ p.accs.all (fun a => decide (a.gens = [9, 2, 1, 0xFFFFFFFF])) = true ∧
       s.clock < 9 ∧ 9 ≤ ({ s with clock := 9 } : State).clock) := by decide +kernel

theorem witness_RemoteAccessesAndPorts_ports :
    [0, 23, 24, 27].all (fun n => demo.livePorts.testBit n) = true ∧
    (let r := { raft true none with routes := [(1, 24)] }
     let j := collJob 0xDA 0 true 1
     let s := collecting r j []
     s.rafts.get? 2 = some r ∧ r.routes.get? 1 = some 24 ∧ s.job? 0 j.id = some j ∧ j.kind.isCollective = true ∧ j.result = none ∧
       j.raftOf.1 = 2 ∧ (r.members.get? j.raftOf.2.1).isSome = true) ∧
    [0, 2].all (fun n => let s := { demo with retrain := [(3, (n, 0))], livePorts := 2 ^ 28 - 1 - 8 }
      decide (s.retrain.get? 3 = some (n, 0)) && decide (0 ≤ s.clock) && !s.service.actions.any (fun a => decide (a.cmd = 5 ∧ a.arg % 32 = 3))) =
      true ∧ demo.params.portTry = 3 := by decide +kernel

/-- A frozen recorder with rings left. -/
def freezing (left : List Nat) (stay : Bool) : State :=
  { demo with freeze := some { origin := 0, cause := 5, tval := 0, clock := 0, further := 0, left := left, next := 1, stay := stay, fatal := stay, tenants := [] } }

/-- An armed trace of the demo's task. -/
def trace (task : Nat) : Trace := ⟨demo.crew.ctx, task, vaultVa, 16, 128, 0, false⟩

theorem witness_RecorderMarksCountsFreezesAndSeals_trace :
    (ok demo (.mark 8 0xFFFF) = true ∧ demo.crew.replay = none ∧ (demo.ring 0).frozen = none) ∧
    (let s := { demo with rings := [(0, { Ring.blank with frozen := some (0, 0) })] }
     ok s (.mark 8 0xFFFF) = true ∧ (s.ring 0).frozen.isSome = true) ∧
    [0, 1 + 16 * 256, 1 + 30 * 256, 1 + 15 * 256, 2].all (fun w => ok (withS (at2 demo 10 vaultVa) [(12, BitVec.ofNat 32 w)]) (.trcarm 8 10 12)) = true ∧
    (let s := withS (at2 demo 10 (vaultVa + 64)) [(12, BitVec.ofNat 32 (1 + 16 * 256))]
     ok s (.trcarm 8 10 12) = true ∧ (s.crew.getSS 10).toNat % 2 ^ 16 ≠ 0 ∧ s.crew.handles = true) ∧
    [[], [trace 1], [trace 9]].all (fun ts =>
      let s := { withS (at2 demo 10 vaultVa) [(12, BitVec.ofNat 32 (1 + 16 * 256))] with traces := ts }
      ok s (.trcarm 8 10 12) && isGo (s.classify s.focusCore none s.crew.ctx 1 .write false ((bufferPages vaultVa (2 ^ 16)).map (fun v => (0, v)))).1 &&
        ok { withS s [(12, 0)] with traces := ts } (.trcarm 8 10 12)) = true ∧
    demo.traceOf demo.crew = none ∧ ({ demo with traces := [trace 1] } : State).traceOf demo.crew = some (trace 1) := by decide +kernel

theorem witness_RecorderMarksCountsFreezesAndSeals_counters :
    [0, 7, 9].all (fun k => ok demo (.cntrd 8 k)) = true ∧
    [1, 0x40001, 0xFFFF, 2 ^ 20].all (fun w => ok (withS demo [(12, BitVec.ofNat 32 w)]) (.cntcfg 3 12)) = true ∧
    (demo.ctx demo.crew.ctx).level ≠ 0 ∧ (lowLevel.ctx lowLevel.crew.ctx).level = 0 ∧ ok lowLevel (.cntcfg 3 12) = true ∧
    (lowLevel.ctx lowLevel.crew.ctx).cntctl.getLsbD 0 = false ∧ lowLevel.crew.handles = true := by decide +kernel

theorem witness_RecorderMarksCountsFreezesAndSeals_freeze :
    [headRing, 0x100, 0x107].all demo.isForeman = true ∧ demo.freeze = none ∧ (freezing [1, 2] false).freeze.isSome = true ∧
    (freezing [] true).freeze.isSome = true ∧ (freezing [] false).freeze.isSome = true ∧
    [0, 1, 2, 3, 4].all (fun w => decide ((demo.ring (demo.errorRing w (vaultIdx 0 0 0))).frozen = none)) = true := by decide +kernel

theorem witness_CollectivesRunAndEnd_ends :
    (let j := collJob 0xDA 0 true 1
     let m := msg 6 0 0 (8 * 2 ^ 28) [1]
     let s := collecting (raft true none) j [m]
     j.ending = none ∧ j.started = true ∧ s.firstJob 2 0 = some (0, j) ∧ s.memberJobs 2 0 = [(0, j)] ∧
       (s.memberJobs 2 m.dst).find? (fun e => e.2.started && decide (e.2.raftOf.2.2 % 2 ^ 16 = m.seq)) = some (0, j)) ∧
    (let j := collJob 0xDA 0 false 0
     (collecting (raft true none) j []).memberJobs 2 0 = [(0, j)] ∧ j.lost = false) := by decide +kernel


/-- The demo with a crew of eight vector registers in slot 17. -/
def twoCrews : State :=
  let s := at2 (withS demo [(12, 17)]) 10 vaultVa
  s.setCrewAt 17 { s.crew with number := 1, vregs := 8, rbase := 0, tiles := 0 }

theorem witness_ContextsAreSavedAndRestored_saves :
    [0, 1, 17, 64].all (fun x => ok (withS twoCrews [(12, x)]) (.ctxsv 8 10 12)) = true ∧
    twoCrews.crews.get? (crewKey 0 1) = none ∧ twoCrews.fkey = 0 ∧
    (twoCrews.crews.get? 17).any (fun q => decide (q.pend = [] ∧ q.savedTrap = none ∧ (q.areaFields (twoCrews.tilesOf 17 q) [] [] 0).foldl (fun n f => n + f.1) 0 = 4096 ∧
      (twoCrews.tasks.get? q.task).isSome = true)) = true ∧
    twoCrews.regionSaved 17 = true ∧ twoCrews.regions.get? 17 = none ∧ twoCrews.canSave 17 = true ∧ (twoCrews.core 0).tileOps = [] ∧
    (twoCrews.core 0).jobs.any (fun j => j.suspends 17 false) = false ∧ twoCrews.crew.pend = [] ∧ (twoCrews.core 0).pools = [] ∧
    twoCrews.traces = [] ∧ vaultVa % 256 = 0 ∧
    ({ twoCrews with regions := [(17, { regionWith [] with live := true })] } : State).regionSaved 17 = false ∧
    (let s := twoCrews.setCrewAt 17 { twoCrews.crew with pend := [⟨.remote true 4, 4, [], 0, 0, 0, 0⟩] }
     s.regionSaved 17 = true ∧ s.canSave 17 = false) := by decide +kernel

/-- With no pool entry in force every byte is its own point of coherence. -/
theorem poc_self {s : State} (h : s.cores.all (fun e => e.2.pools.isEmpty) = true) (a : Nat) : s.poc a = a := by
  have hp : s.pooled a = none := by
    unfold State.pooled
    rw [List.findSome?_eq_none_iff]
    intro e he
    have := List.all_eq_true.mp h e he
    rw [List.isEmpty_iff.mp this]
    rfl
  simp [State.poc, hp]

/-- One page's part of a range, all of it written to places that follow each other. -/
def onePage (s : State) (va n : Nat) (need : Need) (fill : Bool) (idx : Nat) : Bool :=
  match s.classify s.focusCore none s.crew.ctx 1 need fill ((pageStarts va n).map (fun v => (0, v))) with
  | (.go [x] [], s2) => decide (x.loc.idx = idx ∧ pagePart va n x.va = n) && s2.cores.all (fun e => e.2.pools.isEmpty)
  | _ => false

theorem places_of {s : State} {va n idx : Nat} {need : Need} (h : onePage s va n need (decide (need = .read)) idx = true) :
    ∃ s2 xs, AreaPlaces s s2 s.crew va n need xs ∧ xs.map (fun y => y.loc.idx) = (List.range n).map (fun i => idx + i) := by
  unfold onePage at h
  split at h
  · rename_i x s2 e
    simp only [Bool.and_eq_true, decide_eq_true_eq] at h
    refine ⟨s2, _, ⟨[x], e, rfl⟩, ?_⟩
    simp only [List.flatMap_cons, List.flatMap_nil, List.append_nil, h.1.2, poc_self h.2, List.map_map, h.1.1]
    rfl
  · cases h

theorem witness_ContextsAreSavedAndRestored_places :
    ∃ s2 xs, AreaPlaces twoCrews s2 twoCrews.crew vaultVa 4096 .write xs ∧ (xs.map (fun y => y.loc.idx)).Nodup := by
  obtain ⟨s2, xs, h, e⟩ := places_of (s := twoCrews) (va := vaultVa) (n := 4096) (need := .write) (idx := vaultIdx 0 0 0) (by decide +kernel)
  refine ⟨s2, xs, h, ?_⟩
  rw [e]
  exact List.Nodup.map (fun _ _ h => Nat.add_left_cancel h) List.nodup_range

/-- The places of the pages' parts of an area. -/
def areaXs (s1 : State) (va n : Nat) (ys : List LaneXlat) : List LaneXlat :=
  ys.flatMap (fun x => (List.range (pagePart va n x.va)).map (fun i => ⟨0, x.va + i, .ok ⟨s1.poc (x.loc.idx + i), x.loc.cached⟩⟩))

/-- The places of an area read as loads, and the state that the reading leaves. -/
def areaAt (s : State) (va n : Nat) : Option (List LaneXlat × State) :=
  match s.classify s.focusCore none s.crew.ctx 1 .read true ((pageStarts va n).map (fun v => (0, v))) with
  | (.go ys [], s1) =>
    if l1Agrees s (areaXs s1 va n ys) then some (areaXs s1 va n ys, (s1.plainRead (areaXs s1 va n ys)).2) else none
  | _ => none

theorem areaRead_of {s s2 : State} {va n : Nat} {xs : List LaneXlat} (hm : bitsOf (s.ctx s.crew.ctx).migthr.toNat 15 0 = 0)
    (h : areaAt s va n = some (xs, s2)) :
    AreaRead s s2 s.crew va n (xs.foldr (fun y acc => (s.byte y.loc.idx).toNat + 256 * acc) 0) := by
  unfold areaAt at h
  split at h
  · rename_i ys s1 he
    split at h
    · rename_i ha
      simp only [Option.some.injEq, Prod.mk.injEq] at h
      obtain ⟨rfl, rfl⟩ := h
      refine ⟨hm, _, s1, ⟨ys, he, rfl⟩, fun y hy hc v hv => ?_, rfl, rfl⟩
      simpa [hc, hv] using List.all_eq_true.mp ha y hy
    · cases h
  · cases h

/-- A save area of a crew of eight vector registers, with a checksum. -/
def savedAreaAt (pc crc : Nat) : Nat :=
  layout [(4, 0x56534358), (2, 1), (2, 0), (4, 4096), (4, crc), (8, pc), (8, 1), (8, 1), (4, 0), (2, 8), (1, 64), (25, 0), (2, 1), (2, 1), (4, 0),
    (8, 320)]

/-- The area of a crew at a legal PC. -/
def savedArea (crc : Nat) : Nat := savedAreaAt 0x8040 crc

/-- The demo with the area at the start of the vault window, about to restore it to slot 17. -/
def restoring (area : Nat) : State := withS (holding demo 0 area 88) [(12, 17)]

theorem witness_ContextsAreSavedAndRestored_refuses :
    [0, 0x40, 0x4000].all (fun x => ok (withS demo [(12, x)]) (.ctxrs 8 10 12) && demo.crew.pend.isEmpty) = true ∧
    (let s := withS (at2 demo 10 (vaultVa + 1)) [(12, 17)]
     ok s (.ctxrs 8 10 12) = true ∧ (s.crew.getSS 10).toNat % 256 = 1 ∧ s.crew.handles = true) ∧
    areaOk 0 0 = false ∧ areaOk (savedArea 0) 4096 = true ∧ ok (restoring (savedArea 0)) (.ctxrs 8 10 12) = true ∧
    bitsOf ((restoring (savedArea 0)).ctx (restoring (savedArea 0)).crew.ctx).migthr.toNat 15 0 = 0 := by decide +kernel

/-- Both reads of an area that the statement asks for can be made. -/
theorem witness_ContextsAreSavedAndRestored_read :
    (match areaAt (restoring (savedArea 0)) vaultVa 2048 with
     | some p => (areaAt p.2 (vaultVa + 2048) 2048).isSome
     | none => false) = true := by decide +kernel

/-- The area's own checksum is sound, and the statement's other premises hold. -/
def areaBs (s : State) (n : Nat) : List Nat := (List.range n).map (fun i => (s.byte (vaultIdx 0 0 0 + i)).toNat)

/-- The bytes that the checksum of an area runs over. -/
def crcBytes (s : State) : List Nat := (areaBs s 4096).take 12 ++ [0, 0, 0, 0] ++ (areaBs s 4096).drop 16

theorem crc_of {bs : List Nat} {n : Nat} (hn : n < 2 ^ 32) (h : crcStrict bs (BitVec.allOnes 32).toNat = 2 ^ 32 - 1 - n) :
    (crc32c bs).toNat = n := by
  rw [crcStrict_eq] at h
  unfold crc32c
  rw [BitVec.toNat_not, h]
  omega

theorem witness_ContextsAreSavedAndRestored_sound :
    (crc32c (crcBytes (restoring (savedArea 1005787846)))).toNat = fld (savedArea 1005787846) 12 4 :=
  (crc_of (n := 1005787846) (by decide) (by decide +kernel)).trans (by decide +kernel)

/-- The area of a crew whose PC is no multiple of 4. -/
def oddArea : Nat := savedAreaAt 0x8042 3422906385

theorem witness_ContextsAreSavedAndRestored_soundOdd :
    (crc32c (crcBytes (restoring oddArea))).toNat = fld oddArea 12 4 ∧ areaPcTrap oddArea = some (0x02, 0x8042) :=
  ⟨(crc_of (n := 3422906385) (by decide) (by decide +kernel)).trans (by decide +kernel), by decide +kernel⟩

theorem witness_ContextsAreSavedAndRestored_restores :
    (let s := restoring (savedArea 1005787846)
     let h := savedArea 1005787846
     packElems 8 (areaBs s 128) = h ∧ areaOk h (fld h 8 4) = true ∧ (s.tasks.get? (fld h 74 2)).isSome = true ∧ s.crews.get? (crewKey 0 17) = none ∧
       s.blocksFree s.focusCore 17 0 (fld h 44 2 / 8) = true ∧ (s.ctxs.get? (fld h 72 2)).isSome = true ∧ fld h 47 1 = 0 ∧ fld h 6 2 < 8 ∧
       [0, 1, 2, 3].all (fun q => decide (fld h (1152 + 32 * q + 13) 1 = 0 ∧ fld h (1152 + 32 * q + 15) 1 = 0)) = true ∧ fld h 1328 16 = 0 ∧
       s.traces = [] ∧ areaPcTrap h = none) ∧
    (({ restoring (savedArea 0) with tasks := [] } : State).tasks.get? 1 = none) := by decide +kernel


/-- A fault record of the demo's context. -/
def faultAt (va : Nat) (passed : Bool) : FaultRec :=
  { va := va, ctx := demo.crew.ctx, kind := 0, access := 0, core := 0, slot := 0, level := 0, pte := 0, entered := 0, passed := passed, seq := 5, who := 0,
    task := 1 }

/-- A state with that record in the queue of die 0 and one free page. -/
def faulty (s : State) (r : FaultRec) : State := s.mapDie 0 (fun d => { d with faults := [r], freePages := [2 ^ 20] })

/-- The premises of the statement about a record. -/
def served (s : State) (r : FaultRec) : Bool :=
  s.dieLive 0 && decide ((s.die 0).faults[0]? = some r) && (List.range 24).all (fun i => decide ((s.core i).faultWait = [])) &&
    decide (s.doneStores = []) && decide (s.regions = [])

theorem witness_FaultsPagesAndTimeoutsAreServed_records :
    (let r := faultAt 0x20000 false
     served (faulty demo r) r = true ∧ (match (faulty demo r).walk r.ctx r.va with | .leaf _ => true | _ => false) = true) ∧
    (let r := faultAt 0x1000000 false
     served (faulty demo r) r = true ∧ (match (faulty demo r).walk r.ctx r.va with | .invalid 0 _ _ _ => true | _ => false) = true) ∧
    (let r := faultAt 0x60000 false
     let s := faulty untouched r
     served s r = true ∧ (s.die 0).freePages = [2 ^ 20] ∧ s.cores.all (fun e => e.2.pools.isEmpty) = true ∧
       (match s.walk r.ctx r.va with | .invalid 1 0 _ x => !x.testBit 7 | _ => false) = true) ∧
    (let r := faultAt 0x60000 false
     let s := faulty (demo.setPhysBytes (0x8000 + 24) 4 8) r
     served s r = true ∧ (match s.walk r.ctx r.va with | .invalid 2 0 _ _ => true | _ => false) = true) ∧
    (let r := faultAt 0x8000000 false
     let s := faulty (demo.setPhysBytes (0x6000 + 8) 2 8) r
     served s r = true ∧ (match s.walk r.ctx r.va with | .invalid 1 1 _ _ => true | _ => false) = true) := by decide +kernel

/-- A live region on cores 23 and 24. -/
def onPager : Region := { regionWith [] with control := crewKey 23 0, cores := [23] }

theorem witness_FaultsPagesAndTimeoutsAreServed_pager :
    (let r := faultAt 0x20000 false
     let s : State := { faulty demo r with regions := [(crewKey 23 0, onPager)] }
     s.dieLive 0 = true ∧ (s.die 0).faults[0]? = some r ∧ s.coreLive 23 = true ∧ s.regions.all (fun e => e.2.live) = true ∧
       s.regionAt 23 = some (crewKey 23 0, onPager) ∧ onPager.saving ≠ 2 ∧
       (match s.walk r.ctx r.va with | .leaf _ => true | _ => false) = true) ∧
    (let r := faultAt 0x20000 true
     (faulty demo r).clock < r.entered + demo.params.faultTmo ∧
       r.entered + demo.params.faultTmo ≤ ({ faulty demo r with clock := 10 ^ 12 } : State).clock) ∧
    [0x20000, 0x1000000].all (fun va => decide ((faulty demo (faultAt va true)).replyTo 0 5 = some (0, faultAt va true))) = true ∧
    (let s := demo.mapDie 0 (fun d => { d with pager := true, faults := [faultAt 0x20000 true] })
     (s.die 0).pager = true ∧ (s.die 0).faults.all FaultRec.passed = true ∧ s.clock < (s.die 0).pagerIdle + s.params.pagerIdle ∧
       (s.die 0).pagerIdle + s.params.pagerIdle ≤ ({ s with clock := 10 ^ 12 } : State).clock) := by decide +kernel

theorem witness_FaultsPagesAndTimeoutsAreServed_migration :
    let s := faulty paged (faultAt 0x20000 true)
    s.Inv ∧ (s.cores.all (fun e => e.2.pools.isEmpty) = true ∧ s.crews.all (fun e => e.2.pend.isEmpty) = true ∧
      (match s.walk demo.crew.ctx 0x60000 with
       | .leaf e => decide (e.size = 2 ^ 17 ∧ e.pa = 0x60000) && s.migTarget demo.crew.ctx e 0
       | _ => false) = true ∧ s.entryOf demo.crew.ctx 0x60000 = some 0x8018 ∧ s.window demo.crew.ctx 0x60000 = none ∧
      s.dies.all (fun d => d.2.pins.isEmpty) = true ∧ (s.die (2 ^ 20 / 2 ^ 37)).freePages.contains (2 ^ 20) = true) :=
  ⟨(by decide +kernel : Memory.wf _), by decide +kernel⟩

/-- A held notification of page 3, for a queue of four entries in the vault window. -/
def notifying (head tail : Nat) : State :=
  { demo with
    ctxs := demo.ctxs.mapVals (fun (x : Ctx) =>
      { x with migq := BitVec.ofNat 64 (vaultVa + 2), migqht := BitVec.ofNat 32 (tail * 2 ^ 16 + head) })
    pageCtr := [(3, { PageCtr.zero with pending := true, ctx := demo.crew.ctx })] }

theorem witness_FaultsPagesAndTimeoutsAreServed_notifies :
    [(0, 0), (0xFFFF, 1)].all (fun x : Nat × Nat =>
      let s := notifying x.1 x.2
      let y := s.ctx demo.crew.ctx
      (s.pageCtr.getD 3 PageCtr.zero).pending && decide (y.migq.toNat % 2 ^ 4 = 2 ∧ y.migqht.toNat / 2 ^ 16 = x.2 ∧
        (x.2 + 2 ^ 16 - x.1) % 2 ^ 16 ≠ 2 ^ 2) && (s.ctxs.get? demo.crew.ctx).isSome &&
        (match s.xlateWalk demo.crew.ctx (y.migq.toNat / 2 ^ 12 % 2 ^ 45 * 2 ^ 12 + 16 * (x.2 % 2 ^ 2)) .write with
         | .ok _ => true
         | _ => false)) = true := by decide +kernel

theorem witness_FaultsPagesAndTimeoutsAreServed_timesOut :
    (let p := { oneLane .store 4 (vaultIdx 0 0 0) 7 with seq := 4 }
     let s := demo.mapCrew (fun c => { c with pend := [p], issued := 5 })
     s.crews.get? (crewKey 0 0) = some s.crew ∧ s.crew.canIssue = true ∧ s.crew.handles = true ∧ 
       s.crew.pend.find? (fun q => decide (q.seq + 1 = s.crew.issued) && !q.kind.isRemote) = some p) := by decide +kernel

/-- The demo with crews ready in slots 1 to 4 of core 0, which make up its quarter's active set, and slot 0 outside. -/
def crowded (set : List Nat) (clock : Nat) : State :=
  let s := [1, 2, 3, 4].foldl (fun (s : State) k => s.setCrewAt k { demo.crew with number := k }) demo
  { (s.mapCore 0 (fun k => { k with activeSet := set })) with clock := clock }

theorem witness_FaultsPagesAndTimeoutsAreServed_swaps :
    [([], 0), ([1, 2, 3, 4], 0), ([1, 2, 3, 4], 95)].all (fun x : List Nat × Nat =>
      let s := crowded x.1 x.2
      decide (s.crews.get? 0 = some demo.crew) && s.isReady 0 &&
        decide ((s.core 0).activeSet.filter (fun n => decide (n / 16 = 0) && s.isReady (crewKey 0 n)) = x.1)) = true ∧
    [1, 2, 3, 4].all (fun n => (crowded [] 0).goesBefore 0 0 n) = true ∧
    ((crowded [] 0).clock - demo.crew.readyAt.1) * 27 < 2560 ∧ 2560 ≤ ((crowded [] 95).clock - demo.crew.readyAt.1) * 27 ∧
    ((crowded [] 0).issueTime 0).2 - demo.crew.readyAt.2 < 256 := by decide +kernel

/-- The demo with a function's host registers. -/
def hosted (fn : Nat) (g : Func → Func) : State := demo.mapFunc fn g

/-- The demo with a task header at the start of the PF's staging memory and launch queue registers over it. -/
def offered (h cn : Nat) : State :=
  (hosted 0 (fun f => { f with lqlog2 := 1, lqtail := 1, lqctx := cn })).setPhysBytes (demo.barBase 0) h 128

theorem witness_HostRegistersQueuesAndContexts_queue :
    (0 ≤ demo.vfs ∧ demo.vfs < 17 ∧ demo.cores.all (fun e => e.2.pools.isEmpty) = true) ∧
    ((demo.func 0).lqlog2 = 0 ∧ (let f := (hosted 0 (fun f => { f with lqlog2 := 1 })).func 0
      f.lqlog2 ≠ 0 ∧ 2 ^ f.lqlog2 < (3 + 2 ^ 32 - f.lqhead) % 2 ^ 32 ∧ (2 + 2 ^ 32 - f.lqhead) % 2 ^ 32 ≤ 2 ^ f.lqlog2)) ∧
    (let s := offered (header 0 0 256 1) demo.crew.ctx
     let f := s.func 0
     f.lqlog2 ≠ 0 ∧ f.lqhead ≠ f.lqtail ∧ hdrMalformed (s.physBytes (s.barBase 0 + f.lqbase + 128 * (f.lqhead % 2 ^ f.lqlog2)) 128) = false ∧
       s.poisoned (s.poc (s.barBase 0)) 128 = false ∧ (s.ctxs.get? f.lqctx).map Ctx.owner = some 0 ∧ f.lqbase + 128 * 2 ^ f.lqlog2 ≤ barSize 0 ∧
       s.launchDie.isSome = true ∧ s.tasks.get? 5 = none ∧ ({ s with liveDies := 0 } : State).launchDie = none ∧
       ({ s with poison := [s.poc (s.barBase 0) / 128] } : State).poisoned (s.poc (s.barBase 0)) 128 = true) ∧
    hdrMalformed ((offered 0 0).physBytes (demo.barBase 0) 128) = true ∧
    [(0, 64), (0xFFFFFFC1, 1)].all (fun x : Nat × Nat =>
      let f := (hosted 0 (fun f => { f with outbox := [7], cmhead := x.1, cmtail := x.2 })).func 0
      decide (f.outbox = [7] ∧ (f.cmtail + 2 ^ 32 - f.cmhead) % 2 ^ 32 = 64)) = true ∧
    ((demo.func 0).cmtail + 2 ^ 32 - (demo.func 0).cmhead) % 2 ^ 32 ≠ 64 := by decide +kernel

/-- A context descriptor of level 1 for a tenant. -/
def describedCtx (tenant : Nat) : Nat :=
  layout [(1, 1), (7, 0), (8, 0x2000), (8, 0x40000001), (8, 0x80000001), (4, 0), (4, tenant), (8, 0)]

/-- The demo with that descriptor at the start of the staging memory, and context 9 of a function and a level. -/
def ordering (x owner level : Nat) : State :=
  let s := demo.setPhysBytes (demo.barBase 0) x 64
  { s with ctxs := s.ctxs.insert 9 { Ctx.blank with owner := owner, level := level } }

theorem witness_HostRegistersQueuesAndContexts_contexts :
    (hosted 0 (fun f => { f with cxoff := 1 })).descriptor 0 = none ∧ demo.descriptor 0 = some 0 ∧
    (let s := ordering (describedCtx 0x11) 0 1
     s.descriptor 0 = some (describedCtx 0x11) ∧ descriptorBad (describedCtx 0x11) = false ∧ fld (describedCtx 0x11) 36 4 = 0x11 ∧
       (s.ctxs.filter (fun e => decide (e.2.owner = 0))).length < 256 ∧ (s.ctxs.lowestFree 4096).isSome = true ∧
       (s.ctxs.get? 9).any (fun c => decide (c.owner = 0 ∧ fld (describedCtx 0x11) 0 1 = c.level)) = true ∧
       (9 * 2 ^ 16 + 2) % 2 ^ 16 = 2 ∧ (9 * 2 ^ 16 + 3) / 2 ^ 16 % 2 ^ 16 = 9) ∧
    descriptorBad 2 = true ∧ (ordering 0 1 0).ctxs.all (fun e => decide (e.1 ≠ 9 ∨ e.2.owner ≠ 0)) = true := by decide +kernel

/-- A capsule of no rings. -/
def capsule : Capsule :=
  { number := 1, flags := 0, clock := 0, origin := 0, cause := 0, further := 0, tval := 0, rings := [], digests := [], tenants := [], log := [], agreed := [] }

theorem witness_HostRegistersQueuesAndContexts_capsules :
    [0x02, 0x12, 0x22].all (fun w => decide (w % 16 = 2)) = true ∧ demo.capsules.get? 0 = none ∧
    (let s : State := { hosted 0 (fun f => { f with caplen := 64 }) with capsules := [(0, capsule)], params := { demo.params with access := true } }
     s.capsules.get? 0 = some capsule ∧ s.viewOf 0 0x80000001 = some none ∧ s.viewOf 0 0x00050001 = none ∧ s.viewOf 0 1 = some (some 0) ∧
       (s.func 0).capoff + 64 ≤ (capsule.bytes none false).length ∧ (s.func 0).capdst + 64 ≤ barSize 0 ∧
       s.cores.all (fun e => e.2.pools.isEmpty) = true ∧ (capsule.bytes none false).length < 2 ^ 20 + 64) := by decide +kernel

/-- The demo where function 1 has work too. -/
def sharing (t : Nat) : State := { hosted 1 (fun f => { f with lqlog2 := 1, lqtail := 1 }) with clock := t }

theorem witness_HostRegistersQueuesAndContexts_slices :
    (sharing 0).nextFunction = some 1 ∧ (sharing 0).hasWork (sharing 0).current = true ∧
    (sharing 0).clock < (sharing 0).sliceStart + (sharing 0).params.fslice ∧
    (sharing (10 ^ 12)).sliceStart + (sharing (10 ^ 12)).params.fslice ≤ (sharing (10 ^ 12)).clock ∧ (sharing 0).regions = [] ∧
    ((sharing 0).crews.map Prod.fst).Nodup ∧ (sharing 0).cores.all (fun e => e.2.tileOps.isEmpty) = true ∧
    (sharing (10 ^ 12)).crews.all (fun e => (sharing (10 ^ 12)).canSave e.1) = true := by decide +kernel


/-- The demo with a flash identity record of a version. -/
def flashed (v : Nat) : State := { demo with service := { demo.service with flash := [(0, (v, 5))] } }

/-- The demo whose SVCARG holds a value. -/
def commanded (x : Nat) : State := { demo with service := { demo.service with svcarg := x } }

/-- The demo with an action running. -/
def acting (cmd x : Nat) : State := { demo with service := { demo.service with actions := [⟨cmd, x⟩] } }

theorem witness_BootAttestationAndServiceAct_boots :
    (flashed 3).service.flash.get? 0 = some (3, 5) ∧ (flashed 3).service.keystore.getD 0 0 ≤ 3 ∧ 0 ∉ ([] : List Nat) ∧
    0 ∈ [0] ∧ State.reset.service.flash.get? 1 = none ∧ (∀ e ∈ [(1, 2, 3, true)], (e : Nat × Nat × Nat × Bool).2.2.2 = true) ∧
    ((flashed 3).cores.map Prod.fst).Nodup ∧ 0 ≤ demo.vfs ∧ demo.vfs < 17 ∧
    (let s : State := { demo with service := { demo.service with keystore := [(7, 4)] } }
     3 < s.service.keystore.getD 7 0 ∧ s.service.keystore.getD 7 0 ≤ 4) := by decide +kernel

theorem witness_BootAttestationAndServiceAct_orders :
    [(1, 7), (2, 191), (3, 7), (4, 15), (5, 27), (6, 0)].all (fun x : Nat × Nat => (commanded x.2).canAct ⟨x.1, x.2⟩ && (commanded x.2).dieLive (x.2 % 8)) = true ∧
    [(2, 256 + 191), (3, 256 + 7), (5, 2 ^ 63 + 27)].all (fun x : Nat × Nat => (commanded x.2).canAct ⟨x.1, x.2⟩) = true ∧
    (acting 3 0).canAct ⟨3, 1⟩ = false ∧ (commanded 0).service.log.length < 4096 ∧ (commanded 191).coreLive (191 % 256) = true ∧
    (commanded 15).stackLive (15 % 16) = true ∧ (commanded 27).portUsed (27 % 32) = false ∧ (255 % 256 < 192) = false ∧
    (let s := commanded (2 ^ 24 * 4); s.service.svcarg / 2 ^ 8 % 2 ^ 16 = 0 ∧ s.service.svcarg / 2 ^ 24 % 2 ^ 32 % 8 ≠ 0) ∧
    (let s := (commanded 0).setPhysBytes demo.service.stageBase (2 ^ 20) 8
     s.service.svcarg / 2 ^ 24 % 2 ^ 32 + 8 ≤ 2 ^ 28 ∧ s.pageGood 0 (s.physBytes (s.service.stageBase + 0) 8) = true ∧
       demo.pageGood 0 (2 ^ 20 + 1) = false) := by decide +kernel

theorem witness_BootAttestationAndServiceAct_runs :
    (acting 1 0).running 1 (fun _ => true) = some ⟨1, 0⟩ ∧ (acting 2 191).running 2 (fun x => !x.testBit 8) = some ⟨2, 191⟩ ∧
    (acting 2 191).coresEmpty (fun c => decide (c = 191)) = true ∧ (acting 3 7).running 3 (fun x => !x.testBit 8) = some ⟨3, 7⟩ ∧
    (acting 3 7).coresEmpty (fun c => decide (dieOf c = 7)) = true ∧
    (let s : State := { acting 5 27 with livePorts := 0 }
     s.running 5 (fun _ => true) = some ⟨5, 27⟩ ∧ s.livePorts.testBit 27 = false) := by decide +kernel

theorem witness_LaneArithmeticFollowsItsTables :
    [0x0, 0x10, 0x30, 0x40, 0x70, 0x80, 0xC0, 0xD0].all (fun m => (intType (modeType (BitVec.ofNat 16 m))).isSome &&
      [Instr.add 8 16 24, .sub 8 16 24, .mul 8 16 24, .mulhi 8 16 24, .min 8 16 24, .max 8 16 24, .absdiff 8 16 24, .addi 8 16 0x80, .abs 8 16,
        .neg 8 8].all (ok (inMode (BitVec.ofNat 16 m)))) = true ∧
    [0x0, 0x10, 0xC0, 0xD0].all (fun m => [Instr.div 8 16 24, .rem 8 16 24, .cmpeq 0 16 24, .cmpne 7 16 24, .cmplt 1 16 24, .cmple 1 16 24].all (ok (inMode (BitVec.ofNat 16 m)))) = true ∧
    [0x20, 0x8020].all (fun m => decide (modeType (BitVec.ofNat 16 m) = 2 ∧ modeRnd (BitVec.ofNat 16 m) ≠ 5) &&
      [Instr.add 8 16 24, .sub 8 16 24, .mul 8 16 24, .fma 8 16 24].all (ok (inMode (BitVec.ofNat 16 m)))) = true ∧
    [0x0, 0x20, 0x50, 0x70, 0xB0, 0xC0].all (fun m =>
      [Instr.sel 8 16 24, .mov 8 16, .movi 8 0x8000].all (ok (inMode (BitVec.ofNat 16 m)))) = true ∧
    ok demo (.movhi 8 0x8000) = true ∧ demo.crew.active.getLsbD 0 = true ∧ demo.crew.active.getLsbD 63 = false := by decide +kernel

/-- The demo with an issue turn of its crew on the agenda, after its own word. -/
def turning (s : State) : State := { s with agenda := [.issue 0 0] }

/-- The crew of the turn fetches and has its quarter's choice; the word its fetch gives. -/
def fetchedAt (s : State) : Option Word :=
  let u := ({ turning s with agenda := [] } : State).focus 0 0
  if u.fetches && u.settled.elected then
    match u.settled.fetch with
    | .word w _ => some w
    | _ => none
  else none

/-- The demo with the turn of its crew, which waits at a WAITC of its accesses. -/
def stalling (ps : List Pend) : State :=
  turning ((owing (demo.loadWord 0x98FC0FFF) ps).mapCrew (fun c => { c with stalled := true }))

theorem witness_StepRunsTheDecodedInstruction :
    fetchedAt (demo.loadWord 0x28010203) = some 0x28010203 ∧ fetchedAt (demo.loadWord 1) = some 1 ∧
    decode 0x28010203 = .ok (.add 1 2 3) ∧ (match decode 1 with | .error _ => true | .ok _ => false) = true ∧
    demo.crew.stalled = false ∧ unitExists 0 0 = true ∧
    (let u := (crowded [1, 2, 3, 4] 0).focus 0 0
     u.fetches = true ∧ u.crew.stalled = false ∧ u.settled.elected = false) := by decide +kernel

/-- The turn of the waiting crew: whether it fetches, whether the tried instruction leaves it waiting, and whether its quarter then chooses it. -/
def triedAt (s : State) : Option (Bool × Bool) :=
  let u := ({ s with agenda := [] } : State).focus 0 0
  if u.fetches && u.crew.stalled then
    match u.fetch with
    | .word w s1 =>
      match decode w with
      | .ok i =>
        match exec i s1 with
        | .next t => some ((t.crews.get? u.fkey).elim false Crew.stalled, (u.unstall u.fkey).settled.elected)
        | _ => none
      | .error _ => none
    | _ => none
  else none

theorem witness_StepRunsTheDecodedInstruction_waits :
    triedAt (stalling [oneLane .store 4 (vaultIdx 0 0 0) 7]) = some (true, true) ∧ triedAt (stalling []) = some (false, true) := by
  decide +kernel

theorem witness_StepRunsTheDecodedInstruction_event (rest : List Turn) :
    ∃ (s : State) (i : Instr), s.agenda = .event i :: rest ∧ isEvent i = true :=
  ⟨{ demo with agenda := .event (.activeSetSwap 0 0) :: rest }, .activeSetSwap 0 0, rfl, rfl⟩

theorem witness_DecodeAndEncodeAgree :
    (Instr.add 1 2 3).wellFormed = true ∧ isOperator (.add 1 2 3) = false ∧ encode (.add 1 2 3) = some 0x28010203 ∧
    decode 0x28010203 = .ok (.add 1 2 3) := by decide +kernel

theorem witness_OperatorWordsAreFiredAsTheirOperators :
    ∃ w, isOperator (.opAdd 3 3 0 0 0 0 0) = true ∧ encode (.opAdd 3 3 0 0 0 0 0) = some w ∧
      (spatial receiver).focusSlot? = some (0, regionWith [(0, receiver), (1, receiver)], 0, receiver) ∧ receiver.cfg.word = w := by
  refine ⟨receiver.cfg.word, ?_⟩
  decide +kernel


/-! ## Witnesses of the statements' further clauses -/

theorem witness_StepRunsTheDecodedInstruction_wakes :
    (let u := (({ stalling [oneLane .store 4 (vaultIdx 0 0 0) 7] with agenda := [] } : State).focus 0 0).inScope
     u.crew.stalled = true ∧ u.wakes u.focusCore u.focusSlot = false) ∧
    (let u := (({ stalling [] with agenda := [] } : State).focus 0 0).inScope
     u.crew.stalled = true ∧ u.wakes u.focusCore u.focusSlot = true) := by decide +kernel

theorem witness_FailedChecksTrapWithTheirCause_registers :
    (let c := (demo.mapCrew (fun c => { c with vregs := 8, tiles := 1 })).crew
     [Instr.add 8 0 0, .mread 8 1 0].all (fun i =>
       ((operands c.mode i).find? (fun o => decide ((if o.vec then c.vregs else c.sregs) < o.reg + o.span))).isSome) = true ∧
     tileField (.mread 8 1 0) = some (1, 1) ∧ c.tiles.getLsbD 1 = false ∧ c.tiles.getLsbD 0 = true ∧
     [Instr.mzero 1, .mread 0 1 0].all (fun i =>
       ((operands c.mode i).find? (fun o => decide ((if o.vec then c.vregs else c.sregs) < o.reg + o.span))).isNone) = true ∧
     [Instr.mread 0 0 0, .add 0 0 0].all (fun i =>
       ((operands c.mode i).find? (fun o => decide ((if o.vec then c.vregs else c.sregs) < o.reg + o.span))).isNone) = true) := by decide +kernel

/-- The demo's crew escalated, with the foreman's turn that ends it next and a job of the crew left or none. -/
def ending (js : List Job) : State :=
  let s := demo.mapCore 0 (fun k => { k with jobs := js })
  { s with agenda := [.endFaulted 0], escalations := [⟨0, demo.crew.task, 0x10, 1, []⟩] }

theorem witness_TrapWithoutRoomEscalates_ends :
    (ending []).escalations.find? (fun x => decide (x.key = 0)) = some ⟨0, demo.crew.task, 0x10, 1, []⟩ ∧
    ((ending []).core 0).jobs = [] ∧ ((ending []).core 0).tileOps = [] ∧
    ((ending [smallCopy]).core 0).jobs.any (fun j => decide (j.crew = 0 ∧ j.kind ≠ .stream)) = true ∧
    (demo.crews.get? 0).any (fun c => decide (c.task = demo.crew.task)) = true := by decide +kernel

/-- The system registers of Tables 17.2 and 18.5 that SREAD reads. -/
def readable : List Nat :=
  (List.range 11) ++ [0x010, 0x011, 0x012, 0x013, 0x014, 0x015, 0x016, 0x017, 0x018, 0x020, 0x030, 0x031, 0x032, 0x033, 0x034]

theorem witness_SystemRegistersReadAndWrite_reads :
    readable.all (fun n => ok (framed demo [frame 0x20040 3 0]) (.sread 8 (BitVec.ofNat 16 n))) = true := by decide +kernel

theorem witness_SystemRegistersReadAndWrite_writes :
    [demo, withS demo [(8, 0xFFFFFFFF), (9, 0xFFFFFFFF)]].all (fun s =>
      (ctxWrites (s.ctx s.crew.ctx) (s.crew.getS 8) (s.crew.getSS 8)).all (fun e => ok s (.swrite 8 e.1))) = true ∧
    (ctxWrites (demo.ctx demo.crew.ctx) (demo.crew.getS 8) (demo.crew.getSS 8)).all (fun e => decide (e.2.1 &&& e.2.2.1 = 0)) = true ∧
    (let s := withS demo [(8, 0xFFFFFFFF), (9, 0xFFFFFFFF)]
     (ctxWrites (s.ctx s.crew.ctx) (s.crew.getS 8) (s.crew.getSS 8)).all (fun e => decide (e.1 = 0x017 ∨ e.2.1 &&& e.2.2.1 ≠ 0)) = true) ∧
    (demo.ctxs.get? demo.crew.ctx).isSome = true ∧ demo.crews.all (fun e => e.2.pend.isEmpty) = true ∧
    demo.cores.all (fun e => e.2.replies.isEmpty) = true ∧
    (List.range 16).all (fun k => decide (((demo.core demo.focusCore).ctrs.getD k Counter.zero).count < 2 ^ 47)) = true := by decide +kernel

theorem witness_ClockHaltAndTlbiComplete_checks :
    (let s := withS demo [(9, 0x10000)]
     [0, 1, 2, 3].all (fun d => ok s (.tlbi d 10 9)) = true ∧ 2 ^ 16 ≤ (s.crew.getS 9).toNat ∧ s.crew.handles = true) ∧
    (let s := withS demo [(9, 7)]
     [0, 1, 2, 3].all (fun d => ok s (.tlbi d 10 9)) = true ∧ 2 ≤ (s.ctx s.crew.ctx).level) := by decide +kernel

/-- A store of lane 0 acknowledged at a scope. -/
def trailing (scope : Nat) : Pend := { oneLane .store 4 (vaultIdx 0 0 0) 7 with acked := scope }

theorem witness_FencesSettleTheirAccesses_trails :
    (let s := demo.setCrewAt 5 { demo.crew with number := 5, pend := [trailing 1] }
     (5 : Nat) ≠ s.fkey ∧ (s.inScope.crews.get? 5).isSome = true) ∧
    [(0, 1), (0, 2), (1, 1), (1, 2), (2, 1), (2, 4), (0, 0)].all (fun x : BitVec 2 × BitVec 3 => ok demo (.fence x.1 x.2) && ok demo (.fencej x.1 x.2)) =
      true := by decide +kernel

theorem mem_of_get? {α : Type} {k : Nat} {x : α} : ∀ {m : SMap α}, m.get? k = some x → (k, x) ∈ m
  | [], h => by simp [SMap.get?] at h
  | (j, y) :: m, h => by
    simp only [SMap.get?] at h
    split at h
    · simp_all
    · exact List.mem_cons_of_mem _ (mem_of_get? h)

theorem none_trails {s : State} (h : s.crews.all (fun e => e.2.pend.isEmpty) = true) (core : Nat) : NoneTrails s core := by
  intro k q hk p hp
  have := List.all_eq_true.mp h (k, q) (mem_of_get? hk)
  rw [List.isEmpty_iff.mp this] at hp
  cases hp

theorem witness_AcquireLoadsReleaseStoresAndAwait_trails : NoneTrails demo 0 := none_trails (by decide +kernel) 0

theorem witness_RoutingOperatorsFire_scales :
    routes (.opPass 4 5 1 0 0 0) (slotOf (.opPass 4 5 1 0 0 0) 0 0 [⟨7, 1⟩] [] [⟨8, 1⟩]) 0x01 = true ∧
    (SpSlot.load (entry (.opPass 4 5 1 0 0 0) 0 0) 0).cfg.mod.testBit 6 = true ∧
    elemKind (SpSlot.load (entry (.opScalemul 4 5 0 9) 0 0) 0).cfg.ty = .flt .e4m3 ∧
    [0x40, 0x3F800000].all (fun x => routes (.opScalemul 4 5 0 9)
      { slotOf (.opScalemul 4 5 0 9) 0 0 [data 0x40] [] [] with acc := BitVec.ofNat 32 x } 0x22) = true := by decide +kernel

theorem witness_PhasesEndAndWait_recorded :
    [0, 1].all (fun g => decide (({ phased demo with tasks := (phased demo).tasks.mapVals (fun (t : Task) =>
        { t with marks := [(demo.crew.number * 16 + 15, g)] }) } : State).tasks.get? demo.crew.task |>.any (fun k =>
          decide (k.marks.get? (demo.crew.number * 16 + 15) = some g ∧ ((g ≠ (k.bar 15).gen) ↔ g = 1))))) = true := by decide +kernel

theorem witness_RaftsFormAndReform_withdraws :
    (let r := { raft false (some 9) with forms := [(0, [2, 5000000, 0, 1])] }
     let m := msg 1 1 0 0 [0, 2, 5000000, 0, 1]
     let s := rafted r [m, msg 6 1 0 (9 * 2 ^ 28) [2]]
     s.givenUp r = true ∧ s.formingOfMsg m = some (2, r) ∧ (rafted r [m]).givenUp r = false ∧ r.forms.get? 0 = some m.params.tail) ∧
    (let r := { raft false (some 9) with forms := [(0, [2, 5000000, 0, 1])] }
     let m := msg 6 1 0 (9 * 2 ^ 28) [2]
     taken (rafted r [m]) m r = true ∧ m.dst = 0 ∧ m.src ≠ 0 ∧ (r.forms.get? 0).isSome = true) ∧
    (let r := { raft false (some 0) with members := [(1, member (some 0))] }
     (rafted r []).rafts.get? 2 = some r ∧ r.members.get? 0 = none ∧ 1 < r.table.length ∧ (rafted r []).report? r 1 = none) ∧
    (let r := { raft false (some 0) with table := [0, 1, 2], forms := [(0, [3, 5000000, 0, 1, 2]), (1, [3, 5000000, 0, 1, 2])] }
     r.forming true = .lacks 2 ∧ (r.forms.get? 1).isSome = true ∧ r.device demo.devnum 0 = demo.devnum) := by decide +kernel

/-- A segment of the contribution of rank 1: two of its four elements. -/
def segment (off : Nat) : Msg := { part 0xDA 1 4 with offset := off, data := [5, 6] }

theorem witness_CollectivesRunAndEnd_segments :
    (let r := raft true none
     let m := segment 0
     (rafted r [m]).msgs[0]? = some m ∧ (rafted r [m]).raftOfMsg m = some (2, r) ∧ collSrc 0xDA 2 4 0 1 = 4 ∧ m.data.length < 4 ∧
       ¬ (m.offset ≤ 3 ∧ 3 < m.offset + m.data.length)) ∧
    (let r := { raft true none with colls := [(1, { Coll.blank with segs := [(1, [segment 0])] })] }
     let m := segment 2
     let segs := m :: (r.colls.getD m.seq Coll.blank).segs.getD m.src []
     (rafted r [m]).msgs[0]? = some m ∧ (rafted r [m]).raftOfMsg m = some (2, r) ∧
       (List.range 4).all (fun i => segs.any (fun e => decide (e.offset ≤ i ∧ i < e.offset + e.data.length))) = true ∧
       ((r.colls.getD m.seq Coll.blank).parts.insert m.src m).length < r.table.length) := by decide +kernel

theorem witness_CollectivesRunAndEnd_halves :
    [([], 2), ([(0, 2)], 2), ([], 0)].all (fun x : List (Nat × Nat) × Nat =>
      let r := raft true none
      let j := { collJob 0xDA 0 true 1 with got := x.1 }
      let m := { msg 4 0 0 0 [] with offset := x.2, data := [3, 4] }
      let s := collecting r j [m]
      decide (s.msgs[0]? = some m) && decide (s.raftOfMsg m = some (2, r)) && decide ((s.dropMsg 0).jobOfMsg 2 m = some (some (0, j))) &&
        decide (collDst j.collOp 2 (fld j.card 32 8) = 4) &&
        (match (s.dropMsg 0).collAccess 0 j .write (byteVas (fld j.card 24 8 + 4 * m.offset) 8 ++ byteVas (fld j.card 48 8 + m.offset / 32) 0) with
         | (.ok xs, _) => decide ((xs.map (fun y => y.loc.idx)).Nodup)
         | _ => false)) = true ∧
    (let s := withS (collecting (raft true none) (collJob 0xDA 0 true 1) []) [(10, 64)]
     ok s (.cabort 10) = true ∧ 64 ≤ (s.crew.getS 10).toNat) ∧
    NoneTrails (collecting (raft true none) (collJob 0xDA 0 true 1) []) 0 := by
  refine ⟨by decide +kernel, by decide +kernel, none_trails (by decide +kernel) 0⟩

theorem witness_RemoteAccessesAndPorts_arrives :
    [[1, 0, 0, 0, 5], [1, 0, 0, 0, 5, 0]].all (fun ps =>
      let r := { raft true none with kind := 0, table := [9, demo.devnum], members := [(1, member none)] }
      let m := { msg 7 0 1 0 ps with sdev := 9, ddev := demo.devnum }
      decide ((rafted r [m]).msgs[0]? = some m) && decide ((rafted r [m]).raftOfMsg m = some (2, r)) && decide (m.sdev ≠ m.ddev) &&
        (r.members.get? m.dst).isSome) = true := by decide +kernel

theorem witness_RecorderMarksCountsFreezesAndSeals_lines :
    [0x11000, 0x11001, 0x11002, 0x14001].all (fun w =>
      let s := demo.mapCore 0 (fun k => { k with ctrs := [(3, { Counter.zero with cfg := w })] })
      ok s (.cntrd 8 3) && s.crew.pend.isEmpty && decide (((s.core 0).ctrs.getD 3 Counter.zero).cfg % 2 ^ 16 = w - 0x10000)) = true ∧
    (let g := { Ring.blank with frozen := some (0, 0), mac := 1 }
     let s : State := { freezing [] false with rings := [(0, g)] }
     s.rings.any (fun e => e.2.frozen.isSome) = true) := by decide +kernel

theorem witness_ContextsAreSavedAndRestored_waits :
    (let s := twoCrews.mapCore 0 (fun k => { k with jobs := [{ smallCopy with crew := 17 }] })
     ok (withS s [(12, 17)]) (.ctxsv 8 10 12) = true ∧ s.regionSaved 17 = true ∧ s.canSave 17 = false ∧
       (s.crews.get? 17).any (fun q => decide (q.savedTrap = none ∧ q.cut = false)) = true ∧ s.focusSlot < 64) ∧
    (let s := twoCrews
     ok (withS s [(12, 17)]) (.ctxrs 8 10 12) = true ∧ (s.crews.get? 17).isNone = false) := by decide +kernel

theorem witness_ContextsAreSavedAndRestored_room :
    (let s := restoring (savedArea 1005787846)
     let h := savedArea 1005787846
     let task := (s.tasks.get? (fld h 74 2)).getD (newTask (fld h 72 2) (dieOf s.focusCore) 0 s.clock)
     (s.recordRoom (s.groupMove (fld h 74 2) task (task.group (fld h 80 8 / 64)) s.focusCore).1 task.carry).isSome = true ∧
       (s.core s.focusCore).jobs.length ≤ 32 ∧ s.savedAreas = [] ∧
       s.crews.any (fun e => decide (e.1 / 64 = s.focusCore) && decide (e.2.tiles &&& BitVec.ofNat 8 (fld h 47 1) ≠ 0)) = false) := by decide +kernel

theorem witness_FaultsPagesAndTimeoutsAreServed_full :
    (let r := { faultAt 0x20000 false with kind := 3 }
     served (faulty demo r) r = true ∧ r.kind = 3 ∧ (match (faulty demo r).walk r.ctx r.va with | .leaf _ => true | _ => false) = true ∧
       demo.coreLive 23 = true) := by decide +kernel

/-- The demo where the first step of a migration of page 3 to page 8 has been made. -/
def moving : State :=
  { paged.setPhysBytes 0x8018 4 8 with
    migrations := [⟨demo.crew.ctx, 0x60000, 0x60000, 2 ^ 20, 2 ^ 17, [(0x8018, 0x6000F)]⟩] }

theorem witness_FaultsPagesAndTimeoutsAreServed_moves :
    moving.Inv ∧ moving.cores.all (fun e => e.2.pools.isEmpty) = true ∧
      moving.migrations.find? (fun y => decide (y.ctx = demo.crew.ctx ∧ y.va ≤ 0x60000 ∧ 0x60000 < y.va + y.size ∧ y.new = 2 ^ 20)) =
        moving.migrations.head? ∧ (0x60000 : Nat) % 2 ^ 17 = 0 ∧ 0x60000 + 2 ^ 17 ≤ 2 ^ 20 ∧ 0x8018 + 8 ≤ 0x60000 :=
  ⟨(by decide +kernel : Memory.wf _), by decide +kernel⟩

theorem witness_FaultsPagesAndTimeoutsAreServed_drops :
    (let s : State := { notifying 0 0 with
       ctxs := (notifying 0 0).ctxs.mapVals (fun (x : Ctx) => { x with migq := BitVec.ofNat 64 (0x1000000 + 2) }) }
     let y := s.ctx demo.crew.ctx
     (s.pageCtr.getD 3 PageCtr.zero).pending = true ∧ y.migq.toNat % 2 ^ 4 = 2 ∧ (s.ctxs.get? demo.crew.ctx).isSome = true ∧
       (match s.xlateWalk demo.crew.ctx (y.migq.toNat / 2 ^ 12 % 2 ^ 45 * 2 ^ 12) .write with | .ok _ => false | _ => true) = true) := by
  decide +kernel

/-- The demo's crew about to store to an address it waits at, long after that became its next instruction. -/
def overdue (clock : Nat) : State :=
  let p := { oneLane .store 4 (vaultIdx 0 0 0) 7 with seq := 4 }
  { (pointing (demo.loadWord 0x80000A0A) vaultVa).mapCrew (fun c => { c with pend := [p], issued := 5 }) with clock := clock }

theorem witness_FaultsPagesAndTimeoutsAreServed_lates :
    (let s := overdue (10 ^ 12)
     let late (since : Nat) : Bool := decide (since + s.params.fabtmo + s.pausedSince since ≤ s.clock)
     s.service.actions = [] ∧ late s.crew.readyAt.1 = true ∧
       (s.crew.pend.find? (fun q => decide (q.seq + 1 = s.crew.issued) && !q.kind.isRemote && late q.issuedAt)).isSome = true) ∧
    (let s := overdue 0
     decide (s.crew.readyAt.1 + s.params.fabtmo + s.pausedSince s.crew.readyAt.1 ≤ s.clock) = false) := by decide +kernel

theorem witness_HostRegistersQueuesAndContexts_waits :
    (let s := offered (header 0 0 256 1) demo.crew.ctx
     (0 : Nat) = s.current ∧ (1 : Nat) ≠ s.current ∧ s.updating 0 = false) ∧
    (let s := { offered (header 0 0 256 1) demo.crew.ctx with service := (acting 1 0).service }
     s.updating 0 = true) ∧
    (let s := (sharing (10 ^ 12)).mapCore 0 (fun k => { k with jobs := [smallCopy] })
     s.nextFunction = some 1 ∧ s.regions = [] ∧ (s.crews.map Prod.fst).Nodup ∧ s.crews.any (fun e => decide ((s.ctx e.2.ctx).owner = s.current) && !s.canSave e.1) = true ∧
       s.sliceStart + s.params.fslice ≤ s.clock) := by decide +kernel

theorem witness_BootAttestationAndServiceAct_leaves :
    (acting 2 191).untouched (inPool 191) = true ∧ (acting 3 7).untouched (onDie 7) = true ∧ (acting 3 7).migrations = [] := by decide +kernel

theorem witness_BootAttestationAndServiceAct_unmapped :
    ({ acting 3 7 with ctxs := [] } : State).dieUnmapped 7 = true := by decide +kernel

theorem witness_LaneArithmeticFollowsItsTables_converts :
    [(0x02, [Instr.cvt 8 16]), (0x20, [.cvt 8 16, .cvtsc 8 16 24]), (0x300, [.cvtp 8 16 24]), (0x30, [.unpklo 8 16, .unpkhi 8 16]), (0x700, [.cvtq 8 16])].all
      (fun x : Nat × List Instr => decide ((typeWidth (modeType (BitVec.ofNat 16 x.1))).isSome ∧ (typeWidth (modeCtype (BitVec.ofNat 16 x.1))).isSome ∧
        modeRnd (BitVec.ofNat 16 x.1) ≠ 5) && x.2.all (ok (inMode (BitVec.ofNat 16 x.1)))) = true := by decide +kernel

theorem witness_LaneArithmeticFollowsItsTables_moves :
    [0x0, 0x10, 0x20, 0x30, 0x70, 0xC0].all (fun m => decide ((typeWidth (modeType (BitVec.ofNat 16 m))).isSome) &&
      [Instr.seedUniform 8, .seedPerLane 8, .laneid 8, .widrd 8, .mtsc 8 16, .and 8 16 24, .or 8 16 24, .xor 8 16 24, .not 8 16, .ballot 8 16 0,
        .shuf 8 16 24, .shufx 8 16 24, .lrot 8 16 24, .bcast 8 16 24, .vget 8 16 24, .vset 8 16 24].all (ok (inMode (BitVec.ofNat 16 m)))) = true ∧
    [0x0, 0x10, 0x30, 0x70, 0xC0].all (fun m =>
      [Instr.shl 8 16 24, .shr 8 16 24, .sra 8 16 24, .rotl 8 16 24, .popc 8 16, .clz 8 16, .brev 8 16, .redadd 8 16, .redmin 8 16, .redmax 8 16].all
        (ok (inMode (BitVec.ofNat 16 m)))) = true ∧
    [0x0, 0x10, 0xC0].all (fun m => [Instr.bfx 8 16 24, .bfi 8 16 24].all (ok (inMode (BitVec.ofNat 16 m)))) = true ∧
    [Instr.redadd 8 16, .redmin 8 16, .redmax 8 16].all (ok (inMode 0x20)) = true := by decide +kernel


/-! ## Ill-formed terms -/

/-- One term for each check of a field, which the check refuses (R31, R68, and the limits of the entries). -/
theorem test_wellFormed_refuses_fields :
    [Instr.setm 0x10 0x20, .setmx 1 0x20, .ballot 8 16 32, .shufx 8 16 64, .lrot 8 16 64, .bcast 8 16 64, .vget 8 16 64, .vset 8 16 64,
     .pref 3 8 0, .fence 3 0, .fence 0 5, .fencej 3 0, .fencej 0 5, .mstore 0 8 2, .mread 8 0 4, .mread 8 0 128, .gstat 8 0 3,
     .gstat 8 1 0, .spstat 8 0 5, .spstat 8 1 0, .phendQueue 0 0 8, .enq 8 8 0 0 0, .deq 8 8 0 0, .qinit 8 0, .qlen 8 8 0,
     .sweep 8 8 0, .widfld 8 6, .cpstat 8 8 2, .cstat 8 8 3, .sread 8 0x7FFF, .swrite 8 0x7FFF, .cntrd 8 11, .cntcfg 8 8,
     .tlbi 4 8 8].all (fun i => !i.wellFormed) = true := by decide +kernel

/-- One term for each limit and alignment of a register operand, which the check refuses (R29, R30). -/
theorem test_wellFormed_refuses_registers :
    [Instr.sadd 64 0 0, .sadd 0 64 0, .sadd 0 0 64, .brnz 64 0, .callr 1 8, .ret 9, .sfromp 1 9, .ballot 9 16 0, .ldw 8 17 0, .ldd 9 16 0,
     .ldq 10 16 0, .stq 18 16 0, .sld64 9 8 0, .sld 8 9 0, .mma 8 9 0 0, .spchi 9 0].all (fun i => !i.wellFormed) = true := by
  decide +kernel

theorem test_wellFormed_refuses_reserved : (Instr.reservedOpcode 0x28000000).wellFormed = false := by decide +kernel

/-! ## One step of one instruction; the values are worked out by hand from the rules cited -/

/-- Lane 0 of vector registers set. -/
def withV (s : State) (rs : List (Nat × Word)) : State := s.mapCrew (fun c => rs.foldl (fun c e => c.setV e.1 0 e.2) c)

/-- The crew that an instruction leaves in focus. -/
def after (s : State) (i : Instr) : Crew :=
  match exec i s with
  | .next t => t.crew
  | _ => Crew.blank

/-- v8 in lane 0 after an instruction of v16 and v24 under a MODE. -/
def v8 (m : BitVec 16) (x y : Word) (i : Instr) : Word := (after (withV (inMode m) [(8, 0x0BADF00D), (16, x), (24, y)]) i).getV 8 0

/-- s8 after an instruction of s16 and s24. -/
def s8 (x y : Word) (i : Instr) : Word := (after (withS demo [(16, x), (24, y)]) i).getS 8

/-- R111: i32 wraps, and saturates with MODE.sat (bit 15). -/
theorem test_add_wraps_or_saturates : v8 0 0x7FFFFFFF 1 (.add 8 16 24) = 0x80000000 ∧ v8 0x8000 0x7FFFFFFF 1 (.add 8 16 24) = 0x7FFFFFFF := by
  decide +kernel

/-- R107: four 8-bit elements are added apart. -/
theorem test_add_elements : v8 0x70 0x01FF7F80 0x010101FF (.add 8 16 24) = 0x0200807F := by decide +kernel

/-- R109: 1 + 2^-24 is halfway and goes to the even 1 under RNE. -/
theorem test_add_f32_rounds : v8 0x20 0x3F800000 0x33800000 (.add 8 16 24) = 0x3F800000 := by decide +kernel

/-- R111: the sign decides which of two operands is subtracted. -/
theorem test_sub_order : v8 0 3 5 (.sub 8 16 24) = 0xFFFFFFFE := by decide +kernel

/-- R112: the high half is signed for i32 and unsigned for n32. -/
theorem test_mulhi_signedness : v8 0 0xFFFFFFFF 2 (.mulhi 8 16 24) = 0xFFFFFFFF ∧ v8 0x10 0xFFFFFFFF 2 (.mulhi 8 16 24) = 1 := by decide +kernel

/-- R116: division truncates, the remainder has the sign of the dividend, and a division by zero gives all ones. -/
theorem test_div_rem : v8 0 0xFFFFFFF9 2 (.div 8 16 24) = 0xFFFFFFFD ∧ v8 0 0xFFFFFFF9 2 (.rem 8 16 24) = 0xFFFFFFFF ∧
    v8 0 7 0 (.div 8 16 24) = 0xFFFFFFFF ∧ v8 0 7 0 (.rem 8 16 24) = 7 := by decide +kernel

/-- R136: length 4 from position 28, signed and unsigned; BFI keeps the other bits. -/
theorem test_bfx_bfi : v8 0 0x80000000 0x041C (.bfx 8 16 24) = 0xFFFFFFF8 ∧ v8 0x10 0x80000000 0x041C (.bfx 8 16 24) = 8 ∧
    v8 0 5 0x0404 (.bfi 8 16 24) = 0x0BADF05D := by decide +kernel

/-- R71: counts are taken modulo 32, SSRA copies bit 31, SSLT is signed and SSLTN is not. -/
theorem test_scalar_shifts_and_compares : s8 1 33 (.sshl 8 16 24) = 2 ∧ s8 0x80000000 31 (.ssra 8 16 24) = 0xFFFFFFFF ∧
    s8 0xFFFFFFFF 1 (.sslt 8 16 24) = 1 ∧ s8 0xFFFFFFFF 1 (.ssltn 8 16 24) = 0 := by decide +kernel

/-- R71: a source that is also the destination. -/
theorem test_ssub_in_place : (after (withS demo [(8, 10), (24, 3)]) (.ssub 8 8 24)).getS 8 = 7 := by decide +kernel

/-- R73: SMOVI sign-extends, SMOVHI clears the low half. -/
theorem test_scalar_constants : s8 0 0 (.smovi 8 0x8000) = 0xFFFF8000 ∧
    (after (withS demo [(8, 0x1234)]) (.smovhi 8 0xABCD)).getS 8 = 0xABCD0000 := by decide +kernel

/-- R117, R70: signed and unsigned order, and a write of p0 that does nothing. -/
theorem test_compares : ((after (withV (inMode 0) [(16, 0xFFFFFFFF), (24, 1)]) (.cmplt 1 16 24)).pred 1).getLsbD 0 = true ∧
    ((after (withV (inMode 0x10) [(16, 0xFFFFFFFF), (24, 1)]) (.cmplt 1 16 24)).pred 1).getLsbD 0 = false ∧
    (after (withV demo [(16, 1), (24, 1)]) (.cmpne 0 16 24)).pred 0 = BitVec.allOnes 64 := by decide +kernel

/-- R68: the manual's example word sets MODE.type to bf16x2 and MODE.rnd to RTZ. -/
theorem test_setm_example : modeType (after demo (.setm 0x14 0x1060)).mode = 6 ∧ modeRnd (after demo (.setm 0x14 0x1060)).mode = 1 := by
  decide +kernel

/-- R35, R74: a branch by the word offset from its own address; R75: CALL links the next instruction in s0:s1. -/
theorem test_branches : (after demo (.bra 0xFFFFFF)).pc = demo.crew.pc - 4 ∧ (after demo (.call 4)).pc = demo.crew.pc + 16 ∧
    (after demo (.call 4)).getSS 0 = (demo.crew.pc + 4).zeroExtend 64 := by decide +kernel

/-- R400, R404: TRAP enters the handler at TVEC with its cause and number. -/
theorem test_trap : (after demo (.trap 0x1234)).pc = 0x30000 ∧
    ((after demo (.trap 0x1234)).frames.head?.map Frame.tval) = some 0x1234 := by decide +kernel

/-- R6: a store completes with its bytes in little-endian order. -/
theorem test_store_byte_order :
    (match exec (.storeComplete 0 0 0 1) (owing demo [oneLane .store 4 (vaultIdx 0 0 0) 0x11223344]) with
     | .next t => (List.range 4).map (fun k => (t.byte (vaultIdx 0 0 k)).toNat)
     | _ => []) = [0x44, 0x33, 0x22, 0x11] := by decide +kernel

/-! ## Words laid out by hand from the tables of the manual -/

theorem test_decode_0x :
    [0x00000000, 0x01335C6D, 0x0203002D, 0x03C5A7B3, 0x04B35C6D, 0x05B35C6D, 0x06035C6D, 0x07035C6D, 0x08035C6D, 0x09035C6D,
     0x0A000300, 0x0BC5A7B3, 0x0CB36D00, 0x0D00B300, 0x0E00B300, 0x0F000000].map decode =
    [.nop, .setm 0x33 0x5C6D, .setmx 0x3 0x2D, .bra 0xC5A7B3, .brnz 0xB3 0x5C6D, .brz 0xB3 0x5C6D, .brany 0x3 0x5C6D,
     .brall 0x3 0x5C6D, .brdiv 0x3 0x5C6D, .rcset 0x3 0x5C6D, .rcwait 0x3, .call 0xC5A7B3, .callr 0xB3 0x6D, .ret 0xB3,
     .jmpr 0xB3, .exit].map .ok := rfl

theorem test_decode_1x :
    [0x10B35C6D, 0x11B35C6D, 0x12B35C6D, 0x13B35C6D, 0x14B36DE5, 0x15B36DE5, 0x16B36DE5, 0x17B36DE5, 0x18B36DE5, 0x19B36DE5,
     0x1AB36DE5, 0x1BB36DE5, 0x1CB36DE5, 0x1DB36DE5, 0x1EB36DE5, 0x1FB36DE5].map decode =
    [.smovi 0xB3 0x5C6D, .smovhi 0xB3 0x5C6D, .saddi 0xB3 0x5C6D, .spchi 0xB3 0x5C6D, .sadd 0xB3 0x6D 0xE5,
     .ssub 0xB3 0x6D 0xE5, .smul 0xB3 0x6D 0xE5, .sand 0xB3 0x6D 0xE5, .sor 0xB3 0x6D 0xE5, .sxor 0xB3 0x6D 0xE5,
     .sshl 0xB3 0x6D 0xE5, .sshr 0xB3 0x6D 0xE5, .ssra 0xB3 0x6D 0xE5, .sslt 0xB3 0x6D 0xE5, .ssltn 0xB3 0x6D 0xE5,
     .sseq 0xB3 0x6D 0xE5].map .ok := rfl

theorem test_decode_2x :
    [0x20B36DE5, 0x21B36DE5, 0x22B36DE5, 0x23030553, 0x24B30500, 0x25B30500, 0x26036D00, 0x27B30000, 0x28B36DE5, 0x29B36DE5,
     0x2AB36DE5, 0x2BB36DE5, 0x2CB36DE5, 0x2DB36DE5, 0x2EB36DE5, 0x2FB36DE5].map decode =
    [.sadd64 0xB3 0x6D 0xE5, .smin 0xB3 0x6D 0xE5, .smax 0xB3 0x6D 0xE5, .plog 0x3 0x5 0x5 0x3, .pcount 0xB3 0x5,
     .ptos 0xB3 0x5, .sfromp 0x3 0x6D, .getm 0xB3, .add 0xB3 0x6D 0xE5, .sub 0xB3 0x6D 0xE5, .mul 0xB3 0x6D 0xE5,
     .mulhi 0xB3 0x6D 0xE5, .fma 0xB3 0x6D 0xE5, .fms 0xB3 0x6D 0xE5, .fnma 0xB3 0x6D 0xE5, .min 0xB3 0x6D 0xE5].map .ok := rfl

theorem test_decode_3x :
    [0x30B36DE5, 0x31B36D00, 0x32B36D00, 0x33036DE5, 0x34036DE5, 0x35036DE5, 0x36036DE5, 0x37036DE5, 0x38B36DE5, 0x39B36DE5,
     0x3AB35C6D, 0x3BB35C6D, 0x3CB36D00, 0x3DB36DE5, 0x3EB36DE5, 0x3FB36D00].map decode =
    [.max 0xB3 0x6D 0xE5, .abs 0xB3 0x6D, .neg 0xB3 0x6D, .cmpeq 0x3 0x6D 0xE5, .cmpne 0x3 0x6D 0xE5, .cmplt 0x3 0x6D 0xE5,
     .cmple 0x3 0x6D 0xE5, .cmpun 0x3 0x6D 0xE5, .sel 0xB3 0x6D 0xE5, .addi 0xB3 0x6D 0xE5, .movi 0xB3 0x5C6D,
     .movhi 0xB3 0x5C6D, .mov 0xB3 0x6D, .div 0xB3 0x6D 0xE5, .rem 0xB3 0x6D 0xE5, .rcp 0xB3 0x6D].map .ok := rfl

theorem test_decode_4x :
    [0x40B36D00, 0x41B36D00, 0x42B36D00, 0x43B36D00, 0x44B36D00, 0x45B36D00, 0x46B36DE5, 0x47B36DE5, 0x48B36D00, 0x49B36D00,
     0x4AB36D00, 0x4BB36D00, 0x4CB36D00, 0x4DB36DE5, 0x4EB36DE5, 0x4FB36DE5].map decode =
    [.rsq 0xB3 0x6D, .sqrt 0xB3 0x6D, .exp2 0xB3 0x6D, .log2 0xB3 0x6D, .sinpi 0xB3 0x6D, .cospi 0xB3 0x6D,
     .dot2 0xB3 0x6D 0xE5, .dot4 0xB3 0x6D 0xE5, .floor 0xB3 0x6D, .ceil 0xB3 0x6D, .trunc 0xB3 0x6D, .rint 0xB3 0x6D,
     .fclass 0xB3 0x6D, .scaleb 0xB3 0x6D 0xE5, .copysign 0xB3 0x6D 0xE5, .absdiff 0xB3 0x6D 0xE5].map .ok := rfl

theorem test_decode_5x :
    [0x50B36D00, 0x51B36DE5, 0x52B36D00, 0x53B36D00, 0x54B36D00, 0x5500B300, 0x5500B301, 0x56B36DE5, 0x58B36DE5, 0x59B36DE5,
     0x5AB36DE5, 0x5BB36D00, 0x5CB36DE5, 0x5DB36DE5, 0x5EB36DE5, 0x5FB36DE5].map decode =
    [.cvt 0xB3 0x6D, .cvtp 0xB3 0x6D 0xE5, .cvtq 0xB3 0x6D, .unpklo 0xB3 0x6D, .unpkhi 0xB3 0x6D, .seedUniform 0xB3,
     .seedPerLane 0xB3, .cvtsc 0xB3 0x6D 0xE5, .and 0xB3 0x6D 0xE5, .or 0xB3 0x6D 0xE5, .xor 0xB3 0x6D 0xE5, .not 0xB3 0x6D,
     .shl 0xB3 0x6D 0xE5, .shr 0xB3 0x6D 0xE5, .sra 0xB3 0x6D 0xE5, .rotl 0xB3 0x6D 0xE5].map .ok := rfl

theorem test_decode_6x :
    [0x60B36DE5, 0x61B36DE5, 0x62B36D00, 0x63B36D00, 0x64B36D00, 0x65B36DE5, 0x66B36DE5, 0x67B36DE5, 0x68B36DE5, 0x69B36DE5,
     0x6AB36DE5, 0x6BB36DE5, 0x6CB36D00, 0x6DB36D00, 0x6EB36D00, 0x6FB30000].map decode =
    [.bfx 0xB3 0x6D 0xE5, .bfi 0xB3 0x6D 0xE5, .popc 0xB3 0x6D, .clz 0xB3 0x6D, .brev 0xB3 0x6D, .ballot 0xB3 0x6D 0xE5,
     .shuf 0xB3 0x6D 0xE5, .shufx 0xB3 0x6D 0xE5, .lrot 0xB3 0x6D 0xE5, .bcast 0xB3 0x6D 0xE5, .vget 0xB3 0x6D 0xE5,
     .vset 0xB3 0x6D 0xE5, .redadd 0xB3 0x6D, .redmin 0xB3 0x6D, .redmax 0xB3 0x6D, .laneid 0xB3].map .ok := rfl

theorem test_decode_7x :
    [0x70B36DE5, 0x71B36DE5, 0x72B36DE5, 0x73B36DE5, 0x74B36DE5, 0x75B36DE5, 0x76B36DE5, 0x77B36DE5, 0x78B36DE5, 0x79B36DE5,
     0x7AB36DE5, 0x7BB36DE5, 0x7CB36DE5, 0x7DB36DE5, 0x7EB36DE5, 0x7FB36DE5].map decode =
    [.ldb 0xB3 0x6D 0xE5, .ldh 0xB3 0x6D 0xE5, .ldw 0xB3 0x6D 0xE5, .ldd 0xB3 0x6D 0xE5, .ldq 0xB3 0x6D 0xE5,
     .stb 0xB3 0x6D 0xE5, .sth 0xB3 0x6D 0xE5, .stw 0xB3 0x6D 0xE5, .std 0xB3 0x6D 0xE5, .stq 0xB3 0x6D 0xE5,
     .ldx 0xB3 0x6D 0xE5, .stx 0xB3 0x6D 0xE5, .sld 0xB3 0x6D 0xE5, .sld64 0xB3 0x6D 0xE5, .sst 0xB3 0x6D 0xE5,
     .sst64 0xB3 0x6D 0xE5].map .ok := rfl

theorem test_decode_8x :
    [0x80B36DE5, 0x81B36DE5, 0x8200B300, 0x8300B36D, 0x8301B36D, 0x8302B36D, 0x84B36D00, 0x85B36DE5, 0x8600B300, 0x88000035,
     0x89B36DE5, 0x8AB36DE5, 0x8BB36DE5, 0x8CB36DE5, 0x8DB36DE5, 0x8EB36DE5, 0x8FB36DE5].map decode =
    [.pref 0xB3 0x6D 0xE5, .l2pin 0xB3 0x6D 0xE5, .l2unpin 0xB3, .pagehintPrefer 0xB3 0x6D, .pagehintMigrate 0xB3 0x6D,
     .pagehintClear 0xB3 0x6D, .probe 0xB3 0x6D, .poolmap 0xB3 0x6D 0xE5, .poolunmap 0xB3, .fence 0x3 0x5,
     .ldacq 0xB3 0x6D 0xE5, .strel 0xB3 0x6D 0xE5, .aadd 0xB3 0x6D 0xE5, .amin 0xB3 0x6D 0xE5, .amax 0xB3 0x6D 0xE5,
     .aand 0xB3 0x6D 0xE5, .aor 0xB3 0x6D 0xE5].map .ok := rfl

theorem test_decode_9x :
    [0x90B36DE5, 0x91B36DE5, 0x92B36DE5, 0x93B36DE5, 0x94B36DE5, 0x95B36DE5, 0x96000035, 0x98CED95B, 0x99B36D00, 0x9AB36DE5,
     0x9BB36D00, 0x9CB30100, 0x9D00B36D, 0x9EB36D00, 0x9F00B300].map decode =
    [.axor 0xB3 0x6D 0xE5, .axchg 0xB3 0x6D 0xE5, .acas 0xB3 0x6D 0xE5, .ainc 0xB3 0x6D 0xE5, .adec 0xB3 0x6D 0xE5,
     .await 0xB3 0x6D 0xE5, .fencej 0x3 0x5, .waitc 0x33 0x2D 0x25 0x1B, .copy 0xB3 0x6D, .copyr 0xB3 0x6D 0xE5,
     .strm 0xB3 0x6D, .pop 0xB3 0x1, .strmbar 0xB3 0x6D, .jobq 0xB3 0x6D, .jobcan 0xB3].map .ok := rfl

theorem test_decode_Ax :
    [0xA4B36D05, 0xA5B36D53, 0xA6030000, 0xA7036DE5, 0xA8B305E5, 0xA9B30500, 0xAA00B36D, 0xACB36D00, 0xADB36D00, 0xAEB36DE5].map decode =
    [.mload 0xB3 0x6D 0x5, .mma 0xB3 0x6D 0x5 0x3, .mzero 0x3, .mstore 0x3 0x6D 0xE5, .mread 0xB3 0x5 0xE5, .mflags 0xB3 0x5,
     .mtsc 0xB3 0x6D, .gbind 0xB3 0x6D, .grun 0xB3 0x6D, .gstat 0xB3 0x6D 0xE5].map .ok := rfl

theorem test_decode_Bx :
    [0xB0B36DE5, 0xB1B30000, 0xB2B36D00, 0xB300B36D, 0xB4B30000, 0xB500B36D, 0xB6B30000, 0xB7000000, 0xB7000001, 0xB7000002,
     0xB7000003, 0xB8B36DE5, 0xB9B36D00, 0xBCB36D00, 0xBD030000, 0xBD13000D, 0xBD230D25, 0xBD33002D, 0xBE00B300, 0xBFB36D00].map decode =
    [.spent 0xB3 0x6D 0xE5, .spexit 0xB3, .spwait 0xB3 0x6D, .ecw 0xB3 0x6D, .tmark 0xB3, .spinj 0xB3 0x6D, .sptake 0xB3,
     .spstopEnd, .spstopHold, .spstopQuiet, .spstopRelease, .spstat 0xB3 0x6D 0xE5, .sprcfg 0xB3 0x6D, .launch 0xB3 0x6D,
     .phendNone 0x3, .phendBar 0x3 0xD, .phendQueue 0x3 0xD 0x25, .phendWord 0x3 0x2D, .bararr 0xB3, .bufget 0xB3 0x6D].map .ok := rfl

theorem test_decode_Cx :
    [0xC000B36D, 0xC100B300, 0xC2B36D00, 0xC3B36D53, 0xC4B36D51, 0xC500B3D0, 0xC6B36D50, 0xC7B36D50, 0xC800B300, 0xC9B30000,
     0xCAB30005, 0xCB000000].map decode =
    [.bufpass 0xB3 0x6D, .bufdrop 0xB3, .bufaddr 0xB3 0x6D, .enq 0xB3 0x6D 0x5 0x1 0x1, .deq 0xB3 0x6D 0x5 0x1,
     .qinit 0xB3 0xD, .qlen 0xB3 0x6D 0x5, .sweep 0xB3 0x6D 0x5, .estim 0xB3, .widrd 0xB3, .widfld 0xB3 0x5, .qfence].map .ok := rfl

theorem test_decode_Dx :
    [0xD0B36D00, 0xD1B36DE5, 0xD200B30D, 0xD3B36DE5, 0xD4B36DE5, 0xD5B30000, 0xD8B36D00, 0xD9B36DE5, 0xDAB36D00, 0xDBB36D00,
     0xDCB36D00, 0xDDB36D00, 0xDEB36D00, 0xDFB36D00].map decode =
    [.cpinit 0xB3 0x6D, .sprout 0xB3 0x6D 0xE5, .reward 0xB3 0xD, .cut 0xB3 0x6D 0xE5, .cpstat 0xB3 0x6D 0xE5, .cpadv 0xB3,
     .raftform 0xB3 0x6D, .raftre 0xB3 0x6D 0xE5, .car 0xB3 0x6D, .cag 0xB3 0x6D, .crs 0xB3 0x6D, .cbc 0xB3 0x6D,
     .ca2a 0xB3 0x6D, .cbar 0xB3 0x6D].map .ok := rfl

theorem test_decode_Ex :
    [0xE0B36DE5, 0xE100B300, 0xE2B36DE5, 0xE3B36DE5, 0xE400A7B3, 0xE5000000, 0xE6B35C6D, 0xE7B35C6D, 0xE800A7B3, 0xE9B35C6D,
     0xEAB36DE5, 0xEBB3006D, 0xECB3006D, 0xED000000, 0xEEB30000, 0xEFB36DE5].map decode =
    [.cstat 0xB3 0x6D 0xE5, .cabort 0xB3, .rput 0xB3 0x6D 0xE5, .rget 0xB3 0x6D 0xE5, .trap 0xA7B3, .trapret,
     .sread 0xB3 0x5C6D, .swrite 0xB3 0x5C6D, .brk 0xA7B3, .mark 0xB3 0x5C6D, .trcarm 0xB3 0x6D 0xE5, .cntrd 0xB3 0x6D,
     .cntcfg 0xB3 0x6D, .halt, .clock 0xB3, .tlbi 0xB3 0x6D 0xE5].map .ok := rfl

theorem test_decode_Fx :
    [0xF0B36DE5, 0xF1B36DE5, 0xFFC5A7B3].map decode =
    [.ctxsv 0xB3 0x6D 0xE5, .ctxrs 0xB3 0x6D 0xE5, .undef 0xC5A7B3].map .ok := rfl

theorem test_operator_words :
    [.opPass 0xB3 0x6D 0x1 0x1 0x1 0x3, .opCopy 0xB3 0x6D, .opSel 0xB3 0x6D, .opSteer 0xB3 0x6D, .opMerge 0xB3 0x6D 0x1,
     .opAdd 0xB3 0x6D 0x1 0x1 0x1 0x1 0x5, .opSub 0xB3 0x6D 0x1 0x1 0x1 0x1 0x5, .opMul 0xB3 0x6D 0x1 0x1 0x1 0x1 0x5,
     .opFma 0xB3 0x6D 0x1 0x1 0x1 0x1 0x5, .opMin 0xB3 0x6D 0x1 0x1 0x1 0x1 0x5, .opMax 0xB3 0x6D 0x1 0x1 0x1 0x1 0x5,
     .opCmpeq 0xB3 0x6D 0x1 0x1 0x1 0x3, .opCmpne 0xB3 0x6D 0x1 0x1 0x1 0x3, .opCmplt 0xB3 0x6D 0x1 0x1 0x1 0x3,
     .opCmple 0xB3 0x6D 0x1 0x1 0x1 0x3, .opAnd 0xB3 0x6D 0x1 0x1 0x1 0x3, .opOr 0xB3 0x6D 0x1 0x1 0x1 0x3,
     .opXor 0xB3 0x6D 0x1 0x1 0x1 0x3].map encode =
    [0x01B36D73, 0x02B36D00, 0x03B36D00, 0x04B36D00, 0x05B36D40, 0x08B36DF5, 0x09B36DF5, 0x0AB36DF5, 0x0BB36DF5, 0x0CB36DF5,
     0x0DB36DF5, 0x0EB36D73, 0x0FB36D73, 0x10B36D73, 0x11B36D73, 0x12B36D73, 0x13B36D73, 0x14B36D73].map some := rfl

theorem test_operator_words_accepted : [0x01B36D73, 0x02B36D00, 0x03B36D00, 0x04B36D00, 0x05B36D40, 0x08B36DF5, 0x09B36DF5, 0x0AB36DF5, 0x0BB36DF5, 0x0CB36DF5,
     0x0DB36DF5, 0x0EB36D73, 0x0FB36D73, 0x10B36D73, 0x11B36D73, 0x12B36D73, 0x13B36D73, 0x14B36D73].all operatorOk = true := by decide

theorem test_operator_words_2 :
    [.opShl 0xB3 0x6D 0x1 0x1 0x1 0x3, .opShr 0xB3 0x6D 0x1 0x1 0x1 0x3, .opDot4 0xB3 0x6D 0x1 0x1 0x1 0x1 0x5,
     .opCvt 0xB3 0x6D 0x1 0x3 0x1, .opRate 0xB3 0x6D, .opScalemul 0xB3 0x6D 0x1 0xB, .opLoopgen 0xB3 0x6D 0x5 0x1 0x1,
     .opCount 0xB3 0x6D 0x5 0x1 0x1, .opAcc 0xB3 0x6D 0x5 0x1 0x1, .opSrc 0xB3 0x6D, .opSnk, .opMemld 0xB3 0x6D, .opMemst,
     .opExitx, .opInj 0xB3 0x6D, .opTgate 0xB3 0x6D, .opEdgetx 0x3 0x1, .opEdgerx 0xB3 0x6D 0x5 0x3].map encode =
    [0x15B36D73, 0x16B36D73, 0x17B36DF5, 0x20B36DB1, 0x21B36D00, 0x22B36D1B, 0x28B36DB1, 0x29B36DB1, 0x2AB36DB1, 0x30B36D00,
     0x31030300, 0x32B36D00, 0x33030300, 0x34030300, 0x35B36D00, 0x36B36D00, 0x38030331, 0x39B36D53].map some := rfl

theorem test_operator_words_2_accepted : [0x15B36D73, 0x16B36D73, 0x17B36DF5, 0x20B36DB1, 0x21B36D00, 0x22B36D1B, 0x28B36DB1, 0x29B36DB1, 0x2AB36DB1, 0x30B36D00,
     0x31030300, 0x32B36D00, 0x33030300, 0x34030300, 0x35B36D00, 0x36B36D00, 0x38030331, 0x39B36D53].all operatorOk = true := by decide

end Sys2Proof.Tests
end

section
/-! PROOFS of O2 and O3: the storage stays in canonical form.

A definition of the model that leaves memory alone has a `@[simp]` lemma `…_mem`; one that may write has a lemma `…_wf`: canonical form in,
canonical form out; an instruction or event has `…_canonical`.  A function that takes a continuation asks in its `_wf` lemma that
the continuation keeps the form.  The step's case split is then `exec_canonical`, `State.turn_canonical` and `State.chores_keep`. -/

namespace Sys2Proof.Machine
theorem State.foldl_mem_snd {α β : Type} (f : α × State → β → α × State) (h : ∀ a b, (f a b).2.mem = a.2.mem) (l : List β) :
    ∀ a : α × State, (l.foldl f a).2.mem = a.2.mem := by
  induction l with
  | nil => exact fun _ => rfl
  | cons b l ih => exact fun a => (ih _).trans (h a b)

/-! ## The results of an instruction's body, and the shapes that definitions of the model share -/

@[simp] theorem Res.state_done (s : State) : (Res.done s).state = s := rfl

@[simp] theorem Res.state_jump (s : State) (pc : PcWord) : (Res.jump s pc).state = s := rfl

@[simp] theorem Res.state_resume (s : State) (pc : PcWord) : (Res.resume s pc).state = s := rfl

@[simp] theorem Res.state_gone (s : State) : (Res.gone s).state = s := rfl

@[simp] theorem Res.state_ended (s : State) : (Res.ended s).state = s := rfl

@[simp] theorem Res.state_hold (s : State) : (Res.hold s).state = s := rfl

@[simp] theorem Res.state_trap (s : State) (cause : Nat) (tval : DWord) : (Res.trap s cause tval).state = s := rfl

theorem Res.wf_done {s : State} (h : Memory.wf s.mem) : Memory.wf (Res.done s).state.mem := h

theorem Res.wf_gone {s : State} (h : Memory.wf s.mem) : Memory.wf (Res.gone s).state.mem := h

theorem Res.wf_hold {s : State} (h : Memory.wf s.mem) : Memory.wf (Res.hold s).state.mem := h

theorem Memory.wf_snd {α : Type} {p : α × State} {x : α} {t : State} (e : p = (x, t)) (h : Memory.wf p.2.mem) :
    Memory.wf t.mem := by
  subst e
  exact h

theorem Memory.wf_ite {c : Prop} [Decidable c] {s t : State} (hs : Memory.wf s.mem) (ht : Memory.wf t.mem) :
    Memory.wf (if c then s else t).mem := by
  split
  · exact hs
  · exact ht

theorem Res.wf_ite {c : Prop} [Decidable c] {p q : Res} (hp : Memory.wf p.state.mem) (hq : Memory.wf q.state.mem) :
    Memory.wf (if c then p else q).state.mem := by
  split
  · exact hp
  · exact hq

theorem Res.mem_ite {c : Prop} [Decidable c] {p q : Res} {m : List Host.Cell} (hp : p.state.mem = m) (hq : q.state.mem = m) :
    (if c then p else q).state.mem = m := by
  split
  · exact hp
  · exact hq

theorem Memory.wf_getD {s : State} (h : Memory.wf s.mem) {o : Option State} (ho : ∀ t ∈ o, Memory.wf t.mem) :
    Memory.wf (o.getD s).mem := by
  cases o with
  | none => exact h
  | some t => exact ho t rfl

theorem State.foldl_wf_fst {α β : Type} (f : State × α → β → State × α)
    (hf : ∀ a b, Memory.wf a.1.mem → Memory.wf (f a b).1.mem) (l : List β) :
    ∀ a : State × α, Memory.wf a.1.mem → Memory.wf (l.foldl f a).1.mem := by
  induction l with
  | nil => exact fun _ h => h
  | cons b l ih => exact fun a h => ih _ (hf a b h)

theorem State.wf_of_classify {s t : State}
    (h : Memory.wf s.mem) {core : Nat} {key : Option Nat} {cn size : Nat} {need : Need}
    {isLoad : Bool} {lanes : List (Nat × Nat)} {x : Machine.Class}
    (e : s.classify core key cn size need isLoad lanes = (x, t)) : Memory.wf t.mem :=
  Memory.wf_snd e (by simpa using h)

/-- A computation of the grammar engine that keeps the canonical form of memory, whether it ends or stops. -/
structure Chk.Keeps {α : Type} (m : Chk α) : Prop where
  wf : ∀ s : State, Memory.wf s.mem → Memory.wf (m s).2.mem

theorem Chk.keeps_pure {α : Type} (a : α) : Chk.Keeps (pure a : Chk α) := ⟨fun _ h => h⟩

theorem Chk.keeps_stop {α : Type} (e : Stop) : Chk.Keeps (stopChk e : Chk α) := ⟨fun _ h => h⟩

theorem Chk.keeps_bind {α β : Type} {m : Chk α} {f : α → Chk β} (hm : m.Keeps) (hf : ∀ a, (f a).Keeps) :
    (m >>= f).Keeps := by
  refine ⟨fun s h => ?_⟩
  have hs := hm.wf s h
  show Memory.wf (ExceptT.bindCont f (m s).1 (m s).2).2.mem
  cases (m s).1 with
  | error e => exact hs
  | ok a => exact (hf a).wf _ hs

theorem Chk.keeps_ite {α : Type} {c : Prop} [Decidable c] {m k : Chk α} (hm : m.Keeps) (hk : k.Keeps) :
    (if c then m else k).Keeps := by
  split
  · exact hm
  · exact hk

theorem Chk.keeps_need (b : Bool) (e : Stop) : (need b e).Keeps := Chk.keeps_ite (Chk.keeps_pure _) (Chk.keeps_stop _)

theorem Chk.keeps_foldlM {α β : Type} {f : β → α → Chk β} (hf : ∀ b a, (f b a).Keeps) (l : List α) :
    ∀ b, Chk.Keeps (l.foldlM f b) := by
  induction l with
  | nil => exact fun b => Chk.keeps_pure b
  | cons a l ih =>
    intro b
    rw [List.foldlM_cons]
    exact Chk.keeps_bind (hf b a) ih

theorem Chk.keeps_forM {α : Type} {f : α → Chk PUnit} (hf : ∀ a, (f a).Keeps) (l : List α) : Chk.Keeps (l.forM f) := by
  induction l with
  | nil => exact Chk.keeps_pure _
  | cons a l ih =>
    show Chk.Keeps (f a >>= fun _ => l.forM f)
    exact Chk.keeps_bind (hf a) (fun _ => ih)

theorem Chk.keeps_mapM {α β : Type} {f : α → Chk β} (hf : ∀ a, (f a).Keeps) (l : List α) : Chk.Keeps (l.mapM f) := by
  induction l with
  | nil => exact Chk.keeps_pure _
  | cons a l ih =>
    rw [List.mapM_cons]
    exact Chk.keeps_bind (hf a) (fun _ => Chk.keeps_bind ih (fun _ => Chk.keeps_pure _))

/-- A reader whose every read keeps the canonical form. -/
def Reader.Keeps (rd : Reader) : Prop := ∀ va n, (rd va n).Keeps

/-! ## What an instruction keeps -/

/-- Every next state that an outcome answers has its memory in canonical form. -/
structure Canonical (o : Host.Outcome State Fault Refusal) : Prop where
  wf : ∀ t, o = .next t → Memory.wf t.mem

theorem Canonical.next {s : State} (h : Memory.wf s.mem) : Canonical (.next s) := ⟨fun _ e => by cases e; exact h⟩

/-- An instruction keeps the canonical form if its body does. -/
theorem Canonical.issue {i : Instr} {s : State} {body : State → Res} (h : Memory.wf s.mem)
    (hb : ∀ s, Memory.wf s.mem → Memory.wf (body s).state.mem) : Canonical (issue i s body) := .next (issueState_wf h hb)

theorem Canonical.issueCrew {i : Instr} {s : State} (h : Memory.wf s.mem) (f : Crew → Crew) : Canonical (issueCrew i s f) :=
  .issue h (fun s hs => by simpa using hs)

/-! ## The operations and the instructions, in the order in which the model builds one on another -/

@[simp] theorem State.dropBuffers_mem (s : State) (task k : Nat) : (s.dropBuffers task k).mem = s.mem := rfl

@[simp] theorem State.recordCoppice_mem (s : State) (c : Coppice) (i state : Nat) (own : Bool) :
    (s.recordCoppice c i state own).mem = s.mem := rfl

@[simp] theorem State.putCoppice_mem (s : State) (c : Coppice) : (s.putCoppice c).mem = s.mem := rfl

@[simp] theorem State.setSibState_mem (s : State) (c : Coppice) (i state : Nat) :
    (s.setSibState c i state).2.mem = s.mem := rfl

theorem State.writeSib_wf {s : State} (h : Memory.wf s.mem) (c : Coppice) (i : Nat) : Memory.wf (s.writeSib c i).mem := by
  unfold State.writeSib
  exact State.unitWrite_wf h ..

@[simp] theorem State.mapTask_mem (s : State) (n : Nat) (f : Task → Task) : (s.mapTask n f).mem = s.mem := by
  unfold State.mapTask
  split <;> simp

theorem State.deliverAdv_wf {s : State} (h : Memory.wf s.mem) (task k : Nat) (x : Word) :
    Memory.wf (s.deliverAdv task k x).mem := by
  unfold State.deliverAdv
  grind [State.mapCrewAt_mem, State.mapTask_mem, State.setBytes_wf]

@[simp] theorem State.unshare_mem (s : State) (task first : Nat) : (s.unshare task first).mem = s.mem := rfl

@[simp] theorem State.freeCoppice_mem (s : State) (c : Coppice) : (s.freeCoppice c).mem = s.mem := by
  unfold State.freeCoppice
  split <;> simp

theorem State.completeCoppice_wf {s : State} (h : Memory.wf s.mem) (c : Coppice) (timeout : Bool) :
    Memory.wf (s.completeCoppice c timeout).mem := by
  unfold State.completeCoppice
  simp only [State.freeCoppice_mem, State.recordCoppice_mem, State.unshare_mem, State.mapTask_mem]
  refine State.foldl_wf _ (fun s i hs => ?_) _ _ (State.unitWrite_wf (State.unitWrite_wf
    (State.foldl_wf _ (fun _ _ hs => State.writeSib_wf hs ..) _ _ (by simpa using h)) ..) ..)
  split
  · exact hs
  · exact State.deliverAdv_wf hs ..

theorem State.expireCoppice_wf {s : State} (h : Memory.wf s.mem) (cn va : Nat) : Memory.wf (s.expireCoppice cn va).mem := by
  unfold State.expireCoppice
  split
  · exact h
  · split
    · exact h
    · refine State.completeCoppice_wf ?_ ..
      rw [State.foldl_mem_snd _ (fun a b => State.setSibState_mem a.2 a.1 b 4)]
      exact h

theorem State.checkCoppice_wf {s : State} (h : Memory.wf s.mem) (cn va : Nat) : Memory.wf (s.checkCoppice cn va).mem := by
  unfold State.checkCoppice
  grind [State.completeCoppice_wf]

theorem State.siblingRetired_wf {s : State} (h : Memory.wf s.mem) (cn va i k : Nat) :
    Memory.wf (s.siblingRetired cn va i k).mem := by
  unfold State.siblingRetired
  grind [State.expireCoppice_wf, State.putCoppice_mem, State.checkCoppice_wf, State.setSibState_mem, State.freeCoppice_mem]

@[simp] theorem State.recordFault_mem (s : State) (r : FaultRec) (what : Nat) : (s.recordFault r what).mem = s.mem := rfl

@[simp] theorem State.forgetTask_mem (s : State) (n : Nat) : (s.forgetTask n).mem = s.mem := rfl

theorem State.checkTask_wf {s : State} (h : Memory.wf s.mem) (n : Nat) : Memory.wf (s.checkTask n).mem := by
  unfold State.checkTask
  grind [State.finishTask_wf]

theorem State.noteRetired_wf {s : State} (h : Memory.wf s.mem) (task k cn : Nat) (sib : Sibling) :
    Memory.wf (s.noteRetired task k cn sib).mem := by
  unfold State.noteRetired
  grind [State.dropBuffers_mem, State.siblingRetired_wf, State.mapTask_mem, State.checkTask_wf]

theorem State.retireCrew_wf {s : State} (h : Memory.wf s.mem) (key : Nat) : Memory.wf (s.retireCrew key).mem := by
  unfold State.retireCrew
  grind [State.recordCrew_mem, State.dropCrew_mem, State.packet_wf, State.noteRetired_wf]

@[simp] theorem State.poisonOp_mem (s : State) (core : Nat) (op : TileOp) (tval : Nat) :
    (s.poisonOp core op tval).mem = s.mem := by
  unfold State.poisonOp
  simp

@[simp] theorem State.setTile_mem (s : State) (n t : Nat) (x : Tile) : (s.setTile n t x).mem = s.mem := rfl

@[simp] theorem State.broadcast_mem (s : State) (core : Nat) (op : TileOp) : (s.broadcast core op).mem = s.mem := by
  unfold State.broadcast
  split <;> simp

@[simp] theorem State.broadcastThrough_mem (s : State) (core : Nat) (want : TileOp → Bool) :
    (s.broadcastThrough core want).mem = s.mem := by
  unfold State.broadcastThrough
  simp [State.foldl_mem]

@[simp] theorem State.setMac_mem (s : State) (n m : Nat) (x : Macro) : (s.setMac n m x).mem = s.mem := rfl

theorem State.retireCut_wf {s : State} (h : Memory.wf s.mem) (task k cn : Nat) (sib : Sibling) :
    Memory.wf (s.retireCut task k cn sib).mem := by
  unfold State.retireCut
  grind [State.retireCrew_wf, State.broadcastThrough_mem, State.dropJobs_mem, State.perform_wf, State.noteRetired_wf,
    State.mapTask_mem]

theorem State.cutBoundary_wf {s : State} (h : Memory.wf s.mem) (key : Nat) : Memory.wf (s.cutBoundary key).mem := by
  unfold State.cutBoundary
  grind [State.retireCut_wf]

@[simp] theorem State.freezeRing_mem (s : State) (n origin cause pos : Nat) :
    (s.freezeRing n origin cause pos).mem = s.mem := rfl

@[simp] theorem State.escalate_mem (s : State) (cause : Nat) (tval : DWord) : (s.escalate cause tval).mem = s.mem := by
  unfold State.escalate
  simp only []
  split <;> simp [State.trigger_mem]

theorem State.dueTrap_wf {s : State} (h : Memory.wf s.mem) : Memory.wf s.dueTrap.mem := by
  unfold State.dueTrap
  grind [takeTrap_wf, State.setCrew_mem]

theorem State.inScope_wf {s : State} (h : Memory.wf s.mem) : Memory.wf s.inScope.mem := by
  unfold State.inScope
  exact State.settleScopes_wf h ..

@[simp] theorem State.focus_mem (s : State) (core slot : Nat) : (s.focus core slot).mem = s.mem := rfl

@[simp] theorem State.parkFor_mem (s : State) (m : Mask) (fetch : Bool) (xs : List LaneXlat) :
    (s.parkFor m fetch xs).mem = s.mem := rfl

theorem State.fetchWord_wf {s : State} (h : Memory.wf s.mem) (core cn va : Nat) (loc : Loc) :
    Memory.wf (s.fetchWord core cn va loc).2.mem := by
  unfold State.fetchWord
  grind [State.request_wf, State.mapCore_mem, State.takeFree_mem]

@[simp] theorem State.noteIssue_mem (s : State) (key : Nat) (c : Crew) (os : List Opnd) :
    (s.noteIssue key c os).mem = s.mem := by
  unfold State.noteIssue
  simp

@[simp] theorem State.countIssue_mem (s : State) (key : Nat) (c : Crew) (i : Instr) :
    (s.countIssue key c i).mem = s.mem := by
  unfold State.countIssue
  repeat' split
  all_goals simp [apply_ite State.mem]

@[simp] theorem State.sampleBranch_mem (s : State) (target : PcWord) : (s.sampleBranch target).mem = s.mem := by
  unfold State.sampleBranch
  split <;> simp

@[simp] theorem State.signTarget_mem (s : State) (target : PcWord) : (s.signTarget target).mem = s.mem := rfl

@[simp] theorem State.takenBranch_mem (s : State) (target : PcWord) : (s.takenBranch target).mem = s.mem := by
  unfold State.takenBranch
  simp

@[simp] theorem State.flowFar_mem (s : State) (target : Option PcWord) : (s.flowFar target).mem = s.mem := by
  unfold State.flowFar
  split <;> simp

@[simp] theorem State.flowCall_mem (s : State) (target : Option PcWord) : (s.flowCall target).mem = s.mem := by
  unfold State.flowCall
  split <;> simp

theorem State.flowCond_wf {s : State} (h : Memory.wf s.mem) (target : Option PcWord) :
    Memory.wf (s.flowCond target).mem := by
  unfold State.flowCond
  grind [State.takenBranch_mem, State.traceBranch_wf]

theorem State.flowReg_wf {s : State} (h : Memory.wf s.mem) (target : Option PcWord) : Memory.wf (s.flowReg target).mem := by
  unfold State.flowReg
  grind [State.signTarget_mem, State.packet_wf]

theorem State.flowSplit_wf {s : State} (h : Memory.wf s.mem) (paths : Nat) (target : Option PcWord) :
    Memory.wf (s.flowSplit paths target).mem := by
  unfold State.flowSplit
  grind [State.traceBranch_wf, State.mapCrew_mem, State.packet_wf]

theorem State.poppedPath_wf {s : State} (h : Memory.wf s.mem) : Memory.wf s.poppedPath.mem := by
  unfold State.poppedPath
  grind [State.packet_wf, State.mapCrew_mem]

theorem State.flowJoin_wf {s : State} (h : Memory.wf s.mem) (paths : Nat) (target : Option PcWord) :
    Memory.wf (s.flowJoin paths target).mem := by
  unfold State.flowJoin
  grind [State.poppedPath_wf, State.mapCrew_mem, State.packet_wf]

theorem State.flowExit_wf {s : State} (h : Memory.wf s.mem) (target : Option PcWord) :
    Memory.wf (s.flowExit target).mem := by
  unfold State.flowExit
  grind [State.poppedPath_wf, State.packet_wf]

theorem State.flowReturn_wf {s : State} (h : Memory.wf s.mem) (paths : Nat) (target : Option PcWord) :
    Memory.wf (s.flowReturn paths target).mem := by
  unfold State.flowReturn
  grind [State.recordCrew_mem, State.packet_wf, State.poppedPath_wf]

@[simp] theorem State.flowFence_mem (s : State) (pc : PcWord) (kind scope : Nat) :
    (s.flowFence pc kind scope).mem = s.mem := by
  unfold State.flowFence
  split <;> simp

theorem State.flowOf_wf {s : State} (h : Memory.wf s.mem) (k : Flow) (c : Crew) (target : Option PcWord) :
    Memory.wf (State.flowOf k c target s).mem := by
  unfold State.flowOf
  grind [State.flowFar_mem, State.flowCall_mem, State.flowCond_wf, State.flowReg_wf, State.flowSplit_wf,
    State.flowJoin_wf, State.flowExit_wf, State.flowReturn_wf, State.flowFence_mem]

@[simp] theorem State.noteReplay_mem (s : State) (k : Nat) (c : Crew) : (s.noteReplay k c).mem = s.mem := by
  unfold State.noteReplay
  split <;> simp

theorem execBrdiv_canonical {s : State} (h : Memory.wf s.mem) (d : BitVec 3) (i : BitVec 16) :
    Canonical (execBrdiv d i s) := by
  unfold execBrdiv
  refine Canonical.issue h (fun t ht => ?_)
  simp only []
  repeat' split
  all_goals simpa using ht

theorem execRcwait_canonical {s : State} (h : Memory.wf s.mem) (a : BitVec 3) : Canonical (execRcwait a s) := by
  unfold execRcwait
  refine Canonical.issue h (fun t ht => ?_)
  simp only []
  repeat' split
  all_goals simpa using ht

@[simp] theorem jumpTo_mem (s : State) (t : DWord) (f : Crew → Crew) : (jumpTo s t f).state.mem = s.mem := by
  unfold jumpTo
  split <;> simp [Res.state]

theorem execCall_canonical {s : State} (h : Memory.wf s.mem) (o : BitVec 24) : Canonical (execCall o s) := by
  unfold execCall
  refine Canonical.issue h (fun t ht => ?_)
  simpa using ht

theorem execCallr_canonical {s : State} (h : Memory.wf s.mem) (d a : BitVec 8) : Canonical (execCallr d a s) := by
  unfold execCallr
  refine Canonical.issue h (fun t ht => ?_)
  simpa using ht

theorem execRet_canonical {s : State} (h : Memory.wf s.mem) (a : BitVec 8) : Canonical (execRet a s) := by
  unfold execRet
  refine Canonical.issue h (fun t ht => ?_)
  simpa using ht

theorem execJmpr_canonical {s : State} (h : Memory.wf s.mem) (a : BitVec 8) : Canonical (execJmpr a s) := by
  unfold execJmpr
  refine Canonical.issue h (fun t ht => ?_)
  simpa using ht

@[simp] theorem State.stopSink_mem (s : State) (j : Job) : (s.stopSink j).mem = s.mem := by
  unfold State.stopSink
  grind

@[simp] theorem State.cancelJob_mem (s : State) (core : Nat) (j : Job) : (s.cancelJob core j).mem = s.mem := by
  unfold State.cancelJob
  repeat' split
  all_goals simp [State.abortByProgram_mem, State.mapJob_mem]

theorem State.completeJob_wf {s : State} (h : Memory.wf s.mem) (core : Nat) (j : Job) (value : Nat) :
    Memory.wf (s.completeJob core j value).mem := by
  unfold State.completeJob
  grind [State.mapCore_mem, State.dropMacro_mem, State.writeBack_wf, State.countEvent_mem, State.setCrewAt_mem]

theorem State.cancelStreams_wf {s : State} (h : Memory.wf s.mem) (key : Nat) : Memory.wf (s.cancelStreams key).mem := by
  have hc : Memory.wf ((s.ownStreams key).foldl (fun s j => s.cancelJob (key / 64) j) s).mem := by
    rw [State.foldl_mem _ (fun s j => State.cancelJob_mem s _ j)]
    exact h
  unfold State.cancelStreams
  have hj := State.foldl_wf (fun s j => match j.result with | some v => s.completeJob (key / 64) j v | none => s)
    (fun s j hs => by
      split
      · exact State.completeJob_wf hs ..
      · exact hs) (((s.ownStreams key).foldl (fun s j => s.cancelJob (key / 64) j) s).ownStreams key) _ hc
  simp only []
  split
  · exact hj
  · refine Memory.wf_ite hj ?_
    rw [State.mapCore_mem, State.setCrewAt_mem]
    exact hj

theorem State.settleCrew_wf {s : State} (h : Memory.wf s.mem) : Memory.wf s.settleCrew.mem := by
  unfold State.settleCrew
  grind [State.perform_wf, State.broadcastThrough_mem]

theorem retireBody_wf {s : State} (h : Memory.wf s.mem) {note : State → State}
    (hn : ∀ t, Memory.wf t.mem → Memory.wf (note t).mem) : Memory.wf (retireBody note s).state.mem := by
  have hc := State.cancelStreams_wf h s.fkey
  have hs := State.settleCrew_wf hc
  exact Res.wf_ite (Res.wf_hold hc) (Res.wf_ite (Res.wf_hold hs) (Res.wf_gone (State.retireCrew_wf (hn _ hs) ..)))

theorem vectorAccess_wf {s : State} (h : Memory.wf s.mem) {size : Nat} {need : Need} {isLoad : Bool} {lanes : List
    (Nat × Nat)}
    {act : State → List LaneXlat → State} (hact : ∀ t xs, Memory.wf t.mem → Memory.wf (act t xs).mem) :
    Memory.wf (vectorAccess s size need isLoad lanes act).state.mem := by
  unfold vectorAccess
  split
  · next e => exact State.wf_of_classify h e
  · next e => exact hact _ _ (State.wf_of_classify h e)
  · next e => simpa using hact _ _ (State.wf_of_classify h e)

@[simp] theorem State.enterPend_mem (s : State) (p : Pend) : (s.enterPend p).mem = s.mem := by
  unfold State.enterPend
  split <;> simp

theorem vectorAccess_mem {s : State} {size : Nat} {need : Need} {isLoad : Bool} {lanes : List (Nat × Nat)}
    {act : State → List LaneXlat → State} (hact : ∀ t xs, (act t xs).mem = t.mem) :
    (vectorAccess s size need isLoad lanes act).state.mem = s.mem := by
  have hc := s.classify_mem s.focusCore (some s.fkey) s.crew.ctx size need isLoad lanes
  unfold vectorAccess
  split
  all_goals
    next e =>
      rw [e] at hc
      simpa [hact] using hc

@[simp] theorem loadBody_mem (d size : Nat) (lanes : Crew → List (Nat × Nat)) (s : State) :
    (loadBody d size lanes s).state.mem = s.mem := vectorAccess_mem (fun _ _ => State.enterPend_mem ..)

theorem execLdb_canonical {s : State} (h : Memory.wf s.mem) (d a i : BitVec 8) : Canonical (execLdb d a i s) := by
  unfold execLdb
  refine Canonical.issue h (fun t ht => ?_)
  simpa using ht

theorem execLdh_canonical {s : State} (h : Memory.wf s.mem) (d a i : BitVec 8) : Canonical (execLdh d a i s) := by
  unfold execLdh
  refine Canonical.issue h (fun t ht => ?_)
  simpa using ht

theorem execLdw_canonical {s : State} (h : Memory.wf s.mem) (d a i : BitVec 8) : Canonical (execLdw d a i s) := by
  unfold execLdw
  refine Canonical.issue h (fun t ht => ?_)
  simpa using ht

theorem execLdd_canonical {s : State} (h : Memory.wf s.mem) (d a i : BitVec 8) : Canonical (execLdd d a i s) := by
  unfold execLdd
  refine Canonical.issue h (fun t ht => ?_)
  simpa using ht

theorem execLdq_canonical {s : State} (h : Memory.wf s.mem) (d a i : BitVec 8) : Canonical (execLdq d a i s) := by
  unfold execLdq
  refine Canonical.issue h (fun t ht => ?_)
  simpa using ht

@[simp] theorem storeBody_mem (d size : Nat) (lanes : Crew → List (Nat × Nat)) (s : State) :
    (storeBody d size lanes s).state.mem = s.mem := vectorAccess_mem (fun _ _ => State.enterPend_mem ..)

theorem execStb_canonical {s : State} (h : Memory.wf s.mem) (d a i : BitVec 8) : Canonical (execStb d a i s) := by
  unfold execStb
  refine Canonical.issue h (fun t ht => ?_)
  simpa using ht

theorem execSth_canonical {s : State} (h : Memory.wf s.mem) (d a i : BitVec 8) : Canonical (execSth d a i s) := by
  unfold execSth
  refine Canonical.issue h (fun t ht => ?_)
  simpa using ht

theorem execStw_canonical {s : State} (h : Memory.wf s.mem) (d a i : BitVec 8) : Canonical (execStw d a i s) := by
  unfold execStw
  refine Canonical.issue h (fun t ht => ?_)
  simpa using ht

theorem execStd_canonical {s : State} (h : Memory.wf s.mem) (d a i : BitVec 8) : Canonical (execStd d a i s) := by
  unfold execStd
  refine Canonical.issue h (fun t ht => ?_)
  simpa using ht

theorem execStq_canonical {s : State} (h : Memory.wf s.mem) (d a i : BitVec 8) : Canonical (execStq d a i s) := by
  unfold execStq
  refine Canonical.issue h (fun t ht => ?_)
  simpa using ht

theorem execLdx_canonical {s : State} (h : Memory.wf s.mem) (d a b : BitVec 8) : Canonical (execLdx d a b s) := by
  unfold execLdx
  refine Canonical.issue h (fun t ht => ?_)
  simpa using ht

theorem execStx_canonical {s : State} (h : Memory.wf s.mem) (d a b : BitVec 8) : Canonical (execStx d a b s) := by
  unfold execStx
  refine Canonical.issue h (fun t ht => ?_)
  simpa using ht

theorem scalarAccess_wf {s : State} (h : Memory.wf s.mem) {size : Nat} {need : Need} {isLoad : Bool} {va : DWord}
    {act : State → LaneXlat → Res} (hact : ∀ t x, Memory.wf t.mem → Memory.wf (act t x).state.mem) :
    Memory.wf (scalarAccess s size need isLoad va act).state.mem := by
  unfold scalarAccess
  split
  · next e => exact State.wf_of_classify h e
  · next e => exact hact _ _ (State.wf_of_classify h e)
  · next e => simpa using State.wf_of_classify h e

theorem scalarAccess_mem {s : State} {size : Nat} {need : Need} {isLoad : Bool} {va : DWord} {act : State → LaneXlat → Res}
    (hact : ∀ t x, (act t x).state.mem = t.mem) : (scalarAccess s size need isLoad va act).state.mem = s.mem := by
  have hc := s.classify_mem s.focusCore none s.crew.ctx size need isLoad [(0, va.toNat)]
  unfold scalarAccess
  split
  all_goals
    next e =>
      rw [e] at hc
      simpa [hact] using hc

@[simp] theorem scalarLoadBody_mem (d a size : Nat) (i : BitVec 8) (s : State) :
    (scalarLoadBody d a size i s).state.mem = s.mem :=
  scalarAccess_mem (fun _ _ => State.enterPend_mem ..)

theorem execSld_canonical {s : State} (h : Memory.wf s.mem) (d a i : BitVec 8) : Canonical (execSld d a i s) := by
  unfold execSld
  refine Canonical.issue h (fun t ht => ?_)
  simpa using ht

theorem execSld64_canonical {s : State} (h : Memory.wf s.mem) (d a i : BitVec 8) : Canonical (execSld64 d a i s) := by
  unfold execSld64
  refine Canonical.issue h (fun t ht => ?_)
  simpa using ht

@[simp] theorem scalarStoreBody_mem (d a size : Nat) (i : BitVec 8) (s : State) :
    (scalarStoreBody d a size i s).state.mem = s.mem :=
  scalarAccess_mem (fun _ _ => State.enterPend_mem ..)

theorem execSst_canonical {s : State} (h : Memory.wf s.mem) (d a i : BitVec 8) : Canonical (execSst d a i s) := by
  unfold execSst
  refine Canonical.issue h (fun t ht => ?_)
  simpa using ht

theorem execSst64_canonical {s : State} (h : Memory.wf s.mem) (d a i : BitVec 8) : Canonical (execSst64 d a i s) := by
  unfold execSst64
  refine Canonical.issue h (fun t ht => ?_)
  simpa using ht

@[simp] theorem State.loseRange_mem (s : State) (cn : Nat) (r : Range) (runs : List (Nat × Nat)) (revoked : Bool) :
    (s.loseRange cn r runs revoked).mem = s.mem := rfl

theorem execL2unpin_canonical {s : State} (h : Memory.wf s.mem) (a : BitVec 8) : Canonical (execL2unpin a s) := by
  unfold execL2unpin
  refine Canonical.issue h (fun t ht => ?_)
  simp only []
  repeat' split
  all_goals simpa using ht

theorem execPagehintMigrate_canonical {s : State} (h : Memory.wf s.mem) (a b : BitVec 8) :
    Canonical (execPagehintMigrate a b s) := by
  unfold execPagehintMigrate
  refine Canonical.issue h (fun t ht => ?_)
  simp only []
  split <;> simpa using ht

theorem execPagehintClear_canonical {s : State} (h : Memory.wf s.mem) (a b : BitVec 8) :
    Canonical (execPagehintClear a b s) := by
  unfold execPagehintClear
  refine Canonical.issue h (fun t ht => ?_)
  simp only []
  split <;> simpa using ht

theorem execProbe_canonical {s : State} (h : Memory.wf s.mem) (d a : BitVec 8) : Canonical (execProbe d a s) := by
  unfold execProbe
  refine Canonical.issue h (fun t ht => ?_)
  simpa using ht

@[simp] theorem State.dropLines_mem (s : State) (runs : List (Nat × Nat)) : (s.dropLines runs).mem = s.mem := rfl

theorem fenceBody_wf {s : State} (h : Memory.wf s.mem) (kind scope : Nat) :
    Memory.wf (fenceBody kind scope s).state.mem := by
  unfold fenceBody
  extract_lets acq rel t
  have ht : Memory.wf t.mem := Memory.wf_ite (State.release_wf h ..) h
  exact Res.wf_ite (Res.wf_hold h) (Res.wf_done (Memory.wf_ite (State.acquire_wf ht ..) ht))

theorem execFence_canonical {s : State} (h : Memory.wf s.mem) (k : BitVec 2) (c : BitVec 3) :
    Canonical (execFence k c s) := by
  unfold execFence
  refine Canonical.issue h (fun t ht => ?_)
  exact fenceBody_wf ht ..

theorem State.performNow_wf {s : State} (h : Memory.wf s.mem) (p : Pend) : Memory.wf (s.performNow p).mem := by
  unfold State.performNow
  grind [State.performAll_wf, State.perform_wf]

theorem atomicBody_wf {s : State} (h : Memory.wf s.mem) (op d a b : Nat) : Memory.wf (atomicBody op d a b s).state.mem := by
  unfold atomicBody
  extract_lets c k aord ty z isRel t float drawing kind
  have ht : Memory.wf t.mem := Memory.wf_ite (by simpa using State.release_wf h ..) h
  clear_value t
  refine Res.wf_ite (Res.wf_hold h) ?_
  generalize hx : vectorAccess t z .both true (c.laneAddrs a 0) _ = v
  have hv : Memory.wf v.state.mem := by
    rw [← hx]
    refine vectorAccess_wf ht (fun u xs hu => ?_)
    have hg : ∀ f, Memory.wf (if drawing = true then u.mapCrew f else u).mem := fun f => Memory.wf_ite (by simpa using hu) hu
    exact Memory.wf_ite (State.performNow_wf (hg _) _) (by simpa using hg _)
  cases v with
  | done u => exact Res.wf_done (Memory.wf_ite (by simpa using hv) hv)
  | _ => exact hv

theorem execAadd_canonical {s : State} (h : Memory.wf s.mem) (d a b : BitVec 8) : Canonical (execAadd d a b s) := by
  unfold execAadd
  refine Canonical.issue h (fun t ht => ?_)
  exact atomicBody_wf ht ..

theorem execAmin_canonical {s : State} (h : Memory.wf s.mem) (d a b : BitVec 8) : Canonical (execAmin d a b s) := by
  unfold execAmin
  refine Canonical.issue h (fun t ht => ?_)
  exact atomicBody_wf ht ..

theorem execAmax_canonical {s : State} (h : Memory.wf s.mem) (d a b : BitVec 8) : Canonical (execAmax d a b s) := by
  unfold execAmax
  refine Canonical.issue h (fun t ht => ?_)
  exact atomicBody_wf ht ..

theorem execAand_canonical {s : State} (h : Memory.wf s.mem) (d a b : BitVec 8) : Canonical (execAand d a b s) := by
  unfold execAand
  refine Canonical.issue h (fun t ht => ?_)
  exact atomicBody_wf ht ..

theorem execAor_canonical {s : State} (h : Memory.wf s.mem) (d a b : BitVec 8) : Canonical (execAor d a b s) := by
  unfold execAor
  refine Canonical.issue h (fun t ht => ?_)
  exact atomicBody_wf ht ..

theorem execAxor_canonical {s : State} (h : Memory.wf s.mem) (d a b : BitVec 8) : Canonical (execAxor d a b s) := by
  unfold execAxor
  refine Canonical.issue h (fun t ht => ?_)
  exact atomicBody_wf ht ..

theorem execAxchg_canonical {s : State} (h : Memory.wf s.mem) (d a b : BitVec 8) : Canonical (execAxchg d a b s) := by
  unfold execAxchg
  refine Canonical.issue h (fun t ht => ?_)
  exact atomicBody_wf ht ..

theorem execAcas_canonical {s : State} (h : Memory.wf s.mem) (d a b : BitVec 8) : Canonical (execAcas d a b s) := by
  unfold execAcas
  refine Canonical.issue h (fun t ht => ?_)
  exact atomicBody_wf ht ..

theorem execAinc_canonical {s : State} (h : Memory.wf s.mem) (d a b : BitVec 8) : Canonical (execAinc d a b s) := by
  unfold execAinc
  refine Canonical.issue h (fun t ht => ?_)
  exact atomicBody_wf ht ..

theorem execAdec_canonical {s : State} (h : Memory.wf s.mem) (d a b : BitVec 8) : Canonical (execAdec d a b s) := by
  unfold execAdec
  refine Canonical.issue h (fun t ht => ?_)
  exact atomicBody_wf ht ..

theorem awaitBody_wf {s : State} (h : Memory.wf s.mem) (d a b : BitVec 8) : Memory.wf (awaitBody d a b s).state.mem := by
  unfold awaitBody
  extract_lets c k deadline t
  have ht : Memory.wf t.mem := by simpa [t] using h
  clear_value t
  refine scalarAccess_wf ht (fun u x hu => ?_)
  extract_lets p v
  have hv : Memory.wf v.mem := State.perform_wf hu ..
  clear_value v
  split
  next e =>
  have hw := Memory.wf_snd e (by simpa using State.request_wf (State.settleScopes_wf hv ..) ..)
  extract_lets fin
  have hfin : ∀ st, Memory.wf (fin st).state.mem := fun st => Res.wf_done (Memory.wf_ite (by simpa using hw) (by simpa using hw))
  exact Res.wf_ite (hfin 0) (Res.wf_ite (hfin 1) (Res.wf_hold hw))

theorem execAwait_canonical {s : State} (h : Memory.wf s.mem) (d a b : BitVec 8) : Canonical (execAwait d a b s) := by
  unfold execAwait
  refine Canonical.issue h (fun t ht => ?_)
  exact awaitBody_wf ht ..

theorem State.observeAll_wf {s : State} (h : Memory.wf s.mem) : Memory.wf s.observeAll.mem := by
  unfold State.observeAll
  exact Memory.wf_ite h (State.foldl_wf _ (fun _ _ hs => State.acquire_wf hs ..) _ _ (by simpa using h))

theorem State.readLines_wf (xs : List LaneXlat) : ∀ {s : State} (_ : Memory.wf s.mem) (m : SMap Nat),
    Memory.wf (s.readLines m xs).2.mem := by
  induction xs with
  | nil => exact fun h _ => h
  | cons x xs ih =>
    intro s h m
    unfold State.readLines
    simp only []
    split
    · exact ih h _
    · refine ih ?_ _
      have hr := State.readPlain_mem s s.focusCore ⟨x.loc.idx / 128 * 128, x.loc.cached⟩ 128
      split <;> split <;> first | exact State.request_wf (by simpa [hr] using h) .. | simpa [hr] using h

theorem State.plainRead_wf {s : State} (h : Memory.wf s.mem) (xs : List LaneXlat) : Memory.wf (s.plainRead xs).2.mem := by
  unfold State.plainRead
  grind [State.readLines_wf, State.perform_wf]

theorem structRead_wf {s : State} (h : Memory.wf s.mem) {va : DWord} {n align : Nat} {act : State → Nat → Res}
    (hact : ∀ t x, Memory.wf t.mem → Memory.wf (act t x).state.mem) : Memory.wf (structRead s va n align act).state.mem := by
  unfold structRead
  split
  · exact h
  · split
    · next e => exact State.wf_of_classify h e
    · next e => exact hact _ _ (State.plainRead_wf (State.wf_of_classify h e) _)
    · next e => simpa using State.wf_of_classify h e

theorem enterJob_wf {s : State}
    (h : Memory.wf s.mem) {kind : JobKind} {card : Nat} {cardVa : DWord} {token pos : Nat} {bad : Bool}
    {aux : List Nat} {deadline : Option Nat} {act : State → Nat → State}
    (hact : ∀ t id, Memory.wf t.mem → Memory.wf (act t id).mem) :
    Memory.wf (enterJob s kind card cardVa token pos bad aux deadline act).state.mem := by
  unfold enterJob
  simp only []
  split
  · exact h
  · exact hact _ _ (by simpa using h)

@[simp] theorem State.sendBoth_mem (s : State) (core slot who task cn : Nat) (xs ys : List LaneXlat) :
    (s.sendBoth core slot who task cn xs ys).mem = s.mem := by
  unfold State.sendBoth
  simp

@[simp] theorem State.parkOnBoth_mem (s : State) (xs ys : List LaneXlat) : (s.parkOnBoth xs ys).mem = s.mem := by
  unfold State.parkOnBoth
  simp

theorem copyBody_wf {s : State} (h : Memory.wf s.mem) (d a : Nat) (off : Crew → Option Nat) :
    Memory.wf (copyBody d a off s).state.mem := by
  unfold copyBody
  refine structRead_wf h (fun t card ht => ?_)
  extract_lets o len bad enter cn
  have henter : ∀ u : State, Memory.wf u.mem → Memory.wf (enter u).state.mem := fun u hu => enterJob_wf hu (fun _ _ h => h)
  refine Res.wf_ite (henter t ht) ?_
  split
  next e =>
  have hu := Memory.wf_snd e (by simpa using ht)
  split
  next e =>
  have hv := Memory.wf_snd e (by simpa using hu)
  exact Res.wf_ite (henter _ hv) (Res.wf_hold (by simpa using hv))

theorem execCopy_canonical {s : State} (h : Memory.wf s.mem) (d a : BitVec 8) : Canonical (execCopy d a s) := by
  unfold execCopy
  refine Canonical.issue h (fun t ht => ?_)
  exact copyBody_wf ht ..

theorem execCopyr_canonical {s : State} (h : Memory.wf s.mem) (d a b : BitVec 8) : Canonical (execCopyr d a b s) := by
  unfold execCopyr
  refine Canonical.issue h (fun t ht => ?_)
  exact copyBody_wf ht ..

@[simp] theorem State.freshSink_mem (s : State) (key : Nat) : (s.freshSink key).mem = s.mem := by
  unfold State.freshSink
  simp

theorem execPop_canonical {s : State} (h : Memory.wf s.mem) (d : BitVec 8) (q : BitVec 2) : Canonical (execPop d q s) := by
  unfold execPop
  refine Canonical.issue h (fun t ht => ?_)
  simp only []
  repeat' split
  all_goals simpa using ht

theorem execStrmbar_canonical {s : State} (h : Memory.wf s.mem) (a b : BitVec 8) : Canonical (execStrmbar a b s) := by
  unfold execStrmbar
  refine Canonical.issue h (fun t ht => ?_)
  split <;> simpa using ht

theorem execJobcan_canonical {s : State} (h : Memory.wf s.mem) (a : BitVec 8) : Canonical (execJobcan a s) := by
  unfold execJobcan
  refine Canonical.issue h (fun t ht => ?_)
  split <;> simpa using ht

theorem execMload_canonical {s : State} (h : Memory.wf s.mem) (d a : BitVec 8) (m : BitVec 3) :
    Canonical (execMload d a m s) := by
  unfold execMload
  refine Canonical.issue h (fun t ht => ?_)
  refine structRead_wf ht (fun u x hu => ?_)
  grind [structRead_wf, enterJob_wf]

theorem mmaBlock_wf {s : State} (h : Memory.wf s.mem) {va : DWord} {f : State → Nat → Res}
    (hf : ∀ t x, Memory.wf t.mem → Memory.wf (f t x).state.mem) : Memory.wf (mmaBlock s va f).state.mem := by
  unfold mmaBlock
  split
  · exact hf _ _ h
  · exact structRead_wf h hf

@[simp] theorem State.settleTile_mem (s : State) (t : Nat) : (s.settleTile t).mem = s.mem := by
  unfold State.settleTile
  simp only []
  split <;> simp

theorem onTile_wf {s : State} (h : Memory.wf s.mem) {t : Nat} {f : State → Res}
    (hf : ∀ u, Memory.wf u.mem → Memory.wf (f u).state.mem) : Memory.wf (onTile s t f).state.mem := by
  have ht : Memory.wf (s.settleTile t).mem := by simpa using h
  unfold onTile
  simp only []
  split
  · exact ht
  · exact hf _ ht

theorem execMzero_canonical {s : State} (h : Memory.wf s.mem) (t : BitVec 3) : Canonical (execMzero t s) := by
  unfold execMzero
  refine Canonical.issue h (fun t ht => ?_)
  refine onTile_wf ht (fun u hu => ?_)
  simpa using hu

theorem execMread_canonical {s : State} (h : Memory.wf s.mem) (d : BitVec 8) (t : BitVec 3) (c : BitVec 8) :
    Canonical (execMread d t c s) := by
  unfold execMread
  refine Canonical.issue h (fun t ht => ?_)
  refine onTile_wf ht (fun u hu => ?_)
  simp only []
  split <;> simpa using hu

theorem execMflags_canonical {s : State} (h : Memory.wf s.mem) (d : BitVec 8) (t : BitVec 3) :
    Canonical (execMflags d t s) := by
  unfold execMflags
  refine Canonical.issue h (fun t ht => ?_)
  refine onTile_wf ht (fun u hu => ?_)
  simpa using hu

theorem State.requests_wf {s : State} (h : Memory.wf s.mem) (core cn : Nat) (xs : List LaneXlat) :
    Memory.wf (s.requests core cn xs).mem := by
  refine State.foldl_wf_fst _ (fun a x ha => ?_) xs (s, []) h
  split
  · exact ha
  · exact State.request_wf ha ..

theorem State.pocRead_wf {s : State} (h : Memory.wf s.mem) (xs : List LaneXlat) : Memory.wf (s.pocRead xs).mem := by
  unfold State.pocRead
  grind [State.perform_wf, State.requests_wf, State.leaveL1_mem]

theorem crewReader_keeps : crewReader.Keeps := by
  refine fun va n => ⟨fun s h => ?_⟩
  unfold crewReader
  split
  · next e => exact State.wf_of_classify h e
  · next e => exact State.pocRead_wf (State.wf_of_classify h e) _
  · next e => exact State.wf_of_classify h e

theorem readSections_keeps {rd : Reader} (hr : rd.Keeps) (base : Nat) (g : GramHeader) : (readSections rd base g).Keeps :=
  Chk.keeps_bind (Chk.keeps_foldlM (fun _ _ => Chk.keeps_bind (hr _ _) (fun _ =>
    Chk.keeps_bind (Chk.keeps_need _ _) (fun _ => Chk.keeps_pure _))) _ _)
    (fun _ => Chk.keeps_bind (Chk.keeps_need _ _) (fun _ => Chk.keeps_pure _))

theorem checkCap_keeps (nvec i : Nat) (x : Sect) : (checkCap nvec i x).Keeps := Chk.keeps_need _ _

theorem checkTerminals_keeps {rd : Reader} (hr : rd.Keeps) (base : Nat) (g : GramHeader) :
    (checkTerminals rd base g).Keeps :=
  Chk.keeps_forM (fun _ => Chk.keeps_bind (hr _ _) (fun _ => Chk.keeps_need _ _)) _

theorem checkSymbols_keeps {rd : Reader} (hr : rd.Keeps) (base : Nat) (g : GramHeader) (off len lo hi : Nat)
    (order : Nat → Stop) :
    (checkSymbols rd base g off len lo hi order).Keeps :=
  Chk.keeps_foldlM (fun _ _ => Chk.keeps_bind (hr _ _) (fun _ => Chk.keeps_bind (Chk.keeps_need _ _) (fun _ =>
    Chk.keeps_bind (Chk.keeps_need _ _) (fun _ => Chk.keeps_pure _)))) _ _

theorem readRule_keeps {rd : Reader} (hr : rd.Keeps) (base : Nat) (g : GramHeader) (i : Nat) (x : Sect) (r : Nat) :
    (readRule rd base g i x r).Keeps :=
  Chk.keeps_bind (hr _ _) (fun _ => Chk.keeps_bind (Chk.keeps_need _ _) (fun _ =>
    Chk.keeps_bind (checkSymbols_keeps hr ..) (fun _ => Chk.keeps_pure _)))

theorem readRow_keeps {rd : Reader} (hr : rd.Keeps) (base : Nat) (g : GramHeader) (i : Nat) (x : Sect) (w : Nat) :
    (readRow rd base g i x w).Keeps :=
  Chk.keeps_bind (hr _ _) (fun _ => Chk.keeps_bind (Chk.keeps_need _ _) (fun _ => checkSymbols_keeps hr ..))

theorem checkSection_keeps {rd : Reader} (hr : rd.Keeps) (base : Nat) (g : GramHeader) (full : Bool) (i : Nat) (x : Sect) :
    (checkSection rd base g full i x).Keeps :=
  Chk.keeps_bind (Chk.keeps_foldlM (fun _ _ => Chk.keeps_bind (readRule_keeps hr ..) (fun _ =>
    Chk.keeps_bind (Chk.keeps_need _ _) (fun _ => Chk.keeps_pure _))) _ _)
    (fun _ => Chk.keeps_forM (fun _ => Chk.keeps_bind (readRow_keeps hr ..) (fun _ => Chk.keeps_pure _)) _)

theorem validateObject_keeps (base : Nat) : (validateObject base).Keeps := by
  refine Chk.keeps_bind (crewReader_keeps _ _) (fun x => ?_)
  split
  · exact Chk.keeps_stop _
  · simp only []
    split
    · exact Chk.keeps_stop _
    · exact Chk.keeps_bind (readSections_keeps crewReader_keeps ..) (fun _ =>
        Chk.keeps_bind (Chk.keeps_forM (fun _ => checkCap_keeps ..) _) (fun _ =>
        Chk.keeps_bind (checkTerminals_keeps crewReader_keeps ..) (fun _ =>
        Chk.keeps_bind (Chk.keeps_forM (fun _ => checkSection_keeps crewReader_keeps ..) _) (fun _ => Chk.keeps_pure _))))

@[simp] theorem stopAtIssue_mem (s : State) (d : Nat) (clear : Bool) (e : Stop) :
    (stopAtIssue s d clear e).state.mem = s.mem := by
  cases e <;> simp [stopAtIssue]

theorem gbindBody_wf {s : State} (h : Memory.wf s.mem) (d a : Nat) : Memory.wf (gbindBody d a s).state.mem := by
  have hv := (validateObject_keeps (s.crew.getSS a).toNat).wf s h
  unfold gbindBody
  refine Res.wf_ite h ?_
  split
  · next e => rw [e] at hv; simpa using hv
  · next e => rw [e] at hv; simpa using hv

theorem execGbind_canonical {s : State} (h : Memory.wf s.mem) (d a : BitVec 8) : Canonical (execGbind d a s) := by
  unfold execGbind
  refine Canonical.issue h (fun t ht => ?_)
  exact gbindBody_wf ht ..

theorem capAtIssue_keeps (b : Binding) (nvec : Nat) : (capAtIssue b nvec).Keeps := by
  refine Chk.keeps_bind (Chk.keeps_foldlM (fun acc i => ?_) _ _) (fun r => ?_)
  · cases acc with
    | some x => exact Chk.keeps_pure _
    | none => exact Chk.keeps_bind (crewReader_keeps _ _) (fun e => Chk.keeps_ite (Chk.keeps_pure _) (Chk.keeps_pure _))
  · cases r with
    | some x => exact Chk.keeps_pure _
    | none => exact ⟨fun _ h => h⟩

theorem grunBody_wf {s : State} (h : Memory.wf s.mem) (d a : Nat) : Memory.wf (grunBody d a s).state.mem := by
  unfold grunBody
  simp only []
  refine structRead_wf h (fun t card ht => ?_)
  have he : ∀ pos bad aux, Memory.wf (enterJob t .grun card (s.crew.getSS a) d pos bad aux none (fun s _ => s)).state.mem :=
    fun _ _ _ => enterJob_wf ht (fun _ _ hu => hu)
  split
  · exact he ..
  · next b _ =>
    refine Res.wf_ite (he ..) (Res.wf_ite ?_ (he ..))
    have hk := (capAtIssue_keeps b (fld card 2 1)).wf t ht
    split
    · next e => rw [e] at hk; simpa using hk
    · next e => rw [e] at hk; simpa using hk

theorem execGrun_canonical {s : State} (h : Memory.wf s.mem) (d a : BitVec 8) : Canonical (execGrun d a s) := by
  unfold execGrun
  refine Canonical.issue h (fun t ht => ?_)
  exact grunBody_wf ht ..

theorem execGstat_canonical {s : State} (h : Memory.wf s.mem) (d a sel : BitVec 8) : Canonical (execGstat d a sel s) := by
  unfold execGstat
  refine Canonical.issue h (fun t ht => ?_)
  simpa using ht

theorem spentBody_wf {s : State} (h : Memory.wf s.mem) (d a b : Nat) (word : DWord) :
    Memory.wf (spentBody d a b word s).state.mem := by
  unfold spentBody
  simp only []
  split
  · exact h
  · split
    · exact h
    · exact structRead_wf h (fun t _ ht => structRead_wf ht (fun u _ hu => by simpa using hu))

theorem execSpent_canonical {s : State} (h : Memory.wf s.mem) (d a b : BitVec 8) : Canonical (execSpent d a b s) := by
  unfold execSpent
  refine Canonical.issue h (fun t ht => ?_)
  exact spentBody_wf ht ..

theorem State.storeCompletion_wf {s : State} (h : Memory.wf s.mem) (k : Nat) : Memory.wf (s.storeCompletion k).mem := by
  unfold State.storeCompletion
  split
  · exact h
  · simp only []
    split
    · exact h
    · simpa using h
    · split
      · simpa using h
      · split
        · next e =>
          have ht := Memory.wf_snd e (by simpa using h)
          rw [State.mapRegion_mem]
          refine State.request_wf (State.writeAt_wf ?_ ..) ..
          split
          · exact State.foldl_wf _ (fun _ _ hs => State.writeBack_wf hs ..) _ _ ht
          · exact ht
        · next e => simpa using Memory.wf_snd e (by simpa using h)
        · next e => simpa using Memory.wf_snd e (by simpa using h)

@[simp] theorem State.finishWaiting_mem (s : State) (k : Nat) (f : Crew → Crew) : (s.finishWaiting k f).mem = s.mem := by
  unfold State.finishWaiting
  split <;> simp

@[simp] theorem State.endTakes_mem (s : State) (hs : List Nat) : (s.endTakes hs).mem = s.mem := by
  refine State.foldl_mem _ (fun s k => ?_) hs s
  split <;> simp

theorem State.leaveRegion_wf {s : State} (h : Memory.wf s.mem) (k : Nat) (r : Region) :
    Memory.wf (s.leaveRegion k r).mem := by
  refine State.foldl_wf _ (fun _ _ hs => State.acquire_wf hs ..) _ _ ?_
  rw [State.mapCrewAt_mem, State.endTakes_mem]
  exact State.packet_wf (by simpa using h) ..

theorem spexitBody_wf {s : State} (h : Memory.wf s.mem) (d : BitVec 8) : Memory.wf (spexitBody d s).state.mem := by
  unfold spexitBody
  simp only []
  split
  · exact h
  · next r _ =>
    refine Res.wf_ite (by simpa using h) ?_
    have hw : Memory.wf (if r.complete ∨ r.withOp 0x31 ≠ [] then s else s.storeCompletion s.fkey).mem :=
      Memory.wf_ite h (State.storeCompletion_wf h _)
    split
    · exact hw
    · exact Res.wf_ite (by simpa using hw) (by simpa using State.leaveRegion_wf hw ..)

theorem execSpexit_canonical {s : State} (h : Memory.wf s.mem) (d : BitVec 8) : Canonical (execSpexit d s) := by
  unfold execSpexit
  refine Canonical.issue h (fun t ht => ?_)
  exact spexitBody_wf ht ..

theorem spwaitBody_wf {s : State} (h : Memory.wf s.mem) (d a : BitVec 8) : Memory.wf (spwaitBody d a s).state.mem := by
  unfold spwaitBody
  simp only []
  split
  · simpa using h
  · split
    · simpa using State.acquire_wf (by simpa using h) ..
    · split <;> simpa using h

theorem execSpwait_canonical {s : State} (h : Memory.wf s.mem) (d a : BitVec 8) : Canonical (execSpwait d a s) := by
  unfold execSpwait
  refine Canonical.issue h (fun t ht => ?_)
  exact spwaitBody_wf ht ..

theorem inRegion_wf {s : State} (h : Memory.wf s.mem) {f : Nat → Region → Res} (hf : ∀ k r, Memory.wf (f k r).state.mem) :
    Memory.wf (inRegion s f).state.mem := by
  unfold inRegion
  split
  · exact h
  · exact hf _ _

@[simp] theorem State.setSlot_mem (s : State) (k ci sl : Nat) (x : SpSlot) : (s.setSlot k ci sl x).mem = s.mem := by
  unfold State.setSlot
  simp

theorem execEcw_canonical {s : State} (h : Memory.wf s.mem) (a b : BitVec 8) : Canonical (execEcw a b s) := by
  unfold execEcw
  refine Canonical.issue h (fun t ht => ?_)
  refine inRegion_wf ht (fun k r => ?_)
  simp only []
  repeat' split
  all_goals simpa using ht

theorem execTmark_canonical {s : State} (h : Memory.wf s.mem) (d : BitVec 8) : Canonical (execTmark d s) := by
  unfold execTmark
  refine Canonical.issue h (fun t ht => ?_)
  refine inRegion_wf ht (fun k r => ?_)
  split <;> simpa using ht

theorem execSpinj_canonical {s : State} (h : Memory.wf s.mem) (a b : BitVec 8) : Canonical (execSpinj a b s) := by
  unfold execSpinj
  refine Canonical.issue h (fun t ht => ?_)
  refine inRegion_wf ht (fun k r => ?_)
  simp only []
  repeat' split
  all_goals simpa using ht

theorem execSptake_canonical {s : State} (h : Memory.wf s.mem) (d : BitVec 8) : Canonical (execSptake d s) := by
  unfold execSptake
  refine Canonical.issue h (fun t ht => ?_)
  refine inRegion_wf ht (fun k r => ?_)
  simp only []
  split <;> simpa using ht

@[simp] theorem State.endStop_mem (s : State) (k cause : Nat) : (s.endStop k cause).mem = s.mem := by
  unfold State.endStop
  split <;> simp [State.foldl_mem, apply_ite State.mem]

theorem execSpstopEnd_canonical {s : State} (h : Memory.wf s.mem) : Canonical (execSpstopEnd s) := by
  unfold execSpstopEnd
  refine Canonical.issue h (fun t ht => ?_)
  refine inRegion_wf ht (fun k r => ?_)
  simpa using ht

theorem execSpstopHold_canonical {s : State} (h : Memory.wf s.mem) : Canonical (execSpstopHold s) := by
  unfold execSpstopHold
  refine Canonical.issue h (fun t ht => ?_)
  refine inRegion_wf ht (fun k r => ?_)
  split <;> simpa using ht

theorem execSpstopQuiet_canonical {s : State} (h : Memory.wf s.mem) : Canonical (execSpstopQuiet s) := by
  unfold execSpstopQuiet
  refine Canonical.issue h (fun t ht => ?_)
  refine inRegion_wf ht (fun k r => ?_)
  split <;> simpa using ht

theorem execSpstopRelease_canonical {s : State} (h : Memory.wf s.mem) : Canonical (execSpstopRelease s) := by
  unfold execSpstopRelease
  refine Canonical.issue h (fun t ht => ?_)
  refine inRegion_wf ht (fun k r => ?_)
  split <;> simpa using ht

theorem execSpstat_canonical {s : State} (h : Memory.wf s.mem) (d a sel : BitVec 8) : Canonical (execSpstat d a sel s) := by
  unfold execSpstat
  refine Canonical.issue h (fun t ht => ?_)
  refine inRegion_wf ht (fun k r => ?_)
  simp only []
  repeat' split
  all_goals simpa using ht

@[simp] theorem State.newTaskNumber_mem (s : State) : s.newTaskNumber.2.mem = s.mem := rfl

@[simp] theorem State.enterLaunch_mem (s : State) (cn die h : Nat) : (s.enterLaunch cn die h).2.mem = s.mem := by
  unfold State.enterLaunch
  grind [State.newTaskNumber_mem, State.mapDie_mem]

theorem State.writeRecord_wf {s : State} (h : Memory.wf s.mem) (core off : Nat) (c : Crew) (kind carry operand : Nat)
    (addr : DWord) :
    Memory.wf (s.writeRecord core off c kind carry operand addr).mem :=
  State.foldl_wf _ (fun _ _ hs => State.setBytes_wf _ _ _ hs) _ _ (State.setBytes_wf _ _ _ h)

theorem State.endPhase_wf {s : State} (h : Memory.wf s.mem) (kind carry operand : Nat) (addr : DWord)
    (depth bar : Nat) : Memory.wf (s.endPhase kind carry operand addr depth bar).mem := by
  unfold State.endPhase
  grind [State.release_wf, State.writeRecord_wf, State.recordForeman_mem, State.dropCrew_mem, State.packet_wf,
    State.mapTask_mem]

theorem phendBody_wf {s : State}
    (h : Memory.wf s.mem) {word : DWord} {kind carry operand depth bar : Nat} {addr : Crew → DWord}
    {check : State → (State → Res) → Res}
    (hc : ∀ t f, Memory.wf t.mem → (∀ u, Memory.wf u.mem → Memory.wf (f u).state.mem) → Memory.wf (check t f).state.mem) :
    Memory.wf (phendBody word kind carry operand depth bar addr check s).state.mem := by
  unfold phendBody
  simp only []
  split
  · exact h
  · split
    · exact h
    · refine hc _ _ h (fun t ht => ?_)
      have hs := State.cancelStreams_wf ht t.fkey
      have hw := State.settleCrew_wf hs
      exact Res.wf_ite (Res.wf_hold hs) (Res.wf_ite (Res.wf_hold hw) (Res.wf_gone (State.endPhase_wf hw ..)))

theorem execPhendNone_canonical {s : State} (h : Memory.wf s.mem) (c : BitVec 4) : Canonical (execPhendNone c s) := by
  unfold execPhendNone
  refine Canonical.issue h (fun t ht => ?_)
  grind [phendBody_wf]

theorem execPhendBar_canonical {s : State} (h : Memory.wf s.mem) (c b : BitVec 4) : Canonical (execPhendBar c b s) := by
  unfold execPhendBar
  refine Canonical.issue h (fun t ht => ?_)
  grind [phendBody_wf]

theorem State.settleQueue_wf {s : State} (h : Memory.wf s.mem) (i q : Nat) (need : Need) :
    Memory.wf (s.settleQueue i q need).mem := by
  unfold State.settleQueue
  exact State.perform_wf h ..

theorem onQueue_wf {s : State} (h : Memory.wf s.mem) {a q : Nat} {need : Need} {f : State → Nat → Res}
    (hf : ∀ t i, Memory.wf t.mem → Memory.wf (f t i).state.mem) : Memory.wf (onQueue s a q need f).state.mem := by
  unfold onQueue
  simp only []
  split
  · exact h
  · split
    · exact State.settleQueue_wf h ..
    · exact hf _ _ (State.settleQueue_wf h ..)

theorem execPhendWord_canonical {s : State} (h : Memory.wf s.mem) (c : BitVec 4) (p : BitVec 6) :
    Canonical (execPhendWord c p s) := by
  unfold execPhendWord
  refine Canonical.issue h (fun t ht => ?_)
  grind [phendBody_wf, scalarAccess_wf]

theorem execBufget_canonical {s : State} (h : Memory.wf s.mem) (d a : BitVec 8) : Canonical (execBufget d a s) := by
  unfold execBufget
  refine Canonical.issue h (fun t ht => ?_)
  simp only []
  repeat' split
  all_goals simpa using ht

theorem execBufdrop_canonical {s : State} (h : Memory.wf s.mem) (a : BitVec 8) : Canonical (execBufdrop a s) := by
  unfold execBufdrop
  refine Canonical.issue h (fun t ht => ?_)
  simp only []
  repeat' split
  all_goals simpa using ht

theorem execQlen_canonical {s : State} (h : Memory.wf s.mem) (d a : BitVec 8) (l : BitVec 4) :
    Canonical (execQlen d a l s) := by
  unfold execQlen
  refine Canonical.issue h (fun t ht => ?_)
  refine onQueue_wf ht (fun u i hu => ?_)
  simpa using hu

theorem execSweep_canonical {s : State} (h : Memory.wf s.mem) (d a : BitVec 8) (l : BitVec 4) :
    Canonical (execSweep d a l s) := by
  unfold execSweep
  refine Canonical.issue h (fun t ht => ?_)
  refine onQueue_wf ht (fun u i hu => ?_)
  simp only []
  repeat' split
  all_goals simpa using hu

theorem execEstim_canonical {s : State} (h : Memory.wf s.mem) (a : BitVec 8) : Canonical (execEstim a s) := by
  unfold execEstim
  refine Canonical.issue h (fun t ht => ?_)
  simpa using ht

theorem execWidfld_canonical {s : State} (h : Memory.wf s.mem) (d : BitVec 8) (k : BitVec 3) :
    Canonical (execWidfld d k s) := by
  unfold execWidfld
  refine Canonical.issue h (fun t ht => ?_)
  simpa using ht

theorem execQfence_canonical {s : State} (h : Memory.wf s.mem) : Canonical (execQfence s) := by
  unfold execQfence
  refine Canonical.issue h (fun t ht => ?_)
  simpa using ht

theorem rangeCheck_wf {s : State} (h : Memory.wf s.mem) {va n : Nat} {load : Bool} {act : State → List LaneXlat → Res}
    (hact : ∀ t xs, Memory.wf t.mem → Memory.wf (act t xs).state.mem) : Memory.wf (rangeCheck s va n load act).state.mem := by
  unfold rangeCheck
  split
  · next e => exact State.wf_of_classify h e
  · next e => exact hact _ _ (State.wf_of_classify h e)
  · next e => simpa using State.wf_of_classify h e

theorem State.sprout_wf {s : State} (h : Memory.wf s.mem) (c : Coppice) (d : Nat) (share : Option Nat) :
    Memory.wf (s.sprout c d share).mem := by
  unfold State.sprout
  extract_lets p task c s1 s2 s3 s4 s5 s6
  have h2 : Memory.wf s2.mem :=
    State.foldl_wf _ (fun _ _ hs => State.writeSib_wf (by simpa using hs) ..) _ _ (by simpa [s1] using h)
  have h6 : Memory.wf s6.mem := by
    simpa [s6] using State.unitWrite_wf (State.unitWrite_wf (State.unitWrite_wf h2 ..) ..) ..
  split
  · exact h6
  · simpa using h6

theorem rewardArrives_wf {s : State} (h : Memory.wf s.mem) (carry : Nat) (r : Word) :
    Memory.wf (rewardArrives carry r s).state.mem := by
  unfold rewardArrives
  extract_lets c va t
  have ht : Memory.wf t.mem := State.expireCoppice_wf h ..
  clear_value t
  split
  · exact ht
  · refine Res.wf_ite (Res.wf_ite ht ?_) (Res.wf_ite ?_ ht)
    · exact Res.wf_gone (State.checkCoppice_wf (State.endPhase_wf (State.writeSib_wf (by simpa using ht) ..) ..) ..)
    · exact Res.wf_done (State.writeSib_wf (by simpa using ht) ..)

theorem execCpadv_canonical {s : State} (h : Memory.wf s.mem) (d : BitVec 8) : Canonical (execCpadv d s) := by
  unfold execCpadv
  refine Canonical.issue h (fun t ht => ?_)
  simp only []
  split <;> simpa using ht

@[simp] theorem formRaft_mem (s : State) (d desc : Nat) (table : List Nat) :
    (formRaft d desc table s).state.mem = s.mem := by
  unfold formRaft
  extract_lets c kind self put k key t same found
  refine (Res.mem_ite rfl ?_)
  clear_value found
  cases found with
  | none => rfl
  | some e => simp [State.sendRaft_mem]

@[simp] theorem State.sendJoin_mem (s : State) (r : Raft) (k : Nat) (failed : List Nat) (drop : Nat) :
    (s.sendJoin r k failed drop).mem = s.mem := by
  unfold State.sendJoin
  simp [State.sendRaft_mem]

theorem collectiveBody_wf {s : State} (h : Memory.wf s.mem) (op d a : Nat) :
    Memory.wf (collectiveBody op d a s).state.mem := by
  unfold collectiveBody
  refine structRead_wf h (fun t card ht => ?_)
  extract_lets hd enter
  have henter : ∀ (u : State) bad aux (act : State → Nat → State), Memory.wf u.mem → (∀ v id, (act v id).mem = v.mem) →
      Memory.wf (enter u bad aux act).state.mem := fun u bad aux act hu hact => enterJob_wf hu (fun v id hv => by simpa [hact] using hv)
  clear_value enter
  split
  · exact henter _ _ _ _ ht (fun _ _ => rfl)
  · refine Res.wf_ite (henter _ _ _ _ ht (fun _ _ => by rw [State.keepWord_mem]))
      (Res.wf_ite (henter _ _ _ _ ht (fun _ _ => by rw [State.keepWord_mem, State.mapJob_mem])) ?_)
    extract_lets
    split
    next e =>
    have hu := Memory.wf_snd e (by simpa using ht)
    split
    next e =>
    have hv := Memory.wf_snd e (by simpa using hu)
    exact Res.wf_ite (henter _ _ _ _ hv (fun _ _ => rfl)) (Res.wf_hold (by simpa using hv))

theorem execCar_canonical {s : State} (h : Memory.wf s.mem) (d a : BitVec 8) : Canonical (execCar d a s) := by
  unfold execCar
  refine Canonical.issue h (fun t ht => ?_)
  exact collectiveBody_wf ht ..

theorem execCag_canonical {s : State} (h : Memory.wf s.mem) (d a : BitVec 8) : Canonical (execCag d a s) := by
  unfold execCag
  refine Canonical.issue h (fun t ht => ?_)
  exact collectiveBody_wf ht ..

theorem execCrs_canonical {s : State} (h : Memory.wf s.mem) (d a : BitVec 8) : Canonical (execCrs d a s) := by
  unfold execCrs
  refine Canonical.issue h (fun t ht => ?_)
  exact collectiveBody_wf ht ..

theorem execCbc_canonical {s : State} (h : Memory.wf s.mem) (d a : BitVec 8) : Canonical (execCbc d a s) := by
  unfold execCbc
  refine Canonical.issue h (fun t ht => ?_)
  exact collectiveBody_wf ht ..

theorem execCa2a_canonical {s : State} (h : Memory.wf s.mem) (d a : BitVec 8) : Canonical (execCa2a d a s) := by
  unfold execCa2a
  refine Canonical.issue h (fun t ht => ?_)
  exact collectiveBody_wf ht ..

theorem execCbar_canonical {s : State} (h : Memory.wf s.mem) (d a : BitVec 8) : Canonical (execCbar d a s) := by
  unfold execCbar
  refine Canonical.issue h (fun t ht => ?_)
  exact collectiveBody_wf ht ..

theorem execCstat_canonical {s : State} (h : Memory.wf s.mem) (d a sel : BitVec 8) : Canonical (execCstat d a sel s) := by
  unfold execCstat
  refine Canonical.issue h (fun t ht => ?_)
  simp only []
  repeat' split
  all_goals simpa using ht

@[simp] theorem State.sendData_mem (s : State) (r : Raft) (typ src dst seq : Nat) (params data scales : List Nat) :
    (s.sendData r typ src dst seq params data scales).mem = s.mem := by
  unfold State.sendData
  split <;> simp [State.sendRaft_mem]

theorem remoteBody_wf {s : State} (h : Memory.wf s.mem) (get : Bool) (d a b : Nat) :
    Memory.wf (remoteBody get d a b s).state.mem := by
  have hp : Memory.wf (if get = true then s else s.perform s.fkey (fun p => p.kind.isLoad)).mem := by
    split
    · exact h
    · exact State.perform_wf h ..
  unfold remoteBody
  simp only []
  split
  · exact h
  · split
    · exact h
    · split
      · exact h
      · split
        · exact hp
        · split
          · simpa using hp
          · rw [Res.state_done, State.enterPend_mem, State.mapCore_mem, State.foldl_mem _ (fun s b => State.sendData_mem ..)]
            exact hp

theorem execRput_canonical {s : State} (h : Memory.wf s.mem) (d a b : BitVec 8) : Canonical (execRput d a b s) := by
  unfold execRput
  refine Canonical.issue h (fun t ht => ?_)
  exact remoteBody_wf ht ..

theorem execRget_canonical {s : State} (h : Memory.wf s.mem) (d a b : BitVec 8) : Canonical (execRget d a b s) := by
  unfold execRget
  refine Canonical.issue h (fun t ht => ?_)
  exact remoteBody_wf ht ..

theorem execTrap_canonical {s : State} (h : Memory.wf s.mem) (i : BitVec 16) : Canonical (execTrap i s) := by
  unfold execTrap
  refine Canonical.issue h (fun t ht => ?_)
  simpa using ht

theorem execSread_canonical {s : State} (h : Memory.wf s.mem) (d : BitVec 8) (i : BitVec 16) :
    Canonical (execSread d i s) := by
  unfold execSread
  refine Canonical.issue h (fun t ht => ?_)
  simp only []
  split <;> simpa using ht

theorem State.revokeUnmapped_wf {s : State} (h : Memory.wf s.mem) (kind cn va : Nat) :
    Memory.wf (s.revokeUnmapped kind cn va).mem := by
  refine State.foldl_wf _ (fun s c hs => State.foldl_wf _ (fun s m hs => ?_) _ _ hs) _ _
    (State.foldl_wf _ (fun s d hs => State.foldl_wf _ (fun s p hs => ?_) _ _ hs) _ _ h)
  · split
    · simpa using State.writeBack_wf (State.settlePool_wf hs ..) ..
    · exact hs
  · split
    · simpa using hs
    · exact hs

@[simp] theorem State.noteLacks_mem (s : State) (k : Nat) (t : State) : (s.noteLacks k t).mem = t.mem := by
  unfold State.noteLacks
  split <;> simp

theorem State.memoryReply_wf {s : State} (h : Memory.wf s.mem) (core entry : Nat) :
    Memory.wf (s.memoryReply core entry).mem := by
  unfold State.memoryReply
  grind [State.mapCore_mem, State.readBypass_mem, State.request_wf, State.settleScopes_wf, State.noteLacks_mem,
    State.mapRegion_mem, State.setSlot_mem]

theorem State.landReplies_wf {s : State} (h : Memory.wf s.mem) (core : Nat) (p : MemReply → Bool) :
    Memory.wf (s.landReplies core p).mem :=
  State.foldl_wf _ (fun _ _ hs => State.memoryReply_wf hs ..) _ _ h

theorem State.settleTouched_wf {s : State} (h : Memory.wf s.mem) (kind cn va : Nat) :
    Memory.wf (s.settleTouched kind cn va).mem :=
  State.foldl_wf _ (fun _ _ hs => State.landReplies_wf hs ..) _ _
    (State.foldl_wf _ (fun _ _ hs => State.perform_wf hs ..) _ _ h)

@[simp] theorem State.sweepTlbs_mem (s : State) (kind cn va : Nat) : (s.sweepTlbs kind cn va).mem = s.mem := rfl

theorem State.tlbi_wf {s : State} (h : Memory.wf s.mem) (kind cn va : Nat) : Memory.wf (s.tlbi kind cn va).mem := by
  unfold State.tlbi
  grind [State.revokeUnmapped_wf, State.settleTouched_wf, State.sweepTlbs_mem]

@[simp] theorem State.haltCrew_mem (s : State) (pc : PcWord) (brk : Bool) : (s.haltCrew pc brk).mem = s.mem := rfl

theorem execBrk_canonical {s : State} (h : Memory.wf s.mem) (i : BitVec 16) : Canonical (execBrk i s) := by
  unfold execBrk
  refine Canonical.issue h (fun t ht => ?_)
  split <;> simpa using ht

theorem execMark_canonical {s : State} (h : Memory.wf s.mem) (d : BitVec 8) (i : BitVec 16) :
    Canonical (execMark d i s) := by
  unfold execMark
  refine Canonical.issue h (fun t ht => ?_)
  simpa using ht

theorem State.traceStart_wf {s : State} (h : Memory.wf s.mem) (k : Nat) : Memory.wf (s.traceStart k).mem := by
  unfold State.traceStart
  grind [State.packet_wf]

theorem State.armTrace_wf {s : State} (h : Memory.wf s.mem) (va size : Nat) : Memory.wf (s.armTrace va size).mem := by
  refine State.foldl_wf _ (fun _ _ hs => State.traceStart_wf hs ..) _ _ ?_
  rw [State.mapCtx_mem]
  exact State.unitWrite_wf (State.perform_wf h ..) ..

@[simp] theorem State.advanceCounter_mem (s : State) (core k : Nat) : (s.advanceCounter core k).mem = s.mem := by
  unfold State.advanceCounter
  split <;> simp

theorem State.countedLines_wf {s : State} (h : Memory.wf s.mem) (core k : Nat) : Memory.wf (s.countedLines core k).mem := by
  unfold State.countedLines
  grind [State.perform_wf]

theorem execHalt_canonical {s : State} (h : Memory.wf s.mem) : Canonical (execHalt s) := by
  unfold execHalt
  refine Canonical.issue h (fun t ht => ?_)
  split <;> simpa using ht

theorem execClock_canonical {s : State} (h : Memory.wf s.mem) (d : BitVec 8) : Canonical (execClock d s) := by
  unfold execClock
  refine Canonical.issue h (fun t ht => ?_)
  simpa using ht

theorem State.trapDue_wf {s : State} (h : Memory.wf s.mem) (key : Nat) : Memory.wf (s.trapDue key).mem := by
  unfold State.trapDue
  grind [takeTrap_wf, State.setCrew_mem]

theorem State.settleAt_wf {s : State} (h : Memory.wf s.mem) (key : Nat) : Memory.wf (s.settleAt key).mem := by
  unfold State.settleAt
  grind [State.broadcastThrough_mem, State.perform_wf]

@[simp] theorem State.abandonSpent_mem (s : State) (k : Nat) : (s.abandonSpent k).mem = s.mem := by
  unfold State.abandonSpent
  simp [State.abandonSpents_mem]

theorem rangePlaces_wf {s : State} (h : Memory.wf s.mem) {va n align : Nat} {need : Need} {act : State → List LaneXlat → Res}
    (hact : ∀ t xs, Memory.wf t.mem → Memory.wf (act t xs).state.mem) : Memory.wf (rangePlaces s va n align need act).state.mem := by
  unfold rangePlaces
  split
  · exact h
  · split
    · next e => exact State.wf_of_classify h e
    · next e => exact hact _ _ (State.wf_of_classify h e)
    · next e => simpa using State.wf_of_classify h e

theorem State.storeBytesAt_wf {s : State} (h : Memory.wf s.mem) (xs : List LaneXlat) (bytes : List Nat) :
    Memory.wf (s.storeBytesAt xs bytes).mem := by
  unfold State.storeBytesAt
  rw [State.mapCore_mem]
  exact State.foldl_wf _ (fun _ _ hs => State.setByte_wf hs ..) _ _ (State.requests_wf (State.perform_wf h ..) ..)

@[simp] theorem State.suspendJobs_mem (s : State) (key : Nat) : (State.suspendJobs s key).2.2.mem = s.mem := rfl

@[simp] theorem State.keepArea_mem (s : State) (key : Nat) (c : Crew) (bytes : Nat) (js : List Job)
    (bars : List StreamBar) : (s.keepArea key c bytes js bars).mem = s.mem := rfl

theorem State.unbindSaved_wf {s : State} (h : Memory.wf s.mem) (key tag : Nat) : Memory.wf (s.unbindSaved key tag).mem := by
  unfold State.unbindSaved
  grind [State.dropCrew_mem, State.packet_wf]

theorem saveBody_wf {s : State} (h : Memory.wf s.mem) (va key : Nat) {put : State → Nat → Res}
    (hput : ∀ t x, Memory.wf t.mem → Memory.wf (put t x).state.mem) : Memory.wf (saveBody va key put s).state.mem := by
  unfold saveBody
  simp only []
  refine rangePlaces_wf (State.trapDue_wf (State.settleAt_wf (by simpa [State.abandonSpent, State.abandonSpents_mem] using h) _) _) (fun t xs ht => ?_)
  refine hput _ _ ?_
  rw [State.mapTask_mem]
  refine State.unbindSaved_wf ?_ ..
  simpa using State.release_wf (State.storeBytesAt_wf ht ..) ..

@[simp] theorem State.checkGen_mem (s : State) (core entry gen : Nat) : (s.checkGen core entry gen).mem = s.mem := by
  unfold State.checkGen
  split <;> simp

@[simp] theorem State.restoreRegion_mem (s : State) (r : Region) (key : Nat) : (s.restoreRegion r key).mem = s.mem := rfl

@[simp] theorem State.resumeStreams_mem (s : State) (core key : Nat) (c : Crew) (js : List Job)
    (bars : List StreamBar) (same : Bool) : (s.resumeStreams core key c js bars same).2.mem = s.mem := rfl

@[simp] theorem State.enterSlot_mem (s : State) (key : Nat) (c : Crew) (recVa : Nat) :
    (s.enterSlot key c recVa).mem = s.mem := rfl

theorem State.resumeCoppice_wf {s : State} (h : Memory.wf s.mem) (c : Crew) : Memory.wf (s.resumeCoppice c).mem := by
  unfold State.resumeCoppice
  grind [State.unitWrite_wf, State.putCoppice_mem]

theorem State.restoreArea_wf {s : State} (h : Memory.wf s.mem) (t : Task) (bytes core slot rbase off : Nat)
    (saved : Option SavedArea) :
    Memory.wf (s.restoreArea t bytes core slot rbase off saved).mem := by
  unfold State.restoreArea
  extract_lets key tag c0 c s1
  split
  next skids js _ =>
  extract_lets depth s2 entries base s3 s4
  have h3 : Memory.wf s3.mem := State.foldl_wf _ (fun _ _ hs => by simpa using hs) _ _ (by simpa [s1, s2] using h)
  have h4 : Memory.wf s4.mem := by
    unfold s4
    cases saved.bind SavedArea.region with
    | none => exact h3
    | some r => simpa using h3
  split
  next c' s5 e =>
  have h5 : Memory.wf s5.mem := Memory.wf_snd e (by simpa using h4)
  extract_lets s6
  split
  extract_lets s7 s8
  exact State.traceStart_wf (by simpa using State.resumeCoppice_wf (by simpa [s6, s7, s8] using h5) c') key

theorem restoreBody_wf {s : State} (h : Memory.wf s.mem) {hd bytes slot rbase : Nat} {put : State → Nat → Res}
    (hput : ∀ t x, Memory.wf t.mem → Memory.wf (put t x).state.mem) : Memory.wf (restoreBody hd bytes slot rbase put s).state.mem := by
  unfold restoreBody
  extract_lets core tn saved t home
  refine Res.wf_ite (hput _ _ h) ?_
  split
  · exact h
  · split
    · exact h
    · exact Res.wf_ite (hput _ _ (State.restoreArea_wf h ..)) h

theorem execUndef_canonical {s : State} (h : Memory.wf s.mem) (u : BitVec 24) : Canonical (execUndef u s) := by
  unfold execUndef
  refine Canonical.issue h (fun t ht => ?_)
  simpa using ht

theorem execReservedOpcode_canonical {s : State} (h : Memory.wf s.mem) (w : BitVec 32) :
    Canonical (execReservedOpcode w s) := by
  unfold execReservedOpcode
  refine Canonical.issue h (fun t ht => ?_)
  exact takeTrap_wf ht ..

theorem State.fired_wf {s : State} {f : State → Option State} (hf : ∀ t ∈ f s, Memory.wf t.mem) :
    ∀ t ∈ s.fired f, Memory.wf t.mem := by
  unfold State.fired
  rw [Option.forall_mem_map]
  intro t ht
  simpa using hf t ht

theorem Canonical.fireOp {s : State} (h : Memory.wf s.mem) (w : Word) {f : State → Option State}
    (hf : ∀ t ∈ f s, Memory.wf t.mem) : Canonical (fireOp w s f) :=
  .next (Memory.wf_ite (Memory.wf_getD h (State.fired_wf hf)) h)

@[simp] theorem State.loseTime_mem (s : State) (k ci sl : Nat) : (s.loseTime k ci sl).mem = s.mem := by
  unfold State.loseTime
  split <;> simp [apply_ite State.mem]

theorem State.applyFire_mem (s : State) (k ci sl : Nat) (f : Firing) : ∀ t ∈ s.applyFire k ci sl f, t.mem = s.mem := by
  unfold State.applyFire
  split
  · simp
  · split <;> simp

/-- An operator that fires by a rule of its own state leaves memory alone. -/
theorem fireBy_mem (s : State) (f : SpSlot → Nat → Nat → Option Firing) : ∀ t ∈ fireBy s f, t.mem = s.mem := by
  unfold fireBy
  split
  · simp
  · simp only [Option.mem_def, Option.bind_eq_some_iff]
    rintro t ⟨g, -, ht⟩
    exact State.applyFire_mem _ _ _ _ _ t ht

theorem srcFire_mem (s : State) : ∀ t ∈ srcFire s, t.mem = s.mem := by
  unfold srcFire
  split
  · simp
  · simp only []
    split
    · exact State.applyFire_mem _ _ _ _ _
    · split
      · simp
      · split
        · simp
        · split
          · simp
          · rw [Option.forall_mem_map]
            intro t ht
            rw [State.mapJob_mem, State.applyFire_mem _ _ _ _ _ t ht]

@[simp] theorem State.firedSink_mem (s : State) (k ci sl : Nat) : (s.firedSink k ci sl).mem = s.mem := by
  unfold State.firedSink
  split <;> simp

@[simp] theorem State.engineClassify_mem (s : State) (core task cn : Nat) (srcs dsts : List Nat) :
    (State.engineClassify s core task cn srcs dsts).2.2.2.mem = s.mem := by
  unfold State.engineClassify
  simp only []
  split <;> simp

theorem State.engineWrite_wf {s : State} (h : Memory.wf s.mem) (core cn : Nat) (ys : List LaneXlat) (bytes : List Nat) :
    Memory.wf (s.engineWrite core cn ys bytes).mem :=
  State.requests_wf (State.foldl_wf _ (fun _ _ hs => State.writeAt_wf hs ..) _ _ (State.settleScopes_wf h ..)) ..

theorem State.sinkTok_wf {s : State} (h : Memory.wf s.mem) (k ci sl : Nat) (x : SpSlot) (t : Tok) :
    Memory.wf (s.sinkTok k ci sl x t).mem := by
  unfold State.sinkTok
  grind [State.mapRegion_mem, State.setSlot_mem, State.mapJob_mem, State.engineClassify_mem, State.stopSink_mem,
    State.engineWrite_wf]

theorem snkFire_wf {s : State} (h : Memory.wf s.mem) : ∀ t ∈ snkFire s, Memory.wf t.mem := by
  unfold snkFire
  grind [State.firedSink_mem, State.sinkTok_wf]

@[simp] theorem State.memGo_mem (s : State) (core cn : Nat) (x : SpSlot) (va : Nat) (need : Need) :
    (s.memGo core cn x va need).2.mem = s.mem := by
  unfold State.memGo
  grind [State.xlate_mem]

@[simp] theorem State.holdSlot_mem (s : State) (k ci sl core cn : Nat) (x : SpSlot) (need : Need) (a : LaneXlat) :
    (s.holdSlot k ci sl core cn x need a).mem = s.mem := by
  unfold State.holdSlot
  simp

theorem State.memResult_mem (s : State) (k ci sl : Nat) (x : SpSlot) (tok : Tok) (tide : Bool) :
    ∀ t ∈ s.memResult k ci sl x tok tide, t.mem = s.mem := by
  unfold State.memResult
  split
  · exact State.applyFire_mem _ _ _ _ _
  · split
    · simp
    · split
      · simp
      · split <;> simp

theorem memldFire_mem (s : State) : ∀ t ∈ memldFire s, t.mem = s.mem := by
  unfold memldFire
  split
  · simp
  · next k r ci x _ =>
    simp only []
    split
    · simp
    · next v _ _ =>
      have hm := State.memGo_mem s s.focusCore r.ctx x (x.cfg.memVa v) .read
      split
      · simp
      · next e => rw [e] at hm; simpa using hm
      · next e => rw [e] at hm; exact hm ▸ State.memResult_mem _ _ _ _ _ _ _
      · next e =>
        rw [e] at hm
        split
        · simp
        · simpa using hm
    · exact State.memResult_mem _ _ _ _ _ _ _

theorem memstFire_wf {s : State} (h : Memory.wf s.mem) : ∀ t ∈ memstFire s, Memory.wf t.mem := by
  unfold memstFire
  split
  · simp
  · next k r ci x _ =>
    extract_lets sl take bad
    have htake : ∀ {u : State} y, Memory.wf u.mem → ∀ t ∈ take u y, Memory.wf t.mem := by
      rintro u y hu t ⟨⟩
      simpa using hu
    have hbad : ∀ {u : State} y os, Memory.wf u.mem → ∀ t ∈ bad u y os, Memory.wf t.mem := fun y os hu =>
      htake y (by simpa using hu)
    split
    · next v _ _ _ _ _ =>
      extract_lets va
      have hm : Memory.wf (s.memGo s.focusCore r.ctx x va .write).2.mem := by simpa using h
      split
      · simp
      · next e =>
        rintro t ⟨⟩
        simpa using Memory.wf_snd e hm
      · next e => exact hbad _ _ (Memory.wf_snd e hm)
      · next e => exact htake _ (State.request_wf (State.writeAt_wf (Memory.wf_snd e hm) ..) ..)
    · extract_lets m ps
      split
      · exact hbad _ _ h
      · split
        · rintro t ⟨⟩
          simpa using h
        · exact htake _ h
    · simp

@[simp] theorem exitxFire_mem (s : State) : ∀ t ∈ exitxFire s, t.mem = s.mem := by
  unfold exitxFire
  repeat' split
  all_goals simp [State.foldl_mem, apply_ite State.mem]

@[simp] theorem edgetxFire_mem (s : State) : ∀ t ∈ edgetxFire s, t.mem = s.mem := by
  unfold edgetxFire
  repeat' split
  all_goals simp

theorem execLoadComplete_canonical {s : State} (h : Memory.wf s.mem) (core slot entry : Nat) (lanes : BitVec 64) :
    Canonical (execLoadComplete core slot entry lanes s) := by
  unfold execLoadComplete
  refine Canonical.next ?_
  exact State.completeLanes_wf h ..

theorem execStoreComplete_canonical {s : State} (h : Memory.wf s.mem) (core slot entry : Nat) (lanes : BitVec 64) :
    Canonical (execStoreComplete core slot entry lanes s) := by
  unfold execStoreComplete
  refine Canonical.next ?_
  exact State.completeLanes_wf h ..

@[simp] theorem State.unstall_mem (s : State) (key : Nat) : (s.unstall key).mem = s.mem := by
  unfold State.unstall
  simp

@[simp] theorem State.focusOn_mem (s : State) (core slot : Nat) : (s.focusOn core slot).mem = s.mem := rfl

theorem execReplay_canonical {s : State} (h : Memory.wf s.mem) (core slot : Nat) : Canonical (execReplay core slot s) := by
  unfold execReplay
  refine Canonical.next ?_
  grind [State.unstall_mem, State.setCrew_mem, State.focusOn_mem, takeTrap_wf]

@[simp] theorem State.admitFaults_mem (s : State) (die : Nat) : (s.admitFaults die).mem = s.mem := by
  unfold State.admitFaults
  simp [State.foldl_mem, apply_ite State.mem]

theorem State.answerPage_wf {s : State} (h : Memory.wf s.mem) (cn va answer : Nat) :
    Memory.wf (s.answerPage cn va answer).mem := by
  unfold State.answerPage
  extract_lets region s1 mine ds s2
  exact Memory.wf_ite (State.foldl_wf _ (fun _ _ hs => State.storeDone_wf hs ..) ds s2 h) h

theorem State.answerFault_wf {s : State} (h : Memory.wf s.mem) (die : Nat) (r : FaultRec) (answer : Nat) :
    Memory.wf (s.answerFault die r answer).mem := by
  refine State.answerPage_wf ?_ ..
  rw [State.mapDie_mem, State.foldl_mem _ (fun s q => State.recordFault_mem s q answer)]
  exact h

@[simp] theorem State.checkLow_mem (s : State) (die : Nat) : (s.checkLow die).mem = s.mem := by
  unfold State.checkLow
  simp only []
  split <;> simp

@[simp] theorem State.takePage_mem (s : State) (die : Nat) : ∀ t ∈ State.takePage s die, t.2.mem = s.mem := by
  unfold State.takePage
  split <;> simp

@[simp] theorem State.passFault_mem (s : State) (die i : Nat) (r : FaultRec) : (s.passFault die i r).mem = s.mem := rfl

theorem State.firstTouch_wf {s : State} (h : Memory.wf s.mem) (die i : Nat) (r : FaultRec) (pte e : Nat) :
    Memory.wf (s.firstTouch die i r pte e).mem := by
  unfold State.firstTouch
  extract_lets hint src
  have ht := State.takePage_mem s src
  split
  · simpa using h
  · next he => exact State.answerFault_wf (State.setPhysBytes_wf _ _ _ (State.zeroPage_wf (ht _ he ▸ h) _)) ..

theorem State.serveFault_wf {s : State} (h : Memory.wf s.mem) (die i : Nat) (r : FaultRec) :
    Memory.wf (s.serveFault die i r).mem := by
  unfold State.serveFault
  grind [State.answerFault_wf, State.firstTouch_wf, State.passFault_mem]

theorem fireInj_mem (s : State) : ∀ t ∈ fireInj s, t.mem = s.mem := by
  unfold fireInj
  split
  · simp
  · exact fireBy_mem _ _

/-- The firing of an operator word keeps the canonical form: the operators that only route and compute leave memory alone. -/
theorem fireWord_wf {s : State} (h : Memory.wf s.mem) (w : Word) : ∀ t ∈ fireWord w s, Memory.wf t.mem := by
  have keep : ∀ {o : Option State}, (∀ t ∈ o, t.mem = s.mem) → ∀ t ∈ o, Memory.wf t.mem := fun ho t ht => ho t ht ▸ h
  unfold fireWord
  split
  case h_28 => exact keep (srcFire_mem s)
  case h_29 => exact snkFire_wf h
  case h_30 => exact keep (memldFire_mem s)
  case h_31 => exact memstFire_wf h
  case h_32 => exact keep (exitxFire_mem s)
  case h_33 => exact keep (fireInj_mem s)
  case h_35 => exact keep (edgetxFire_mem s)
  case h_37 => simp
  all_goals exact keep (fireBy_mem s _)

theorem fireAt_wf {s : State} (h : Memory.wf s.mem) (core sl : Nat) : ∀ t ∈ fireAt core sl s, Memory.wf t.mem := by
  unfold fireAt
  simp only []
  split
  · simp
  · exact State.fired_wf (fireWord_wf (by exact h) _)

theorem State.saveStop_wf {s : State} (h : Memory.wf s.mem) (k : Nat) : Memory.wf (s.saveStop k).mem := by
  unfold State.saveStop
  repeat' split
  all_goals simpa using h

theorem State.saveWhole_wf {s : State} (h : Memory.wf s.mem) (key : Nat) : Memory.wf (s.saveWhole key).mem := by
  unfold State.saveWhole
  grind [State.cutBoundary_wf, State.settleAt_wf, State.abandonSpent_mem, State.suspendJobs_mem, State.mapTask_mem,
    State.unbindSaved_wf, State.keepArea_mem]

theorem State.claimCore_wf {s : State} (h : Memory.wf s.mem) (core : Nat) : Memory.wf (s.claimCore core).1.mem := by
  unfold State.claimCore
  grind [State.abandonSpents_mem, State.saveStop_wf, State.saveWhole_wf]

theorem execLandingPagerServe_canonical {s : State} (h : Memory.wf s.mem) (die entry : Nat) :
    Canonical (execLandingPagerServe die entry s) := by
  unfold execLandingPagerServe
  refine Canonical.next ?_
  grind [State.admitFaults_mem, State.serveFault_wf, State.claimCore_wf, State.mapDie_mem]

theorem execPageridle_canonical {s : State} (h : Memory.wf s.mem) (die : Nat) : Canonical (execPageridle die s) := by
  unfold execPageridle
  refine Canonical.next ?_
  simp only []
  split <;> simpa using h

theorem execFaulttmo_canonical {s : State} (h : Memory.wf s.mem) (die entry : Nat) :
    Canonical (execFaulttmo die entry s) := by
  unfold execFaulttmo
  refine Canonical.next ?_
  grind [State.admitFaults_mem, State.answerFault_wf]

theorem State.writeBackPage_wf {s : State} (h : Memory.wf s.mem) (old size : Nat) :
    Memory.wf (s.writeBackPage old size).mem :=
  State.foldl_wf _ (fun _ _ hs => State.writeBack_wf hs ..) _ _ h

@[simp] theorem State.retarget_mem (s : State) (old new size : Nat) : (s.retarget old new size).mem = s.mem := rfl

theorem State.endMigration_wf {s : State} (h : Memory.wf s.mem) (m : Migration) : Memory.wf (s.endMigration m).mem := by
  unfold State.endMigration
  exact State.foldl_wf (fun (s : State) (p : Nat × Nat) => s.setPhysBytes p.1 (p.2 - m.old + m.new) 8)
    (fun _ _ hs => State.setPhysBytes_wf _ _ _ hs) _ _
    (by simpa using State.copyPage_wf (State.writeBackPage_wf h ..) ..)

theorem execPendingNotificationPost_canonical {s : State} (h : Memory.wf s.mem) (page : Nat) :
    Canonical (execPendingNotificationPost page s) := by
  unfold execPendingNotificationPost
  refine Canonical.next ?_
  grind [State.postNotification_wf]

theorem execFabtmo_canonical {s : State} (h : Memory.wf s.mem) (core slot : Nat) (young : Bool) (va : BitVec 64) :
    Canonical (execFabtmo core slot young va s) := by
  unfold execFabtmo
  refine Canonical.next ?_
  grind [State.setCrew_mem, State.focusOn_mem, takeTrap_wf]

@[simp] theorem State.putSet_mem (s : State) (core slot : Nat) (set : List Nat) : (s.putSet core slot set).mem = s.mem := rfl

@[simp] theorem State.takeIn_mem (s : State) (core slot : Nat) : (s.takeIn core slot).mem = s.mem := by
  unfold State.takeIn
  grind [State.putSet_mem, State.mapCrewAt_mem]

@[simp] theorem State.seekPlace_mem (s : State) (core slot : Nat) : (s.seekPlace core slot).mem = s.mem := by
  unfold State.seekPlace
  simp [apply_ite State.mem]

theorem execActiveSetSwap_canonical {s : State} (h : Memory.wf s.mem) (core slot : Nat) :
    Canonical (execActiveSetSwap core slot s) := by
  unfold execActiveSetSwap
  refine Canonical.next ?_
  simpa using h

theorem rereadAwait_wf {s : State} (h : Memory.wf s.mem) (core slot : Nat) : Memory.wf (rereadAwait core slot s).mem := by
  unfold rereadAwait
  grind [State.focusOn_mem, issueState_wf, awaitBody_wf]

theorem execAwaitWake_canonical {s : State} (h : Memory.wf s.mem) (core slot : Nat) :
    Canonical (execAwaitWake core slot s) := by
  unfold execAwaitWake
  refine Canonical.next ?_
  exact rereadAwait_wf h ..

theorem execAwaitDeadline_canonical {s : State} (h : Memory.wf s.mem) (core slot : Nat) :
    Canonical (execAwaitDeadline core slot s) := by
  unfold execAwaitDeadline
  refine Canonical.next ?_
  grind [rereadAwait_wf]

@[simp] theorem State.localError_mem (s : State) (core : Nat) (j : Job) : (s.localError core j).mem = s.mem := by
  unfold State.localError
  simp [State.originAbort_mem]

@[simp] theorem State.collAccess_mem (s : State) (core : Nat) (j : Job) (need : Need) (vas : List Nat) :
    (s.collAccess core j need vas).2.mem = s.mem := by
  unfold State.collAccess
  grind [State.xlateAll_mem, State.sendFaults_mem, State.mapJob_mem]

theorem State.engineRead_wf {s : State} (h : Memory.wf s.mem) (core cn : Nat) (xs : List LaneXlat) :
    Memory.wf (s.engineRead core cn xs).2.mem := by
  unfold State.engineRead
  grind [State.settleScopes_wf, State.requests_wf, State.leaveL1_mem]

theorem State.contribute_wf {s : State} (h : Memory.wf s.mem) (core : Nat) (j : Job) (r : Raft) :
    Memory.wf (s.contribute core j r).mem := by
  unfold State.contribute
  grind [State.mapJob_mem, State.localError_mem, State.sendData_mem, State.collAccess_mem, State.engineRead_wf]

theorem State.startCollective_wf {s : State} (h : Memory.wf s.mem) (core : Nat) (j : Job) :
    Memory.wf (s.startCollective core j).mem := by
  unfold State.startCollective
  grind [State.mapJob_mem, State.numberJob_mem, State.release_wf, State.endCollective_mem, State.contribute_wf]

@[simp] theorem State.startJob_mem (s : State) (core : Nat) (j : Job) : (s.startJob core j).mem = s.mem := by
  unfold State.startJob
  split <;> simp [State.dropMacro_mem, State.mapJob_mem]

theorem execJobStart_canonical {s : State} (h : Memory.wf s.mem) (core job : Nat) : Canonical (execJobStart core job s) := by
  unfold execJobStart
  refine Canonical.next ?_
  grind [State.contribute_wf, State.startCollective_wf, State.startJob_mem]

@[simp] theorem State.countMoved_mem (s : State) (core : Nat) (j : Job) (old new : Nat) :
    (s.countMoved core j old new).mem = s.mem := by
  unfold State.countMoved
  split <;> simp

theorem State.copyChunk_wf {s : State} (h : Memory.wf s.mem) (core : Nat) (j : Job) :
    Memory.wf (s.copyChunk core j).mem := by
  unfold State.copyChunk
  grind [State.mapJob_mem, State.engineClassify_mem, State.engineRead_wf, State.countMoved_mem, State.engineWrite_wf]

theorem execCopyChunk_canonical {s : State} (h : Memory.wf s.mem) (core job : Nat) :
    Canonical (execCopyChunk core job s) := by
  unfold execCopyChunk
  refine Canonical.next ?_
  grind [State.copyChunk_wf]

@[simp] theorem State.feedSrc_mem (s : State) (j : Job) : (s.feedSrc j).mem = s.mem := by
  unfold State.feedSrc
  split <;> simp

theorem State.streamRead_wf {s : State} (h : Memory.wf s.mem) (core : Nat) (j : Job) (elem : Nat) :
    Memory.wf (s.streamRead core j elem).mem := by
  unfold State.streamRead
  grind [State.engineClassify_mem, State.mapJob_mem, State.engineRead_wf, State.feedSrc_mem]

@[simp] theorem State.streamDeliver_mem (s : State) (core : Nat) (j : Job) : (s.streamDeliver core j).mem = s.mem := by
  unfold State.streamDeliver
  split <;> simp [apply_ite State.mem, State.mapJob_mem]

theorem execStreamEntry_canonical {s : State} (h : Memory.wf s.mem) (core job : Nat) (read : Bool) (elem : Nat) :
    Canonical (execStreamEntry core job read elem s) := by
  unfold execStreamEntry
  refine Canonical.next ?_
  grind [State.streamRead_wf, State.streamDeliver_mem]

theorem execMloadRow_canonical {s : State} (h : Memory.wf s.mem) (core job : Nat) : Canonical (execMloadRow core job s) := by
  unfold execMloadRow
  refine Canonical.next ?_
  grind [State.mapJob_mem, State.engineClassify_mem, State.engineRead_wf, State.setMac_mem]

theorem engineReader_keeps (core task cn : Nat) : (engineReader core task cn).Keeps := by
  refine fun va n => ⟨fun s h => ?_⟩
  have hc : Memory.wf (s.engineClassify core task cn (byteVas va n) []).2.2.2.mem := by simpa using h
  unfold engineReader
  split
  · next e => rw [e] at hc; exact hc
  · next e => rw [e] at hc; exact State.engineRead_wf hc ..

theorem symbolIssued_keeps (core task j : Nat) : (symbolIssued core task j).Keeps :=
  ⟨fun _ h => Memory.wf_ite (by simpa using h) h⟩

theorem gramSum_keeps (core task cn base : Nat) (g : GramHeader) (x : Sect) (nvec xva j : Nat) (syms : List Nat) :
    (gramSum core task cn base g x nvec xva j syms).Keeps := by
  refine Chk.keeps_bind (Chk.keeps_foldlM (fun acc sym => ?_) _ _) (fun _ => Chk.keeps_pure _)
  refine Chk.keeps_bind (symbolIssued_keeps ..) (fun _ => Chk.keeps_bind ?_ (fun term => ?_))
  · exact Chk.keeps_ite ⟨fun _ h => h⟩ (Chk.keeps_bind (engineReader_keeps _ _ _ _ _) (fun _ =>
      Chk.keeps_bind (engineReader_keeps _ _ _ _ _) (fun _ => Chk.keeps_pure _)))
  · cases acc <;> exact Chk.keeps_pure _

theorem writeRow_keeps (core task cn : Nat) (ys : List (Nat × Nat)) : (writeRow core task cn ys).Keeps := by
  refine ⟨fun s h => ?_⟩
  have hc : Memory.wf (s.engineClassify core task cn [] (ys.flatMap (fun y => byteVas y.1 4))).2.2.2.mem := by simpa using h
  unfold writeRow
  split
  · next e => rw [e] at hc; exact hc
  · next e => rw [e] at hc; exact State.engineWrite_wf hc ..

theorem evalRules_keeps (core task cn base : Nat) (g : GramHeader) (i : Nat) (x : Sect) (nvec : Nat) (xva : Nat → Nat) :
    (evalRules core task cn base g i x nvec xva).Keeps :=
  Chk.keeps_forM (fun _ => Chk.keeps_bind (readRule_keeps (engineReader_keeps _ _ _) ..) (fun _ =>
    Chk.keeps_forM (fun _ => Chk.keeps_bind (gramSum_keeps ..) (fun _ => ⟨fun _ h => by simpa using h⟩)) _)) _

theorem grunRow_keeps (core task : Nat) (j : Job) : (grunRow core task j).Keeps := by
  have hr := engineReader_keeps core task j.ctx
  unfold grunRow
  extract_lets base g rd nvec xva rest
  have hrest : ∀ sects, (rest sects).Keeps := by
    intro sects
    unfold rest
    split
    · exact Chk.keeps_pure _
    · extract_lets row
      have hrow : ∀ u, (row u).Keeps := fun _ =>
        Chk.keeps_bind (readRow_keeps hr ..) (fun _ => Chk.keeps_bind (Chk.keeps_mapM (fun _ => gramSum_keeps ..) _) (fun _ =>
          Chk.keeps_bind (writeRow_keeps ..) (fun _ => Chk.keeps_pure _)))
      exact Chk.keeps_ite (Chk.keeps_bind (checkCap_keeps ..) (fun _ => Chk.keeps_bind (checkSection_keeps hr ..) (fun _ =>
        Chk.keeps_bind (evalRules_keeps ..) hrow))) (hrow ())
  exact Chk.keeps_ite (Chk.keeps_bind (readSections_keeps hr ..) hrest) (Chk.keeps_bind (Chk.keeps_pure _) hrest)

@[simp] theorem grunStop_mem (s : State) (core : Nat) (j : Job) (x0 : Stop) : (grunStop s core j x0).mem = s.mem := by
  unfold grunStop
  split <;> simp [State.mapJob_mem]

theorem execJobComplete_canonical {s : State} (h : Memory.wf s.mem) (core job : Nat) :
    Canonical (execJobComplete core job s) := by
  unfold execJobComplete
  refine Canonical.next ?_
  grind [State.completeJob_wf]

theorem execMmaBroadcast_canonical {s : State} (h : Memory.wf s.mem) (core entry : Nat) :
    Canonical (execMmaBroadcast core entry s) := by
  unfold execMmaBroadcast
  refine Canonical.next ?_
  simp only []
  repeat' split
  all_goals simpa using h

theorem execTileCellError_canonical {s : State} (h : Memory.wf s.mem) (core tile cell : Nat) :
    Canonical (execTileCellError core tile cell s) := by
  unfold execTileCellError
  refine Canonical.next ?_
  split <;> simpa using h

theorem State.settleCore_wf {s : State} (h : Memory.wf s.mem) (core : Nat) : Memory.wf (s.settleCore core).mem := by
  unfold State.settleCore
  rw [State.broadcastThrough_mem]
  exact State.foldl_wf _ (fun _ _ hs => State.perform_wf hs ..) _ _ h

theorem State.commitRegion_wf {s : State} (h : Memory.wf s.mem) (k : Nat) (r : Region) :
    Memory.wf (s.commitRegion k r).mem := by
  unfold State.commitRegion
  refine State.finishWaiting_wf (State.packet_wf ?_ ..) ..
  rw [State.recordMode_mem, State.mapRegion_mem, State.foldl_mem _ (fun s c => State.mapCore_mem _ _ _)]
  exact h

theorem execSpexitComplete_canonical {s : State} (h : Memory.wf s.mem) (core slot : Nat) :
    Canonical (execSpexitComplete core slot s) := by
  unfold execSpexitComplete
  refine Canonical.next ?_
  grind [State.focusOn_mem, issueState_wf, spexitBody_wf]

theorem execRegionCompletion_canonical {s : State} (h : Memory.wf s.mem) (core slot : Nat) :
    Canonical (execRegionCompletion core slot s) := by
  unfold execRegionCompletion
  refine Canonical.next ?_
  grind [State.storeCompletion_wf]

theorem spwaitTimeout_wf {s : State} (h : Memory.wf s.mem) (core slot : Nat) :
    Memory.wf (spwaitTimeout core slot s).mem := by
  unfold spwaitTimeout
  grind [State.focusOn_mem, issueState_wf, spwaitBody_wf]

theorem execSpwaitDeadline_canonical {s : State} (h : Memory.wf s.mem) (core slot : Nat) :
    Canonical (execSpwaitDeadline core slot s) := by
  unfold execSpwaitDeadline
  refine Canonical.next ?_
  exact spwaitTimeout_wf h ..

theorem execWatchdog_canonical {s : State} (h : Memory.wf s.mem) (core slot : Nat) :
    Canonical (execWatchdog core slot s) := by
  unfold execWatchdog
  refine Canonical.next ?_
  simp only []
  repeat' split
  all_goals simpa using h

theorem execSaveStop_canonical {s : State} (h : Memory.wf s.mem) (core slot : Nat) :
    Canonical (execSaveStop core slot s) := by
  unfold execSaveStop
  refine Canonical.next ?_
  exact State.saveStop_wf h ..

theorem execDebugHalt_canonical {s : State} (h : Memory.wf s.mem) (core : Nat) : Canonical (execDebugHalt core s) := by
  unfold execDebugHalt
  refine Canonical.next ?_
  repeat' split
  all_goals simpa using h

@[simp] theorem State.releaseCore_mem (s : State) (core : Nat) : (s.releaseCore core).mem = s.mem := by
  unfold State.releaseCore
  repeat' split
  all_goals simp

theorem execHaltRelease_canonical {s : State} (h : Memory.wf s.mem) (core slot : Nat) :
    Canonical (execHaltRelease core slot s) := by
  unfold execHaltRelease
  refine Canonical.next ?_
  simpa using h

theorem State.rereadImage_wf {s : State} (h : Memory.wf s.mem) (core task cn va n : Nat) :
    Memory.wf (s.rereadImage core task cn va n).2.mem := by
  unfold State.rereadImage
  grind [State.engineClassify_mem, State.engineRead_wf]

theorem execConfigStoreError_canonical {s : State} (h : Memory.wf s.mem) (core : Nat) (fixed : Bool) :
    Canonical (execConfigStoreError core fixed s) := by
  unfold execConfigStoreError
  refine Canonical.next ?_
  grind [State.takeFree_mem, State.record_mem, State.mapRegion_mem, State.rereadImage_wf, State.endStop_mem]

@[simp] theorem State.loadCrew_mem (s : State) (tn : Nat) (t : Task) (k core slot rbase off : Nat) :
    (s.loadCrew tn t k core slot rbase off).2.mem = s.mem := by
  unfold State.loadCrew
  simp only []
  split
  · refine State.foldl_mem _ (fun s i => ?_) _ _
    split <;> simp
  · split
    · rw [State.resumeStreams_mem, State.mapCore_mem]
      next p _ _ _ _ _ =>
      have hs := State.foldl_mem (fun (s : State) (e : Nat × Tile) => s.setTile core e.1 e.2) (fun s e => by simp) p.tiles s
      cases p.region with
      | none => exact hs
      | some r => simpa using hs
    · rfl
    · rfl

@[simp] theorem State.trimReserved_mem (s : State) (n : Nat) : (s.trimReserved n).mem = s.mem := by
  unfold State.trimReserved
  split <;> simp

theorem State.bindCrew_wf {s : State} (h : Memory.wf s.mem) (tn : Nat) (t : Task) (k core slot rbase off : Nat) :
    Memory.wf (s.bindCrew tn t k core slot rbase off).mem := by
  unfold State.bindCrew
  grind [State.loadCrew_mem, State.checkGen_mem, State.mapTask_mem, State.enterSlot_mem, State.trimReserved_mem,
    State.recordForeman_mem, State.traceStart_wf, State.acquireL1_mem, State.resumeCoppice_wf]

theorem State.bindAll_wf (tn : Nat) (ps : List (Nat × Nat × Nat × Nat × Nat)) :
    ∀ {s : State}, Memory.wf s.mem → ∀ t ∈ s.bindAll tn ps, Memory.wf t.mem := by
  induction ps with
  | nil =>
    rintro s h t ⟨⟩
    exact h
  | cons p ps ih =>
    intro s h
    unfold State.bindAll
    split
    · simp
    · split
      · exact ih (State.bindCrew_wf h ..)
      · simp

theorem execNextPhaseReady_canonical {s : State} (h : Memory.wf s.mem) (task crew : Nat) :
    Canonical (execNextPhaseReady task crew s) := by
  unfold execNextPhaseReady
  refine Canonical.next ?_
  repeat' split
  all_goals simpa using h

theorem State.suspendCoppices_wf {s : State} (h : Memory.wf s.mem) (slots : List Nat) :
    Memory.wf (s.suspendCoppices slots).mem :=
  State.foldl_wf (fun (s : State) (c : Coppice) => s.expireCoppice c.ctx c.va) (fun _ _ hs => State.expireCoppice_wf hs ..) _ _ h

theorem State.checkpoint_wf {s : State} (h : Memory.wf s.mem) (slots : List Nat) : Memory.wf (s.checkpoint slots).mem := by
  unfold State.checkpoint
  refine State.foldl_wf _ (fun _ _ hs => Memory.wf_ite (State.saveWhole_wf hs ..) hs) _ _ ?_
  exact State.foldl_wf _ (fun _ _ hs => State.saveStop_wf hs _) _ _ (State.suspendCoppices_wf h _)

theorem State.preempt_wf {s : State} (h : Memory.wf s.mem) (slots : List Nat) : Memory.wf (s.preempt slots).mem := by
  unfold State.preempt
  grind [State.checkpoint_wf, State.abandonSpents_mem]

theorem execGangwait_canonical {s : State} (h : Memory.wf s.mem) (task : Nat) (slots : List Nat) :
    Canonical (execGangwait task slots s) := by
  unfold execGangwait
  refine Canonical.next ?_
  grind [State.checkpoint_wf, State.preempt_wf]

theorem execGangtmo_canonical {s : State} (h : Memory.wf s.mem) (task : Nat) : Canonical (execGangtmo task s) := by
  unfold execGangtmo
  refine Canonical.next ?_
  grind [State.finishTask_wf]

@[simp] theorem State.dropRegions_mem (s : State) (n : Nat) : (s.dropRegions n).mem = s.mem := by
  unfold State.dropRegions
  simp [State.foldl_mem, State.abandonSpents_mem]

theorem execPreemptionChoice_canonical {s : State} (h : Memory.wf s.mem) (newcomer victim : Nat)
    (slots : List Nat) : Canonical (execPreemptionChoice newcomer victim slots s) := by
  unfold execPreemptionChoice
  refine Canonical.next ?_
  grind [State.checkpoint_wf, State.recordForeman_mem, State.preempt_wf, State.killTask_wf]

@[simp] theorem State.swapCounters_mem (s : State) (next : Nat) : (s.swapCounters next).mem = s.mem := by
  unfold State.swapCounters
  simp [State.foldl_mem, apply_ite State.mem]

theorem execCoppiceDeadline_canonical {s : State} (h : Memory.wf s.mem) (ctx va : Nat) :
    Canonical (execCoppiceDeadline ctx va s) := by
  unfold execCoppiceDeadline
  refine Canonical.next ?_
  exact State.expireCoppice_wf h ..

@[simp] theorem State.dropMsg_mem (s : State) (ix : Nat) : (s.dropMsg ix).mem = s.mem := rfl

@[simp] theorem State.discard_mem (s : State) (ix : Nat) : (s.discard ix).mem = s.mem := rfl

@[simp] theorem State.pickRoutes_mem (s : State) (r : Raft) : (s.pickRoutes r).2.mem = s.mem := by
  refine State.foldl_mem_snd _ (fun a b => ?_) _ ([], s)
  simp only []
  split
  · rfl
  · split
    · rfl
    · simp

@[simp] theorem State.mapWaiting_mem (s : State) (p : Waiting → Bool) (f : Crew → Crew) :
    (s.mapWaiting p f).mem = s.mem := by
  unfold State.mapWaiting
  simp [State.foldl_mem]

@[simp] theorem State.answerRaft_mem (s : State) (h k x y : Nat) : (s.answerRaft h k x y).mem = s.mem := by
  unfold State.answerRaft
  simp

@[simp] theorem State.raftFormed_mem (s : State) (h : Nat) (r : Raft) (k : Nat) : (s.raftFormed h r k).mem = s.mem := by
  unfold State.raftFormed
  simp only []
  split <;> simp

@[simp] theorem State.dropMember_mem (s : State) (h k : Nat) : (s.dropMember h k).mem = s.mem := by
  unfold State.dropMember
  split <;> simp [apply_ite State.mem]

@[simp] theorem State.takeReport_mem (s : State) (h : Nat) (r : Raft) (m : Msg) (ix : Nat) :
    (s.takeReport h r m ix).mem = s.mem := by
  unfold State.takeReport
  repeat' split
  all_goals simp

@[simp] theorem State.failForming_mem (s : State) (h : Nat) (r : Raft) (word : Nat → Nat) :
    (s.failForming h r word).mem = s.mem := by
  unfold State.failForming
  simp [State.foldl_mem, apply_ite State.mem, State.sendRaft_mem, State.mapRaft_mem]

theorem State.takeMsg_wf {s : State} (h : Memory.wf s.mem) (ix typ : Nat) {act : State → Nat → Raft → Msg → Option State}
    (ha : ∀ t k r m, Memory.wf t.mem → ∀ u ∈ act t k r m, Memory.wf u.mem) : Memory.wf (s.takeMsg ix typ act).mem := by
  unfold State.takeMsg
  split
  · exact h
  · split
    · simpa using h
    · split
      · simpa using h
      · have hd : Memory.wf (s.dropMsg ix).mem := by simpa using h
        exact Memory.wf_getD h (ha _ _ _ _ hd)

@[simp] theorem State.renumberJobs_mem (s : State) (h : Nat) (stay : List Nat) : (s.renumberJobs h stay).mem = s.mem := rfl

@[simp] theorem State.applyReform_mem (s : State) (h : Nat) (r : Raft) (stay : List Nat) :
    (s.applyReform h r stay).mem = s.mem := by
  unfold State.applyReform
  simp [State.foldl_mem, apply_ite State.mem]

@[simp] theorem State.recordRaft_mem (s : State) (h gen word : Nat) : (s.recordRaft h gen word).mem = s.mem := rfl

@[simp] theorem State.reform_mem (s : State) (h : Nat) (r : Raft) (k : Nat) : (s.reform h r k).mem = s.mem := by
  unfold State.reform
  simp [State.foldl_mem, State.sendRaft_mem]

theorem execJoin_canonical {s : State} (h : Memory.wf s.mem) (ix : Nat) : Canonical (execJoin ix s) := by
  unfold execJoin
  refine Canonical.next ?_
  grind [State.takeMsg_wf, State.applyReform_mem, State.reform_mem]

@[simp] theorem State.setColl_mem (s : State) (h seq : Nat) (c : Coll) : (s.setColl h seq c).mem = s.mem := by
  unfold State.setColl
  simp [State.mapRaft_mem]

@[simp] theorem State.forwardAbort_mem (s : State) (h : Nat) (r : Raft) (seq : Nat) (word : Nat → Nat) :
    (s.forwardAbort h r seq word).mem = s.mem := by
  unfold State.forwardAbort
  simp [State.foldl_mem, apply_ite State.mem, State.mapRaft_mem, State.sendRaft_mem]

@[simp] theorem State.takePart_mem (s : State) (h : Nat) (r : Raft) (m : Msg) : (s.takePart h r m).mem = s.mem := by
  unfold State.takePart
  simp only []
  split
  · rfl
  · split
    · simp
    · split
      · simp
      · split
        · simp
        · rw [State.foldl_mem _ (fun s k => by simp)]
          simp

theorem execContrib_canonical {s : State} (h : Memory.wf s.mem) (ix : Nat) : Canonical (execContrib ix s) := by
  unfold execContrib
  refine Canonical.next ?_
  grind [State.takeMsg_wf, State.takePart_mem]

theorem execResult_canonical {s : State} (h : Memory.wf s.mem) (ix : Nat) : Canonical (execResult ix s) := by
  unfold execResult
  refine Canonical.next ?_
  grind [State.takeMsg_wf, State.localError_mem, State.collAccess_mem, State.mapJob_mem, State.engineWrite_wf,
    State.endCollective_mem]

theorem execArrive_canonical {s : State} (h : Memory.wf s.mem) (ix : Nat) : Canonical (execArrive ix s) := by
  unfold execArrive
  refine Canonical.next ?_
  grind [State.takeMsg_wf, State.takePart_mem]

@[simp] theorem State.takeAbort_mem (s : State) (h : Nat) (r : Raft) (m : Msg) : (s.takeAbort h r m).mem = s.mem := by
  unfold State.takeAbort
  grind [State.mapRaft_mem, State.endCollective_mem]

theorem execAbort_canonical {s : State} (h : Memory.wf s.mem) (ix : Nat) : Canonical (execAbort ix s) := by
  unfold execAbort
  refine Canonical.next ?_
  grind [State.failForming_mem, State.dropMsg_mem, State.takeReport_mem, State.takeMsg_wf, State.mapRaft_mem,
    State.forwardAbort_mem, State.takeAbort_mem]

theorem execRemreq_canonical {s : State} (h : Memory.wf s.mem) (ix : Nat) : Canonical (execRemreq ix s) := by
  unfold execRemreq
  refine Canonical.next ?_
  grind [State.takeMsg_wf, State.sendData_mem, State.setBytes_wf, State.sendFault_mem]

@[simp] theorem State.answerLanes_mem (s : State) (key : Nat) (p : LaneAcc → Bool) (status value : Nat) :
    (s.answerLanes key p status value).mem = s.mem := by
  unfold State.answerLanes
  simp

theorem execRemack_canonical {s : State} (h : Memory.wf s.mem) (ix : Nat) : Canonical (execRemack ix s) := by
  unfold execRemack
  refine Canonical.next ?_
  grind [State.takeMsg_wf, State.answerLanes_mem]

@[simp] theorem State.freeRank_mem (s : State) (r : Raft) (k : Nat) : (s.freeRank r k).2.mem = s.mem := rfl

@[simp] theorem State.lackedRank_mem (s : State) (r : Raft) (k seq : Nat) : (s.lackedRank r k seq).2.mem = s.mem := by
  unfold State.lackedRank
  simp only []
  split <;> simp

@[simp] theorem State.timeoutCollective_mem (s : State) (core id : Nat) : (s.timeoutCollective core id).mem = s.mem := by
  unfold State.timeoutCollective
  repeat' split
  all_goals simp [State.endReady_mem, State.endJob_mem, State.sendRaft_mem, State.mapRaft_mem]

theorem execCollectiveTimeout_canonical {s : State} (h : Memory.wf s.mem) (core job : Nat) :
    Canonical (execCollectiveTimeout core job s) := by
  unfold execCollectiveTimeout
  refine Canonical.next ?_
  repeat' split
  all_goals simpa using h

@[simp] theorem State.missingRank_mem (s : State) (r : Raft) (k : Nat) : (s.missingRank r k).2.mem = s.mem := by
  unfold State.missingRank
  split <;> simp

@[simp] theorem State.withdraw_mem (s : State) (h k key : Nat) : (s.withdraw h k key).mem = s.mem := by
  unfold State.withdraw
  simp [State.mapRaft_mem]

@[simp] theorem State.formTimeout_mem (s : State) (h k : Nat) : (s.formTimeout h k).mem = s.mem := by
  unfold State.formTimeout
  grind [State.takeReport_mem, State.missingRank_mem, State.withdraw_mem, State.dropMember_mem, State.answerRaft_mem,
    State.sendRaft_mem, State.failForming_mem, State.freeRank_mem]

theorem execRaftformTimeout_canonical {s : State} (h : Memory.wf s.mem) (hd k : Nat) :
    Canonical (execRaftformTimeout hd k s) := by
  unfold execRaftformTimeout
  refine Canonical.next ?_
  simpa using h

@[simp] theorem State.joinTimeout_mem (s : State) (h k : Nat) : (s.joinTimeout h k).mem = s.mem := by
  unfold State.joinTimeout
  repeat' split
  all_goals simp [apply_ite State.mem, State.mapRaft_mem]

theorem execRaftJoinTimeout_canonical {s : State} (h : Memory.wf s.mem) (hd k : Nat) :
    Canonical (execRaftJoinTimeout hd k s) := by
  unfold execRaftJoinTimeout
  refine Canonical.next ?_
  simpa using h

@[simp] theorem State.remoteTimeout_mem (s : State) (key : Nat) (p : LaneAcc → Bool) :
    (s.remoteTimeout key p).mem = s.mem := by
  unfold State.remoteTimeout
  split <;> simp

theorem execRemoteAccessTimeout_canonical {s : State} (h : Memory.wf s.mem) (core slot entry : Nat) :
    Canonical (execRemoteAccessTimeout core slot entry s) := by
  unfold execRemoteAccessTimeout
  refine Canonical.next ?_
  simp only []
  repeat' split
  all_goals simpa using h

@[simp] theorem State.abortLink_mem (s : State) (h : Nat) (r : Raft) (cause port : Nat) (p : Nat → Nat → Bool) :
    (s.abortLink h r cause port p).mem = s.mem := by
  unfold State.abortLink
  simp [State.foldl_mem, State.originAbort_mem]

@[simp] theorem State.failLanes_mem (s : State) (h : Nat) (p q : Nat → Bool) : (s.failLanes h p q).mem = s.mem := by
  unfold State.failLanes
  simp [State.foldl_mem]

@[simp] theorem State.failOnPackage_mem (s : State) (die : Nat) : (s.failOnPackage die).mem = s.mem := by
  unfold State.failOnPackage
  simp [State.foldl_mem, State.mapRaft_mem]

@[simp] theorem State.newCapabilities_mem (s : State) : s.newCapabilities.mem = s.mem := rfl

@[simp] theorem State.failRoutes_mem (s : State) (port : Nat) : (s.failRoutes port).mem = s.mem := by
  unfold State.failRoutes
  simp [State.foldl_mem, State.mapRaft_mem]

@[simp] theorem State.portOut_mem (s : State) (port : Nat) : (s.portOut port).mem = s.mem := by
  unfold State.portOut
  simp

theorem execLinkRetryFailure_canonical {s : State} (h : Memory.wf s.mem) (port : Nat) :
    Canonical (execLinkRetryFailure port s) := by
  unfold execLinkRetryFailure
  refine Canonical.next ?_
  repeat' split
  all_goals simpa using h

@[simp] theorem State.recordPort_mem (s : State) (port up tries : Nat) : (s.recordPort port up tries).mem = s.mem := rfl

theorem execPortRetrainAttempt_canonical {s : State} (h : Memory.wf s.mem) (port : Nat) (ok : Bool) :
    Canonical (execPortRetrainAttempt port ok s) := by
  unfold execPortRetrainAttempt
  refine Canonical.next ?_
  repeat' split
  all_goals simpa using h

@[simp] theorem State.fatalTrigger_mem (s : State) (ring cause : Nat) : (s.fatalTrigger ring cause).mem = s.mem := by
  unfold State.fatalTrigger
  split <;> simp [State.trigger_mem]

theorem execForemanMemoryError_canonical {s : State} (h : Memory.wf s.mem) (ring : Nat) :
    Canonical (execForemanMemoryError ring s) := by
  unfold execForemanMemoryError
  refine Canonical.next ?_
  simpa using h

theorem execForemanWatchdog_canonical {s : State} (h : Memory.wf s.mem) (ring : Nat) :
    Canonical (execForemanWatchdog ring s) := by
  unfold execForemanWatchdog
  refine Canonical.next ?_
  simpa using h

theorem execSyncPlaneLoss_canonical {s : State} (h : Memory.wf s.mem) (ring : Nat) :
    Canonical (execSyncPlaneLoss ring s) := by
  unfold execSyncPlaneLoss
  refine Canonical.next ?_
  simpa using h

theorem execThermalTrip_canonical {s : State} (h : Memory.wf s.mem) : Canonical (execThermalTrip s) := by
  unfold execThermalTrip
  refine Canonical.next ?_
  simpa using h

theorem execFreezeBroadcast_canonical {s : State} (h : Memory.wf s.mem) : Canonical (execFreezeBroadcast s) := by
  unfold execFreezeBroadcast
  refine Canonical.next ?_
  repeat' split
  all_goals simpa using h

@[simp] theorem State.storeCapsule_mem (s : State) (c : Capsule) : (s.storeCapsule c).mem = s.mem := by
  unfold State.storeCapsule
  repeat' split
  all_goals simp

@[simp] theorem State.withLost_mem (s : State) (lost : List Nat) (x0 x1 : Nat) (x2 : List (BitVec 128)) :
    (s.withLost lost x0 x1 x2).2.mem = s.mem := by
  fun_induction State.withLost <;> simp_all

@[simp] theorem State.sealRings_mem (rs : List (Nat × Ring)) : ∀ s : State, (s.sealRings rs).2.mem = s.mem := by
  induction rs with
  | nil => exact fun _ => rfl
  | cons r rs ih =>
    intro s
    unfold State.sealRings
    simp only [ih]
    split <;> simp

@[simp] theorem State.capsuleOf_mem (s : State) (f : Freeze) : (s.capsuleOf f).2.mem = s.mem := by
  unfold State.capsuleOf
  simp

theorem State.afterFatal_wf {s : State} (h : Memory.wf s.mem) : Memory.wf s.afterFatal.mem := by
  unfold State.afterFatal
  extract_lets v t
  exact State.foldl_wf (fun (s : State) n => s.killTask n 4) (fun _ _ hs => State.killTask_wf hs ..) _ t h

theorem execCapsuleSeal_canonical {s : State} (h : Memory.wf s.mem) : Canonical (execCapsuleSeal s) := by
  unfold execCapsuleSeal
  refine Canonical.next ?_
  grind [State.storeCapsule_mem, State.capsuleOf_mem, State.afterFatal_wf]

@[simp] theorem State.measure_mem (s : State) (component flags version digest : Nat) :
    (s.measure component flags version digest).mem = s.mem := rfl

@[simp] theorem State.setDieLive_mem (s : State) (d : Nat) (b : Bool) : (s.setDieLive d b).mem = s.mem := by
  unfold State.setDieLive
  split <;> simp

@[simp] theorem State.bootImages_mem (is : List (Nat × Nat × Nat × Bool)) :
    ∀ s : State, (s.bootImages is).1.mem = s.mem := by
  induction is with
  | nil => exact fun _ => rfl
  | cons i is ih =>
    intro s
    unfold State.bootImages
    simp only []
    split
    · simp [ih]
    · split
      · simp
      · split <;> simp [ih]

@[simp] theorem State.createForemanCtx_mem (s : State) : s.createForemanCtx.mem = s.mem := rfl

@[simp] theorem State.placeStaging_mem (s : State) : s.placeStaging.mem = s.mem := by
  unfold State.placeStaging
  grind

@[simp] theorem State.finishBoot_mem (s : State) (images : List (Nat × Nat × Nat × Bool)) :
    (s.finishBoot images).mem = s.mem := by
  unfold State.finishBoot
  grind [State.bootImages_mem, State.createForemanCtx_mem, State.placeStaging_mem]

@[simp] theorem State.applyRecords_mem (s : State) (bad : List Nat) : (s.applyRecords bad).mem = s.mem := rfl

@[simp] theorem State.takeEntry_mem (s : State) (fn : Nat) : (s.takeEntry fn).mem = s.mem := by
  unfold State.takeEntry
  grind [State.mapFunc_mem, State.enterLaunch_mem]

@[simp] theorem State.takeEntries_mem (fn n : Nat) : ∀ s : State, (s.takeEntries fn n).mem = s.mem := by
  induction n with
  | zero => exact fun _ => rfl
  | succ n ih =>
    intro s
    unfold State.takeEntries
    simp only []
    split
    · rfl
    · rw [ih, State.takeEntry_mem]

theorem execLqtailDoorbell_canonical {s : State} (h : Memory.wf s.mem) (fn t : Nat) :
    Canonical (execLqtailDoorbell fn t s) := by
  unfold execLqtailDoorbell
  refine Canonical.next ?_
  simp only []
  repeat' split
  all_goals simpa using h

theorem execLaunchQueueEntry_canonical {s : State} (h : Memory.wf s.mem) (fn : Nat) :
    Canonical (execLaunchQueueEntry fn s) := by
  unfold execLaunchQueueEntry
  refine Canonical.next ?_
  split <;> simpa using h

theorem execFreplyServe_canonical {s : State} (h : Memory.wf s.mem) (fn seq : Nat) :
    Canonical (execFreplyServe fn seq s) := by
  unfold execFreplyServe
  refine Canonical.next ?_
  grind [State.admitFaults_mem, State.answerFault_wf]

theorem execFreplyRefuse_canonical {s : State} (h : Memory.wf s.mem) (fn seq : Nat) :
    Canonical (execFreplyRefuse fn seq s) := by
  unfold execFreplyRefuse
  refine Canonical.next ?_
  grind [State.admitFaults_mem, State.answerFault_wf]

theorem execControlRecordPost_canonical {s : State} (h : Memory.wf s.mem) (fn : Nat) :
    Canonical (execControlRecordPost fn s) := by
  unfold execControlRecordPost
  refine Canonical.next ?_
  simp only []
  repeat' split
  all_goals simpa using h

@[simp] theorem State.endContext_mem (s : State) (fn result n : Nat) : (s.endContext fn result n).mem = s.mem := rfl

theorem execCreate_canonical {s : State} (h : Memory.wf s.mem) (fn w : Nat) : Canonical (execCreate fn w s) := by
  unfold execCreate
  refine Canonical.next ?_
  simp only []
  repeat' split
  all_goals simpa using h

theorem execUpdate_canonical {s : State} (h : Memory.wf s.mem) (fn w : Nat) : Canonical (execUpdate fn w s) := by
  unfold execUpdate
  refine Canonical.next ?_
  grind [State.endContext_mem, State.tlbi_wf, State.mapCtx_mem]

@[simp] theorem State.dropMigrations_mem (s : State) (cn : Nat) : (s.dropMigrations cn).mem = s.mem := by
  unfold State.dropMigrations
  simp only []
  rw [State.foldl_mem _ (fun s m => State.mapDie_mem _ _ _)]

theorem State.freeContext_wf {s : State} (h : Memory.wf s.mem) (n : Nat) : Memory.wf (s.freeContext n).mem := by
  unfold State.freeContext
  simpa using State.foldl_wf (fun (s : State) (c : Nat × Core) => s.writeBack c.1 (fun h => ((c.2.pools.get? h).elim false (fun m => decide (m.ctx = n)))))
    (fun _ _ hs => State.writeBack_wf hs ..) s.cores s h

@[simp] theorem State.endCapsule_mem (s : State) (fn result : Nat) : (s.endCapsule fn result).mem = s.mem := rfl

theorem State.copyView_wf {s : State} (h : Memory.wf s.mem) (fn w off n dst : Nat) :
    Memory.wf (s.copyView fn w off n dst).mem := by
  unfold State.copyView
  split
  · simpa using h
  · simp only []
    split
    · simpa using h
    · split
      · simpa using h
      · rw [State.endCapsule_mem]
        exact State.foldl_wf _ (fun _ _ hs => State.setPhysBytes_wf _ _ _ hs) _ _ h

theorem execRead_canonical {s : State} (h : Memory.wf s.mem) (fn w : Nat) : Canonical (execRead fn w s) := by
  unfold execRead
  refine Canonical.next ?_
  grind [State.copyView_wf]

theorem execRelease_canonical {s : State} (h : Memory.wf s.mem) (fn w : Nat) : Canonical (execRelease fn w s) := by
  unfold execRelease
  refine Canonical.next ?_
  simp only []
  repeat' split
  all_goals simpa using h

theorem execFreeze_canonical {s : State} (h : Memory.wf s.mem) (fn w : Nat) : Canonical (execFreeze fn w s) := by
  unfold execFreeze
  refine Canonical.next ?_
  grind [State.endCapsule_mem, State.trigger_mem]

theorem execInfo_canonical {s : State} (h : Memory.wf s.mem) (fn w : Nat) : Canonical (execInfo fn w s) := by
  unfold execInfo
  refine Canonical.next ?_
  grind [State.copyView_wf]

@[simp] theorem State.startAction_mem (s : State) (a : Action) : (s.startAction a).mem = s.mem := rfl

@[simp] theorem State.refuseAction_mem (s : State) : s.refuseAction.mem = s.mem := rfl

theorem State.order_mem (s : State) (cmd : Nat) (ok : Nat → Bool) {start : State → Action → State}
    (hs : ∀ t a, (start t a).mem = t.mem) : (s.order cmd ok start).mem = s.mem := by
  unfold State.order
  simp only []
  split
  · rw [hs, State.startAction_mem]
  · simp

@[simp] theorem State.endAction_mem (s : State) (a : Action) (result detail : Nat) :
    (s.endAction a result detail).mem = s.mem := rfl

theorem State.movePhase_wf {s : State} (h : Memory.wf s.mem) (n k dst : Nat) (t : Task) (p : Phase) :
    ∀ u ∈ s.movePhase n k dst t p, Memory.wf u.mem := by
  unfold State.movePhase
  extract_lets put
  have hp : ∀ {u : State} o, Memory.wf u.mem → Memory.wf (put u o).mem := fun o hu => by simpa [put] using hu
  split
  · rintro u ⟨⟩
    exact hp none h
  · next off _ =>
    intro u hu
    simp only [] at hu
    split at hu
    · cases hu
    · split at hu
      · cases hu
      · cases hu
        exact hp _ (State.foldl_wf _ (fun _ _ hs => Memory.wf_ite (by simpa using hs) hs) _ _
          (State.foldl_wf _ (fun _ _ hs => State.setBytes_wf _ _ _ hs) _ _ h))

theorem State.moveGroup_wf {s : State} (h : Memory.wf s.mem) (on : Nat → Bool) (n g dst : Nat) :
    ∀ u ∈ s.moveGroup on n g dst, Memory.wf u.mem := by
  unfold State.moveGroup
  split
  · simp
  · next t _ =>
    extract_lets bound moved
    have hm : ∀ (l : List (Nat × Phase)) (acc : Option State), (∀ u ∈ acc, Memory.wf u.mem) →
        ∀ u ∈ l.foldl (fun (acc : Option State) e => acc.bind (fun s => s.movePhase n e.1 dst t e.2)) acc, Memory.wf u.mem := by
      intro l
      induction l with
      | nil => exact fun _ ha => ha
      | cons e l ih =>
        refine fun acc ha => ih _ (fun u hu => ?_)
        obtain ⟨v, hv, hu⟩ := Option.bind_eq_some_iff.mp hu
        exact State.movePhase_wf (ha v hv) _ _ _ _ _ u hu
    rw [Option.forall_mem_map]
    intro u hu
    rw [State.mapTask_mem]
    refine hm _ _ (fun v hv => ?_) u hu
    split at hv
    · cases hv
    · cases hv
      exact h

theorem State.moveGroups_wf {s : State} (h : Memory.wf s.mem) (on : Nat → Bool) : Memory.wf (s.moveGroups on).mem := by
  refine State.foldl_wf _ (fun s t hs => State.foldl_wf _ (fun s g hs => Memory.wf_getD hs (fun u hu => ?_)) _ _ hs) _ _ h
  obtain ⟨c, -, hc⟩ := List.exists_of_findSome?_eq_some hu
  exact State.moveGroup_wf hs _ _ _ _ u hc

theorem State.drainCores_wf {s : State} (h : Memory.wf s.mem) (on : Nat → Bool) (kill : Bool) :
    Memory.wf (s.drainCores on kill).mem := by
  unfold State.drainCores
  refine State.foldl_wf _ (fun s n hs => ?_) _ _ (State.foldl_wf _ (fun _ _ hs => Memory.wf_ite (State.saveWhole_wf hs ..) hs) _ _
    (State.foldl_wf _ (fun _ _ hs => State.saveStop_wf hs _) _ _ h))
  split
  · exact hs
  · exact Memory.wf_ite hs (Memory.wf_ite (State.checkpoint_wf hs _) (Memory.wf_ite (State.killTask_wf hs ..) hs))

theorem execCoreOnline_canonical {s : State} (h : Memory.wf s.mem) (op : Nat) : Canonical (execCoreOnline op s) := by
  unfold execCoreOnline
  refine Canonical.next ?_
  grind [State.order_mem, State.endAction_mem, State.newCapabilities_mem]

@[simp] theorem State.rehome_mem (s : State) (d : Nat) : (s.rehome d).mem = s.mem := rfl

theorem execDieOnline_canonical {s : State} (h : Memory.wf s.mem) (op : Nat) : Canonical (execDieOnline op s) := by
  unfold execDieOnline
  refine Canonical.next ?_
  grind [State.order_mem, State.endAction_mem, State.newCapabilities_mem, State.setDieLive_mem]

theorem execRetrainHbmStack_canonical {s : State} (h : Memory.wf s.mem) (op : Nat) :
    Canonical (execRetrainHbmStack op s) := by
  unfold execRetrainHbmStack
  refine Canonical.next ?_
  refine Res.wf_done ?_
  split <;> simpa using h

@[simp] theorem State.startRetrain_mem (s : State) (a : Action) : (s.startRetrain a).mem = s.mem := by
  unfold State.startRetrain
  simp only []
  split <;> simp

theorem execRetrainPort_canonical {s : State} (h : Memory.wf s.mem) (op : Nat) : Canonical (execRetrainPort op s) := by
  unfold execRetrainPort
  refine Canonical.next ?_
  grind [State.order_mem, State.startRetrain_mem, State.endAction_mem, State.newCapabilities_mem]

@[simp] theorem State.addPages_mem (s : State) (die : Nat) (x0 : List Nat) : (s.addPages die x0).1.mem = s.mem := by
  fun_induction State.addPages <;> simp_all

theorem execAddFreePages_canonical {s : State} (h : Memory.wf s.mem) : Canonical (execAddFreePages s) := by
  unfold execAddFreePages
  refine Canonical.next ?_
  grind [State.order_mem, State.endAction_mem, State.addPages_mem, State.mapDie_mem]

theorem execConfigRecordReplace_canonical {s : State} (h : Memory.wf s.mem) (record version value : Nat)
    (ok : Bool) : Canonical (execConfigRecordReplace record version value ok s) := by
  unfold execConfigRecordReplace
  refine Canonical.next ?_
  simp only []
  split <;> simpa using h

@[simp] theorem State.answerSpdm_mem (s : State) (fn request : Nat) (fields : List Nat) :
    (s.answerSpdm fn request fields).mem = s.mem := by
  unfold State.answerSpdm
  split <;> simp

theorem execGetVersion_canonical {s : State} (h : Memory.wf s.mem) (fn : Nat) : Canonical (execGetVersion fn s) := by
  unfold execGetVersion
  refine Canonical.next ?_
  simpa using h

theorem execGetCapabilities_canonical {s : State} (h : Memory.wf s.mem) (fn : Nat) :
    Canonical (execGetCapabilities fn s) := by
  unfold execGetCapabilities
  refine Canonical.next ?_
  simpa using h

theorem execNegotiateAlgorithms_canonical {s : State} (h : Memory.wf s.mem) (fn : Nat) :
    Canonical (execNegotiateAlgorithms fn s) := by
  unfold execNegotiateAlgorithms
  refine Canonical.next ?_
  simpa using h

theorem execGetDigests_canonical {s : State} (h : Memory.wf s.mem) (fn : Nat) : Canonical (execGetDigests fn s) := by
  unfold execGetDigests
  refine Canonical.next ?_
  simpa using h

theorem execGetCertificate_canonical {s : State} (h : Memory.wf s.mem) (fn off len : Nat) :
    Canonical (execGetCertificate fn off len s) := by
  unfold execGetCertificate
  refine Canonical.next ?_
  simpa using h

theorem execChallenge_canonical {s : State} (h : Memory.wf s.mem) (fn nonce : Nat) :
    Canonical (execChallenge fn nonce s) := by
  unfold execChallenge
  refine Canonical.next ?_
  simpa using h

theorem execGetMeasurements_canonical {s : State} (h : Memory.wf s.mem) (fn block : Nat) :
    Canonical (execGetMeasurements fn block s) := by
  unfold execGetMeasurements
  refine Canonical.next ?_
  simpa using h

theorem execHostBar2Access_canonical {s : State} (h : Memory.wf s.mem) (fn off n : Nat) (write : Bool) (x : Nat) :
    Canonical (execHostBar2Access fn off n write x s) := by
  unfold execHostBar2Access
  refine Canonical.next ?_
  grind [State.setPhysBytes_wf, State.mapFunc_mem]

theorem execRegisterWrite_canonical {s : State} (h : Memory.wf s.mem) (fn off x : Nat) :
    Canonical (execRegisterWrite fn off x s) := by
  unfold execRegisterWrite
  refine Canonical.next ?_
  repeat' split
  all_goals simpa using h

theorem execMemoryReply_canonical {s : State} (h : Memory.wf s.mem) (core entry : Nat) :
    Canonical (execMemoryReply core entry s) := by
  unfold execMemoryReply
  refine Canonical.next ?_
  exact State.memoryReply_wf h ..

theorem execMemoryError_canonical {s : State} (h : Memory.wf s.mem) (wh idx : Nat) (fixed : Bool) :
    Canonical (execMemoryError wh idx fixed s) := by
  unfold execMemoryError
  refine Canonical.next ?_
  simp only []
  repeat' split
  all_goals simpa using h

theorem execLaunchQueueTake_canonical {s : State} (h : Memory.wf s.mem) (die : Nat) :
    Canonical (execLaunchQueueTake die s) := by
  unfold execLaunchQueueTake
  refine Canonical.next ?_
  grind [State.mapDie_mem, State.finishTask_wf, State.mapTask_mem, State.sendFault_mem]

@[simp] theorem State.seatUrgent_mem (s : State) (core slot : Nat) : (s.seatUrgent core slot).mem = s.mem := by
  unfold State.seatUrgent
  split <;> simp

@[simp] theorem State.settleSet_mem (s : State) (core slot : Nat) : (s.settleSet core slot).mem = s.mem := by
  unfold State.settleSet
  simp only []
  split <;> simp

@[simp] theorem State.fillSet_mem (s : State) (core slot x0 : Nat) : (s.fillSet core slot x0).mem = s.mem := by
  fun_induction State.fillSet <;> simp_all

@[simp] theorem State.settle_mem (s : State) (core slot : Nat) : (s.settle core slot).mem = s.mem := by
  unfold State.settle
  simp

@[simp] theorem State.settled_mem (s : State) : s.settled.mem = s.mem := by
  unfold State.settled
  simp

theorem State.woken_mem (s : State) : s.woken.mem = s.mem := State.foldl_mem _ (fun _ _ => State.unstall_mem _ _) _ _

theorem State.autoBind_wf {s : State} (h : Memory.wf s.mem) (tn : Nat) : Memory.wf (s.autoBind tn).mem := by
  unfold State.autoBind
  split
  · exact h
  · next t _ =>
    extract_lets one
    have hone : ∀ u k, Memory.wf u.mem → ∀ v ∈ one u k, Memory.wf v.mem := by
      intro u k hu v hv
      obtain ⟨t, -, ht⟩ := Option.bind_eq_some_iff.mp hv
      obtain ⟨p, -, hp⟩ := Option.bind_eq_some_iff.mp ht
      exact State.bindAll_wf tn _ hu v hp
    have hall : ∀ (l : List Nat) (acc : Option State), (∀ u ∈ acc, Memory.wf u.mem) →
        ∀ u ∈ l.foldl (fun (acc : Option State) k => acc.bind (fun s => one s k)) acc, Memory.wf u.mem := by
      intro l
      induction l with
      | nil => exact fun _ ha => ha
      | cons k l ih =>
        refine fun acc ha => ih _ (fun u hu => ?_)
        obtain ⟨v, hv, hu⟩ := Option.bind_eq_some_iff.mp hu
        exact hone v k (ha v hv) u hu
    refine Memory.wf_ite (Memory.wf_getD h (hall _ _ ?_)) (Memory.wf_getD h (fun u hu => ?_))
    · rintro u ⟨⟩
      exact h
    · obtain ⟨k, -, hk⟩ := List.exists_of_findSome?_eq_some hu
      exact hone s k h u hk

@[simp] theorem State.hurryAborts_mem (s : State) (h seq : Nat) : (s.hurryAborts h seq).mem = s.mem := by
  unfold State.hurryAborts
  extract_lets pass
  have hp : ∀ (s : State) (step : Nat), (pass s step).mem = s.mem := by
    intro s step
    unfold pass
    split
    · rfl
    · simp only []
      rw [State.foldl_mem _ (fun s m => ?_)]
      split
      · rfl
      · split
        · split <;> simp [State.mapRaft_mem]
        · simp
  rw [hp, hp]

@[simp] theorem State.endLate_mem (s : State) (core : Nat) (j : Job) : (s.endLate core j).mem = s.mem := by
  unfold State.endLate
  simp only []
  split <;> simp

theorem State.awaitTimeout_wf {s : State} (h : Memory.wf s.mem) (k : Nat) : Memory.wf (s.awaitTimeout k).mem := by
  unfold State.awaitTimeout
  grind [rereadAwait_wf]

theorem State.passTime_wf {s : State} (h : Memory.wf s.mem) (n : Nat) : Memory.wf (s.passTime n).mem := by
  unfold State.passTime
  extract_lets s1 s2 s3 s4 s5 s6 s7
  have h1 : Memory.wf s1.mem := h
  clear_value s1
  have h2 : Memory.wf s2.mem := State.foldl_wf _ (fun _ _ hs => by simpa using hs) _ _ h1
  clear_value s2
  have h3 : Memory.wf s3.mem := State.foldl_wf _ (fun _ _ hs => by simpa using hs) _ _ h2
  clear_value s3
  have h4 : Memory.wf s4.mem := State.foldl_wf _ (fun _ _ hs => State.completeJob_wf hs ..) _ _ h3
  clear_value s4
  have h5 : Memory.wf s5.mem := State.foldl_wf _ (fun _ _ hs => by simpa using hs) _ _ h4
  clear_value s5
  have h6 : Memory.wf s6.mem := State.foldl_wf _ (fun _ _ hs => State.awaitTimeout_wf hs _) _ _ h5
  clear_value s6
  have h7 : Memory.wf s7.mem := State.foldl_wf _ (fun _ k hs => by simpa using spwaitTimeout_wf hs (k / 64) (k % 64)) _ _ h6
  clear_value s7
  exact State.foldl_wf _ (fun _ _ hs => by simpa using hs) _ _ h7

@[simp] theorem State.ringError_mem (s : State) (ring n : Nat) : (s.ringError ring n).mem = s.mem := rfl

@[simp] theorem State.correctedError_mem (s : State) (core part : Nat) : (s.correctedError core part).mem = s.mem := by
  unfold State.correctedError
  split <;> simp

@[simp] theorem State.countBelow_mem (s : State) (core k n : Nat) : (s.countBelow core k n).mem = s.mem := by
  unfold State.countBelow
  split <;> simp

@[simp] theorem State.killRegion_mem (s : State) (k : Nat) : (s.killRegion k).mem = s.mem := by
  unfold State.killRegion
  split <;> simp [State.foldl_mem, apply_ite State.mem, State.mapJob_mem]

theorem execExit_canonical {s : State} (h : Memory.wf s.mem) : Canonical (execExit s) := by
  unfold execExit
  refine Canonical.issue h (fun t ht => ?_)
  extract_lets c live
  split
  · exact Res.wf_ite ht (retireBody_wf ht (fun _ hu => hu))
  · simpa using ht

theorem execPref_canonical {s : State} (h : Memory.wf s.mem) (d a i : BitVec 8) : Canonical (execPref d a i s) := by
  unfold execPref
  refine Canonical.issue h (fun t ht => Res.wf_done (Memory.wf_ite ?_ ht))
  rwa [State.foldl_mem _ (fun s x => State.fillL1_mem ..)]

theorem execL2pin_canonical {s : State} (h : Memory.wf s.mem) (d a b : BitVec 8) : Canonical (execL2pin d a b s) := by
  unfold execL2pin
  refine Canonical.issue h (fun t ht => ?_)
  extract_lets c va len put
  have hput : ∀ u x, Memory.wf u.mem → Memory.wf (put u x).state.mem := fun u x hu => by simpa [put] using hu
  clear_value put
  refine Res.wf_ite (hput _ _ ht) ?_
  split
  · exact ht
  · split
    · next e => exact State.wf_of_classify ht e
    · next e =>
      have hu := State.wf_of_classify ht e
      exact Res.wf_ite (hput _ _ hu) (Res.wf_ite (hput _ _ hu) (hput _ _ (by simpa using hu)))
    · next e => simpa using State.wf_of_classify ht e

theorem execPagehintPrefer_canonical {s : State} (h : Memory.wf s.mem) (a b : BitVec 8) :
    Canonical (execPagehintPrefer a b s) := by
  unfold execPagehintPrefer
  refine Canonical.issue h (fun t ht => Res.wf_ite ht ?_)
  split
  · exact Res.wf_done (State.setPhysBytes_wf _ _ _ ht)
  · exact ht

theorem execPoolmap_canonical {s : State} (h : Memory.wf s.mem) (d a b : BitVec 8) : Canonical (execPoolmap d a b s) := by
  unfold execPoolmap
  refine Canonical.issue h (fun t ht => ?_)
  extract_lets c va off len put
  have hput : ∀ u x, Memory.wf u.mem → Memory.wf (put u x).state.mem := fun u x hu => by simpa [put] using hu
  clear_value put
  refine Res.wf_ite (hput _ _ (by simpa using ht)) (Res.wf_ite ht ?_)
  split
  · exact ht
  · split
    · next e => exact State.wf_of_classify ht e
    · next e =>
      have hu := State.wf_of_classify ht e
      extract_lets runs
      split
      · exact hput _ _ hu
      · exact Res.wf_ite (hput _ _ hu) (hput _ _ (by simpa using hu))
    · next e => simpa using State.wf_of_classify ht e

theorem execPoolunmap_canonical {s : State} (h : Memory.wf s.mem) (a : BitVec 8) : Canonical (execPoolunmap a s) := by
  unfold execPoolunmap
  refine Canonical.issue h (fun t ht => ?_)
  extract_lets n
  split
  · exact ht
  · next m _ =>
    extract_lets u v w
    have hu : Memory.wf u.mem := Memory.wf_ite ht (State.writeBack_wf (State.settlePool_wf ht ..) ..)
    clear_value u
    have hw : Memory.wf w.mem := Memory.wf_ite (by simpa [v] using hu) (by simpa [v] using hu)
    exact Res.wf_ite hw hw

theorem execLdacq_canonical {s : State} (h : Memory.wf s.mem) (d a i : BitVec 8) : Canonical (execLdacq d a i s) := by
  unfold execLdacq
  refine Canonical.issue h (fun t ht => ?_)
  extract_lets c z k
  have hv : Memory.wf (vectorAccess t z .read true (c.laneAddrs a.toNat (scaledImm i z)) (fun s xs =>
      s.performNow (c.pendOf (.load d.toNat false (decide (2 ≤ k))) z xs (fun _ => 0) (fun _ => 0) (fun _ => [])))).state.mem :=
    vectorAccess_wf ht (fun _ _ hu => State.performNow_wf hu _)
  split
  · next e =>
    rw [e] at hv
    simpa using hv
  · exact hv

theorem execStrel_canonical {s : State} (h : Memory.wf s.mem) (d a i : BitVec 8) : Canonical (execStrel d a i s) := by
  unfold execStrel
  refine Canonical.issue h (fun t ht => ?_)
  extract_lets k u
  refine Res.wf_ite ht ?_
  rw [storeBody_mem]
  exact Memory.wf_ite ht (by simpa using State.release_wf ht ..)

theorem execFencej_canonical {s : State} (h : Memory.wf s.mem) (k : BitVec 2) (c : BitVec 3) :
    Canonical (execFencej k c s) := by
  unfold execFencej
  exact Canonical.issue h (fun t ht =>
    Res.wf_ite (fenceBody_wf ht ..) (Res.wf_ite (Res.wf_hold ht) (fenceBody_wf (State.observeAll_wf ht) ..)))

theorem execWaitc_canonical {s : State} (h : Memory.wf s.mem) (l n c t : BitVec 6) : Canonical (execWaitc l n c t s) := by
  unfold execWaitc
  exact Canonical.issue h (fun t ht => Res.wf_ite (Res.wf_hold ht) (Res.wf_done (State.observeAll_wf ht)))

theorem execStrm_canonical {s : State} (h : Memory.wf s.mem) (d a : BitVec 8) : Canonical (execStrm d a s) := by
  unfold execStrm
  refine Canonical.issue h (fun t ht => structRead_wf ht (fun u card hu => ?_))
  extract_lets dir bad depth
  refine Res.wf_ite (Res.wf_hold hu) (enterJob_wf hu (fun v id hv => ?_))
  refine Memory.wf_ite (by rwa [State.mapJob_mem]) ?_
  extract_lets w
  have hw : Memory.wf w.mem := by simpa [w, State.mapJob_mem] using hv
  exact Memory.wf_ite (by simpa using hw) (Memory.wf_ite (by simpa using hw) hw)

theorem execJobq_canonical {s : State} (h : Memory.wf s.mem) (d a : BitVec 8) : Canonical (execJobq d a s) := by
  unfold execJobq
  refine Canonical.issue h (fun t ht => ?_)
  split
  · simpa using ht
  · simpa using State.observe_wf ht _

theorem execMma_canonical {s : State} (h : Memory.wf s.mem) (d a : BitVec 8) (t m : BitVec 3) :
    Canonical (execMma d a t m s) := by
  unfold execMma
  refine Canonical.issue h (fun u hu => ?_)
  extract_lets c core va
  refine Res.wf_ite hu (mmaBlock_wf hu (fun v b hv => ?_))
  refine Res.wf_ite hv (Res.wf_ite hv (Res.wf_ite (by simpa using hv) (Res.wf_ite hv (Res.wf_ite hv ?_))))
  refine structRead_wf hv (fun v _ hv => structRead_wf hv (fun v _ hv => Res.wf_ite hv ?_))
  have hw := State.perform_wf hv v.fkey (fun p => p.targets (.vb 0 d.toNat 32 8 .read))
  exact Res.wf_ite hw (by simpa using hw)

theorem execMstore_canonical {s : State} (h : Memory.wf s.mem) (t : BitVec 3) (a f : BitVec 8) :
    Canonical (execMstore t a f s) := by
  unfold execMstore
  refine Canonical.issue h (fun u hu => onTile_wf hu (fun u hu => ?_))
  extract_lets c x n rows parts
  refine Res.wf_ite hu ?_
  split
  · next e => exact State.wf_of_classify hu e
  · next e =>
    have hv := State.wf_of_classify hu e
    exact Res.wf_ite (by simpa using hv) (by simpa using hv)

theorem execLaunch_canonical {s : State} (h : Memory.wf s.mem) (d a : BitVec 8) : Canonical (execLaunch d a s) := by
  unfold execLaunch
  refine Canonical.issue h (fun t ht => structRead_wf (State.release_wf ht ..) (fun u hdr hu => ?_))
  extract_lets put die
  have hput : ∀ u x, Memory.wf u.mem → Memory.wf (put u x).state.mem := fun u x hu => by simpa [put] using hu
  clear_value put
  refine Res.wf_ite (hput _ _ hu) (Res.wf_ite (hput _ _ hu) ?_)
  split
  all_goals
    next e => exact hput _ _ (Memory.wf_snd e (by simpa using hu))

theorem execPhendQueue_canonical {s : State} (h : Memory.wf s.mem) (c l : BitVec 4) (p : BitVec 6) :
    Canonical (execPhendQueue c l p s) := by
  unfold execPhendQueue
  exact Canonical.issue h (fun t ht => phendBody_wf ht (fun u f hu hf => onQueue_wf hu (fun v _ hv => hf v hv)))

theorem execBararr_canonical {s : State} (h : Memory.wf s.mem) (a : BitVec 8) : Canonical (execBararr a s) := by
  unfold execBararr
  refine Canonical.issue h (fun t ht => Res.wf_ite ht (Res.wf_done ?_))
  rw [State.mapTask_mem]
  exact State.release_wf ht ..

theorem execBufpass_canonical {s : State} (h : Memory.wf s.mem) (a b : BitVec 8) : Canonical (execBufpass a b s) := by
  unfold execBufpass
  refine Canonical.issue h (fun t ht => ?_)
  extract_lets c n k bad
  split
  · exact Res.wf_ite ht (Res.wf_done (by simpa using State.release_wf ht ..))
  · exact ht

theorem execBufaddr_canonical {s : State} (h : Memory.wf s.mem) (d a : BitVec 8) : Canonical (execBufaddr d a s) := by
  unfold execBufaddr
  refine Canonical.issue h (fun t ht => ?_)
  extract_lets c n x base
  clear_value x
  cases x with
  | none => exact ht
  | some x => exact Res.wf_done (by simpa using State.acquire_wf ht ..)

theorem execEnq_canonical {s : State} (h : Memory.wf s.mem) (d a : BitVec 8) (l : BitVec 4) (w r : BitVec 1) :
    Canonical (execEnq d a l w r s) := by
  unfold execEnq
  obtain ⟨bad, hbad⟩ : ∃ f, f = State.slotTrap := ⟨_, rfl⟩
  rw [← hbad]
  refine Canonical.issue h (fun t ht => onQueue_wf ht (fun u i hu => ?_))
  extract_lets k v c cap free ls tail v1 v2 v3
  have hv : Memory.wf v.mem := Memory.wf_ite (by simpa using State.release_wf hu ..) hu
  clear_value v
  have h3 : Memory.wf v3.mem := by
    simpa [v3] using State.setBytes_wf _ _ _ (State.foldl_wf _ (fun _ _ hs => State.setBytes_wf _ _ _ hs) _ _ hv)
  refine Res.wf_ite (Res.wf_hold hu) (Res.wf_ite (Res.wf_hold hv) ?_)
  split
  · exact hv
  · exact Res.wf_done (Memory.wf_ite (by simpa using h3) h3)

theorem execDeq_canonical {s : State} (h : Memory.wf s.mem) (d a : BitVec 8) (l : BitVec 4) (q : BitVec 1) :
    Canonical (execDeq d a l q s) := by
  unfold execDeq
  obtain ⟨bad, hbad⟩ : ∃ f, f = State.slotTrap := ⟨_, rfl⟩
  rw [← hbad]
  refine Canonical.issue h (fun t ht => onQueue_wf ht (fun u i hu => ?_))
  extract_lets c cap ls head c' v
  have hv : Memory.wf v.mem := State.setBytes_wf _ _ _ (by simpa using hu)
  split
  · exact hu
  · exact Res.wf_done (Memory.wf_ite (by simpa using hv) hv)

theorem execQinit_canonical {s : State} (h : Memory.wf s.mem) (a : BitVec 8) (l : BitVec 4) :
    Canonical (execQinit a l s) := by
  unfold execQinit
  refine Canonical.issue h (fun t ht => ?_)
  split
  · exact ht
  · exact Res.wf_done (State.setBytes_wf _ _ _ (State.settleQueue_wf ht ..))

theorem execCpinit_canonical {s : State} (h : Memory.wf s.mem) (d a : BitVec 8) : Canonical (execCpinit d a s) := by
  unfold execCpinit
  refine Canonical.issue h (fun t ht => ?_)
  extract_lets va put
  have hput : ∀ u x, Memory.wf u.mem → Memory.wf (put u x).state.mem := fun u x hu => by simpa [put] using hu
  clear_value put
  refine Res.wf_ite ht (rangeCheck_wf ht (fun u xs hu => ?_))
  extract_lets v hdr cn
  have hv : Memory.wf v.mem := State.pocRead_wf hu _
  clear_value v
  refine Res.wf_ite (hput _ _ hv) (Res.wf_ite (hput _ _ hv) (rangeCheck_wf hv (fun w xs hw => ?_)))
  extract_lets die p w1 bytes w2 c
  have h1 : Memory.wf w1.mem := State.requests_wf (State.perform_wf hw ..) ..
  have h2 : Memory.wf w2.mem := State.foldl_wf _ (fun _ _ hs => State.writeAt_wf hs ..) _ _ h1
  exact Res.wf_ite (hput _ _ hw) (hput _ _ h2)

theorem execSprcfg_canonical {s : State} (h : Memory.wf s.mem) (d a : BitVec 8) : Canonical (execSprcfg d a s) := by
  unfold execSprcfg
  refine Canonical.issue h (fun t ht => inRegion_wf ht (fun k r => ?_))
  refine structRead_wf ht (fun u hdr hu => Res.wf_ite hu (structRead_wf hu (fun v desc hv => ?_)))
  extract_lets bad es all cis w
  split
  · exact hv
  · refine Res.wf_ite hv (Res.wf_ite hv (Res.wf_done ?_))
    simpa [w] using hv

theorem execSprout_canonical {s : State} (h : Memory.wf s.mem) (d a b : BitVec 8) : Canonical (execSprout d a b s) := by
  unfold execSprout
  refine Canonical.issue h (fun t ht => ?_)
  extract_lets c n
  refine Res.wf_ite ht (Res.wf_ite ht (Res.wf_ite ht ?_))
  split
  · simpa using ht
  · have hu : Memory.wf (t.settleCrew.release t.fkey 3).mem := State.release_wf (State.settleCrew_wf ht) ..
    refine Res.wf_ite (Res.wf_hold ht) (Res.wf_ite (Res.wf_hold hu) (Res.wf_done ?_))
    rw [State.mapCrew_mem]
    exact State.sprout_wf hu ..

theorem execReward_canonical {s : State} (h : Memory.wf s.mem) (a : BitVec 8) (c : BitVec 4) :
    Canonical (execReward a c s) := by
  unfold execReward
  refine Canonical.issue h (fun t ht => ?_)
  have hu := State.settleCrew_wf ht
  exact Res.wf_ite ht (Res.wf_ite ht (Res.wf_ite (Res.wf_hold ht) (Res.wf_ite (Res.wf_hold hu)
    (rewardArrives_wf (State.release_wf hu ..) ..))))

theorem execCut_canonical {s : State} (h : Memory.wf s.mem) (d a b : BitVec 8) : Canonical (execCut d a b s) := by
  unfold execCut
  refine Canonical.issue h (fun t ht => ?_)
  extract_lets c va i put u
  have hput : ∀ v x, Memory.wf v.mem → Memory.wf (put v x).mem := fun v x hv => by simpa [put] using hv
  clear_value put
  have hu : Memory.wf u.mem := State.expireCoppice_wf ht ..
  clear_value u
  split
  · exact Res.wf_done (hput _ _ hu)
  · refine Res.wf_ite (Res.wf_done (hput _ _ hu)) ?_
    split
    next x _ code goes _ =>
    have hv : Memory.wf (put u code).mem := hput _ _ hu
    refine Res.wf_ite (Res.wf_done hv) ?_
    extract_lets w k y
    have hw : Memory.wf w.mem := Memory.wf_ite (by simpa using hv) hv
    have hy : Memory.wf y.mem := State.checkCoppice_wf hw ..
    clear_value y
    split
    · exact Res.wf_done (by simpa using hy)
    · exact Res.wf_done (State.retireCut_wf hy ..)

theorem execCpstat_canonical {s : State} (h : Memory.wf s.mem) (d a sel : BitVec 8) : Canonical (execCpstat d a sel s) := by
  unfold execCpstat
  refine Canonical.issue h (fun t ht => ?_)
  extract_lets c va put u
  have hput : ∀ v x y b, Memory.wf v.mem → Memory.wf (put v x y b).state.mem := fun v x y b hv =>
    Res.wf_done (Memory.wf_ite (State.acquire_wf (by simpa using hv) ..) (by simpa using hv))
  clear_value put
  have hu : Memory.wf u.mem := State.expireCoppice_wf ht ..
  clear_value u
  split
  · exact Res.wf_ite (hput _ _ _ _ hu) (hput _ _ _ _ hu)
  · exact structRead_wf hu (fun v x hv => Res.wf_ite (hput _ _ _ _ hv) (hput _ _ _ _ hv))

theorem execRaftform_canonical {s : State} (h : Memory.wf s.mem) (d a : BitVec 8) : Canonical (execRaftform d a s) := by
  unfold execRaftform
  refine Canonical.issue h (fun t ht => Res.wf_ite (Res.wf_hold ht) ?_)
  exact structRead_wf (by simpa using ht) (fun u x hu => structRead_wf hu (fun v y hv => by simpa using hv))

theorem execRaftre_canonical {s : State} (h : Memory.wf s.mem) (d a b : BitVec 8) : Canonical (execRaftre d a b s) := by
  unfold execRaftre
  refine Canonical.issue h (fun t ht => ?_)
  extract_lets c n x
  refine Res.wf_ite (Res.wf_hold ht) ?_
  split
  · simpa using ht
  · refine Res.wf_ite (by simpa using ht) (Res.wf_hold ?_)
    rw [State.mapCrew_mem, State.sendJoin_mem, State.mapRaft_mem, State.foldl_mem _ (fun s e => State.originAbort_mem ..)]
    exact ht

theorem execCabort_canonical {s : State} (h : Memory.wf s.mem) (a : BitVec 8) : Canonical (execCabort a s) := by
  unfold execCabort
  refine Canonical.issue h (fun t ht => ?_)
  extract_lets n
  split
  · exact ht
  · refine Res.wf_done ?_
    rwa [State.foldl_mem _ (fun s e => State.abortByProgram_mem ..)]

theorem execTrapret_canonical {s : State} (h : Memory.wf s.mem) : Canonical (execTrapret s) := by
  unfold execTrapret
  refine Canonical.issue h (fun t ht => ?_)
  extract_lets c
  split
  · exact ht
  · refine Res.wf_ite ht ?_
    extract_lets am c' deadline
    refine Res.wf_ite ?_ ?_
    · split <;> simpa using ht
    · split
      · simpa using ht
      · exact retireBody_wf ht (fun u hu => State.packet_wf (by simpa using hu) ..)

theorem execSwrite_canonical {s : State} (h : Memory.wf s.mem) (d : BitVec 8) (i : BitVec 16) :
    Canonical (execSwrite d i s) := by
  unfold execSwrite
  refine Canonical.issue h (fun t ht => ?_)
  extract_lets n c x word u
  have hu : Memory.wf u.mem := by simpa [u] using State.release_wf ht ..
  clear_value u
  refine Res.wf_ite ht (Res.wf_ite ?_ (Res.wf_done (Memory.wf_ite (State.tlbi_wf hu ..) hu)))
  split
  · exact ht
  · simpa using ht

theorem execTrcarm_canonical {s : State} (h : Memory.wf s.mem) (d a b : BitVec 8) : Canonical (execTrcarm d a b s) := by
  unfold execTrcarm
  refine Canonical.issue h (fun t ht => ?_)
  extract_lets c w arm size va put
  have hput : ∀ u x, Memory.wf u.mem → Memory.wf (put u x).mem := fun u x hu => by simpa [put] using hu
  clear_value put
  refine Res.wf_ite ht (Res.wf_ite (Res.wf_ite ht ?_) ?_)
  · split
    · next e => exact State.wf_of_classify ht e
    · next e =>
      have hu := State.wf_of_classify ht e
      exact Res.wf_ite (Res.wf_done (hput _ _ hu)) (State.armTrace_wf (finish_wf _ _ _ (Res.wf_done (hput _ _ hu))) ..)
    · next e => simpa using State.wf_of_classify ht e
  · split
    · exact Res.wf_done (hput _ _ ht)
    · exact Res.wf_done (hput _ _ (State.release_wf (by simpa using State.unitWrite_wf (State.perform_wf ht ..) ..) ..))

theorem execCntrd_canonical {s : State} (h : Memory.wf s.mem) (d k : BitVec 8) : Canonical (execCntrd d k s) := by
  unfold execCntrd
  exact Canonical.issue h (fun t ht => Res.wf_done (by simpa using State.countedLines_wf ht ..))

theorem execCntcfg_canonical {s : State} (h : Memory.wf s.mem) (k b : BitVec 8) : Canonical (execCntcfg k b s) := by
  unfold execCntcfg
  refine Canonical.issue h (fun t ht => Res.wf_ite ht (Res.wf_ite ht ?_))
  rw [Res.state_ended, State.mapCore_mem]
  exact finish_wf _ _ _ (Res.wf_done (by simpa using State.countedLines_wf ht ..))

theorem execTlbi_canonical {s : State} (h : Memory.wf s.mem) (d a b : BitVec 8) : Canonical (execTlbi d a b s) := by
  unfold execTlbi
  exact Canonical.issue h (fun t ht =>
    Res.wf_ite ht (Res.wf_ite ht (Res.wf_done (State.tlbi_wf (State.release_wf ht ..) ..))))

theorem execCtxsv_canonical {s : State} (h : Memory.wf s.mem) (d a b : BitVec 8) : Canonical (execCtxsv d a b s) := by
  unfold execCtxsv
  refine Canonical.issue h (fun t ht => ?_)
  extract_lets x va key put u v
  have hput : ∀ u x, Memory.wf u.mem → Memory.wf (put u x).state.mem := fun u x hu => by simpa [put] using hu
  clear_value put
  have hu : Memory.wf u.mem := State.cutBoundary_wf ht ..
  clear_value u
  have hv : Memory.wf v.mem := by simpa [v] using hu
  clear_value v
  exact Res.wf_ite (hput _ _ ht) (Res.wf_ite (hput _ _ ht) (Res.wf_ite (hput _ _ hu) (Res.wf_ite (hput _ _ hu)
    (Res.wf_ite (Res.wf_hold hv) (saveBody_wf hv _ _ hput)))))

theorem execCtxrs_canonical {s : State} (h : Memory.wf s.mem) (d a b : BitVec 8) : Canonical (execCtxrs d a b s) := by
  unfold execCtxrs
  refine Canonical.issue h (fun t ht => ?_)
  extract_lets x va put
  have hput : ∀ u x, Memory.wf u.mem → Memory.wf (put u x).state.mem := fun u x hu => by simpa [put] using hu
  clear_value put
  refine Res.wf_ite (hput _ _ ht) (rangePlaces_wf ht (fun u xs hu => ?_))
  split
  next e =>
  have hv := Memory.wf_snd e (State.plainRead_wf hu xs)
  refine Res.wf_ite (hput _ _ hv) (rangePlaces_wf hv (fun w ys hw => ?_))
  split
  next e =>
  have hx := Memory.wf_snd e (State.plainRead_wf hw ys)
  exact Res.wf_ite (hput _ _ hx) (restoreBody_wf hx hput)

theorem execMigration_canonical {s : State} (h : Memory.wf s.mem) (ctx va page : Nat) :
    Canonical (execMigration ctx va page s) := by
  unfold execMigration
  refine Canonical.next ?_
  split
  · exact State.endMigration_wf h _
  · split
    · extract_lets old die block ptes held m u v w
      have hv : Memory.wf v.mem := State.foldl_wf _ (fun _ _ hs => State.setPhysBytes_wf _ _ _ hs) _ _ (by simpa [u] using h)
      exact Memory.wf_ite h (State.foldl_wf _ (fun _ _ hs => State.tlbi_wf hs ..) _ _ hv)
    · exact h

theorem execGrunRow_canonical {s : State} (h : Memory.wf s.mem) (core job : Nat) : Canonical (execGrunRow core job s) := by
  unfold execGrunRow
  refine Canonical.next ?_
  split
  · exact h
  · next j _ =>
    refine Memory.wf_ite h (Memory.wf_ite (by rwa [State.mapJob_mem]) ?_)
    have hg := (grunRow_keeps core (s.jobTask j) j).wf s h
    split
    · next e => simpa using Memory.wf_snd e hg
    · next e =>
      rw [State.mapJob_mem]
      exact Memory.wf_snd e hg

theorem execMacroError_canonical {s : State} (h : Memory.wf s.mem) (core mac : Nat) :
    Canonical (execMacroError core mac s) := by
  unfold execMacroError
  refine Canonical.next ?_
  rw [State.foldl_mem _ (fun s o => State.poisonOp_mem ..), State.setMac_mem, State.record_mem]
  exact h

theorem execSpentCommit_canonical {s : State} (h : Memory.wf s.mem) (core slot : Nat) (bad : Bool) :
    Canonical (execSpentCommit core slot bad s) := by
  unfold execSpentCommit
  refine Canonical.next ?_
  extract_lets k
  split
  · exact h
  · next r _ =>
    extract_lets u
    have hu : Memory.wf u.mem := State.foldl_wf _ (fun _ _ hs => State.settleCore_wf hs _) _ _ h
    clear_value u
    refine Memory.wf_ite h (Memory.wf_ite (by rwa [State.abandonSpents_mem]) ?_)
    split
    next b v e =>
    have hv : Memory.wf v.mem := by
      refine Memory.wf_snd e ?_
      split <;> simpa using hu
    split
    · exact State.finishWaiting_wf (by simpa using hv) ..
    · exact State.commitRegion_wf hv ..

theorem execBind_canonical {s : State} (h : Memory.wf s.mem) (task : Nat) (places : List (Nat × Nat × Nat × Nat × Nat)) :
    Canonical (execBind task places s) := by
  unfold execBind
  refine Canonical.next ?_
  split
  · exact h
  · exact Memory.wf_ite h (Memory.wf_getD h (State.bindAll_wf task places h))

theorem execDrainEnd_canonical {s : State} (h : Memory.wf s.mem) (core slot : Nat) :
    Canonical (execDrainEnd core slot s) := by
  unfold execDrainEnd
  refine Canonical.next ?_
  extract_lets k
  split
  · exact h
  · split
    · refine Memory.wf_ite h (State.foldl_wf _ (fun u e hu => State.sinkTok_wf (State.sinkTok_wf hu ..) ..) _ _ ?_)
      rw [State.mapRegion_mem]
      exact h
    · exact Memory.wf_ite (by simpa using h) h

theorem execSweepTokenHop_canonical {s : State} (h : Memory.wf s.mem) (task : Nat) :
    Canonical (execSweepTokenHop task s) := by
  unfold execSweepTokenHop
  refine Canonical.next ?_
  split
  · exact h
  · split
    · exact h
    · extract_lets black u v
      have hu : Memory.wf u.mem := by simpa [u] using h
      clear_value u
      have hv : Memory.wf v.mem := by
        refine State.foldl_wf _ (fun w e hw => ?_) _ _ hu
        split
        · simpa using hw
        · exact hw
      exact Memory.wf_ite h (Memory.wf_ite hu (Memory.wf_ite (State.finishTask_wf hv ..) (by simpa using hu)))

theorem execFslice_canonical {s : State} (h : Memory.wf s.mem) : Canonical (execFslice s) := by
  unfold execFslice
  refine Canonical.next ?_
  split
  · exact Memory.wf_ite h h
  · extract_lets u mine live v w
    have hu : Memory.wf u.mem := by
      unfold u
      split <;> exact h
    clear_value u
    have hv : Memory.wf v.mem := State.foldl_wf State.saveWhole (fun _ _ hs => State.saveWhole_wf hs _) mine _ hu
    have hw : Memory.wf w.mem := by
      rw [State.swapCounters_mem]
      exact hv
    clear_value w
    exact Memory.wf_ite h (Memory.wf_ite (State.foldl_wf State.saveStop (fun _ _ hs => State.saveStop_wf hs _) _ _ hu)
      (Memory.wf_ite hu hw))

theorem execForm_canonical {s : State} (h : Memory.wf s.mem) (ix : Nat) : Canonical (execForm ix s) := by
  unfold execForm
  refine Canonical.next ?_
  split
  · exact h
  · refine Memory.wf_ite (by simpa using h) ?_
    split
    · exact Memory.wf_ite (by simpa using h) h
    · refine Memory.wf_ite (by simpa using h) ?_
      extract_lets u r v
      have hv : Memory.wf v.mem := by simpa [v, u] using h
      clear_value v
      split
      · refine Memory.wf_ite hv ?_
        rwa [State.foldl_mem _ (fun s k => State.sendRaft_mem ..)]
      · simpa using hv
      · exact hv

theorem execColdReset_canonical (s : State) (images : List (Nat × Nat × Nat × Bool)) (bad : List Nat) :
    Canonical (execColdReset images bad s) := by
  unfold execColdReset
  refine Canonical.next ?_
  extract_lets r
  have hr : Memory.wf r.mem := State.reset_wf
  clear_value r
  exact Memory.wf_ite hr (by simpa using hr)

theorem execWarmReset_canonical (s : State) (images : List (Nat × Nat × Nat × Bool)) :
    Canonical (execWarmReset images s) := by
  unfold execWarmReset
  exact Canonical.next (by rw [State.finishBoot_mem]; exact State.reset_wf)

theorem execDestroy_canonical {s : State} (h : Memory.wf s.mem) (fn w : Nat) : Canonical (execDestroy fn w s) := by
  unfold execDestroy
  refine Canonical.next (Memory.wf_ite h ?_)
  split
  · simpa using h
  · next n _ _ =>
    simpa using State.freeContext_wf (State.foldl_wf _ (fun _ _ hs => State.killTask_wf hs ..) _ _ h) n

theorem execForemanFirmwareUpdate_canonical {s : State} (h : Memory.wf s.mem) (op size version : Nat) :
    Canonical (execForemanFirmwareUpdate op size version s) := by
  unfold execForemanFirmwareUpdate
  refine Canonical.next (Memory.wf_ite ?_ ?_)
  · rwa [State.order_mem _ _ _ (fun _ _ => rfl)]
  · split
    · exact h
    · exact Memory.wf_ite (by simpa using h) (Memory.wf_ite (by simpa using h) h)

theorem execCoreOffline_canonical {s : State} (h : Memory.wf s.mem) (op : Nat) : Canonical (execCoreOffline op s) := by
  unfold execCoreOffline
  refine Canonical.next ?_
  extract_lets off
  refine Memory.wf_ite ?_ ?_
  · rwa [State.order_mem _ _ _ (fun _ _ => rfl)]
  · split
    · exact h
    · exact Memory.wf_ite (State.moveGroups_wf (State.drainCores_wf h ..) _) (Memory.wf_ite (by simpa using h) h)

theorem execDieOffline_canonical {s : State} (h : Memory.wf s.mem) (op : Nat) : Canonical (execDieOffline op s) := by
  unfold execDieOffline
  refine Canonical.next ?_
  extract_lets off
  refine Memory.wf_ite ?_ ?_
  · rwa [State.order_mem _ _ _ (fun _ _ => rfl)]
  · split
    · exact h
    · exact Memory.wf_ite (State.moveGroups_wf (State.drainCores_wf h ..) _) (Memory.wf_ite (by simpa using h) h)

theorem Memory.wf_of_same {s : State} (h : Memory.wf s.mem) {o : Option State} (ho : ∀ t ∈ o, t.mem = s.mem) :
    ∀ t ∈ o, Memory.wf t.mem := fun t ht => ho t ht ▸ h

theorem Canonical.issueBranch {i : Instr} {s : State} (h : Memory.wf s.mem) (taken : Crew → Bool)
    (target : PcWord → PcWord) :
    Canonical (issueBranch i s taken target) :=
  .issue h (fun _ hs => Res.wf_ite hs hs)

/-! ## Every instruction and event, every turn, every step -/

/-- An operator word that only routes or computes leaves memory alone. -/
theorem Canonical.fireOp_routing {s : State} (h : Memory.wf s.mem) (w : Word) {f : State → Option State}
    (hf : ∀ t ∈ f s, t.mem = s.mem) : Canonical (Machine.fireOp w s f) := .fireOp h w (Memory.wf_of_same h hf)

/-- Every instruction and every event keeps the canonical form. -/
theorem exec_canonical {s : State} (h : Memory.wf s.mem) (i : Instr) : Canonical (exec i s) := by
  cases i with
  | nop => exact .issueCrew h _
  | setm => exact .issueCrew h _
  | setmx => exact .issueCrew h _
  | bra =>
    unfold exec execBra
    exact .issueBranch h _ _
  | brnz =>
    unfold exec execBrnz
    exact .issueBranch h _ _
  | brz =>
    unfold exec execBrz
    exact .issueBranch h _ _
  | brany =>
    unfold exec execBrany
    exact .issueBranch h _ _
  | brall =>
    unfold exec execBrall
    exact .issueBranch h _ _
  | brdiv => exact execBrdiv_canonical h ..
  | rcset => exact .issueCrew h _
  | rcwait => exact execRcwait_canonical h ..
  | call => exact execCall_canonical h ..
  | callr => exact execCallr_canonical h ..
  | ret => exact execRet_canonical h ..
  | jmpr => exact execJmpr_canonical h ..
  | exit => exact execExit_canonical h
  | smovi => exact .issueCrew h _
  | smovhi => exact .issueCrew h _
  | saddi => exact .issueCrew h _
  | spchi => exact .issueCrew h _
  | sadd => exact .issueCrew h _
  | ssub => exact .issueCrew h _
  | smul => exact .issueCrew h _
  | sand => exact .issueCrew h _
  | sor => exact .issueCrew h _
  | sxor => exact .issueCrew h _
  | sshl => exact .issueCrew h _
  | sshr => exact .issueCrew h _
  | ssra => exact .issueCrew h _
  | sslt => exact .issueCrew h _
  | ssltn => exact .issueCrew h _
  | sseq => exact .issueCrew h _
  | sadd64 => exact .issueCrew h _
  | smin => exact .issueCrew h _
  | smax => exact .issueCrew h _
  | plog => exact .issueCrew h _
  | pcount => exact .issueCrew h _
  | ptos => exact .issueCrew h _
  | sfromp => exact .issueCrew h _
  | getm => exact .issueCrew h _
  | add => exact .issueCrew h _
  | sub => exact .issueCrew h _
  | mul => exact .issueCrew h _
  | mulhi => exact .issueCrew h _
  | fma => exact .issueCrew h _
  | fms => exact .issueCrew h _
  | fnma => exact .issueCrew h _
  | min => exact .issueCrew h _
  | max => exact .issueCrew h _
  | abs => exact .issueCrew h _
  | neg => exact .issueCrew h _
  | cmpeq => exact .issueCrew h _
  | cmpne => exact .issueCrew h _
  | cmplt => exact .issueCrew h _
  | cmple => exact .issueCrew h _
  | cmpun => exact .issueCrew h _
  | sel => exact .issueCrew h _
  | addi => exact .issueCrew h _
  | movi => exact .issueCrew h _
  | movhi => exact .issueCrew h _
  | mov => exact .issueCrew h _
  | div => exact .issueCrew h _
  | rem => exact .issueCrew h _
  | rcp => exact .issueCrew h _
  | rsq => exact .issueCrew h _
  | sqrt => exact .issueCrew h _
  | exp2 => exact .issueCrew h _
  | log2 => exact .issueCrew h _
  | sinpi => exact .issueCrew h _
  | cospi => exact .issueCrew h _
  | dot2 => exact .issueCrew h _
  | dot4 => exact .issueCrew h _
  | floor => exact .issueCrew h _
  | ceil => exact .issueCrew h _
  | trunc => exact .issueCrew h _
  | rint => exact .issueCrew h _
  | fclass => exact .issueCrew h _
  | scaleb => exact .issueCrew h _
  | copysign => exact .issueCrew h _
  | absdiff => exact .issueCrew h _
  | cvt => exact .issueCrew h _
  | cvtp => exact .issueCrew h _
  | cvtq => exact .issueCrew h _
  | unpklo => exact .issueCrew h _
  | unpkhi => exact .issueCrew h _
  | seedUniform => exact .issueCrew h _
  | seedPerLane => exact .issueCrew h _
  | cvtsc => exact .issueCrew h _
  | and => exact .issueCrew h _
  | or => exact .issueCrew h _
  | xor => exact .issueCrew h _
  | not => exact .issueCrew h _
  | shl => exact .issueCrew h _
  | shr => exact .issueCrew h _
  | sra => exact .issueCrew h _
  | rotl => exact .issueCrew h _
  | bfx => exact .issueCrew h _
  | bfi => exact .issueCrew h _
  | popc => exact .issueCrew h _
  | clz => exact .issueCrew h _
  | brev => exact .issueCrew h _
  | ballot => exact .issueCrew h _
  | shuf => exact .issueCrew h _
  | shufx => exact .issueCrew h _
  | lrot => exact .issueCrew h _
  | bcast => exact .issueCrew h _
  | vget => exact .issueCrew h _
  | vset => exact .issueCrew h _
  | redadd => exact .issueCrew h _
  | redmin => exact .issueCrew h _
  | redmax => exact .issueCrew h _
  | laneid => exact .issueCrew h _
  | ldb => exact execLdb_canonical h ..
  | ldh => exact execLdh_canonical h ..
  | ldw => exact execLdw_canonical h ..
  | ldd => exact execLdd_canonical h ..
  | ldq => exact execLdq_canonical h ..
  | stb => exact execStb_canonical h ..
  | sth => exact execSth_canonical h ..
  | stw => exact execStw_canonical h ..
  | std => exact execStd_canonical h ..
  | stq => exact execStq_canonical h ..
  | ldx => exact execLdx_canonical h ..
  | stx => exact execStx_canonical h ..
  | sld => exact execSld_canonical h ..
  | sld64 => exact execSld64_canonical h ..
  | sst => exact execSst_canonical h ..
  | sst64 => exact execSst64_canonical h ..
  | pref => exact execPref_canonical h ..
  | l2pin => exact execL2pin_canonical h ..
  | l2unpin => exact execL2unpin_canonical h ..
  | pagehintPrefer => exact execPagehintPrefer_canonical h ..
  | pagehintMigrate => exact execPagehintMigrate_canonical h ..
  | pagehintClear => exact execPagehintClear_canonical h ..
  | probe => exact execProbe_canonical h ..
  | poolmap => exact execPoolmap_canonical h ..
  | poolunmap => exact execPoolunmap_canonical h ..
  | fence => exact execFence_canonical h ..
  | ldacq => exact execLdacq_canonical h ..
  | strel => exact execStrel_canonical h ..
  | aadd => exact execAadd_canonical h ..
  | amin => exact execAmin_canonical h ..
  | amax => exact execAmax_canonical h ..
  | aand => exact execAand_canonical h ..
  | aor => exact execAor_canonical h ..
  | axor => exact execAxor_canonical h ..
  | axchg => exact execAxchg_canonical h ..
  | acas => exact execAcas_canonical h ..
  | ainc => exact execAinc_canonical h ..
  | adec => exact execAdec_canonical h ..
  | await => exact execAwait_canonical h ..
  | fencej => exact execFencej_canonical h ..
  | waitc => exact execWaitc_canonical h ..
  | copy => exact execCopy_canonical h ..
  | copyr => exact execCopyr_canonical h ..
  | strm => exact execStrm_canonical h ..
  | pop => exact execPop_canonical h ..
  | strmbar => exact execStrmbar_canonical h ..
  | jobq => exact execJobq_canonical h ..
  | jobcan => exact execJobcan_canonical h ..
  | mload => exact execMload_canonical h ..
  | mma => exact execMma_canonical h ..
  | mzero => exact execMzero_canonical h ..
  | mstore => exact execMstore_canonical h ..
  | mread => exact execMread_canonical h ..
  | mflags => exact execMflags_canonical h ..
  | mtsc => exact .issueCrew h _
  | gbind => exact execGbind_canonical h ..
  | grun => exact execGrun_canonical h ..
  | gstat => exact execGstat_canonical h ..
  | spent => exact execSpent_canonical h ..
  | spexit => exact execSpexit_canonical h ..
  | spwait => exact execSpwait_canonical h ..
  | ecw => exact execEcw_canonical h ..
  | tmark => exact execTmark_canonical h ..
  | spinj => exact execSpinj_canonical h ..
  | sptake => exact execSptake_canonical h ..
  | spstopEnd => exact execSpstopEnd_canonical h
  | spstopHold => exact execSpstopHold_canonical h
  | spstopQuiet => exact execSpstopQuiet_canonical h
  | spstopRelease => exact execSpstopRelease_canonical h
  | spstat => exact execSpstat_canonical h ..
  | sprcfg => exact execSprcfg_canonical h ..
  | launch => exact execLaunch_canonical h ..
  | phendNone => exact execPhendNone_canonical h ..
  | phendBar => exact execPhendBar_canonical h ..
  | phendQueue => exact execPhendQueue_canonical h ..
  | phendWord => exact execPhendWord_canonical h ..
  | bararr => exact execBararr_canonical h ..
  | bufget => exact execBufget_canonical h ..
  | bufpass => exact execBufpass_canonical h ..
  | bufdrop => exact execBufdrop_canonical h ..
  | bufaddr => exact execBufaddr_canonical h ..
  | enq => exact execEnq_canonical h ..
  | deq => exact execDeq_canonical h ..
  | qinit => exact execQinit_canonical h ..
  | qlen => exact execQlen_canonical h ..
  | sweep => exact execSweep_canonical h ..
  | estim => exact execEstim_canonical h ..
  | widrd => exact .issueCrew h _
  | widfld => exact execWidfld_canonical h ..
  | qfence => exact execQfence_canonical h
  | cpinit => exact execCpinit_canonical h ..
  | sprout => exact execSprout_canonical h ..
  | reward => exact execReward_canonical h ..
  | cut => exact execCut_canonical h ..
  | cpstat => exact execCpstat_canonical h ..
  | cpadv => exact execCpadv_canonical h ..
  | raftform => exact execRaftform_canonical h ..
  | raftre => exact execRaftre_canonical h ..
  | car => exact execCar_canonical h ..
  | cag => exact execCag_canonical h ..
  | crs => exact execCrs_canonical h ..
  | cbc => exact execCbc_canonical h ..
  | ca2a => exact execCa2a_canonical h ..
  | cbar => exact execCbar_canonical h ..
  | cstat => exact execCstat_canonical h ..
  | cabort => exact execCabort_canonical h ..
  | rput => exact execRput_canonical h ..
  | rget => exact execRget_canonical h ..
  | trap => exact execTrap_canonical h ..
  | trapret => exact execTrapret_canonical h
  | sread => exact execSread_canonical h ..
  | swrite => exact execSwrite_canonical h ..
  | brk => exact execBrk_canonical h ..
  | mark => exact execMark_canonical h ..
  | trcarm => exact execTrcarm_canonical h ..
  | cntrd => exact execCntrd_canonical h ..
  | cntcfg => exact execCntcfg_canonical h ..
  | halt => exact execHalt_canonical h
  | clock => exact execClock_canonical h ..
  | tlbi => exact execTlbi_canonical h ..
  | ctxsv => exact execCtxsv_canonical h ..
  | ctxrs => exact execCtxrs_canonical h ..
  | undef => exact execUndef_canonical h ..
  | reservedOpcode => exact execReservedOpcode_canonical h ..
  | opPass => exact .fireOp_routing h _ (fireBy_mem s _)
  | opCopy => exact .fireOp_routing h _ (fireBy_mem s _)
  | opSel => exact .fireOp_routing h _ (fireBy_mem s _)
  | opSteer => exact .fireOp_routing h _ (fireBy_mem s _)
  | opMerge => exact .fireOp_routing h _ (fireBy_mem s _)
  | opAdd => exact .fireOp_routing h _ (fireBy_mem s _)
  | opSub => exact .fireOp_routing h _ (fireBy_mem s _)
  | opMul => exact .fireOp_routing h _ (fireBy_mem s _)
  | opFma => exact .fireOp_routing h _ (fireBy_mem s _)
  | opMin => exact .fireOp_routing h _ (fireBy_mem s _)
  | opMax => exact .fireOp_routing h _ (fireBy_mem s _)
  | opCmpeq => exact .fireOp_routing h _ (fireBy_mem s _)
  | opCmpne => exact .fireOp_routing h _ (fireBy_mem s _)
  | opCmplt => exact .fireOp_routing h _ (fireBy_mem s _)
  | opCmple => exact .fireOp_routing h _ (fireBy_mem s _)
  | opAnd => exact .fireOp_routing h _ (fireBy_mem s _)
  | opOr => exact .fireOp_routing h _ (fireBy_mem s _)
  | opXor => exact .fireOp_routing h _ (fireBy_mem s _)
  | opShl => exact .fireOp_routing h _ (fireBy_mem s _)
  | opShr => exact .fireOp_routing h _ (fireBy_mem s _)
  | opDot4 => exact .fireOp_routing h _ (fireBy_mem s _)
  | opCvt => exact .fireOp_routing h _ (fireBy_mem s _)
  | opRate => exact .fireOp_routing h _ (fireBy_mem s _)
  | opScalemul => exact .fireOp_routing h _ (fireBy_mem s _)
  | opLoopgen => exact .fireOp_routing h _ (fireBy_mem s _)
  | opCount => exact .fireOp_routing h _ (fireBy_mem s _)
  | opAcc => exact .fireOp_routing h _ (fireBy_mem s _)
  | opSrc => exact .fireOp h _ (Memory.wf_of_same h (srcFire_mem s))
  | opSnk => exact .fireOp h _ (snkFire_wf h)
  | opMemld => exact .fireOp h _ (Memory.wf_of_same h (memldFire_mem s))
  | opMemst => exact .fireOp h _ (memstFire_wf h)
  | opExitx => exact .fireOp h _ (Memory.wf_of_same h (exitxFire_mem s))
  | opInj => exact .fireOp h _ (Memory.wf_of_same h (fireInj_mem s))
  | opTgate => exact .fireOp_routing h _ (fireBy_mem s _)
  | opEdgetx => exact .fireOp h _ (Memory.wf_of_same h (edgetxFire_mem s))
  | opEdgerx => exact .fireOp_routing h _ (fireBy_mem s _)
  | loadComplete => exact execLoadComplete_canonical h ..
  | storeComplete => exact execStoreComplete_canonical h ..
  | replay => exact execReplay_canonical h ..
  | landingPagerServe => exact execLandingPagerServe_canonical h ..
  | pageridle => exact execPageridle_canonical h ..
  | faulttmo => exact execFaulttmo_canonical h ..
  | migration => exact execMigration_canonical h ..
  | pendingNotificationPost => exact execPendingNotificationPost_canonical h ..
  | fabtmo => exact execFabtmo_canonical h ..
  | activeSetSwap => exact execActiveSetSwap_canonical h ..
  | awaitWake => exact execAwaitWake_canonical h ..
  | awaitDeadline => exact execAwaitDeadline_canonical h ..
  | jobStart => exact execJobStart_canonical h ..
  | copyChunk => exact execCopyChunk_canonical h ..
  | streamEntry => exact execStreamEntry_canonical h ..
  | mloadRow => exact execMloadRow_canonical h ..
  | grunRow => exact execGrunRow_canonical h ..
  | jobComplete => exact execJobComplete_canonical h ..
  | mmaBroadcast => exact execMmaBroadcast_canonical h ..
  | macroError => exact execMacroError_canonical h ..
  | tileCellError => exact execTileCellError_canonical h ..
  | spentCommit => exact execSpentCommit_canonical h ..
  | spexitComplete => exact execSpexitComplete_canonical h ..
  | regionCompletion => exact execRegionCompletion_canonical h ..
  | spwaitDeadline => exact execSpwaitDeadline_canonical h ..
  | drainEnd => exact execDrainEnd_canonical h ..
  | watchdog => exact execWatchdog_canonical h ..
  | saveStop => exact execSaveStop_canonical h ..
  | debugHalt => exact execDebugHalt_canonical h ..
  | haltRelease => exact execHaltRelease_canonical h ..
  | configStoreError => exact execConfigStoreError_canonical h ..
  | bind => exact execBind_canonical h ..
  | nextPhaseReady => exact execNextPhaseReady_canonical h ..
  | gangwait => exact execGangwait_canonical h ..
  | gangtmo => exact execGangtmo_canonical h ..
  | preemptionChoice => exact execPreemptionChoice_canonical h ..
  | sweepTokenHop => exact execSweepTokenHop_canonical h ..
  | fslice => exact execFslice_canonical h
  | coppiceDeadline => exact execCoppiceDeadline_canonical h ..
  | form => exact execForm_canonical h ..
  | join => exact execJoin_canonical h ..
  | contrib => exact execContrib_canonical h ..
  | result => exact execResult_canonical h ..
  | arrive => exact execArrive_canonical h ..
  | abort => exact execAbort_canonical h ..
  | remreq => exact execRemreq_canonical h ..
  | remack => exact execRemack_canonical h ..
  | collectiveTimeout => exact execCollectiveTimeout_canonical h ..
  | raftformTimeout => exact execRaftformTimeout_canonical h ..
  | raftJoinTimeout => exact execRaftJoinTimeout_canonical h ..
  | remoteAccessTimeout => exact execRemoteAccessTimeout_canonical h ..
  | linkRetryFailure => exact execLinkRetryFailure_canonical h ..
  | portRetrainAttempt => exact execPortRetrainAttempt_canonical h ..
  | foremanMemoryError => exact execForemanMemoryError_canonical h ..
  | foremanWatchdog => exact execForemanWatchdog_canonical h ..
  | syncPlaneLoss => exact execSyncPlaneLoss_canonical h ..
  | thermalTrip => exact execThermalTrip_canonical h
  | freezeBroadcast => exact execFreezeBroadcast_canonical h
  | capsuleSeal => exact execCapsuleSeal_canonical h
  | coldReset => exact execColdReset_canonical s ..
  | warmReset => exact execWarmReset_canonical s ..
  | lqtailDoorbell => exact execLqtailDoorbell_canonical h ..
  | launchQueueEntry => exact execLaunchQueueEntry_canonical h ..
  | freplyServe => exact execFreplyServe_canonical h ..
  | freplyRefuse => exact execFreplyRefuse_canonical h ..
  | controlRecordPost => exact execControlRecordPost_canonical h ..
  | create => exact execCreate_canonical h ..
  | update => exact execUpdate_canonical h ..
  | destroy => exact execDestroy_canonical h ..
  | read => exact execRead_canonical h ..
  | release => exact execRelease_canonical h ..
  | freeze => exact execFreeze_canonical h ..
  | info => exact execInfo_canonical h ..
  | foremanFirmwareUpdate => exact execForemanFirmwareUpdate_canonical h ..
  | coreOffline => exact execCoreOffline_canonical h ..
  | coreOnline => exact execCoreOnline_canonical h ..
  | dieOffline => exact execDieOffline_canonical h ..
  | dieOnline => exact execDieOnline_canonical h ..
  | retrainHbmStack => exact execRetrainHbmStack_canonical h ..
  | retrainPort => exact execRetrainPort_canonical h ..
  | addFreePages => exact execAddFreePages_canonical h
  | configRecordReplace => exact execConfigRecordReplace_canonical h ..
  | getVersion => exact execGetVersion_canonical h ..
  | getCapabilities => exact execGetCapabilities_canonical h ..
  | negotiateAlgorithms => exact execNegotiateAlgorithms_canonical h ..
  | getDigests => exact execGetDigests_canonical h ..
  | getCertificate => exact execGetCertificate_canonical h ..
  | challenge => exact execChallenge_canonical h ..
  | getMeasurements => exact execGetMeasurements_canonical h ..
  | hostBar2Access => exact execHostBar2Access_canonical h ..
  | registerWrite => exact execRegisterWrite_canonical h ..
  | memoryReply => exact execMemoryReply_canonical h ..
  | memoryError => exact execMemoryError_canonical h ..
  | launchQueueTake => exact execLaunchQueueTake_canonical h ..

/-- What a fetch leaves has its memory in canonical form, whether it gives a word or stops. -/
theorem State.fetch_wf {s : State} (h : Memory.wf s.mem) :
    (∀ w t, s.fetch = .word w t → Memory.wf t.mem) ∧ ∀ t, s.fetch = .stop t → Memory.wf t.mem := by
  unfold State.fetch
  extract_lets c
  split
  · next e =>
    refine ⟨fun _ _ hw => (by cases hw), ?_⟩
    rintro t ⟨⟩
    exact takeTrap_wf (State.wf_of_classify h e) ..
  · next e =>
    refine ⟨fun _ _ hw => (by cases hw), ?_⟩
    rintro t ⟨⟩
    simpa using State.wf_of_classify h e
  · next e =>
    refine ⟨?_, fun _ hw => (by cases hw)⟩
    rintro w t ⟨⟩
    exact State.fetchWord_wf (State.wf_of_classify h e) ..

theorem State.fetchTurn_canonical {s : State} (h : Memory.wf s.mem) : Canonical s.fetchTurn := by
  obtain ⟨hword, hstop⟩ := State.fetch_wf h
  unfold State.fetchTurn
  split
  · next t e => exact .next (hstop t e)
  · next w t e =>
    split
    · exact exec_canonical (hword w t e) _
    · exact execReservedOpcode_canonical (hword w t e) w

theorem State.issueTurn_canonical {s : State} (h : Memory.wf s.mem) : Canonical s.issueTurn := by
  have hu : Memory.wf s.inScope.mem := State.inScope_wf h
  have hv : Memory.wf s.inScope.woken.settled.mem := by
    rw [State.settled_mem, State.woken_mem]
    exact hu
  unfold State.issueTurn
  split
  · exact .next (Memory.wf_ite (State.cutBoundary_wf h _) (State.dueTrap_wf h))
  · dsimp only
    split
    · exact State.fetchTurn_canonical hu
    · split
      · exact State.fetchTurn_canonical hv
      · exact .next hv

theorem Canonical.fault (e : Fault) : Canonical (.fault e) := ⟨fun _ h => by cases h⟩

theorem fireSlot_canonical {s : State} (h : Memory.wf s.mem) (core sl : Nat) : Canonical (fireSlot core sl s) :=
  .next (Memory.wf_getD h (fireAt_wf h core sl))

/-- A turn of any agent keeps the canonical form. -/
theorem State.turn_canonical {s : State} (h : Memory.wf s.mem) (t : Turn) : Canonical (s.turn t) := by
  unfold State.turn
  split
  · split
    · exact State.issueTurn_canonical h
    · exact .fault _
  · split
    · exact fireSlot_canonical h _ _
    · exact .fault _
  · split
    · exact exec_canonical h _
    · exact .next h
  · exact .next (State.passTime_wf h _)
  · exact .next h
  · exact .next (by simpa using h)
  · exact .next (by simpa using h)
  · exact .next (by simpa using h)
  · exact .next (by simpa using h)
  · exact .next (State.endFaulted_wf h _)

/-- What an agent could do keeps the canonical form, whatever state it finds. -/
def Chore.Keeps (f : Chore) : Prop := ∀ s, Memory.wf s.mem → Canonical (f s)

theorem crewChores_keep (key : Nat) (c : Crew) : ∀ f ∈ crewChores key c, Chore.Keeps f := by
  unfold crewChores
  simp only [List.mem_append, List.mem_cons, List.mem_flatMap, List.not_mem_nil, or_false]
  rintro f ((rfl | rfl | rfl | rfl | rfl | rfl | rfl | rfl) | ⟨i, -, rfl | rfl | rfl⟩) s h
  · exact State.issueTurn_canonical h
  · exact .next (State.cutBoundary_wf h key)
  · exact execReplay_canonical h ..
  · exact execAwaitWake_canonical h ..
  · exact execAwaitDeadline_canonical h ..
  · exact execSpwaitDeadline_canonical h ..
  · exact execSpexitComplete_canonical h ..
  · exact execActiveSetSwap_canonical h ..
  · exact execLoadComplete_canonical h ..
  · exact execStoreComplete_canonical h ..
  · exact execRemoteAccessTimeout_canonical h ..

theorem coreChores_keep (core : Nat) (c : Core) : ∀ f ∈ coreChores core c, Chore.Keeps f := by
  unfold coreChores
  simp only [List.mem_append, List.mem_cons, List.mem_flatMap, List.mem_map, List.not_mem_nil, or_false]
  rintro f ((⟨j, -, rfl | rfl | rfl | rfl | rfl | rfl | rfl | rfl⟩ | ⟨i, -, rfl⟩) | ⟨i, -, rfl⟩) s h
  · exact execJobStart_canonical h ..
  · exact execCopyChunk_canonical h ..
  · exact execStreamEntry_canonical h ..
  · exact execStreamEntry_canonical h ..
  · exact execMloadRow_canonical h ..
  · exact execGrunRow_canonical h ..
  · exact execJobComplete_canonical h ..
  · exact execCollectiveTimeout_canonical h ..
  · exact execMmaBroadcast_canonical h ..
  · exact execMemoryReply_canonical h ..

theorem regionChores_keep (key : Nat) (r : Region) : ∀ f ∈ regionChores key r, Chore.Keeps f := by
  unfold regionChores
  simp only [List.mem_append, List.mem_cons, List.mem_map, List.mem_ite_nil_right, List.not_mem_nil, or_false]
  rintro f (((rfl | rfl | rfl | rfl) | ⟨-, rfl⟩) | ⟨k, -, rfl⟩) s h
  · exact execSpentCommit_canonical h ..
  · exact execRegionCompletion_canonical h ..
  · exact execDrainEnd_canonical h ..
  · exact execWatchdog_canonical h ..
  · exact execSaveStop_canonical h ..
  · exact fireSlot_canonical h ..

theorem dieChores_keep (die : Nat) (d : Die) : ∀ f ∈ dieChores die d, Chore.Keeps f := by
  unfold dieChores
  simp only [List.mem_cons, List.mem_flatMap, List.not_mem_nil, or_false]
  rintro f (rfl | ⟨i, -, rfl | rfl⟩) s h
  · exact execPageridle_canonical h ..
  · exact execLandingPagerServe_canonical h ..
  · exact execFaulttmo_canonical h ..

theorem taskChores_keep (tn : Nat) (t : Task) : ∀ f ∈ taskChores tn t, Chore.Keeps f := by
  unfold taskChores
  simp only [List.mem_append, List.mem_cons, List.mem_map, List.not_mem_nil, or_false]
  rintro f ((rfl | rfl | rfl) | ⟨k, -, rfl⟩) s h
  · exact .next (State.autoBind_wf h tn)
  · exact execGangtmo_canonical h ..
  · exact execSweepTokenHop_canonical h ..
  · exact execNextPhaseReady_canonical h ..

theorem raftChores_keep (x : Nat) (r : Raft) : ∀ f ∈ raftChores x r, Chore.Keeps f := by
  unfold raftChores
  simp only [List.mem_cons, List.mem_flatMap, List.not_mem_nil, or_false]
  rintro f ⟨k, -, rfl | rfl⟩ s h
  · exact execRaftformTimeout_canonical h ..
  · exact execRaftJoinTimeout_canonical h ..

theorem msgChores_keep (ix : Nat) : ∀ f ∈ msgChores ix, Chore.Keeps f := by
  unfold msgChores
  simp only [List.mem_cons, List.not_mem_nil, or_false]
  rintro f (rfl | rfl | rfl | rfl | rfl | rfl | rfl | rfl) s h
  · exact execForm_canonical h ..
  · exact execJoin_canonical h ..
  · exact execContrib_canonical h ..
  · exact execResult_canonical h ..
  · exact execArrive_canonical h ..
  · exact execAbort_canonical h ..
  · exact execRemreq_canonical h ..
  · exact execRemack_canonical h ..

theorem State.chores_keep (s : State) : ∀ f ∈ s.chores, Chore.Keeps f := by
  unfold State.chores
  simp only [List.mem_append, List.mem_cons, List.mem_flatMap, List.mem_map, List.not_mem_nil, or_false]
  rintro f ((((((((((((((((⟨e, -, hf⟩ | ⟨e, -, hf⟩) | ⟨e, -, hf⟩) | ⟨e, -, hf⟩) | ⟨e, -, hf⟩) | ⟨e, -, hf⟩) | ⟨n, -, rfl⟩) |
    ⟨r, -, rfl⟩) | ⟨m, -, rfl⟩) | ⟨e, -, rfl⟩) | rfl) | ⟨c, -, rfl⟩) | ⟨e, -, hf⟩) | ⟨ix, -, hf⟩) | ⟨p, -, rfl⟩) | ⟨n, -, hf⟩) |
    hf) s h
  · exact crewChores_keep _ _ f hf s h
  · exact coreChores_keep _ _ f hf s h
  · exact regionChores_keep _ _ f hf s h
  · exact dieChores_keep _ _ f hf s h
  · exact taskChores_keep _ _ f hf s h
  · obtain rfl | rfl := hf
    · exact execGangwait_canonical h ..
    · exact execPreemptionChoice_canonical h ..
  · exact execPendingNotificationPost_canonical h ..
  · exact execMigration_canonical h ..
  · exact execMigration_canonical h ..
  · exact .next (State.endFaulted_wf h _)
  · exact .next (State.checkpoint_wf h _)
  · exact execCoppiceDeadline_canonical h ..
  · exact raftChores_keep _ _ f hf s h
  · exact msgChores_keep _ f hf s h
  · exact execPortRetrainAttempt_canonical h ..
  · obtain rfl | rfl := hf
    · exact execLaunchQueueEntry_canonical h ..
    · exact execControlRecordPost_canonical h ..
  · obtain rfl | rfl | rfl := hf
    · exact execFreezeBroadcast_canonical h
    · exact execCapsuleSeal_canonical h
    · exact execFslice_canonical h

/-- The first of some chores that does something keeps the canonical form if each of them does. -/
theorem State.firstChore_wf {s : State} (h : Memory.wf s.mem) :
    ∀ {fs : List Chore}, (∀ f ∈ fs, Chore.Keeps f) → ∀ t ∈ s.firstChore fs, Memory.wf t.mem
  | [], _, t, ht => by cases ht
  | f :: fs, hk, t, ht => by
    have hrest := State.firstChore_wf h (fun g hg => hk g (List.mem_cons_of_mem f hg))
    unfold State.firstChore at ht
    split at ht
    · next u e =>
      split at ht
      · exact hrest t ht
      · cases ht
        exact (hk f List.mem_cons_self s h).wf _ e
    · exact hrest t ht

theorem State.freeTurn_canonical {s : State} (h : Memory.wf s.mem) : Canonical s.freeTurn := by
  refine .next (State.passTime_wf (Memory.wf_getD h (State.firstChore_wf h (fun f hf => s.chores_keep f ?_))) 1)
  rw [List.mem_append] at hf
  exact hf.elim List.mem_of_mem_drop List.mem_of_mem_take

/-- One step keeps the canonical form. -/
theorem step_canonical {s : State} (h : Memory.wf s.mem) : Canonical (step s) := by
  unfold step
  split
  · exact State.freeTurn_canonical h
  · exact State.turn_canonical (by exact h) _

/-- Settles O2: the storage after reset is empty. -/
theorem resetKeepsStorageCanonical : Obligations.ResetKeepsStorageCanonical := State.reset_wf

/-- Settles O3: every agent's turn, and every chore that the model's own policy may choose, keeps the canonical form. -/
theorem everyStepKeepsStorageCanonical : Obligations.EveryStepKeepsStorageCanonical :=
  fun _ t h e => (step_canonical h).wf t e

end Sys2Proof.Machine
end

section
/-! PROOF of O28's negation: a load of 8 bytes whose entry is marked sign-extended. -/

namespace Sys2Proof.Machine

/-- A load of 8 bytes of one lane at the vault's first byte, whose entry asks for sign extension: no instruction makes it, since
`Crew.signedLoad` marks the loads of LDB and LDH alone, but the statement's hypotheses allow it. -/
def signedWidePend : Pend :=
  { kind := .load 20 true true, size := 8, accs := [⟨0, 0, ⟨vaultIdx 0 0 0, false⟩, 0, 0, [], false⟩], pc := 0, seq := 0 }

/-- The reset state with one crew that has the load outstanding; of the eight bytes the fifth is 1, and the others are 0. -/
def signedWideState : State :=
  { State.reset with mem := [(vaultIdx 0 0 0 + 4, 1)], crews := [(0, { Crew.blank with pend := [signedWidePend] })] }

/-- The value's high word is 1, and LOAD_COMPLETE leaves 0 in the high register: the extension keeps 32 bits. -/
theorem loadComplete_signedWide :
    signedWideState.bytes (vaultIdx 0 0 0) 8 = 2 ^ 32 ∧
      ((signedWideState.completeLanes (crewKey 0 0) 0 1 PendKind.isLoad).crews.get? (crewKey 0 0)).map (fun c => c.getV 21 0) = some 0 := by
  decide +kernel

/-- Refutes O28: its first part also speaks of an 8-byte load whose entry is marked sign-extended, and such an entry brings only
the low word of the value into the register pair. -/
theorem not_completionsReadAndWriteMemory : ¬ Obligations.CompletionsReadAndWriteMemory := by
  rintro ⟨hload, -⟩
  obtain ⟨hbytes, hhigh⟩ := loadComplete_signedWide
  obtain ⟨t, c', hexec, hget, ⟨-, hwide⟩, -⟩ := hload signedWideState 0 0 0 1 { Crew.blank with pend := [signedWidePend] }
    signedWidePend _ 20 true true rfl rfl rfl rfl (by decide) (by decide) (by decide) (by decide) (by decide)
    (fun h => by cases h) (by decide)
  have hval := hwide (by decide) 1 (by decide)
  cases hexec
  rw [hget, Option.map_some, Option.some.injEq] at hhigh
  rw [show (20 : Nat) + 1 = 21 from rfl, hhigh] at hval
  rw [show signedWidePend.size = 8 from rfl, hbytes] at hval
  exact absurd hval (by decide)

end Sys2Proof.Machine
end

section
/-! PROOFS of O59: boot, attestation, configuration records and the service commands (R448 to R454). -/

namespace Sys2Proof.Machine

/-! ## Bits of the live sets -/

theorem testBit_withBit_same (x n : Nat) (b : Bool) : (withBit x n b).testBit n = b := by
  unfold withBit
  split
  · assumption
  · next hx =>
    split
    · next hb =>
      rw [Nat.add_comm, Nat.testBit_two_pow_add_eq, hb]
      simpa [hb] using hx
    · next hb =>
      have hset : x.testBit n = true := by simpa [hb] using hx
      obtain ⟨y, rfl⟩ := Nat.exists_eq_add_of_le (Nat.ge_two_pow_of_testBit hset)
      rw [Nat.testBit_two_pow_add_eq] at hset
      rw [Nat.add_sub_cancel_left]
      simp_all

theorem State.setDieLive_liveDies (s : State) (d : Nat) (b : Bool) : (s.setDieLive d b).liveDies.testBit d = b := by
  unfold State.setDieLive
  split
  · assumption
  · exact testBit_withBit_same ..

theorem State.setDieLive_hashVersion {s : State} {d : Nat} {b : Bool} (h : s.liveDies.testBit d = !b) :
    (s.setDieLive d b).service.hashVersion = s.service.hashVersion + 1 := by
  unfold State.setDieLive
  rw [if_neg (by simp [h])]

theorem State.setDieLive_keeps (s : State) (d : Nat) (b : Bool) :
    (s.setDieLive d b).service.actions = s.service.actions ∧ (s.setDieLive d b).funcs = s.funcs := by
  unfold State.setDieLive
  split <;> exact ⟨rfl, rfl⟩

/-! ## Starting, refusing and ending an action -/

theorem State.order_refuses {s : State} {cmd : Nat} {ok : Nat → Bool} (start : State → Action → State)
    (h : s.canAct ⟨cmd, s.service.svcarg⟩ = false ∨ ok s.service.svcarg = false) : s.order cmd ok start = s.refuseAction := by
  unfold State.order
  exact if_neg (by rcases h with h | h <;> simp [h])

theorem State.order_starts {s : State} {cmd : Nat} {ok : Nat → Bool} (start : State → Action → State)
    (hcan : s.canAct ⟨cmd, s.service.svcarg⟩ = true) (hok : ok s.service.svcarg = true) :
    s.order cmd ok start = start (s.startAction ⟨cmd, s.service.svcarg⟩) ⟨cmd, s.service.svcarg⟩ := by
  unfold State.order
  exact if_pos (by simp [hcan, hok])

/-- The PF's outbox after a record to it (R444). -/
theorem State.outbox_postRecord (s : State) (kind payload : Nat) :
    ((s.postRecord 0 kind payload).func 0).outbox =
      (s.func 0).outbox ++ [layout [(2, kind), (6, 0), (8, (s.func 0).seq + 1), (32, payload)]] := by
  unfold State.postRecord
  rw [State.func_mapFunc, if_pos rfl]

@[simp] theorem State.postRecord_service (s : State) (n kind payload : Nat) : (s.postRecord n kind payload).service = s.service :=
  State.mapFunc_service ..

/-- Ending an action ends it, in a state that differs from the first in no action but itself, and not in the PF's registers. -/
theorem State.endAction_ends {s u : State} {a : Action} (result detail : Nat)
    (hact : u.service.actions.filter (fun b => decide (b ≠ a)) = s.service.actions.filter (fun b => decide (b ≠ a)))
    (hfunc : u.func 0 = s.func 0) : ActionEnds s (u.endAction a result detail) a result detail := by
  unfold State.endAction ActionEnds
  rw [State.outbox_postRecord, State.postRecord_service, ← hfunc, ← hact]
  exact ⟨rfl, rfl, rfl⟩

theorem State.startAction_filter (s : State) (a : Action) :
    (s.startAction a).service.actions.filter (fun b => decide (b ≠ a)) = s.service.actions.filter (fun b => decide (b ≠ a)) := by
  simp [State.startAction, Service.status]

/-! ## What taking a port out of use leaves alone -/

/-- The foreman's registers and the live ports. -/
def State.plant (s : State) : Service × Nat := (s.service, s.livePorts)

theorem State.foldl_plant {β : Type} {f : State → β → State} (h : ∀ s b, (f s b).plant = s.plant) (l : List β) :
    ∀ s : State, (l.foldl f s).plant = s.plant := by
  induction l with
  | nil => exact fun _ => rfl
  | cons b l ih => exact fun s => (ih _).trans (h s b)

@[simp] theorem State.mapRaft_plant (s : State) (h : Nat) (f : Raft → Raft) : (s.mapRaft h f).plant = s.plant := by
  unfold State.mapRaft
  split <;> rfl

@[simp] theorem State.mapJob_plant (s : State) (core id : Nat) (f : Job → Job) : (s.mapJob core id f).plant = s.plant := rfl

@[simp] theorem State.sendRaft_plant (s : State) (r : Raft) (typ src dst seq status : Nat) (params data scales : List Nat) :
    (s.sendRaft r typ src dst seq status params data scales).plant = s.plant := by
  unfold State.sendRaft
  dsimp only
  split
  · rfl
  · split <;> rfl

@[simp] theorem State.keepWord_plant (s : State) (h k word port : Nat) : (s.keepWord h k word port).plant = s.plant :=
  State.mapRaft_plant ..

@[simp] theorem State.endJob_plant (s : State) (core : Nat) (j : Job) (word port : Nat) : (s.endJob core j word port).plant = s.plant := by
  simp [State.endJob]

@[simp] theorem State.endReady_plant (h k n : Nat) : ∀ s : State, (s.endReady h k n).plant = s.plant := by
  induction n with
  | zero => exact fun _ => rfl
  | succ n ih =>
    intro s
    unfold State.endReady
    split
    · rfl
    · split
      · rfl
      · rw [ih, State.endJob_plant]

@[simp] theorem State.endCollective_plant (s : State) (core id word port : Nat) :
    (s.endCollective core id word port).plant = s.plant := by
  unfold State.endCollective
  split
  · rfl
  · dsimp only
    split
    · rfl
    · rw [State.endReady_plant, State.mapJob_plant]

@[simp] theorem State.numberJob_plant (s : State) (core : Nat) (j : Job) (r : Raft) (m : RaftMember) :
    (s.numberJob core j r m).2.2.plant = s.plant := by
  simp [State.numberJob]

theorem State.originAbort_plant (s : State) (core id own sent port : Nat) : (s.originAbort core id own sent port).plant = s.plant := by
  unfold State.originAbort
  split
  · rfl
  · dsimp only
    split
    · rfl
    · split
      · simp
      · split
        · simp
        · split
          all_goals
            next e =>
              have hn := (congrArg (fun x => x.2.2.plant) e).symm
              simpa using hn

theorem State.abortLink_plant (s : State) (h : Nat) (r : Raft) (cause port : Nat) (p : Nat → Nat → Bool) :
    (s.abortLink h r cause port p).plant = s.plant :=
  State.foldl_plant (fun _ _ => State.foldl_plant (fun _ _ => State.originAbort_plant ..) _ _) _ s

theorem State.failLanes_plant (s : State) (h : Nat) (p q : Nat → Bool) : (s.failLanes h p q).plant = s.plant :=
  State.foldl_plant (fun s key => by simp [State.answerLanes, State.plant]) _ s

theorem State.failRoutes_plant (s : State) (port : Nat) : (s.failRoutes port).plant = s.plant :=
  State.foldl_plant (fun s e => by rw [State.failLanes_plant, State.abortLink_plant, State.mapRaft_plant]) _ s

/-- A port that is taken out is live no longer, and no action of the foreman's has begun or ended. -/
theorem State.portOut_port (s : State) (port : Nat) :
    (s.portOut port).livePorts.testBit port = false ∧ (s.portOut port).service.actions = s.service.actions := by
  obtain ⟨hservice, hports⟩ := Prod.mk.inj (State.failRoutes_plant
    { s with livePorts := s.livePorts - (if s.livePorts.testBit port then 2 ^ port else 0) } port)
  have hactions := congrArg Service.actions hservice
  refine ⟨?_, hactions⟩
  refine (congrArg (fun n => n.testBit port) hports).trans ?_
  cases hp : s.livePorts.testBit port with
  | false => simpa using hp
  | true => simpa [withBit, hp] using testBit_withBit_same s.livePorts port false

/-! ## The orders (R451, R453) -/

/-- What an order that cannot act does (R453). -/
def Refuses (s : State) (i : Instr) : Prop :=
  ∃ t, exec i s = .next t ∧ t.service.svcstat = 2 ^ 28 + (if s.service.actions = [] then 0 else 2 ^ 31) ∧
    t.service.actions = s.service.actions ∧ t.funcs = s.funcs ∧ t.crews = s.crews ∧ t.mem = s.mem

/-- An instruction is the order of a command that starts under `ok`. -/
def Orders (s : State) (i : Instr) (cmd : Nat) (ok : Bool) (start : State → Action → State) : Prop :=
  exec i s = .next (s.order cmd (fun _ => ok) start)

section
variable {s : State} {i : Instr} {cmd : Nat} {ok : Bool} {start : State → Action → State}

theorem Orders.refuses (hi : Orders s i cmd ok start) (h : s.canAct ⟨cmd, s.service.svcarg⟩ = false ∨ ok = false) : Refuses s i :=
  ⟨s.refuseAction, hi.trans (congrArg _ (State.order_refuses start h)), by simp [State.refuseAction, Service.status], rfl, rfl, rfl, rfl⟩

theorem Orders.starts (hi : Orders s i cmd ok start) (hcan : s.canAct ⟨cmd, s.service.svcarg⟩ = true) (hok : ok = true) :
    exec i s = .next (start (s.startAction ⟨cmd, s.service.svcarg⟩) ⟨cmd, s.service.svcarg⟩) :=
  hi.trans (congrArg _ (State.order_starts start hcan hok))

end

theorem foremanFirmwareUpdate_orders (s : State) (size version : Nat) :
    Orders s (.foremanFirmwareUpdate 0 size version) 1 (s.dieLive (s.service.svcarg % 8) &&
      decide (s.service.log.length + (s.service.actions.filter (fun a => decide (a.cmd = 1))).length < 4096)) (fun t _ => t) := rfl

theorem coreOffline_orders (s : State) : Orders s (.coreOffline 0) 2 (!s.service.svcarg.testBit 8 &&
    s.coreLive (s.service.svcarg % 256) && decide (s.service.svcarg % 256 < 192)) (fun t _ => t) := rfl

theorem coreOnline_orders (s : State) : Orders s (.coreOnline 0) 2 (s.service.svcarg.testBit 8 &&
    decide (s.service.svcarg % 256 < 192) && s.dieLive (dieOf (s.service.svcarg % 256)))
    (fun t a => (({ t with liveCores := withBit t.liveCores (a.arg % 256) true } : State).newCapabilities).endAction a 0 0) := rfl

theorem dieOffline_orders (s : State) : Orders s (.dieOffline 0) 3 (!s.service.svcarg.testBit 8 && s.dieLive (s.service.svcarg % 8))
    (fun t _ => t) := rfl

theorem dieOnline_orders (s : State) : Orders s (.dieOnline 0) 3 (s.service.svcarg.testBit 8)
    (fun t a => ((t.setDieLive (a.arg % 8) true).newCapabilities).endAction a 0 0) := rfl

theorem retrainHbmStack_orders (s : State) (op : Nat) : Orders s (.retrainHbmStack op) 4 (s.stackLive (s.service.svcarg % 16))
    (fun t a => t.endAction a (if op = 0 then 0 else 2) 0) := rfl

theorem retrainPort_orders (s : State) : Orders s (.retrainPort 0) 5 (decide (s.service.svcarg % 32 < 28)) State.startRetrain := rfl

/-- What ADD_FREE_PAGES does once it starts (R165). -/
def State.addList (t : State) (a : Action) : State :=
  let die := a.arg % 8
  let n := bitsOf a.arg 23 8 + 1
  let off := bitsOf a.arg 55 24
  if off % 8 ≠ 0 ∨ !inBar 0 off (8 * n) then t.endAction a 2 0
  else
    let bases := (List.range n).map (fun i => t.physBytes (t.barBase 0 + off + 8 * i) 8)
    let (t, skipped) := t.addPages die bases
    let t := if t.params.fpLow ≤ (t.die die).freePages.length then t.mapDie die (fun d => { d with lowPosted := false }) else t
    t.endAction a 0 (min skipped 0xFFFF)

theorem addFreePages_orders (s : State) : Orders s .addFreePages 6 (s.dieLive (s.service.svcarg % 8)) State.addList := rfl

theorem startAction_busy (s : State) (a : Action) : (s.startAction a).service.svcstat = 2 ^ 31 := by
  simp [State.startAction, Service.status]

theorem coreOnline_ends (s : State) (a : Action) :
    let t := (({ s.startAction a with liveCores := withBit s.liveCores (a.arg % 256) true } : State).newCapabilities).endAction a 0 0
    t.mem = s.mem ∧ ActionEnds s t a 0 0 ∧ t.liveCores.testBit (a.arg % 256) = true ∧
      t.service.capgen = (s.service.capgen + 2) % 2 ^ 32 :=
  ⟨by simp [State.startAction], State.endAction_ends 0 0 (State.startAction_filter s a) rfl, testBit_withBit_same .., rfl⟩

theorem dieOnline_ends (s : State) (a : Action) :
    let t := (((s.startAction a).setDieLive (a.arg % 8) true).newCapabilities).endAction a 0 0
    t.mem = s.mem ∧ ActionEnds s t a 0 0 ∧ t.liveDies.testBit (a.arg % 8) = true ∧
      (s.liveDies.testBit (a.arg % 8) = false → t.service.hashVersion = s.service.hashVersion + 1) := by
  obtain ⟨hactions, hfuncs⟩ := (s.startAction a).setDieLive_keeps (a.arg % 8) true
  refine ⟨by simp [State.startAction], State.endAction_ends 0 0 ?_ ?_, ?_, fun h => ?_⟩
  · exact (congrArg _ hactions).trans (State.startAction_filter s a)
  · exact congrArg (fun m => SMap.getD m 0 Func.blank) hfuncs
  · exact State.setDieLive_liveDies (s.startAction a) (a.arg % 8) true
  · exact State.setDieLive_hashVersion (s := s.startAction a) (by simpa [State.startAction] using h)

theorem retrainPort_begins (s : State) (a : Action) :
    let t := (s.startAction a).startRetrain a
    t.mem = s.mem ∧ t.service.actions = s.service.actions ++ [a] ∧
      (s.portUsed (a.arg % 32) = false ∨ a.arg.testBit 63 = true → t.livePorts.testBit (a.arg % 32) = false) := by
  obtain ⟨hdead, hactions⟩ := (s.startAction a).portOut_port (a.arg % 32)
  dsimp only
  unfold State.startRetrain
  dsimp only
  split
  · exact ⟨by simp [State.startAction], hactions, fun _ => hdead⟩
  · next hno =>
    refine ⟨rfl, rfl, fun hfree => ?_⟩
    have hgo : (a.arg.testBit 63 || !(s.startAction a).portUsed (a.arg % 32)) = true := by
      rcases hfree with h | h
      · rw [show (s.startAction a).portUsed (a.arg % 32) = false from h]
        simp
      · rw [h]
        rfl
    simpa [hgo] using hno

theorem physBytes_startAction (s : State) (a : Action) (n : Nat) :
    ∀ pa, (s.startAction a).physBytes pa n = s.physBytes pa n := by
  induction n with
  | zero => exact fun _ => rfl
  | succ n ih => exact fun pa => congrArg (fun x => (s.byte (s.poc pa)).toNat + 256 * x) (ih (pa + 1))

/-- A pool whose low mark is lifted holds the same pages. -/
theorem freePages_lowPosted (s : State) (d : Nat) (c : Prop) [Decidable c] :
    ((if c then s.mapDie d (fun x => { x with lowPosted := false }) else s).die d).freePages = (s.die d).freePages := by
  split <;> simp

theorem lowPosted_keeps (s : State) (d : Nat) (c : Prop) [Decidable c] :
    (if c then s.mapDie d (fun x => { x with lowPosted := false }) else s).service = s.service ∧
      (if c then s.mapDie d (fun x => { x with lowPosted := false }) else s).func 0 = s.func 0 := by
  split <;> exact ⟨rfl, rfl⟩

theorem endAction_dies (s : State) (a : Action) (result detail : Nat) : (s.endAction a result detail).dies = s.dies := by
  simp [State.endAction, State.postRecord]

/-- The list of one page (SVCARG 23:8 zero): refused where it is out of place; otherwise its page is added or skipped. -/
theorem addList_one (t : State) (a : Action) (hone : a.arg / 2 ^ 8 % 2 ^ 16 = 0) :
    let off := a.arg / 2 ^ 24 % 2 ^ 32
    let base := t.physBytes (t.service.stageBase + off) 8
    let put (u : State) (skipped : Nat) : State :=
      (if u.params.fpLow ≤ (u.die (a.arg % 8)).freePages.length then u.mapDie (a.arg % 8) (fun d => { d with lowPosted := false })
        else u).endAction a 0 skipped
    t.addList a = if off % 8 ≠ 0 ∨ 2 ^ 28 < off + 8 then t.endAction a 2 0
      else if t.pageGood (a.arg % 8) base then
        put (t.mapDie (a.arg % 8) (fun d => { d with freePages := insertPage base d.freePages })) 0
      else put t 1 := by
  intro off base put
  have hn : bitsOf a.arg 23 8 = 0 := hone
  have hbar : (!inBar 0 off (8 * (0 + 1))) = true ↔ 2 ^ 28 < off + 8 := by
    rw [Bool.not_eq_true', show inBar 0 off (8 * (0 + 1)) = decide (off + 8 ≤ 2 ^ 28) from rfl, decide_eq_false_iff_not, Nat.not_le]
  unfold State.addList
  simp only [hn, show bitsOf a.arg 55 24 = off from rfl, hbar, State.barBase, Nat.zero_add, List.range_one, List.map_cons, List.map_nil,
    Nat.mul_zero, Nat.add_zero, if_pos]
  split
  · rfl
  · unfold State.addPages
    split
    · rfl
    · rfl

theorem addFreePages_ends (s : State) (a : Action) (hone : a.arg / 2 ^ 8 % 2 ^ 16 = 0) :
    let t := (s.startAction a).addList a
    let off := a.arg / 2 ^ 24 % 2 ^ 32
    (off % 8 ≠ 0 ∨ 2 ^ 28 < off + 8 → ActionEnds s t a 2 0 ∧ t.dies = s.dies) ∧
    (off % 8 = 0 → off + 8 ≤ 2 ^ 28 → let base := s.physBytes (s.service.stageBase + off) 8
      (s.pageGood (a.arg % 8) base = true → ActionEnds s t a 0 0 ∧
        (t.die (a.arg % 8)).freePages = insertPage base (s.die (a.arg % 8)).freePages) ∧
      (s.pageGood (a.arg % 8) base = false → ActionEnds s t a 0 1 ∧ (t.die (a.arg % 8)).freePages = (s.die (a.arg % 8)).freePages)) := by
  intro t off
  have ht : t = _ := addList_one (s.startAction a) a hone
  have hend : ∀ (u : State) c [Decidable c] n, u.service = (s.startAction a).service → u.func 0 = s.func 0 →
      ActionEnds s ((if c then u.mapDie (a.arg % 8) (fun d => { d with lowPosted := false }) else u).endAction a 0 n) a 0 n := by
    intro u c _ n hservice hfunc
    obtain ⟨hs, hf⟩ := lowPosted_keeps u (a.arg % 8) c
    refine State.endAction_ends 0 n ?_ (hf.trans hfunc)
    rw [hs, hservice]
    exact State.startAction_filter s a
  have hpages : ∀ (u : State) c [Decidable c] n,
      (((if c then u.mapDie (a.arg % 8) (fun d => { d with lowPosted := false }) else u).endAction a 0 n).die (a.arg % 8)).freePages =
        (u.die (a.arg % 8)).freePages := by
    intro u c _ n
    rw [← freePages_lowPosted u (a.arg % 8) c]
    exact congrArg (fun m => (SMap.getD m (a.arg % 8) Die.blank).freePages) (endAction_dies ..)
  constructor
  · intro hbad
    rw [ht, if_pos hbad]
    exact ⟨State.endAction_ends 2 0 (State.startAction_filter s a) rfl, endAction_dies ..⟩
  · intro hal hfit base
    have hbase : (s.startAction a).physBytes ((s.startAction a).service.stageBase + off) 8 = base := physBytes_startAction ..
    rw [ht, if_neg (by omega), hbase]
    constructor
    · intro hgood
      rw [if_pos (show (s.startAction a).pageGood (a.arg % 8) base = true from hgood)]
      refine ⟨hend _ _ 0 rfl rfl, (hpages _ _ 0).trans ?_⟩
      rw [State.die_mapDie, if_pos rfl]
      rfl
    · intro hgood
      have hno : (s.startAction a).pageGood (a.arg % 8) base = false := hgood
      rw [hno, if_neg Bool.false_ne_true]
      exact ⟨hend _ _ 1 rfl rfl, hpages _ _ 1⟩

/-! ## Boot (R448) -/

theorem bootImages_accepted : ∀ (images : List (Nat × Nat × Nat × Bool)), (∀ e ∈ images, e.2.2.2 = true) → ∀ s : State,
    ∃ w, s.bootImages images = ({ s with service := w }, true) ∧ w.flash = s.service.flash ∧ w.keystore = s.service.keystore ∧
      w.log.length = s.service.log.length + images.length
  | [], _, s => ⟨s.service, rfl, rfl, rfl, rfl⟩
  | (component, version, digest, ok) :: rest, hok, s => by
    obtain ⟨hfirst, hrest⟩ := List.forall_mem_cons.mp hok
    obtain rfl : ok = true := hfirst
    obtain ⟨w, hw, hflash, hkeys, hlen⟩ := bootImages_accepted rest hrest (s.measure component 1 version digest)
    refine ⟨w, ?_, hflash, hkeys, ?_⟩
    · unfold State.bootImages
      exact hw
    · rw [hlen]
      simp [State.measure]
      omega

theorem State.placeStaging_eq (s : State) : ∃ base, s.placeStaging = { s with service := { s.service with stageBase := base } } :=
  ⟨_, rfl⟩

/-- Boot with every image accepted ends ready, has measured each image, and has made the foreman's context. -/
theorem finishBoot_accepted {images : List (Nat × Nat × Nat × Bool)} (hok : ∀ e ∈ images, e.2.2.2 = true) (s : State) :
    ∃ w, s.finishBoot images = { s with
        service := w, ctxs := s.ctxs.insert foremanCtx { Ctx.blank with level := 2, owner := noFunction } } ∧
      w.ready = true ∧ w.stage = 3 ∧ w.log.length = images.length ∧ w.flash = s.service.flash ∧ w.keystore = s.service.keystore := by
  obtain ⟨w, hboot, hflash, hkeys, hlen⟩ := bootImages_accepted (images.mergeSort (fun a b => decide (a.1 ≤ b.1)))
    (fun e he => hok e (List.mem_mergeSort.mp he)) { s with service := { s.service with stage := 2, log := [], mr := 0 } }
  replace hlen : w.log.length = images.length := by simpa using hlen
  unfold State.finishBoot
  dsimp only
  rw [hboot]
  dsimp only
  obtain ⟨base, hbase⟩ := State.placeStaging_eq { s with service := w }
  rw [hbase]
  exact ⟨{ w with stageBase := base, stage := 3, ready := true }, rfl, rfl, rfl, hlen, hflash, hkeys⟩

theorem recordOf_eq_some {s : State} {bad : List Nat} {n v x : Nat} (hflash : s.service.flash.get? n = some (v, x)) (hbad : n ∉ bad)
    (hage : s.service.keystore.getD n 0 ≤ v) : s.recordOf bad n = some x := by
  unfold State.recordOf
  rw [hflash]
  exact if_neg (by simp [hbad, hage])

theorem recordOf_eq_none {s : State} {bad : List Nat} {n : Nat}
    (h : ∀ v x, ¬ (s.service.flash.get? n = some (v, x) ∧ n ∉ bad ∧ s.service.keystore.getD n 0 ≤ v)) : s.recordOf bad n = none := by
  unfold State.recordOf
  split
  · rfl
  · next v x e =>
    refine if_pos ?_
    by_contra hin
    rw [not_or, List.contains_iff_mem, Nat.not_lt] at hin
    exact h v x ⟨e, hin⟩

/-- What a cold reset leaves before boot: the flash, the key store and the flash capsule. -/
def State.coldStart (s : State) : State :=
  { State.reset with
    freeIx := s.freeIx, agenda := s.agenda, focusCore := s.focusCore, focusSlot := s.focusSlot, boots := s.boots + 1
    capsules := s.capsules.filter (fun e => decide (e.1 = 2)), capsuleCount := s.capsuleCount
    service := { Service.blank with flash := s.service.flash, keystore := s.service.keystore, stage := 1 } }

theorem coldReset_unidentified {s : State} {bad : List Nat} (images : List (Nat × Nat × Nat × Bool))
    (h : s.coldStart.recordOf bad 0 = none) : exec (.coldReset images bad) s =
      .next { s.coldStart with service := { s.coldStart.service with fatal := true } } :=
  congrArg Host.Outcome.next (if_pos (congrArg Option.isNone h))

theorem coldReset_identified {s : State} {bad : List Nat} {x : Nat} (images : List (Nat × Nat × Nat × Bool))
    (h : s.coldStart.recordOf bad 0 = some x) :
    exec (.coldReset images bad) s = .next ((s.coldStart.applyRecords bad).finishBoot images) :=
  congrArg Host.Outcome.next (if_neg (show ¬ (s.coldStart.recordOf bad 0).isNone = true by simp [h]))

theorem SMap.get?_filter_key {α : Type} (m : SMap α) (k j : Nat) :
    SMap.get? (m.filter (fun e => decide (e.1 = k))) j = if j = k then m.get? j else none := by
  induction m with
  | nil => simp [SMap.get?]
  | cons e m ih =>
    obtain ⟨i, x⟩ := e
    by_cases hi : i = k
    · rw [List.filter_cons_of_pos (by simpa using hi), SMap.get?, ih, SMap.get?]
      grind
    · rw [List.filter_cons_of_neg (by simpa using hi), ih, SMap.get?]
      grind

theorem SMap.getD_cons {α : Type} (j : Nat) (x : α) (m : SMap α) (k : Nat) (d : α) :
    SMap.getD ((j, x) :: m) k d = if k = j then x else SMap.getD m k d := by
  by_cases h : k = j <;> simp [SMap.getD, SMap.get?, h]

theorem SMap.getD_of_not_mem {α : Type} {k : Nat} (d : α) : ∀ {m : SMap α}, k ∉ m.map Prod.fst → SMap.getD m k d = d
  | [], _ => rfl
  | (j, x) :: m, h => by
    rw [List.map_cons, List.mem_cons, not_or] at h
    rw [SMap.getD_cons, if_neg h.1, SMap.getD_of_not_mem d h.2]

theorem SMap.getD_mapVals {α : Type} (f : α → α) (m : SMap α) (k : Nat) (d : α) :
    SMap.getD (SMap.mapVals f m) k (f d) = f (SMap.getD m k d) := by
  induction m with
  | nil => rfl
  | cons e m ih =>
    show SMap.getD ((e.1, f e.2) :: SMap.mapVals f m) k (f d) = _
    rw [SMap.getD_cons, SMap.getD_cons, ih]
    split <;> rfl

/-- Where every key is listed once, leaving out the values that equal the default changes no reading. -/
theorem SMap.getD_filter_ne {α : Type} [DecidableEq α] (d : α) (k : Nat) : ∀ {m : SMap α}, (m.map Prod.fst).Nodup →
    SMap.getD (m.filter (fun e => decide (e.2 ≠ d))) k d = SMap.getD m k d
  | [], _ => rfl
  | (j, x) :: m, hn => by
    obtain ⟨hj, hm⟩ := List.nodup_cons.mp hn
    have ih := SMap.getD_filter_ne d k hm
    rw [SMap.getD_cons]
    by_cases hx : x = d
    · rw [List.filter_cons_of_neg (by simpa using hx), ih]
      split
      · next h => rw [SMap.getD_of_not_mem d (h ▸ hj), hx]
      · rfl
    · rw [List.filter_cons_of_pos (by simpa using hx), SMap.getD_cons, ih]

theorem coldReset_stops (s : State) (images : List (Nat × Nat × Nat × Bool)) (bad : List Nat)
    (h : ∀ v x, ¬ (s.service.flash.get? 0 = some (v, x) ∧ 0 ∉ bad ∧ s.service.keystore.getD 0 0 ≤ v)) :
    ∃ t, exec (.coldReset images bad) s = .next t ∧ t.service.fatal = true ∧ t.service.ready = false ∧
      t.crews = [] ∧ t.mem = [] ∧ t.tasks = [] ∧ t.clock = 0 ∧ t.service.flash = s.service.flash :=
  ⟨_, coldReset_unidentified images (recordOf_eq_none h), rfl, rfl, rfl, rfl, rfl, rfl, rfl⟩

theorem coldReset_boots (s : State) {images : List (Nat × Nat × Nat × Bool)} {bad : List Nat} {v x : Nat}
    (h : s.service.flash.get? 0 = some (v, x) ∧ 0 ∉ bad ∧ s.service.keystore.getD 0 0 ≤ v) (hok : ∀ e ∈ images, e.2.2.2 = true) :
    ∃ t, exec (.coldReset images bad) s = .next t ∧ t.service.ready = true ∧
      t.service.stage = 3 ∧ t.service.log.length = images.length ∧ t.devnum = x % 2 ^ 22 ∧ t.crews = [] ∧ t.mem = [] ∧ t.tasks = [] ∧
      (∀ n, n ≠ 4095 → t.ctxs.get? n = State.reset.ctxs.get? n) ∧ (t.ctxs.get? 4095).map Ctx.level = some 2 ∧ t.cores = State.reset.cores ∧
      t.rings = [] ∧ t.clock = 0 ∧ t.service.flash = s.service.flash ∧ t.service.keystore = s.service.keystore ∧
      t.capsules.get? 2 = s.capsules.get? 2 ∧ t.capsules.get? 0 = none ∧ t.capsules.get? 1 = none := by
  obtain ⟨hflash, hbad, hage⟩ := h
  have hrec : s.coldStart.recordOf bad 0 = some x := recordOf_eq_some hflash hbad hage
  obtain ⟨w, hboot, hready, hstage, hlog, hwflash, hwkeys⟩ := finishBoot_accepted hok (s.coldStart.applyRecords bad)
  refine ⟨_, (coldReset_identified images hrec).trans (congrArg _ hboot), hready, hstage, hlog, ?_, rfl, rfl, rfl, ?_, ?_, rfl, rfl, rfl,
    hwflash, hwkeys, ?_, ?_, ?_⟩
  · exact congrArg (fun o : Option Nat => o.getD 0 % 2 ^ 22) hrec
  · exact fun n hn => (SMap.get?_insert ..).trans (if_neg hn)
  · rw [SMap.get?_insert]
    rfl
  · exact SMap.get?_filter_key s.capsules 2 2
  · exact SMap.get?_filter_key s.capsules 2 0
  · exact SMap.get?_filter_key s.capsules 2 1

/-- What a core keeps over a warm reset (R9). -/
def Core.warm (c : Core) : Core := { Core.blank with version := c.version, killdrop := c.killdrop }

/-- What a ring keeps over a warm reset (log 75). -/
def Ring.warm (q : Ring) : Ring := { q with frozen := none, discarded := 0 }

theorem core_warm {m : SMap Core} (hn : (m.map Prod.fst).Nodup) (n : Nat) :
    SMap.getD ((m.mapVals Core.warm).filter (fun e => decide (e.2 ≠ Core.blank))) n Core.blank = (SMap.getD m n Core.blank).warm := by
  rw [SMap.getD_filter_ne]
  · exact SMap.getD_mapVals Core.warm m n Core.blank
  · simpa [SMap.mapVals, Function.comp_def] using hn

/-- What a warm reset leaves before boot. -/
def State.warmStart (s : State) : State :=
  { State.reset with
    freeIx := s.freeIx, agenda := s.agenda, focusCore := s.focusCore, focusSlot := s.focusSlot, boots := s.boots
    clock := s.clock, capsules := s.capsules, capsuleCount := s.capsuleCount
    rings := s.rings.mapVals Ring.warm
    cores := (s.cores.mapVals Core.warm).filter (fun e => decide (e.2 ≠ Core.blank))
    params := s.params, wdticks := s.wdticks, vfs := s.vfs, devnum := s.devnum, liveDies := s.liveDies, liveCores := s.liveCores
    liveStacks := s.liveStacks, liveVaults := s.liveVaults, livePorts := s.livePorts
    service := { Service.blank with
      flash := s.service.flash, keystore := s.service.keystore, hashVersion := s.service.hashVersion, stage := 2 } }

theorem warmReset_boots (s : State) {images : List (Nat × Nat × Nat × Bool)} (hok : ∀ e ∈ images, e.2.2.2 = true)
    (hn : (s.cores.map Prod.fst).Nodup) :
    ∃ t, exec (.warmReset images) s = .next t ∧ t.service.ready = true ∧
      t.service.stage = 3 ∧ t.service.log.length = images.length ∧ t.clock = s.clock ∧ t.crews = [] ∧ t.mem = [] ∧ t.tasks = [] ∧
      t.capsules = s.capsules ∧ t.params = s.params ∧ t.wdticks = s.wdticks ∧ t.vfs = s.vfs ∧ (t.ctxs.get? 4095).map Ctx.level = some 2 ∧
      t.devnum = s.devnum ∧ t.service.flash = s.service.flash ∧
      (∀ n, (t.ring n).events = (s.ring n).events ∧ (t.ring n).frozen = none) ∧
      ∀ n, (t.core n).version = (s.core n).version ∧ (t.core n).killdrop = (s.core n).killdrop ∧ (t.core n).jobs = [] ∧ (t.core n).l1 = [] := by
  obtain ⟨w, hboot, hready, hstage, hlog, hflash, -⟩ := finishBoot_accepted hok s.warmStart
  refine ⟨_, congrArg Host.Outcome.next hboot, hready, hstage, hlog, rfl, rfl, rfl, rfl, rfl, rfl, rfl, rfl, ?_, rfl, hflash, ?_, ?_⟩
  · rw [SMap.get?_insert]
    rfl
  · intro n
    have hr : SMap.getD (s.rings.mapVals Ring.warm) n Ring.blank = (s.ring n).warm := SMap.getD_mapVals Ring.warm s.rings n Ring.blank
    exact ⟨(congrArg Ring.events hr :), (congrArg Ring.frozen hr :)⟩
  · intro n
    have hc := core_warm hn n
    exact ⟨(congrArg Core.version hc :), (congrArg Core.killdrop hc :), (congrArg Core.jobs hc :), (congrArg Core.l1 hc :)⟩

/-! ## Attestation and configuration records (R449, R450) -/

theorem State.answerSpdm_eq (s : State) (fn q : Nat) (fields : List Nat) :
    (fn ≤ s.vfs → s.answerSpdm fn q fields = { s with spdm := s.spdm ++ [⟨fn, q, fields⟩] }) ∧ (s.vfs < fn → s.answerSpdm fn q fields = s) :=
  ⟨fun h => if_pos (decide_eq_true h), fun h => if_neg (by simpa [State.functionExists] using h)⟩

/-- An instruction answers a request. -/
theorem answers_of_exec {s : State} {i : Instr} {fn q : Nat} {fields : List Nat} (h : exec i s = .next (s.answerSpdm fn q fields)) :
    (fn ≤ s.vfs → exec i s = .next { s with spdm := s.spdm ++ [⟨fn, q, fields⟩] }) ∧ (s.vfs < fn → exec i s = .next s) := by
  obtain ⟨hin, hout⟩ := State.answerSpdm_eq s fn q fields
  exact ⟨fun hf => h.trans (congrArg _ (hin hf)), fun hf => h.trans (congrArg _ (hout hf))⟩

theorem configRecordReplace_keeps {s : State} {n version : Nat} {ok : Bool} (value : Nat)
    (h : ok = false ∨ version < s.service.keystore.getD n 0) : exec (.configRecordReplace n version value ok) s = .next s :=
  congrArg Host.Outcome.next (if_pos (h.imp_left (fun e => by rw [e]; rfl)))

theorem configRecordReplace_replaces {s : State} {n version : Nat} (value : Nat) (h : s.service.keystore.getD n 0 ≤ version) :
    exec (.configRecordReplace n version value true) s = .next { s with service := { s.service with
      flash := s.service.flash.insert n (version, value), keystore := s.service.keystore.insert n version } } :=
  congrArg Host.Outcome.next (if_neg (by simp [h]))

/-! ## The ends of the actions that run on (R451) -/

theorem foremanFirmwareUpdate_ends {s : State} {a : Action} (h : s.running 1 (fun _ => true) = some a) (size version : Nat) {op : Nat}
    (hop : op = 2 ∨ op = 3) :
    let digest := sha512 (bytesOf size (s.physBytes (s.service.stageBase + a.arg / 2 ^ 8 % 2 ^ 40) size))
    ∃ t, exec (.foremanFirmwareUpdate op size version) s = .next t ∧
      ActionEnds s t a (if op = 2 then 0 else 2) 0 ∧ t.service.log.length = s.service.log.length + 1 ∧
      t.service.mr = sha512 (bytesOf 64 s.service.mr ++ bytesOf 64 digest) ∧
      (op = 2 → t.service.fw.get? (0x10 + a.arg % 8) = some version) ∧ (op = 3 → t.service.fw = s.service.fw) := by
  intro digest
  have hrun : exec (.foremanFirmwareUpdate op size version) s = .next (
      if op = 2 then (s.measure (0x10 + a.arg % 8) 2 version digest).endAction a 0 0
      else if op = 3 then (s.measure (0x10 + a.arg % 8) 6 version digest).endAction a 2 0 else s) := by
    show execForemanFirmwareUpdate op size version s = _
    unfold execForemanFirmwareUpdate
    rw [if_neg (by omega), h]
    simp only [State.barBase, bitsOf, if_pos, Nat.add_zero]
    rfl
  have hlen : ∀ flags, (s.measure (0x10 + a.arg % 8) flags version digest).service.log.length = s.service.log.length + 1 :=
    fun _ => List.length_append
  rw [hrun]
  rcases hop with rfl | rfl
  · refine ⟨_, rfl, State.endAction_ends 0 0 rfl rfl, hlen 2, rfl, fun _ => ?_, by simp⟩
    exact (SMap.get?_insert ..).trans (if_pos rfl)
  · exact ⟨_, rfl, State.endAction_ends 2 0 rfl rfl, hlen 6, rfl, by simp, fun _ => rfl⟩

theorem coreOffline_ends {s : State} {a : Action} (h : s.running 2 (fun x => !x.testBit 8) = some a)
    (hempty : s.coresEmpty (fun c => decide (c = a.arg % 256)) = true) (hfree : s.untouched (inPool (a.arg % 256)) = true) :
    ∃ t, exec (.coreOffline 2) s = .next t ∧ ActionEnds s t a 0 0 ∧ t.liveCores.testBit (a.arg % 256) = false ∧
      t.service.capgen = (s.service.capgen + 2) % 2 ^ 32 := by
  have hrun : exec (.coreOffline 2) s = .next (
      (({ s with liveCores := withBit s.liveCores (a.arg % 256) false } : State).newCapabilities).endAction a 0 0) := by
    show execCoreOffline 2 s = _
    unfold execCoreOffline
    dsimp only
    rw [if_neg (by decide), h]
    dsimp only
    rw [if_neg (by decide), hempty, hfree]
    rfl
  exact ⟨_, hrun, State.endAction_ends 0 0 rfl rfl, testBit_withBit_same .., rfl⟩

theorem dieOffline_ends {s : State} {a : Action} (h : s.running 3 (fun x => !x.testBit 8) = some a)
    (hempty : s.coresEmpty (fun c => decide (dieOf c = a.arg % 8)) = true) (hfree : s.untouched (onDie (a.arg % 8)) = true)
    (hpages : s.dieUnmapped (a.arg % 8) = true) (hmoves : ∀ m ∈ s.migrations, m.new / 2 ^ 37 ≠ a.arg % 8) :
    ∃ t, exec (.dieOffline 2) s = .next t ∧ ActionEnds s t a 0 0 ∧ t.liveDies.testBit (a.arg % 8) = false ∧
      (s.liveDies.testBit (a.arg % 8) = true → t.service.hashVersion = s.service.hashVersion + 1) := by
  have hrun : exec (.dieOffline 2) s = .next ((((s.rehome (a.arg % 8)).setDieLive (a.arg % 8) false).newCapabilities).endAction a 0 0) := by
    show execDieOffline 2 s = _
    unfold execDieOffline
    dsimp only
    rw [if_neg (by decide), h]
    dsimp only
    rw [if_neg (by decide), hempty, hfree, hpages, List.any_eq_false.mpr (fun m hm => by simpa using hmoves m hm)]
    rfl
  obtain ⟨hactions, hfuncs⟩ := (s.rehome (a.arg % 8)).setDieLive_keeps (a.arg % 8) false
  refine ⟨_, hrun, State.endAction_ends 0 0 (congrArg _ hactions) ?_, ?_, fun hlive => ?_⟩
  · exact congrArg (fun m => SMap.getD m 0 Func.blank) hfuncs
  · exact State.setDieLive_liveDies (s.rehome (a.arg % 8)) (a.arg % 8) false
  · exact State.setDieLive_hashVersion (s := s.rehome (a.arg % 8)) (by simpa [State.rehome] using hlive)

theorem retrainPort_ends {s : State} {a : Action} (h : s.running 5 (fun _ => true) = some a)
    (hdead : s.livePorts.testBit (a.arg % 32) = false) :
    (∃ t, exec (.retrainPort 2) s = .next t ∧ ActionEnds s t a 0 0 ∧ t.livePorts.testBit (a.arg % 32) = true ∧
      t.retrain.get? (a.arg % 32) = none) ∧
    ∃ t, exec (.retrainPort 3) s = .next t ∧ ActionEnds s t a 2 0 ∧ t.livePorts = s.livePorts := by
  have hrun : ∀ op, op = 2 ∨ op = 3 → exec (.retrainPort op) s = .next (
      if op = 2 then (({ s with
        livePorts := withBit s.livePorts (a.arg % 32) true, retrain := s.retrain.remove (a.arg % 32) } : State).newCapabilities).endAction a 0 0
      else s.endAction a 2 0) := by
    intro op hop
    show execRetrainPort op s = _
    unfold execRetrainPort
    rw [if_neg (by omega), h]
    dsimp only
    rw [if_neg (by omega), if_neg (by simp [hdead])]
  refine ⟨⟨_, hrun 2 (.inl rfl), State.endAction_ends 0 0 rfl rfl, testBit_withBit_same .., ?_⟩,
    ⟨_, hrun 3 (.inr rfl), State.endAction_ends 2 0 rfl rfl, rfl⟩⟩
  exact (SMap.get?_remove ..).trans (if_pos rfl)

@[simp] theorem addList_mem (s : State) (a : Action) : ((s.startAction a).addList a).mem = s.mem := by
  unfold State.addList
  dsimp only
  split
  · simp
  · split <;> simp

/-- Settles O59: each reset, request, record and service command by its own lemma above. -/
theorem bootAttestationAndServiceAct : Obligations.BootAttestationAndServiceAct := by
  unfold Obligations.BootAttestationAndServiceAct
  refine ⟨fun s images bad => ⟨coldReset_stops s images bad, fun v x => coldReset_boots s, warmReset_boots s⟩, ?_, ?_, ?_, ?_⟩
  · intro s fn off len nonce block q i fields chain digest hi
    simp only [List.mem_cons, List.not_mem_nil, or_false, Prod.mk.injEq] at hi
    obtain ⟨rfl, rfl, rfl⟩ | ⟨rfl, rfl, rfl⟩ | ⟨rfl, rfl, rfl⟩ | ⟨rfl, rfl, rfl⟩ | ⟨rfl, rfl, rfl⟩ | ⟨rfl, rfl, rfl⟩ | ⟨rfl, rfl, rfl⟩ := hi
    all_goals exact answers_of_exec rfl
  · intro s n version value ok
    refine ⟨configRecordReplace_keeps value, ?_⟩
    rintro rfl hage
    refine ⟨_, configRecordReplace_replaces value hage, ?_, ?_, rfl, rfl, fun m hm => ?_⟩
    · exact (SMap.get?_insert ..).trans (if_pos rfl)
    · exact (SMap.get?_insert ..).trans (if_pos rfl)
    · exact (SMap.get?_insert ..).trans (if_neg hm)
  · intro s x y op cmd ok i arg hi a
    simp only [List.mem_cons, List.not_mem_nil, or_false, Prod.mk.injEq] at hi
    obtain ⟨rfl, rfl, rfl⟩ | ⟨rfl, rfl, rfl⟩ | ⟨rfl, rfl, rfl⟩ | ⟨rfl, rfl, rfl⟩ | ⟨rfl, rfl, rfl⟩ | ⟨rfl, rfl, rfl⟩ | ⟨rfl, rfl, rfl⟩ |
      ⟨rfl, rfl, rfl⟩ := hi
    · refine ⟨(foremanFirmwareUpdate_orders s x y).refuses, fun hcan hok => ⟨_, (foremanFirmwareUpdate_orders s x y).starts hcan hok, ?_⟩⟩
      simpa using ⟨rfl, startAction_busy s a, rfl⟩
    · refine ⟨(coreOffline_orders s).refuses, fun hcan hok => ⟨_, (coreOffline_orders s).starts hcan hok, ?_⟩⟩
      simpa using ⟨rfl, startAction_busy s a, rfl⟩
    · refine ⟨(coreOnline_orders s).refuses, fun hcan hok => ⟨_, (coreOnline_orders s).starts hcan hok, ?_⟩⟩
      obtain ⟨hmem, hend, hlive, hgen⟩ := coreOnline_ends s a
      exact ⟨hmem, by simp, by simp, fun _ => ⟨hend, hlive, hgen⟩, by simp, by simp, by simp⟩
    · refine ⟨(dieOffline_orders s).refuses, fun hcan hok => ⟨_, (dieOffline_orders s).starts hcan hok, ?_⟩⟩
      simpa using ⟨rfl, startAction_busy s a, rfl⟩
    · refine ⟨(dieOnline_orders s).refuses, fun hcan hok => ⟨_, (dieOnline_orders s).starts hcan hok, ?_⟩⟩
      obtain ⟨hmem, hend, hlive, hversion⟩ := dieOnline_ends s a
      exact ⟨hmem, by simp, by simp, by simp, fun _ => ⟨hend, hlive, hversion⟩, by simp, by simp⟩
    · refine ⟨(retrainHbmStack_orders s op).refuses, fun hcan hok => ⟨_, (retrainHbmStack_orders s op).starts hcan hok, ?_⟩⟩
      exact ⟨rfl, by simp, by simp, by simp, by simp, fun _ => State.endAction_ends _ 0 (State.startAction_filter s a) rfl, by simp⟩
    · refine ⟨(retrainPort_orders s).refuses, fun hcan hok => ⟨_, (retrainPort_orders s).starts hcan hok, ?_⟩⟩
      obtain ⟨hmem, hactions, hdead⟩ := retrainPort_begins s a
      exact ⟨hmem, by simp, fun _ => ⟨hactions, hdead⟩, by simp, by simp, by simp, by simp⟩
    · refine ⟨(addFreePages_orders s).refuses, fun hcan hok => ⟨_, (addFreePages_orders s).starts hcan hok, ?_⟩⟩
      exact ⟨addList_mem .., by simp, by simp, by simp, by simp, by simp, fun _ hone => addFreePages_ends s a hone⟩
  · intro s size version a digest
    refine ⟨fun h op hop => foremanFirmwareUpdate_ends h size version hop, coreOffline_ends, dieOffline_ends, retrainPort_ends⟩

end Sys2Proof.Machine
end

section
/-! PROOFS of the encoding (O6, O8, O19): the fields of a word, and that decode and encode agree. -/

namespace Sys2Proof

/-! ## A word and its fields -/

theorem append_inj {n m : Nat} (x x' : BitVec n) (y y' : BitVec m) : x ++ y = x' ++ y' ↔ x = x' ∧ y = y' := by
  refine ⟨fun h => ⟨?_, ?_⟩, fun ⟨hx, hy⟩ => hx ▸ hy ▸ rfl⟩
  · simpa [BitVec.extractLsb'_append_eq_of_le] using congrArg (BitVec.extractLsb' m n) h
  · simpa [BitVec.extractLsb'_append_eq_of_add_le] using congrArg (BitVec.extractLsb' 0 m) h

/-- Two adjacent fields of a word are a concatenation when each is its part of it. -/
theorem append_eq_extractLsb'_iff {n m s : Nat} (x : BitVec n) (y : BitVec m) (w : Word) :
    x ++ y = w.extractLsb' s (n + m) ↔ x = w.extractLsb' (s + m) n ∧ w.extractLsb' s m = y := by
  rw [← BitVec.extractLsb'_append_extractLsb'_eq_extractLsb' (x := w) (len₁ := m) (len₂ := n) (start₂ := s + m) (start₁ := s) rfl,
    append_inj, eq_comm (a := y)]

/-! Each format of Table 2.2, by the widths of its fields from bit 31 down. -/

@[simp] theorem append_8_24_eq_iff (a : BitVec 8) (b : BitVec 24) (w : Word) : a ++ b = w ↔
    w.extractLsb' 24 8 = a ∧ w.extractLsb' 0 24 = b := by
  rw [← BitVec.extractLsb'_eq_self (x := w), append_eq_extractLsb'_iff,
    BitVec.extractLsb'_eq_self, eq_comm (a := a)]

@[simp] theorem append_8_8_16_eq_iff (a : BitVec 8) (b : BitVec 8) (c : BitVec 16) (w : Word) : a ++ b ++ c = w ↔
    w.extractLsb' 24 8 = a ∧ w.extractLsb' 16 8 = b ∧ w.extractLsb' 0 16 = c := by
  rw [← BitVec.extractLsb'_eq_self (x := w), append_eq_extractLsb'_iff, append_eq_extractLsb'_iff,
    BitVec.extractLsb'_eq_self, and_assoc, eq_comm (a := a)]

@[simp] theorem append_8_2_6_16_eq_iff (a : BitVec 8) (b : BitVec 2) (c : BitVec 6) (d : BitVec 16) (w : Word) : a ++ b ++ c ++ d = w ↔
    w.extractLsb' 24 8 = a ∧ w.extractLsb' 22 2 = b ∧ w.extractLsb' 16 6 = c ∧ w.extractLsb' 0 16 = d := by
  rw [← BitVec.extractLsb'_eq_self (x := w), append_eq_extractLsb'_iff, append_eq_extractLsb'_iff, append_eq_extractLsb'_iff,
    BitVec.extractLsb'_eq_self, and_assoc, and_assoc, eq_comm (a := a)]

@[simp] theorem append_8_4_4_16_eq_iff (a : BitVec 8) (b : BitVec 4) (c : BitVec 4) (d : BitVec 16) (w : Word) : a ++ b ++ c ++ d = w ↔
    w.extractLsb' 24 8 = a ∧ w.extractLsb' 20 4 = b ∧ w.extractLsb' 16 4 = c ∧ w.extractLsb' 0 16 = d := by
  rw [← BitVec.extractLsb'_eq_self (x := w), append_eq_extractLsb'_iff, append_eq_extractLsb'_iff, append_eq_extractLsb'_iff,
    BitVec.extractLsb'_eq_self, and_assoc, and_assoc, eq_comm (a := a)]

@[simp] theorem append_8_5_3_16_eq_iff (a : BitVec 8) (b : BitVec 5) (c : BitVec 3) (d : BitVec 16) (w : Word) : a ++ b ++ c ++ d = w ↔
    w.extractLsb' 24 8 = a ∧ w.extractLsb' 19 5 = b ∧ w.extractLsb' 16 3 = c ∧ w.extractLsb' 0 16 = d := by
  rw [← BitVec.extractLsb'_eq_self (x := w), append_eq_extractLsb'_iff, append_eq_extractLsb'_iff, append_eq_extractLsb'_iff,
    BitVec.extractLsb'_eq_self, and_assoc, and_assoc, eq_comm (a := a)]

@[simp] theorem append_8_8_8_8_eq_iff (a : BitVec 8) (b : BitVec 8) (c : BitVec 8) (d : BitVec 8) (w : Word) : a ++ b ++ c ++ d = w ↔
    w.extractLsb' 24 8 = a ∧ w.extractLsb' 16 8 = b ∧ w.extractLsb' 8 8 = c ∧ w.extractLsb' 0 8 = d := by
  rw [← BitVec.extractLsb'_eq_self (x := w), append_eq_extractLsb'_iff, append_eq_extractLsb'_iff, append_eq_extractLsb'_iff,
    BitVec.extractLsb'_eq_self, and_assoc, and_assoc, eq_comm (a := a)]

@[simp] theorem append_8_8_13_3_eq_iff (a : BitVec 8) (b : BitVec 8) (c : BitVec 13) (d : BitVec 3) (w : Word) : a ++ b ++ c ++ d = w ↔
    w.extractLsb' 24 8 = a ∧ w.extractLsb' 16 8 = b ∧ w.extractLsb' 3 13 = c ∧ w.extractLsb' 0 3 = d := by
  rw [← BitVec.extractLsb'_eq_self (x := w), append_eq_extractLsb'_iff, append_eq_extractLsb'_iff, append_eq_extractLsb'_iff,
    BitVec.extractLsb'_eq_self, and_assoc, and_assoc, eq_comm (a := a)]

@[simp] theorem append_8_13_3_8_eq_iff (a : BitVec 8) (b : BitVec 13) (c : BitVec 3) (d : BitVec 8) (w : Word) : a ++ b ++ c ++ d = w ↔
    w.extractLsb' 24 8 = a ∧ w.extractLsb' 11 13 = b ∧ w.extractLsb' 8 3 = c ∧ w.extractLsb' 0 8 = d := by
  rw [← BitVec.extractLsb'_eq_self (x := w), append_eq_extractLsb'_iff, append_eq_extractLsb'_iff, append_eq_extractLsb'_iff,
    BitVec.extractLsb'_eq_self, and_assoc, and_assoc, eq_comm (a := a)]

@[simp] theorem append_8_4_4_10_6_eq_iff (a : BitVec 8) (b : BitVec 4) (c : BitVec 4) (d : BitVec 10) (e : BitVec 6) (w : Word) : a ++ b ++ c ++ d ++ e = w ↔
    w.extractLsb' 24 8 = a ∧ w.extractLsb' 20 4 = b ∧ w.extractLsb' 16 4 = c ∧ w.extractLsb' 6 10 = d ∧ w.extractLsb' 0 6 = e := by
  rw [← BitVec.extractLsb'_eq_self (x := w), append_eq_extractLsb'_iff, append_eq_extractLsb'_iff, append_eq_extractLsb'_iff, append_eq_extractLsb'_iff,
    BitVec.extractLsb'_eq_self, and_assoc, and_assoc, and_assoc, eq_comm (a := a)]

@[simp] theorem append_8_4_4_12_4_eq_iff (a : BitVec 8) (b : BitVec 4) (c : BitVec 4) (d : BitVec 12) (e : BitVec 4) (w : Word) : a ++ b ++ c ++ d ++ e = w ↔
    w.extractLsb' 24 8 = a ∧ w.extractLsb' 20 4 = b ∧ w.extractLsb' 16 4 = c ∧ w.extractLsb' 4 12 = d ∧ w.extractLsb' 0 4 = e := by
  rw [← BitVec.extractLsb'_eq_self (x := w), append_eq_extractLsb'_iff, append_eq_extractLsb'_iff, append_eq_extractLsb'_iff, append_eq_extractLsb'_iff,
    BitVec.extractLsb'_eq_self, and_assoc, and_assoc, and_assoc, eq_comm (a := a)]

@[simp] theorem append_8_5_3_8_8_eq_iff (a : BitVec 8) (b : BitVec 5) (c : BitVec 3) (d : BitVec 8) (e : BitVec 8) (w : Word) : a ++ b ++ c ++ d ++ e = w ↔
    w.extractLsb' 24 8 = a ∧ w.extractLsb' 19 5 = b ∧ w.extractLsb' 16 3 = c ∧ w.extractLsb' 8 8 = d ∧ w.extractLsb' 0 8 = e := by
  rw [← BitVec.extractLsb'_eq_self (x := w), append_eq_extractLsb'_iff, append_eq_extractLsb'_iff, append_eq_extractLsb'_iff, append_eq_extractLsb'_iff,
    BitVec.extractLsb'_eq_self, and_assoc, and_assoc, and_assoc, eq_comm (a := a)]

@[simp] theorem append_8_5_3_10_6_eq_iff (a : BitVec 8) (b : BitVec 5) (c : BitVec 3) (d : BitVec 10) (e : BitVec 6) (w : Word) : a ++ b ++ c ++ d ++ e = w ↔
    w.extractLsb' 24 8 = a ∧ w.extractLsb' 19 5 = b ∧ w.extractLsb' 16 3 = c ∧ w.extractLsb' 6 10 = d ∧ w.extractLsb' 0 6 = e := by
  rw [← BitVec.extractLsb'_eq_self (x := w), append_eq_extractLsb'_iff, append_eq_extractLsb'_iff, append_eq_extractLsb'_iff, append_eq_extractLsb'_iff,
    BitVec.extractLsb'_eq_self, and_assoc, and_assoc, and_assoc, eq_comm (a := a)]

@[simp] theorem append_8_6_6_6_6_eq_iff (a : BitVec 8) (b : BitVec 6) (c : BitVec 6) (d : BitVec 6) (e : BitVec 6) (w : Word) : a ++ b ++ c ++ d ++ e = w ↔
    w.extractLsb' 24 8 = a ∧ w.extractLsb' 18 6 = b ∧ w.extractLsb' 12 6 = c ∧ w.extractLsb' 6 6 = d ∧ w.extractLsb' 0 6 = e := by
  rw [← BitVec.extractLsb'_eq_self (x := w), append_eq_extractLsb'_iff, append_eq_extractLsb'_iff, append_eq_extractLsb'_iff, append_eq_extractLsb'_iff,
    BitVec.extractLsb'_eq_self, and_assoc, and_assoc, and_assoc, eq_comm (a := a)]

@[simp] theorem append_8_8_5_3_8_eq_iff (a : BitVec 8) (b : BitVec 8) (c : BitVec 5) (d : BitVec 3) (e : BitVec 8) (w : Word) : a ++ b ++ c ++ d ++ e = w ↔
    w.extractLsb' 24 8 = a ∧ w.extractLsb' 16 8 = b ∧ w.extractLsb' 11 5 = c ∧ w.extractLsb' 8 3 = d ∧ w.extractLsb' 0 8 = e := by
  rw [← BitVec.extractLsb'_eq_self (x := w), append_eq_extractLsb'_iff, append_eq_extractLsb'_iff, append_eq_extractLsb'_iff, append_eq_extractLsb'_iff,
    BitVec.extractLsb'_eq_self, and_assoc, and_assoc, and_assoc, eq_comm (a := a)]

@[simp] theorem append_8_8_6_2_8_eq_iff (a : BitVec 8) (b : BitVec 8) (c : BitVec 6) (d : BitVec 2) (e : BitVec 8) (w : Word) : a ++ b ++ c ++ d ++ e = w ↔
    w.extractLsb' 24 8 = a ∧ w.extractLsb' 16 8 = b ∧ w.extractLsb' 10 6 = c ∧ w.extractLsb' 8 2 = d ∧ w.extractLsb' 0 8 = e := by
  rw [← BitVec.extractLsb'_eq_self (x := w), append_eq_extractLsb'_iff, append_eq_extractLsb'_iff, append_eq_extractLsb'_iff, append_eq_extractLsb'_iff,
    BitVec.extractLsb'_eq_self, and_assoc, and_assoc, and_assoc, eq_comm (a := a)]

@[simp] theorem append_8_8_8_4_4_eq_iff (a : BitVec 8) (b : BitVec 8) (c : BitVec 8) (d : BitVec 4) (e : BitVec 4) (w : Word) : a ++ b ++ c ++ d ++ e = w ↔
    w.extractLsb' 24 8 = a ∧ w.extractLsb' 16 8 = b ∧ w.extractLsb' 8 8 = c ∧ w.extractLsb' 4 4 = d ∧ w.extractLsb' 0 4 = e := by
  rw [← BitVec.extractLsb'_eq_self (x := w), append_eq_extractLsb'_iff, append_eq_extractLsb'_iff, append_eq_extractLsb'_iff, append_eq_extractLsb'_iff,
    BitVec.extractLsb'_eq_self, and_assoc, and_assoc, and_assoc, eq_comm (a := a)]

@[simp] theorem append_8_8_8_5_3_eq_iff (a : BitVec 8) (b : BitVec 8) (c : BitVec 8) (d : BitVec 5) (e : BitVec 3) (w : Word) : a ++ b ++ c ++ d ++ e = w ↔
    w.extractLsb' 24 8 = a ∧ w.extractLsb' 16 8 = b ∧ w.extractLsb' 8 8 = c ∧ w.extractLsb' 3 5 = d ∧ w.extractLsb' 0 3 = e := by
  rw [← BitVec.extractLsb'_eq_self (x := w), append_eq_extractLsb'_iff, append_eq_extractLsb'_iff, append_eq_extractLsb'_iff, append_eq_extractLsb'_iff,
    BitVec.extractLsb'_eq_self, and_assoc, and_assoc, and_assoc, eq_comm (a := a)]

@[simp] theorem append_8_18_2_1_3_eq_iff (a : BitVec 8) (b : BitVec 18) (c : BitVec 2) (d : BitVec 1) (e : BitVec 3) (w : Word) : a ++ b ++ c ++ d ++ e = w ↔
    w.extractLsb' 24 8 = a ∧ w.extractLsb' 6 18 = b ∧ w.extractLsb' 4 2 = c ∧ w.extractLsb' 3 1 = d ∧ w.extractLsb' 0 3 = e := by
  rw [← BitVec.extractLsb'_eq_self (x := w), append_eq_extractLsb'_iff, append_eq_extractLsb'_iff, append_eq_extractLsb'_iff, append_eq_extractLsb'_iff,
    BitVec.extractLsb'_eq_self, and_assoc, and_assoc, and_assoc, eq_comm (a := a)]

@[simp] theorem append_8_8_8_4_3_1_eq_iff (a : BitVec 8) (b : BitVec 8) (c : BitVec 8) (d : BitVec 4) (e : BitVec 3) (f : BitVec 1) (w : Word) : a ++ b ++ c ++ d ++ e ++ f = w ↔
    w.extractLsb' 24 8 = a ∧ w.extractLsb' 16 8 = b ∧ w.extractLsb' 8 8 = c ∧ w.extractLsb' 4 4 = d ∧ w.extractLsb' 1 3 = e ∧ w.extractLsb' 0 1 = f := by
  rw [← BitVec.extractLsb'_eq_self (x := w), append_eq_extractLsb'_iff, append_eq_extractLsb'_iff, append_eq_extractLsb'_iff, append_eq_extractLsb'_iff, append_eq_extractLsb'_iff,
    BitVec.extractLsb'_eq_self, and_assoc, and_assoc, and_assoc, and_assoc, eq_comm (a := a)]

@[simp] theorem append_8_4_4_4_4_2_6_eq_iff (a : BitVec 8) (b : BitVec 4) (c : BitVec 4) (d : BitVec 4) (e : BitVec 4) (f : BitVec 2) (g : BitVec 6) (w : Word) : a ++ b ++ c ++ d ++ e ++ f ++ g = w ↔
    w.extractLsb' 24 8 = a ∧ w.extractLsb' 20 4 = b ∧ w.extractLsb' 16 4 = c ∧ w.extractLsb' 12 4 = d ∧ w.extractLsb' 8 4 = e ∧ w.extractLsb' 6 2 = f ∧ w.extractLsb' 0 6 = g := by
  rw [← BitVec.extractLsb'_eq_self (x := w), append_eq_extractLsb'_iff, append_eq_extractLsb'_iff, append_eq_extractLsb'_iff, append_eq_extractLsb'_iff, append_eq_extractLsb'_iff, append_eq_extractLsb'_iff,
    BitVec.extractLsb'_eq_self, and_assoc, and_assoc, and_assoc, and_assoc, and_assoc, eq_comm (a := a)]

@[simp] theorem append_8_8_8_1_3_1_3_eq_iff (a : BitVec 8) (b : BitVec 8) (c : BitVec 8) (d : BitVec 1) (e : BitVec 3) (f : BitVec 1) (g : BitVec 3) (w : Word) : a ++ b ++ c ++ d ++ e ++ f ++ g = w ↔
    w.extractLsb' 24 8 = a ∧ w.extractLsb' 16 8 = b ∧ w.extractLsb' 8 8 = c ∧ w.extractLsb' 7 1 = d ∧ w.extractLsb' 4 3 = e ∧ w.extractLsb' 3 1 = f ∧ w.extractLsb' 0 3 = g := by
  rw [← BitVec.extractLsb'_eq_self (x := w), append_eq_extractLsb'_iff, append_eq_extractLsb'_iff, append_eq_extractLsb'_iff, append_eq_extractLsb'_iff, append_eq_extractLsb'_iff, append_eq_extractLsb'_iff,
    BitVec.extractLsb'_eq_self, and_assoc, and_assoc, and_assoc, and_assoc, and_assoc, eq_comm (a := a)]

@[simp] theorem append_8_8_8_4_2_1_1_eq_iff (a : BitVec 8) (b : BitVec 8) (c : BitVec 8) (d : BitVec 4) (e : BitVec 2) (f : BitVec 1) (g : BitVec 1) (w : Word) : a ++ b ++ c ++ d ++ e ++ f ++ g = w ↔
    w.extractLsb' 24 8 = a ∧ w.extractLsb' 16 8 = b ∧ w.extractLsb' 8 8 = c ∧ w.extractLsb' 4 4 = d ∧ w.extractLsb' 2 2 = e ∧ w.extractLsb' 1 1 = f ∧ w.extractLsb' 0 1 = g := by
  rw [← BitVec.extractLsb'_eq_self (x := w), append_eq_extractLsb'_iff, append_eq_extractLsb'_iff, append_eq_extractLsb'_iff, append_eq_extractLsb'_iff, append_eq_extractLsb'_iff, append_eq_extractLsb'_iff,
    BitVec.extractLsb'_eq_self, and_assoc, and_assoc, and_assoc, and_assoc, and_assoc, eq_comm (a := a)]

@[simp] theorem append_8_5_3_5_3_4_1_3_eq_iff (a : BitVec 8) (b : BitVec 5) (c : BitVec 3) (d : BitVec 5) (e : BitVec 3) (f : BitVec 4) (g : BitVec 1) (h : BitVec 3) (w : Word) : a ++ b ++ c ++ d ++ e ++ f ++ g ++ h = w ↔
    w.extractLsb' 24 8 = a ∧ w.extractLsb' 19 5 = b ∧ w.extractLsb' 16 3 = c ∧ w.extractLsb' 11 5 = d ∧ w.extractLsb' 8 3 = e ∧ w.extractLsb' 4 4 = f ∧ w.extractLsb' 3 1 = g ∧ w.extractLsb' 0 3 = h := by
  rw [← BitVec.extractLsb'_eq_self (x := w), append_eq_extractLsb'_iff, append_eq_extractLsb'_iff, append_eq_extractLsb'_iff, append_eq_extractLsb'_iff, append_eq_extractLsb'_iff, append_eq_extractLsb'_iff, append_eq_extractLsb'_iff,
    BitVec.extractLsb'_eq_self, and_assoc, and_assoc, and_assoc, and_assoc, and_assoc, and_assoc, eq_comm (a := a)]

/-! ## Reserved bits -/

/-- The ones of some fields, each given by its lowest bit and its width. -/
def onesAt : List (Nat × Nat) → Word
  | [] => 0
  | f :: fs => (BitVec.allOnes f.2).setWidth 32 <<< f.1 ||| onesAt fs

theorem and_ones_eq_zero_iff (x : Word) (start len : Nat) :
    x &&& ((BitVec.allOnes len).setWidth 32 <<< start) = 0 ↔ x.extractLsb' start len = 0 := by
  constructor <;> intro hx
  · refine BitVec.eq_of_getLsbD_eq fun i hi => ?_
    have hbit := congrArg (fun y : Word => y.getLsbD (start + i)) hx
    simp at hbit
    simp [hi]
    grind
  · refine BitVec.eq_of_getLsbD_eq fun i hi => ?_
    have hbit := congrArg (fun y : BitVec len => y.getLsbD (i - start)) hx
    simp at hbit
    simp [hi]
    grind

theorem and_or_eq_zero_iff (x a b : Word) : x &&& (a ||| b) = 0 ↔ x &&& a = 0 ∧ x &&& b = 0 := by
  rw [BitVec.and_or_distrib_left]
  exact BitVec.or_eq_zero_iff

theorem and_onesAt_eq_zero_iff (x : Word) (fs : List (Nat × Nat)) :
    x &&& onesAt fs = 0 ↔ ∀ f ∈ fs, x.extractLsb' f.1 f.2 = 0 := by
  induction fs with
  | nil => simp [onesAt]
  | cons f fs ih => rw [onesAt, and_or_eq_zero_iff, and_ones_eq_zero_iff, ih, List.forall_mem_cons]

theorem xor_and_distrib (x y m : Word) : (x ^^^ y) &&& m = (x &&& m) ^^^ (y &&& m) := by
  refine BitVec.eq_of_getLsbD_eq fun i _ => ?_
  simp [Bool.and_xor_distrib_right]

/-- The masked bits of a word are those of `v` when the fields under the mask are. -/
theorem and_onesAt_iff (fs : List (Nat × Nat)) (m v : Word) (hm : onesAt fs = m) (hv : v &&& m = v) (w : Word) :
    w &&& m = v ↔ ∀ f ∈ fs, w.extractLsb' f.1 f.2 = v.extractLsb' f.1 f.2 := by
  calc w &&& m = v ↔ (w ^^^ v) &&& onesAt fs = 0 := by
        rw [hm, xor_and_distrib, hv]
        exact BitVec.xor_eq_zero_iff.symm
    _ ↔ ∀ f ∈ fs, w.extractLsb' f.1 f.2 = v.extractLsb' f.1 f.2 := by
        rw [and_onesAt_eq_zero_iff]
        exact forall₂_congr fun f _ => by rw [BitVec.extractLsb'_xor]; exact BitVec.xor_eq_zero_iff

@[simp] theorem and_88_eq_iff (w : Word) : w &&& 0x88#32 = 0x0#32 ↔ w.extractLsb' 7 1 = 0 ∧ w.extractLsb' 3 1 = 0 := by
  simpa using and_onesAt_iff [(7, 1), (3, 1)] 0x88#32 0x0#32 (by decide) (by decide) w

@[simp] theorem and_C_eq_iff (w : Word) : w &&& 0xC#32 = 0x0#32 ↔ w.extractLsb' 2 2 = 0 := by
  simpa using and_onesAt_iff [(2, 2)] 0xC#32 0x0#32 (by decide) (by decide) w

@[simp] theorem and_C00000_eq_iff (w : Word) : w &&& 0xC00000#32 = 0x0#32 ↔ w.extractLsb' 22 2 = 0 := by
  simpa using and_onesAt_iff [(22, 2)] 0xC00000#32 0x0#32 (by decide) (by decide) w

@[simp] theorem and_E_eq_iff (w : Word) : w &&& 0xE#32 = 0x0#32 ↔ w.extractLsb' 1 3 = 0 := by
  simpa using and_onesAt_iff [(1, 3)] 0xE#32 0x0#32 (by decide) (by decide) w

@[simp] theorem and_F_eq_iff (w : Word) : w &&& 0xF#32 = 0x0#32 ↔ w.extractLsb' 0 4 = 0 := by
  simpa using and_onesAt_iff [(0, 4)] 0xF#32 0x0#32 (by decide) (by decide) w

@[simp] theorem and_F0F0C0_eq_200000_iff (w : Word) : w &&& 0xF0F0C0#32 = 0x200000#32 ↔ w.extractLsb' 20 4 = 2 ∧ w.extractLsb' 12 4 = 0 ∧ w.extractLsb' 6 2 = 0 := by
  simpa using and_onesAt_iff [(20, 4), (12, 4), (6, 2)] 0xF0F0C0#32 0x200000#32 (by decide) (by decide) w

@[simp] theorem and_F0FFC0_eq_300000_iff (w : Word) : w &&& 0xF0FFC0#32 = 0x300000#32 ↔ w.extractLsb' 20 4 = 3 ∧ w.extractLsb' 6 10 = 0 := by
  simpa using and_onesAt_iff [(20, 4), (6, 10)] 0xF0FFC0#32 0x300000#32 (by decide) (by decide) w

@[simp] theorem and_F0FFF0_eq_100000_iff (w : Word) : w &&& 0xF0FFF0#32 = 0x100000#32 ↔ w.extractLsb' 20 4 = 1 ∧ w.extractLsb' 4 12 = 0 := by
  simpa using and_onesAt_iff [(20, 4), (4, 12)] 0xF0FFF0#32 0x100000#32 (by decide) (by decide) w

@[simp] theorem and_F0FFFF_eq_iff (w : Word) : w &&& 0xF0FFFF#32 = 0x0#32 ↔ w.extractLsb' 20 4 = 0 ∧ w.extractLsb' 0 16 = 0 := by
  simpa using and_onesAt_iff [(20, 4), (0, 16)] 0xF0FFFF#32 0x0#32 (by decide) (by decide) w

@[simp] theorem and_F8_eq_iff (w : Word) : w &&& 0xF8#32 = 0x0#32 ↔ w.extractLsb' 3 5 = 0 := by
  simpa using and_onesAt_iff [(3, 5)] 0xF8#32 0x0#32 (by decide) (by decide) w

@[simp] theorem and_F800_eq_iff (w : Word) : w &&& 0xF800#32 = 0x0#32 ↔ w.extractLsb' 11 5 = 0 := by
  simpa using and_onesAt_iff [(11, 5)] 0xF800#32 0x0#32 (by decide) (by decide) w

@[simp] theorem and_F80000_eq_iff (w : Word) : w &&& 0xF80000#32 = 0x0#32 ↔ w.extractLsb' 19 5 = 0 := by
  simpa using and_onesAt_iff [(19, 5)] 0xF80000#32 0x0#32 (by decide) (by decide) w

@[simp] theorem and_F800FF_eq_iff (w : Word) : w &&& 0xF800FF#32 = 0x0#32 ↔ w.extractLsb' 19 5 = 0 ∧ w.extractLsb' 0 8 = 0 := by
  simpa using and_onesAt_iff [(19, 5), (0, 8)] 0xF800FF#32 0x0#32 (by decide) (by decide) w

@[simp] theorem and_F8F808_eq_iff (w : Word) : w &&& 0xF8F808#32 = 0x0#32 ↔ w.extractLsb' 19 5 = 0 ∧ w.extractLsb' 11 5 = 0 ∧ w.extractLsb' 3 1 = 0 := by
  simpa using and_onesAt_iff [(19, 5), (11, 5), (3, 1)] 0xF8F808#32 0x0#32 (by decide) (by decide) w

@[simp] theorem and_F8FF_eq_iff (w : Word) : w &&& 0xF8FF#32 = 0x0#32 ↔ w.extractLsb' 11 5 = 0 ∧ w.extractLsb' 0 8 = 0 := by
  simpa using and_onesAt_iff [(11, 5), (0, 8)] 0xF8FF#32 0x0#32 (by decide) (by decide) w

@[simp] theorem and_F8FFC0_eq_iff (w : Word) : w &&& 0xF8FFC0#32 = 0x0#32 ↔ w.extractLsb' 19 5 = 0 ∧ w.extractLsb' 6 10 = 0 := by
  simpa using and_onesAt_iff [(19, 5), (6, 10)] 0xF8FFC0#32 0x0#32 (by decide) (by decide) w

@[simp] theorem and_F8FFFF_eq_iff (w : Word) : w &&& 0xF8FFFF#32 = 0x0#32 ↔ w.extractLsb' 19 5 = 0 ∧ w.extractLsb' 0 16 = 0 := by
  simpa using and_onesAt_iff [(19, 5), (0, 16)] 0xF8FFFF#32 0x0#32 (by decide) (by decide) w

@[simp] theorem and_FCFF_eq_iff (w : Word) : w &&& 0xFCFF#32 = 0x0#32 ↔ w.extractLsb' 10 6 = 0 ∧ w.extractLsb' 0 8 = 0 := by
  simpa using and_onesAt_iff [(10, 6), (0, 8)] 0xFCFF#32 0x0#32 (by decide) (by decide) w

@[simp] theorem and_FF_eq_iff (w : Word) : w &&& 0xFF#32 = 0x0#32 ↔ w.extractLsb' 0 8 = 0 := by
  simpa using and_onesAt_iff [(0, 8)] 0xFF#32 0x0#32 (by decide) (by decide) w

@[simp] theorem and_FF00_eq_iff (w : Word) : w &&& 0xFF00#32 = 0x0#32 ↔ w.extractLsb' 8 8 = 0 := by
  simpa using and_onesAt_iff [(8, 8)] 0xFF00#32 0x0#32 (by decide) (by decide) w

@[simp] theorem and_FF0000_eq_iff (w : Word) : w &&& 0xFF0000#32 = 0x0#32 ↔ w.extractLsb' 16 8 = 0 := by
  simpa using and_onesAt_iff [(16, 8)] 0xFF0000#32 0x0#32 (by decide) (by decide) w

@[simp] theorem and_FF0000_eq_10000_iff (w : Word) : w &&& 0xFF0000#32 = 0x10000#32 ↔ w.extractLsb' 16 8 = 1 := by
  simpa using and_onesAt_iff [(16, 8)] 0xFF0000#32 0x10000#32 (by decide) (by decide) w

@[simp] theorem and_FF0000_eq_20000_iff (w : Word) : w &&& 0xFF0000#32 = 0x20000#32 ↔ w.extractLsb' 16 8 = 2 := by
  simpa using and_onesAt_iff [(16, 8)] 0xFF0000#32 0x20000#32 (by decide) (by decide) w

@[simp] theorem and_FF000F_eq_iff (w : Word) : w &&& 0xFF000F#32 = 0x0#32 ↔ w.extractLsb' 16 8 = 0 ∧ w.extractLsb' 0 4 = 0 := by
  simpa using and_onesAt_iff [(16, 8), (0, 4)] 0xFF000F#32 0x0#32 (by decide) (by decide) w

@[simp] theorem and_FF00F0_eq_iff (w : Word) : w &&& 0xFF00F0#32 = 0x0#32 ↔ w.extractLsb' 16 8 = 0 ∧ w.extractLsb' 4 4 = 0 := by
  simpa using and_onesAt_iff [(16, 8), (4, 4)] 0xFF00F0#32 0x0#32 (by decide) (by decide) w

@[simp] theorem and_FF00FF_eq_iff (w : Word) : w &&& 0xFF00FF#32 = 0x0#32 ↔ w.extractLsb' 16 8 = 0 ∧ w.extractLsb' 0 8 = 0 := by
  simpa using and_onesAt_iff [(16, 8), (0, 8)] 0xFF00FF#32 0x0#32 (by decide) (by decide) w

@[simp] theorem and_FF00FF_eq_1_iff (w : Word) : w &&& 0xFF00FF#32 = 0x1#32 ↔ w.extractLsb' 16 8 = 0 ∧ w.extractLsb' 0 8 = 1 := by
  simpa using and_onesAt_iff [(16, 8), (0, 8)] 0xFF00FF#32 0x1#32 (by decide) (by decide) w

@[simp] theorem and_FFF8_eq_iff (w : Word) : w &&& 0xFFF8#32 = 0x0#32 ↔ w.extractLsb' 3 13 = 0 := by
  simpa using and_onesAt_iff [(3, 13)] 0xFFF8#32 0x0#32 (by decide) (by decide) w

@[simp] theorem and_FFF8FF_eq_iff (w : Word) : w &&& 0xFFF8FF#32 = 0x0#32 ↔ w.extractLsb' 11 13 = 0 ∧ w.extractLsb' 0 8 = 0 := by
  simpa using and_onesAt_iff [(11, 13), (0, 8)] 0xFFF8FF#32 0x0#32 (by decide) (by decide) w

@[simp] theorem and_FFFF_eq_iff (w : Word) : w &&& 0xFFFF#32 = 0x0#32 ↔ w.extractLsb' 0 16 = 0 := by
  simpa using and_onesAt_iff [(0, 16)] 0xFFFF#32 0x0#32 (by decide) (by decide) w

@[simp] theorem and_FFFFC8_eq_iff (w : Word) : w &&& 0xFFFFC8#32 = 0x0#32 ↔ w.extractLsb' 6 18 = 0 ∧ w.extractLsb' 3 1 = 0 := by
  simpa using and_onesAt_iff [(6, 18), (3, 1)] 0xFFFFC8#32 0x0#32 (by decide) (by decide) w

@[simp] theorem and_FFFFFF_eq_iff (w : Word) : w &&& 0xFFFFFF#32 = 0x0#32 ↔ w.extractLsb' 0 24 = 0 := by
  simpa using and_onesAt_iff [(0, 24)] 0xFFFFFF#32 0x0#32 (by decide) (by decide) w

@[simp] theorem and_FFFFFF_eq_1_iff (w : Word) : w &&& 0xFFFFFF#32 = 0x1#32 ↔ w.extractLsb' 0 24 = 1 := by
  simpa using and_onesAt_iff [(0, 24)] 0xFFFFFF#32 0x1#32 (by decide) (by decide) w

@[simp] theorem and_FFFFFF_eq_2_iff (w : Word) : w &&& 0xFFFFFF#32 = 0x2#32 ↔ w.extractLsb' 0 24 = 2 := by
  simpa using and_onesAt_iff [(0, 24)] 0xFFFFFF#32 0x2#32 (by decide) (by decide) w

@[simp] theorem and_FFFFFF_eq_3_iff (w : Word) : w &&& 0xFFFFFF#32 = 0x3#32 ↔ w.extractLsb' 0 24 = 3 := by
  simpa using and_onesAt_iff [(0, 24)] 0xFFFFFF#32 0x3#32 (by decide) (by decide) w

/-! ## The opcode -/

theorem extractLsb'_28_4 (w : Word) : w.extractLsb' 28 4 = (w.extractLsb' 24 8).extractLsb' 4 4 := by
  refine BitVec.eq_of_getLsbD_eq fun i hi => ?_
  simp [show 4 + i < 8 by omega, ← Nat.add_assoc]

theorem extractLsb'_24_4 (w : Word) : w.extractLsb' 24 4 = (w.extractLsb' 24 8).extractLsb' 0 4 := by
  refine BitVec.eq_of_getLsbD_eq fun i hi => ?_
  simp [show i < 8 by omega]

theorem opcode_of_nibbles {w : Word} {h l : Nat} (hh : (w.extractLsb' 28 4).toNat = h) (hl : (w.extractLsb' 24 4).toNat = l) :
    w.extractLsb' 24 8 = BitVec.ofNat 8 (16 * h + l) := by
  refine BitVec.eq_of_toNat_eq ?_
  simp only [BitVec.extractLsb'_toNat, BitVec.toNat_ofNat, Nat.shiftRight_eq_div_pow] at *
  omega

theorem opcode_of_div {w : Word} {n : Nat} (h : w.toNat / 2 ^ 24 = n) : w.extractLsb' 24 8 = BitVec.ofNat 8 n := by
  refine BitVec.eq_of_toNat_eq ?_
  rw [BitVec.extractLsb'_toNat, BitVec.toNat_ofNat, Nat.shiftRight_eq_div_pow, h]

/-! ## Every word that decodes -/

/-- What a decoding has found is an instruction whose word is `w`. -/
def Finds (w : Word) : Except DecodeError Instr → Prop
  | .ok i => encode i = some w
  | .error _ => True

@[simp] theorem Finds.ok_iff (w : Word) (i : Instr) : Finds w (.ok i) ↔ encode i = some w := Iff.rfl

@[simp] theorem Finds.error_iff (w : Word) (e : DecodeError) : Finds w (.error e) ↔ True := Iff.rfl

@[simp] theorem Finds.ite_iff (w : Word) (c : Prop) [Decidable c] (x y : Except DecodeError Instr) :
    Finds w (if c then x else y) ↔ (c → Finds w x) ∧ (¬ c → Finds w y) := by
  split <;> simp_all

section
variable {w : Word}

theorem decodeRow0_finds (hh : (w.extractLsb' 28 4).toNat = 0) : Finds w (decodeRow0 w) := by
  have hlt := (w.extractLsb' 24 4).isLt
  unfold decodeRow0
  interval_cases hl : (w.extractLsb' 24 4).toNat
  all_goals simp [encode, opcode_of_nibbles hh hl, -BitVec.reduceAppend]

theorem decodeRow1_finds (hh : (w.extractLsb' 28 4).toNat = 1) : Finds w (decodeRow1 w) := by
  have hlt := (w.extractLsb' 24 4).isLt
  unfold decodeRow1
  interval_cases hl : (w.extractLsb' 24 4).toNat
  all_goals simp [encode, opcode_of_nibbles hh hl, -BitVec.reduceAppend]

theorem decodeRow2_finds (hh : (w.extractLsb' 28 4).toNat = 2) : Finds w (decodeRow2 w) := by
  have hlt := (w.extractLsb' 24 4).isLt
  unfold decodeRow2
  interval_cases hl : (w.extractLsb' 24 4).toNat
  all_goals simp [encode, opcode_of_nibbles hh hl, -BitVec.reduceAppend]

theorem decodeRow3_finds (hh : (w.extractLsb' 28 4).toNat = 3) : Finds w (decodeRow3 w) := by
  have hlt := (w.extractLsb' 24 4).isLt
  unfold decodeRow3
  interval_cases hl : (w.extractLsb' 24 4).toNat
  all_goals simp [encode, opcode_of_nibbles hh hl, -BitVec.reduceAppend]

theorem decodeRow4_finds (hh : (w.extractLsb' 28 4).toNat = 4) : Finds w (decodeRow4 w) := by
  have hlt := (w.extractLsb' 24 4).isLt
  unfold decodeRow4
  interval_cases hl : (w.extractLsb' 24 4).toNat
  all_goals simp [encode, opcode_of_nibbles hh hl, -BitVec.reduceAppend]

theorem decodeRow5_finds (hh : (w.extractLsb' 28 4).toNat = 5) : Finds w (decodeRow5 w) := by
  have hlt := (w.extractLsb' 24 4).isLt
  unfold decodeRow5
  interval_cases hl : (w.extractLsb' 24 4).toNat
  all_goals simp [encode, opcode_of_nibbles hh hl, -BitVec.reduceAppend]

theorem decodeRow6_finds (hh : (w.extractLsb' 28 4).toNat = 6) : Finds w (decodeRow6 w) := by
  have hlt := (w.extractLsb' 24 4).isLt
  unfold decodeRow6
  interval_cases hl : (w.extractLsb' 24 4).toNat
  all_goals simp [encode, opcode_of_nibbles hh hl, -BitVec.reduceAppend]

theorem decodeRow7_finds (hh : (w.extractLsb' 28 4).toNat = 7) : Finds w (decodeRow7 w) := by
  have hlt := (w.extractLsb' 24 4).isLt
  unfold decodeRow7
  interval_cases hl : (w.extractLsb' 24 4).toNat
  all_goals simp [encode, opcode_of_nibbles hh hl, -BitVec.reduceAppend]

theorem decodeRow8_finds (hh : (w.extractLsb' 28 4).toNat = 8) : Finds w (decodeRow8 w) := by
  have hlt := (w.extractLsb' 24 4).isLt
  unfold decodeRow8
  interval_cases hl : (w.extractLsb' 24 4).toNat
  all_goals simp [encode, opcode_of_nibbles hh hl, -BitVec.reduceAppend]

theorem decodeRow9_finds (hh : (w.extractLsb' 28 4).toNat = 9) : Finds w (decodeRow9 w) := by
  have hlt := (w.extractLsb' 24 4).isLt
  unfold decodeRow9
  interval_cases hl : (w.extractLsb' 24 4).toNat
  all_goals simp [encode, opcode_of_nibbles hh hl, -BitVec.reduceAppend]

theorem decodeRowA_finds (hh : (w.extractLsb' 28 4).toNat = 10) : Finds w (decodeRowA w) := by
  have hlt := (w.extractLsb' 24 4).isLt
  unfold decodeRowA
  interval_cases hl : (w.extractLsb' 24 4).toNat
  all_goals simp [encode, opcode_of_nibbles hh hl, -BitVec.reduceAppend]

theorem decodeRowB_finds (hh : (w.extractLsb' 28 4).toNat = 11) : Finds w (decodeRowB w) := by
  have hlt := (w.extractLsb' 24 4).isLt
  unfold decodeRowB
  interval_cases hl : (w.extractLsb' 24 4).toNat
  all_goals simp [encode, opcode_of_nibbles hh hl, -BitVec.reduceAppend]

theorem decodeRowC_finds (hh : (w.extractLsb' 28 4).toNat = 12) : Finds w (decodeRowC w) := by
  have hlt := (w.extractLsb' 24 4).isLt
  unfold decodeRowC
  interval_cases hl : (w.extractLsb' 24 4).toNat
  all_goals simp [encode, opcode_of_nibbles hh hl, -BitVec.reduceAppend]

theorem decodeRowD_finds (hh : (w.extractLsb' 28 4).toNat = 13) : Finds w (decodeRowD w) := by
  have hlt := (w.extractLsb' 24 4).isLt
  unfold decodeRowD
  interval_cases hl : (w.extractLsb' 24 4).toNat
  all_goals simp [encode, opcode_of_nibbles hh hl, -BitVec.reduceAppend]

theorem decodeRowE_finds (hh : (w.extractLsb' 28 4).toNat = 14) : Finds w (decodeRowE w) := by
  have hlt := (w.extractLsb' 24 4).isLt
  unfold decodeRowE
  interval_cases hl : (w.extractLsb' 24 4).toNat
  all_goals simp [encode, opcode_of_nibbles hh hl, -BitVec.reduceAppend]

theorem decodeRowF_finds (hh : (w.extractLsb' 28 4).toNat = 15) : Finds w (decodeRowF w) := by
  have hlt := (w.extractLsb' 24 4).isLt
  unfold decodeRowF
  interval_cases hl : (w.extractLsb' 24 4).toNat
  all_goals simp [encode, opcode_of_nibbles hh hl, -BitVec.reduceAppend]

end

theorem decode_finds (w : Word) : Finds w (decode w) := by
  have hlt := (w.extractLsb' 28 4).isLt
  unfold decode
  interval_cases hh : (w.extractLsb' 28 4).toNat
  · exact decodeRow0_finds hh
  · exact decodeRow1_finds hh
  · exact decodeRow2_finds hh
  · exact decodeRow3_finds hh
  · exact decodeRow4_finds hh
  · exact decodeRow5_finds hh
  · exact decodeRow6_finds hh
  · exact decodeRow7_finds hh
  · exact decodeRow8_finds hh
  · exact decodeRow9_finds hh
  · exact decodeRowA_finds hh
  · exact decodeRowB_finds hh
  · exact decodeRowC_finds hh
  · exact decodeRowD_finds hh
  · exact decodeRowE_finds hh
  · exact decodeRowF_finds hh

/-- Every word that decodes is the word of the instruction that it decodes to. -/
theorem encode_of_decode {i : Instr} {w : Word} (h : decode w = .ok i) : encode i = some w := by
  have hw := decode_finds w
  rwa [h] at hw

/-! ## Every instruction that has a word -/

/-- A word with a reserved opcode is an instruction of its own (R33). -/
theorem decode_reserved {w : Word} (h : w.toNat / 2 ^ 24 ∈ Machine.reservedOpcodes) : decode w = .ok (.reservedOpcode w) := by
  simp only [Machine.reservedOpcodes, List.mem_cons, List.not_mem_nil, or_false] at h
  rcases h with h | h | h | h | h | h | h | h | h | h | h | h | h | h | h | h | h | h | h | h | h | h | h | h | h | h | h | h | h | h
  all_goals simp [decode, extractLsb'_28_4, extractLsb'_24_4, decodeRow5, decodeRow8, decodeRow9, decodeRowA, decodeRowB, decodeRowC,
    decodeRowD, decodeRowF, opcode_of_div h]

/-- The word of a well-formed instruction decodes to it. -/
def RoundTrips (i : Instr) : Prop :=
  ∀ w : Word, i.wellFormed = true → Machine.isOperator i = false → encode i = some w → decode w = .ok i

theorem reservedOpcode_roundTrips (v : Word) : RoundTrips (.reservedOpcode v) := by
  intro w hwf _ h
  cases h
  exact decode_reserved (by simpa [Instr.wellFormed, Machine.fieldsOk, Machine.operands] using hwf)

theorem instr_roundTrips (i : Instr) : RoundTrips i := by
  cases i
  case reservedOpcode v => exact reservedOpcode_roundTrips v
  all_goals intro w _ hop h
  case opPass | opCopy | opSel | opSteer | opMerge | opAdd | opSub | opMul | opFma | opMin | opMax | opCmpeq | opCmpne |
      opCmplt | opCmple | opAnd | opOr | opXor | opShl | opShr | opDot4 | opCvt | opRate | opScalemul | opLoopgen | opCount
      | opAcc | opSrc | opSnk | opMemld | opMemst | opExitx | opInj | opTgate | opEdgetx | opEdgerx =>
    cases hop
  case loadComplete | storeComplete | replay | landingPagerServe | pageridle | faulttmo | migration | pendingNotificationPost
      | fabtmo | activeSetSwap | awaitWake | awaitDeadline | jobStart | copyChunk | streamEntry | mloadRow | grunRow |
      jobComplete | mmaBroadcast | macroError | tileCellError | spentCommit | spexitComplete | regionCompletion |
      spwaitDeadline | drainEnd | watchdog | saveStop | debugHalt | haltRelease | configStoreError | bind | nextPhaseReady |
      gangwait | gangtmo | preemptionChoice | sweepTokenHop | fslice | coppiceDeadline | form | join | contrib | result |
      arrive | abort | remreq | remack | collectiveTimeout | raftformTimeout | raftJoinTimeout | remoteAccessTimeout |
      linkRetryFailure | portRetrainAttempt | foremanMemoryError | foremanWatchdog | syncPlaneLoss | thermalTrip |
      freezeBroadcast | capsuleSeal | coldReset | warmReset | lqtailDoorbell | launchQueueEntry | freplyServe | freplyRefuse
      | controlRecordPost | create | update | destroy | read | release | freeze | info | foremanFirmwareUpdate | coreOffline
      | coreOnline | dieOffline | dieOnline | retrainHbmStack | retrainPort | addFreePages | configRecordReplace |
      getVersion | getCapabilities | negotiateAlgorithms | getDigests | getCertificate | challenge | getMeasurements |
      hostBar2Access | registerWrite | memoryReply | memoryError | launchQueueTake =>
    cases h
  case' nop | bra | call | exit | spstopEnd | spstopHold | spstopQuiet | spstopRelease | qfence | trapret | halt | undef =>
    have f := (append_8_24_eq_iff _ _ w).mp (Option.some.inj h)
  case' brnz | brz | smovi | smovhi | saddi | spchi | getm | movi | movhi | laneid | spexit | tmark | sptake | widrd | cpadv |
      trap | sread | swrite | brk | mark | clock =>
    have f := (append_8_8_16_eq_iff _ _ _ w).mp (Option.some.inj h)
  case' setm =>
    have f := (append_8_2_6_16_eq_iff _ _ _ _ w).mp (Option.some.inj h)
  case' phendNone =>
    have f := (append_8_4_4_16_eq_iff _ _ _ _ w).mp (Option.some.inj h)
  case' brany | brall | brdiv | rcset | mzero =>
    have f := (append_8_5_3_16_eq_iff _ _ _ _ w).mp (Option.some.inj h)
  case' callr | ret | jmpr | sadd | ssub | smul | sand | sor | sxor | sshl | sshr | ssra | sslt | ssltn | sseq | sadd64 | smin
      | smax | add | sub | mul | mulhi | fma | fms | fnma | min | max | abs | neg | sel | addi | mov | div | rem | rcp | rsq
      | sqrt | exp2 | log2 | sinpi | cospi | dot2 | dot4 | floor | ceil | trunc | rint | fclass | scaleb | copysign |
      absdiff | cvt | cvtp | cvtq | unpklo | unpkhi | seedUniform | seedPerLane | cvtsc | and | or | xor | not | shl | shr |
      sra | rotl | bfx | bfi | popc | clz | brev | ballot | shuf | shufx | lrot | bcast | vget | vset | redadd | redmin |
      redmax | ldb | ldh | ldw | ldd | ldq | stb | sth | stw | std | stq | ldx | stx | sld | sld64 | sst | sst64 | pref |
      l2pin | l2unpin | pagehintPrefer | pagehintMigrate | pagehintClear | probe | poolmap | poolunmap | ldacq | strel |
      aadd | amin | amax | aand | aor | axor | axchg | acas | ainc | adec | await | copy | copyr | strm | strmbar | jobq |
      jobcan | mtsc | gbind | grun | gstat | spent | spwait | ecw | spinj | spstat | sprcfg | launch | bararr | bufget |
      bufpass | bufdrop | bufaddr | estim | cpinit | sprout | cut | cpstat | raftform | raftre | car | cag | crs | cbc |
      ca2a | cbar | cstat | cabort | rput | rget | trcarm | cntrd | cntcfg | tlbi | ctxsv | ctxrs =>
    have f := (append_8_8_8_8_eq_iff _ _ _ _ w).mp (Option.some.inj h)
  case' widfld =>
    have f := (append_8_8_13_3_eq_iff _ _ _ _ w).mp (Option.some.inj h)
  case' rcwait =>
    have f := (append_8_13_3_8_eq_iff _ _ _ _ w).mp (Option.some.inj h)
  case' phendWord =>
    have f := (append_8_4_4_10_6_eq_iff _ _ _ _ _ w).mp (Option.some.inj h)
  case' phendBar =>
    have f := (append_8_4_4_12_4_eq_iff _ _ _ _ _ w).mp (Option.some.inj h)
  case' sfromp | cmpeq | cmpne | cmplt | cmple | cmpun | mstore =>
    have f := (append_8_5_3_8_8_eq_iff _ _ _ _ _ w).mp (Option.some.inj h)
  case' setmx =>
    have f := (append_8_5_3_10_6_eq_iff _ _ _ _ _ w).mp (Option.some.inj h)
  case' waitc =>
    have f := (append_8_6_6_6_6_eq_iff _ _ _ _ _ w).mp (Option.some.inj h)
  case' pcount | ptos | mread | mflags =>
    have f := (append_8_8_5_3_8_eq_iff _ _ _ _ _ w).mp (Option.some.inj h)
  case' pop =>
    have f := (append_8_8_6_2_8_eq_iff _ _ _ _ _ w).mp (Option.some.inj h)
  case' qinit | qlen | sweep | reward =>
    have f := (append_8_8_8_4_4_eq_iff _ _ _ _ _ w).mp (Option.some.inj h)
  case' mload =>
    have f := (append_8_8_8_5_3_eq_iff _ _ _ _ _ w).mp (Option.some.inj h)
  case' fence | fencej =>
    have f := (append_8_18_2_1_3_eq_iff _ _ _ _ _ w).mp (Option.some.inj h)
  case' deq =>
    have f := (append_8_8_8_4_3_1_eq_iff _ _ _ _ _ _ w).mp (Option.some.inj h)
  case' phendQueue =>
    have f := (append_8_4_4_4_4_2_6_eq_iff _ _ _ _ _ _ _ w).mp (Option.some.inj h)
  case' mma =>
    have f := (append_8_8_8_1_3_1_3_eq_iff _ _ _ _ _ _ _ w).mp (Option.some.inj h)
  case' enq =>
    have f := (append_8_8_8_4_2_1_1_eq_iff _ _ _ _ _ _ _ w).mp (Option.some.inj h)
  case' plog =>
    have f := (append_8_5_3_5_3_4_1_3_eq_iff _ _ _ _ _ _ _ _ w).mp (Option.some.inj h)
  all_goals simp [decode, extractLsb'_28_4, extractLsb'_24_4, decodeRow0, decodeRow1, decodeRow2, decodeRow3, decodeRow4, decodeRow5, decodeRow6, decodeRow7,
    decodeRow8, decodeRow9, decodeRowA, decodeRowB, decodeRowC, decodeRowD, decodeRowE, decodeRowF, f]

end Sys2Proof

namespace Sys2Proof.Machine

/-- Settles O6: each instruction by the format of its word, and each word by its opcode. -/
theorem decodeAndEncodeAgree : Obligations.DecodeAndEncodeAgree :=
  ⟨fun i w => instr_roundTrips i w, fun _ _ => encode_of_decode⟩

/-- Settles O8: the words are evaluated. -/
theorem wordsWrittenFromTheManualDecode : Obligations.WordsWrittenFromTheManualDecode := by
  unfold Obligations.WordsWrittenFromTheManualDecode
  decide +kernel

end Sys2Proof.Machine
end

section
/-! PROOFS, the layer that the statements about crew instructions share: what completing an instruction and taking a trap change. -/

namespace Sys2Proof.Machine

/-! ## Recording and counting leave the other crews alone -/

section
variable (s : State) {j k : Nat} (hj : j ≠ k)
include hj

theorem State.setCrewAt_others (c : Crew) : (s.setCrewAt k c).crews.get? j = s.crews.get? j := by
  rw [State.crews_setCrewAt, if_neg hj]

theorem State.mapCrewAt_others (f : Crew → Crew) : (s.mapCrewAt k f).crews.get? j = s.crews.get? j := by
  unfold State.mapCrewAt
  split
  · exact State.setCrewAt_others s hj _
  · rfl

theorem State.mapCrew_others (f : Crew → Crew) (hk : s.fkey = k) : (s.mapCrew f).crews.get? j = s.crews.get? j :=
  State.setCrewAt_others s (hk ▸ hj) _

end

@[simp] theorem State.putPacket_crews (s : State) (t : Trace) (k type payload : Nat) : (s.putPacket t k type payload).crews = s.crews := by
  obtain ⟨tr, cs, m, h⟩ := State.putPacket_eq s t k type payload
  rw [h]

@[simp] theorem State.postRecord_crews (s : State) (n kind payload : Nat) : (s.postRecord n kind payload).crews = s.crews :=
  State.mapFunc_crews _ _ _

@[simp] theorem State.bump_crews (s : State) (core k n : Nat) : (s.bump core k n).crews = s.crews := by
  unfold State.bump
  simp only []
  repeat' split
  all_goals simp

@[simp] theorem State.countEvent_crews (s : State) (core code task n : Nat) : (s.countEvent core code task n).crews = s.crews := by
  unfold State.countEvent
  generalize List.filter _ _ = l
  induction l generalizing s with
  | nil => rfl
  | cons e l ih => exact (ih _).trans (State.bump_crews ..)

@[simp] theorem State.noteReplay_crews (s : State) (k : Nat) (c : Crew) : (s.noteReplay k c).crews = s.crews := by
  unfold State.noteReplay
  split <;> simp

section
variable (s : State) {j k : Nat} (hj : j ≠ k)
include hj

theorem State.packet_others (type payload : Nat) : (s.packet k type payload).crews.get? j = s.crews.get? j := by
  unfold State.packet
  split
  · rfl
  · split
    · rfl
    · split
      · simp
      · dsimp only
        split <;> simp [State.mapCrewAt_others _ hj]

theorem State.traceBranch_others (taken : Bool) : (s.traceBranch k taken).crews.get? j = s.crews.get? j := by
  unfold State.traceBranch
  split
  · rfl
  · split
    · rfl
    · dsimp only
      split <;> simp [State.mapCrewAt_others _ hj]

theorem State.noteIssue_others (c : Crew) (os : List Opnd) : (s.noteIssue k c os).crews.get? j = s.crews.get? j := by
  unfold State.noteIssue
  rw [State.mapCrewAt_others _ hj, State.mapCore_crews]

theorem State.countIssue_others (c : Crew) (i : Instr) : (s.countIssue k c i).crews.get? j = s.crews.get? j := by
  have h (u : State) : ((u.noteIssue k c (operands c.mode i))).crews.get? j = u.crews.get? j := State.noteIssue_others u hj c _
  unfold State.countIssue
  dsimp only
  split <;> simp only [State.countEvent_crews, h, apply_ite State.crews, State.bump_crews, ite_self]

end

@[simp] theorem State.packet_fkey (s : State) (k type payload : Nat) : (s.packet k type payload).fkey = s.fkey :=
  (State.packet_recorded s k type payload).fkey

@[simp] theorem State.traceBranch_fkey (s : State) (k : Nat) (taken : Bool) : (s.traceBranch k taken).fkey = s.fkey :=
  (State.traceBranch_recorded s k taken).fkey

@[simp] theorem State.recordCrew_fkey (s : State) (k cls type payload : Nat) : (s.recordCrew k cls type payload).fkey = s.fkey :=
  (State.recordCrew_recorded s k cls type payload).fkey

@[simp] theorem State.recordCrew_crews (s : State) (k cls type payload : Nat) : (s.recordCrew k cls type payload).crews = s.crews :=
  State.record_crews ..

@[simp] theorem State.noteReplay_fkey (s : State) (k : Nat) (c : Crew) : (s.noteReplay k c).fkey = s.fkey :=
  (State.noteReplay_recorded s k c).fkey

section
variable (s : State) {j : Nat} (hj : j ≠ s.fkey)
include hj

theorem State.sampleBranch_others (target : PcWord) : (s.sampleBranch target).crews.get? j = s.crews.get? j := by
  unfold State.sampleBranch
  split
  · rfl
  · rw [State.mapCrew_others _ hj _ (by simp), State.recordCrew_crews]

theorem State.takenBranch_others (target : PcWord) : (s.takenBranch target).crews.get? j = s.crews.get? j := by
  unfold State.takenBranch State.signTarget
  rw [State.sampleBranch_others _ (by simpa using hj), State.mapCrew_others _ hj _ rfl]

theorem State.poppedPath_others : s.poppedPath.crews.get? j = s.crews.get? j := by
  unfold State.poppedPath
  rw [State.packet_others _ hj, State.mapCrew_others _ hj _ rfl]

theorem State.flowOf_others (k : Flow) (c : Crew) (target : Option PcWord) : (State.flowOf k c target s).crews.get? j = s.crews.get? j := by
  have packet (type payload : Nat) := State.packet_others s hj type payload
  have branch (taken : Bool) := State.traceBranch_others s hj taken
  cases k
  case far =>
    cases target
    · rfl
    · exact State.takenBranch_others s hj _
  case call =>
    cases target
    · rfl
    · exact State.mapCrew_others s hj _ rfl
  case cond =>
    cases target
    · exact branch _
    · exact (State.takenBranch_others _ (by simpa using hj) _).trans (branch _)
  case reg =>
    cases target
    · rfl
    · exact (State.mapCrew_others _ hj _ (by simp)).trans (packet ..)
  case divide =>
    cases target
    · exact branch _
    · dsimp only [State.flowOf, State.flowSplit]
      split
      · exact (State.mapCrew_others _ hj _ (by simp)).trans (packet ..)
      · exact (State.mapCrew_others _ hj _ (by simp)).trans (branch _)
  case join =>
    cases target
    · rfl
    · dsimp only [State.flowOf, State.flowJoin]
      split
      · exact State.poppedPath_others s hj
      · exact (State.mapCrew_others _ hj _ (by simp)).trans (packet ..)
  case exit =>
    dsimp only [State.flowOf, State.flowExit]
    split
    · exact (State.poppedPath_others _ (by simpa using hj)).trans (packet ..)
    · rfl
  case back =>
    cases target
    · rfl
    · dsimp only [State.flowOf, State.flowReturn]
      split
      · exact (State.poppedPath_others _ (by simpa using hj)).trans ((State.packet_others _ (by simpa using hj) ..).trans (by simp))
      · exact (State.packet_others _ (by simpa using hj) ..).trans (by simp)
  case fence =>
    dsimp only [State.flowOf, State.flowFence]
    split <;> simp
  case plain => rfl

theorem flow_others (i : Instr) (c : Crew) (target : Option PcWord) : (flow i c target s).crews.get? j = s.crews.get? j := by
  unfold flow
  rw [State.flowOf_others _ (by simpa using hj), State.noteReplay_crews]

end

/-! ## What stays as it is outside the crew in focus -/

theorem Still.refl (s : State) : Still s s :=
  ⟨fun _ _ => rfl, rfl, rfl, rfl, rfl, rfl, rfl, rfl, rfl, rfl, rfl, rfl, fun _ => rfl⟩

theorem Still.setCrew (s : State) (c : Crew) : Still s (s.setCrew c) :=
  ⟨fun _ hj => State.setCrewAt_others s hj c, rfl, rfl, rfl, rfl, rfl, rfl, rfl, rfl, rfl, rfl, rfl, fun _ => rfl⟩

/-- What is recorded and counted of the crew in focus is not what `Still` speaks of. -/
theorem Still.recorded {s u t : State} (h : Still s u) (hf : u.fkey = s.fkey) (hr : Recorded u t)
    (ho : ∀ j, j ≠ u.fkey → t.crews.get? j = u.crews.get? j) (hm : t.mem = u.mem) : Still s t := by
  obtain ⟨crews, mem, poison, tasks, regions, dies, coppices, rafts, msgs, pageCtr, migReqs, clock, cores⟩ := h
  obtain ⟨clock', -, -, poison', pageCtr', migReqs', dies', regions', tasks', coppices', rafts', msgs', -⟩ := hr.same
  exact ⟨fun j hj => (ho j (hf ▸ hj)).trans (crews j hj), hm.trans mem, poison'.trans poison, tasks'.trans tasks, regions'.trans regions,
    dies'.trans dies, coppices'.trans coppices, rafts'.trans rafts, msgs'.trans msgs, pageCtr'.trans pageCtr, migReqs'.trans migReqs,
    clock'.trans clock, fun n => (hr.cores n).trans (cores n)⟩

theorem Still.mapCrew {s u : State} (h : Still s u) (hf : u.fkey = s.fkey) (f : Crew → Crew) : Still s (u.mapCrew f) := by
  obtain ⟨crews, rest⟩ := h
  exact ⟨fun j hj => (State.mapCrew_others u hj f hf).trans (crews j hj), rest⟩

theorem flow_mem (i : Instr) (c : Crew) (target : Option PcWord) {s : State} (hc : s.crew?.isSome = true)
    (hq : flowKind i = .plain ∨ s.traces = []) : (flow i c target s).mem = s.mem := by
  rcases hq with hq | hq
  · unfold flow State.noteReplay
    rw [hq]
    dsimp only [State.flowOf]
    split <;> simp
  · exact ((flow_recorded i c target hc).quiet hq).2

section
variable {s u : State} (hs : Still s u) (hf : u.fkey = s.fkey) (i : Instr) (c : Crew)
include hs hf

/-- The recorder's part of a completion, after the crew's own has been written. -/
theorem Still.flow_countIssue (target : Option PcWord) (hc : u.crew?.isSome = true) (hq : flowKind i = .plain ∨ u.traces = []) :
    Still s ((flow i c target u).countIssue u.fkey c i) := by
  refine hs.recorded hf ((flow_recorded i c target hc).trans (State.countIssue_recorded ..)) (fun j hj => ?_) ?_
  · rw [State.countIssue_others _ hj, flow_others _ hj]
  · rw [State.countIssue_mem, flow_mem i c target hc hq]

theorem Still.finish_done (hq : flowKind i = .plain ∨ u.traces = []) : Still s (finish i c (.done u)) :=
  (hs.mapCrew hf fun c => c.retireInstr.next).flow_countIssue hf i c none (by simp) hq

theorem Still.finish_jump (pc : PcWord) (hq : flowKind i = .plain ∨ u.traces = []) : Still s (finish i c (.jump u pc)) :=
  (hs.mapCrew hf fun c => { c.retireInstr with pc := pc }).flow_countIssue hf i c (some pc) (by simp) hq

end

/-! ## The crew after a completion -/

/-- A crew holds what another holds, but for the PC, what an instruction's completion clears and counts, and what the recorder and the
arbitration keep. -/
structure Crew.Like (c x : Crew) : Prop where
  sreg : c.sreg = x.sreg
  vreg : c.vreg = x.vreg
  preds : c.preds = x.preds
  gens : c.gens = x.gens
  bars : c.bars = x.bars
  mode : c.mode = x.mode
  modex : c.modex = x.modex
  rest : c.rest = x.rest

namespace Crew.Like
variable {c x : Crew} (h : c.Like x)
include h

theorem getS (r : Nat) : c.getS r = x.getS r := by unfold Crew.getS; rw [h.sreg]

theorem getSS (r : Nat) : c.getSS r = x.getSS r := by unfold Crew.getSS; rw [h.getS, h.getS]

theorem getV (r l : Nat) : c.getV r l = x.getV r l := by unfold Crew.getV; rw [h.vreg]

theorem gen (l : Nat) : c.gen l = x.gen l := by unfold Crew.gen; rw [h.gens]

theorem pred (n : Nat) : c.pred n = x.pred n := by unfold Crew.pred; rw [h.preds]

theorem modesKept : ModesKept x c := ⟨h.mode, h.modex, h.preds, h.bars, h.gens⟩

end Crew.Like

theorem Crew.like_of_unsigned {c x : Crew} {pc : PcWord} (h : c.unsigned = ({ x.retireInstr with pc := pc } : Crew).unsigned) : c.Like x :=
  ⟨(congrArg Crew.sreg h :), (congrArg Crew.vreg h :), (congrArg Crew.preds h :), (congrArg Crew.gens h :),
    (congrArg Crew.bars h :), (congrArg Crew.mode h :), (congrArg Crew.modex h :), (congrArg Crew.rest h :)⟩

section
variable {s u : State} {c x : Crew} {i : Instr} {body : State → Res} {P : State → Crew → Prop}

/-- An instruction completes with the PC advanced when its body has ended with crew `x` in focus. -/
theorem completes_of_done (h : Issues s c i = true) (he : exec i s = issue i s body) (hb : body s = .done u) (hx : u.crew? = some x)
    (hf : u.fkey = s.fkey) (hk : x.pc = c.pc ∧ x.issued = c.issued ∧ x.frames = c.frames)
    (hP : ∀ t c', c'.Like x → (Still s u → flowKind i = .plain ∨ u.traces = [] → Still s t) → P t c') : Completes s c i P := by
  obtain ⟨c', hc', hu⟩ := finish_done_crew i c u
  rw [State.crew_of_crew? hx] at hu
  have hl := Crew.like_of_unsigned (pc := x.pc + 4) hu
  rw [hf] at hc'
  refine ⟨_, c', he.trans (issue_of_issues h body), hb ▸ hc', ?_, ?_, ?_, (congrArg Crew.waiting hu :), hP _ c' hl fun hs => ?_⟩
  · exact (congrArg Crew.pc hu :).trans (congrArg (· + 4) hk.1)
  · exact (congrArg Crew.issued hu :).trans (congrArg (· + 1) hk.2.1)
  · exact (congrArg Crew.frames hu :).trans hk.2.2
  · exact hb ▸ hs.finish_done hf i c

/-- An instruction completes with the PC placed. -/
theorem completesAt_of_jump {pc : PcWord} (h : Issues s c i = true) (he : exec i s = issue i s body) (hb : body s = .jump u pc)
    (hx : u.crew? = some x) (hf : u.fkey = s.fkey) (hk : x.issued = c.issued ∧ x.frames = c.frames)
    (hP : ∀ t c', c'.Like x → (Still s u → flowKind i = .plain ∨ u.traces = [] → Still s t) → P t c') : CompletesAt s c i pc P := by
  obtain ⟨c', hc', hu⟩ := finish_jump_crew i c u pc
  rw [State.crew_of_crew? hx] at hu
  rw [hf] at hc'
  refine ⟨_, c', he.trans (issue_of_issues h body), hb ▸ hc', (congrArg Crew.pc hu :), ?_, ?_, (congrArg Crew.waiting hu :),
    hP _ c' (Crew.like_of_unsigned hu) fun hs => ?_⟩
  · exact (congrArg Crew.issued hu :).trans (congrArg (· + 1) hk.1)
  · exact (congrArg Crew.frames hu :).trans hk.2
  · exact hb ▸ hs.finish_jump hf i c pc

end

theorem crew?_of_issues {s : State} {c : Crew} {i : Instr} (h : Issues s c i = true) : s.crew? = some c := by
  simp only [Issues, Bool.and_eq_true, decide_eq_true_eq, and_assoc] at h
  obtain ⟨hc, -⟩ := h
  exact hc

/-- An instruction that changes only its crew completes with the PC advanced. -/
theorem completes_issueCrew {s : State} {c : Crew} {i : Instr} {f : Crew → Crew} {P : State → Crew → Prop} (h : Issues s c i = true)
    (he : exec i s = issueCrew i s f) (hk : (f c).pc = c.pc ∧ (f c).issued = c.issued ∧ (f c).frames = c.frames)
    (hP : ∀ t c', c'.Like (f c) → (flowKind i = .plain ∨ s.traces = [] → Still s t) → P t c') : Completes s c i P := by
  have hc := State.crew_of_crew? (crew?_of_issues h)
  refine completes_of_done h he rfl (x := f c) (by rw [State.crew?_mapCrew, hc]) rfl hk fun t c' hl hs => hP t c' hl (hs ?_)
  exact Still.setCrew s _

end Sys2Proof.Machine
end

section
/-! PROOF of O9, its layer: what the writes of a crew reach, and what that leaves alone. -/

namespace Sys2Proof.Machine

/-! ## What a crew's own writes reach -/

theorem SMap.getD_setD_of_ne {α : Type} [DecidableEq α] (m : SMap α) {j k : Nat} (h : j ≠ k) (x d d' : α) :
    (m.setD k x d).getD j d' = m.getD j d' := by
  have hget : (m.setD k x d).get? j = m.get? j := by
    unfold SMap.setD
    split
    · rw [SMap.get?_remove, if_neg h]
    · rw [SMap.get?_insert, if_neg h]
  unfold SMap.getD
  rw [hget]

theorem Crew.gen_setGen_of_ne (c : Crew) {j l : Nat} (h : j ≠ l) (g : Word) : (c.setGen l g).gen j = c.gen j := by
  unfold Crew.setGen Crew.gen
  generalize seedOf 0 l = d
  generalize seedOf 0 j = d'
  exact SMap.getD_setD_of_ne c.gens h g d d'

/-- A crew without its scalar and vector registers and its generators. -/
def Crew.bare (c : Crew) : Crew := { c with sreg := [], vreg := [], gens := [] }

/-- `r` is one of the `n` registers from `d` on. -/
def InSpan (d n r : Nat) : Prop := d ≤ r ∧ r < d + n

/-- `x` is `c` but for the vector registers of `V` in some lanes, the scalar registers of `S`, and the generators of the lanes `drawn`. -/
structure Crew.Alters (V S : Nat → Prop) (lanes drawn : Mask) (c x : Crew) : Prop where
  getV : ∀ r l, l < 64 → ¬ V r ∨ lanes.getLsbD l = false → x.getV r l = c.getV r l
  getS : ∀ r, ¬ S r → x.getS r = c.getS r
  gen : ∀ l, drawn.getLsbD l = false → x.gen l = c.gen l
  bare : x.bare = c.bare

namespace Crew.Alters
variable {V S : Nat → Prop} {lanes drawn : Mask} {c x y : Crew}

theorem refl (c : Crew) : Alters V S lanes drawn c c := ⟨fun _ _ _ _ => rfl, fun _ _ => rfl, fun _ _ => rfl, rfl⟩

theorem trans (h : Alters V S lanes drawn c x) (h' : Alters V S lanes drawn x y) : Alters V S lanes drawn c y :=
  ⟨fun r l hl hr => (h'.getV r l hl hr).trans (h.getV r l hl hr), fun r hr => (h'.getS r hr).trans (h.getS r hr),
    fun l hl => (h'.gen l hl).trans (h.gen l hl), h'.bare.trans h.bare⟩

theorem setV {n l : Nat} (hn : V n) (hl : l < 64) (hm : lanes.getLsbD l = true) (w : Word) : Alters V S lanes drawn c (c.setV n l w) := by
  refine ⟨fun r j hj hr => ?_, fun _ _ => rfl, fun _ _ => rfl, rfl⟩
  rw [Crew.getV_setV_lane c n r w hl hj, if_neg]
  rintro ⟨rfl, rfl⟩
  simp_all

theorem setVN {l : Nat} (hl : l < 64) (hm : lanes.getLsbD l = true) : ∀ (span n x : Nat) (c : Crew), (∀ r, InSpan n span r → V r) →
    Alters V S lanes drawn c (c.setVN n l x span)
  | 0, _, _, c, _ => refl c
  | span + 1, n, x, c, h =>
    (setV (h n ⟨le_refl n, by omega⟩) hl hm _).trans
      (setVN hl hm span (n + 1) _ _ fun r hr => h r ⟨by have := hr.1; omega, by have := hr.2; omega⟩)

theorem setGens {m : SMap Word} (hm : ∀ l, drawn.getLsbD l = false → ({ c with gens := m } : Crew).gen l = c.gen l) :
    Alters V S lanes drawn c { c with gens := m } :=
  ⟨fun _ _ _ _ => rfl, fun _ _ => rfl, hm, rfl⟩

theorem setGen {l : Nat} (hl : drawn.getLsbD l = true) (g : Word) : Alters V S lanes drawn c (c.setGen l g) := by
  refine setGens fun j hj => Crew.gen_setGen_of_ne c ?_ g
  rintro rfl
  exact absurd hl (hj ▸ Bool.false_ne_true)

theorem setS {n : Nat} (hn : S n) (w : Word) : Alters V S lanes drawn c (c.setS n w) :=
  ⟨fun _ _ _ _ => rfl, fun r hr => by rw [Crew.getS_setS, if_neg (by rintro rfl; exact hr hn)], fun _ _ => rfl, rfl⟩

theorem setSS {n : Nat} (h : ∀ r, InSpan n 2 r → S r) (w : DWord) : Alters V S lanes drawn c (c.setSS n w) :=
  (setS (h n ⟨le_refl n, by omega⟩) _).trans (setS (h (n + 1) ⟨by omega, by omega⟩) _)

theorem setSN {span n : Nat} (hs : 0 < span) (h : ∀ r, InSpan n span r → S r) (v : Nat) : Alters V S lanes drawn c (c.setSN span n v) := by
  unfold Crew.setSN
  split
  next he => exact setSS (he ▸ h) _
  · exact setS (h n ⟨le_refl n, by omega⟩) _

theorem foldl {f : Crew → Nat → Crew} {ls : List Nat} (h : ∀ l ∈ ls, ∀ a, Alters V S lanes drawn a (f a l)) :
    Alters V S lanes drawn c (ls.foldl f c) := by
  induction ls generalizing c with
  | nil => exact refl c
  | cons l ls ih => exact (h l (List.mem_cons_self ..) c).trans (ih fun j hj => h j (List.mem_cons_of_mem _ hj))

end Crew.Alters

theorem mem_lanesOf {m : Mask} {l : Nat} : l ∈ lanesOf m ↔ l < 64 ∧ m.getLsbD l = true := by
  unfold lanesOf
  rw [List.mem_filter, List.mem_range]

section
variable {V S : Nat → Prop} {lanes drawn : Mask} {d span : Nat} (hV : ∀ r, InSpan d span r → V r)
include hV

theorem Crew.setLanes_alters (c : Crew) {m : Mask} (hm : ∀ l, m.getLsbD l = true → lanes.getLsbD l = true) (f : Nat → Nat) :
    c.Alters V S lanes drawn (c.setLanes d span m f) :=
  .foldl fun _ hl _ => .setVN (mem_lanesOf.mp hl).1 (hm _ (mem_lanesOf.mp hl).2) _ _ _ _ hV

theorem Crew.laneLoop_alters (c : Crew) (n w : Nat) (draws : Bool) (f : Nat → Nat → Rnd → Nat) :
    c.Alters V S lanes lanes (c.laneLoop lanes d span n w draws f) := by
  refine .foldl fun l hl a => ?_
  obtain ⟨hl, hm⟩ := mem_lanesOf.mp hl
  refine Crew.Alters.trans ?_ (.setVN hl hm _ _ _ _ hV)
  split
  · exact .setGen hm _
  · exact .refl a

end

theorem Crew.setGens_alters {V S : Nat → Prop} {lanes drawn : Mask} (c : Crew) (f : Nat → Word) :
    c.Alters V S lanes drawn (c.setGens drawn f) :=
  .foldl fun _ hl _ => .setGen (mem_lanesOf.mp hl).2 _

theorem spanOf_pos (t : Nat) : 0 < spanOf t := by
  unfold spanOf
  split <;> omega

theorem Crew.reduce_alters {V S : Nat → Prop} {lanes : Mask} (c : Crew) {d : Nat} (a : Nat) (fi : IntFmt → Bool → List Int → Nat)
    (ff : Fmt → Rnd → List Val → Nat) (hS : ∀ r, InSpan d (spanOf (modeType c.mode)) r → S r) :
    c.Alters V S lanes c.active (c.reduce d a fi ff) := by
  have h1 : ∀ r, InSpan d 1 r → S r := fun r hr => hS r ⟨hr.1, by have := spanOf_pos (modeType c.mode); have := hr.2; omega⟩
  unfold Crew.reduce
  dsimp only
  split
  · exact .setSN (spanOf_pos _) hS _
  · split
    · exact .setSN one_pos h1 _
    next l ls hls =>
      have hl : l ∈ lanesOf c.active := hls ▸ List.mem_cons_self ..
      refine Crew.Alters.trans ?_ (.setSN one_pos h1 _)
      split
      · exact .setGen (mem_lanesOf.mp hl).2 _
      · exact .refl c

/-! ## From a crew's writes to the statement -/

theorem writesV_head {m : BitVec 16} {i : Instr} {o : Opnd} {os : List Opnd} (h : operands m i = o :: os)
    (hu : o.use = .write ∨ o.use = .both) (hv : o.vec = true) {r : Nat} (hr : InSpan o.reg o.span r) : writesV m i r = true := by
  unfold writesV writesOf
  obtain ⟨hlo, hhi⟩ := hr
  rw [h, List.filter_cons_of_pos (by simpa using hu), List.any_cons]
  simp [hv, hlo, hhi]

theorem writesS_head {m : BitVec 16} {i : Instr} {o : Opnd} {os : List Opnd} (h : operands m i = o :: os)
    (hu : o.use = .write ∨ o.use = .both) (hv : o.vec = false) {r : Nat} (hr : InSpan o.reg o.span r) : writesS m i r = true := by
  unfold writesS writesOf
  obtain ⟨hlo, hhi⟩ := hr
  rw [h, List.filter_cons_of_pos (by simpa using hu), List.any_cons]
  simp [hv, hlo, hhi]

section
variable {s : State} {c : Crew} {i : Instr} {f : Crew → Crew}

/-- What an instruction on its crew alone leaves alone of the crew, its completion leaves alone too. -/
theorem completes_registerEffect (h : Issues s c i = true) (he : exec i s = issueCrew i s f) (hp : flowKind i = .plain)
    (hk : (f c).pc = c.pc ∧ (f c).issued = c.issued ∧ (f c).frames = c.frames) (hx : RegisterEffect s c i s (f c)) :
    Completes s c i (RegisterEffect s c i) := by
  refine completes_issueCrew h he hk fun t c' hl hs => ?_
  obtain ⟨-, ⟨hV, hS⟩, hrest, hts, hmode, hmodex, hbars, hpreds, hgen, hlanes⟩ := hx
  refine ⟨hs (.inl hp), ⟨fun r l hlt hr => ?_, fun r hr => ?_⟩, fun hi => hl.rest.trans (hrest hi), fun a b hi => ?_,
    fun hi => hl.mode.trans (hmode hi), fun hi => hl.modex.trans (hmodex hi), fun hi => hl.bars.trans (hbars hi),
    fun h1 h2 h3 => hl.preds.trans (hpreds h1 h2 h3), fun l hlt hr => (hl.gen l).trans (hgen l hlt hr),
    fun h1 h2 r l hlt hr => (hl.getV r l).trans (hlanes h1 h2 r l hlt hr)⟩
  · exact (hl.getV r l).trans (hV r l hlt hr)
  · exact (hl.getS r).trans (hS r hr)
  · exact (congrArg (fun x : Crew => { x with tsa := c.tsa, tsb := c.tsb }) hl.rest).trans (hts a b hi)

theorem Crew.Alters.registerEffect {V S : Nat → Prop} {lanes : Mask} {x : Crew} (h : Crew.Alters V S lanes c.active c x)
    (hV : ∀ r, V r → writesV c.mode i r = true) (hS : ∀ r, S r → writesS c.mode i r = true)
    (hl : (∀ d a b, i ≠ .sel d a b) → lanes = c.active) : RegisterEffect s c i s x := by
  obtain ⟨getV, getS, gen, bare⟩ := h
  have hrest : x.rest = c.rest := (congrArg Crew.rest bare :)
  refine ⟨.refl s, ⟨fun r l hlt hr => getV r l hlt (.inl fun hv => ?_), fun r hr => getS r fun hv => ?_⟩, fun _ => hrest, fun _ _ _ => ?_,
    fun _ => (congrArg Crew.mode bare :), fun _ => (congrArg Crew.modex bare :), fun _ => (congrArg Crew.bars bare :),
    fun _ _ _ => (congrArg Crew.preds bare :), fun l _ hr => gen l hr, fun _ hi r l hlt hr => getV r l hlt (.inr ?_)⟩
  · exact absurd (hV r hv) (hr ▸ Bool.false_ne_true)
  · exact absurd (hS r hv) (hr ▸ Bool.false_ne_true)
  · exact (congrArg (fun x : Crew => { x with tsa := c.tsa, tsb := c.tsb }) hrest :)
  · exact hl hi ▸ hr

theorem completes_of_alters {V S : Nat → Prop} {lanes : Mask} (h : Issues s c i = true) (he : exec i s = issueCrew i s f)
    (hp : flowKind i = .plain) (ha : Crew.Alters V S lanes c.active c (f c)) (hV : ∀ r, V r → writesV c.mode i r = true)
    (hS : ∀ r, S r → writesS c.mode i r = true) (hl : (∀ d a b, i ≠ .sel d a b) → lanes = c.active) :
    Completes s c i (RegisterEffect s c i) :=
  completes_registerEffect h he hp
    ⟨(congrArg Crew.pc ha.bare :), (congrArg Crew.issued ha.bare :), (congrArg Crew.frames ha.bare :)⟩ (ha.registerEffect hV hS hl)

end

end Sys2Proof.Machine
end

section
/-! PROOF, the layer of the checks of Table 2.4, in their order (R36). -/

namespace Sys2Proof.Machine

theorem not_allocated (o : Opnd) (v s : Nat) : (!o.allocated v s) = decide ((if o.vec then v else s) < o.reg + o.span) := by
  unfold Opnd.allocated
  rw [← decide_not]
  simp only [Nat.not_le]

/-- The first operand, in the order of the fields, that lies outside the crew's registers. -/
def Crew.short (c : Crew) (i : Instr) : Option Opnd :=
  (operands c.mode i).find? fun o => decide ((if o.vec then c.vregs else c.sregs) < o.reg + o.span)

/-- The REGALLOC trap of an operand and a tile that fail: of the lower field (R38). -/
def allocTrap : Option Opnd → Option (Nat × Nat) → Option (Nat × DWord)
  | some o, some (f, t) => some (0x12, BitVec.ofNat 64 (if f < o.field then f * 256 + t else o.tval))
  | some o, none => some (0x12, BitVec.ofNat 64 o.tval)
  | none, some (f, t) => some (0x12, BitVec.ofNat 64 (f * 256 + t))
  | none, none => none

section
variable {s : State} {c : Crew} {i : Instr}

theorem checkIssue_of_fields (hf : (fieldsOk i && (operands c.mode i).all Opnd.ok) = false) :
    checkIssue s c i = some (0x01, i.word.zeroExtend 64) := by
  unfold checkIssue
  dsimp only
  rw [hf]
  rfl

variable (hf : (fieldsOk i && (operands c.mode i).all Opnd.ok) = true)
include hf

theorem checkIssue_of_level (hl : (s.ctx c.ctx).level < levelNeeded i) : checkIssue s c i = some (0x15, i.word.zeroExtend 64) := by
  unfold checkIssue
  dsimp only
  rw [hf, if_neg (by decide), if_pos hl]

variable (hl : ¬ (s.ctx c.ctx).level < levelNeeded i)
include hl

theorem checkIssue_of_spatial (hs : spatialOk (s.spatialRole s.fkey) (spatialUse i) = false) :
    checkIssue s c i = some (0x01, i.word.zeroExtend 64) := by
  unfold checkIssue
  dsimp only
  rw [hf, if_neg (by decide), if_neg hl, hs]
  rfl

variable (hs : spatialOk (s.spatialRole s.fkey) (spatialUse i) = true)
include hs

theorem checkIssue_of_mode (hm : modeOk c.mode c.modex i = false) : checkIssue s c i = some (0x13, c.mode.zeroExtend 64) := by
  unfold checkIssue
  dsimp only
  rw [hf, if_neg (by decide), if_neg hl, hs, if_neg (by decide), hm]
  rfl

variable (hm : modeOk c.mode c.modex i = true)
include hm

theorem checkIssue_of_alloc : checkIssue s c i = allocTrap (c.short i) ((tileField i).filter (fun e => !c.tiles.getLsbD e.2)) := by
  unfold checkIssue Crew.short
  dsimp only
  rw [hf, if_neg (by decide), if_neg hl, hs, if_neg (by decide), hm, if_neg (by decide)]
  simp only [not_allocated]
  rfl

theorem checkIssue_of_register {o : Opnd} (ho : c.short i = some o)
    (ht : ∀ f t, tileField i = some (f, t) → c.tiles.getLsbD t = true ∨ o.field ≤ f) :
    checkIssue s c i = some (0x12, BitVec.ofNat 64 (o.field * 256 + o.reg)) := by
  rw [checkIssue_of_alloc hf hl hs hm, ho]
  cases htile : tileField i with
  | none => rfl
  | some e =>
    obtain ⟨f, t⟩ := e
    rw [Option.filter_some]
    by_cases hb : c.tiles.getLsbD t = true
    · rw [if_neg (by simpa using hb)]
      rfl
    · have hle := (ht f t htile).resolve_left hb
      rw [if_pos (by simpa using hb), allocTrap, if_neg (by omega)]
      rfl

theorem checkIssue_of_tile {f t : Nat} (htile : tileField i = some (f, t)) (hb : c.tiles.getLsbD t = false)
    (ho : ∀ o, c.short i = some o → f < o.field) : checkIssue s c i = some (0x12, BitVec.ofNat 64 (f * 256 + t)) := by
  rw [checkIssue_of_alloc hf hl hs hm, htile, Option.filter_some, if_pos (by simpa using hb)]
  cases hshort : c.short i with
  | none => rfl
  | some o =>
    rw [allocTrap, if_pos (ho o hshort)]

theorem checkIssue_of_none (ho : c.short i = none) (ht : ∀ f t, tileField i = some (f, t) → c.tiles.getLsbD t = true) :
    checkIssue s c i = none := by
  rw [checkIssue_of_alloc hf hl hs hm, ho]
  cases htile : tileField i with
  | none => rfl
  | some e =>
    obtain ⟨f, t⟩ := e
    rw [Option.filter_some, if_neg (by simpa using ht f t htile)]
    rfl

end

/-- An instruction fails a check before its registers, or has a good MODE and fails at most the check of its registers and tile. -/
theorem checkIssue_cases (s : State) (c : Crew) (i : Instr) :
    (∃ cause tval, checkIssue s c i = some (cause, tval) ∧ cause ∈ [0x01, 0x13, 0x15]) ∨
      modeOk c.mode c.modex i = true ∧
        checkIssue s c i = allocTrap (c.short i) ((tileField i).filter (fun e => !c.tiles.getLsbD e.2)) := by
  by_cases hf : (fieldsOk i && (operands c.mode i).all Opnd.ok) = true
  swap
  · exact .inl ⟨_, _, checkIssue_of_fields (Bool.eq_false_iff.mpr hf), by decide⟩
  by_cases hl : (s.ctx c.ctx).level < levelNeeded i
  · exact .inl ⟨_, _, checkIssue_of_level hf hl, by decide⟩
  by_cases hs : spatialOk (s.spatialRole s.fkey) (spatialUse i) = true
  swap
  · exact .inl ⟨_, _, checkIssue_of_spatial hf hl (Bool.eq_false_iff.mpr hs), by decide⟩
  by_cases hm : modeOk c.mode c.modex i = true
  swap
  · exact .inl ⟨_, _, checkIssue_of_mode hf hl hs (Bool.eq_false_iff.mpr hm), by decide⟩
  exact .inr ⟨hm, checkIssue_of_alloc hf hl hs hm⟩

section
variable {s : State} {c : Crew} {i : Instr}

theorem checkIssue_cause_ne {cause : Nat} {tval : DWord} (h : checkIssue s c i = some (cause, tval)) : cause ≠ 0x10 := by
  rcases checkIssue_cases s c i with ⟨cause', tval', hk, hmem⟩ | ⟨-, hk⟩
  · rw [hk] at h
    cases h
    rintro rfl
    exact absurd hmem (by decide)
  · rw [hk] at h
    unfold allocTrap at h
    split at h <;> cases h <;> decide

theorem modeOk_of_checkIssue (h : checkIssue s c i = none) : modeOk c.mode c.modex i = true := by
  rcases checkIssue_cases s c i with ⟨cause, tval, hk, -⟩ | ⟨hm, -⟩
  · rw [hk] at h
    cases h
  · exact hm

theorem checkIssue_of_issues (h : Issues s c i = true) : checkIssue s c i = none := by
  simp only [Issues, Bool.and_eq_true, and_assoc] at h
  obtain ⟨-, -, -, -, hc, -⟩ := h
  exact Option.isNone_iff_eq_none.mp hc

end

end Sys2Proof.Machine
end

section
/-! PROOF of O9, the instructions by what they do to their crew: a loop over lanes, a scalar write, or a write of MODE, MODEX, a predicate or a
barrier. -/

namespace Sys2Proof.Machine

/-! ## The loops of the lane instructions -/

section
variable {S : Nat → Prop} (c : Crew) (d : Nat)

theorem Crew.typeLoop_alters (rounds : Bool) (g : Nat → Nat → Rnd → Nat) :
    c.Alters (InSpan d (spanOf (modeType c.mode))) S c.active c.active (c.typeLoop d rounds g) :=
  c.laneLoop_alters (fun _ hr => hr) ..

theorem Crew.convertLoop_alters (src : Nat → Nat → Nat) :
    c.Alters (InSpan d (spanOf (modeCtype c.mode))) S c.active c.active (c.convertLoop d src) :=
  c.laneLoop_alters (fun _ hr => hr) ..

theorem Crew.copyLoop_alters (m : Mask) (g : Nat → Nat) :
    c.Alters (InSpan d (spanOf (modeType c.mode))) S m c.active (c.copyLoop m d g) :=
  c.setLanes_alters (fun _ hr => hr) (fun _ h => h) g

theorem Crew.dot_alters (a b n : Nat) :
    c.Alters (InSpan d (spanOf (modeType c.mode))) S c.active c.active (c.dot d a b n) := by
  have hV (r : Nat) (hr : InSpan d 1 r) : InSpan d (spanOf (modeType c.mode)) r :=
    ⟨hr.1, by have := hr.2; have := spanOf_pos (modeType c.mode); omega⟩
  unfold Crew.dot
  dsimp only
  split
  · exact c.laneLoop_alters hV ..
  · exact c.laneLoop_alters hV ..

end

/-! ## Completion by what the instruction does to its crew -/

section
variable {s : State} {c : Crew} {i : Instr} {f : Crew → Crew} {o : Opnd} {os : List Opnd} {u : Access} {d : Nat}

theorem completes_vector (h : Issues s c i = true) (he : exec i s = issueCrew i s f) (hp : flowKind i = .plain)
    (ho : operands c.mode i = o :: os) (hu : o.use = .write ∨ o.use = .both) (hv : o.vec = true)
    (ha : Crew.Alters (InSpan o.reg o.span) (fun _ => False) c.active c.active c (f c)) : Completes s c i (RegisterEffect s c i) :=
  completes_of_alters h he hp ha (fun _ hr => writesV_head ho hu hv hr) (fun _ => False.elim) fun _ => rfl

theorem completes_scalar (h : Issues s c i = true) (he : exec i s = issueCrew i s f) (hp : flowKind i = .plain)
    (ho : operands c.mode i = o :: os) (hu : o.use = .write ∨ o.use = .both) (hv : o.vec = false)
    (ha : Crew.Alters (fun _ => False) (InSpan o.reg o.span) c.active c.active c (f c)) : Completes s c i (RegisterEffect s c i) :=
  completes_of_alters h he hp ha (fun _ => False.elim) (fun _ hr => writesS_head ho hu hv hr) fun _ => rfl

theorem completes_typeLoop {rounds : Crew → Bool} {g : Crew → Nat → Nat → Rnd → Nat} (h : Issues s c i = true)
    (he : exec i s = issueCrew i s fun c => c.typeLoop d (rounds c) (g c)) (hp : flowKind i = .plain)
    (ho : operands c.mode i = .vt c.mode 0 d u :: os) (hu : u = .write ∨ u = .both) : Completes s c i (RegisterEffect s c i) :=
  completes_vector h he hp ho hu rfl (c.typeLoop_alters d _ _)

theorem completes_copyLoop {g : Crew → Nat → Nat} (h : Issues s c i = true)
    (he : exec i s = issueCrew i s fun c => c.copyLoop c.active d (g c)) (hp : flowKind i = .plain)
    (ho : operands c.mode i = .vt c.mode 0 d u :: os) (hu : u = .write ∨ u = .both) : Completes s c i (RegisterEffect s c i) :=
  completes_vector h he hp ho hu rfl (c.copyLoop_alters d _ _)

theorem completes_dot {a b n : Nat} (h : Issues s c i = true) (he : exec i s = issueCrew i s fun c => c.dot d a b n)
    (hp : flowKind i = .plain) (ho : operands c.mode i = .vt c.mode 0 d .both :: os) : Completes s c i (RegisterEffect s c i) :=
  completes_vector h he hp ho (.inr rfl) rfl (c.dot_alters d a b n)

theorem completes_setLanes {span : Nat} {g : Crew → Nat → Nat} (h : Issues s c i = true)
    (he : exec i s = issueCrew i s fun c => c.setLanes d span c.active (g c)) (hp : flowKind i = .plain)
    (ho : operands c.mode i = o :: os) (hd : o.reg = d) (hs : o.span = span) (hu : o.use = .write ∨ o.use = .both) (hv : o.vec = true) :
    Completes s c i (RegisterEffect s c i) :=
  completes_vector h he hp ho hu hv (c.setLanes_alters (fun _ hr => hd ▸ hs ▸ hr) (fun _ h => h) _)

theorem completes_convertLoop {src : Crew → Nat → Nat → Nat} (h : Issues s c i = true)
    (he : exec i s = issueCrew i s fun c => c.convertLoop d (src c)) (hp : flowKind i = .plain)
    (ho : operands c.mode i = o :: os) (hd : o.reg = d) (hs : o.span = spanOf (modeCtype c.mode)) (hu : o.use = .write)
    (hv : o.vec = true) : Completes s c i (RegisterEffect s c i) := by
  refine completes_vector h he hp ho (.inl hu) hv ?_
  rw [hd, hs]
  exact c.convertLoop_alters d _

theorem completes_setS {g : Crew → Word} (h : Issues s c i = true) (he : exec i s = issueCrew i s fun c => c.setS d (g c))
    (hp : flowKind i = .plain) (ho : operands c.mode i = .sc 0 d u :: os) (hu : u = .write ∨ u = .both) :
    Completes s c i (RegisterEffect s c i) :=
  completes_scalar h he hp ho hu rfl (.setS ⟨le_refl d, Nat.lt_succ_self d⟩ _)

theorem completes_setSS {g : Crew → DWord} (h : Issues s c i = true) (he : exec i s = issueCrew i s fun c => c.setSS d (g c))
    (hp : flowKind i = .plain) (ho : operands c.mode i = .sc2 0 d .write :: os) : Completes s c i (RegisterEffect s c i) :=
  completes_scalar h he hp ho (.inl rfl) rfl (.setSS (fun _ hr => hr) _)

theorem completes_setSN {g : Crew → Nat} (h : Issues s c i = true)
    (he : exec i s = issueCrew i s fun c => c.setSN (spanOf (modeType c.mode)) d (g c)) (hp : flowKind i = .plain)
    (ho : operands c.mode i = .st c.mode 0 d .write :: os) : Completes s c i (RegisterEffect s c i) :=
  completes_scalar h he hp ho (.inl rfl) rfl (.setSN (spanOf_pos _) (fun _ hr => hr) _)

theorem completes_reduce {a : Nat} {fi : IntFmt → Bool → List Int → Nat} {ff : Fmt → Rnd → List Val → Nat} (h : Issues s c i = true)
    (he : exec i s = issueCrew i s fun c => c.reduce d a fi ff) (hp : flowKind i = .plain)
    (ho : operands c.mode i = .st c.mode 0 d .write :: os) : Completes s c i (RegisterEffect s c i) :=
  completes_scalar h he hp ho (.inl rfl) rfl (c.reduce_alters a fi ff fun _ hr => hr)

theorem completes_setGens {g : Crew → Nat → Word} (h : Issues s c i = true)
    (he : exec i s = issueCrew i s fun c => c.setGens c.active (g c)) (hp : flowKind i = .plain) :
    Completes s c i (RegisterEffect s c i) :=
  completes_of_alters (V := fun _ => False) (S := fun _ => False) h he hp (c.setGens_alters _) (fun _ => False.elim) (fun _ => False.elim)
    fun _ => rfl

/-- An instruction that writes no register but one of those that the statement names one by one. -/
theorem completes_flags {m mx : BitVec 16} {p : SMap Mask} {b : SMap Barrier} {ta tb : Word} (h : Issues s c i = true)
    (he : exec i s = issueCrew i s f) (hp : flowKind i = .plain)
    (hf : f c = { c with mode := m, modex := mx, preds := p, bars := b, tsa := ta, tsb := tb })
    (hmode : (∀ f v, i ≠ .setm f v) → m = c.mode) (hmodex : (∀ f v, i ≠ .setmx f v) → mx = c.modex)
    (hbars : (∀ d o, i ≠ .rcset d o) → b = c.bars) (hts : (∀ a b, i ≠ .mtsc a b) → ta = c.tsa ∧ tb = c.tsb)
    (hpreds : (∀ d a f b, i ≠ .plog d a f b) → (∀ d a, i ≠ .sfromp d a) →
      (∀ d a b, i ≠ .cmpeq d a b ∧ i ≠ .cmpne d a b ∧ i ≠ .cmplt d a b ∧ i ≠ .cmple d a b ∧ i ≠ .cmpun d a b) → p = c.preds) :
    Completes s c i (RegisterEffect s c i) := by
  refine completes_registerEffect h he hp (by rw [hf]; exact ⟨rfl, rfl, rfl⟩) ?_
  rw [hf]
  refine ⟨.refl s, ⟨fun _ _ _ _ => rfl, fun _ _ => rfl⟩, fun hi => ?_, fun _ _ _ => rfl, hmode, hmodex, hbars, hpreds, fun _ _ _ => rfl,
    fun _ _ _ _ _ _ => rfl⟩
  obtain ⟨rfl, rfl⟩ := hts hi
  rfl

theorem Crew.setPredLanes_eq (c : Crew) (n : Nat) (m bits : Mask) : ∃ p, c.setPredLanes n m bits = { c with preds := p } := by
  unfold Crew.setPredLanes Crew.setPred
  split
  · exact ⟨c.preds, rfl⟩
  · exact ⟨_, rfl⟩

/-- The instructions that write a predicate. -/
inductive WritesPred : Instr → Prop
  | plog (d a f b) : WritesPred (.plog d a f b)
  | sfromp (d a) : WritesPred (.sfromp d a)
  | cmpeq (d a b) : WritesPred (.cmpeq d a b)
  | cmpne (d a b) : WritesPred (.cmpne d a b)
  | cmplt (d a b) : WritesPred (.cmplt d a b)
  | cmple (d a b) : WritesPred (.cmple d a b)
  | cmpun (d a b) : WritesPred (.cmpun d a b)

theorem WritesPred.excluded (hi : WritesPred i) {Q : Prop} (hplog : ∀ d a f b, i ≠ .plog d a f b) (hsfromp : ∀ d a, i ≠ .sfromp d a)
    (hcmp : ∀ d a b, i ≠ .cmpeq d a b ∧ i ≠ .cmpne d a b ∧ i ≠ .cmplt d a b ∧ i ≠ .cmple d a b ∧ i ≠ .cmpun d a b) : Q := by
  cases hi with
  | plog d a f b => exact absurd rfl (hplog d a f b)
  | sfromp d a => exact absurd rfl (hsfromp d a)
  | cmpeq d a b | cmpne d a b | cmplt d a b | cmple d a b | cmpun d a b =>
    obtain ⟨heq, hne, hlt, hle, hun⟩ := hcmp d a b
    contradiction

theorem completes_setPredLanes {n : Nat} {bits : Crew → Mask} (h : Issues s c i = true)
    (he : exec i s = issueCrew i s fun c => c.setPredLanes n c.active (bits c)) (hp : flowKind i = .plain) (hi : WritesPred i) :
    Completes s c i (RegisterEffect s c i) := by
  obtain ⟨p, hf⟩ := c.setPredLanes_eq n c.active (bits c)
  exact completes_flags h he hp hf (fun _ => rfl) (fun _ => rfl) (fun _ => rfl) (fun _ => ⟨rfl, rfl⟩) hi.excluded

end

/-! ## The type pairs of the packing conversions give no 64-bit result -/

theorem spanOf_of_not_wide {t : Nat} (h : t < 12) : spanOf t = 1 := by
  unfold spanOf
  rw [if_neg (by omega)]

theorem spanOf_ctype_of_cvtpPair {m : BitVec 16} (h : cvtpPair m = true) : spanOf (modeCtype m) = 1 := by
  refine spanOf_of_not_wide ?_
  simp only [cvtpPair, isOne, isTwo, isFour, isEight, Bool.or_eq_true, Bool.and_eq_true, decide_eq_true_eq] at h
  omega

theorem spanOf_ctype_of_cvtqPair {m : BitVec 16} (h : cvtqPair m = true) : spanOf (modeCtype m) = 1 := by
  refine spanOf_of_not_wide ?_
  simp only [cvtqPair, isOne, isTwo, isFour, isEight, Bool.or_eq_true, Bool.and_eq_true, decide_eq_true_eq] at h
  omega

end Sys2Proof.Machine
end

section
/-! PROOF of O9, the instructions one by one. -/

namespace Sys2Proof.Machine

/-! ## The instructions that stand alone -/

section
variable {s : State} {c : Crew}

theorem completes_nop (h : Issues s c .nop = true) : Completes s c .nop (RegisterEffect s c .nop) :=
  completes_of_alters (V := fun _ => False) (S := fun _ => False) h rfl rfl (.refl c) (fun _ => False.elim) (fun _ => False.elim)
    fun _ => rfl

theorem completes_setm {f : BitVec 6} {v : BitVec 16} (h : Issues s c (.setm f v) = true) :
    Completes s c (.setm f v) (RegisterEffect s c (.setm f v)) :=
  completes_flags h rfl rfl rfl (fun hi => absurd rfl (hi f v)) (fun _ => rfl) (fun _ => rfl) (fun _ => ⟨rfl, rfl⟩) fun _ _ _ => rfl

theorem completes_setmx {f : BitVec 3} {v : BitVec 6} (h : Issues s c (.setmx f v) = true) :
    Completes s c (.setmx f v) (RegisterEffect s c (.setmx f v)) :=
  completes_flags h rfl rfl rfl (fun _ => rfl) (fun hi => absurd rfl (hi f v)) (fun _ => rfl) (fun _ => ⟨rfl, rfl⟩) fun _ _ _ => rfl

theorem completes_rcset {d : BitVec 3} {a : BitVec 16} (h : Issues s c (.rcset d a) = true) :
    Completes s c (.rcset d a) (RegisterEffect s c (.rcset d a)) :=
  completes_flags h rfl rfl rfl (fun _ => rfl) (fun _ => rfl) (fun hi => absurd rfl (hi d a)) (fun _ => ⟨rfl, rfl⟩) fun _ _ _ => rfl

theorem completes_mtsc {d a : BitVec 8} (h : Issues s c (.mtsc d a) = true) :
    Completes s c (.mtsc d a) (RegisterEffect s c (.mtsc d a)) :=
  completes_flags h rfl rfl rfl (fun _ => rfl) (fun _ => rfl) (fun _ => rfl) (fun hi => absurd rfl (hi d a)) fun _ _ _ => rfl

/-- SEL writes the lanes of AM that the guard does not choose too (R118). -/
theorem completes_sel {d a b : BitVec 8} (h : Issues s c (.sel d a b) = true) :
    Completes s c (.sel d a b) (RegisterEffect s c (.sel d a b)) :=
  completes_of_alters (S := fun _ => False) h rfl rfl (c.copyLoop_alters d.toNat c.am _) (fun _ hr => writesV_head rfl (.inl rfl) rfl hr)
    (fun _ => False.elim) fun hi => absurd rfl (hi d a b)

/-- VSET writes no lane but one, and that only if it is active (R141). -/
theorem completes_vset {d a b : BitVec 8} (h : Issues s c (.vset d a b) = true) :
    Completes s c (.vset d a b) (RegisterEffect s c (.vset d a b)) := by
  refine completes_vector h rfl rfl rfl (.inl rfl) rfl (c.setLanes_alters (fun _ hr => hr) (fun l hl => ?_) _)
  rw [BitVec.getLsbD_and, Bool.and_eq_true] at hl
  exact hl.1

/-- DIV is an arithmetic loop on floats and another on integers. -/
theorem completes_div {d a b : BitVec 8} (h : Issues s c (.div d a b) = true) :
    Completes s c (.div d a b) (RegisterEffect s c (.div d a b)) := by
  refine completes_vector h rfl rfl rfl (.inl rfl) rfl ?_
  split
  · exact c.typeLoop_alters d.toNat _ _
  · exact c.typeLoop_alters d.toNat _ _

theorem completes_cvtp {d a b : BitVec 8} (h : Issues s c (.cvtp d a b) = true) :
    Completes s c (.cvtp d a b) (RegisterEffect s c (.cvtp d a b)) := by
  have hm : (cvtpPair c.mode && rndOk c.mode) = true := modeOk_of_checkIssue (checkIssue_of_issues h)
  rw [Bool.and_eq_true] at hm
  exact completes_convertLoop h rfl rfl rfl rfl (spanOf_ctype_of_cvtpPair hm.1).symm rfl rfl

theorem completes_cvtq {d a : BitVec 8} (h : Issues s c (.cvtq d a) = true) :
    Completes s c (.cvtq d a) (RegisterEffect s c (.cvtq d a)) := by
  have hm : (cvtqPair c.mode && rndOk c.mode) = true := modeOk_of_checkIssue (checkIssue_of_issues h)
  rw [Bool.and_eq_true] at hm
  exact completes_convertLoop h rfl rfl rfl rfl (spanOf_ctype_of_cvtqPair hm.1).symm rfl rfl

theorem completes_cvtsc {d a b : BitVec 8} (h : Issues s c (.cvtsc d a b) = true) :
    Completes s c (.cvtsc d a b) (RegisterEffect s c (.cvtsc d a b)) :=
  completes_vector h rfl rfl rfl (.inl rfl) rfl (c.laneLoop_alters (fun _ hr => hr) ..)

end

/-- Settles O9, one line per instruction: each is one of the loops or writes above, which reach only what the instruction names. -/
theorem registerInstructionsComplete : Obligations.RegisterInstructionsComplete := by
  unfold Obligations.RegisterInstructionsComplete
  intro s c
  exact ⟨fun h => completes_nop h,
    fun _ _ h => completes_setm h,
    fun _ _ h => completes_setmx h,
    fun _ h => completes_setS h rfl rfl rfl (.inl rfl),
    fun _ _ _ _ h => completes_setPredLanes h rfl rfl (.plog ..),
    fun _ _ h => completes_setS h rfl rfl rfl (.inl rfl),
    fun _ _ h => completes_setSS h rfl rfl rfl,
    fun _ _ h => completes_setPredLanes h rfl rfl (.sfromp ..),
    fun _ _ _ h => completes_setS h rfl rfl rfl (.inl rfl),
    fun _ _ _ h => completes_setS h rfl rfl rfl (.inl rfl),
    fun _ _ _ h => completes_setS h rfl rfl rfl (.inl rfl),
    fun _ _ _ h => completes_setS h rfl rfl rfl (.inl rfl),
    fun _ _ _ h => completes_setS h rfl rfl rfl (.inl rfl),
    fun _ _ _ h => completes_setS h rfl rfl rfl (.inl rfl),
    fun _ _ _ h => completes_setS h rfl rfl rfl (.inl rfl),
    fun _ _ _ h => completes_setS h rfl rfl rfl (.inl rfl),
    fun _ _ _ h => completes_setS h rfl rfl rfl (.inl rfl),
    fun _ _ _ h => completes_setS h rfl rfl rfl (.inl rfl),
    fun _ _ _ h => completes_setS h rfl rfl rfl (.inl rfl),
    fun _ _ _ h => completes_setS h rfl rfl rfl (.inl rfl),
    fun _ _ _ h => completes_setS h rfl rfl rfl (.inl rfl),
    fun _ _ _ h => completes_setS h rfl rfl rfl (.inl rfl),
    fun _ _ _ h => completes_setSS h rfl rfl rfl,
    fun _ _ h => completes_setS h rfl rfl rfl (.inl rfl),
    fun _ _ h => completes_setS h rfl rfl rfl (.inl rfl),
    fun _ _ h => completes_setS h rfl rfl rfl (.inr rfl),
    fun _ _ h => completes_setSS h rfl rfl rfl,
    fun _ _ h => completes_rcset h,
    fun _ h => completes_setLanes h rfl rfl rfl rfl rfl (.inl rfl) rfl,
    fun _ _ h => completes_mtsc h,
    fun _ _ _ h => completes_typeLoop h rfl rfl rfl (.inl rfl),
    fun _ _ _ h => completes_typeLoop h rfl rfl rfl (.inl rfl),
    fun _ _ _ h => completes_typeLoop h rfl rfl rfl (.inl rfl),
    fun _ _ _ h => completes_typeLoop h rfl rfl rfl (.inl rfl),
    fun _ _ _ h => completes_typeLoop h rfl rfl rfl (.inr rfl),
    fun _ _ _ h => completes_typeLoop h rfl rfl rfl (.inr rfl),
    fun _ _ _ h => completes_typeLoop h rfl rfl rfl (.inr rfl),
    fun _ _ _ h => completes_typeLoop h rfl rfl rfl (.inl rfl),
    fun _ _ _ h => completes_typeLoop h rfl rfl rfl (.inl rfl),
    fun _ _ h => completes_typeLoop h rfl rfl rfl (.inl rfl),
    fun _ _ h => completes_typeLoop h rfl rfl rfl (.inl rfl),
    fun _ _ _ h => completes_setPredLanes h rfl rfl (.cmpeq ..),
    fun _ _ _ h => completes_setPredLanes h rfl rfl (.cmpne ..),
    fun _ _ _ h => completes_setPredLanes h rfl rfl (.cmplt ..),
    fun _ _ _ h => completes_setPredLanes h rfl rfl (.cmple ..),
    fun _ _ _ h => completes_setPredLanes h rfl rfl (.cmpun ..),
    fun _ _ _ h => completes_sel h,
    fun _ _ _ h => completes_typeLoop h rfl rfl rfl (.inl rfl),
    fun _ _ h => completes_copyLoop h rfl rfl rfl (.inl rfl),
    fun _ _ h => completes_setLanes h rfl rfl rfl rfl rfl (.inr rfl) rfl,
    fun _ _ h => completes_copyLoop h rfl rfl rfl (.inl rfl),
    fun _ _ _ h => completes_div h,
    fun _ _ _ h => completes_typeLoop h rfl rfl rfl (.inl rfl),
    fun _ _ h => completes_typeLoop h rfl rfl rfl (.inl rfl),
    fun _ _ h => completes_typeLoop h rfl rfl rfl (.inl rfl),
    fun _ _ h => completes_typeLoop h rfl rfl rfl (.inl rfl),
    fun _ _ h => completes_typeLoop h rfl rfl rfl (.inl rfl),
    fun _ _ h => completes_typeLoop h rfl rfl rfl (.inl rfl),
    fun _ _ h => completes_typeLoop h rfl rfl rfl (.inl rfl),
    fun _ _ h => completes_typeLoop h rfl rfl rfl (.inl rfl),
    fun _ _ _ h => completes_dot h rfl rfl rfl,
    fun _ _ _ h => completes_dot h rfl rfl rfl,
    fun _ _ h => completes_typeLoop h rfl rfl rfl (.inl rfl),
    fun _ _ h => completes_typeLoop h rfl rfl rfl (.inl rfl),
    fun _ _ h => completes_typeLoop h rfl rfl rfl (.inl rfl),
    fun _ _ h => completes_typeLoop h rfl rfl rfl (.inl rfl),
    fun _ _ h => completes_typeLoop h rfl rfl rfl (.inl rfl),
    fun _ _ _ h => completes_typeLoop h rfl rfl rfl (.inl rfl),
    fun _ _ _ h => completes_typeLoop h rfl rfl rfl (.inl rfl),
    fun _ _ _ h => completes_typeLoop h rfl rfl rfl (.inl rfl),
    fun _ _ h => completes_convertLoop h rfl rfl rfl rfl rfl rfl rfl,
    fun _ _ _ h => completes_cvtp h,
    fun _ _ h => completes_cvtq h,
    fun _ _ h => completes_convertLoop h rfl rfl rfl rfl rfl rfl rfl,
    fun _ _ h => completes_convertLoop h rfl rfl rfl rfl rfl rfl rfl,
    fun _ _ _ h => completes_cvtsc h,
    fun _ h => completes_setGens h rfl rfl,
    fun _ h => completes_setGens h rfl rfl,
    fun _ _ _ h => completes_copyLoop h rfl rfl rfl (.inl rfl),
    fun _ _ _ h => completes_copyLoop h rfl rfl rfl (.inl rfl),
    fun _ _ _ h => completes_copyLoop h rfl rfl rfl (.inl rfl),
    fun _ _ h => completes_copyLoop h rfl rfl rfl (.inl rfl),
    fun _ _ _ h => completes_typeLoop h rfl rfl rfl (.inl rfl),
    fun _ _ _ h => completes_typeLoop h rfl rfl rfl (.inl rfl),
    fun _ _ _ h => completes_typeLoop h rfl rfl rfl (.inl rfl),
    fun _ _ _ h => completes_typeLoop h rfl rfl rfl (.inl rfl),
    fun _ _ _ h => completes_copyLoop h rfl rfl rfl (.inl rfl),
    fun _ _ _ h => completes_copyLoop h rfl rfl rfl (.inr rfl),
    fun _ _ h => completes_typeLoop h rfl rfl rfl (.inl rfl),
    fun _ _ h => completes_typeLoop h rfl rfl rfl (.inl rfl),
    fun _ _ h => completes_typeLoop h rfl rfl rfl (.inl rfl),
    fun _ _ _ h => completes_setSS h rfl rfl rfl,
    fun _ _ _ h => completes_copyLoop h rfl rfl rfl (.inl rfl),
    fun _ _ _ h => completes_copyLoop h rfl rfl rfl (.inl rfl),
    fun _ _ _ h => completes_copyLoop h rfl rfl rfl (.inl rfl),
    fun _ _ _ h => completes_copyLoop h rfl rfl rfl (.inl rfl),
    fun _ _ _ h => completes_setSN h rfl rfl rfl,
    fun _ _ _ h => completes_vset h,
    fun _ _ h => completes_reduce h rfl rfl rfl,
    fun _ _ h => completes_reduce h rfl rfl rfl,
    fun _ _ h => completes_reduce h rfl rfl rfl,
    fun _ h => completes_setLanes h rfl rfl rfl rfl rfl (.inl rfl) rfl⟩

end Sys2Proof.Machine
end

section
/-! PROOF of O13: PLOG, SFROMP, PCOUNT and PTOS act on the lanes of active. -/

namespace Sys2Proof.Machine

/-- A lane of a predicate after a write under a mask. -/
theorem Crew.pred_setPredLanes (c : Crew) (n k : Nat) (m bits : Mask) {l : Nat} (hl : l < 64) :
    ((c.setPredLanes n m bits).pred k).getLsbD l =
      if k = n ∧ k ≠ 0 ∧ m.getLsbD l then bits.getLsbD l else (c.pred k).getLsbD l := by
  unfold Crew.setPredLanes
  rw [Crew.pred_setPred]
  by_cases hk : k = n ∧ n ≠ 0
  · obtain ⟨rfl, hk⟩ := hk
    simp only [hk, ne_eq, not_false_eq_true, and_self, if_true, true_and, BitVec.getLsbD_or, BitVec.getLsbD_and, BitVec.getLsbD_not, hl,
      decide_true, Bool.true_and]
    cases m.getLsbD l <;> simp
  · have hne : ¬ (k = n ∧ k ≠ 0 ∧ m.getLsbD l = true) := fun h => hk ⟨h.1, h.1 ▸ h.2.1⟩
    rw [if_neg hk, if_neg hne]

/-- The pair that was written reads back. -/
theorem Crew.getSS_setSS (c : Crew) (n : Nat) (x : DWord) : (c.setSS n x).getSS n = x := by
  unfold Crew.getSS Crew.setSS
  rw [Crew.getS_setS, if_pos rfl, Crew.getS_setS, if_neg (by omega), Crew.getS_setS, if_pos rfl]
  ext j hj
  simp only [BitVec.getElem_append, BitVec.getElem_extractLsb']
  split
  · simp [hj]
  · rw [show 32 + (j - 32) = j from by omega, BitVec.getLsbD_eq_getElem hj]

theorem length_lanesOf_le (m : Mask) : (lanesOf m).length ≤ 64 :=
  (List.length_filter_le ..).trans_eq List.length_range

theorem lanesOf_and (x y : Mask) : lanesOf (x &&& y) = (List.range 64).filter fun l => x.getLsbD l && y.getLsbD l := by
  unfold lanesOf
  simp only [BitVec.getLsbD_and]

/-- The table that PLOG looks a lane up in: the four products of its two predicates that `f` selects (R70). -/
theorem getLsbD_plogTable (f : BitVec 4) (x y : Mask) {l : Nat} (hl : l < 64) :
    ((if f.getLsbD 3 then x &&& y else 0) ||| (if f.getLsbD 2 then x &&& ~~~y else 0) |||
      (if f.getLsbD 1 then ~~~x &&& y else 0) ||| (if f.getLsbD 0 then ~~~x &&& ~~~y else 0)).getLsbD l =
      f.getLsbD ((if x.getLsbD l then 2 else 0) + (if y.getLsbD l then 1 else 0)) := by
  have hif (b : Bool) (z : Mask) : (if b then z else 0).getLsbD l = (b && z.getLsbD l) := by cases b <;> simp
  simp only [BitVec.getLsbD_or, hif, BitVec.getLsbD_and, BitVec.getLsbD_not, hl, decide_true, Bool.true_and]
  cases x.getLsbD l <;> cases y.getLsbD l <;> simp

/-- Settles O13: each instruction is one write of its crew, and the lemmas above say what it reads back as. -/
theorem predicateInstructionsFollowTheirLanes : Obligations.PredicateInstructionsFollowTheirLanes := by
  unfold Obligations.PredicateInstructionsFollowTheirLanes
  intro s c d a b f e
  have kept (n : Nat) (bits : Mask) : (c.setPredLanes n c.active bits).pc = c.pc ∧ (c.setPredLanes n c.active bits).issued = c.issued ∧
      (c.setPredLanes n c.active bits).frames = c.frames := by
    obtain ⟨p, hp⟩ := c.setPredLanes_eq n c.active bits
    rw [hp]
    exact ⟨rfl, rfl, rfl⟩
  refine ⟨fun h => ?plog, fun h => ?sfromp, fun h => ?pcount, fun h => ?ptos⟩
  case plog =>
    refine completes_issueCrew h rfl (kept ..) fun t c' hc _ n _ l hl => ?_
    rw [hc.pred, Crew.pred_setPredLanes c _ _ _ _ hl, getLsbD_plogTable f _ _ hl]
  case sfromp =>
    refine completes_issueCrew h rfl (kept ..) fun t c' hc _ n _ l hl => ?_
    rw [hc.pred, Crew.pred_setPredLanes c _ _ _ _ hl]
  case pcount =>
    refine completes_issueCrew h rfl ⟨rfl, rfl, rfl⟩ fun t c' hc _ => ?_
    have hle := length_lanesOf_le (c.active &&& c.pred a.toNat)
    rw [hc.getS, Crew.getS_setS, if_pos rfl, BitVec.toNat_ofNat, Nat.mod_eq_of_lt (by omega), lanesOf_and]
  case ptos =>
    refine completes_issueCrew h rfl ⟨rfl, rfl, rfl⟩ fun t c' hc _ l _ => ?_
    rw [hc.getSS, Crew.getSS_setSS, BitVec.getLsbD_and]

end Sys2Proof.Machine
end

section
/-! PROOF, the layer of the trap that is taken: what the crew holds then, and what stays as it is. -/

namespace Sys2Proof.Machine

/-- The crew that takes trap `cause` with return PC `pc` (R400). -/
def Crew.trapped (c : Crew) (pc : PcWord) (cause : Nat) (tval : DWord) (ready : Nat × Nat) : Crew :=
  { c with
    frames := { pc := pc.zeroExtend 64, mask := c.am, mode := c.modex ++ c.mode,
                cause := BitVec.ofNat 32 (cause + 256 * c.paths.length), tval := tval
                deadline := c.deadline.map (fun t => (c.pc, t)) } :: c.frames
    mode := 0, modex := 6, pc := c.tvec.truncate 57, replay := none, firstIssue := none, deadline := none, waiting := none
    released := false, stalled := false, readyAt := ready, readySince := ready.2 }

/-- `c'` is `c` after the trap: the trap's registers are the entry's, and what else it holds stays. -/
def Trapped (c c' : Crew) (cause : Nat) (tval : DWord) : Prop :=
  TookTrap c c' c.pc cause tval ∧ { c' with frames := c.frames }.rest = c.rest

theorem trapped_of_unsigned {c c' x : Crew} {cause : Nat} {tval : DWord} (h : Trapped c x cause tval) (hu : c'.unsigned = x.unsigned) :
    Trapped c c' cause tval := by
  change Trapped c c'.unsigned cause tval
  rw [hu]
  exact h

theorem Crew.trapped_of_unsigned {c x : Crew} (hu : x.unsigned = c.unsigned) (cause : Nat) (tval : DWord) (ready : Nat × Nat) :
    Trapped c (x.trapped c.pc cause tval ready) cause tval := by
  change Trapped c (x.unsigned.trapped c.pc cause tval ready) cause tval
  rw [hu]
  exact ⟨⟨rfl, rfl, rfl, rfl, rfl, rfl, rfl, rfl, rfl, fun _ _ => rfl, fun _ => rfl, rfl, rfl⟩, rfl⟩

section
variable {s : State} {c : Crew} (hc : s.crew? = some c) (hh : c.handles = true) {cause : Nat} (hn : cause ≠ 0x10) (tval : DWord)
include hc hh hn

theorem takeTrap_crew? : (takeTrap s cause tval).fkey = s.fkey ∧
    ∃ c', (takeTrap s cause tval).crew? = some c' ∧ Trapped c c' cause tval := by
  obtain ⟨u, hr, ht⟩ := takeTrap_of_handles hc hh cause tval
  obtain ⟨x, hx, hu⟩ := hr.crew hc
  rw [if_neg hn] at ht
  rw [ht, State.fkey_mapCrew, State.crew?_mapCrew, State.crew_of_crew? hx]
  exact ⟨hr.fkey, _, rfl, Crew.trapped_of_unsigned hu cause tval (u.issueTime u.fkey)⟩

omit hn in
theorem takeTrap_still (hq : s.traces = []) : Still s (takeTrap s cause tval) := by
  simp only [Crew.handles, Bool.and_eq_true, decide_eq_true_eq] at hh
  unfold takeTrap
  simp only [State.crew_of_crew? hc]
  rw [if_neg hh.1, if_neg (by omega)]
  refine Still.mapCrew ((Still.refl s).recorded rfl (.trans (State.recordCrew_recorded ..) (State.packet_recorded ..)) (fun j hj => ?_) ?_)
    (by simp) _
  · exact (State.packet_others _ (by simpa using hj) ..).trans (by rw [State.recordCrew_crews])
  · exact ((Recorded.trans (State.recordCrew_recorded ..) (State.packet_recorded ..)).quiet hq).2

/-- A trap before the instruction has had an effect. -/
theorem onlyTraps_of_takeTrap {i : Instr} (he : exec i s = .next (takeTrap s cause tval)) : OnlyTraps s c i c.pc cause tval := by
  obtain ⟨hf, c', hc', htook, hrest⟩ := takeTrap_crew? hc hh hn tval
  unfold State.crew? at hc'
  exact ⟨_, c', he, hf ▸ hc', htook, hrest, takeTrap_still hc hh tval⟩

/-- A trap that ends the instruction, which is counted. -/
theorem trapsWith_of_trap {i : Instr} {body : State → Res} (h : Issues s c i = true) (he : exec i s = issue i s body)
    (hb : body s = .trap s cause tval) : TrapsWith s c i c.pc cause tval := by
  obtain ⟨hf, x, hx, ht⟩ := takeTrap_crew? hc hh hn tval
  have hr := State.countIssue_recorded (takeTrap s cause tval) s.fkey c i
  obtain ⟨c', hc', hu⟩ := hr.crew hx
  have hend : exec i s = .next (finish i c (.trap s cause tval)) := by rw [he, issue_of_issues h, hb]
  unfold State.crew? at hc'
  rw [hr.fkey, hf] at hc'
  exact ⟨_, c', hend, hc', (trapped_of_unsigned ht hu).1⟩

end

end Sys2Proof.Machine
end

section
/-! PROOF of O14: uniform branches. -/

namespace Sys2Proof.Machine

/-! ## Targets -/

/-- A signed number of words from an address, modulo the address width (R35). -/
theorem add_signExtend_shiftLeft_two {w v : Nat} (x : BitVec w) (k : BitVec v) :
    x + (k.signExtend w) <<< 2 = BitVec.ofInt w ((x.toNat : Int) + 4 * k.toInt) := by
  rw [BitVec.shiftLeft_eq_mul_twoPow, BitVec.ofInt_add, BitVec.ofInt_mul, BitVec.ofInt_natCast, BitVec.ofNat_toNat, BitVec.setWidth_eq,
    BitVec.mul_comm]
  congr 2
  apply BitVec.eq_of_toNat_eq
  simp [BitVec.toNat_twoPow]

theorem relTarget_eq (c : Crew) (k : BitVec 16) : relTarget c.pc k = wordsFrom c k.toInt := add_signExtend_shiftLeft_two ..

theorem farTarget_eq (c : Crew) (o : BitVec 24) : farTarget c.pc o = wordsFrom c o.toInt := add_signExtend_shiftLeft_two ..

theorem badTarget_eq (t : DWord) :
    badTarget t = if t.toNat % 4 ≠ 0 then some 0x02 else if 2 ^ 57 ≤ t.toNat then some 0x03 else none := by
  have h : t.extractLsb' 0 2 ≠ 0 ↔ t.toNat % 4 ≠ 0 := by
    rw [ne_eq, ← BitVec.toNat_inj, BitVec.extractLsb'_toNat]
    simp
  unfold badTarget
  simp only [h]

/-! ## Uniform branches -/

section
variable {s t : State} {c c' : Crew} {i : Instr} {taken : Crew → Bool} {target : PcWord → PcWord} {pc : PcWord}

theorem onlyMoved_of_like (hl : c'.Like c) (hs : s.traces = [] → Still s t) : OnlyMoved s t c c' :=
  ⟨hl.rest, hl.sreg, hl.vreg, hl.modesKept, hs⟩

theorem completesAt_of_taken (h : Issues s c i = true) (he : exec i s = issueBranch i s taken target) (ht : taken c = true)
    (hpc : target c.pc = pc) : CompletesAt s c i pc (fun t c' => OnlyMoved s t c c') := by
  have hc := crew?_of_issues h
  have hb : (if taken s.crew then Res.jump s (target s.crew.pc) else .done s) = .jump s pc := by
    rw [State.crew_of_crew? hc, if_pos ht, hpc]
  exact completesAt_of_jump h he hb hc rfl ⟨rfl, rfl⟩ fun t c' hl hs => onlyMoved_of_like hl fun hq => hs (.refl s) (.inr hq)

theorem completes_of_not_taken (h : Issues s c i = true) (he : exec i s = issueBranch i s taken target) (ht : taken c = false) :
    Completes s c i (fun t c' => OnlyMoved s t c c') := by
  have hc := crew?_of_issues h
  have hb : (if taken s.crew then Res.jump s (target s.crew.pc) else .done s) = .done s := by
    rw [State.crew_of_crew? hc, if_neg (by rw [ht]; exact Bool.false_ne_true)]
  exact completes_of_done h he hb hc rfl ⟨rfl, rfl, rfl⟩ fun t c' hl hs => onlyMoved_of_like hl fun hq => hs (.refl s) (.inr hq)

/-- A branch on a condition, both ways. -/
theorem completesAt_branch {p : Prop} [Decidable p] (h : Issues s c i = true) (he : exec i s = issueBranch i s taken target)
    (ht : taken c = decide p) (hpc : target c.pc = pc) : CompletesAt s c i (if p then pc else c.pc + 4) (fun t c' => OnlyMoved s t c c') := by
  by_cases hp : p
  · rw [if_pos hp]
    exact completesAt_of_taken h he (ht.trans (decide_eq_true hp)) hpc
  · rw [if_neg hp]
    exact completes_of_not_taken h he (ht.trans (decide_eq_false hp))

/-- The same, with the condition in the words of the statement. -/
theorem branch_moves {p : Prop} (h : Issues s c i = true) (he : exec i s = issueBranch i s taken target) (ht : taken c = true ↔ p)
    (hpc : target c.pc = pc) : (p → CompletesAt s c i pc (fun t c' => OnlyMoved s t c c')) ∧ (¬ p → Completes s c i (fun t c' => OnlyMoved s t c c')) :=
  ⟨fun hp => completesAt_of_taken h he (ht.mpr hp) hpc,
    fun hp => completes_of_not_taken h he (Bool.eq_false_iff.mpr fun h => hp (ht.mp h))⟩

end

/-! Each branch by its condition and its target (R74). -/

section
variable (s : State) (o : BitVec 24) (k : BitVec 16) (d : BitVec 8) (p : BitVec 3)

theorem exec_bra : exec (.bra o) s = issueBranch (.bra o) s (fun _ => true) fun pc => farTarget pc o := rfl

theorem exec_brnz : exec (.brnz d k) s = issueBranch (.brnz d k) s (fun c => decide (c.getS d.toNat ≠ 0)) fun pc => relTarget pc k := rfl

theorem exec_brz : exec (.brz d k) s = issueBranch (.brz d k) s (fun c => decide (c.getS d.toNat = 0)) fun pc => relTarget pc k := rfl

theorem exec_brany : exec (.brany p k) s =
    issueBranch (.brany p k) s (fun c => decide (c.active &&& c.pred p.toNat ≠ 0)) fun pc => relTarget pc k := rfl

theorem exec_brall : exec (.brall p k) s = issueBranch (.brall p k) s
    (fun c => decide (c.active ≠ 0) && decide (c.active &&& ~~~(c.pred p.toNat) = 0)) fun pc => relTarget pc k := rfl

end

theorem ne_zero_iff_lane (m : Mask) : m ≠ 0 ↔ ∃ l, l < 64 ∧ m.getLsbD l = true := by
  rw [ne_eq, BitVec.eq_of_getLsbD_eq_iff]
  simp

/-- Settles O14: the body of each branch places the PC or does nothing, by a condition that is the statement's lane by lane. -/
theorem uniformBranchesMoveTheWholePath : Obligations.UniformBranchesMoveTheWholePath := by
  unfold Obligations.UniformBranchesMoveTheWholePath
  intro s c o k d p
  have some_iff : c.active &&& c.pred p.toNat ≠ 0 ↔ ∃ l, l < 64 ∧ c.active.getLsbD l = true ∧ (c.pred p.toNat).getLsbD l = true := by
    simp only [ne_zero_iff_lane, BitVec.getLsbD_and, Bool.and_eq_true]
  have all_iff : c.active &&& ~~~c.pred p.toNat = 0 ↔
      ∀ l, l < 64 → c.active.getLsbD l = true → (c.pred p.toNat).getLsbD l = true := by
    rw [← not_iff_not, ← ne_eq, ne_zero_iff_lane]
    push Not
    refine exists_congr fun l => and_congr_right fun hl => ?_
    rw [BitVec.getLsbD_and, BitVec.getLsbD_not, decide_eq_true hl]
    simp
  have rel := relTarget_eq c k
  refine ⟨fun h => completesAt_of_taken h (exec_bra s o) rfl (farTarget_eq c o), fun h => completesAt_branch h (exec_brnz s k d) rfl rel,
    fun h => completesAt_branch h (exec_brz s k d) rfl rel, fun h => branch_moves h (exec_brany s k p) ?_ rel,
    fun h => branch_moves h (exec_brall s k p) ?_ rel⟩
  · rw [decide_eq_true_iff, some_iff]
  · rw [Bool.and_eq_true, decide_eq_true_iff, decide_eq_true_iff, all_iff, ne_zero_iff_lane]

end Sys2Proof.Machine
end

section
/-! PROOF of O15: calls and returns. -/

namespace Sys2Proof.Machine

/-! ## A jump to a checked target (R75) -/

section
variable {s : State} {c : Crew} {i : Instr} {target : State → DWord} {f : Crew → Crew} {x : DWord} {P : State → Crew → Prop}

theorem completesAt_jumpTo (h : Issues s c i = true) (he : exec i s = issue i s fun s => jumpTo s (target s) f) (hx : target s = x)
    (hg : badTarget x = none) (hk : (f c).issued = c.issued ∧ (f c).frames = c.frames)
    (hP : ∀ t c', c'.Like (f c) → (s.traces = [] → Still s t) → P t c') : CompletesAt s c i (x.truncate 57) P := by
  have hc := State.crew_of_crew? (crew?_of_issues h)
  have hb : jumpTo s (target s) f = .jump (s.mapCrew f) (x.truncate 57) := by
    unfold jumpTo
    rw [hx, hg]
  exact completesAt_of_jump h he hb (x := f c) (by rw [State.crew?_mapCrew, hc]) rfl hk fun t c' hl hs =>
    hP t c' hl fun hq => hs (.setCrew s _) (.inr hq)

theorem trapsWith_jumpTo {cause : Nat} (h : Issues s c i = true) (he : exec i s = issue i s fun s => jumpTo s (target s) f) (hx : target s = x)
    (hh : c.handles = true) (hg : badTarget x = some cause) (hn : cause ≠ 0x10) : TrapsWith s c i c.pc cause x := by
  have hb : jumpTo s (target s) f = .trap s cause x := by
    unfold jumpTo
    rw [hx, hg]
  exact trapsWith_of_trap (crew?_of_issues h) hh hn x h he hb

end

theorem badTarget_of_good {x : DWord} (h : x.toNat % 4 = 0 ∧ x.toNat < 2 ^ 57) : badTarget x = none := by
  rw [badTarget_eq, if_neg (by omega), if_neg (by omega)]

theorem badTarget_of_not_good {x : DWord} (h : ¬ (x.toNat % 4 = 0 ∧ x.toNat < 2 ^ 57)) :
    badTarget x = some (if x.toNat % 4 ≠ 0 then 0x02 else 0x03) := by
  rw [badTarget_eq]
  split
  · rfl
  · rw [if_pos (by omega)]

/-- Where CALL goes, as a number of 64 bits. -/
def callTarget (c : Crew) (o : BitVec 24) : DWord := c.pc.zeroExtend 64 + (o.signExtend 64) <<< 2

theorem callTarget_eq (c : Crew) (o : BitVec 24) : callTarget c o = BitVec.ofInt 64 ((c.pc.toNat : Int) + 4 * o.toInt) := by
  have hpc : (c.pc.zeroExtend 64).toNat = c.pc.toNat := BitVec.toNat_setWidth_of_le (by omega)
  unfold callTarget
  rw [add_signExtend_shiftLeft_two, hpc]

section
variable {far : Int}

theorem badTarget_ofInt_of_far (h4 : far % 4 = 0) (hlo : -2 ^ 26 ≤ far) (hhi : far < 2 ^ 58) (hout : far < 0 ∨ 2 ^ 57 ≤ far) :
    badTarget (BitVec.ofInt 64 far) = some 0x03 := by
  rw [badTarget_eq, BitVec.toNat_ofInt, if_neg (by omega), if_pos (by omega)]

theorem badTarget_ofInt_of_near (h4 : far % 4 = 0) (hlo : 0 ≤ far) (hhi : far < 2 ^ 57) : badTarget (BitVec.ofInt 64 far) = none := by
  rw [badTarget_eq, BitVec.toNat_ofInt, if_neg (by omega), if_neg (by omega)]

theorem truncate_ofInt (far : Int) : (BitVec.ofInt 64 far).truncate 57 = BitVec.ofInt 57 far := by
  apply BitVec.eq_of_toNat_eq
  rw [BitVec.truncate_eq_setWidth, BitVec.toNat_setWidth, BitVec.toNat_ofInt, BitVec.toNat_ofInt]
  omega

end

theorem Crew.getS_setSS_of_ne (c : Crew) {n r : Nat} (x : DWord) (h : r ≠ n) (h' : r ≠ n + 1) : (c.setSS n x).getS r = c.getS r := by
  unfold Crew.setSS
  rw [Crew.getS_setS, if_neg h', Crew.getS_setS, if_neg h]

/-- Settles O15: each body is a jump to a checked target, after the write of the link for the calls. -/
theorem callsAndReturnsPlaceThePc : Obligations.CallsAndReturnsPlaceThePc := by
  unfold Obligations.CallsAndReturnsPlaceThePc
  intro s c o d a
  dsimp only
  have hpc := c.pc.isLt
  have hlo : -2 ^ 23 ≤ o.toInt := BitVec.le_toInt o
  have hhi : o.toInt < 2 ^ 23 := BitVec.toInt_lt
  have call (h : Issues s c (.call o) = true) : callTarget s.crew o = BitVec.ofInt 64 ((c.pc.toNat : Int) + 4 * o.toInt) := by
    rw [State.crew_of_crew? (crew?_of_issues h), callTarget_eq]
  have reg {i : Instr} (h : Issues s c i = true) : s.crew.getSS a.toNat = c.getSS a.toNat := by
    rw [State.crew_of_crew? (crew?_of_issues h)]
  have link {n : Nat} {x : DWord} {t : State} {c' : Crew} (hl : c'.Like (c.setSS n x)) (hs : s.traces = [] → Still s t) :
      c'.rest = c.rest ∧ ModesKept c c' ∧ c'.vreg = c.vreg ∧ c'.getSS n = x ∧
        (∀ r, r ≠ n → r ≠ n + 1 → c'.getS r = c.getS r) ∧ (s.traces = [] → Still s t) :=
    ⟨hl.rest, hl.modesKept, hl.vreg, (hl.getSS n).trans (c.getSS_setSS n x),
      fun r h h' => (hl.getS r).trans (c.getS_setSS_of_ne x h h'), hs⟩
  refine ⟨fun h h4 hout hh => ?_, fun h h4 h0 h57 => ?_, fun h hg => ?_, fun h hg => ?_, fun h hg => ?_,
    fun hg hh => ⟨fun h => ?_, fun h => ?_, fun h => ?_⟩⟩
  · exact trapsWith_jumpTo h rfl (call h) hh (badTarget_ofInt_of_far (by omega) (by omega) (by omega) hout) (by decide)
  · unfold wordsFrom
    rw [← truncate_ofInt]
    refine completesAt_jumpTo h rfl (call h) (badTarget_ofInt_of_near (by omega) h0 h57) ⟨rfl, rfl⟩ fun t c' hl hs => ?_
    obtain ⟨hrest, hmodes, hv, hss, hregs, hstill⟩ := link hl hs
    exact ⟨hrest, hmodes, hv, hss, fun r hr => hregs r (by omega) (by omega), hstill⟩
  · exact completesAt_jumpTo h rfl (reg h) (badTarget_of_good hg) ⟨rfl, rfl⟩ fun t c' => link
  · exact completesAt_jumpTo h rfl (reg h) (badTarget_of_good hg) ⟨rfl, rfl⟩ fun t c' => onlyMoved_of_like
  · exact completesAt_jumpTo h rfl (reg h) (badTarget_of_good hg) ⟨rfl, rfl⟩ fun t c' => onlyMoved_of_like
  · exact trapsWith_jumpTo h rfl (reg h) hh (badTarget_of_not_good hg) (by split <;> decide)
  · exact trapsWith_jumpTo h rfl (reg h) hh (badTarget_of_not_good hg) (by split <;> decide)
  · exact trapsWith_jumpTo h rfl (reg h) hh (badTarget_of_not_good hg) (by split <;> decide)

end Sys2Proof.Machine
end

section
/-! PROOF of O19 and O20: the checks of Table 2.4 and their traps. -/

namespace Sys2Proof.Machine

/-! ## A crew that comes to the checks -/

/-- An instruction with a word is issued by its crew: its whole meaning passes through the checks. -/
def Crewed (i : Instr) : Prop :=
  (encode i).isSome = true → isOperator i = false → ∀ s, ∃ body, exec i s = issue i s body

theorem instr_crewed (i : Instr) : Crewed i := by
  cases i
  all_goals intro h hop s
  case opPass | opCopy | opSel | opSteer | opMerge | opAdd | opSub | opMul | opFma | opMin | opMax | opCmpeq | opCmpne |
      opCmplt | opCmple | opAnd | opOr | opXor | opShl | opShr | opDot4 | opCvt | opRate | opScalemul | opLoopgen | opCount
      | opAcc | opSrc | opSnk | opMemld | opMemst | opExitx | opInj | opTgate | opEdgetx | opEdgerx =>
    cases hop
  case loadComplete | storeComplete | replay | landingPagerServe | pageridle | faulttmo | migration | pendingNotificationPost
      | fabtmo | activeSetSwap | awaitWake | awaitDeadline | jobStart | copyChunk | streamEntry | mloadRow | grunRow |
      jobComplete | mmaBroadcast | macroError | tileCellError | spentCommit | spexitComplete | regionCompletion |
      spwaitDeadline | drainEnd | watchdog | saveStop | debugHalt | haltRelease | configStoreError | bind | nextPhaseReady |
      gangwait | gangtmo | preemptionChoice | sweepTokenHop | fslice | coppiceDeadline | form | join | contrib | result |
      arrive | abort | remreq | remack | collectiveTimeout | raftformTimeout | raftJoinTimeout | remoteAccessTimeout |
      linkRetryFailure | portRetrainAttempt | foremanMemoryError | foremanWatchdog | syncPlaneLoss | thermalTrip |
      freezeBroadcast | capsuleSeal | coldReset | warmReset | lqtailDoorbell | launchQueueEntry | freplyServe | freplyRefuse
      | controlRecordPost | create | update | destroy | read | release | freeze | info | foremanFirmwareUpdate | coreOffline
      | coreOnline | dieOffline | dieOnline | retrainHbmStack | retrainPort | addFreePages | configRecordReplace |
      getVersion | getCapabilities | negotiateAlgorithms | getDigests | getCertificate | challenge | getMeasurements |
      hostBar2Access | registerWrite | memoryReply | memoryError | launchQueueTake =>
    cases h
  all_goals exact ⟨_, rfl⟩

section
variable {s : State} {c : Crew} {i : Instr} (h : Reaches s c = true)
include h

theorem crew?_of_reaches : s.crew? = some c := by
  simp only [Reaches, Bool.and_eq_true, decide_eq_true_eq, and_assoc] at h
  exact h.1

theorem issueState_of_check {cause : Nat} {tval : DWord} (hk : checkIssue s c i = some (cause, tval)) (body : State → Res) :
    issueState i s body = takeTrap s cause tval := by
  simp only [Reaches, Bool.and_eq_true, decide_eq_true_eq, and_assoc] at h
  obtain ⟨hc, hcan, hmay, htrap⟩ := h
  unfold issueState
  rw [hc]
  dsimp only
  rw [if_neg (by rw [hcan, hmay]; decide), if_neg (by simpa using htrap), hk]

theorem issues_of_reaches (hk : checkIssue s c i = none) (ho : operands c.mode i = []) (hm : storesMemory i = false) :
    Issues s c i = true := by
  have hreach := h
  simp only [Reaches, Bool.and_eq_true, decide_eq_true_eq, and_assoc] at hreach
  obtain ⟨hc, hcan, hmay, htrap⟩ := hreach
  simp [Issues, hc, hcan, hmay, htrap, hk, ho, hm, Crew.mustWait, Crew.nothingToObserve]

theorem onlyTraps_of_check {cause : Nat} {tval : DWord} {body : State → Res} (hh : c.handles = true) (hn : cause ≠ 0x10)
    (hk : checkIssue s c i = some (cause, tval)) (he : exec i s = issue i s body) : OnlyTraps s c i c.pc cause tval :=
  onlyTraps_of_takeTrap (crew?_of_reaches h) hh hn tval (he.trans (congrArg _ (issueState_of_check h hk body)))

end

theorem trapsWith_of_onlyTraps {s : State} {c : Crew} {i : Instr} {pc : PcWord} {cause : Nat} {tval : DWord}
    (h : OnlyTraps s c i pc cause tval) : TrapsWith s c i pc cause tval := by
  obtain ⟨t, c', he, hc', htook, -⟩ := h
  exact ⟨t, c', he, hc', htook⟩

/-! ## The statements -/

/-- Settles O20: the trap of a check comes before the body, and the checks are tried in the order of Table 2.4. -/
theorem failedChecksTrapWithTheirCause : Obligations.FailedChecksTrapWithTheirCause := by
  unfold Obligations.FailedChecksTrapWithTheirCause
  refine ⟨fun s c i cause tval hw hop hr hh hk => ?_, fun s c i => ?_, fun d a b m t => ?_⟩
  · obtain ⟨body, he⟩ := instr_crewed i hw hop s
    exact onlyTraps_of_check hr hh (checkIssue_cause_ne hk) hk he
  · dsimp only
    simp only [decide_eq_true_eq, decide_eq_false_iff_not, Nat.not_le]
    refine ⟨checkIssue_of_fields, checkIssue_of_level, fun hf hl => checkIssue_of_spatial hf (by omega),
      fun hf hl => checkIssue_of_mode hf (by omega), fun hf hl hs hm => ⟨fun o => ?_, fun f t => ?_, ?_⟩⟩
    · exact checkIssue_of_register hf (by omega) hs hm
    · exact checkIssue_of_tile hf (by omega) hs hm
    · exact checkIssue_of_none hf (by omega) hs hm
  · exact ⟨rfl, rfl, rfl, rfl, rfl, rfl, rfl, rfl, rfl, rfl, rfl, rfl⟩

/-! ## Reserved encodings (R33) -/

section
variable {s : State} {c : Crew} {i : Instr}

/-- An instruction without operands that needs no level and no mode fails at most the check of the spatial mode. -/
theorem checkIssue_of_bare (hf : fieldsOk i = true) (ho : operands c.mode i = []) (hl : levelNeeded i = 0)
    (hm : modeOk c.mode c.modex i = true) (ht : tileField i = none) :
    checkIssue s c i = none ∨ checkIssue s c i = some (0x01, i.word.zeroExtend 64) := by
  have hfields : (fieldsOk i && (operands c.mode i).all Opnd.ok) = true := by rw [hf, ho]; rfl
  have hlevel : ¬ (s.ctx c.ctx).level < levelNeeded i := by omega
  have hshort : c.short i = none := by unfold Crew.short; rw [ho]; rfl
  by_cases hs : spatialOk (s.spatialRole s.fkey) (spatialUse i) = true
  · exact .inl (checkIssue_of_none hfields hlevel hs hm hshort fun f t h => by rw [ht] at h; cases h)
  · exact .inr (checkIssue_of_spatial hfields hlevel (Bool.eq_false_iff.mpr hs))

variable (hr : Reaches s c = true) (hh : c.handles = true)
include hr hh

theorem reservedOpcode_trapsWith {w : Word} (hw : w.toNat / 2 ^ 24 ∈ reservedOpcodes) :
    TrapsWith s c (.reservedOpcode w) c.pc 0x01 (w.zeroExtend 64) := by
  rcases checkIssue_of_bare (s := s) (i := .reservedOpcode w) (decide_eq_true hw) rfl rfl rfl rfl with hk | hk
  · have h := issues_of_reaches hr hk rfl rfl
    have he : exec (.reservedOpcode w) s = .next (takeTrap s 0x01 (w.zeroExtend 64)) := issue_of_issues h _
    exact trapsWith_of_onlyTraps (onlyTraps_of_takeTrap (crew?_of_reaches hr) hh (by decide) _ he)
  · exact trapsWith_of_onlyTraps (onlyTraps_of_check hr hh (by decide) hk rfl)

theorem undef_trapsWith (u : BitVec 24) : TrapsWith s c (.undef u) c.pc 0x01 (((0xFF : BitVec 8) ++ u).zeroExtend 64) := by
  rcases checkIssue_of_bare (s := s) (i := .undef u) rfl rfl rfl rfl rfl with hk | hk
  · exact trapsWith_of_trap (crew?_of_reaches hr) hh (by decide) _ (issues_of_reaches hr hk rfl rfl) rfl rfl
  · exact trapsWith_of_onlyTraps (onlyTraps_of_check hr hh (by decide) hk rfl)

end

/-- Settles O19: a reserved opcode decodes to itself, and the body of each form is its trap. -/
theorem reservedOpcodesTrapIllop : Obligations.ReservedOpcodesTrapIllop := by
  unfold Obligations.ReservedOpcodesTrapIllop
  refine ⟨instr_roundTrips .nop 0 rfl rfl rfl, fun w hw => ⟨decode_reserved hw, fun s c hr hh => reservedOpcode_trapsWith hr hh hw⟩,
    fun u => ⟨instr_roundTrips (.undef u) _ rfl rfl rfl, fun s c hr hh => undef_trapsWith hr hh u⟩⟩

end Sys2Proof.Machine
end

section
/-! PROOF of O29: REPLAY of a parked crew (R161). -/

namespace Sys2Proof.Machine

/-- A crew that is no longer parked and executes its access again for `replay`, with its place in the arbitration taken anew. -/
def Crew.unparked (c : Crew) (replay : Option Mask) (va : DWord) (ready : Nat × Nat) : Crew :=
  { c with park := none, replay := replay, replayVa := va, stalled := false, readyAt := ready, readySince := ready.2 }

section
variable {s : State} {core slot : Nat}

/-- The state in which a parked crew goes on. -/
def State.unparked (s : State) (core slot : Nat) (c : Crew) (q : Park) : State :=
  ((s.focusOn core slot).setCrew
    { c with park := none, replay := if q.fetch then none else some q.mask, replayVa := q.va }).unstall (crewKey core slot)

theorem State.crew?_unstall {c : Crew} (h : s.crew? = some c) : (s.unstall s.fkey).fkey = s.fkey ∧ (s.unstall s.fkey).crew? =
    some { c with stalled := false, readyAt := s.issueTime s.fkey, readySince := (s.issueTime s.fkey).2 } := by
  unfold State.crew? at h
  unfold State.unstall State.mapCrewAt
  rw [h]
  refine ⟨rfl, ?_⟩
  unfold State.crew?
  rw [State.fkey_setCrewAt, State.crews_setCrewAt, if_pos rfl]

theorem State.crew?_setCrew (c : Crew) : (s.setCrew c).crew? = some c := by
  unfold State.crew?
  rw [State.crews_setCrew]
  exact if_pos rfl

variable (s core slot) in
theorem State.unparked_crew? (c : Crew) (q : Park) : (s.unparked core slot c q).fkey = crewKey core slot ∧
    ∃ ready, (s.unparked core slot c q).crew? = some (c.unparked (if q.fetch then none else some q.mask) q.va ready) := by
  obtain ⟨hf, hc⟩ := State.crew?_unstall (State.crew?_setCrew (s := s.focusOn core slot)
    { c with park := none, replay := if q.fetch then none else some q.mask, replayVa := q.va })
  exact ⟨hf, _, hc⟩

theorem State.unparked_mem (c : Crew) (q : Park) : (s.unparked core slot c q).mem = s.mem := by
  unfold State.unparked State.unstall State.mapCrewAt
  split <;> rfl

variable {c : Crew} {q : Park} (hc : s.crews.get? (crewKey core slot) = some c) (hq : c.park = some q)
include hc hq

theorem exec_replay_of_waits
    (h : (q.pages.any (fun g => decide (g.answer = 0)) || c.halted || c.frozen || c.cut || !s.mayIssue (crewKey core slot)) = true) :
    exec (.replay core slot) s = .next s := by
  change execReplay core slot s = _
  unfold execReplay
  rw [hc]
  dsimp only
  rw [hq]
  dsimp only
  rw [if_pos h]

variable (h : (q.pages.any (fun g => decide (g.answer = 0)) || c.halted || c.frozen || c.cut || !s.mayIssue (crewKey core slot)) = false)
include h

theorem exec_replay_of_served (hp : q.pages.find? (fun g => decide (g.answer = 2)) = none) :
    exec (.replay core slot) s = .next (s.unparked core slot c q) := by
  change execReplay core slot s = _
  unfold execReplay
  rw [hc]
  dsimp only
  rw [hq]
  dsimp only
  rw [if_neg (Bool.eq_false_iff.mp h), hp]
  rfl

theorem exec_replay_of_refused {g : ParkPage} (hp : q.pages.find? (fun g => decide (g.answer = 2)) = some g) :
    exec (.replay core slot) s =
      .next (takeTrap (s.unparked core slot c q) 0x04 (if q.fetch then c.pc.zeroExtend 64 else BitVec.ofNat 64 g.va)) := by
  change execReplay core slot s = _
  unfold execReplay
  rw [hc]
  dsimp only
  rw [hq]
  dsimp only
  rw [if_neg (Bool.eq_false_iff.mp h), hp]
  rfl

end

/-- REPLAY acts when the crew may issue and each of its pages has an answer. -/
theorem replay_goes_on {s : State} {core slot : Nat} {c : Crew} {q : Park}
    (hmay : (!c.halted && !c.frozen && !c.cut && s.mayIssue (crewKey core slot)) = true)
    (ha : q.pages.all (fun g => decide (g.answer ≠ 0)) = true) :
    (q.pages.any (fun g => decide (g.answer = 0)) || c.halted || c.frozen || c.cut || !s.mayIssue (crewKey core slot)) = false := by
  have hany : q.pages.any (fun g => decide (g.answer = 0)) = false := by simpa using ha
  simp only [Bool.and_eq_true, Bool.not_eq_true', and_assoc] at hmay
  obtain ⟨hhalted, hfrozen, hcut, hissue⟩ := hmay
  rw [hany, hhalted, hfrozen, hcut, hissue]
  rfl

/-- Settles O29: the three outcomes of REPLAY, by the answers to the crew's pages. -/
theorem parkedCrewsReplayOrTrap : Obligations.ParkedCrewsReplayOrTrap := by
  unfold Obligations.ParkedCrewsReplayOrTrap
  intro s core slot c q _ hc hq
  obtain ⟨hf, ready, hx⟩ := s.unparked_crew? core slot c q
  refine ⟨fun hw => ?waits, fun hmay hall => ?served, fun g hmay hall hg hh => ?refused⟩
  case waits =>
    refine exec_replay_of_waits hc hq ?_
    rcases hw with hw | hw
    · rw [hw]
      rfl
    · simp only [Bool.and_eq_false_iff, Bool.not_eq_false'] at hw
      simp only [Bool.or_eq_true, Bool.not_eq_true']
      tauto
  case served =>
    unfold State.crew? at hx
    rw [hf] at hx
    have hne : q.pages.all (fun g => decide (g.answer ≠ 0)) = true := by
      rw [List.all_eq_true] at hall ⊢
      intro g hg
      have := of_decide_eq_true (hall g hg)
      exact decide_eq_true (by omega)
    have hnone : q.pages.find? (fun g => decide (g.answer = 2)) = none := by
      rw [List.find?_eq_none]
      rw [List.all_eq_true] at hall
      intro g hg
      have := of_decide_eq_true (hall g hg)
      simp [this]
    refine ⟨_, _, exec_replay_of_served hc hq (replay_goes_on hmay hne) hnone, hx, rfl, rfl, fun hfetch => ?_, fun hfetch => ?_, rfl, rfl,
      State.unparked_mem c q⟩
    · simp [Crew.active, Crew.unparked, hfetch]
    · simp [Crew.unparked, hfetch]
  case refused =>
    obtain ⟨hkey, c', hc', htook, -⟩ := takeTrap_crew? hx hh (cause := 0x04) (by decide)
      (if q.fetch then c.pc.zeroExtend 64 else BitVec.ofNat 64 g.va)
    unfold State.crew? at hc'
    rw [hkey, hf] at hc'
    exact ⟨_, c', exec_replay_of_refused hc hq (replay_goes_on hmay hall) hg, hc', htook⟩

end Sys2Proof.Machine
end

section
/-! PROOF of O4: each instruction, event and turn answers a next state. -/

namespace Sys2Proof.Machine

/-- An outcome that is a next state. -/
def Goes (o : Host.Outcome State Fault Refusal) : Prop := ∃ t, o = .next t

theorem goes_next (s : State) : Goes (.next s) := ⟨s, rfl⟩

theorem goes_ite {p : Prop} [Decidable p] {x y : Host.Outcome State Fault Refusal} (hx : Goes x) (hy : Goes y) : Goes (if p then x else y) := by
  split
  · exact hx
  · exact hy

/-- Every instruction and event answers with a next state: it is issued, fired, or an event's own effect. -/
def AlwaysGoes (i : Instr) : Prop := ∀ s, Goes (exec i s)

theorem instr_alwaysGoes (i : Instr) : AlwaysGoes i := by
  cases i
  all_goals exact fun s => ⟨_, rfl⟩

theorem fetchTurn_goes (s : State) : Goes s.fetchTurn := by
  unfold State.fetchTurn
  split
  · exact goes_next _
  · split
    · exact instr_alwaysGoes ..
    · exact goes_next _

theorem issueTurn_goes (s : State) : Goes s.issueTurn :=
  goes_ite (goes_next _) (goes_ite (fetchTurn_goes _) (goes_ite (fetchTurn_goes _) (goes_next _)))

/-- Settles O4: a turn is a next state, but for a crew or slot where the package has none. -/
theorem noStepIsRefused : Obligations.NoStepIsRefused := by
  unfold Obligations.NoStepIsRefused
  refine ⟨instr_alwaysGoes, fun s => ?_⟩
  unfold step
  cases hs : s.agenda with
  | nil => exact .inl (goes_next _)
  | cons t rest =>
    cases t
    case issue core slot =>
      cases hu : unitExists core slot with
      | true =>
        refine .inl ?_
        dsimp only [State.turn]
        rw [hu]
        exact issueTurn_goes _
      | false =>
        refine .inr ⟨core, slot, rest, hu, .inl rfl, ?_⟩
        dsimp only [State.turn]
        rw [hu]
        rfl
    case fire core slot =>
      cases hu : unitExists core slot with
      | true =>
        refine .inl ?_
        dsimp only [State.turn]
        rw [hu]
        exact goes_next _
      | false =>
        refine .inr ⟨core, slot, rest, hu, .inr rfl, ?_⟩
        dsimp only [State.turn]
        rw [hu]
        rfl
    case event i => exact .inl (goes_ite (instr_alwaysGoes i _) (goes_next _))
    all_goals exact .inl (goes_next _)

end Sys2Proof.Machine
end

section
/-! PROOF of O5: the turn of a crew runs the instruction that it fetched, and the word that the loader places is fetched. -/

namespace Sys2Proof.Machine

/-! ## The turn of a crew (R36, R59) -/

/-- A crew's attempt in state `x` is `o`: exec of the instruction that the fetched word decodes to, or the trap of a reserved encoding. -/
def Runs (o : Host.Outcome State Fault Refusal) (x : State) : Prop :=
  ∀ (w : Word) (s : State), x.fetch = .word w s →
    (∀ i, decode w = .ok i → o = exec i s) ∧ (∀ e, decode w = .error e → o = execReservedOpcode w s)

theorem fetchTurn_runs (x : State) : Runs x.fetchTurn x := by
  intro w s hf
  unfold State.fetchTurn
  rw [hf]
  dsimp only
  exact ⟨fun i hi => by rw [hi], fun e he => by rw [he]⟩

section
variable {s : State} (h : s.fetches = true)
include h

theorem issueTurn_of_waits (hs : s.inScope.crew.stalled = true) (hw : s.inScope.wakes s.inScope.focusCore s.inScope.focusSlot = false) :
    s.issueTurn = s.inScope.fetchTurn := by
  unfold State.issueTurn
  dsimp only
  rw [h, hs, hw]
  rfl

theorem issueTurn_of_ready (hw : s.inScope.crew.stalled = false ∨ s.inScope.wakes s.inScope.focusCore s.inScope.focusSlot = true) :
    s.issueTurn = if s.inScope.woken.settled.elected then s.inScope.woken.settled.fetchTurn else .next s.inScope.woken.settled := by
  have hgo : (s.inScope.crew.stalled && !s.inScope.wakes s.inScope.focusCore s.inScope.focusSlot) = false := by
    rcases hw with hw | hw
    · rw [hw, Bool.false_and]
    · rw [hw, Bool.not_true, Bool.and_false]
  unfold State.issueTurn
  dsimp only
  rw [h, if_neg (by decide), hgo, if_neg (by decide)]

end

theorem step_issue {s : State} {core slot : Nat} {rest : List Turn} (ha : s.agenda = .issue core slot :: rest)
    (hu : unitExists core slot = true) : step s = (({ s with agenda := rest } : State).focus core slot).issueTurn := by
  unfold step
  rw [ha]
  dsimp only [State.turn]
  rw [hu, if_pos rfl]

theorem step_event {s : State} {i : Instr} {rest : List Turn} (ha : s.agenda = .event i :: rest) (he : isEvent i = true) :
    step s = exec i { s with agenda := rest } := by
  unfold step
  rw [ha]
  dsimp only [State.turn]
  rw [he, if_pos rfl]

/-! ## The state that the loader makes (log 1) -/

/-- The state whose focused crew is about to fetch at the program's page, with storage `m`. -/
def State.atProgram (s : State) (m : SMap Byte) : State :=
  { ({ s.programTables.programCrew.putWord 0 ⟨programBase, true⟩ with agenda := [] } : State).focus 0 0 with mem := m }

/-- The word that is placed changes nothing but storage. -/
theorem putWord_focus (s : State) (w : Nat) (loc : Loc) :
    ({ s.putWord w loc with agenda := [] } : State).focus 0 0 =
      { ({ s.putWord 0 loc with agenda := [] } : State).focus 0 0 with mem := (s.setBytes loc.idx w 4).mem } := rfl

theorem State.atProgram_mem (s : State) (m : SMap Byte) : (s.atProgram m).mem = m := rfl

theorem State.programCrew_byte (s : State) (a : Nat) : s.programCrew.byte a = s.byte a := rfl

theorem reset_placed : State.reset.placed = none := by rfl

theorem reset_withFetchWord (n w : Nat) : State.reset.withFetchWord n w = State.reset.programTables.programCrew.putWord w ⟨programBase, true⟩ := by
  unfold State.withFetchWord State.loadWord
  rw [reset_placed]

/-- The leaf that maps the program's page. -/
def programLeaf : TlbEntry := ⟨1, programBase, 2 ^ 17, programBase, true, false, true, false⟩

/-! The crew of the program is alone on the package, so that all but its translation is settled whatever storage holds. -/

section
variable (m : SMap Byte)

theorem atProgram_fetches : (State.reset.atProgram m).fetches = true := by with_unfolding_all rfl

theorem atProgram_inScope : (State.reset.atProgram m).inScope = State.reset.atProgram m := by with_unfolding_all rfl

theorem atProgram_woken : (State.reset.atProgram m).woken = State.reset.atProgram m := by with_unfolding_all rfl

theorem atProgram_stalled : (State.reset.atProgram m).crew.stalled = false := by with_unfolding_all rfl

theorem atProgram_elected : (State.reset.atProgram m).elected = true := by with_unfolding_all rfl

theorem atProgram_outsiders : (State.reset.atProgram m).outsiders 0 0 = [] := by with_unfolding_all rfl

theorem atProgram_urgent : (State.reset.atProgram m).urgent 0 0 = none := by with_unfolding_all rfl

theorem atProgram_settled : (State.reset.atProgram m).settled = State.reset.atProgram m := by
  have hfill : (State.reset.atProgram m).fillSet 0 0 4 = State.reset.atProgram m := by
    unfold State.fillSet
    rw [atProgram_outsiders]
    split <;> rfl
  have hset : (State.reset.atProgram m).settleSet 0 0 = State.reset.atProgram m := by
    unfold State.settleSet
    rw [atProgram_outsiders]
    rfl
  have hseat : (State.reset.atProgram m).seatUrgent 0 0 = State.reset.atProgram m := by
    unfold State.seatUrgent
    rw [atProgram_urgent]
    rfl
  change (((State.reset.atProgram m).fillSet 0 0 4).settleSet 0 0).seatUrgent 0 0 = State.reset.atProgram m
  rw [hfill, hset, hseat]

theorem atProgram_window : (State.reset.atProgram m).window 1 0x20000 = none := by with_unfolding_all rfl

theorem atProgram_heldTlb : (State.reset.atProgram m).heldTlb 0 1 0x20000 = ((none, .both), State.reset.atProgram m) := by
  with_unfolding_all rfl

theorem atProgram_countTlb : (State.reset.atProgram m).countTlb 0 none .both = State.reset.atProgram m := by with_unfolding_all rfl

theorem atProgram_poc (pa : Nat) : (State.reset.atProgram m).poc pa = pa := by with_unfolding_all rfl

theorem atProgram_ptroot : ((State.reset.atProgram m).ctx 1).ptroot = 0x2000 := by with_unfolding_all rfl

theorem atProgram_stackLive : (State.reset.atProgram m).stackLive 0 = true := by
  have hstacks : (State.reset.atProgram m).liveStacks = 0xFFFF := by with_unfolding_all rfl
  have hdies : (State.reset.atProgram m).liveDies = 0xFF := by with_unfolding_all rfl
  unfold State.stackLive
  rw [hstacks, hdies]
  rfl

theorem atProgram_crew : (State.reset.atProgram m).focusCore = 0 ∧ (State.reset.atProgram m).crew.ctx = 1 ∧
    (State.reset.atProgram m).crew.pc = 0x20000 := by
  refine ⟨?_, ?_, ?_⟩
  all_goals with_unfolding_all rfl

theorem atProgram_holdTlb : ((State.reset.atProgram m).holdTlb 0 none programLeaf).focusCore = 0 ∧
    (((State.reset.atProgram m).holdTlb 0 none programLeaf).core 0).icache.get? (0x20000 / 16) = none ∧
    ((State.reset.atProgram m).holdTlb 0 none programLeaf).mem = m := by
  refine ⟨?_, ?_, ?_⟩
  all_goals with_unfolding_all rfl

end

/-! ## The walk of the program's page (R156) -/

theorem State.physBytes_of_poc {s : State} (h : ∀ pa, s.poc pa = pa) : ∀ n pa, s.physBytes pa n = s.bytes pa n
  | 0, _ => rfl
  | n + 1, pa => by rw [State.physBytes, State.bytes, h, State.physBytes_of_poc h n]

section
variable {s : State} {cn va node e : Nat} (hn : node < 2 ^ 40)
include hn

theorem State.walkFrom_of_node {lv : Nat} (he : s.physBytes (node + 8 * (va / 2 ^ (17 + 10 * lv) % 1024)) 8 = e)
    (hv : e.testBit 0 = true) (hm : pteMalformed e lv = false) (hl : e.testBit 1 = false) :
    s.walkFrom cn va (lv + 1) node = s.walkFrom cn va lv (bitsOf e 51 13 * 2 ^ 13) := by
  rw [State.walkFrom]
  simp only [he, hv, hm, hl]
  rw [if_neg (by omega)]
  rfl

theorem State.walkFrom_of_leaf (he : s.physBytes (node + 8 * (va / 2 ^ 17 % 1024)) 8 = e) (hv : e.testBit 0 = true)
    (hm : pteMalformed e 0 = false) (hl : e.testBit 1 = true) (hc : e.testBit 5 = false)
    (hb : bitsOf e 51 13 * 2 ^ 13 % 2 ^ 17 = 0 ∧ bitsOf e 51 13 * 2 ^ 13 < 2 ^ 40) :
    s.walkFrom cn va 1 node =
      .leaf ⟨cn, va / 2 ^ 17 * 2 ^ 17, 2 ^ 17, bitsOf e 51 13 * 2 ^ 13, e.testBit 2, e.testBit 3, e.testBit 4, e.testBit 6⟩ := by
  rw [State.walkFrom]
  simp only [he, hv, hm, hl, hc]
  rw [if_neg (by omega)]
  simp only [Bool.not_true, Bool.false_eq_true, if_false, Nat.zero_ne_one, Bool.false_and]
  rw [if_neg (by omega)]

end

/-- Storage `m` holds the loader's page tables. -/
def HoldsTables (m : SMap Byte) : Prop :=
  ∀ pa, pa + 8 ≤ programBase → (State.reset.atProgram m).bytes pa 8 = State.reset.programTables.bytes pa 8

section
variable {m : SMap Byte} (h : HoldsTables m)
include h

theorem atProgram_walk : (State.reset.atProgram m).walk 1 0x20000 = .leaf programLeaf := by
  have hp (pa e) (hpa : pa + 8 ≤ programBase) (he : State.reset.programTables.bytes pa 8 = e) :
      (State.reset.atProgram m).physBytes pa 8 = e := (State.physBytes_of_poc (atProgram_poc m) 8 pa).trans ((h pa hpa).trans he)
  have h3 := hp 0x2000 0x4001 (by decide) (by decide +kernel)
  have h2 := hp 0x4000 0x6001 (by decide) (by decide +kernel)
  have h1 := hp 0x6000 0x8001 (by decide) (by decide +kernel)
  have h0 := hp 0x8008 0x20017 (by decide) (by decide +kernel)
  unfold State.walk
  rw [atProgram_ptroot]
  calc (State.reset.atProgram m).walkFrom 1 0x20000 4 0x2000
    _ = (State.reset.atProgram m).walkFrom 1 0x20000 3 0x4000 := State.walkFrom_of_node (e := 0x4001) (by decide) h3 rfl rfl rfl
    _ = (State.reset.atProgram m).walkFrom 1 0x20000 2 0x6000 := State.walkFrom_of_node (e := 0x6001) (by decide) h2 rfl rfl rfl
    _ = (State.reset.atProgram m).walkFrom 1 0x20000 1 0x8000 := State.walkFrom_of_node (e := 0x8001) (by decide) h1 rfl rfl rfl
    _ = .leaf programLeaf := State.walkFrom_of_leaf (e := 0x20017) (by decide) h0 rfl rfl rfl rfl (by decide)

theorem atProgram_xlate : (State.reset.atProgram m).xlate 0 none 1 0x20000 .exec =
    (.ok ⟨0x20000, true⟩, (State.reset.atProgram m).holdTlb 0 none programLeaf) := by
  have hleaf : (State.reset.atProgram m).throughLeaf programLeaf 0x20000 .exec = .ok ⟨0x20000, true⟩ := by
    unfold State.throughLeaf programLeaf programBase TlbEntry.permits
    simp [atProgram_poc, atProgram_stackLive]
  have hlast : (State.reset.atProgram m).lastPage none 1 0x20000 = none := rfl
  unfold State.xlate
  rw [if_neg (by omega), atProgram_window]
  dsimp only
  rw [hlast]
  dsimp only
  rw [atProgram_heldTlb]
  dsimp only
  rw [atProgram_countTlb, atProgram_walk h]
  dsimp only
  rw [hleaf]

theorem atProgram_classify : (State.reset.atProgram m).classify 0 none 1 4 .exec true [(0, 0x20000)] =
    (.go [⟨0, 0x20000, .ok ⟨0x20000, true⟩⟩] [], (State.reset.atProgram m).holdTlb 0 none programLeaf) := by
  unfold State.classify
  simp only [State.xlateAll, Option.map_none, atProgram_xlate h]
  with_unfolding_all rfl

theorem atProgram_fetch : ∃ s, (State.reset.atProgram m).fetch =
    .word (BitVec.ofNat 32 ((State.reset.atProgram m).bytes 0x20000 4)) s := by
  obtain ⟨hcore, hctx, hpc⟩ := atProgram_crew m
  obtain ⟨hcore', hicache, hmem⟩ := atProgram_holdTlb m
  have hbytes : ((State.reset.atProgram m).holdTlb 0 none programLeaf).bytes 0x20000 4 = (State.reset.atProgram m).bytes 0x20000 4 := by
    refine State.bytes_congr 4 _ fun i _ => ?_
    unfold State.byte
    rw [hmem]
    rfl
  have hnat : BitVec.toNat (0x20000 : PcWord) = 0x20000 := rfl
  unfold State.fetch
  simp only [hcore, hctx, hpc]
  rw [hnat, atProgram_classify h]
  simp only [State.fetchWord, hcore', LaneXlat.loc, hicache, hbytes]
  exact ⟨_, rfl⟩

end

/-! ## The placed word -/

section
variable (w : Nat)

/-- Storage with the word placed. -/
def placedMem : SMap Byte := (State.reset.programTables.programCrew.setBytes programBase w 4).mem

theorem placedMem_byte (a : Nat) : (State.reset.atProgram (placedMem w)).byte a =
    (State.reset.programTables.programCrew.setBytes programBase w 4).byte a := by
  unfold State.byte
  rw [State.atProgram_mem]
  rfl

theorem placedMem_holdsTables : HoldsTables (placedMem w) := by
  intro pa hpa
  calc (State.reset.atProgram (placedMem w)).bytes pa 8
    _ = (State.reset.programTables.programCrew.setBytes programBase w 4).bytes pa 8 :=
      State.bytes_congr 8 pa fun i _ => placedMem_byte w (pa + i)
    _ = State.reset.programTables.programCrew.bytes pa 8 := State.bytes_setBytes_out _ _ _ _ _ _ (.inl hpa)
    _ = State.reset.programTables.bytes pa 8 := State.bytes_congr 8 pa fun i _ => State.programCrew_byte _ (pa + i)

theorem placedMem_bytes : (State.reset.atProgram (placedMem w)).bytes 0x20000 4 = w % 2 ^ 32 := by
  rw [State.bytes_congr 4 _ fun i _ => placedMem_byte w (0x20000 + i)]
  exact State.bytes_setBytes 4 State.reset.programTables.programCrew programBase w

theorem placed_fetch : ∃ s, (State.reset.atProgram (placedMem w)).fetch = .word (BitVec.ofNat 32 w) s := by
  obtain ⟨s, hs⟩ := atProgram_fetch (placedMem_holdsTables w)
  refine ⟨s, hs.trans ?_⟩
  rw [placedMem_bytes]
  congr 1
  apply BitVec.eq_of_toNat_eq
  rw [BitVec.toNat_ofNat, BitVec.toNat_ofNat, Nat.mod_mod]

end

/-- Settles O5: a crew's turn is cut into its cases, and the loader's state is evaluated but for its storage. -/
theorem stepRunsTheDecodedInstruction : Obligations.StepRunsTheDecodedInstruction := by
  unfold Obligations.StepRunsTheDecodedInstruction
  refine ⟨fun s core slot rest ha hu => ?_, fun s i rest => step_event, fun n w => ?_⟩
  · dsimp only
    intro hf
    rw [step_issue ha hu]
    refine ⟨fun hs hw => ?_, fun hw => ⟨fun he => ?_, fun he => ?_⟩⟩
    · rw [issueTurn_of_waits hf hs hw]
      exact fetchTurn_runs _
    · rw [issueTurn_of_ready hf hw, he, if_pos rfl]
      exact fetchTurn_runs _
    · rw [issueTurn_of_ready hf hw, he]
      rfl
  · have hstate : ({ State.reset.withFetchWord n w with agenda := [] } : State).focus 0 0 = State.reset.atProgram (placedMem w) := by
      rw [reset_withFetchWord]
      exact putWord_focus _ w _
    refine ⟨by rw [reset_withFetchWord]; rfl, ?_⟩
    dsimp only
    rw [hstate, atProgram_inScope, atProgram_woken, atProgram_settled]
    exact ⟨atProgram_fetches _, atProgram_stalled _, atProgram_elected _, placed_fetch w⟩

end Sys2Proof.Machine
end

section
/-! PROOF of O10, O11 and O12: scalar arithmetic, constants and pairs, and the words of MODE. -/

namespace Sys2Proof.Machine

/-! ## An instruction that writes one scalar register or pair -/

section
variable {s : State} {c : Crew} {i : Instr} {d : Nat}

/-- What an instruction writes to s[d] reads back after it completes. -/
theorem completes_setS_reads {g : Crew → Word} {P : Crew → Prop} (h : Issues s c i = true)
    (he : exec i s = issueCrew i s fun c => c.setS d (g c)) (hP : ∀ c' : Crew, c'.getS d = g c → P c') :
    Completes s c i (fun _ c' => P c') :=
  completes_issueCrew h he ⟨rfl, rfl, rfl⟩ fun _ c' hl _ => hP c' ((hl.getS d).trans (by rw [Crew.getS_setS, if_pos rfl]))

/-- What an instruction writes to s[d:d+1] reads back after it completes. -/
theorem completes_setSS_reads {g : Crew → DWord} {P : Crew → Prop} (h : Issues s c i = true)
    (he : exec i s = issueCrew i s fun c => c.setSS d (g c)) (hP : ∀ c' : Crew, c'.getSS d = g c → P c') :
    Completes s c i (fun _ c' => P c') :=
  completes_issueCrew h he ⟨rfl, rfl, rfl⟩ fun _ c' hl _ => hP c' ((hl.getSS d).trans (Crew.getSS_setSS ..))

end

/-! ## The values of Table 3.5 -/

theorem toInt_sshiftRight_word (x : Word) (n : Nat) : (x.sshiftRight n).toInt = x.toInt / 2 ^ n := by
  rw [BitVec.toInt_sshiftRight, Int.shiftRight_eq_div_pow, Nat.cast_pow, Nat.cast_ofNat]

theorem ite_slt (x y u v : Word) : (if x.slt y then u else v) = if x.toInt < y.toInt then u else v := by
  simp only [BitVec.slt_iff_toInt_lt]

theorem ite_ult (x y u v : Word) : (if x.ult y then u else v) = if x.toNat < y.toNat then u else v := by
  simp only [BitVec.ult_iff_toNat_lt]

theorem toInt_smaller (x y : Word) : (if y.slt x then y else x).toInt = min x.toInt y.toInt := by
  rw [ite_slt]
  split <;> omega

theorem toInt_larger (x y : Word) : (if x.slt y then y else x).toInt = max x.toInt y.toInt := by
  rw [ite_slt]
  split <;> omega

/-- Settles O10: each instruction writes one register, with the value of its row of Table 3.5. -/
theorem scalarArithmeticFollowsTheTable : Obligations.ScalarArithmeticFollowsTheTable := by
  unfold Obligations.ScalarArithmeticFollowsTheTable
  intro s c d a b
  dsimp only
  refine ⟨fun h => ?sadd, fun h => ?ssub, fun h => ?smul, fun h => ?sand, fun h => ?sor, fun h => ?sxor, fun h => ?sshl, fun h => ?sshr,
    fun h => ?ssra, fun h => ?sslt, fun h => ?ssltn, fun h => ?sseq, fun h => ?smin, fun h => ?smax⟩
  case sadd => exact completes_setS_reads h rfl fun c' hv => by rw [hv, BitVec.toNat_add]
  case ssub => exact completes_setS_reads h rfl fun c' hv => by rw [hv, BitVec.toNat_sub, Nat.add_comm]
  case smul => exact completes_setS_reads h rfl fun c' hv => by rw [hv, BitVec.toNat_mul]
  case sand => exact completes_setS_reads h rfl fun c' hv j => by rw [hv, BitVec.getLsbD_and]
  case sor => exact completes_setS_reads h rfl fun c' hv j => by rw [hv, BitVec.getLsbD_or]
  case sxor => exact completes_setS_reads h rfl fun c' hv j => by rw [hv, BitVec.getLsbD_xor]
  case sshl => exact completes_setS_reads h rfl fun c' hv => by rw [hv, BitVec.toNat_shiftLeft, Nat.shiftLeft_eq]
  case sshr => exact completes_setS_reads h rfl fun c' hv => by rw [hv, BitVec.toNat_ushiftRight, Nat.shiftRight_eq_div_pow]
  case ssra => exact completes_setS_reads h rfl fun c' hv => by rw [hv, toInt_sshiftRight_word]
  case sslt => exact completes_setS_reads h rfl fun c' hv => by rw [hv, ite_slt]
  case ssltn => exact completes_setS_reads h rfl fun c' hv => by rw [hv, ite_ult]
  case sseq => exact completes_setS_reads h rfl fun c' hv => by simp only [hv, BitVec.toNat_inj]
  case smin => exact completes_setS_reads h rfl fun c' hv => by rw [hv, toInt_smaller]
  case smax => exact completes_setS_reads h rfl fun c' hv => by rw [hv, toInt_larger]

/-! ## Immediates and pairs -/

/-- A sum with a signed number times a power of two, modulo the width. -/
theorem toNat_add_signExtend_shiftLeft {w v : Nat} (x : BitVec w) (k : BitVec v) (n : Nat) :
    ((x + (k.signExtend w) <<< n).toNat : Int) = ((x.toNat : Int) + k.toInt * 2 ^ n) % 2 ^ w := by
  have hn : BitVec.twoPow w n = BitVec.ofInt w (2 ^ n) := by
    apply BitVec.eq_of_toNat_eq
    rw [BitVec.toNat_twoPow, BitVec.toNat_ofInt]
    norm_cast
  have hx : x + (k.signExtend w) <<< n = BitVec.ofInt w ((x.toNat : Int) + k.toInt * 2 ^ n) := by
    rw [BitVec.shiftLeft_eq_mul_twoPow, BitVec.ofInt_add, BitVec.ofInt_mul, BitVec.ofInt_natCast, BitVec.ofNat_toNat, BitVec.setWidth_eq, hn]
    rfl
  rw [hx, BitVec.toNat_ofInt, Int.toNat_of_nonneg (Int.emod_nonneg _ (by positivity)), Nat.cast_pow, Nat.cast_ofNat]

theorem toNat_add_signExtend {w v : Nat} (x : BitVec w) (k : BitVec v) :
    ((x + k.signExtend w).toNat : Int) = ((x.toNat : Int) + k.toInt) % 2 ^ w := by
  simpa using toNat_add_signExtend_shiftLeft x k 0

/-- Settles O11: the values of R72 and R73, the words of the four immediates, and the check that an odd pair fails. -/
theorem scalarConstantsAndPairs : Obligations.ScalarConstantsAndPairs := by
  unfold Obligations.ScalarConstantsAndPairs
  intro s c d a b k
  dsimp only
  have fields (op : BitVec 8) := (append_8_8_16_eq_iff op d k (op ++ d ++ k)).mp rfl
  refine ⟨fun h => ?sadd64, fun h => ?smovi, fun h => ?smovhi, fun h => ?saddi, fun h => ?spchi, fun h hh hd => ?odd, ?_, ?_, ?_, ?_⟩
  case sadd64 =>
    refine completes_setSS_reads h rfl fun c' hv => ?_
    rw [hv]
    unfold spanOf
    by_cases ht : modeType c.mode = 12 ∨ modeType c.mode = 13
    · simp [ht]
    · simp only [if_neg ht, OfNat.one_ne_ofNat, if_false, toNat_add_signExtend]
  case smovi => exact completes_setS_reads h rfl fun c' hv => by rw [hv, BitVec.toInt_signExtend_of_le (by decide)]
  case smovhi => exact completes_setS_reads h rfl fun c' hv => by rw [hv, BitVec.toNat_append]; simp [Nat.shiftLeft_eq]
  case saddi => exact completes_setS_reads h rfl fun c' hv => by rw [hv, toNat_add_signExtend]
  case spchi =>
    refine completes_setSS_reads h rfl fun c' hv => ?_
    rw [hv, toNat_add_signExtend_shiftLeft, BitVec.toNat_setWidth_of_le (by decide)]
    rfl
  case odd =>
    have hk : checkIssue s c (.spchi d k) = some (0x01, _) := checkIssue_of_fields (by
      simp [fieldsOk, operands, Opnd.ok, Opnd.sc2, hd])
    exact trapsWith_of_onlyTraps (onlyTraps_of_check h hh (by decide) hk rfl)
  all_goals simp [decode, extractLsb'_28_4, extractLsb'_24_4, decodeRow1, fields]

/-! ## MODE and MODEX -/

theorem getLsbD_ite_zero {w : Nat} (b : Bool) (m : BitVec w) (j : Nat) : (if b then m else 0).getLsbD j = (b && m.getLsbD j) := by
  cases b <;> simp

/-- A bit under a selection: the new value's where the selection has it, the old one's elsewhere. -/
theorem getLsbD_select {w : Nat} (old new m : BitVec w) {j : Nat} (hj : j < w) :
    ((old &&& ~~~m) ||| (new &&& m)).getLsbD j = if m.getLsbD j then new.getLsbD j else old.getLsbD j := by
  simp only [BitVec.getLsbD_or, BitVec.getLsbD_and, BitVec.getLsbD_not, hj, decide_true, Bool.true_and]
  cases m.getLsbD j <;> simp

/-- The fields of MODE by their bits (R64). -/
theorem getLsbD_setmBits (f : BitVec 6) {j : Nat} (hj : j < 16) : (setmBits f).getLsbD j =
    f.getLsbD (if j < 3 then 0 else if j = 3 then 1 else if j < 8 then 2 else if j < 12 then 3 else if j < 15 then 4 else 5) := by
  simp only [setmBits, BitVec.getLsbD_or, getLsbD_ite_zero]
  interval_cases j <;> simp

/-- The fields of MODEX by their bits (R65). -/
theorem getLsbD_setmxBits (f : BitVec 3) {j : Nat} (hj : j < 16) : (setmxBits f).getLsbD j =
    (decide (j < 6) && f.getLsbD (if j = 0 then 0 else if j < 4 then 1 else 2)) := by
  simp only [setmxBits, BitVec.getLsbD_or, getLsbD_ite_zero]
  interval_cases j <;> simp

/-- Settles O12: both writes are a selection by the bits of the fields that fmask names. -/
theorem modeWritesAndReads : Obligations.ModeWritesAndReads := by
  unfold Obligations.ModeWritesAndReads
  intro s c f v g u d
  refine ⟨fun h => ?setm, fun h => ?setmx, fun h => ?getm⟩
  case setm =>
    refine completes_issueCrew h rfl ⟨rfl, rfl, rfl⟩ fun t c' hl _ => ⟨hl.modex, fun j hj => ?_⟩
    rw [hl.mode, getLsbD_select _ _ _ hj, getLsbD_setmBits f hj]
  case setmx =>
    refine completes_issueCrew h rfl ⟨rfl, rfl, rfl⟩ fun t c' hl _ => ⟨hl.mode, fun j hj => ?_⟩
    rw [hl.modex, getLsbD_select _ _ _ hj, getLsbD_setmxBits g hj]
    simp [hj]
  case getm =>
    refine completes_setS_reads h rfl fun c' hv => ?_
    rw [hv, BitVec.toNat_append, ← Nat.shiftLeft_add_eq_or_of_lt c.mode.isLt, Nat.shiftLeft_eq]

end Sys2Proof.Machine
end

section
/-! PROOF of O16 and O17: divergence and reconvergence. -/

namespace Sys2Proof.Machine

/-! ## BRDIV -/

/-- The crew of a BRDIV that splits the path: the lanes taken run, the others wait at the next instruction (R79). -/
def Crew.split (c : Crew) (taken : Mask) : Crew :=
  { c with paths := (c.pc + 4, c.am &&& ~~~taken) :: c.paths, am := taken }

theorem rest_of_split {c c' : Crew} {taken : Mask} (h : c'.rest = (c.split taken).rest) :
    c'.paths = (c.pc + 4, c.am &&& ~~~taken) :: c.paths ∧ c'.am = taken ∧ c'.live = c.live ∧
      { c' with paths := c.paths, am := c.am }.rest = c.rest :=
  ⟨(congrArg Crew.paths h :), (congrArg Crew.am h :), (congrArg Crew.live h :),
    (congrArg (fun x : Crew => { x with paths := c.paths, am := c.am }) h :)⟩

/-- Settles O16: the four branches of BRDIV's body. -/
theorem divergentBranchSplitsThePath : Obligations.DivergentBranchSplitsThePath := by
  unfold Obligations.DivergentBranchSplitsThePath
  intro s c p k h
  dsimp only
  have hc := crew?_of_issues h
  have hcrew := State.crew_of_crew? hc
  refine ⟨fun hall => ?all, fun hne hnone => ?none, fun hne hsome hlen => ?split, fun hne hsome hlen hh => ?full⟩
  case all =>
    refine completesAt_of_jump (u := s) h rfl ?_ hc rfl ⟨rfl, rfl⟩ fun t c' hl hs => onlyMoved_of_like hl fun hq => hs (.refl s) (.inr hq)
    dsimp only
    rw [hcrew, relTarget_eq, if_pos hall]
  case none =>
    refine completes_of_done (u := s) h rfl ?_ hc rfl ⟨rfl, rfl, rfl⟩ fun t c' hl hs => onlyMoved_of_like hl fun hq => hs (.refl s) (.inr hq)
    dsimp only
    rw [hcrew, if_neg hne, if_pos hnone]
  case split =>
    have hstill := Still.setCrew s (c.split (c.am &&& c.pred p.toNat))
    refine completesAt_of_jump h rfl (x := c.split (c.am &&& c.pred p.toNat)) ?_ (State.crew?_setCrew ..) rfl ⟨rfl, rfl⟩ fun t c' hl hs => ?_
    · dsimp only
      rw [hcrew, relTarget_eq, if_neg hne, if_neg hsome, if_neg (by omega)]
      rfl
    · obtain ⟨hpaths, ham, hlive, hrest⟩ := rest_of_split hl.rest
      exact ⟨hpaths, ham, hlive, hrest, hl.sreg, hl.vreg, hl.modesKept, fun hq => hs hstill (.inr hq)⟩
  case full =>
    refine trapsWith_of_trap hc hh (by decide) _ h rfl ?_
    dsimp only
    rw [hcrew, relTarget_eq, if_neg hne, if_neg hsome, if_pos hlen]

/-! ## RCSET and RCWAIT -/

theorem Crew.bar_setBar (c : Crew) (n k : Nat) (b : Barrier) : (c.setBar n b).bar k = if k = n then b else c.bar k :=
  SMap.getD_setD ..

theorem Crew.Like.bar {c x : Crew} (h : c.Like x) (n : Nat) : c.bar n = x.bar n := by unfold Crew.bar; rw [h.bars]

/-- The crew of an RCWAIT that goes on: barrier `n` becomes `b`, and the path has the lanes `m` with the list `ps` (R80). -/
def Crew.rejoined (c : Crew) (n : Nat) (b : Barrier) (m : Mask) (ps : List (PcWord × Mask)) : Crew :=
  { c.setBar n b with am := m, paths := ps }

/-- An RCWAIT that goes on completes at the PC of the path that runs. -/
theorem completesAt_rejoined {s : State} {c : Crew} {i : Instr} {body : State → Res} {n : Nat} {b : Barrier} {m : Mask}
    {ps : List (PcWord × Mask)} {pc : PcWord} (h : Issues s c i = true) (he : exec i s = issue i s body)
    (hb : body s = .jump (s.setCrew (c.rejoined n b m ps)) pc) : CompletesAt s c i pc (fun _ c' => c'.am = m ∧ c'.live = c.live ∧
      c'.paths = ps ∧ c'.bar n = b ∧ (∀ k, k ≠ n → c'.bar k = c.bar k) ∧ c'.sreg = c.sreg ∧ c'.vreg = c.vreg ∧
      c'.preds = c.preds ∧ c'.mode = c.mode) := by
  refine completesAt_of_jump h he hb (State.crew?_setCrew ..) rfl ⟨rfl, rfl⟩ fun t c' hl _ => ?_
  have hbar (k : Nat) : c'.bar k = if k = n then b else c.bar k := (hl.bar k).trans (c.bar_setBar n k b)
  exact ⟨(congrArg Crew.am hl.rest :), (congrArg Crew.live hl.rest :), (congrArg Crew.paths hl.rest :), (hbar n).trans (if_pos rfl),
    fun k hk => (hbar k).trans (if_neg hk), hl.sreg, hl.vreg, hl.preds, hl.mode⟩

/-- Settles O17: RCSET writes one barrier, and RCWAIT takes the branches of R80. -/
theorem reconvergenceJoinsAtTheBarrier : Obligations.ReconvergenceJoinsAtTheBarrier := by
  unfold Obligations.ReconvergenceJoinsAtTheBarrier
  refine ⟨fun s c d k h => ?_, fun s c a h => ?_⟩
  · refine completes_issueCrew h rfl ⟨rfl, rfl, rfl⟩ fun t c' hl _ => ?_
    have hbar (n : Nat) := (hl.bar n).trans (c.bar_setBar d.toNat n ⟨c.am, 0, relTarget c.pc k⟩)
    exact ⟨(hbar d.toNat).trans (by rw [if_pos rfl, relTarget_eq]), fun n hn => (hbar n).trans (if_neg hn)⟩
  · dsimp only
    have hc := crew?_of_issues h
    have hcrew := State.crew_of_crew? hc
    refine ⟨fun hbad hh => ?bad, fun hgood hall => ?all, fun hgood hsome pc m rest hp => ?next, fun hgood hsome hp hh => ?last⟩
    case bad =>
      refine trapsWith_of_trap hc hh (by decide) _ h rfl ?_
      dsimp only
      rw [hcrew, if_pos hbad]
    case all =>
      refine completesAt_rejoined (ps := c.paths) h rfl ?_
      dsimp only
      rw [hcrew, if_neg hgood, if_pos hall]
      rfl
    case next =>
      refine completesAt_rejoined h rfl ?_
      dsimp only
      rw [hcrew, if_neg hgood, if_neg hsome, hp]
      rfl
    case last =>
      refine trapsWith_of_trap hc hh (by decide) _ h rfl ?_
      dsimp only
      rw [hcrew, if_neg hgood, if_neg hsome, hp]

end Sys2Proof.Machine
end

section
/-! PROOF, the layer of outstanding accesses: what stays as it is while some of a crew's accesses are performed. -/

namespace Sys2Proof.Machine

/-! ## The scene of a crew's issue -/

/-- What the checks before an instruction read (R36, R58, R292, R412), with each crew seen through `f`. -/
structure Scene where
  crewAt : Nat → Option Crew
  listed : Nat × Crew → Prop
  rights : Nat → Nat × Nat
  tileOps : Nat → List TileOp
  focus : Nat × Nat
  clock : Nat
  pager : Nat → Bool
  regions : SMap Region
  current : Nat
  switching : Bool

/-- The scene of a state. -/
def State.scene (f : Crew → Crew) (s : State) : Scene where
  crewAt k := (s.crews.get? k).map f
  listed e := e ∈ s.crews.map fun e => (e.1, f e.2)
  rights n := ((s.ctx n).level, (s.ctx n).owner)
  tileOps n := (s.core n).tileOps
  focus := (s.focusCore, s.focusSlot)
  clock := s.clock
  pager n := (s.die n).pager
  regions := s.regions
  current := s.current
  switching := s.switching

/-- A crew without its registers and with no more of its outstanding accesses than their kinds and sizes. -/
def Crew.owing (c : Crew) : Crew :=
  { c with sreg := [], vreg := [], pend := c.pend.map fun p => { p with accs := [] } }

/-- A crew without its registers, its outstanding accesses and its unobserved jobs. -/
def Crew.kept (c : Crew) : Crew := { c with sreg := [], vreg := [], pend := [], unobs := [] }

/-- A crew without its registers and its outstanding accesses. -/
def Crew.still (c : Crew) : Crew := { c with sreg := [], vreg := [], pend := [] }

/-- What is the same through `f` is the same through what sees less. -/
theorem State.scene_comp {f : Crew → Crew} {s t : State} (h : t.scene f = s.scene f) (g : Crew → Crew) :
    t.scene (fun c => g (f c)) = s.scene (fun c => g (f c)) := by
  have hat (u : State) : (u.scene fun c => g (f c)).crewAt = fun k => ((u.scene f).crewAt k).map g := by
    funext k
    exact (Option.map_map g f _).symm
  have hlist (u : State) : (u.scene fun c => g (f c)).listed = fun e => ∃ a, (u.scene f).listed a ∧ (a.1, g a.2) = e := by
    funext e
    simp [State.scene]
  have hrest (u : State) : u.scene (fun c => g (f c)) =
      { u.scene f with crewAt := (u.scene fun c => g (f c)).crewAt, listed := (u.scene fun c => g (f c)).listed } := rfl
  rw [hrest t, hrest s, hat t, hat s, hlist t, hlist s, h]

theorem State.crew_of_scene {f : Crew → Crew} {s t : State} (h : t.scene f = s.scene f) {k : Nat} {c : Crew} (hc : s.crews.get? k = some c) :
    ∃ c', t.crews.get? k = some c' ∧ f c' = f c := by
  have hk : (t.crews.get? k).map f = (s.crews.get? k).map f := congrFun (congrArg Scene.crewAt h) k
  rw [hc] at hk
  exact Option.map_eq_some_iff.mp hk

section
variable (f : Crew → Crew) (s : State)

theorem State.scene_foldl {β : Type} {g : State → β → State} (h : ∀ s b, (g s b).scene f = s.scene f) (l : List β) :
    ∀ s : State, (l.foldl g s).scene f = s.scene f := by
  induction l with
  | nil => exact fun _ => rfl
  | cons b l ih => exact fun s => (ih _).trans (h s b)

theorem SMap.mem_of_get?_eq_some {α : Type} {k : Nat} {x : α} : ∀ {m : SMap α}, m.get? k = some x → (k, x) ∈ m
  | (j, y) :: m, h => by
    unfold SMap.get? at h
    split at h
    next hj => exact hj ▸ Option.some.inj h ▸ List.mem_cons_self ..
    · exact List.mem_cons_of_mem _ (SMap.mem_of_get?_eq_some h)

theorem SMap.get?_mapVals {α : Type} (g : α → α) (m : SMap α) (k : Nat) : SMap.get? (SMap.mapVals g m) k = (SMap.get? m k).map g := by
  induction m with
  | nil => rfl
  | cons e m ih =>
    show SMap.get? ((e.1, g e.2) :: SMap.mapVals g m) k = _
    unfold SMap.get?
    split
    · rfl
    · exact ih

/-- A crew's own update that `f` does not see. -/
theorem SMap.mem_map_insert {m : SMap Crew} {k : Nat} {c x : Crew} (hk : m.get? k = some c) (hx : f x = f c) (e : Nat × Crew) :
    (e ∈ (m.insert k x).map fun e => (e.1, f e.2)) ↔ e ∈ m.map fun e => (e.1, f e.2) := by
  induction m with
  | nil => cases hk
  | cons a m ih =>
    obtain ⟨j, y⟩ := a
    unfold SMap.get? at hk
    unfold SMap.insert
    by_cases hj : k = j
    · subst hj
      rw [if_pos rfl, Option.some.injEq] at hk
      subst hk
      rw [if_neg (lt_irrefl k), if_pos rfl, List.map_cons, List.map_cons, hx]
    · rw [if_neg hj] at hk
      rw [if_neg hj]
      split
      · have hmem : (k, f x) ∈ m.map fun e => (e.1, f e.2) := hx ▸ List.mem_map_of_mem (SMap.mem_of_get?_eq_some hk)
        simp only [List.map_cons, List.mem_cons] at hmem ⊢
        constructor
        · rintro (rfl | h)
          · exact .inr hmem
          · exact h
        · exact .inr
      · rw [List.map_cons, List.map_cons, List.mem_cons, List.mem_cons, ih hk]

theorem State.scene_mapCrewAt (k : Nat) (g : Crew → Crew) (h : ∀ c, f (g c) = f c) : (s.mapCrewAt k g).scene f = s.scene f := by
  unfold State.mapCrewAt
  cases hk : s.crews.get? k with
  | none => rfl
  | some c =>
    have hat : (fun j => ((s.crews.insert k (g c)).get? j).map f) = fun j => (s.crews.get? j).map f := by
      funext j
      rw [SMap.get?_insert]
      split
      next hj => rw [hj, hk, Option.map_some, Option.map_some, h]
      · rfl
    have hlist : (fun e => e ∈ (s.crews.insert k (g c)).map fun e => (e.1, f e.2)) = fun e => e ∈ s.crews.map fun e => (e.1, f e.2) :=
      funext fun e => propext (SMap.mem_map_insert f hk (h c) e)
    unfold State.scene
    simp only [State.setCrewAt]
    rw [hat, hlist]
    rfl

theorem State.scene_mapCore (n : Nat) (g : Core → Core) (h : ∀ c, (g c).tileOps = c.tileOps) : (s.mapCore n g).scene f = s.scene f := by
  have hops : (fun k => ((s.mapCore n g).core k).tileOps) = fun k => (s.core k).tileOps := by
    funext k
    rw [State.core_mapCore]
    split
    next hk => rw [h, hk]
    · rfl
  unfold State.scene
  rw [hops]
  rfl

theorem State.scene_withCtxs (m : SMap Ctx) (h : ∀ n, ((m.getD n Ctx.blank).level, (m.getD n Ctx.blank).owner) = ((s.ctx n).level, (s.ctx n).owner)) :
    ({ s with ctxs := m } : State).scene f = s.scene f := by
  unfold State.scene
  rw [← funext h]
  rfl

theorem State.scene_mapCtx (n : Nat) (g : Ctx → Ctx) (h : ∀ x, ((g x).level, (g x).owner) = (x.level, x.owner)) :
    (s.mapCtx n g).scene f = s.scene f := by
  unfold State.mapCtx
  split
  next x hx =>
    refine s.scene_withCtxs f _ fun k => ?_
    rw [SMap.getD_insert]
    split
    next hk =>
      rw [h, hk]
      unfold State.ctx SMap.getD
      rw [hx]
    · rfl
  · rfl

/-- What a counter's overflow sets in the contexts of the current function (R433). -/
theorem State.scene_overflow (u : State) (k : Nat) :
    ({ u with ctxs := u.ctxs.mapVals fun c => if c.owner = u.current then { c with cntovf := c.cntovf ||| (1 <<< k) } else c } : State).scene f =
      u.scene f := by
  refine u.scene_withCtxs f _ fun n => ?_
  unfold State.ctx SMap.getD
  rw [SMap.get?_mapVals]
  cases u.ctxs.get? n with
  | none => rfl
  | some x =>
    dsimp only [Option.map_some]
    split <;> rfl

@[simp] theorem State.scene_bump (core k n : Nat) : (s.bump core k n).scene f = s.scene f := by
  unfold State.bump
  dsimp only
  split
  · exact s.scene_mapCore f _ _ fun _ => by rfl
  · split
    · exact (State.scene_overflow f _ k).trans (s.scene_mapCore f _ _ fun _ => by rfl)
    · exact (State.scene_overflow f _ k).trans (s.scene_mapCore f _ _ fun _ => by rfl)

@[simp] theorem State.scene_countEvent (core code task n : Nat) : (s.countEvent core code task n).scene f = s.scene f := by
  unfold State.countEvent
  exact State.scene_foldl f (fun s (e : Nat × Counter) => s.scene_bump f core e.1 n) _ s

@[simp] theorem State.scene_setBytes (a x n : Nat) : (s.setBytes a x n).scene f = s.scene f := by
  obtain ⟨m, h⟩ := State.setBytes_eq n s a x
  rw [h]
  rfl

@[simp] theorem State.scene_postNotification (pg : Nat) : (s.postNotification pg).scene f = s.scene f := by
  have hput (u : State) (c : PageCtr) : ({ u with pageCtr := u.pageCtr.setD pg c PageCtr.zero } : State).scene f = u.scene f := rfl
  unfold State.postNotification
  dsimp only
  split
  · rfl
  · split
    · rw [hput]
      split
      · rfl
      · exact s.scene_mapCtx f _ _ fun _ => by rfl
    · split
      · exact (hput _ _).trans ((State.scene_mapCtx f _ _ _ fun _ => by rfl).trans (s.scene_setBytes f ..))
      · exact (hput _ _).trans (State.scene_mapCtx f _ _ _ fun _ => by rfl)

@[simp] theorem State.scene_countPage (core cn va idx : Nat) : (s.countPage core cn va idx).scene f = s.scene f := by
  unfold State.countPage
  split <;> rfl

@[simp] theorem State.scene_request (core cn va : Nat) (loc : Loc) : (s.request core cn va loc).scene f = s.scene f := by
  unfold State.request
  split
  · rfl
  · dsimp only
    split
    · rw [State.scene_postNotification, State.scene_countPage]
    · rw [State.scene_countPage]

@[simp] theorem State.scene_requestIf (b : Bool) (core cn va : Nat) (loc : Loc) : (s.requestIf b core cn va loc).scene f = s.scene f := by
  cases b
  · rfl
  · exact s.scene_request f core cn va loc

@[simp] theorem State.scene_fillL1 (core line : Nat) : (s.fillL1 core line).scene f = s.scene f := by
  unfold State.fillL1
  dsimp only
  split
  · exact s.scene_mapCore f _ _ fun _ => rfl
  · exact s.takeFree.2.scene_mapCore f _ _ fun _ => rfl

@[simp] theorem State.scene_readPlain (core : Nat) (loc : Loc) (size : Nat) : (s.readPlain core loc size).2.2.scene f = s.scene f := by
  unfold State.readPlain
  split
  · rfl
  · split
    · exact s.scene_fillL1 f _ _
    · split
      · rfl
      · exact s.takeFree.2.scene_fillL1 f _ _

@[simp] theorem State.scene_readBypass (core : Nat) (loc : Loc) (size : Nat) : (s.readBypass core loc size).2.scene f = s.scene f := by
  unfold State.readBypass
  dsimp only
  split
  · exact s.scene_mapCore f _ _ fun _ => rfl
  · rfl

@[simp] theorem State.scene_writeAt (core : Nat) (loc : Loc) (size x : Nat) : (s.writeAt core loc size x).scene f = s.scene f := by
  unfold State.writeAt
  dsimp only
  split
  · exact s.scene_setBytes f ..
  · rw [State.scene_mapCore, State.scene_setBytes]
    intro c
    split <;> rfl

@[simp] theorem State.scene_countL1 (k : Nat) (p : Pend) (a : LaneAcc) (missed : Bool) : (s.countL1 k p a missed).scene f = s.scene f := by
  unfold State.countL1
  split
  · rfl
  · exact s.scene_countEvent f ..

end

/-! ## Performing accesses -/

/-- `f` sees no register of a crew. -/
def BlindToRegs (f : Crew → Crew) : Prop := ∀ (c : Crew) (sr vr : SMap Word), f { c with sreg := sr, vreg := vr } = f c

section
variable {f : Crew → Crew} (hf : BlindToRegs f)
include hf

theorem BlindToRegs.setVN (l : Nat) : ∀ (span n x : Nat) (c : Crew), f (c.setVN n l x span) = f c
  | 0, _, _, _ => rfl
  | span + 1, n, _, c => (BlindToRegs.setVN l span (n + 1) _ _).trans (hf c c.sreg _)

theorem BlindToRegs.setSN (span n x : Nat) (c : Crew) : f (c.setSN span n x) = f c := by
  unfold Crew.setSN
  split
  · exact hf c _ c.vreg
  · exact hf c _ c.vreg

theorem State.scene_performLane (s : State) (k : Nat) (p : Pend) (a : LaneAcc) : (s.performLane k p a).1.scene f = s.scene f := by
  unfold State.performLane
  dsimp only
  split
  case h_1 dst sext past _ =>
    rw [State.scene_mapCrewAt f _ _ _ (hf.setVN _ _ _ _)]
    cases past
    · simp only [Bool.false_eq_true, if_false]
      split <;> simp
    · simp
  case h_2 =>
    rw [State.scene_mapCrewAt f _ _ _ (hf.setSN _ _ _)]
    split <;> simp
  case h_3 => simp
  case h_4 => simp
  case h_5 =>
    rw [State.scene_mapCrewAt f _ _ _ (hf.setVN _ _ _ _)]
    split <;> simp
  case h_6 => rfl

theorem State.scene_performLanes (k : Nat) (p : Pend) (accs : List LaneAcc) :
    ∀ (s : State) (lines : List Nat), (s.performLanes k p accs lines).1.scene f = s.scene f := by
  induction accs with
  | nil => exact fun _ _ => rfl
  | cons a rest ih => exact fun s lines => (ih _ _).trans (State.scene_performLane hf s k p _)

end

/-- The accesses of a list that a performance of those that `want` names leaves outstanding. -/
def leftover (want : Pend → Bool) (ps : List Pend) : List Pend :=
  ((markNeeded want [] ps.reverse).reverse.filter fun m => !m.2).map fun m => m.1

theorem map_fst_markNeeded (want : Pend → Bool) : ∀ (ps sel : List Pend), (markNeeded want sel ps).map Prod.fst = ps
  | [], _ => rfl
  | p :: ps, _ => congrArg (p :: ·) (map_fst_markNeeded want ps _)

theorem markNeeded_left {want : Pend → Bool} {p : Pend} : ∀ {ps sel : List Pend}, (p, false) ∈ markNeeded want sel ps →
    p ∈ ps ∧ (p.kind.isRemote = true ∨ want p = false)
  | q :: ps, sel, h => by
    unfold markNeeded at h
    rcases List.mem_cons.mp h with h | h
    · obtain ⟨rfl, hb⟩ := Prod.mk.inj h
      refine ⟨List.mem_cons_self .., ?_⟩
      cases hk : p.kind.isRemote
      · have hnone : want p = false ∧ ∀ q ∈ sel, p.precedes q = false := by simpa [hk] using hb.symm
        exact .inr hnone.1
      · exact .inl rfl
    · obtain ⟨hmem, hleft⟩ := markNeeded_left h
      exact ⟨List.mem_cons_of_mem _ hmem, hleft⟩

theorem mem_leftover {want : Pend → Bool} {ps : List Pend} {p : Pend} (h : p ∈ leftover want ps) :
    p ∈ ps ∧ (p.kind.isRemote = true ∨ want p = false) := by
  unfold leftover at h
  obtain ⟨⟨q, b⟩, hm, rfl⟩ := List.mem_map.mp h
  obtain ⟨hm, hb⟩ := List.mem_filter.mp hm
  rw [show b = false by simpa using hb, List.mem_reverse] at hm
  obtain ⟨hmem, hleft⟩ := markNeeded_left hm
  exact ⟨List.mem_reverse.mp hmem, hleft⟩

/-- Where nothing is marked, everything is left. -/
theorem leftover_of_unmarked {want : Pend → Bool} {ps : List Pend} (h : ∀ m ∈ markNeeded want [] ps.reverse, m.2 = false) :
    leftover want ps = ps := by
  unfold leftover
  rw [List.filter_eq_self.mpr fun m hm => by rw [h m (List.mem_reverse.mp hm)]; rfl, List.map_reverse]
  exact (congrArg List.reverse (map_fst_markNeeded want ps.reverse [])).trans (List.reverse_reverse ps)

theorem markNeeded_of_none {want : Pend → Bool} : ∀ {ps : List Pend}, (∀ p ∈ ps, p.kind.isRemote = true ∨ want p = false) →
    ∀ m ∈ markNeeded want [] ps, m.2 = false
  | p :: ps, h, m, hm => by
    have hp : (!p.kind.isRemote && (want p || [].any fun q => p.precedes q)) = false := by
      rcases h p (List.mem_cons_self ..) with hr | hw
      · rw [hr]; rfl
      · rw [hw]; simp
    unfold markNeeded at hm
    simp only [hp] at hm
    rcases List.mem_cons.mp hm with rfl | hm
    · rfl
    · exact markNeeded_of_none (fun q hq => h q (List.mem_cons_of_mem _ hq)) m hm

/-- Nothing happens where no access that is wanted can be performed. -/
theorem State.perform_of_none {s : State} {k : Nat} {want : Pend → Bool} {c : Crew} (hc : s.crews.get? k = some c)
    (h : ∀ p ∈ c.pend, p.kind.isRemote = true ∨ want p = false) : s.perform k want = s := by
  unfold State.perform
  rw [hc]
  dsimp only
  refine if_pos (List.all_eq_true.mpr fun m hm => ?_)
  rw [markNeeded_of_none (fun p hp => h p (List.mem_reverse.mp hp)) m (List.mem_reverse.mp hm)]
  rfl

theorem Crew.owing_blindToRegs : BlindToRegs Crew.owing := fun _ _ _ => rfl

theorem Crew.owing_withPend (c : Crew) (g : Pend → Pend) (hg : ∀ p, { g p with accs := [] } = { p with accs := [] }) :
    ({ c with pend := c.pend.map g } : Crew).owing = c.owing := by
  unfold Crew.owing
  simp only [List.map_map, Function.comp_def, hg]

theorem State.scene_spendLines (s : State) (k seq : Nat) (lines : List Nat) :
    (s.spendLines k seq lines).scene Crew.owing = s.scene Crew.owing := by
  unfold State.spendLines
  split
  · rfl
  · refine s.scene_mapCrewAt _ k _ fun c => c.owing_withPend _ fun p => ?_
    split <;> rfl

/-- A performance of accesses of the crew at `k` takes them from what the crew owes, and changes nothing else of the scene. -/
theorem State.scene_perform {s : State} {k : Nat} {c : Crew} (hc : s.crews.get? k = some c) (want : Pend → Bool) :
    (s.perform k want).scene Crew.owing = (s.setCrewAt k { c with pend := leftover want c.pend }).scene Crew.owing := by
  have hset (g : Crew → Crew) : s.mapCrewAt k g = s.setCrewAt k (g c) := by
    unfold State.mapCrewAt
    rw [hc]
  unfold State.perform
  rw [hc]
  dsimp only
  split
  next hall =>
    rw [leftover_of_unmarked fun m hm => by simpa using List.all_eq_true.mp hall m (List.mem_reverse.mpr hm)]
    exact (s.scene_mapCrewAt _ k id fun _ => rfl).symm.trans (congrArg _ (hset id))
  · rw [hset]
    refine State.scene_foldl Crew.owing (fun u m => ?_) _ _
    rw [State.scene_spendLines, State.scene_performLanes Crew.owing_blindToRegs]

/-- What is outstanding in a crew afterwards was outstanding before, and was not to be performed or awaits a peer. -/
def Crew.Settled (want : Pend → Bool) (c c' : Crew) : Prop :=
  c'.still = c.still ∧ ∀ q ∈ c'.pend, ∃ p ∈ c.pend, q.kind = p.kind ∧ q.size = p.size ∧ (p.kind.isRemote = true ∨ want p = false)

theorem State.perform_crew {s : State} {k : Nat} {c : Crew} (hc : s.crews.get? k = some c) (want : Pend → Bool) :
    ∃ c', (s.perform k want).crews.get? k = some c' ∧ c.Settled want c' := by
  have hset : (s.setCrewAt k { c with pend := leftover want c.pend }).crews.get? k = some { c with pend := leftover want c.pend } := by
    rw [State.crews_setCrewAt, if_pos rfl]
  obtain ⟨c', hc', ho⟩ := State.crew_of_scene (State.scene_perform hc want) hset
  refine ⟨c', hc', (congrArg (fun x : Crew => { x with pend := [] }) ho :), fun q hq => ?_⟩
  have hpend : c'.pend.map (fun p => { p with accs := [] }) = (leftover want c.pend).map fun p => { p with accs := [] } :=
    congrArg Crew.pend ho
  have hmem : ({ q with accs := [] } : Pend) ∈ (leftover want c.pend).map fun p => { p with accs := [] } :=
    hpend ▸ List.mem_map_of_mem hq
  obtain ⟨p, hp, hpq⟩ := List.mem_map.mp hmem
  obtain ⟨hmem, hleft⟩ := mem_leftover hp
  exact ⟨p, hmem, (congrArg Pend.kind hpq.symm :), (congrArg Pend.size hpq.symm :), hleft⟩

theorem State.scene_still_perform (s : State) (k : Nat) (want : Pend → Bool) : (s.perform k want).scene Crew.still = s.scene Crew.still := by
  cases hc : s.crews.get? k with
  | none => unfold State.perform; rw [hc]
  | some c =>
    have hset : s.mapCrewAt k (fun x => { x with pend := leftover want x.pend }) = s.setCrewAt k { c with pend := leftover want c.pend } := by
      unfold State.mapCrewAt
      rw [hc]
    calc (s.perform k want).scene Crew.still
      _ = (s.setCrewAt k { c with pend := leftover want c.pend }).scene Crew.still :=
        State.scene_comp (State.scene_perform hc want) fun x => { x with pend := [] }
      _ = s.scene Crew.still := by rw [← hset]; exact s.scene_mapCrewAt _ k _ fun _ => rfl

end Sys2Proof.Machine
end

section
/-! PROOF of O18: the end of lanes, and of a crew. -/

namespace Sys2Proof.Machine

/-! ## A slot that is free stays free -/

section
variable (s : State)

@[simp] theorem State.recordForeman_crews (die tag cls type payload : Nat) : (s.recordForeman die tag cls type payload).crews = s.crews :=
  State.record_crews ..

@[simp] theorem State.mapTask_crews (n : Nat) (f : Task → Task) : (s.mapTask n f).crews = s.crews := by
  unfold State.mapTask
  split <;> rfl

@[simp] theorem State.setBytes_crews (a x n : Nat) : (s.setBytes a x n).crews = s.crews := by
  obtain ⟨m, h⟩ := State.setBytes_eq n s a x
  rw [h]

@[simp] theorem State.unitWrite_crews (cn va n x : Nat) : (s.unitWrite cn va n x).crews = s.crews := by
  obtain ⟨m, h⟩ := State.unitWrite_eq s cn va n x
  rw [h]

@[simp] theorem State.writeSib_crews (c : Coppice) (i : Nat) : (s.writeSib c i).crews = s.crews := State.unitWrite_crews ..

theorem State.foldl_crews {β : Type} {f : State → β → State} (h : ∀ s b, (f s b).crews = s.crews) (l : List β) :
    ∀ s : State, (l.foldl f s).crews = s.crews := by
  induction l with
  | nil => exact fun _ => rfl
  | cons b l ih => exact fun s => (ih _).trans (h s b)

@[simp] theorem State.sendFault_crews (r : FaultRec) : (s.sendFault r).crews = s.crews := by
  unfold State.sendFault State.recordFault
  dsimp only
  split <;> simp

@[simp] theorem State.storeDone_crews (cn die va value : Nat) : (s.storeDone cn die va value).crews = s.crews := by
  unfold State.storeDone
  split <;> simp

@[simp] theorem State.writeBack_crews (core : Nat) (which : Nat → Bool) : (s.writeBack core which).crews = s.crews := by
  unfold State.writeBack
  refine State.foldl_crews (fun u m => ?_) _ _
  split
  · exact State.foldl_crews (fun _ _ => State.setBytes_crews ..) _ _
  · rfl

@[simp] theorem State.finishTask_crews (n status : Nat) : (s.finishTask n status).crews = s.crews := by
  unfold State.finishTask
  split
  · rfl
  · rw [State.storeDone_crews]
    exact State.foldl_crews (fun _ _ => State.writeBack_crews ..) _ _

@[simp] theorem State.checkTask_crews (n : Nat) : (s.checkTask n).crews = s.crews := by
  unfold State.checkTask
  split
  · rfl
  · dsimp only
    split
    · exact s.finishTask_crews ..
    · rfl

@[simp] theorem State.recordCoppice_crews (c : Coppice) (i state : Nat) (own : Bool) : (s.recordCoppice c i state own).crews = s.crews :=
  State.recordForeman_crews ..

@[simp] theorem State.setSibState_crews (c : Coppice) (i state : Nat) : (s.setSibState c i state).2.crews = s.crews :=
  State.recordCoppice_crews ..

theorem State.foldl_setSibState_crews (state : Nat) (is : List Nat) : ∀ a : Coppice × State,
    (is.foldl (fun (a : Coppice × State) i => a.2.setSibState a.1 i state) a).2.crews = a.2.crews := by
  induction is with
  | nil => exact fun _ => rfl
  | cons i is ih => exact fun a => (ih _).trans (State.setSibState_crews ..)

@[simp] theorem State.freeCoppice_crews (c : Coppice) : (s.freeCoppice c).crews = s.crews := by
  unfold State.freeCoppice
  split <;> rfl

end

section
variable {s : State} {k : Nat} (h : s.crews.get? k = none)
include h

theorem State.vacant_mapCrewAt (j : Nat) (f : Crew → Crew) : (s.mapCrewAt j f).crews.get? k = none := by
  unfold State.mapCrewAt
  split
  next c hj =>
    rw [State.crews_setCrewAt, if_neg, h]
    rintro rfl
    rw [hj] at h
    cases h
  · exact h

theorem State.vacant_countIssue (j : Nat) (c : Crew) (i : Instr) : (s.countIssue j c i).crews.get? k = none := by
  have hnote (u : State) (hu : u.crews = s.crews) (os : List Opnd) : (u.noteIssue j c os).crews.get? k = none := by
    unfold State.noteIssue
    exact State.vacant_mapCrewAt (by rwa [State.mapCore_crews, hu]) ..
  unfold State.countIssue
  dsimp only
  split
  · rw [State.countEvent_crews]
    exact hnote _ (by split <;> simp) _
  · exact hnote _ (by split <;> simp) _

theorem State.vacant_deliverAdv (task n : Nat) (x : Word) : (s.deliverAdv task n x).crews.get? k = none := by
  unfold State.deliverAdv
  dsimp only
  split
  · exact State.vacant_mapCrewAt h ..
  · split
    · rwa [State.mapTask_crews]
    · split
      · rwa [State.mapTask_crews]
      · rwa [State.setBytes_crews, State.setBytes_crews]
      · exact h

end

theorem State.vacant_foldl {k : Nat} {β : Type} {f : State → β → State} (hf : ∀ s b, s.crews.get? k = none → (f s b).crews.get? k = none)
    (l : List β) : ∀ s : State, s.crews.get? k = none → (l.foldl f s).crews.get? k = none := by
  induction l with
  | nil => exact fun _ h => h
  | cons b l ih => exact fun s h => ih _ (hf s b h)

section
variable {s : State} {k : Nat} (h : s.crews.get? k = none)
include h

theorem State.vacant_completeCoppice (c : Coppice) (timeout : Bool) : (s.completeCoppice c timeout).crews.get? k = none := by
  unfold State.completeCoppice
  dsimp only
  rw [State.freeCoppice_crews, State.recordCoppice_crews]
  show (State.mapTask _ _ _).crews.get? k = none
  rw [State.mapTask_crews]
  refine State.vacant_foldl (fun u i hu => ?_) _ _ ?_
  · split
    · exact hu
    · exact State.vacant_deliverAdv hu ..
  · rw [State.unitWrite_crews, State.unitWrite_crews, State.foldl_crews fun u i => u.writeSib_crews _ i]
    exact h

theorem State.vacant_expireCoppice (cn va : Nat) : (s.expireCoppice cn va).crews.get? k = none := by
  unfold State.expireCoppice
  split
  · exact h
  next c _ =>
    split
    · exact h
    · exact State.vacant_completeCoppice (by rwa [State.foldl_setSibState_crews]) _ true

theorem State.vacant_checkCoppice (cn va : Nat) : (s.checkCoppice cn va).crews.get? k = none := by
  unfold State.checkCoppice
  split
  · exact h
  · split
    · exact State.vacant_completeCoppice h _ false
    · exact h

theorem State.vacant_siblingRetired (cn va i n : Nat) : (s.siblingRetired cn va i n).crews.get? k = none := by
  have hexp := State.vacant_expireCoppice h cn va
  unfold State.siblingRetired
  dsimp only
  split
  · exact hexp
  · split
    · exact State.vacant_checkCoppice (by rwa [State.setSibState_crews]) ..
    · rwa [State.freeCoppice_crews]

theorem State.vacant_noteRetired (task n cn : Nat) (sib : Sibling) : (s.noteRetired task n cn sib).crews.get? k = none := by
  unfold State.noteRetired
  dsimp only
  rw [State.checkTask_crews]
  split
  · exact State.vacant_siblingRetired (s := s.dropBuffers task n) h ..
  · rwa [State.mapTask_crews]

end

/-- A crew that leaves its slot frees it. -/
theorem State.vacant_dropCrew (s : State) (k tag : Nat) : (s.dropCrew k tag).crews.get? k = none := by
  unfold State.dropCrew
  split
  · assumption
  · unfold State.vacate
    exact (SMap.get?_remove ..).trans (if_pos rfl)

/-- A crew that retires frees its slot (R77). -/
theorem State.vacant_retireCrew (s : State) (k : Nat) : (s.retireCrew k).crews.get? k = none := by
  unfold State.retireCrew
  split
  · assumption
  · exact State.vacant_noteRetired (State.vacant_dropCrew ..) ..

/-! ## EXIT -/

/-- With no job in the gate, CANCEL of a crew's dir 0 streams gives back its skid memory and does nothing else (R77, R211). -/
theorem State.cancelStreams_of_noJobs {s : State} {k : Nat} {c : Crew} (h : s.hasJobs k = false) (hc : s.crews.get? k = some c) :
    (s.cancelStreams k).crews.get? k = some { c with skids := [] } ∧ (s.cancelStreams k).focusCore = s.focusCore ∧
      (s.cancelStreams k).focusSlot = s.focusSlot ∧ ∀ n, ((s.cancelStreams k).core n).jobs = (s.core n).jobs ∧
        ((s.cancelStreams k).core n).tileOps = (s.core n).tileOps := by
  have hown : s.ownStreams k = [] := by
    unfold State.ownStreams
    refine List.filter_eq_nil_iff.mpr fun j hj => ?_
    have hother := List.any_eq_false.mp h j hj
    simp only [decide_eq_true_eq] at hother ⊢
    exact fun hmine => hother hmine.1
  unfold State.cancelStreams
  rw [hown, List.foldl_nil]
  dsimp only
  rw [hown, List.foldl_nil, hc]
  dsimp only
  split
  next hskids => exact ⟨by rw [hc, ← hskids], rfl, rfl, fun _ => ⟨rfl, rfl⟩⟩
  · refine ⟨by simp, rfl, rfl, fun n => ?_⟩
    rw [State.core_mapCore]
    split
    next hn => exact hn ▸ ⟨rfl, rfl⟩
    · exact ⟨rfl, rfl⟩

theorem State.fkey_of_scene {f : Crew → Crew} {s t : State} (h : t.scene f = s.scene f) : t.fkey = s.fkey := by
  have hfocus : (t.focusCore, t.focusSlot) = (s.focusCore, s.focusSlot) := (congrArg Scene.focus h :)
  obtain ⟨hcore, hslot⟩ := Prod.mk.inj hfocus
  unfold State.fkey
  rw [hcore, hslot]

/-- A crew with no tile operation under way and no peer to wait for settles by its accesses alone. -/
theorem State.settleCrew_of_noTile {s : State} {c : Crew} (hc : s.crew? = some c) (hpeer : ∀ p ∈ c.pend, p.kind.isRemote = false)
    (htile : ∀ o ∈ (s.core s.focusCore).tileOps, o.crew ≠ s.fkey) :
    ∃ c', s.settleCrew.crew? = some c' ∧ s.settleCrew.fkey = s.fkey ∧ c'.pend = [] ∧ c'.savedTrap = c.savedTrap := by
  have hscene := s.scene_still_perform s.fkey fun _ => true
  obtain ⟨c', hc', hstill, hpend⟩ := State.perform_crew (s := s) hc fun _ => true
  have hkey := State.fkey_of_scene hscene
  have hfocus : ((s.perform s.fkey fun _ => true).focusCore, (s.perform s.fkey fun _ => true).focusSlot) = (s.focusCore, s.focusSlot) :=
    (congrArg Scene.focus hscene :)
  have hops : ((s.perform s.fkey fun _ => true).core s.focusCore).tileOps = (s.core s.focusCore).tileOps :=
    congrFun (congrArg Scene.tileOps hscene) _
  have hempty : c'.pend = [] := List.eq_nil_iff_forall_not_mem.mpr fun q hq => by
    obtain ⟨p, hp, -, -, hleft⟩ := hpend q hq
    simp [hpeer p hp] at hleft
  have hsettle : s.settleCrew = s.perform s.fkey fun _ => true := by
    unfold State.settleCrew
    dsimp only
    rw [hkey, (Prod.mk.inj hfocus).1, hops, if_neg (by simpa using htile)]
  rw [hsettle]
  refine ⟨c', ?_, hkey, hempty, (congrArg Crew.savedTrap hstill :)⟩
  unfold State.crew?
  rwa [hkey]

/-- A crew without lanes, jobs, tile operations and peers to wait for retires at once (R77). -/
theorem retireBody_gone {s : State} {c : Crew} (hc : s.crew? = some c) (htrap : c.savedTrap = none) (hjobs : s.hasJobs s.fkey = false)
    (hpeer : ∀ p ∈ c.pend, p.kind.isRemote = false) (htile : ∀ o ∈ (s.core s.focusCore).tileOps, o.crew ≠ s.fkey) :
    ∃ u, retireBody id s = .gone u ∧ u.crews.get? s.fkey = none := by
  obtain ⟨hcancel, hcore, hslot, hsame⟩ := State.cancelStreams_of_noJobs hjobs hc
  have hkey : (s.cancelStreams s.fkey).fkey = s.fkey := congrArg₂ crewKey hcore hslot
  have hnone : (s.cancelStreams s.fkey).hasJobs s.fkey = false := by
    unfold State.hasJobs at hjobs ⊢
    rwa [(hsame _).1]
  have hcrew? : (s.cancelStreams s.fkey).crew? = some { c with skids := [] } := by
    unfold State.crew?
    rwa [hkey]
  obtain ⟨c', hc', hkey', hempty, hsaved⟩ := State.settleCrew_of_noTile hcrew? hpeer (by rwa [hcore, (hsame _).2, hkey])
  refine ⟨(s.cancelStreams s.fkey).settleCrew.retireCrew s.fkey, ?_, State.vacant_retireCrew ..⟩
  unfold retireBody
  dsimp only
  rw [hkey', hkey, hnone, if_neg Bool.false_ne_true, State.crew_of_crew? hc', hempty, hsaved, htrap, if_neg (by simp)]
  rfl

/-- The crew of an EXIT with a path left: the path's lanes run, and those of AM are over (R77). -/
def Crew.exited (c : Crew) (m : Mask) (ps : List (PcWord × Mask)) : Crew := { c with live := c.live &&& ~~~c.am, am := m, paths := ps }

theorem rest_of_exited {c c' : Crew} {m : Mask} {ps : List (PcWord × Mask)} (h : c'.rest = (c.exited m ps).rest) :
    c'.live = c.live &&& ~~~c.am ∧ c'.am = m ∧ c'.paths = ps ∧ { c' with live := c.live, am := c.am, paths := c.paths }.rest = c.rest :=
  ⟨(congrArg Crew.live h :), (congrArg Crew.am h :), (congrArg Crew.paths h :),
    (congrArg (fun x : Crew => { x with live := c.live, am := c.am, paths := c.paths }) h :)⟩

/-- Settles O18: the three endings of EXIT's body. -/
theorem exitEndsTheLanesOfThePath : Obligations.ExitEndsTheLanesOfThePath := by
  unfold Obligations.ExitEndsTheLanesOfThePath
  intro s c h
  have hc := crew?_of_issues h
  have hcrew := State.crew_of_crew? hc
  refine ⟨fun pc m rest hp => ?path, fun hp hlive hh => ?lanes, fun hp hlive hjobs hpend htile => ?last⟩
  case path =>
    have hstill := Still.setCrew s (c.exited m rest)
    refine completesAt_of_jump (u := s.setCrew (c.exited m rest)) h rfl (x := c.exited m rest) ?_ (State.crew?_setCrew ..) rfl ⟨rfl, rfl⟩
      fun t c' hl hs => ?_
    · dsimp only
      rw [hcrew, hp]
      rfl
    · obtain ⟨hlive, ham, hpaths, hrest⟩ := rest_of_exited hl.rest
      exact ⟨hlive, ham, hpaths, hrest, hl.sreg, hl.vreg, hl.modesKept, fun hq => hs hstill (.inr hq)⟩
  case lanes =>
    refine trapsWith_of_trap hc hh (by decide) _ h rfl ?_
    dsimp only
    rw [hcrew, hp]
    exact if_pos hlive
  case last =>
    have htrap : c.savedTrap = none := by
      simp only [Issues, Bool.and_eq_true, Option.isNone_iff_eq_none] at h
      tauto
    obtain ⟨u, hu, hfree⟩ := retireBody_gone hc htrap hjobs (by simpa using hpend) (by simpa using htile)
    refine ⟨_, issue_of_issues h _, ?_⟩
    dsimp only
    rw [hcrew, hp]
    dsimp only
    rw [if_neg (not_not.mpr hlive), hu]
    exact State.vacant_countIssue (by rwa [State.noteReplay_crews]) ..

end Sys2Proof.Machine
end

section
/-! PROOF of O38: what an instruction settles before it executes. -/

namespace Sys2Proof.Machine

/-! ## The checks, by the scene -/

section
variable {s t : State} (h : t.scene Crew.kept = s.scene Crew.kept)
include h

theorem State.regions_of_scene : t.regions = s.regions := (congrArg Scene.regions h :)

theorem State.level_of_scene (n : Nat) : (t.ctx n).level = (s.ctx n).level :=
  (congrArg Prod.fst (congrFun (congrArg Scene.rights h) n) :)

theorem State.owner_of_scene (n : Nat) : (t.ctx n).owner = (s.ctx n).owner :=
  (congrArg Prod.snd (congrFun (congrArg Scene.rights h) n) :)

/-- What some crew does that `Crew.kept` shows, some crew does in every state of the scene. -/
theorem State.any_crew_of_scene (p : Nat × Crew → Bool) (hp : ∀ e, p (e.1, e.2.kept) = p e) : t.crews.any p = s.crews.any p := by
  have hlist (u : State) : u.crews.any p = true ↔ ∃ a, (u.scene Crew.kept).listed a ∧ p a = true := by
    simp only [State.scene, List.any_eq_true, List.mem_map, exists_exists_and_eq_and, hp]
  exact Bool.eq_iff_iff.mpr (by rw [hlist t, hlist s, h])

theorem State.crewAt_of_scene {α : Type} (k : Nat) (d : α) (g : Crew → α) (hg : ∀ c, g c.kept = g c) :
    (t.crews.get? k).elim d g = (s.crews.get? k).elim d g := by
  have hat (u : State) : (u.crews.get? k).elim d g = ((u.scene Crew.kept).crewAt k).elim d g := by
    show _ = ((u.crews.get? k).map Crew.kept).elim d g
    cases u.crews.get? k with
    | none => rfl
    | some c => exact (hg c).symm
  rw [hat t, hat s, h]

theorem State.heldBack_of_scene (k : Nat) : t.heldBack k = s.heldBack k := by
  unfold State.heldBack
  rw [State.any_crew_of_scene h _ fun _ => by rfl, State.crewAt_of_scene h k false _ fun _ => by rfl]
  simp only [State.owner_of_scene h, show t.switching = s.switching from congrArg Scene.switching h,
    show t.current = s.current from congrArg Scene.current h]

theorem State.mayIssue_of_scene (k : Nat) : t.mayIssue k = s.mayIssue k := by
  unfold State.mayIssue State.draining State.pagerOn State.regionAt
  rw [State.heldBack_of_scene h, State.regions_of_scene h, State.crewAt_of_scene h k false _ fun _ => by rfl,
    show (t.dies.getD (k / 64 / 24) Die.blank).pager = _ from congrFun (congrArg Scene.pager h) _]
  rfl

variable {c c' : Crew} {i : Instr} (hk : c'.kept = c.kept)
include hk

theorem checkIssue_of_scene : checkIssue t c' i = checkIssue s c i := by
  calc checkIssue t c' i
    _ = checkIssue t c'.kept i := rfl
    _ = checkIssue t c.kept i := by rw [hk]
    _ = checkIssue t c i := rfl
    _ = checkIssue s c i := by
      unfold checkIssue State.spatialRole State.regionAt
      rw [State.level_of_scene h, State.regions_of_scene h, State.fkey_of_scene h]

theorem reaches_of_scene (hr : Reaches s c = true) (hc' : t.crew? = some c') : Reaches t c' = true := by
  simp only [Reaches, Bool.and_eq_true, decide_eq_true_eq, Option.isNone_iff_eq_none] at hr ⊢
  obtain ⟨⟨⟨-, hcan⟩, hmay⟩, htrap⟩ := hr
  refine ⟨⟨⟨hc', ?_⟩, ?_⟩, (congrArg Crew.savedTrap hk :).trans htrap⟩
  · exact (congrArg Crew.canIssue hk :).trans hcan
  · rwa [State.fkey_of_scene h, State.mayIssue_of_scene h]

end

/-! ## An instruction that passes its checks -/

/-- The end of an instruction sees its crew as it was, but for the registers and what was outstanding and unobserved. -/
theorem finish_kept (i : Instr) {c c' : Crew} (hk : c'.kept = c.kept) (r : Res) : finish i c' r = finish i c r := by
  have hsee (x : Crew) : finish i x r = finish i x.kept r := by cases r <;> rfl
  rw [hsee c', hsee c, hk]

/-- What an instruction of crew `c` that passes its checks does in a state in which nothing owes it a register (R58, R210). -/
def issueSettled (i : Instr) (c : Crew) (body : State → Res) (t : State) : State :=
  if t.crew.mustWait (operands c.mode i) || (storesMemory i && t.crew.awaitsGet) then t.stall t.fkey
  else finish i c (body (t.observe (operands c.mode i)))

theorem issueSettled_kept (i : Instr) {c c' : Crew} (hk : c'.kept = c.kept) : issueSettled i c' = issueSettled i c := by
  funext body t
  unfold issueSettled
  have hmode : c'.mode = c.mode := (congrArg Crew.mode hk :)
  rw [finish_kept i hk, hmode]

theorem issueState_of_checked {s : State} {c : Crew} {i : Instr} (hr : Reaches s c = true) (hk : checkIssue s c i = none)
    (body : State → Res) : issueState i s body = issueSettled i c body
      (if c.pend.any (fun p => (operands c.mode i).any p.targets) then s.perform s.fkey fun p => (operands c.mode i).any p.targets else s) := by
  simp only [Reaches, Bool.and_eq_true, decide_eq_true_eq, and_assoc] at hr
  obtain ⟨hc, hcan, hmay, htrap⟩ := hr
  unfold issueState
  rw [hc]
  dsimp only
  rw [if_neg (by rw [hcan, hmay]; decide), if_neg (by simp [Option.isNone_iff_eq_none.mp htrap]), hk]
  rfl

/-- Every instruction with a word but the operators is its body, issued: the body is the same in every state. -/
theorem exec_issues (i : Instr) (hop : isOperator i = false) (hev : isEvent i = false) : ∃ body, ∀ s, exec i s = issue i s body := by
  cases i
  all_goals try cases hop
  all_goals try cases hev
  all_goals exact ⟨_, fun _ => rfl⟩

/-! ## Performing what is owed -/

theorem Pend.targets_congr {p q : Pend} (hkind : q.kind = p.kind) (hsize : q.size = p.size) : q.targets = p.targets := by
  funext o
  unfold Pend.targets
  rw [hkind, hsize]

section
variable {s : State} {c : Crew} {i : Instr} (hr : Reaches s c = true) (hk : checkIssue s c i = none) (body : State → Res)
include hr hk

/-- The accesses that owe the instruction its registers may as well be performed first (R58). -/
theorem issueState_perform :
    let want := fun p : Pend => (operands c.mode i).any p.targets
    c.pend.any want = true → issueState i s body = issueState i (s.perform s.fkey want) body := by
  intro want hp
  have hc : s.crews.get? s.fkey = some c := crew?_of_reaches hr
  obtain ⟨c', hc', hstill, hleft⟩ := State.perform_crew hc want
  have hkept : c'.kept = c.kept := congrArg (fun x : Crew => { x with unobs := [] }) hstill
  have hscene : (s.perform s.fkey want).scene Crew.kept = s.scene Crew.kept :=
    State.scene_comp (s.scene_still_perform s.fkey want) fun x => { x with unobs := [] }
  have hkey := State.fkey_of_scene hscene
  have hcrew : (s.perform s.fkey want).crew? = some c' := by unfold State.crew?; rwa [hkey]
  have hmode : c'.mode = c.mode := (congrArg Crew.mode hkept :)
  have hdone : (s.perform s.fkey want).perform s.fkey want = s.perform s.fkey want := State.perform_of_none hc' fun q hq => by
    obtain ⟨p, -, hkind, hsize, hp⟩ := hleft q hq
    rw [hkind, show want q = want p by simp only [want, Pend.targets_congr hkind hsize]]
    exact hp
  rw [issueState_of_checked hr hk, if_pos hp, issueState_of_checked (reaches_of_scene hscene hkept hr hcrew)
    ((checkIssue_of_scene hscene hkept).trans hk), hmode, hkey, issueSettled_kept i hkept]
  show issueSettled i c body _ = issueSettled i c body (if c'.pend.any want then _ else _)
  split
  · rw [show (s.perform s.fkey want).perform s.fkey _ = _ from hdone]
  · rfl

end

/-! ## Observing jobs -/

/-- An operand that uses its register as `use` says names the token register of the job (R195). -/
def meetsToken (os : List Opnd) (use : Opnd → Bool) (u : Unobserved) : Bool :=
  os.any fun o => use o && (!o.vec && spansMeet o.reg o.span u.token 1)

/-- The operand reads its register. -/
def Opnd.reads (o : Opnd) : Bool := o.use = .read || o.use = .both

/-- The jobs that an instruction observes, and what it leaves of the others: one whose token it overwrites has no register any more. -/
def seenBy (os : List Opnd) (us : List Unobserved) : List Unobserved := us.filter (meetsToken os Opnd.reads)

/-- See `seenBy`. -/
def unseenBy (os : List Opnd) (us : List Unobserved) : List Unobserved :=
  (us.filter fun u => !meetsToken os Opnd.reads u).map fun u => if meetsToken os (fun o => o.use = .write) u then { u with token := 64 } else u

/-- A crew with the jobs `us` unobserved. -/
def Crew.unobserving (us : List Unobserved) (c : Crew) : Crew := { c with unobs := us }

theorem State.observe_eq (s : State) (os : List Opnd) : s.observe os =
    if (seenBy os s.crew.unobs).isEmpty && decide (unseenBy os s.crew.unobs = s.crew.unobs) then s
    else (seenBy os s.crew.unobs).foldl (fun t u => t.acquire s.fkey u.scope) (s.mapCrew (Crew.unobserving (unseenBy os s.crew.unobs))) := by
  unfold State.observe seenBy unseenBy meetsToken Opnd.reads
  rfl

/-- Every scalar operand lies below register 64. -/
def ScalarsBelow64 (os : List Opnd) : Prop := ∀ o ∈ os, o.vec = false → o.reg + o.span ≤ 64

theorem eq_none_of_allocTrap : ∀ {o : Option Opnd} {e : Option (Nat × Nat)}, allocTrap o e = none → o = none
  | none, _, _ => rfl
  | some _, some _, h => by cases h
  | some _, none, h => by cases h

theorem scalarsBelow64_of_check {s : State} {c : Crew} {i : Instr} (hk : checkIssue s c i = none) (h64 : c.sregs ≤ 64) :
    ScalarsBelow64 (operands c.mode i) := by
  intro o ho hv
  rcases checkIssue_cases s c i with ⟨cause, tval, h, -⟩ | ⟨-, h⟩
  · rw [hk] at h
    cases h
  · have hfits := List.find?_eq_none.mp (eq_none_of_allocTrap (h.symm.trans hk)) o ho
    simp only [hv, Bool.false_eq_true, if_false, decide_eq_true_eq] at hfits
    omega

section
variable {os : List Opnd} (h : ScalarsBelow64 os) (use : Opnd → Bool) (us : List Unobserved)
include h

/-- No operand names register 64, which stands for a token that was overwritten. -/
theorem meetsToken_64 (u : Unobserved) : meetsToken os use { u with token := 64 } = false := by
  refine List.any_eq_false.mpr fun o ho hm => ?_
  simp only [Bool.and_eq_true, Bool.not_eq_true', spansMeet, decide_eq_true_eq] at hm
  obtain ⟨-, hv, -, hlt⟩ := hm
  exact absurd (h o ho hv) (by omega)

theorem unmet_of_mem_unseenBy {u : Unobserved} (hu : u ∈ unseenBy os us) :
    meetsToken os Opnd.reads u = false ∧ meetsToken os (fun o => o.use = .write) u = false := by
  obtain ⟨x, hx, rfl⟩ := List.mem_map.mp hu
  have hread := (List.mem_filter.mp hx).2
  split
  · exact ⟨meetsToken_64 h _ x, meetsToken_64 h _ x⟩
  next hw => exact ⟨by simpa using hread, by simpa using hw⟩

theorem seenBy_unseenBy : seenBy os (unseenBy os us) = [] :=
  List.filter_eq_nil_iff.mpr fun u hu => by rw [(unmet_of_mem_unseenBy h us hu).1]; decide

theorem unseenBy_unseenBy : unseenBy os (unseenBy os us) = unseenBy os us := by
  have hall : (unseenBy os us).filter (fun u => !meetsToken os Opnd.reads u) = unseenBy os us :=
    List.filter_eq_self.mpr fun u hu => by rw [(unmet_of_mem_unseenBy h us hu).1]; rfl
  rw [unseenBy, hall]
  exact (List.map_congr_left fun u hu => by rw [(unmet_of_mem_unseenBy h us hu).2]; rfl).trans (List.map_id _)

end

/-- A crew that has no more outstanding than before, and otherwise differs in its registers alone. -/
def Crew.Fewer (c c' : Crew) : Prop := c'.still = c.still ∧ ∀ q ∈ c'.pend, ∃ p ∈ c.pend, q.kind = p.kind ∧ q.size = p.size

theorem Crew.Settled.fewer {want : Pend → Bool} {c c' : Crew} (h : c.Settled want c') : c.Fewer c' := by
  obtain ⟨hstill, hpend⟩ := h
  refine ⟨hstill, fun q hq => ?_⟩
  obtain ⟨p, hp, hkind, hsize, -⟩ := hpend q hq
  exact ⟨p, hp, hkind, hsize⟩

theorem Crew.Fewer.trans {a b c : Crew} (h : a.Fewer b) (h' : b.Fewer c) : a.Fewer c := by
  refine ⟨h'.1.trans h.1, fun q hq => ?_⟩
  obtain ⟨p, hp, hkind, hsize⟩ := h'.2 q hq
  obtain ⟨r, hr, hkind', hsize'⟩ := h.2 p hp
  exact ⟨r, hr, hkind.trans hkind', hsize.trans hsize'⟩

theorem State.scene_acquire (s : State) (k scope : Nat) : (s.acquire k scope).scene Crew.still = s.scene Crew.still := by
  unfold State.acquire State.acquireL1
  split
  · rw [State.scene_mapCore _ _ _ _ fun _ => by rfl, State.scene_still_perform]
  · exact s.scene_still_perform ..

theorem State.acquire_crew {s : State} {k : Nat} {c : Crew} (hc : s.crews.get? k = some c) (scope : Nat) :
    ∃ c', (s.acquire k scope).crews.get? k = some c' ∧ c.Fewer c' := by
  obtain ⟨c', hc', hs⟩ := State.perform_crew hc fun p => p.kind.isLoad
  refine ⟨c', ?_, hs.fewer⟩
  unfold State.acquire State.acquireL1
  split
  · rwa [State.mapCore_crews]
  · exact hc'

theorem State.acquires_crew {k : Nat} (us : List Unobserved) : ∀ {s : State} {c : Crew}, s.crews.get? k = some c →
    ∃ c', (us.foldl (fun t u => t.acquire k u.scope) s).crews.get? k = some c' ∧ c.Fewer c' := by
  induction us with
  | nil => exact fun {_} {c} hc => ⟨c, hc, rfl, fun q hq => ⟨q, hq, rfl, rfl⟩⟩
  | cons u us ih =>
    intro s c hc
    obtain ⟨c₁, hc₁, h₁⟩ := State.acquire_crew hc u.scope
    obtain ⟨c₂, hc₂, h₂⟩ := ih hc₁
    exact ⟨c₂, hc₂, h₁.trans h₂⟩

/-- An observation leaves the crew with the jobs not seen, and with no more outstanding than before. -/
theorem State.observe_crew {s : State} {c : Crew} (hc : s.crew? = some c) (os : List Opnd) : (s.observe os).scene Crew.kept = s.scene Crew.kept ∧
    ∃ c', (s.observe os).crew? = some c' ∧ (Crew.unobserving (unseenBy os c.unobs) c).Fewer c' := by
  have hcrew := State.crew_of_crew? hc
  rw [State.observe_eq, hcrew]
  split
  next hid =>
    simp only [Bool.and_eq_true, decide_eq_true_eq] at hid
    exact ⟨rfl, c, hc, by rw [Crew.unobserving, hid.2]; exact ⟨rfl, fun q hq => ⟨q, hq, rfl, rfl⟩⟩⟩
  · have hget := State.crew?_mapCrew s (Crew.unobserving (unseenBy os c.unobs))
    have hsame : (s.mapCrew (Crew.unobserving (unseenBy os c.unobs))).scene Crew.kept = s.scene Crew.kept := by
      rw [State.mapCrew_eq_mapCrewAt (by rw [hc]; rfl)]
      exact s.scene_mapCrewAt _ _ _ fun _ => rfl
    rw [hcrew] at hget
    obtain ⟨c', hc', hfewer⟩ := State.acquires_crew (seenBy os c.unobs) hget
    have hscene := (State.scene_comp (State.scene_foldl Crew.still (fun t (u : Unobserved) => t.scene_acquire s.fkey u.scope)
      (seenBy os c.unobs) _) fun x => { x with unobs := [] }).trans hsame
    refine ⟨hscene, c', ?_, hfewer⟩
    unfold State.crew?
    rwa [State.fkey_of_scene hscene]

/-- A second observation finds nothing. -/
theorem State.observe_observe {s : State} {c : Crew} (hc : s.crew? = some c) {os : List Opnd} (h : ScalarsBelow64 os) :
    (s.observe os).observe os = s.observe os := by
  obtain ⟨-, c', hc', hstill, -⟩ := State.observe_crew hc os
  have hunobs : c'.unobs = unseenBy os c.unobs := (congrArg Crew.unobs hstill :)
  rw [State.observe_eq (s.observe os), State.crew_of_crew? hc', hunobs, seenBy_unseenBy h, unseenBy_unseenBy h]
  exact if_pos (by simp)

section
variable {c c' : Crew} (h : c.Fewer c')
include h

/-- What no outstanding access is, none of fewer is. -/
theorem Crew.Fewer.pend_any {P : Pend → Bool} (hP : ∀ p q : Pend, q.kind = p.kind → q.size = p.size → P q = P p)
    (hnone : c.pend.any P = false) : c'.pend.any P = false := by
  refine List.any_eq_false.mpr fun q hq => ?_
  obtain ⟨p, hp, hkind, hsize⟩ := h.2 q hq
  rw [hP p q hkind hsize]
  exact List.any_eq_false.mp hnone p hp

theorem Crew.Fewer.mustWait {os : List Opnd} (hfree : c.mustWait os = false) : c'.mustWait os = false := by
  have htokens : c'.tokens = c.tokens := (congrArg Crew.tokens h.1 :)
  refine List.any_eq_false.mpr fun o ho hwait => List.any_eq_false.mp hfree o ho ?_
  simp only [Bool.and_eq_true, Bool.or_eq_true] at hwait ⊢
  obtain ⟨huse, htoken | hpend⟩ := hwait
  · exact ⟨huse, .inl (htokens ▸ htoken)⟩
  · refine ⟨huse, .inr (by_contra fun hno => ?_)⟩
    have hnone := h.pend_any (P := fun p => p.kind.isRemote && p.targets o)
      (fun p q hkind hsize => by rw [hkind, Pend.targets_congr hkind hsize]) (by simpa using hno)
    rw [hnone] at hpend
    cases hpend

theorem Crew.Fewer.awaitsGet (hget : c.awaitsGet = false) : c'.awaitsGet = false :=
  h.pend_any (fun p q hkind _ => by rw [hkind]) hget

end

section
variable {s : State} {c : Crew} {i : Instr} (hr : Reaches s c = true) (hk : checkIssue s c i = none) (body : State → Res)
include hr hk

/-- Where no access owes it a register and it waits for nothing, an instruction may as well come after its observations (R195). -/
theorem issueState_observe (h64 : c.sregs ≤ 64) (hp : c.pend.any (fun p => (operands c.mode i).any p.targets) = false)
    (hwait : (c.mustWait (operands c.mode i) || (storesMemory i && c.awaitsGet)) = false) :
    issueState i s body = issueState i (s.observe (operands c.mode i)) body := by
  have hc := crew?_of_reaches hr
  obtain ⟨hscene, c', hc', hfewer⟩ := State.observe_crew hc (operands c.mode i)
  have hkept : c'.kept = c.kept := congrArg (fun x : Crew => { x with unobs := [] }) hfewer.1
  have hmode : c'.mode = c.mode := (congrArg Crew.mode hkept :)
  have hp' : c'.pend.any (fun p => (operands c.mode i).any p.targets) = false :=
    hfewer.pend_any (fun p q hkind hsize => by rw [Pend.targets_congr hkind hsize]) hp
  have hwait' : (c'.mustWait (operands c.mode i) || (storesMemory i && c'.awaitsGet)) = false := by
    simp only [Bool.or_eq_false_iff, Bool.and_eq_false_iff] at hwait ⊢
    exact ⟨hfewer.mustWait hwait.1, hwait.2.imp_right hfewer.awaitsGet⟩
  rw [issueState_of_checked hr hk, issueState_of_checked (reaches_of_scene hscene hkept hr hc') ((checkIssue_of_scene hscene hkept).trans hk),
    hmode, hp, hp', issueSettled_kept i hkept, if_neg Bool.false_ne_true, if_neg Bool.false_ne_true]
  unfold issueSettled
  rw [State.crew_of_crew? hc, State.crew_of_crew? hc', hwait, hwait', if_neg Bool.false_ne_true, if_neg Bool.false_ne_true,
    State.observe_observe hc (scalarsBelow64_of_check hk h64)]

end

/-- Settles O38: an issue performs what is owed, then waits, then observes, and each of these done beforehand leaves it as it was. -/
theorem waitingInstructionsSettleFirst : Obligations.WaitingInstructionsSettleFirst := by
  unfold Obligations.WaitingInstructionsSettleFirst
  intro s c i hop hev hr hcheck h64
  dsimp only
  have hk := Option.isNone_iff_eq_none.mp hcheck
  obtain ⟨body, hexec⟩ := exec_issues i hop hev
  refine ⟨fun hp => ?owed, fun hp hwait => ?waits, fun hp hfree => ?observes⟩
  case owed => rw [hexec, hexec, issue, issue, issueState_perform hr hk body hp]
  case waits =>
    rw [hexec, issue, issueState_of_checked hr hk, hp, if_neg Bool.false_ne_true, issueSettled,
      State.crew_of_crew? (crew?_of_reaches hr), if_pos hwait]
  case observes => rw [hexec, hexec, issue, issue, issueState_observe hr hk body h64 hp hfree]

end Sys2Proof.Machine
end

section
/-! PROOF of O26: loads and stores that translate stand outstanding. -/

namespace Sys2Proof.Machine

/-! ## What a classification leaves of the scene -/

/-- A crew without the translations that its lanes hold. -/
def Crew.unplaced (c : Crew) : Crew := { c with lastPage := [] }

theorem State.scene_mapDie (f : Crew → Crew) (s : State) (n : Nat) (g : Die → Die) (h : ∀ d, (g d).pager = d.pager) :
    (s.mapDie n g).scene f = s.scene f := by
  have hpager : (fun k => ((s.mapDie n g).die k).pager) = fun k => (s.die k).pager := by
    funext k
    rw [State.die_mapDie]
    split
    next hk => rw [h, hk]
    · rfl
  unfold State.scene
  rw [hpager]
  rfl

section
variable (s : State)

@[simp] theorem State.scene_takeFree (f : Crew → Crew) : s.takeFree.2.scene f = s.scene f := rfl

theorem State.scene_holdTlb (core : Nat) (lane : Option (Nat × Nat)) (e : TlbEntry) :
    (s.holdTlb core lane e).scene Crew.unplaced = s.scene Crew.unplaced := by
  have hpick : (if (s.core core).tlb.length < 64 ∧ (s.die (dieOf core)).tlb.length < 8192 then ((0 : DWord), s) else s.takeFree).2.scene
      Crew.unplaced = s.scene Crew.unplaced := by split <;> rfl
  unfold State.holdTlb
  dsimp only
  split
  · rw [State.scene_mapCrewAt Crew.unplaced _ _ _ fun _ => by rfl, State.scene_mapDie Crew.unplaced _ _ _ fun _ => by rfl,
      State.scene_mapCore Crew.unplaced _ _ _ fun _ => by rfl, hpick]
  · rw [State.scene_mapDie Crew.unplaced _ _ _ fun _ => by rfl, State.scene_mapCore Crew.unplaced _ _ _ fun _ => by rfl, hpick]

@[simp] theorem State.scene_countTlb (f : Crew → Crew) (core : Nat) (lane : Option (Nat × Nat)) (m : TlbMiss) :
    (s.countTlb core lane m).scene f = s.scene f := by
  unfold State.countTlb
  cases m <;> simp

@[simp] theorem State.scene_heldTlb (f : Crew → Crew) (core cn va : Nat) : (s.heldTlb core cn va).2.scene f = s.scene f := by
  unfold State.heldTlb
  dsimp only
  split <;> rfl

theorem State.scene_xlate (core : Nat) (lane : Option (Nat × Nat)) (cn va : Nat) (need : Need) :
    (s.xlate core lane cn va need).2.scene Crew.unplaced = s.scene Crew.unplaced := by
  unfold State.xlate
  split
  · rfl
  · split
    · rfl
    · rfl
    · split
      · rfl
      · split
        next e m t ht =>
          have hheld := s.scene_heldTlb Crew.unplaced core cn va
          rw [ht] at hheld
          rw [State.scene_holdTlb, State.scene_countTlb]
          exact hheld
        next m t ht =>
          have hheld := s.scene_heldTlb Crew.unplaced core cn va
          rw [ht] at hheld
          dsimp only
          split
          · rw [State.scene_countTlb]; exact hheld
          · rw [State.scene_countTlb]; exact hheld
          · rw [State.scene_holdTlb, State.scene_countTlb]; exact hheld

end

theorem State.scene_xlateAll (core : Nat) (key : Option Nat) (cn : Nat) (need : Need) (lanes : List (Nat × Nat)) :
    ∀ s : State, (s.xlateAll core key cn need lanes).2.scene Crew.unplaced = s.scene Crew.unplaced := by
  induction lanes with
  | nil => exact fun _ => rfl
  | cons l lanes ih => exact fun s => (ih _).trans (s.scene_xlate ..)

/-- Each lane is translated at its address. -/
theorem State.lanes_xlateAll (core : Nat) (key : Option Nat) (cn : Nat) (need : Need) (lanes : List (Nat × Nat)) :
    ∀ s : State, (s.xlateAll core key cn need lanes).1.map (fun x => (x.lane, x.va)) = lanes := by
  induction lanes with
  | nil => exact fun _ => rfl
  | cons l lanes ih => exact fun s => congrArg (l :: ·) (ih _)

/-- Where every lane goes, the lanes are all there, and the access has been translated and nothing more. -/
theorem State.classify_go {s t : State} {core : Nat} {key : Option Nat} {cn size : Nat} {need : Need} {isLoad : Bool}
    {lanes : List (Nat × Nat)} {xs : List LaneXlat} (h : s.classify core key cn size need isLoad lanes = (.go xs [], t)) :
    xs.map (fun x => (x.lane, x.va)) = lanes ∧ t.scene Crew.unplaced = s.scene Crew.unplaced ∧ t.mem = s.mem := by
  have hmem := s.classify_mem core key cn size need isLoad lanes
  rw [h] at hmem
  refine and_assoc.mp ⟨?_, hmem⟩
  unfold State.classify at h
  split at h
  · cases h
  dsimp only at h
  split at h
  · cases h
  split at h
  · cases h
  split at h
  · cases h
  split at h
  · cases h
  obtain ⟨hgo, rfl⟩ := Prod.mk.inj h
  obtain ⟨hdone, habsent⟩ := Class.go.inj hgo
  have hall : (s.xlateAll core key cn need lanes).1 = xs := by
    rw [← hdone]
    exact (List.filter_eq_self.mpr fun x hx => by simpa using List.filter_eq_nil_iff.mp habsent x hx).symm
  exact ⟨hall ▸ State.lanes_xlateAll core key cn need lanes s, State.scene_xlateAll core key cn need lanes s⟩

/-! ## A crew whose access stands outstanding -/

/-- The entries that an access leaves: none without a lane, and two for one of 16 bytes (R154). -/
def Pend.entries (p : Pend) (clock : Nat) : List Pend := if p.accs.isEmpty then [] else ({ p with issuedAt := clock } : Pend).halves

/-- The crew of an access that has become outstanding. -/
def Crew.entered (c : Crew) (ps : List Pend) : Crew := { c with pend := c.pend ++ ps }

theorem State.enterPend_crew? {s : State} {c : Crew} (hc : s.crew? = some c) (p : Pend) :
    (s.enterPend p).crew? = some (c.entered (p.entries s.clock)) := by
  unfold State.enterPend Pend.entries Crew.entered
  split
  · rw [hc, List.append_nil]
  · rw [State.crew?_mapCrew, State.crew_of_crew? hc]

theorem State.enterPend_fkey (s : State) (p : Pend) : (s.enterPend p).fkey = s.fkey := by
  unfold State.enterPend
  split <;> rfl

theorem finish_done_mem {i : Instr} (c : Crew) (u : State) (hq : flowKind i = .plain) : (finish i c (.done u)).mem = u.mem := by
  unfold finish
  rw [State.countIssue_mem, flow_mem i c none (by simp) (.inl hq)]
  rfl

/-- A load or a store whose lanes all go completes with its access outstanding. -/
theorem completes_enterPend {s t : State} {c : Crew} {i : Instr} {body : State → Res} {g : Crew → Pend} {P : Crew → Prop}
    (h : Issues s c i = true) (he : exec i s = issue i s body) (hq : flowKind i = .plain)
    (hs : t.scene Crew.unplaced = s.scene Crew.unplaced) (hm : t.mem = s.mem) (hb : body s = .done (t.enterPend (g t.crew)))
    (hg : ∀ c, g c.unplaced = g c) (hP : ∀ c', c'.pend = c.pend ++ (g c).entries t.clock → P c') :
    Completes s c i (fun t c' => OnlyIssued c c' ∧ t.mem = s.mem ∧ P c') := by
  obtain ⟨x, hx, hplace⟩ := State.crew_of_scene hs (crew?_of_issues h)
  have hkey := State.fkey_of_scene hs
  have hcrew : t.crew? = some x := by unfold State.crew?; rwa [hkey]
  have hsame : g t.crew = g c := by rw [State.crew_of_crew? hcrew, ← hg x, hplace, hg]
  have hpend : x.pend = c.pend := (congrArg Crew.pend hplace :)
  rw [hsame] at hb
  obtain ⟨v, c', hexec, hget, hpc, hissued, hframes, hwaiting, hl⟩ := completes_of_done (P := fun _ c' => c'.Like (x.entered ((g c).entries t.clock)))
    h he hb (State.enterPend_crew? hcrew _) ((State.enterPend_fkey ..).trans hkey)
    ⟨(congrArg Crew.pc hplace :), (congrArg Crew.issued hplace :), (congrArg Crew.frames hplace :)⟩ fun _ _ hl _ => hl
  have hmem : v.mem = s.mem := by
    have hv : v = finish i c (.done (t.enterPend (g c))) := by
      rw [he, issue_of_issues h body, hb] at hexec
      exact (Host.Outcome.next.inj hexec).symm
    rw [hv, finish_done_mem c _ hq, State.enterPend_mem, hm]
  refine ⟨v, c', hexec, hget, hpc, hissued, hframes, hwaiting, ⟨?_, ?_, ?_, ?_⟩, hmem, hP c' ?_⟩
  · exact (congrArg (fun y : Crew => { y with pend := c.pend, lastPage := c.lastPage }) hl.rest :).trans
      (congrArg (fun y : Crew => { y with pend := c.pend, lastPage := c.lastPage }.rest) hplace :)
  · exact hl.sreg.trans (congrArg Crew.sreg hplace :)
  · exact hl.vreg.trans (congrArg Crew.vreg hplace :)
  · exact ⟨hl.mode.trans (congrArg Crew.mode hplace :), hl.modex.trans (congrArg Crew.modex hplace :),
      hl.preds.trans (congrArg Crew.preds hplace :), hl.bars.trans (congrArg Crew.bars hplace :), hl.gens.trans (congrArg Crew.gens hplace :)⟩
  · exact (congrArg Crew.pend hl.rest :).trans (hpend ▸ rfl)

/-! ## What the entries hold -/

/-- A lane of an entry: its place, and the data that it carries. -/
def LaneXlat.acc (x : LaneXlat) (data cmp : Nat → Nat) (gens : Nat → List Nat) : LaneAcc :=
  ⟨x.lane, x.va, x.loc, data x.lane, cmp x.lane, gens x.lane, true⟩

/-- The upper half of a lane of 16 bytes. -/
def LaneAcc.upper (a : LaneAcc) : LaneAcc := { a with va := a.va + 8, loc := ⟨a.loc.idx + 8, a.loc.cached⟩, data := a.data / 2 ^ 64 }

section
variable {c c' : Crew} {xs : List LaneXlat} {clock : Nat} {kind : PendKind} {size : Nat} {data cmp : Nat → Nat} {gens : Nat → List Nat}

theorem entries_of_none : (c.pendOf kind size [] data cmp gens).entries clock = [] := rfl

theorem entries_pendOf (hx : xs ≠ []) : (c.pendOf kind size xs data cmp gens).entries clock =
    ({ c.pendOf kind size xs data cmp gens with issuedAt := clock } : Pend).halves := by
  refine if_neg ?_
  cases xs with
  | nil => exact absurd rfl hx
  | cons x xs => exact Bool.false_ne_true

/-- An access of up to 8 bytes has one entry. -/
theorem entries_of_one (hx : xs ≠ []) (hs : size ≠ 16) : ∃ p : Pend, (c.pendOf kind size xs data cmp gens).entries clock = [p] ∧
    p.size = size ∧ p.kind = kind ∧ p.accs = xs.map fun x => x.acc data cmp gens :=
  ⟨_, (entries_pendOf hx).trans (if_neg hs), rfl, rfl, rfl⟩

/-- An access of 16 bytes has two entries, the halves (R154). -/
theorem entries_of_two (hx : xs ≠ []) : ∃ p q : Pend, (c.pendOf kind 16 xs data cmp gens).entries clock = [p, q] ∧
    p.size = 8 ∧ q.size = 8 ∧ p.kind = kind ∧ q.kind = (c.pendOf kind 16 xs data cmp gens).upper.kind ∧
    p.accs = xs.map (fun x => x.acc data cmp gens) ∧ q.accs = xs.map fun x => (x.acc data cmp gens).upper :=
  ⟨_, _, entries_pendOf hx, rfl, rfl, rfl, rfl, rfl, List.map_map⟩

theorem loadLeaves_of_entries {dst : Nat} {sx : Bool} (h16 : size = 16 → sx = false)
    (h : c'.pend = c.pend ++ (c.pendOf (.load dst sx false) size xs data cmp gens).entries clock) :
    LoadLeaves c c' dst size sx xs := by
  unfold LoadLeaves
  split
  next hx => rw [h, hx, entries_of_none, List.append_nil]
  next hx =>
    split
    next hs =>
      obtain rfl := hs
      obtain rfl := h16 rfl
      obtain ⟨p, q, hpq, hp, hq, hpk, hqk, hpa, hqa⟩ := entries_of_two hx
      exact ⟨p, q, h.trans (congrArg _ hpq), hp, hq, hpk, hqk, by rw [hpa, List.map_map]; rfl, by rw [hqa, List.map_map]; rfl⟩
    next hs =>
      obtain ⟨p, hp, hps, hpk, hpa⟩ := entries_of_one hx hs
      exact ⟨p, h.trans (congrArg _ hp), hps, hpk, by rw [hpa, List.map_map]; rfl⟩

/-- The data of a store are the low bytes of its registers. -/
theorem storeData_mod (c : Crew) (d l : Nat) (hs : size ∈ [1, 2, 4, 8]) : c.storeData d size l % 2 ^ (8 * size) = laneData c d size l := by
  have h0 := (c.getV d l).isLt
  have h1 := (c.getV (d + 1) l).isLt
  unfold laneData Crew.storeData
  simp only [List.mem_cons, List.not_mem_nil, or_false] at hs
  rcases hs with rfl | rfl | rfl | rfl <;> simp [packElems, List.range_succ] <;> omega

theorem storeData_lower (c : Crew) (d l : Nat) : c.storeData d 16 l % 2 ^ 64 = laneData c d 8 l := by
  have h0 := (c.getV d l).isLt
  have h1 := (c.getV (d + 1) l).isLt
  unfold laneData Crew.storeData
  simp [packElems, List.range_succ]
  omega

theorem storeData_upper (c : Crew) (d l : Nat) : c.storeData d 16 l / 2 ^ 64 % 2 ^ 64 = laneData c (d + 2) 8 l := by
  have h0 := (c.getV d l).isLt
  have h1 := (c.getV (d + 1) l).isLt
  have h2 := (c.getV (d + 2) l).isLt
  have h3 := (c.getV (d + 3) l).isLt
  unfold laneData Crew.storeData
  simp [packElems, List.range_succ, Nat.add_assoc]
  omega

theorem storeLeaves_of_entries {src : Nat} (hs : size ∈ [1, 2, 4, 8, 16])
    (h : c'.pend = c.pend ++ (c.pendOf .store size xs (c.storeData src size) cmp gens).entries clock) : StoreLeaves c c' src size xs := by
  unfold StoreLeaves
  split
  next hx => rw [h, hx, entries_of_none, List.append_nil]
  next hx =>
    split
    next h16 =>
      obtain rfl := h16
      obtain ⟨p, q, hpq, hp, hq, hpk, hqk, hpa, hqa⟩ := entries_of_two hx
      refine ⟨p, q, h.trans (congrArg _ hpq), hp, hq, hpk, hqk, by rw [hpa, List.map_map]; rfl, by rw [hqa, List.map_map]; rfl, ?_, ?_⟩
      · rw [hpa]
        exact List.forall_mem_map.mpr fun x _ => storeData_lower c src x.lane
      · rw [hqa]
        exact List.forall_mem_map.mpr fun x _ => storeData_upper c src x.lane
    next h16 =>
      obtain ⟨p, hp, hps, hpk, hpa⟩ := entries_of_one hx h16
      refine ⟨p, h.trans (congrArg _ hp), hps, hpk, by rw [hpa, List.map_map]; rfl, ?_⟩
      rw [hpa]
      exact List.forall_mem_map.mpr fun x _ => storeData_mod c src x.lane (by simpa [h16] using hs)

end

/-! ## The addresses of an access -/

theorem toNat_add_scaledImm (x : DWord) (k : BitVec 8) (size : Nat) :
    (x + scaledImm k size).toNat = (((x.toNat : Int) + k.toInt * size) % 2 ^ 64).toNat := by
  have hx : x + scaledImm k size = BitVec.ofInt 64 ((x.toNat : Int) + k.toInt * size) := by
    rw [BitVec.ofInt_add, BitVec.ofInt_mul, BitVec.ofInt_natCast, BitVec.ofNat_toNat, BitVec.setWidth_eq, BitVec.ofInt_natCast]
    rfl
  rw [hx, BitVec.toNat_ofInt]
  rfl

theorem laneAddrs_eq (c : Crew) (a : Nat) (k : BitVec 8) (size : Nat) : c.laneAddrs a (scaledImm k size) = laneVas c a k.toInt size := by
  unfold Crew.laneAddrs laneVas
  simp only [toNat_add_scaledImm]
  rfl

theorem indexedAddrs_eq (c : Crew) (a b : Nat) : c.indexedAddrs a b = indexedVas c a b := by
  have hva (l : Nat) : (c.getSS a + (c.getV b l).zeroExtend 64 * 4).toNat = ((c.getSS a).toNat + (c.getV b l).toNat * 4) % 2 ^ 64 := by
    bv_omega
  unfold Crew.indexedAddrs indexedVas
  simp only [hva]
  rfl

/-! ## Loads and stores -/

section
variable {s t : State} {c : Crew} {i : Instr} {d size : Nat} {lanes : Crew → List (Nat × Nat)} {vas : List (Nat × Nat)} {xs : List LaneXlat}
  (h : Issues s c i = true) (hq : flowKind i = .plain) (hv : lanes c = vas)
include h hq hv

theorem completes_vectorLoad {sx : Bool} (he : exec i s = issue i s (loadBody d size lanes)) (hsx : c.signedLoad size = sx)
    (h16 : size = 16 → sx = false) (hgo : s.classify s.focusCore (some s.fkey) c.ctx size .read true vas = (.go xs [], t)) :
    Completes s c i (fun t c' => OnlyIssued c c' ∧ t.mem = s.mem ∧ xs.map (fun x => (x.lane, x.va)) = vas ∧ LoadLeaves c c' d size sx xs) := by
  obtain ⟨hlanes, hscene, hmem⟩ := State.classify_go hgo
  refine completes_enterPend h he hq hscene hmem (g := fun c => c.pendOf (.load d (c.signedLoad size) false) size xs (fun _ => 0) (fun _ => 0)
    fun _ => []) ?_ (fun _ => rfl) fun c' hc' => ⟨hlanes, loadLeaves_of_entries h16 (hsx ▸ hc')⟩
  unfold loadBody vectorAccess
  rw [State.crew_of_crew? (crew?_of_issues h), hv, hgo]

theorem completes_vectorStore (he : exec i s = issue i s (storeBody d size lanes)) (hs : size ∈ [1, 2, 4, 8, 16])
    (hgo : s.classify s.focusCore (some s.fkey) c.ctx size .write false vas = (.go xs [], t)) :
    Completes s c i (fun t c' => OnlyIssued c c' ∧ t.mem = s.mem ∧ xs.map (fun x => (x.lane, x.va)) = vas ∧ StoreLeaves c c' d size xs) := by
  obtain ⟨hlanes, hscene, hmem⟩ := State.classify_go hgo
  refine completes_enterPend h he hq hscene hmem (g := fun c => c.pendOf .store size xs (c.storeData d size) (fun _ => 0) fun _ => [])
    ?_ (fun _ => rfl) fun c' hc' => ⟨hlanes, storeLeaves_of_entries hs hc'⟩
  unfold storeBody vectorAccess
  rw [State.crew_of_crew? (crew?_of_issues h), hv, hgo]

end

section
variable {s t : State} {c : Crew} {i : Instr} {d a size : Nat} {k : BitVec 8} {x : LaneXlat} (h : Issues s c i = true)
  (hq : flowKind i = .plain) (hs : size ≠ 16)
include h hq hs

theorem completes_scalarLoad (he : exec i s = issue i s (scalarLoadBody d a size k)) {va : Nat}
    (hva : (c.getSS a + scaledImm k size).toNat = va) (hgo : s.classify s.focusCore none c.ctx size .read true [(0, va)] = (.go [x] [], t)) :
    Completes s c i (fun t c' => OnlyIssued c c' ∧ t.mem = s.mem ∧ ∃ p : Pend, c'.pend = c.pend ++ [p] ∧ p.size = size ∧
      p.kind = .sload d ∧ p.accs.map (fun y : LaneAcc => (y.va, y.loc)) = [(va, x.loc)]) := by
  obtain ⟨hlanes, hscene, hmem⟩ := State.classify_go hgo
  refine completes_enterPend h he hq hscene hmem (g := fun c => c.pendOf (.sload d) size [x] (fun _ => 0) (fun _ => 0) fun _ => [])
    ?_ (fun _ => rfl) fun c' hc' => ?_
  · unfold scalarLoadBody scalarAccess
    rw [State.crew_of_crew? (crew?_of_issues h), hva, hgo]
  · obtain ⟨p, hp, hps, hpk, hpa⟩ := entries_of_one (xs := [x]) (List.cons_ne_nil x []) hs
    obtain ⟨-, hx⟩ := Prod.mk.inj (List.cons.inj hlanes).1
    exact ⟨p, hc'.trans (congrArg _ hp), hps, hpk, by rw [hpa, ← hx]; rfl⟩

theorem completes_scalarStore (he : exec i s = issue i s (scalarStoreBody d a size k)) {va : Nat}
    (hva : (c.getSS a + scaledImm k size).toNat = va) (hgo : s.classify s.focusCore none c.ctx size .write false [(0, va)] = (.go [x] [], t)) :
    Completes s c i (fun t c' => OnlyIssued c c' ∧ t.mem = s.mem ∧ ∃ p : Pend, c'.pend = c.pend ++ [p] ∧ p.size = size ∧
      p.kind = .store ∧ p.accs.map (fun y : LaneAcc => (y.va, y.loc, y.data)) = [(va, x.loc, c.getSN (size / 4) d)]) := by
  obtain ⟨hlanes, hscene, hmem⟩ := State.classify_go hgo
  refine completes_enterPend h he hq hscene hmem (g := fun c => c.pendOf .store size [x] (fun _ => c.getSN (size / 4) d) (fun _ => 0) fun _ => [])
    ?_ (fun _ => rfl) fun c' hc' => ?_
  · unfold scalarStoreBody scalarAccess
    rw [State.crew_of_crew? (crew?_of_issues h), hva, hgo]
  · obtain ⟨p, hp, hps, hpk, hpa⟩ := entries_of_one (xs := [x]) (List.cons_ne_nil x []) hs
    obtain ⟨-, hx⟩ := Prod.mk.inj (List.cons.inj hlanes).1
    exact ⟨p, hc'.trans (congrArg _ hp), hps, hpk, by rw [hpa, ← hx]; rfl⟩

end

/-- Settles O26: each form is a load or a store of its size at its lanes' addresses. -/
theorem loadsAndStoresBecomeOutstanding : Obligations.LoadsAndStoresBecomeOutstanding := by
  unfold Obligations.LoadsAndStoresBecomeOutstanding
  refine ⟨fun s s2 c d a b k xs => ⟨fun h => ?ldb, fun h => ?ldh, fun h => ?ldw, fun h => ?ldd, fun h => ?ldq, fun h => ?ldx, fun h => ?stb,
    fun h => ?sth, fun h => ?stw, fun h => ?std, fun h => ?stq, fun h => ?stx⟩, fun s s2 c d a k x => ?_⟩
  case ldb => exact completes_vectorLoad h rfl (laneAddrs_eq ..) rfl rfl fun h => absurd h (by decide)
  case ldh => exact completes_vectorLoad h rfl (laneAddrs_eq ..) rfl rfl fun h => absurd h (by decide)
  case ldw => exact completes_vectorLoad h rfl (laneAddrs_eq ..) rfl rfl fun _ => rfl
  case ldd => exact completes_vectorLoad h rfl (laneAddrs_eq ..) rfl rfl fun _ => rfl
  case ldq => exact completes_vectorLoad h rfl (laneAddrs_eq ..) rfl rfl fun _ => rfl
  case ldx => exact completes_vectorLoad h rfl (indexedAddrs_eq ..) rfl rfl fun _ => rfl
  case stb => exact completes_vectorStore h rfl (laneAddrs_eq ..) rfl (by decide)
  case sth => exact completes_vectorStore h rfl (laneAddrs_eq ..) rfl (by decide)
  case stw => exact completes_vectorStore h rfl (laneAddrs_eq ..) rfl (by decide)
  case std => exact completes_vectorStore h rfl (laneAddrs_eq ..) rfl (by decide)
  case stq => exact completes_vectorStore h rfl (laneAddrs_eq ..) rfl (by decide)
  case stx => exact completes_vectorStore h rfl (indexedAddrs_eq ..) rfl (by decide)
  dsimp only
  refine ⟨fun h => ?sld, fun h => ?sld64, fun h => ?sst, fun h => ?sst64⟩
  case sld => exact completes_scalarLoad h rfl (by decide) rfl (toNat_add_scaledImm ..)
  case sld64 => exact completes_scalarLoad h rfl (by decide) rfl (toNat_add_scaledImm ..)
  case sst => exact completes_scalarStore h rfl (by decide) rfl (toNat_add_scaledImm ..)
  case sst64 => exact completes_scalarStore h rfl (by decide) rfl (toNat_add_scaledImm ..)

end Sys2Proof.Machine
end

section
/-! PROOF of O57's negation: a reply of memory that lands with the TLBI of a migration, and the notification it posts. -/

namespace Sys2Proof.Machine

/-- The context: its vault window is that of die 0's vault 0, its page tables are at 0, one request from another die brings a page to the
count that MIGTHR names, and its MIGQ has 16 entries at VA 0. -/
def migratedCtx : Ctx := { Ctx.blank with vaultbase := 1, migthr := 1, migq := 4 }

/-- A MEMLD slot's reply from a page of die 0 to core 24, of die 1. -/
def migratedReply : MemReply := ⟨0, 0, 0, 0, 2 ^ 30, ⟨0x20000, true⟩⟩

/-- The live region of core 24, with one slot, whose load is answered by the reply. -/
def migratedRegion : Region :=
  { ctx := 0, control := 0, cores := [24], imageVa := 0, image := 0, size := 64, scope := 1, regionId := 1, cw := 0, token := 0, live := true
    held := false, quiet := false, paused := false, stopping := none, stopped := false, halted := [], round := 1, poisons := 0, cwfail := false
    first := none, complete := false, cwPark := none, exitSeq := 0, cfgSeq := 0, saving := 0, lastFire := 0, corrected := 0, reloads := 0
    discarded := 0, logs := [], handlers := []
    slots := [(0, { SpSlot.load ⟨0, 0, 0, 0, 0, 0, 0, 0⟩ 0 with loads := [none] })] }

/-- The reset state with that context and region; the page at VA 2^30 is die 0's second, and die 0's page 2^20 is free. -/
def migratedState : State :=
  { State.reset with
    ctxs := [(0, migratedCtx)]
    mem := [(0, 0x01), (1, 0x20), (0x2000, 0x01), (0x2001, 0x40), (0x4040, 0x01), (0x4041, 0x60), (0x6000, 0x0F), (0x6002, 0x02)]
    dies := [(0, { Die.blank with freePages := [2 ^ 20] })]
    cores := [(24, { Core.blank with replies := [migratedReply] })]
    regions := [(0, migratedRegion)] }

/-- The leaf of the page that moves. -/
def migratedLeaf : TlbEntry := ⟨0, 2 ^ 30, 0x20000, 0x20000, true, true, false, false⟩

/-- The migration to die 0's free page may start. -/
theorem migratedState_walk : migratedState.walk 0 (2 ^ 30) = .leaf migratedLeaf ∧ migratedState.entryOf 0 migratedLeaf.va = some 0x6000 ∧
    migratedState.migTarget 0 migratedLeaf (2 ^ 20 / 2 ^ 37) = true := by
  decide +kernel

/-- A byte of the queue before the migration's first step and after it: the count of die 1's requests in the notification. -/
theorem migration_notifies : migratedState.byte (2 ^ 52 + 9) = 0 ∧
    (match execMigration 0 (2 ^ 30) (2 ^ 20) migratedState with | .next t => t.byte (2 ^ 52 + 9) | _ => 0) = 1 := by
  decide +kernel

/-- Refutes O57: the first step of a migration also changes bytes outside the page's entry, because its TLBI lands the reply of a
MEMLD, whose request posts a notification to the context's MIGQ (R168, R287, R409). -/
theorem not_faultsPagesAndTimeoutsAreServed : ¬ Obligations.FaultsPagesAndTimeoutsAreServed := by
  rintro ⟨-, -, -, -, -, hstart, -⟩
  obtain ⟨hwalk, hentry, htarget⟩ := migratedState_walk
  obtain ⟨hbefore, hafter⟩ := migration_notifies
  obtain ⟨t, hexec, -, hframe, -⟩ := hstart migratedState 0 (2 ^ 30) (2 ^ 20) 0x6000 migratedLeaf (by decide) (by decide) rfl
    hwalk hentry rfl (by decide) (by decide) (by decide) htarget (by decide) (by decide)
  have hkept := hframe (2 ^ 52 + 9) (by decide)
  rw [show execMigration 0 (2 ^ 30) (2 ^ 20) migratedState = .next t from hexec] at hafter
  rw [hbefore] at hkept
  exact absurd (hafter.symm.trans hkept) (by decide)

end Sys2Proof.Machine
end

section
/-! PROOF of O60, the layer of numbers: the elements of a word, exact integers written to them, and what a rounding can give. -/

namespace Sys2Proof.Machine

/-! ## Shapes of operands (R83) -/

/-- The registers that an operand of `w`-bit elements takes. -/
def spanFor (w : Nat) : Nat := if w = 64 then 2 else 1

/-- The `w`-bit elements that it holds. -/
def countFor (w : Nat) : Nat := if w = 64 then 1 else 32 / w

/-- The widths of elements (Table 4.1). -/
def elemWidths : List Nat := [4, 8, 16, 32, 64]

section
variable {w : Nat} (hw : w ∈ elemWidths)
include hw

theorem pos_of_elemWidths : 0 < w := by
  simp only [elemWidths, List.mem_cons, List.not_mem_nil, or_false] at hw
  omega

theorem max_eq_spanFor : max 32 w = 32 * spanFor w := by
  simp only [elemWidths, List.mem_cons, List.not_mem_nil, or_false] at hw
  rcases hw with rfl | rfl | rfl | rfl | rfl <;> rfl

theorem mul_countFor : w * countFor w = max 32 w := by
  simp only [elemWidths, List.mem_cons, List.not_mem_nil, or_false] at hw
  rcases hw with rfl | rfl | rfl | rfl | rfl <;> rfl

theorem lt_countFor_iff {k : Nat} : k < countFor w ↔ w * k < max 32 w := by
  rw [← mul_countFor hw, Nat.mul_lt_mul_left (pos_of_elemWidths hw)]

theorem mul_add_le_max {k : Nat} (hk : w * k < max 32 w) : w * k + w ≤ max 32 w := by
  rw [← mul_countFor hw, ← Nat.mul_succ]
  exact Nat.mul_le_mul_left w ((lt_countFor_iff hw).mpr hk)

end

/-- A type of Table 4.1 is one of 14 codes. -/
theorem lt_of_typeWidth {t w : Nat} (h : typeWidth t = some w) : t < 14 := by
  by_contra ht
  unfold typeWidth at h
  rw [if_neg (by simp; omega), if_neg (by simp; omega), if_neg (by simp; omega), if_neg (by omega), if_neg (by simp; omega)] at h
  cases h

/-- What a type code's width says of its operands. -/
theorem shape_of_typeWidth {t w : Nat} (h : typeWidth t = some w) :
    widthOf t = w ∧ spanOf t = spanFor w ∧ countOf t = countFor w ∧ w ∈ elemWidths := by
  have ht := lt_of_typeWidth h
  interval_cases t <;> cases h <;> decide

/-- A type is an integer type or a float type, and its code gives the same to the model. -/
theorem kind_of_typeWidth {t w : Nat} (h : typeWidth t = some w) :
    (∃ sg, intType t = some (w, sg) ∧ floatType t = none ∧ elemKind t = .int ⟨sg, w⟩) ∨
      (∃ f, intType t = none ∧ floatType t = some f ∧ elemKind t = .flt f ∧ f.width = w) := by
  have ht := lt_of_typeWidth h
  interval_cases t <;> cases h <;> simp [intType, floatType, elemKind, Fmt.width]

theorem typeWidth_of_intType {t w : Nat} {sg : Bool} (h : intType t = some (w, sg)) : typeWidth t = some w := by
  unfold intType at h
  split at h <;> cases h <;> rfl

theorem elemKind_of_intType {t w : Nat} {sg : Bool} (h : intType t = some (w, sg)) : elemKind t = .int ⟨sg, w⟩ := by
  unfold intType at h
  split at h <;> cases h <;> rfl

/-! ## Elements of a number -/

theorem elemAt_lt (w x k : Nat) : elemAt w x k < 2 ^ w := Nat.mod_lt _ (Nat.two_pow_pos w)

/-- An element does not see the bits above it. -/
theorem elemAt_mod {w k n : Nat} (x : Nat) (h : w * k + w ≤ n) : elemAt w (x % 2 ^ n) k = elemAt w x k := by
  unfold elemAt
  apply Nat.eq_of_testBit_eq
  intro j
  simp only [Nat.testBit_mod_two_pow, Nat.testBit_div_two_pow]
  by_cases hj : j < w
  · simp [hj, show j + w * k < n by omega]
  · simp [hj]

/-- Element `k` of packed elements is the `k`th, cut to its width. -/
theorem elemAt_packElems (w : Nat) : ∀ (es : List Nat) (k : Nat) (hk : k < es.length), elemAt w (packElems w es) k = es[k] % 2 ^ w
  | e :: es, 0, _ => by simp [elemAt, packElems]
  | e :: es, k + 1, hk => by
    rw [List.getElem_cons_succ, ← elemAt_packElems w es k (by simpa using hk)]
    have hpow : 2 ^ (w * (k + 1)) = 2 ^ w * 2 ^ (w * k) := by rw [← pow_add, Nat.mul_succ, Nat.add_comm]
    rw [elemAt, packElems, hpow, ← Nat.div_div_eq_div_mul, Nat.add_mul_div_left _ _ (Nat.two_pow_pos w),
      Nat.div_eq_of_lt (Nat.mod_lt e (Nat.two_pow_pos w)), Nat.zero_add, elemAt]

/-! ## Exact integers (R84, R108) -/

theorem read_eq_elemInt {w x : Nat} (sg : Bool) (hx : x < 2 ^ w) : (IntFmt.mk sg w).read x = elemInt w sg x := by
  simp [IntFmt.read, elemInt, Nat.mod_eq_of_lt hx]

theorem lowBits_eq_writtenInt (w : Nat) (sg : Bool) (v : Int) : lowBits w v = writtenInt w sg false v := by
  simp [lowBits, writtenInt]

theorem lowBits_lt (w : Nat) (v : Int) : lowBits w v < 2 ^ w := by
  have h := Int.emod_lt_of_pos v (show (0 : Int) < 2 ^ w by positivity)
  have h0 := Int.emod_nonneg v (show (2 ^ w : Int) ≠ 0 by positivity)
  unfold lowBits
  zify
  rwa [Int.toNat_of_nonneg h0]

theorem writtenInt_lt (w : Nat) (sg sat : Bool) (v : Int) : writtenInt w sg sat v < 2 ^ w := lowBits_lt ..

theorem clamp_eq_max_min {lo hi v : Int} (h : lo ≤ hi) : (if hi < v then hi else if v < lo then lo else v) = max lo (min hi v) := by
  split_ifs <;> omega

section
variable {w : Nat} (hw : 0 < w)
include hw

/-- Twice the weight of the top bit is the number of values. -/
theorem two_pow_eq_half : (2 : Int) ^ w = 2 * 2 ^ (w - 1) := by
  rw [← pow_succ', Nat.sub_add_cancel hw]

/-- The element holds the integer that was written, where it fits. -/
theorem elemInt_lowBits {sg : Bool} {v : Int} (hlo : (IntFmt.mk sg w).min ≤ v) (hhi : v ≤ (IntFmt.mk sg w).max) :
    elemInt w sg (lowBits w v) = v := by
  have hpow := two_pow_eq_half hw
  have hpos : (0 : Int) < 2 ^ (w - 1) := by positivity
  have hcast : ((2 ^ (w - 1) : Nat) : Int) = 2 ^ (w - 1) := by push_cast; rfl
  simp only [IntFmt.min, IntFmt.max] at hlo hhi
  unfold elemInt lowBits
  by_cases hv : 0 ≤ v
  · have hmod : v % 2 ^ w = v := Int.emod_eq_of_lt hv (by split at hhi <;> omega)
    rw [hmod, if_neg]
    · omega
    · cases sg <;> simp at hhi ⊢
      omega
  · have hmod : v % 2 ^ w = v + 2 ^ w := by
      rw [← Int.add_emod_right]
      exact Int.emod_eq_of_lt (by split at hlo <;> omega) (by omega)
    rw [hmod, if_pos]
    · split at hlo <;> omega
    · cases sg <;> simp at hlo ⊢ <;> omega

theorem elemInt_mem_range {x : Nat} (sg : Bool) (hx : x < 2 ^ w) :
    (IntFmt.mk sg w).min ≤ elemInt w sg x ∧ elemInt w sg x ≤ (IntFmt.mk sg w).max := by
  have hpow := two_pow_eq_half hw
  have hcast : ((2 ^ (w - 1) : Nat) : Int) = 2 ^ (w - 1) := by push_cast; rfl
  have hx' : (x : Int) < 2 ^ w := by exact_mod_cast hx
  simp only [IntFmt.min, IntFmt.max, elemInt]
  cases sg with
  | false => simp; omega
  | true =>
    simp only [if_true, Bool.true_and, decide_eq_true_eq]
    split <;> omega

theorem fitInt_eq_writtenInt (sg sat : Bool) (v : Int) : fitInt ⟨sg, w⟩ sat v = writtenInt w sg sat v := by
  cases sat with
  | false => exact lowBits_eq_writtenInt ..
  | true =>
    obtain ⟨hlo, hhi⟩ := elemInt_mem_range hw sg (Nat.two_pow_pos w)
    exact congrArg (lowBits w) (clamp_eq_max_min (hlo.trans hhi))

end

/-! ## Encodings keep their width (R85 to R92) -/

namespace Fmt
variable (f : Fmt)

theorem two_mul_signBit : 2 * f.signBit = 2 ^ f.width := by cases f <;> rfl

theorem maxBits_lt : f.maxBits < f.signBit := by cases f <;> decide

theorem nanBits_lt : f.nanBits < f.signBit := by cases f <;> decide

theorem infBits_lt {b : Nat} (h : f.infBits = some b) : b < f.signBit := by
  cases f <;> cases h <;> decide

/-- A sign and a magnitude are an encoding. -/
theorem sign_add_lt {neg : Bool} {b : Nat} (hb : b < f.signBit) : (if neg then f.signBit else 0) + b < 2 ^ f.width := by
  rw [← two_mul_signBit]
  split <;> omega

theorem nanBits_lt_width : f.nanBits < 2 ^ f.width := by
  have h := f.nanBits_lt
  rw [← two_mul_signBit]
  omega

end Fmt

theorem overflowBits_lt (f : Fmt) (r : Rnd) (neg : Bool) : overflowBits f r neg < 2 ^ f.width := by
  unfold overflowBits
  dsimp only
  split
  · exact f.sign_add_lt f.maxBits_lt
  · split
    next b hb => exact f.sign_add_lt (f.infBits_lt hb)
    next =>
      split
      · exact f.nanBits_lt_width
      · exact f.sign_add_lt f.maxBits_lt

theorem finishFloat_lt (f : Fmt) (r : Rnd) (neg : Bool) (b : Nat) : finishFloat f r neg b < 2 ^ f.width := by
  have hmax := f.maxBits_lt
  unfold finishFloat
  dsimp only
  split
  · exact overflowBits_lt ..
  · split
    · exact f.sign_add_lt (b := 0) (by omega)
    · exact f.sign_add_lt (by omega)

/-- A rounding gives an encoding of the format. -/
theorem rndFloat_lt (f : Fmt) (r : Rnd) (v : Val) : rndFloat f r v < 2 ^ f.width := by
  have hmax := f.maxBits_lt
  cases v with
  | nan => exact f.nanBits_lt_width
  | inf neg =>
    dsimp only [rndFloat]
    split
    next b hb => exact f.sign_add_lt (f.infBits_lt hb)
    next =>
      split
      · exact f.nanBits_lt_width
      · exact f.sign_add_lt f.maxBits_lt
  | num neg n d =>
    dsimp only [rndFloat]
    split
    · exact f.sign_add_lt (b := 0) (by omega)
    · exact finishFloat_lt ..

theorem invalidBits_lt {t : IntFmt} (ht : 0 < t.width) : t.invalidBits < 2 ^ t.width := by
  have h : 2 ^ t.width = 2 * 2 ^ (t.width - 1) := by rw [← pow_succ', Nat.sub_add_cancel ht]
  have h0 := Nat.two_pow_pos (t.width - 1)
  unfold IntFmt.invalidBits
  split <;> omega

/-- A rounding to an integer type gives an element of its width. -/
theorem rndInt_lt {t : IntFmt} (ht : 0 < t.width) (r : Rnd) (v : Val) : rndInt t r v < 2 ^ t.width := by
  have hinv := invalidBits_lt ht
  cases v with
  | nan =>
    dsimp only [rndInt]
    split
    · exact Nat.two_pow_pos _
    · exact hinv
  | inf neg =>
    dsimp only [rndInt]
    split
    · exact lowBits_lt ..
    · exact hinv
  | num neg n d =>
    have hfit (x : Int) : (if t.min ≤ x ∧ x ≤ t.max then lowBits t.width x
        else if r.sat then lowBits t.width (if t.max < x then t.max else t.min) else t.invalidBits) < 2 ^ t.width := by
      split
      · exact lowBits_lt ..
      · split
        · exact lowBits_lt ..
        · exact hinv
    exact hfit _

/-- Rounded toward zero, binary32 takes no note of saturation: the overflow value is the largest finite one (Table 4.3). -/
theorem rndFloat_truncating (sat ftz : Bool) (gen : Nat) (v : Val) :
    rndFloat .binary32 ⟨1, sat, ftz, gen⟩ v = rndFloat .binary32 ⟨1, false, ftz, 0⟩ v := by
  cases v with
  | nan => rfl
  | inf neg => rfl
  | num neg n d => simp [rndFloat, roundsUp, finishFloat, overflowBits]

/-! ## The smallest and the largest of a list -/

theorem foldl_smaller {e : Int} {xs : List Int} (he : ∀ x ∈ xs, x ≤ e) :
    let y := xs.foldl (fun m x => if x < m then x else m) e
    (xs = [] → y = e) ∧ (xs ≠ [] → y ∈ xs ∧ ∀ x ∈ xs, y ≤ x) := by
  have hmin : (fun m x : Int => if x < m then x else m) = min := by
    funext m x
    split <;> omega
  dsimp only
  rw [hmin, List.foldl_min]
  refine ⟨fun h => by simp [h], fun h => ?_⟩
  obtain ⟨y, hy⟩ := Option.isSome_iff_exists.mp (List.isSome_min?_of_ne_nil h)
  obtain ⟨hmem, hle⟩ := List.min?_eq_some_iff.mp hy
  rw [hy, Option.getD_some, min_eq_right (he y hmem)]
  exact ⟨hmem, hle⟩

theorem foldl_larger {e : Int} {xs : List Int} (he : ∀ x ∈ xs, e ≤ x) :
    let y := xs.foldl (fun m x => if m < x then x else m) e
    (xs = [] → y = e) ∧ (xs ≠ [] → y ∈ xs ∧ ∀ x ∈ xs, x ≤ y) := by
  have hmax : (fun m x : Int => if m < x then x else m) = max := by
    funext m x
    split <;> omega
  dsimp only
  rw [hmax, List.foldl_max]
  refine ⟨fun h => by simp [h], fun h => ?_⟩
  obtain ⟨y, hy⟩ := Option.isSome_iff_exists.mp (List.isSome_max?_of_ne_nil h)
  obtain ⟨hmem, hle⟩ := List.max?_eq_some_iff.mp hy
  rw [hy, Option.getD_some, max_eq_right (he y hmem)]
  exact ⟨hmem, hle⟩

end Sys2Proof.Machine
end

section
/-! PROOF of O60, the layer of lanes: what a loop over lanes writes, and the completion of an instruction that is one. -/

namespace Sys2Proof.Machine

/-! ## Completions -/

section
variable {s : State} {c : Crew} {i : Instr} {pc : PcWord} {P Q : State → Crew → Prop}

theorem CompletesAt.imp (h : CompletesAt s c i pc P) (hPQ : ∀ t c', P t c' → Q t c') : CompletesAt s c i pc Q := by
  obtain ⟨t, c', he, hc', hpc, hissued, hframes, hwait, hP⟩ := h
  exact ⟨t, c', he, hc', hpc, hissued, hframes, hwait, hPQ t c' hP⟩

/-- An instruction has one outcome, of which both statements speak. -/
theorem CompletesAt.and (h : CompletesAt s c i pc P) (h' : CompletesAt s c i pc Q) : CompletesAt s c i pc (fun t c' => P t c' ∧ Q t c') := by
  obtain ⟨t, c', he, hc', hpc, hissued, hframes, hwait, hP⟩ := h
  obtain ⟨u, x, he', hx, -, -, -, -, hQ⟩ := h'
  obtain rfl : t = u := Host.Outcome.next.inj (he.symm.trans he')
  obtain rfl : c' = x := Option.some.inj (hc'.symm.trans hx)
  exact ⟨t, c', he, hc', hpc, hissued, hframes, hwait, hP, hQ⟩

end

/-! ## Registers after a loop over lanes -/

theorem Crew.setVN_eq (l : Nat) : ∀ (span n x : Nat) (c : Crew), ∃ v, c.setVN n l x span = { c with vreg := v }
  | 0, _, _, c => ⟨c.vreg, rfl⟩
  | span + 1, n, x, c => by
    obtain ⟨v, hv⟩ := Crew.setVN_eq l span (n + 1) (x / 2 ^ 32) (c.setV n l (BitVec.ofNat 32 x))
    exact ⟨v, hv⟩

theorem Crew.setLanes_eq (c : Crew) (n span : Nat) (m : Mask) (f : Nat → Nat) : ∃ v, c.setLanes n span m f = { c with vreg := v } := by
  unfold Crew.setLanes
  generalize lanesOf m = ls
  induction ls generalizing c with
  | nil => exact ⟨c.vreg, rfl⟩
  | cons l ls ih =>
    obtain ⟨v, hv⟩ := Crew.setVN_eq l span n (f l) c
    obtain ⟨v', hv'⟩ := ih (c.setVN n l (f l) span)
    exact ⟨v', hv'.trans (by rw [hv])⟩

/-- The registers of a lane after a write of a span of them. -/
theorem Crew.getV_setVN {l j : Nat} (hl : l < 64) (hj : j < 64) (r : Nat) : ∀ (span n x : Nat) (c : Crew),
    (c.setVN n l x span).getV r j = if j = l ∧ n ≤ r ∧ r < n + span then BitVec.ofNat 32 (x / 2 ^ (32 * (r - n))) else c.getV r j
  | 0, n, _, c => (if_neg (by omega)).symm
  | span + 1, n, x, c => by
    rw [Crew.setVN, Crew.getV_setVN hl hj r span (n + 1), Crew.getV_setV_lane c n r _ hl hj]
    by_cases hr : r = n
    · subst hr
      simp [and_comm]
    · have hdiv (h : n + 1 ≤ r) : x / 2 ^ 32 / 2 ^ (32 * (r - (n + 1))) = x / 2 ^ (32 * (r - n)) := by
        rw [Nat.div_div_eq_div_mul, ← pow_add, show 32 + 32 * (r - (n + 1)) = 32 * (r - n) by omega]
      by_cases h : j = l ∧ n + 1 ≤ r ∧ r < n + 1 + span
      · rw [if_pos h, if_pos (by omega), hdiv h.2.1]
      · rw [if_neg h, if_neg (by tauto), if_neg (by omega)]

/-- The registers after a loop over lanes: each lane of the mask holds its value. -/
theorem Crew.getV_setLanes (c : Crew) (n span : Nat) (m : Mask) (f : Nat → Nat) (r : Nat) {j : Nat} (hj : j < 64) :
    (c.setLanes n span m f).getV r j =
      if m.getLsbD j = true ∧ n ≤ r ∧ r < n + span then BitVec.ofNat 32 (f j / 2 ^ (32 * (r - n))) else c.getV r j := by
  have hfold (ls : List Nat) (hls : ∀ l ∈ ls, l < 64) (c : Crew) : (ls.foldl (fun c l => c.setVN n l (f l) span) c).getV r j =
      if j ∈ ls ∧ n ≤ r ∧ r < n + span then BitVec.ofNat 32 (f j / 2 ^ (32 * (r - n))) else c.getV r j := by
    induction ls generalizing c with
    | nil => simp
    | cons l ls ih =>
      rw [List.foldl_cons, ih (fun l' h => hls l' (List.mem_cons_of_mem l h)), Crew.getV_setVN (hls l List.mem_cons_self) hj]
      by_cases hjl : j = l
      · subst hjl
        by_cases hr : n ≤ r ∧ r < n + span <;> simp [hr]
      · simp [hjl]
  rw [Crew.setLanes, hfold _ (fun l h => (mem_lanesOf.mp h).1)]
  simp only [mem_lanesOf, hj, true_and]

/-! ## The element loop without draws is one write in each lane -/

theorem Crew.elems_of_not_draws (c : Crew) (f : Nat → Rnd → Nat) (n : Nat) (g : Word) :
    c.elems false f n g = ((List.range n).map (fun k => f k (c.rndWith g)), g) := by
  unfold Crew.elems
  induction n with
  | zero => rfl
  | succ n ih => rw [List.range_succ, List.foldl_append, ih, List.map_append]; rfl

theorem Crew.laneLoop_of_not_draws (c : Crew) (m : Mask) (d span n w : Nat) (f : Nat → Nat → Rnd → Nat) :
    c.laneLoop m d span n w false f =
      c.setLanes d span m (fun l => packElems w ((List.range n).map (fun k => f l k (c.rndWith (c.gen l))))) := by
  unfold Crew.laneLoop Crew.setLanes
  simp only [Crew.elems_of_not_draws, Bool.false_eq_true, if_false]

/-! ## What a crew holds after a completed write in lanes -/

/-- A completed instruction has written `g l` to the `span` registers from v[d] on in each lane `l` of `m`, and nothing else. -/
structure LanesWritten (s : State) (c : Crew) (m : Mask) (d span : Nat) (g : Nat → Nat) (t : State) (c' : Crew) : Prop where
  still : Still s t
  rest : c'.rest = c.rest
  sreg : c'.sreg = c.sreg
  modes : ModesKept c c'
  getV : ∀ r l, l < 64 → c'.getV r l =
    if m.getLsbD l = true ∧ d ≤ r ∧ r < d + span then BitVec.ofNat 32 (g l / 2 ^ (32 * (r - d))) else c.getV r l

section
variable {s : State} {c : Crew} {i : Instr} {f : Crew → Crew} {d w : Nat}

theorem completes_lanesWritten {m : Mask} {span : Nat} {g : Nat → Nat} (h : Issues s c i = true) (he : exec i s = issueCrew i s f)
    (hp : flowKind i = .plain) (hf : f c = c.setLanes d span m g) : Completes s c i (LanesWritten s c m d span g) := by
  obtain ⟨v, hv⟩ := c.setLanes_eq d span m g
  have hfv := hf.trans hv
  refine completes_issueCrew h he (by rw [hfv]; exact ⟨rfl, rfl, rfl⟩) fun t c' hl hs =>
    ⟨hs (.inl hp), hl.rest.trans (by rw [hfv]; rfl), hl.sreg.trans (by rw [hfv]), ?_, fun r l hlt => ?_⟩
  · rw [hfv] at hl
    exact hl.modesKept
  · rw [hl.getV, hf, Crew.getV_setLanes c d span m g r hlt]

/-- The operand at v[d] after a write in lanes. -/
theorem LanesWritten.operand {m : Mask} {g : Nat → Nat} {t : State} {c' : Crew} (h : LanesWritten s c m d (spanFor w) g t c') {l : Nat}
    (hl : l < 64) : wholeBits c' w d l = if m.getLsbD l = true then g l % 2 ^ (32 * spanFor w) else wholeBits c w d l := by
  have h0 := h.getV d l hl
  have h1 := h.getV (d + 1) l hl
  unfold wholeBits
  by_cases hm : m.getLsbD l = true
  · by_cases hw : w = 64
    · simp only [hm, hw, spanFor] at h0 h1 ⊢
      rw [h0, h1]
      simp
      omega
    · simp only [hm, hw, spanFor] at h0 ⊢
      rw [h0]
      simp
  · simp only [hm, Bool.false_eq_true, false_and, if_false] at h0 h1 ⊢
    rw [h0, h1]

end

end Sys2Proof.Machine
end

section
/-! PROOF of O60, the layer of elements: the loops over MODE.type's elements and whole operands as writes in the active lanes. -/

namespace Sys2Proof.Machine

/-! ## Operands as MODE.type reads them -/

theorem wholeBits_lt (c : Crew) (w a l : Nat) : wholeBits c w a l < 2 ^ (32 * spanFor w) := by
  have h0 := (c.getV a l).isLt
  have h1 := (c.getV (a + 1) l).isLt
  unfold wholeBits spanFor
  split <;> omega

theorem elemBits_lt (c : Crew) (w a l k : Nat) : elemBits c w a l k < 2 ^ w := elemAt_lt ..

theorem toNat_append_words (x y : Word) : (x ++ y).toNat = y.toNat + x.toNat * 2 ^ 32 := by
  rw [BitVec.toNat_append, ← Nat.shiftLeft_add_eq_or_of_lt y.isLt, Nat.shiftLeft_eq, Nat.add_comm]

theorem getVN_spanFor (c : Crew) (w a l : Nat) : c.getVN (spanFor w) a l = wholeBits c w a l := by
  unfold Crew.getVN Crew.getVV wholeBits spanFor
  by_cases hw : w = 64
  · simp only [hw, if_true, toNat_append_words]
  · simp [hw]

/-- An operand of one register is that register. -/
theorem elemBits_word (c : Crew) (a l : Nat) : elemBits c 32 a l 0 = (c.getV a l).toNat := by
  simpa [elemBits, wholeBits] using (c.getV a l).isLt

section
variable {c : Crew} {w : Nat} (hw : typeWidth (modeType c.mode) = some w)
include hw

theorem Crew.whole_eq (a l : Nat) : c.whole a l = wholeBits c w a l := by
  rw [Crew.whole, (shape_of_typeWidth hw).2.1, getVN_spanFor]

theorem Crew.elem_eq (a l k : Nat) : c.elem a l k = elemBits c w a l k := by
  obtain ⟨hwidth, hspan, -, -⟩ := shape_of_typeWidth hw
  rw [Crew.elem, hwidth, hspan, getVN_spanFor]
  rfl

end

/-- The rounding in force where no draw is made. -/
theorem Crew.rndWith_of_ne {c : Crew} (h : modeRnd c.mode ≠ 5) (g : Word) :
    c.rndWith g = ⟨modeRnd c.mode, c.mode.getLsbD 15, c.modex.getLsbD 0, 0⟩ := by
  unfold Crew.rndWith
  rw [if_neg h]
  rfl

/-! ## Instructions that write in lanes -/

section
variable {s : State} {c : Crew} {i : Instr} {f : Crew → Crew} {d w : Nat} {P : Crew → Nat → Prop}
  (he : exec i s = issueCrew i s f) (hp : flowKind i = .plain)
include he hp

/-- A write in some of the active lanes. -/
theorem writesLanes_of_mask {m : Mask} {g : Nat → Nat} (hm : ∀ l, m.getLsbD l = true → c.active.getLsbD l = true)
    (hf : f c = c.setLanes d (spanFor w) m g) (hP : ∀ c' l, l < 64 → c.active.getLsbD l = true →
      wholeBits c' w d l = (if m.getLsbD l = true then g l % 2 ^ (32 * spanFor w) else wholeBits c w d l) → P c' l) :
    WritesLanes s c i d w P := by
  intro h
  refine (completes_lanesWritten h he hp hf).imp fun t c' hl => ⟨hl.still, hl.rest, hl.sreg, hl.modes,
    fun l hlt ha => hP c' l hlt ha (hl.operand hlt), fun r l hlt hr => (hl.getV r l hlt).trans (if_neg ?_)⟩
  rintro ⟨hml, hlo, hhi⟩
  rcases hr with hr | ⟨h0, h1⟩
  · exact absurd (hm l hml) (hr ▸ Bool.false_ne_true)
  · unfold spanFor at hhi
    split at hhi
    next hw => exact absurd (h1 hw) (by omega)
    next => omega

theorem writesLanes_of_setLanes {g : Nat → Nat} (hf : f c = c.setLanes d (spanFor w) c.active g)
    (hP : ∀ c' l, l < 64 → c.active.getLsbD l = true → wholeBits c' w d l = g l % 2 ^ (32 * spanFor w) → P c' l) :
    WritesLanes s c i d w P :=
  writesLanes_of_mask he hp (fun _ hl => hl) hf fun c' l hlt ha hl => hP c' l hlt ha (hl.trans (if_pos ha))

/-- A copy of whole operands of MODE.type. -/
theorem writesLanes_copyLoop (hw : typeWidth (modeType c.mode) = some w) {g : Nat → Nat} (hf : f c = c.copyLoop c.active d g)
    (hP : ∀ c' l, l < 64 → wholeBits c' w d l = g l % 2 ^ (32 * spanFor w) → P c' l) : WritesLanes s c i d w P := by
  refine writesLanes_of_setLanes he hp (hf.trans ?_) fun c' l hlt _ => hP c' l hlt
  rw [Crew.copyLoop, (shape_of_typeWidth hw).2.1]

/-- A loop over `w`-bit elements without draws. -/
theorem writesLanes_laneLoop (hw : w ∈ elemWidths) {g : Nat → Nat → Rnd → Nat}
    (hf : f c = c.laneLoop c.active d (spanFor w) (countFor w) w false g) (hP : ∀ c' l, l < 64 →
      (∀ k, w * k < max 32 w → elemBits c' w d l k = g l k (c.rndWith (c.gen l)) % 2 ^ w) → P c' l) : WritesLanes s c i d w P := by
  refine writesLanes_of_setLanes he hp (hf.trans (c.laneLoop_of_not_draws ..)) fun c' l hlt _ hl => hP c' l hlt fun k hk => ?_
  have hcut := elemAt_mod (packElems w ((List.range (countFor w)).map (fun k => g l k (c.rndWith (c.gen l))))) (mul_add_le_max hw hk)
  rw [max_eq_spanFor hw, ← hl] at hcut
  refine hcut.trans ((elemAt_packElems w _ k (by simpa using (lt_countFor_iff hw).mpr hk)).trans ?_)
  rw [List.getElem_map, List.getElem_range]

/-- A loop over the elements of MODE.type without draws. -/
theorem writesLanes_typeLoop (hw : typeWidth (modeType c.mode) = some w) {rounds : Bool} {g : Nat → Nat → Rnd → Nat}
    {F : Nat → Nat → Nat} (hf : f c = c.typeLoop d rounds g) (hr : (rounds && decide (modeRnd c.mode = 5)) = false)
    (hF : ∀ l k, g l k (c.rndWith (c.gen l)) % 2 ^ w = F l k) :
    WritesLanes s c i d w (fun c' l => ∀ k, w * k < max 32 w → elemBits c' w d l k = F l k) := by
  obtain ⟨hwidth, hspan, hcount, hmem⟩ := shape_of_typeWidth hw
  refine writesLanes_laneLoop he hp hmem (hf.trans ?_) fun c' l _ hl k hk => (hl k hk).trans (hF l k)
  rw [Crew.typeLoop, hwidth, hspan, hcount, hr]

end

theorem writesLanes_imp {s : State} {c : Crew} {i : Instr} {d w : Nat} {P Q : Crew → Nat → Prop} (h : WritesLanes s c i d w P)
    (hPQ : ∀ c' l, l < 64 → P c' l → Q c' l) : WritesLanes s c i d w Q :=
  fun hi => (h hi).imp fun _ c' ⟨hstill, hrest, hsreg, hmodes, hwritten, hkept⟩ =>
    ⟨hstill, hrest, hsreg, hmodes, fun l hl ha => hPQ c' l hl (hwritten l hl ha), hkept⟩

/-- The elements that a completed instruction has written, and what it has kept. -/
theorem completes_elements {s : State} {c : Crew} {i : Instr} {d w : Nat} {F G : Nat → Nat → Nat}
    (h : WritesLanes s c i d w (fun c' l => ∀ k, w * k < max 32 w → elemBits c' w d l k = F l k)) (hi : Issues s c i = true)
    (hG : ∀ l k, G l k = F l k) : Completes s c i (fun t c' => Still s t ∧ c'.rest = c.rest ∧ c'.sreg = c.sreg ∧ ModesKept c c' ∧
      (∀ l k, l < 64 ∧ c.active.getLsbD l = true → w * k < max 32 w → elemBits c' w d l k = G l k) ∧
      (∀ r l, l < 64 → ¬ (l < 64 ∧ c.active.getLsbD l = true) ∨ (r ≠ d ∧ (w = 64 → r ≠ d + 1)) → c'.getV r l = c.getV r l)) := by
  refine (h hi).imp fun t c' ⟨hstill, hrest, hsreg, hmodes, hwritten, hkept⟩ => ⟨hstill, hrest, hsreg, hmodes,
    fun l k hl hk => (hwritten l hl.1 hl.2 k hk).trans (hG l k).symm, fun r l hlt hr => hkept r l hlt (hr.imp_left fun hn => ?_)⟩
  exact Bool.eq_false_iff.mpr fun ha => hn ⟨hlt, ha⟩

end Sys2Proof.Machine
end

section
/-! PROOF of O60, the loops over integer elements (R107, R108). -/

namespace Sys2Proof.Machine

/-! ## Integers -/

section
variable {s : State} {c : Crew} {i : Instr} {f : Crew → Crew} {d a b w : Nat} {sg : Bool}
  (hty : intType (modeType c.mode) = some (w, sg)) (he : exec i s = issueCrew i s f) (hp : flowKind i = .plain)
include hty

theorem Crew.isFloat_of_intType : c.isFloat = false := by
  rw [Crew.isFloat, elemKind_of_intType hty]

/-- An element as the model reads it. -/
theorem Crew.read_elem (a l k : Nat) : (IntFmt.mk sg w).read (c.elem a l k) = elemInt w sg (elemBits c w a l k) := by
  rw [Crew.elem_eq (typeWidth_of_intType hty), read_eq_elemInt sg (elemBits_lt ..)]

theorem pos_of_intType : 0 < w := pos_of_elemWidths (shape_of_typeWidth (typeWidth_of_intType hty)).2.2.2

include he hp

/-- A loop that writes one exact integer to each element. -/
theorem writesLanes_exact {g : Nat → Nat → Rnd → Nat} {F : Nat → Nat → Int} (hf : f c = c.typeLoop d c.isFloat g)
    (hg : ∀ l k r, g l k r = fitInt ⟨sg, w⟩ r.sat (F l k)) : WritesLanes s c i d w (fun c' l => ∀ k, w * k < max 32 w →
      elemBits c' w d l k = writtenInt w sg (c.mode.getLsbD 15) (F l k)) := by
  refine writesLanes_typeLoop he hp (typeWidth_of_intType hty) hf (by rw [Crew.isFloat_of_intType hty]; rfl) fun l k => ?_
  rw [hg, fitInt_eq_writtenInt (pos_of_intType hty)]
  exact Nat.mod_eq_of_lt (writtenInt_lt ..)

theorem writesLanes_arith2 {fi : Int → Int → Int} {ff : Bool → Val → Val → Val} (hf : f c = c.arith2 d a b fi ff) :
    WritesLanes s c i d w (fun c' l => ∀ k, w * k < max 32 w → elemBits c' w d l k =
      writtenInt w sg (c.mode.getLsbD 15) (fi (elemInt w sg (elemBits c w a l k)) (elemInt w sg (elemBits c w b l k)))) :=
  writesLanes_exact hty he hp hf fun l k r => by simp only [elemKind_of_intType hty, Crew.read_elem hty]

theorem writesLanes_arith1 {fi : Int → Int} {ff : Val → Val} (hf : f c = c.arith1 d a fi ff) :
    WritesLanes s c i d w (fun c' l => ∀ k, w * k < max 32 w → elemBits c' w d l k =
      writtenInt w sg (c.mode.getLsbD 15) (fi (elemInt w sg (elemBits c w a l k)))) :=
  writesLanes_exact hty he hp hf fun l k r => by simp only [elemKind_of_intType hty, Crew.read_elem hty]

theorem writesLanes_int2 {g : IntFmt → Bool → Int → Int → Nat} (hf : f c = c.int2 d a b g) :
    WritesLanes s c i d w (fun c' l => ∀ k, w * k < max 32 w → elemBits c' w d l k =
      g ⟨sg, w⟩ (c.mode.getLsbD 15) (elemInt w sg (elemBits c w a l k)) (elemInt w sg (elemBits c w b l k)) % 2 ^ w) := by
  refine writesLanes_typeLoop he hp (typeWidth_of_intType hty) hf rfl fun l k => ?_
  simp only [elemKind_of_intType hty, Crew.read_elem hty]
  rfl

end

end Sys2Proof.Machine
end

section
/-! PROOF of O60, the arithmetic of integers and the compares (R107 to R117). -/

namespace Sys2Proof.Machine

/-! ## The exact results of Table 5.3 -/

theorem smaller_eq_min (x y : Int) : (if y < x then y else x) = min x y := by
  split <;> omega

theorem larger_eq_max (x y : Int) : (if x < y then y else x) = max x y := by
  split <;> omega

theorem distance_eq_max (x y : Int) : (if x < y then y - x else x - y) = max (x - y) (y - x) := by
  split <;> omega

theorem magnitude_eq_max (x : Int) : (if x < 0 then -x else x) = max x (-x) := by
  split <;> omega

theorem tmod_eq_sub (x y : Int) : x.tmod y = x - x.tdiv y * y := by
  rw [Int.tmod_def, mul_comm]

section
variable {s : State} {c : Crew} {w : Nat} {sg : Bool} (hty : intType (modeType c.mode) = some (w, sg))
include hty

/-- What each integer instruction of two sources writes. -/
theorem writesLanes_intFunctions {d a b : BitVec 8} {i : Instr} {sats : Bool} {f : Int → Int → Int}
    (hi : (i, sats, f) ∈ intFunctions d a b w) : WritesLanes s c i d.toNat w (fun c' l => ∀ k, w * k < max 32 w →
      elemBits c' w d.toNat l k = if i = .div d a b ∧ elemInt w sg (elemBits c w b.toNat l k) = 0 then 2 ^ w - 1 else
        writtenInt w sg (c.mode.getLsbD 15 && sats) (f (elemInt w sg (elemBits c w a.toNat l k)) (elemInt w sg (elemBits c w b.toNat l k)))) := by
  have other {j : Instr} {q : Bool} {g : Int → Int → Int} {F : Nat → Nat → Nat}
      (h : WritesLanes s c j d.toNat w (fun c' l => ∀ k, w * k < max 32 w → elemBits c' w d.toNat l k = F l k)) (hj : j ≠ .div d a b)
      (hF : ∀ l k, F l k = writtenInt w sg (c.mode.getLsbD 15 && q)
        (g (elemInt w sg (elemBits c w a.toNat l k)) (elemInt w sg (elemBits c w b.toNat l k)))) :
      WritesLanes s c j d.toNat w (fun c' l => ∀ k, w * k < max 32 w →
        elemBits c' w d.toNat l k = if j = .div d a b ∧ elemInt w sg (elemBits c w b.toNat l k) = 0 then 2 ^ w - 1 else
          writtenInt w sg (c.mode.getLsbD 15 && q) (g (elemInt w sg (elemBits c w a.toNat l k)) (elemInt w sg (elemBits c w b.toNat l k)))) :=
    writesLanes_imp h fun c' l _ hl k hk => ((hl k hk).trans (hF l k)).trans (if_neg fun hdiv => hj hdiv.1).symm
  have wraps (v : Int) : lowBits w v % 2 ^ w = writtenInt w sg (c.mode.getLsbD 15 && false) v := by
    rw [Nat.mod_eq_of_lt (lowBits_lt ..), Bool.and_false, lowBits_eq_writtenInt w sg]
  simp only [intFunctions, List.mem_cons, Prod.mk.injEq, List.not_mem_nil, or_false] at hi
  rcases hi with ⟨rfl, rfl, rfl⟩ | ⟨rfl, rfl, rfl⟩ | ⟨rfl, rfl, rfl⟩ | ⟨rfl, rfl, rfl⟩ | ⟨rfl, rfl, rfl⟩ | ⟨rfl, rfl, rfl⟩ |
    ⟨rfl, rfl, rfl⟩ | ⟨rfl, rfl, rfl⟩ | ⟨rfl, rfl, rfl⟩
  · exact other (writesLanes_arith2 hty rfl rfl rfl) nofun fun l k => by rw [Bool.and_true]
  · exact other (writesLanes_arith2 hty rfl rfl rfl) nofun fun l k => by rw [Bool.and_true]
  · exact other (writesLanes_arith2 hty rfl rfl rfl) nofun fun l k => by rw [Bool.and_true]
  · exact other (g := fun x y => x * y / 2 ^ w) (writesLanes_int2 hty rfl rfl rfl) nofun fun l k => by rw [wraps]
  · exact other (writesLanes_arith2 hty rfl rfl rfl) nofun fun l k => by rw [Bool.and_true, smaller_eq_min]
  · exact other (writesLanes_arith2 hty rfl rfl rfl) nofun fun l k => by rw [Bool.and_true, larger_eq_max]
  · exact other (g := fun x y => max (x - y) (y - x)) (writesLanes_arith2 hty rfl rfl rfl) nofun fun l k => by
      rw [Bool.and_true, distance_eq_max]
  · have hf : (if c.isFloat then c.arith2 d.toNat a.toNat b.toNat (fun x _ => x) (fun _ x y => x.div y)
        else c.int2 d.toNat a.toNat b.toNat intDiv) = c.int2 d.toNat a.toNat b.toNat intDiv := by
      rw [if_neg (by rw [Crew.isFloat_of_intType hty]; exact Bool.false_ne_true)]
    refine writesLanes_imp (writesLanes_int2 hty rfl rfl hf) fun c' l _ hl k hk => (hl k hk).trans ?_
    by_cases hy : elemInt w sg (elemBits c w b.toNat l k) = 0
    · rw [if_pos ⟨rfl, hy⟩, intDiv, if_pos hy]
      exact Nat.mod_eq_of_lt (Nat.sub_lt (Nat.two_pow_pos w) one_pos)
    · dsimp only
      rw [if_neg fun h => hy h.2, intDiv, if_neg hy, if_neg hy, fitInt_eq_writtenInt (pos_of_intType hty), Bool.and_true]
      exact Nat.mod_eq_of_lt (writtenInt_lt ..)
  · exact other (g := fun x y => if y = 0 then x else x - x.tdiv y * y) (writesLanes_int2 hty rfl rfl rfl) nofun fun l k => by
      rw [wraps, tmod_eq_sub]

end

/-! ## Compares (R117) -/

/-- The mask of one lane. -/
theorem getLsbD_oneLane (n : Nat) {l : Nat} (hl : l < 64) : ((1 <<< n : Nat) : Mask).getLsbD l = decide (n = l) := by
  rw [Nat.one_shiftLeft, BitVec.natCast_eq_ofNat, BitVec.getLsbD_ofNat, Nat.testBit_two_pow, decide_eq_true hl, Bool.true_and]

/-- The lanes of a mask that is built from a function. -/
theorem getLsbD_maskOf (f : Nat → Bool) {l : Nat} (hl : l < 64) : (maskOf f).getLsbD l = f l := by
  have hfold (n : Nat) : ((List.range n).foldl (fun (m : Mask) l => if f l then m ||| (1 <<< l) else m) 0).getLsbD l = (decide (l < n) && f l) := by
    induction n with
    | zero => simp
    | succ n ih =>
      rw [List.range_succ, List.foldl_append, List.foldl_cons, List.foldl_nil]
      by_cases hln : l = n
      · subst hln
        rw [decide_eq_true (Nat.lt_succ_self l), Bool.true_and]
        rw [decide_eq_false (Nat.lt_irrefl l), Bool.false_and] at ih
        split
        next hf => rw [BitVec.getLsbD_or, ih, Bool.false_or, getLsbD_oneLane _ hl, hf, decide_eq_true rfl]
        next hf => rw [ih, Bool.eq_false_iff.mpr hf]
      · rw [show decide (l < n + 1) = decide (l < n) by simp; omega, ← ih]
        split
        · rw [BitVec.getLsbD_or, getLsbD_oneLane _ hl, decide_eq_false (fun h => hln h.symm), Bool.or_false]
        · rfl
  rw [maskOf, hfold, decide_eq_true hl, Bool.true_and]

theorem completes_compare {s : State} {c : Crew} {i : Instr} {p : BitVec 3} {a b w : Nat} {sg : Bool} {ri : Int → Int → Bool}
    {rf : Val → Val → Bool} {onNan : Bool} (hty : intType (modeType c.mode) = some (w, sg)) (h : Issues s c i = true)
    (he : exec i s = issueCrew i s fun c => c.compare p.toNat a b ri rf onNan) (hp : flowKind i = .plain) :
    Completes s c i (fun t c' => Still s t ∧ c'.rest = c.rest ∧ c'.sreg = c.sreg ∧ c'.vreg = c.vreg ∧
      (∀ l, l < 64 ∧ c.active.getLsbD l = true → p ≠ 0 →
        (c'.pred p.toNat).getLsbD l = ri (elemInt w sg (elemBits c w a l 0)) (elemInt w sg (elemBits c w b l 0))) ∧
      (∀ l, l < 64 → ¬ (l < 64 ∧ c.active.getLsbD l = true) → (c'.pred p.toNat).getLsbD l = (c.pred p.toNat).getLsbD l) ∧
      (∀ q, q ≠ p.toNat → c'.pred q = c.pred q)) := by
  have hf : c.compare p.toNat a b ri rf onNan = c.setPredLanes p.toNat c.active
      (maskOf fun l => ri (elemInt w sg (elemBits c w a l 0)) (elemInt w sg (elemBits c w b l 0))) := by
    simp only [Crew.compare, elemKind_of_intType hty, Crew.read_elem hty]
  obtain ⟨m, hm⟩ := c.setPredLanes_eq p.toNat c.active
    (maskOf fun l => ri (elemInt w sg (elemBits c w a l 0)) (elemInt w sg (elemBits c w b l 0)))
  have hfm := hf.trans hm
  refine completes_issueCrew h he (by rw [hfm]; exact ⟨rfl, rfl, rfl⟩) fun t c' hl hs => ⟨hs (.inl hp), hl.rest.trans (by rw [hfm]; rfl),
    hl.sreg.trans (by rw [hfm]), hl.vreg.trans (by rw [hfm]), fun l ⟨hlt, ha⟩ hp0 => ?_, fun l hlt ha => ?_, fun q hq => ?_⟩
  · have hne : p.toNat ≠ 0 := fun h0 => hp0 (BitVec.eq_of_toNat_eq h0)
    rw [hl.pred, hf, Crew.pred_setPredLanes c _ _ _ _ hlt, if_pos ⟨rfl, hne, ha⟩, getLsbD_maskOf _ hlt]
  · rw [hl.pred, hf, Crew.pred_setPredLanes c _ _ _ _ hlt, if_neg fun hc => ha ⟨hlt, hc.2.2⟩]
  · rw [hl.pred, hf, Crew.setPredLanes, Crew.pred_setPred, if_neg fun hc => hq hc.1]

end Sys2Proof.Machine
end

section
/-! PROOF of O60, f32 arithmetic and moves (R107 to R111, R118 to R120). -/

namespace Sys2Proof.Machine

/-! ## f32 (R109, R110) -/

section
variable {s : State} {c : Crew} {i : Instr} {f : Crew → Crew} {d a b : Nat} (hty : modeType c.mode = 2) (hr : modeRnd c.mode ≠ 5)
  (he : exec i s = issueCrew i s f) (hp : flowKind i = .plain)
include hty

theorem elem_word (r l : Nat) : c.elem r l 0 = (c.getV r l).toNat := by
  rw [Crew.elem_eq (w := 32) (by rw [hty]; rfl), elemBits_word]

include hr he hp

/-- An instruction on f32 completes with one encoding in each active lane. -/
theorem completes_words {rounds : Bool} {g : Nat → Nat → Rnd → Nat} {F : Nat → Nat} (h : Issues s c i = true)
    (hf : f c = c.typeLoop d rounds g) (hF : ∀ l, g l 0 ⟨modeRnd c.mode, c.mode.getLsbD 15, c.modex.getLsbD 0, 0⟩ = F l) :
    Completes s c i (fun t c' => Still s t ∧ c'.rest = c.rest ∧ c'.sreg = c.sreg ∧ ModesKept c c' ∧
      (∀ l, l < 64 ∧ c.active.getLsbD l = true → c'.getV d l = BitVec.ofNat 32 (F l)) ∧
      (∀ q l, l < 64 → ¬ (l < 64 ∧ c.active.getLsbD l = true) ∨ q ≠ d → c'.getV q l = c.getV q l)) := by
  have hw : typeWidth (modeType c.mode) = some 32 := by rw [hty]; rfl
  have hl := writesLanes_typeLoop he hp hw hf (by rw [decide_eq_false hr, Bool.and_false]) (fun _ _ => rfl)
  refine (completes_elements hl h fun _ _ => rfl).imp fun t c' ⟨hstill, hrest, hsreg, hmodes, hwritten, hkept⟩ =>
    ⟨hstill, hrest, hsreg, hmodes, fun l ha => ?_, fun q l hlt hq => hkept q l hlt (hq.imp_right fun hne => ⟨hne, nofun⟩)⟩
  have hword := hwritten l 0 ha (by decide)
  rw [elemBits_word, Crew.rndWith_of_ne hr, hF] at hword
  exact BitVec.eq_of_toNat_eq (hword.trans (BitVec.toNat_ofNat ..).symm)

end

/-! ## Moves (R118 to R120) -/

section
variable {s : State} {c : Crew} {i : Instr} {m : Mask} {d : Nat} {g : Nat → Nat} {t : State} {c' : Crew}

theorem spanOf_eq (ty : Nat) : spanOf ty = if ty = 12 ∨ ty = 13 then 2 else 1 := rfl

/-- What a copy of whole operands keeps. -/
theorem LanesWritten.kept {ty : Nat} (h : LanesWritten s c m d (spanOf ty) g t c') (r l : Nat) (hl : l < 64)
    (hr : m.getLsbD l = false ∨ (r ≠ d ∧ (ty = 12 ∨ ty = 13 → r ≠ d + 1))) : c'.getV r l = c.getV r l := by
  refine (h.getV r l hl).trans (if_neg ?_)
  rintro ⟨hm, hlo, hhi⟩
  rcases hr with hr | ⟨h0, h1⟩
  · exact absurd hm (hr ▸ Bool.false_ne_true)
  · rw [spanOf_eq] at hhi
    split at hhi
    next hw => exact absurd (h1 hw) (by omega)
    next => omega

/-- The first register of what was copied. -/
theorem LanesWritten.low {span : Nat} (h : LanesWritten s c m d span g t c') (hs : 0 < span) {l : Nat} (hl : l < 64)
    (hm : m.getLsbD l = true) : c'.getV d l = BitVec.ofNat 32 (g l) := by
  rw [h.getV d l hl, if_pos ⟨hm, le_refl d, by omega⟩, Nat.sub_self, Nat.mul_zero, pow_zero, Nat.div_one]

/-- The second register of a pair that was copied. -/
theorem LanesWritten.high (h : LanesWritten s c m d 2 g t c') {l : Nat} (hl : l < 64)
    (hm : m.getLsbD l = true) : c'.getV (d + 1) l = BitVec.ofNat 32 (g l / 2 ^ 32) := by
  rw [h.getV (d + 1) l hl, if_pos ⟨hm, by omega, by omega⟩, Nat.add_sub_cancel_left]

theorem completes_copied {f : Crew → Crew} (h : Issues s c i = true) (he : exec i s = issueCrew i s f) (hp : flowKind i = .plain)
    (hf : f c = c.copyLoop m d g) : Completes s c i (LanesWritten s c m d (spanOf (modeType c.mode)) g) :=
  completes_lanesWritten h he hp hf

/-- The words of a whole operand. -/
theorem ofNat_whole (c : Crew) (a l : Nat) : BitVec.ofNat 32 (c.whole a l) = c.getV a l ∧
    (modeType c.mode = 12 ∨ modeType c.mode = 13 → BitVec.ofNat 32 (c.whole a l / 2 ^ 32) = c.getV (a + 1) l) := by
  have h0 := (c.getV a l).isLt
  have h1 := (c.getV (a + 1) l).isLt
  unfold Crew.whole Crew.getVN Crew.getVV
  rw [spanOf_eq, toNat_append_words]
  by_cases hw : modeType c.mode = 12 ∨ modeType c.mode = 13
  · rw [if_pos hw, if_pos rfl]
    exact ⟨BitVec.eq_of_toNat_eq (by rw [BitVec.toNat_ofNat]; omega), fun _ => BitVec.eq_of_toNat_eq (by rw [BitVec.toNat_ofNat]; omega)⟩
  · rw [if_neg hw, if_neg (by decide)]
    exact ⟨BitVec.ofNat_toNat .., fun h => absurd h hw⟩

end

/-- MOVI's 32-bit constant. -/
theorem ofNat_signExtend (m : BitVec 16) : BitVec.ofNat 32 (m.signExtend 64).toNat = m.signExtend 32 := by
  rw [BitVec.ofNat_toNat]
  refine BitVec.eq_of_getLsbD_eq fun j hj => ?_
  rw [BitVec.getLsbD_setWidth, BitVec.getLsbD_signExtend, BitVec.getLsbD_signExtend, decide_eq_true hj, decide_eq_true (show j < 64 by omega)]
  simp only [Bool.true_and]

/-- A 16-bit pattern in both halves of a register. -/
theorem ofNat_mul_pattern (m : BitVec 16) : BitVec.ofNat 32 (m.toNat * 0x00010001) = m ++ m := by
  refine BitVec.eq_of_toNat_eq ?_
  rw [BitVec.toNat_ofNat, BitVec.toNat_append, ← Nat.shiftLeft_add_eq_or_of_lt m.isLt, Nat.shiftLeft_eq]
  have := m.isLt
  omega

/-- A high half over the low half of a register. -/
theorem ofNat_high_low (m : BitVec 16) (x : Word) : BitVec.ofNat 32 (m.toNat * 65536 + x.toNat % 65536) = m ++ x.extractLsb' 0 16 := by
  refine BitVec.eq_of_toNat_eq ?_
  rw [BitVec.toNat_ofNat, BitVec.toNat_append, ← Nat.shiftLeft_add_eq_or_of_lt (BitVec.isLt _), Nat.shiftLeft_eq, BitVec.extractLsb'_toNat]
  have := m.isLt
  omega

/-- The words of a pair. -/
theorem append_ofNat_div (x : DWord) : BitVec.ofNat 32 (x.toNat / 2 ^ 32) ++ BitVec.ofNat 32 x.toNat = x := by
  refine BitVec.eq_of_toNat_eq ?_
  rw [toNat_append_words, BitVec.toNat_ofNat, BitVec.toNat_ofNat]
  have := x.isLt
  omega

/-- What MOVI writes to each register (R120). -/
theorem LanesWritten.movi {s t : State} {c c' : Crew} {d : Nat} {m : BitVec 16} (h : LanesWritten s c c.active d (spanOf (modeType c.mode))
    (fun _ => moviBits (modeType c.mode) m) t c') {l : Nat} (hl : l < 64) (ha : c.active.getLsbD l = true) :
    (modeType c.mode ∈ [0, 1, 2] → c'.getV d l = m.signExtend 32) ∧
      (modeType c.mode ∈ [12, 13] → c'.getVV d l = m.signExtend 64) ∧
      (modeType c.mode ∈ [3, 4, 5, 6, 7, 8, 9, 10, 11] → c'.getV d l = m ++ m) := by
  have hlow := h.low (spanOf_pos _) hl ha
  simp only [List.mem_cons, List.not_mem_nil, or_false]
  refine ⟨fun hty => ?_, fun hty => ?_, fun hty => ?_⟩
  · rw [hlow, moviBits, if_pos (by omega), ofNat_signExtend]
  · rw [spanOf_eq, if_pos hty] at h
    rw [Crew.getVV, h.high hl ha, hlow, moviBits, if_pos (by omega), append_ofNat_div]
  · rw [hlow, moviBits, if_neg (by omega), ofNat_mul_pattern]

end Sys2Proof.Machine
end

section
/-! PROOF of O60, the conversions, the seeds and the lane numbers (R96 to R102, R139, R251, R355). -/

namespace Sys2Proof.Machine

/-! ## One element converted (R97) -/

section
variable {ty ct w wc : Nat} (hw : typeWidth ty = some w) (hwc : typeWidth ct = some wc)
include hw hwc

theorem convertedBits_eq (r : Rnd) {x : Nat} (hx : x < 2 ^ w) : convertedBits ty ct r x = some (convertElem ty ct r x) := by
  have hpos := pos_of_elemWidths (shape_of_typeWidth hwc).2.2.2
  unfold convertedBits convertElem
  rcases kind_of_typeWidth hw with ⟨sg, hi, hf, hk⟩ | ⟨f, hi, hf, hk, -⟩ <;>
    rcases kind_of_typeWidth hwc with ⟨sgc, hic, hfc, hkc⟩ | ⟨fc, hic, hfc, hkc, -⟩
  · simp only [hi, hf, hk, hic, hfc, hkc, read_eq_elemInt sg hx, fitInt_eq_writtenInt hpos]
  · simp only [hi, hf, hk, hic, hfc, hkc, read_eq_elemInt sg hx]
  · simp only [hi, hf, hk, hic, hfc, hkc]
  · simp only [hi, hf, hk, hic, hfc, hkc]

omit hw in
theorem convertElem_lt (r : Rnd) (x : Nat) : convertElem ty ct r x < 2 ^ wc := by
  have hpos := pos_of_elemWidths (shape_of_typeWidth hwc).2.2.2
  unfold convertElem
  rcases kind_of_typeWidth hwc with ⟨sgc, -, -, hkc⟩ | ⟨fc, -, -, hkc, rfl⟩
  · rw [hkc]
    cases elemKind ty with
    | int t => exact (fitInt_eq_writtenInt hpos sgc r.sat _).trans_lt (writtenInt_lt ..)
    | flt f => exact rndInt_lt hpos r _
  · rw [hkc]
    cases elemKind ty with
    | int t => exact rndFloat_lt ..
    | flt f => exact rndFloat_lt ..

end

/-! ## The conversions -/

section
variable {s : State} {c : Crew} {i : Instr} {f : Crew → Crew} {d w wc : Nat} (hw : typeWidth (modeType c.mode) = some w)
  (hwc : typeWidth (modeCtype c.mode) = some wc) (hr : modeRnd c.mode ≠ 5) (he : exec i s = issueCrew i s f) (hp : flowKind i = .plain)
include hw hwc hr he hp

theorem writesLanes_convertLoop {src from_ : Nat → Nat → Nat} (hf : f c = c.convertLoop d src)
    (hsrc : ∀ l j, src l j = from_ l j) (hlt : ∀ l j, from_ l j < 2 ^ w) :
    WritesLanes s c i d wc (fun c' l => ∀ j, j < countFor wc → some (elemBits c' wc d l j) =
      convertedBits (modeType c.mode) (modeCtype c.mode) ⟨modeRnd c.mode, c.mode.getLsbD 15, c.modex.getLsbD 0, 0⟩ (from_ l j)) := by
  obtain ⟨hwidth, hspan, hcount, hmem⟩ := shape_of_typeWidth hwc
  refine writesLanes_laneLoop he hp hmem (g := fun l j r => convertElem (modeType c.mode) (modeCtype c.mode) r (src l j)) (hf.trans ?_)
    fun c' l _ hl j hj => ?_
  · rw [Crew.convertLoop, hwidth, hspan, hcount, decide_eq_false hr]
  · rw [hl j ((lt_countFor_iff hmem).mp hj), Crew.rndWith_of_ne hr, hsrc, Nat.mod_eq_of_lt (convertElem_lt hwc ..),
      convertedBits_eq hw hwc _ (hlt l j)]

end

/-- CVTSC writes no pair (R102). -/
theorem lt_of_issues_cvtsc {s : State} {c : Crew} {d a b : BitVec 8} (h : Issues s c (.cvtsc d a b) = true) : modeCtype c.mode < 12 := by
  have hm : (cvtscPair c.mode && rndOk c.mode) = true := modeOk_of_checkIssue (checkIssue_of_issues h)
  simp only [cvtscPair, Bool.and_eq_true, decide_eq_true_eq] at hm
  exact hm.1.2

/-- A scaled value rounded to an element of a type (R102). -/
def scaledElem (ct : Nat) (r : Rnd) (y : Val) : Nat :=
  match elemKind ct with
  | .int o => rndInt o r y
  | .flt o => rndFloat o r y

theorem scaledElem_of_int {ct : Nat} {o : IntFmt} (h : elemKind ct = .int o) (r : Rnd) (y : Val) : scaledElem ct r y = rndInt o r y := by
  rw [scaledElem, h]

theorem scaledElem_of_flt {ct : Nat} {o : Fmt} (h : elemKind ct = .flt o) (r : Rnd) (y : Val) : scaledElem ct r y = rndFloat o r y := by
  rw [scaledElem, h]

/-- The value that CVTSC rounds to element `j` of lane `l`. -/
def Crew.scaledValue (c : Crew) (a b l j : Nat) (ftz : Bool) : Val :=
  (Fmt.binary32.read ftz (c.getV (a + j) l).toNat).mul (Fmt.binary32.read ftz (c.getS b).toNat)

theorem execCvtsc_loop (s : State) (d a b : BitVec 8) : exec (.cvtsc d a b) s = issueCrew (.cvtsc d a b) s fun c =>
    c.laneLoop c.active d.toNat 1 (countOf (modeCtype c.mode)) (widthOf (modeCtype c.mode)) (decide (modeRnd c.mode = 5))
      fun l j r => scaledElem (modeCtype c.mode) r (c.scaledValue a.toNat b.toNat l j r.ftz) := rfl

theorem writesLanes_cvtsc {s : State} {c : Crew} {d a b : BitVec 8} {wc : Nat} (hwc : typeWidth (modeCtype c.mode) = some wc)
    (hr : modeRnd c.mode ≠ 5) : WritesLanes s c (.cvtsc d a b) d.toNat wc (fun c' l => ∀ j, j < countFor wc →
      (∀ f, floatType (modeCtype c.mode) = some f → elemBits c' wc d.toNat l j =
        rndFloat f ⟨modeRnd c.mode, c.mode.getLsbD 15, c.modex.getLsbD 0, 0⟩
          (c.scaledValue a.toNat b.toNat l j (c.modex.getLsbD 0))) ∧
      (∀ wi sg, intType (modeCtype c.mode) = some (wi, sg) → elemBits c' wc d.toNat l j =
        rndInt ⟨sg, wi⟩ ⟨modeRnd c.mode, c.mode.getLsbD 15, c.modex.getLsbD 0, 0⟩
          (c.scaledValue a.toNat b.toNat l j (c.modex.getLsbD 0)))) := by
  intro h
  obtain ⟨hwidth, hspan, hcount, hmem⟩ := shape_of_typeWidth hwc
  have hone := spanOf_of_not_wide (lt_of_issues_cvtsc h)
  rw [hspan] at hone
  refine writesLanes_laneLoop (execCvtsc_loop s d a b) rfl hmem
    (g := fun l j r => scaledElem (modeCtype c.mode) r (c.scaledValue a.toNat b.toNat l j r.ftz)) ?_ (fun c' l _ hl j hj => ?_) h
  · rw [hwidth, hcount, decide_eq_false hr, hone]
  · have hjw := hl j ((lt_countFor_iff hmem).mp hj)
    rw [Crew.rndWith_of_ne hr] at hjw
    rcases kind_of_typeWidth hwc with ⟨sg, hi, hf, hk⟩ | ⟨f, hi, hf, hk, rfl⟩
    · refine ⟨fun f h => absurd (hf.symm.trans h) nofun, fun wi sg' h => ?_⟩
      cases hi.symm.trans h
      rw [hjw, scaledElem_of_int hk]
      exact Nat.mod_eq_of_lt (rndInt_lt (t := ⟨sg, wc⟩) (pos_of_elemWidths hmem) ..)
    · refine ⟨fun f' h => ?_, fun wi sg' h => absurd (hi.symm.trans h) nofun⟩
      cases hf.symm.trans h
      rw [hjw, scaledElem_of_flt hk]
      exact Nat.mod_eq_of_lt (rndFloat_lt ..)

theorem conversionsRound (s : State) (c : Crew) (d a b : BitVec 8) : ConversionsRound s c d a b := by
  unfold ConversionsRound
  intro ty ct r w wc hw hwc hr n nc from_
  obtain ⟨-, -, hcount, hmem⟩ := shape_of_typeWidth hw
  obtain ⟨-, -, hcountc, -⟩ := shape_of_typeWidth hwc
  refine ⟨?cvt, ?cvtp, ?cvtq, ?unpklo, ?unpkhi, writesLanes_cvtsc hwc hr⟩
  case cvt => exact writesLanes_convertLoop hw hwc hr rfl rfl rfl (fun l j => Crew.elem_eq hw ..) fun _ _ => elemBits_lt ..
  case cvtp =>
    refine writesLanes_convertLoop hw hwc hr rfl rfl rfl (fun l j => ?_) fun _ _ => elemBits_lt ..
    rw [Crew.elem_eq hw, hcount]
    rfl
  case cvtq =>
    refine writesLanes_convertLoop hw hwc hr rfl rfl rfl (fun l j => ?_) fun _ _ => elemBits_lt ..
    rw [Crew.elem_eq hw, hcount]
    rfl
  case unpklo => exact writesLanes_convertLoop hw hwc hr rfl rfl rfl (fun l j => Crew.elem_eq hw ..) fun _ _ => elemBits_lt ..
  case unpkhi =>
    refine writesLanes_convertLoop hw hwc hr rfl rfl rfl (fun l j => ?_) fun _ _ => elemBits_lt ..
    rw [Crew.elem_eq hw, hcountc]
    rfl

/-! ## Seeds, lane numbers and latches -/

theorem seedOf_eq_seeded (x : Word) (l : Nat) : seedOf x l = seeded x l := by
  have hmul : BitVec.ofNat 32 (l * 0x9E3779B9) = BitVec.ofNat 32 l * 0x9E3779B9 := by
    rw [BitVec.ofNat_mul, BitVec.ofNat_eq_ofNat]
  unfold seedOf seeded
  rw [hmul]

theorem Crew.gen_setGen (c : Crew) (l j : Nat) (g : Word) : (c.setGen l g).gen j = if j = l then g else c.gen j := by
  by_cases h : j = l
  · subst h
    rw [if_pos rfl]
    unfold Crew.setGen Crew.gen
    generalize seedOf 0 j = x
    exact (SMap.getD_setD ..).trans (if_pos rfl)
  · rw [if_neg h, Crew.gen_setGen_of_ne c h]

theorem Crew.setGen_eq (c : Crew) (l : Nat) (x : Word) : ∃ g, c.setGen l x = { c with gens := g } := by
  unfold Crew.setGen
  generalize SMap.setD c.gens l x (seedOf 0 l) = g
  exact ⟨g, rfl⟩

/-- The generators after a write in the lanes of a mask. -/
theorem Crew.setGens_reads (c : Crew) (m : Mask) (f : Nat → Word) : (∃ g, c.setGens m f = { c with gens := g }) ∧
    ∀ l, l < 64 → (c.setGens m f).gen l = if m.getLsbD l = true then f l else c.gen l := by
  have hfold (ls : List Nat) (c : Crew) : (∃ g, ls.foldl (fun c l => c.setGen l (f l)) c = { c with gens := g }) ∧
      ∀ l, (ls.foldl (fun c l => c.setGen l (f l)) c).gen l = if l ∈ ls then f l else c.gen l := by
    induction ls generalizing c with
    | nil => exact ⟨⟨c.gens, rfl⟩, fun l => by simp⟩
    | cons j ls ih =>
      obtain ⟨⟨g, hg⟩, hgen⟩ := ih (c.setGen j (f j))
      obtain ⟨x, hx⟩ := c.setGen_eq j (f j)
      refine ⟨⟨g, hg.trans (by rw [hx])⟩, fun l => ?_⟩
      rw [List.foldl_cons, hgen, Crew.gen_setGen]
      by_cases hl : l = j <;> simp [hl]
  obtain ⟨heq, hgen⟩ := hfold (lanesOf m) c
  refine ⟨heq, fun l hl => (hgen l).trans ?_⟩
  simp only [mem_lanesOf, hl, true_and]

theorem completes_seed {s : State} {c : Crew} {i : Instr} {f : Crew → Crew} {x : Nat → Word} (h : Issues s c i = true)
    (he : exec i s = issueCrew i s f) (hp : flowKind i = .plain) (hf : f c = c.setGens c.active (fun l => seedOf (x l) l)) :
    Completes s c i (fun t c' => Still s t ∧ c'.rest = c.rest ∧ c'.sreg = c.sreg ∧ c'.vreg = c.vreg ∧
      c'.mode = c.mode ∧ c'.modex = c.modex ∧ c'.preds = c.preds ∧ c'.bars = c.bars ∧
      ∀ l, l < 64 → c'.gen l = if c.active.getLsbD l then seeded (x l) l else c.gen l) := by
  obtain ⟨⟨g, hg⟩, hgen⟩ := c.setGens_reads c.active (fun l => seedOf (x l) l)
  have hfg := hf.trans hg
  refine completes_issueCrew h he (by rw [hfg]; exact ⟨rfl, rfl, rfl⟩) fun t c' hl hs => ?_
  have hl' := hl
  rw [hfg] at hl'
  refine ⟨hs (.inl hp), hl'.rest, hl'.sreg, hl'.vreg, hl'.mode, hl'.modex, hl'.preds, hl'.bars, fun l hlt => ?_⟩
  rw [hl.gen, hf, hgen l hlt, seedOf_eq_seeded]

theorem seedsAndNumbers (s : State) (c : Crew) (d a b : BitVec 8) : SeedsAndNumbers s c d a b := by
  unfold SeedsAndNumbers
  refine ⟨fun i x hi h => ?seed, ?laneid, ?widrd, fun h => ?mtsc⟩
  case seed =>
    simp only [List.mem_cons, Prod.mk.injEq, List.not_mem_nil, or_false] at hi
    rcases hi with ⟨rfl, rfl⟩ | ⟨rfl, rfl⟩
    · exact completes_seed h rfl rfl rfl
    · exact completes_seed h rfl rfl rfl
  case laneid =>
    refine writesLanes_of_setLanes (g := fun l => l) rfl rfl rfl fun c' l hl _ hv => ?_
    have hlt : l < 2 ^ (32 * spanFor 32) := hl.trans (by decide)
    rwa [Nat.mod_eq_of_lt hlt, show wholeBits c' 32 d.toNat l = (c'.getV d.toNat l).toNat from Nat.add_zero _] at hv
  case widrd =>
    refine writesLanes_of_setLanes (g := c.wid) rfl rfl rfl fun c' l hl _ hv => hv.trans ?_
    rw [Crew.wid, BitVec.toNat_add, BitVec.toNat_ofNat, show 2 ^ (32 * spanFor 64) = 2 ^ 64 from rfl]
    omega
  case mtsc =>
    refine completes_issueCrew h rfl ⟨rfl, rfl, rfl⟩ fun t c' hl hs =>
      ⟨hs (.inl rfl), (congrArg Crew.tsa hl.rest :), (congrArg Crew.tsb hl.rest :), ?_, hl.sreg, hl.vreg, hl.modesKept⟩
    exact (congrArg (fun x : Crew => { x with tsa := c.tsa, tsb := c.tsb }) hl.rest :)

end Sys2Proof.Machine
end

section
/-! PROOF of O60, bit manipulation (R134 to R137). -/

namespace Sys2Proof.Machine

/-! ## Shifts, rotations and counts of an element -/

theorem elemInt_arithShift {w x : Nat} (hw : 0 < w) (hx : x < 2 ^ w) (n : Nat) :
    elemInt w true (arithShift w x n % 2 ^ w) = elemInt w true x / 2 ^ n := by
  obtain ⟨hlo, hhi⟩ := elemInt_mem_range hw true hx
  obtain ⟨hmin, hmax⟩ := elemInt_mem_range hw true (Nat.two_pow_pos w)
  have hzero : elemInt w true 0 = 0 := by simp [elemInt]
  rw [hzero] at hmin hmax
  have hpow : (0 : Int) < 2 ^ n := by positivity
  rw [arithShift, Nat.mod_eq_of_lt (lowBits_lt ..), signedOf, read_eq_elemInt true hx]
  generalize elemInt w true x = v at hlo hhi ⊢
  refine elemInt_lowBits hw ?_ ?_
  · by_cases hv : 0 ≤ v
    · exact hmin.trans (Int.ediv_nonneg hv hpow.le)
    · exact hlo.trans ((Int.le_ediv_iff_mul_le hpow).mpr (by nlinarith))
  · by_cases hv : 0 ≤ v
    · exact (Int.ediv_le_self _ hv).trans hhi
    · exact (Int.ediv_nonpos_of_nonpos_of_neg (by omega) hpow).trans hmax

theorem testBit_rotated {w x n j : Nat} (hx : x < 2 ^ w) (hn : n < w) (hj : j < w) :
    ((x * 2 ^ n + x / 2 ^ (w - n)) % 2 ^ w).testBit j = x.testBit ((j + w - n) % w) := by
  have hlow : x / 2 ^ (w - n) < 2 ^ n := by
    rw [Nat.div_lt_iff_lt_mul (Nat.two_pow_pos _), ← pow_add, Nat.add_sub_cancel' hn.le]
    exact hx
  rw [Nat.testBit_mod_two_pow, decide_eq_true hj, Bool.true_and, Nat.mul_comm, Nat.testBit_two_pow_mul_add _ hlow]
  split
  next h => rw [Nat.testBit_div_two_pow, Nat.mod_eq_of_lt (by omega), show j + (w - n) = j + w - n by omega]
  next h => rw [show j + w - n = j - n + w by omega, Nat.add_mod_right, Nat.mod_eq_of_lt (by omega)]

theorem leadingZeros_spec {w x : Nat} (hx : x < 2 ^ w) : leadingZeros w x ≤ w ∧
    (∀ j, w - leadingZeros w x ≤ j → j < w → x.testBit j = false) ∧
    (leadingZeros w x < w → x.testBit (w - 1 - leadingZeros w x) = true) := by
  unfold leadingZeros
  split
  next h => simp [h]
  next h =>
    have hlog := (Nat.log2_lt h).mpr hx
    refine ⟨by omega, fun j hlo _ => Nat.testBit_lt_two_pow ((Nat.log2_lt h).mp (by omega)), fun _ => ?_⟩
    rw [show w - 1 - (w - 1 - x.log2) = x.log2 by omega]
    exact Nat.testBit_log2 h

theorem testBit_reverseBits {w j : Nat} (x : Nat) (hj : j < w) : (reverseBits w x).testBit j = x.testBit (w - 1 - j) := by
  -- after `n` bits the sum is a multiple of the weight of the last bit placed
  have hfold (n : Nat) (hn : n ≤ w) : ∃ q,
      (List.range n).foldl (fun r j => if x.testBit j then r + 2 ^ (w - 1 - j) else r) 0 = 2 ^ (w - n) * q ∧
        ∀ j, j < n → q.testBit (n - 1 - j) = x.testBit j := by
    induction n with
    | zero => exact ⟨0, rfl, nofun⟩
    | succ n ih =>
      obtain ⟨q, hq, hbits⟩ := ih (by omega)
      have hpow : 2 ^ (w - n) = 2 ^ (w - (n + 1)) * 2 := by rw [← pow_succ, show w - (n + 1) + 1 = w - n by omega]
      refine ⟨2 * q + (x.testBit n).toNat, ?_, fun j hjn => ?_⟩
      · rw [List.range_succ, List.foldl_append, hq, List.foldl_cons, List.foldl_nil, show w - 1 - n = w - (n + 1) by omega, hpow]
        cases x.testBit n <;> simp <;> ring
      · rcases Nat.lt_succ_iff_lt_or_eq.mp hjn with h | rfl
        · rw [show n + 1 - 1 - j = n - 1 - j + 1 by omega, Nat.testBit_add_one, ← hbits j h]
          congr 1
          have := (x.testBit n).toNat_lt
          omega
        · rw [Nat.add_sub_cancel, Nat.sub_self, Nat.testBit_zero]
          cases x.testBit j <;> simp
  obtain ⟨q, hq, hbits⟩ := hfold w le_rfl
  rw [reverseBits, hq, Nat.sub_self, pow_zero, one_mul, ← hbits _ (by omega), show w - 1 - (w - 1 - j) = j by omega]

/-! ## Fields of an operand (R136) -/

/-- Position and length of the field that `ctl` gives in `n` bits. -/
def fieldIn (n ctl : Nat) : Nat × Nat := (ctl % 256, min (ctl / 256 % 256) (n - ctl % 256))

theorem fieldOf_eq (n ctl : Nat) : fieldOf n ctl = if (fieldIn n ctl).2 = 0 then none else some (fieldIn n ctl) := by
  unfold fieldOf fieldIn
  dsimp only
  by_cases h : n ≤ ctl % 256 ∨ ctl / 256 % 256 = 0
  · rw [if_pos h, if_pos (by omega)]
  · rw [if_neg h, if_neg (by omega)]

theorem fieldIn_le (n ctl : Nat) : (fieldIn n ctl).2 ≤ n := by
  unfold fieldIn
  dsimp only
  omega

/-- The top bit of a field is its sign. -/
theorem testBit_top_iff {n f : Nat} (hn : 0 < n) (hf : f < 2 ^ n) : f.testBit (n - 1) = true ↔ 2 ^ (n - 1) ≤ f := by
  refine ⟨Nat.ge_two_pow_of_testBit, fun h => Nat.testBit_of_two_pow_le_and_two_pow_add_one_gt h ?_⟩
  rwa [Nat.sub_add_cancel hn]

/-- A field extended with its sign to `w` bits. -/
theorem lowBits_signedOf {w n f : Nat} (hn : 0 < n) (hw : n ≤ w) (hf : f < 2 ^ n) :
    lowBits w (signedOf n f) = if f.testBit (n - 1) = true then f + 2 ^ w - 2 ^ n else f := by
  have hle : 2 ^ n ≤ 2 ^ w := Nat.pow_le_pow_right (by decide) hw
  have hleZ : (2 : Int) ^ n ≤ 2 ^ w := by exact_mod_cast hle
  have hfZ : (f : Int) < 2 ^ n := by exact_mod_cast hf
  have hcast (k : Nat) : ((2 ^ k : Nat) : Int) = 2 ^ k := by push_cast; rfl
  rw [signedOf, read_eq_elemInt true hf, elemInt, lowBits]
  by_cases h : 2 ^ (n - 1) ≤ f
  · rw [if_pos (by simpa using h), if_pos ((testBit_top_iff hn hf).mpr h), ← Int.add_emod_right, Int.emod_eq_of_lt (by omega) (by omega)]
    have := hcast n
    have := hcast w
    omega
  · rw [if_neg (by simpa using h), if_neg (mt (testBit_top_iff hn hf).mp h), Int.emod_eq_of_lt (by omega) (by omega)]
    rfl

/-- A number with the field of `n` bits from bit `p` replaced. -/
theorem testBit_inserted (x a p n j : Nat) : (x - x / 2 ^ p % 2 ^ n * 2 ^ p + a % 2 ^ n * 2 ^ p).testBit j =
    if p ≤ j ∧ j < p + n then a.testBit (j - p) else x.testBit j := by
  have hsplit : x - x / 2 ^ p % 2 ^ n * 2 ^ p + a % 2 ^ n * 2 ^ p = 2 ^ p * (2 ^ n * (x / 2 ^ p / 2 ^ n) + a % 2 ^ n) + x % 2 ^ p := by
    have h := Nat.div_add_mod x (2 ^ p)
    have h' := Nat.div_add_mod (x / 2 ^ p) (2 ^ n)
    have hx : x = 2 ^ p * (2 ^ n * (x / 2 ^ p / 2 ^ n)) + x / 2 ^ p % 2 ^ n * 2 ^ p + x % 2 ^ p := by
      rw [Nat.mul_comm (x / 2 ^ p % 2 ^ n), ← Nat.mul_add, h', h]
    rw [Nat.mul_add, Nat.mul_comm (2 ^ p) (a % 2 ^ n)]
    omega
  rw [hsplit, Nat.testBit_two_pow_mul_add _ (Nat.mod_lt x (Nat.two_pow_pos p)),
    Nat.testBit_two_pow_mul_add _ (Nat.mod_lt a (Nat.two_pow_pos n)), Nat.testBit_mod_two_pow, Nat.testBit_mod_two_pow]
  by_cases hp : j < p
  · rw [if_pos hp, if_neg (by omega), decide_eq_true hp, Bool.true_and]
  · rw [if_neg hp]
    by_cases hn : j - p < n
    · rw [if_pos hn, if_pos (by omega), decide_eq_true hn, Bool.true_and]
    · rw [if_neg hn, if_neg (by omega), Nat.testBit_div_two_pow, Nat.testBit_div_two_pow, show j - p - n + n + p = j by omega]

end Sys2Proof.Machine
end

section
/-! PROOF of O60, the bit instructions and the exchanges between lanes (R130, R134 to R141). -/

namespace Sys2Proof.Machine

/-! ## Loops on bits -/

section
variable {s : State} {c : Crew} {i : Instr} {f : Crew → Crew} {d a b w : Nat} (hw : typeWidth (modeType c.mode) = some w)
  (he : exec i s = issueCrew i s f) (hp : flowKind i = .plain)
include hw he hp

theorem writesLanes_bits2 {g : Nat → Nat → Nat → Nat} (hf : f c = c.bits2 d a b g) :
    WritesLanes s c i d w (fun c' l => ∀ k, w * k < max 32 w → elemBits c' w d l k =
      g w (elemBits c w a l k) (elemBits c w b l k) % 2 ^ w) := by
  refine writesLanes_typeLoop he hp hw hf rfl fun l k => ?_
  rw [(shape_of_typeWidth hw).1, Crew.elem_eq hw, Crew.elem_eq hw]

theorem writesLanes_bits1 {g : Nat → Nat → Nat} (hf : f c = c.bits1 d a g) :
    WritesLanes s c i d w (fun c' l => ∀ k, w * k < max 32 w → elemBits c' w d l k = g w (elemBits c w a l k) % 2 ^ w) := by
  refine writesLanes_typeLoop he hp hw hf rfl fun l k => ?_
  rw [(shape_of_typeWidth hw).1, Crew.elem_eq hw]

/-- A copy whose values are those of operands. -/
theorem writesLanes_whole {g v : Nat → Nat} (hf : f c = c.copyLoop c.active d g) (hg : ∀ l, g l = v l)
    (hlt : ∀ l, v l < 2 ^ (32 * spanFor w)) : WritesLanes s c i d w (fun c' l => wholeBits c' w d l = v l) :=
  writesLanes_copyLoop he hp hw hf fun c' l _ h => by rw [h, hg, Nat.mod_eq_of_lt (hlt l)]

end

/-- BFX and BFI take operands of one element (R136). -/
theorem span_of_fieldTypes {m : BitVec 16} {w : Nat} (hw : typeWidth (modeType m) = some w) (h : tyIn m [0, 1, 12, 13] = true) :
    32 * spanFor w = w := by
  simp only [tyIn, decide_eq_true_eq, List.mem_cons, List.not_mem_nil, or_false] at h
  rcases h with h | h | h | h <;> rw [h] at hw <;> cases hw <;> rfl

section
variable {s : State} {c : Crew} {d a b : BitVec 8} {w : Nat} (hw : typeWidth (modeType c.mode) = some w)
include hw

theorem writesLanes_bfx : WritesLanes s c (.bfx d a b) d.toNat w (fun c' l =>
    let n := (fieldIn (max 32 w) (c.getV b.toNat l).toNat).2
    let f := wholeBits c w a.toNat l / 2 ^ (fieldIn (max 32 w) (c.getV b.toNat l).toNat).1 % 2 ^ n
    wholeBits c' w d.toNat l =
      if (modeType c.mode = 0 ∨ modeType c.mode = 12) ∧ 0 < n ∧ f.testBit (n - 1) = true then f + 2 ^ max 32 w - 2 ^ n else f) := by
  intro h
  have hm : tyIn c.mode [0, 1, 12, 13] = true := modeOk_of_checkIssue (checkIssue_of_issues h)
  obtain ⟨hwidth, -, -, hmem⟩ := shape_of_typeWidth hw
  have hfull := span_of_fieldTypes hw hm
  refine writesLanes_copyLoop rfl rfl hw rfl (fun c' l _ hv => ?_) h
  rw [max_eq_spanFor hmem]
  rw [hwidth, fieldOf_eq, Crew.whole_eq hw] at hv
  rw [hfull] at hv ⊢
  have hle := fieldIn_le w (c.getV b.toNat l).toNat
  generalize fieldIn w (c.getV b.toNat l).toNat = p at hv hle ⊢
  obtain ⟨pos, n⟩ := p
  dsimp only at hv hle ⊢
  by_cases hn : n = 0
  · subst hn
    rw [if_pos rfl] at hv
    simpa [Nat.mod_one] using hv
  · have hlt : wholeBits c w a.toNat l / 2 ^ pos % 2 ^ n < 2 ^ n := Nat.mod_lt _ (Nat.two_pow_pos n)
    rw [if_neg hn] at hv
    dsimp only at hv
    rw [hv]
    by_cases ht : modeType c.mode = 0 ∨ modeType c.mode = 12
    · rw [if_pos ht, Nat.mod_eq_of_lt (lowBits_lt ..), lowBits_signedOf (by omega) hle hlt]
      simp only [ht, show 0 < n by omega, true_and]
    · rw [if_neg ht, if_neg fun hc => ht hc.1]
      exact Nat.mod_eq_of_lt (hlt.trans_le (Nat.pow_le_pow_right (by decide) hle))

theorem writesLanes_bfi : WritesLanes s c (.bfi d a b) d.toNat w (fun c' l => ∀ j, j < max 32 w → (wholeBits c' w d.toNat l).testBit j =
    if (fieldIn (max 32 w) (c.getV b.toNat l).toNat).1 ≤ j ∧
        j < (fieldIn (max 32 w) (c.getV b.toNat l).toNat).1 + (fieldIn (max 32 w) (c.getV b.toNat l).toNat).2
      then (wholeBits c w a.toNat l).testBit (j - (fieldIn (max 32 w) (c.getV b.toNat l).toNat).1)
      else (wholeBits c w d.toNat l).testBit j) := by
  intro h
  have hm : tyIn c.mode [0, 1, 12, 13] = true := modeOk_of_checkIssue (checkIssue_of_issues h)
  obtain ⟨hwidth, -, -, hmem⟩ := shape_of_typeWidth hw
  have hfull := span_of_fieldTypes hw hm
  refine writesLanes_copyLoop rfl rfl hw rfl (fun c' l _ hv j hj => ?_) h
  rw [max_eq_spanFor hmem] at hj ⊢
  rw [hwidth, fieldOf_eq, Crew.whole_eq hw, Crew.whole_eq hw] at hv
  rw [hfull] at hv hj ⊢
  generalize fieldIn w (c.getV b.toNat l).toNat = p at hv ⊢
  obtain ⟨pos, n⟩ := p
  dsimp only at hv ⊢
  by_cases hn : n = 0
  · subst hn
    rw [if_pos rfl] at hv
    dsimp only at hv
    rw [hv, Nat.testBit_mod_two_pow, decide_eq_true hj, Bool.true_and, if_neg (by omega)]
  · rw [if_neg hn] at hv
    dsimp only at hv
    rw [hv, Nat.testBit_mod_two_pow, decide_eq_true hj, Bool.true_and, testBit_inserted]

end

theorem bitsAreManipulated (s : State) (c : Crew) (d a b : BitVec 8) : BitsAreManipulated s c d a b := by
  unfold BitsAreManipulated
  intro ty w hw full x bits e elems field
  obtain ⟨-, -, -, hmem⟩ := shape_of_typeWidth hw
  have hpos := pos_of_elemWidths hmem
  refine ⟨?and, ?or, ?xor, ?not, ?shl, ?shr, ?sra, ?rotl, ?popc, ?clz, ?brev, writesLanes_bfx hw, writesLanes_bfi hw⟩
  case and =>
    refine writesLanes_whole hw rfl rfl rfl (fun l => ?_) fun l => Nat.and_lt_two_pow _ (wholeBits_lt ..)
    rw [Crew.whole_eq hw, Crew.whole_eq hw]
  case or =>
    refine writesLanes_whole hw rfl rfl rfl (fun l => ?_) fun l => Nat.or_lt_two_pow (wholeBits_lt ..) (wholeBits_lt ..)
    rw [Crew.whole_eq hw, Crew.whole_eq hw]
  case xor =>
    refine writesLanes_whole hw rfl rfl rfl (fun l => ?_) fun l => Nat.xor_lt_two_pow (wholeBits_lt ..) (wholeBits_lt ..)
    rw [Crew.whole_eq hw, Crew.whole_eq hw]
  case not =>
    refine writesLanes_whole hw rfl rfl rfl (fun l => ?_) fun l => ?_
    · rw [Crew.whole_eq hw, (shape_of_typeWidth hw).2.1, ← max_eq_spanFor hmem]
    · rw [← max_eq_spanFor hmem]
      have := Nat.two_pow_pos full
      show 2 ^ full - 1 - _ < 2 ^ full
      omega
  case shl => exact writesLanes_imp (writesLanes_bits2 hw rfl rfl rfl) fun c' l _ hv => hv
  case shr =>
    refine writesLanes_imp (writesLanes_bits2 hw rfl rfl rfl) fun c' l _ hv k hk => (hv k hk).trans (Nat.mod_eq_of_lt ?_)
    exact (Nat.div_le_self ..).trans_lt (elemBits_lt ..)
  case sra =>
    refine writesLanes_imp (writesLanes_bits2 hw rfl rfl rfl) fun c' l _ hv k hk => ?_
    dsimp only
    rw [hv k hk]
    exact elemInt_arithShift hpos (elemBits_lt ..) _
  case rotl =>
    refine writesLanes_imp (writesLanes_bits2 hw rfl rfl rfl) fun c' l _ hv k hk j hj => ?_
    rw [hv k hk]
    exact testBit_rotated (elemBits_lt ..) (Nat.mod_lt _ hpos) hj
  case popc => exact writesLanes_imp (writesLanes_bits1 hw rfl rfl rfl) fun c' l _ hv => hv
  case clz =>
    refine writesLanes_imp (writesLanes_bits1 hw rfl rfl rfl) fun c' l _ hv k hk => ?_
    have hspec := leadingZeros_spec (elemBits_lt c w a.toNat l k)
    dsimp only
    rw [hv k hk, Nat.mod_eq_of_lt (hspec.1.trans_lt Nat.lt_two_pow_self)]
    exact hspec
  case brev =>
    refine writesLanes_imp (writesLanes_bits1 hw rfl rfl rfl) fun c' l _ hv k hk j hj => ?_
    rw [hv k hk, Nat.testBit_mod_two_pow, decide_eq_true hj, Bool.true_and]
    exact testBit_reverseBits _ hj

/-! ## Exchanges between lanes -/

section
variable {s : State} {c : Crew} {i : Instr} {f : Crew → Crew}

/-- An instruction that writes scalar registers alone completes with them, and keeps what it does not name. -/
theorem completes_scalars {m : SMap Word} {P : Crew → Prop} (h : Issues s c i = true) (he : exec i s = issueCrew i s f) (hp : flowKind i = .plain)
    (hf : f c = { c with sreg := m }) (hreg : Completes s c i (RegisterEffect s c i))
    (hP : ∀ c' : Crew, (∀ r, c'.getS r = (f c).getS r) → P c') : Completes s c i (fun t c' => Still s t ∧ c'.rest = c.rest ∧
      c'.vreg = c.vreg ∧ ModesKept c c' ∧ RegsKept c c' i ∧ P c') := by
  have hvals : Completes s c i (fun t c' => Still s t ∧ c'.rest = c.rest ∧ c'.vreg = c.vreg ∧ ModesKept c c' ∧ P c') := by
    refine completes_issueCrew h he (by rw [hf]; exact ⟨rfl, rfl, rfl⟩) fun t c' hl hs => ?_
    have hval := hP c' hl.getS
    rw [hf] at hl
    exact ⟨hs (.inl hp), hl.rest, hl.vreg, hl.modesKept, hval⟩
  exact (hvals.and hreg).imp fun t c' ⟨⟨hstill, hrest, hvreg, hmodes, hval⟩, _, hregs, _⟩ => ⟨hstill, hrest, hvreg, hmodes, hregs, hval⟩

end

theorem Crew.setSS_eq (c : Crew) (n : Nat) (x : DWord) : ∃ m, c.setSS n x = { c with sreg := m } := ⟨_, rfl⟩

theorem Crew.setSN_eq (c : Crew) (span n x : Nat) : ∃ m, c.setSN span n x = { c with sreg := m } := by
  unfold Crew.setSN
  split
  · exact c.setSS_eq ..
  · exact ⟨_, rfl⟩

/-- The scalar operand at s[n], as an operand of `w`-bit elements. -/
def scalarBits (c : Crew) (w n : Nat) : Nat := (c.getS n).toNat + if w = 64 then (c.getS (n + 1)).toNat * 2 ^ 32 else 0

theorem getSN_spanFor (c : Crew) (w n : Nat) : c.getSN (spanFor w) n = scalarBits c w n := by
  unfold Crew.getSN Crew.getSS scalarBits spanFor
  by_cases hw : w = 64
  · simp only [hw, if_true, toNat_append_words]
  · simp [hw]

theorem scalarBits_lt (c : Crew) (w n : Nat) : scalarBits c w n < 2 ^ (32 * spanFor w) := by
  have h0 := (c.getS n).isLt
  have h1 := (c.getS (n + 1)).isLt
  unfold scalarBits spanFor
  split <;> omega

/-- The registers of a scalar operand that was written. -/
theorem Crew.getS_setSN (c : Crew) (w n x : Nat) : (c.setSN (spanFor w) n x).getS n = BitVec.ofNat 32 x ∧
    (w = 64 → (c.setSN (spanFor w) n x).getS (n + 1) = BitVec.ofNat 32 (x / 2 ^ 32)) := by
  have hlow : (BitVec.ofNat 64 x).extractLsb' 0 32 = BitVec.ofNat 32 x := by
    refine BitVec.eq_of_toNat_eq ?_
    rw [BitVec.extractLsb'_toNat, BitVec.toNat_ofNat, BitVec.toNat_ofNat]
    omega
  have hhigh : (BitVec.ofNat 64 x).extractLsb' 32 32 = BitVec.ofNat 32 (x / 2 ^ 32) := by
    refine BitVec.eq_of_toNat_eq ?_
    rw [BitVec.extractLsb'_toNat, BitVec.toNat_ofNat, BitVec.toNat_ofNat, Nat.shiftRight_eq_div_pow]
    omega
  unfold Crew.setSN spanFor
  by_cases hw : w = 64
  · rw [if_pos hw, if_pos rfl, Crew.setSS, Crew.getS_setS, if_neg (by omega), Crew.getS_setS, if_pos rfl, Crew.getS_setS, if_pos rfl]
    exact ⟨hlow, fun _ => hhigh⟩
  · rw [if_neg hw, if_neg (by decide), Crew.getS_setS, if_pos rfl]
    exact ⟨rfl, fun h => absurd h hw⟩

theorem scalarBits_setSN (c : Crew) (w n x : Nat) : scalarBits (c.setSN (spanFor w) n x) w n = x % 2 ^ (32 * spanFor w) := by
  obtain ⟨hlow, hhigh⟩ := c.getS_setSN w n x
  unfold scalarBits
  by_cases hw : w = 64
  · rw [hlow, hhigh hw, if_pos hw, BitVec.toNat_ofNat, BitVec.toNat_ofNat, show 2 ^ (32 * spanFor w) = 2 ^ 64 by rw [hw]; rfl]
    omega
  · rw [hlow, if_neg hw, BitVec.toNat_ofNat, spanFor, if_neg hw]
    rfl

theorem wide_of_typeWidth {t : Nat} (h : typeWidth t = some 64) : t = 12 ∨ t = 13 := by
  by_contra ht
  have hspan := (shape_of_typeWidth h).2.1
  rw [spanOf_eq, if_neg ht] at hspan
  exact absurd hspan (by decide)

theorem lanesExchange (s : State) (c : Crew) (d a b : BitVec 8) : LanesExchange s c d a b := by
  unfold LanesExchange
  refine ⟨fun h => ?ballot, ?_⟩
  case ballot =>
    obtain ⟨m, hm⟩ := c.setSS_eq d.toNat (c.active &&& maskOf (fun l => (c.getV a.toNat l).getLsbD b.toNat))
    refine completes_scalars h rfl rfl hm (completes_setSS h rfl rfl rfl) fun c' hc' l hl => ?_
    rw [Crew.getSS, hc', hc', ← Crew.getSS, Crew.getSS_setSS, BitVec.getLsbD_and, getLsbD_maskOf _ hl]
  intro w hw x bits
  have hspan := (shape_of_typeWidth hw).2.1
  refine ⟨?shuf, ?shufx, ?lrot, ?bcast, fun h => ?vget, ?vset⟩
  case shuf => exact writesLanes_whole hw rfl rfl rfl (fun l => Crew.whole_eq hw ..) fun l => wholeBits_lt ..
  case shufx => exact writesLanes_whole hw rfl rfl rfl (fun l => Crew.whole_eq hw ..) fun l => wholeBits_lt ..
  case lrot => exact writesLanes_whole hw rfl rfl rfl (fun l => Crew.whole_eq hw ..) fun l => wholeBits_lt ..
  case bcast => exact writesLanes_whole hw rfl rfl rfl (fun l => Crew.whole_eq hw ..) fun l => wholeBits_lt ..
  case vget =>
    obtain ⟨m, hm⟩ := c.setSN_eq (spanOf (modeType c.mode)) d.toNat (c.whole a.toNat b.toNat)
    refine completes_scalars h rfl rfl hm (completes_setSN h rfl rfl rfl) fun c' hc' => ?_
    obtain ⟨hlow, hhigh⟩ := c.getS_setSN w d.toNat (c.whole a.toNat b.toNat)
    obtain ⟨hlow', hhigh'⟩ := ofNat_whole c a.toNat b.toNat
    rw [← hspan] at hlow hhigh
    exact ⟨((hc' _).trans hlow).trans hlow', fun h64 => ((hc' _).trans (hhigh h64)).trans (hhigh' (wide_of_typeWidth (h64 ▸ hw)))⟩
  case vset =>
    refine writesLanes_of_mask (m := c.active &&& ((1 <<< b.toNat : Nat) : Mask)) (g := fun _ => c.getSN (spanOf (modeType c.mode)) a.toNat)
      rfl rfl (fun l hl => ?_) (by rw [← hspan]; rfl) fun c' l hl ha hv => hv.trans ?_
    · rw [BitVec.getLsbD_and, Bool.and_eq_true] at hl
      exact hl.1
    · rw [BitVec.getLsbD_and, ha, Bool.true_and, getLsbD_oneLane _ hl, hspan, getSN_spanFor, Nat.mod_eq_of_lt (scalarBits_lt ..)]
      simp only [decide_eq_true_eq, eq_comm (a := b.toNat)]
      rfl

end Sys2Proof.Machine
end

section
/-! PROOF of O60, the reductions, and the statement (R142, R143). -/

namespace Sys2Proof.Machine

/-! ## Reductions of integers -/

section
variable {s : State} {c : Crew} {i : Instr} {os : List Opnd} {d a w : Nat} {sg : Bool} {fi : IntFmt → Bool → List Int → Nat}
  {ff : Fmt → Rnd → List Val → Nat} {P : Crew → Prop}

/-- The values of element `k` in the active lanes. -/
def Crew.laneInts (c : Crew) (w : Nat) (sg : Bool) (a k : Nat) : List Int :=
  (lanesOf c.active).map (fun l => elemInt w sg (elemBits c w a l k))

/-- The values of an f32 register in the active lanes. -/
def Crew.laneVals (c : Crew) (a : Nat) : List Val :=
  (lanesOf c.active).map (fun l => Fmt.binary32.read (c.modex.getLsbD 0) (c.getV a l).toNat)

theorem Crew.laneInts_mem_range {k : Nat} (hw : 0 < w) :
    ∀ x ∈ c.laneInts w sg a k, (IntFmt.mk sg w).min ≤ x ∧ x ≤ (IntFmt.mk sg w).max := by
  simp only [Crew.laneInts, List.mem_map]
  rintro _ ⟨l, -, rfl⟩
  exact elemInt_mem_range hw sg (elemBits_lt ..)

theorem Crew.reduce_of_intType (hty : intType (modeType c.mode) = some (w, sg)) : c.reduce d a fi ff =
    c.setSN (spanFor w) d (packElems w ((List.range (countFor w)).map (fun k => fi ⟨sg, w⟩ (modeSat c.mode) (c.laneInts w sg a k)))) := by
  obtain ⟨-, hspan, hcount, -⟩ := shape_of_typeWidth (typeWidth_of_intType hty)
  simp only [Crew.reduce, elemKind_of_intType hty, hspan, hcount, Crew.read_elem hty, Crew.laneInts]

theorem completes_reduceInts (hty : intType (modeType c.mode) = some (w, sg)) (h : Issues s c i = true)
    (he : exec i s = issueCrew i s fun c => c.reduce d a fi ff) (hp : flowKind i = .plain)
    (ho : operands c.mode i = .st c.mode 0 d .write :: os)
    (hP : ∀ c' : Crew, (∀ k, w * k < max 32 w → scalarBits c' w d / 2 ^ (w * k) % 2 ^ w =
      fi ⟨sg, w⟩ (modeSat c.mode) (c.laneInts w sg a k) % 2 ^ w) → P c') :
    Completes s c i (fun t c' => Still s t ∧ c'.rest = c.rest ∧ c'.vreg = c.vreg ∧ ModesKept c c' ∧ RegsKept c c' i ∧ P c') := by
  have hmem := (shape_of_typeWidth (typeWidth_of_intType hty)).2.2.2
  have hf := c.reduce_of_intType (d := d) (a := a) (fi := fi) (ff := ff) hty
  obtain ⟨m, hm⟩ := c.setSN_eq (spanFor w) d
    (packElems w ((List.range (countFor w)).map (fun k => fi ⟨sg, w⟩ (modeSat c.mode) (c.laneInts w sg a k))))
  refine completes_scalars h he hp (hf.trans hm) (completes_reduce h he hp ho) fun c' hc' => hP c' fun k hk => ?_
  have hbits : scalarBits c' w d = scalarBits (c.reduce d a fi ff) w d := by rw [scalarBits, hc', hc', ← scalarBits]
  rw [hbits, hf, scalarBits_setSN, ← max_eq_spanFor hmem]
  refine (elemAt_mod _ (mul_add_le_max hmem hk)).trans ((elemAt_packElems w _ k (by simpa using (lt_countFor_iff hmem).mpr hk)).trans ?_)
  rw [List.getElem_map, List.getElem_range]

end

/-- The element that holds the best of a list of values, or the value for none, holds it exactly. -/
theorem elemInt_of_best {w : Nat} {sg : Bool} {xs : List Int} {no y : Int} {Q : Prop} (hw : 0 < w)
    (hxs : ∀ x ∈ xs, (IntFmt.mk sg w).min ≤ x ∧ x ≤ (IntFmt.mk sg w).max)
    (hno : (IntFmt.mk sg w).min ≤ no ∧ no ≤ (IntFmt.mk sg w).max)
    (hy : (xs = [] → y = no) ∧ (xs ≠ [] → y ∈ xs ∧ Q)) : elemInt w sg (lowBits w y % 2 ^ w) = y := by
  have hrange : (IntFmt.mk sg w).min ≤ y ∧ y ≤ (IntFmt.mk sg w).max := by
    by_cases h : xs = []
    · rwa [hy.1 h]
    · exact hxs y (hy.2 h).1
  rw [Nat.mod_eq_of_lt (lowBits_lt ..), elemInt_lowBits hw hrange.1 hrange.2]

/-- The best of the active lanes' values, said of the lanes. -/
theorem best_of_lanes {c : Crew} {w : Nat} {sg : Bool} {a k : Nat} {y no : Int} {le : Int → Int → Prop}
    (h : (c.laneInts w sg a k = [] → y = no) ∧
      (c.laneInts w sg a k ≠ [] → y ∈ c.laneInts w sg a k ∧ ∀ x ∈ c.laneInts w sg a k, le y x)) :
    (lanesOf c.active = [] → y = no) ∧ (lanesOf c.active ≠ [] → (∃ l ∈ lanesOf c.active, y = elemInt w sg (elemBits c w a l k)) ∧
      ∀ l ∈ lanesOf c.active, le y (elemInt w sg (elemBits c w a l k))) := by
  unfold Crew.laneInts at h
  refine ⟨fun hl => h.1 (by rw [hl]; rfl), fun hl => ?_⟩
  obtain ⟨hmem, hle⟩ := h.2 (by simpa using hl)
  obtain ⟨l, hl', hy⟩ := List.mem_map.mp hmem
  exact ⟨⟨l, hl', hy.symm⟩, fun j hj => hle _ (List.mem_map.mpr ⟨j, hj, rfl⟩)⟩

/-! ## Reductions of f32 -/

section
variable {s : State} {c : Crew} {i : Instr} {os : List Opnd} {d a : Nat} {fi : IntFmt → Bool → List Int → Nat}
  {ff : Fmt → Rnd → List Val → Nat} (hty : modeType c.mode = 2) (hr : modeRnd c.mode ≠ 5)
include hty hr

theorem Crew.reduce_f32 : c.reduce d a fi ff =
    c.setS d (BitVec.ofNat 32 (ff .binary32 ⟨modeRnd c.mode, c.mode.getLsbD 15, c.modex.getLsbD 0, 0⟩ (c.laneVals a))) := by
  have hword (x : Nat) : BitVec.ofNat 32 (packElems 32 [x]) = BitVec.ofNat 32 x := by
    refine BitVec.eq_of_toNat_eq ?_
    simp [packElems]
  have hkind : elemKind (modeType c.mode) = .flt .binary32 := by rw [hty]; rfl
  have hcount : countOf (modeType c.mode) = 1 := by rw [hty]; rfl
  simp only [Crew.reduce, hkind, hcount, decide_eq_false hr, Bool.false_eq_true, if_false, Crew.elems_of_not_draws, Crew.rndWith_of_ne hr,
    List.range_one, List.map_cons, List.map_nil, elem_word hty]
  rw [Crew.laneVals]
  cases lanesOf c.active <;> exact congrArg (c.setS d) (hword _)

theorem completes_reduceF32 {F : Nat} (h : Issues s c i = true) (he : exec i s = issueCrew i s fun c => c.reduce d a fi ff)
    (hp : flowKind i = .plain) (ho : operands c.mode i = .st c.mode 0 d .write :: os)
    (hF : ff .binary32 ⟨modeRnd c.mode, c.mode.getLsbD 15, c.modex.getLsbD 0, 0⟩ (c.laneVals a) = F) :
    Completes s c i (fun t c' => Still s t ∧ c'.rest = c.rest ∧ c'.vreg = c.vreg ∧ ModesKept c c' ∧ RegsKept c c' i ∧
      c'.getS d = BitVec.ofNat 32 F) := by
  have hf := Crew.reduce_f32 (d := d) (a := a) (fi := fi) (ff := ff) hty hr
  refine completes_scalars h he hp hf (completes_reduce h he hp ho) fun c' hc' => ?_
  rw [hc', hf, Crew.getS_setS, if_pos rfl, hF]

end

theorem lanesReduce (s : State) (c : Crew) (d a : BitVec 8) : LanesReduce s c d a := by
  unfold LanesReduce
  intro ty sat lanes gives
  refine ⟨fun w sg hty => ?_, fun hty hr => ?_⟩
  · intro get out best
    have hw := pos_of_intType hty
    obtain ⟨hlo, hhi⟩ := elemInt_mem_range hw sg (Nat.two_pow_pos w)
    have hrange := hlo.trans hhi
    refine ⟨fun h => ?redadd, fun h => ?redmin, fun h => ?redmax⟩
    case redadd =>
      refine completes_reduceInts hty h rfl rfl rfl fun c' hc' k hk => (hc' k hk).trans ?_
      rw [← List.sum_eq_foldl, fitInt_eq_writtenInt hw]
      exact Nat.mod_eq_of_lt (writtenInt_lt ..)
    case redmin =>
      refine completes_reduceInts hty h rfl rfl rfl fun c' hc' k hk => ?_
      have hmem := c.laneInts_mem_range (sg := sg) (a := a.toNat) (k := k) hw
      have hfold := foldl_smaller fun x hx => (hmem x hx).2
      have hout : elemInt w sg (out c' k) = _ := (congrArg _ (hc' k hk)).trans (elemInt_of_best hw hmem ⟨hrange, le_rfl⟩ hfold)
      have hbest := best_of_lanes (le := fun x y => x ≤ y) hfold
      rwa [← hout] at hbest
    case redmax =>
      refine completes_reduceInts hty h rfl rfl rfl fun c' hc' k hk => ?_
      have hmem := c.laneInts_mem_range (sg := sg) (a := a.toNat) (k := k) hw
      have hfold := foldl_larger fun x hx => (hmem x hx).1
      have hout : elemInt w sg (out c' k) = _ := (congrArg _ (hc' k hk)).trans (elemInt_of_best hw hmem ⟨le_rfl, hrange⟩ hfold)
      have hbest := best_of_lanes (le := fun x y => y ≤ x) hfold
      rwa [← hout] at hbest
  · intro x r
    have hempty {α : Type} (e : α) (f : List Val → α) : (if (c.laneVals a.toNat).isEmpty then e else f (c.laneVals a.toNat)) =
        if lanes = [] then e else f (lanes.map x) := by
      have hiff : (c.laneVals a.toNat).isEmpty = true ↔ lanes = [] := by
        rw [List.isEmpty_iff, Crew.laneVals, List.map_eq_nil_iff]
        rfl
      simp only [hiff]
      rfl
    refine ⟨fun h => ?redadd, fun h => ?redmin, fun h => ?redmax⟩
    case redadd => exact completes_reduceF32 hty hr h rfl rfl rfl (congrArg _ (hempty _ _))
    case redmin =>
      refine completes_reduceF32 hty hr h rfl rfl rfl ?_
      exact (rndFloat_truncating ..).trans (congrArg _ (hempty _ fun xs => xs.foldl Val.min .nan))
    case redmax =>
      refine completes_reduceF32 hty hr h rfl rfl rfl ?_
      exact (rndFloat_truncating ..).trans (congrArg _ (hempty _ fun xs => xs.foldl Val.max .nan))

/-! ## The statement -/

/-- Settles O60: each instruction is a loop over the active lanes or a scalar write, and the layers above say what each element then holds. -/
theorem laneArithmeticFollowsItsTables : Obligations.LaneArithmeticFollowsItsTables := by
  unfold Obligations.LaneArithmeticFollowsItsTables
  intro s c d a b ty sat on
  refine ⟨fun w sg hty => ?integers, fun hty hr => ?floats, fun h => ?sel, fun h => ?mov, fun m => ⟨fun h => ?movi, fun h => ?movhi⟩,
    conversionsRound s c d a b, seedsAndNumbers s c d a b, bitsAreManipulated s c d a b, lanesExchange s c d a b, lanesReduce s c d a⟩
  case integers =>
    intro get writes
    refine ⟨fun i sats f hi h => ?two, fun h => ?addi, fun h => ?abs, fun h => ?neg, fun p i rel hi h => ?compare⟩
    case two => exact completes_elements (writesLanes_intFunctions hty hi) h fun _ _ => rfl
    case addi =>
      have hl := writesLanes_arith1 (s := s) (i := .addi d a b) hty rfl rfl rfl
      exact completes_elements hl h fun _ _ => rfl
    case abs =>
      have hl := writesLanes_arith1 (s := s) (i := .abs d a) hty rfl rfl rfl
      exact completes_elements hl h fun l k => by rw [magnitude_eq_max]
    case neg =>
      have hl := writesLanes_arith1 (s := s) (i := .neg d a) hty rfl rfl rfl
      exact completes_elements hl h fun _ _ => rfl
    case compare =>
      simp only [List.mem_cons, Prod.mk.injEq, List.not_mem_nil, or_false] at hi
      rcases hi with ⟨rfl, rfl⟩ | ⟨rfl, rfl⟩ | ⟨rfl, rfl⟩ | ⟨rfl, rfl⟩ | ⟨rfl, rfl⟩ <;> exact completes_compare hty h rfl rfl
  case floats =>
    intro r x i f hi h
    have hkind : elemKind (modeType c.mode) = .flt .binary32 := by rw [show modeType c.mode = 2 from hty]; rfl
    simp only [List.mem_cons, Prod.mk.injEq, List.not_mem_nil, or_false] at hi
    rcases hi with ⟨rfl, rfl⟩ | ⟨rfl, rfl⟩ | ⟨rfl, rfl⟩ | ⟨rfl, rfl⟩
    all_goals
      refine completes_words hty hr rfl rfl h rfl fun l => ?_
      simp only [hkind, elem_word hty]
      rfl
  case sel =>
    refine (completes_copied h rfl rfl rfl).imp fun t c' hl => ⟨hl.still, hl.sreg, hl.modes, fun l hlt ha => ?_, hl.kept⟩
    rw [hl.low (spanOf_pos _) hlt ha]
    split
    · exact (ofNat_whole c a.toNat l).1
    · exact (ofNat_whole c b.toNat l).1
  case mov =>
    refine (completes_copied h rfl rfl rfl).imp fun t c' hl => ⟨hl.still, hl.sreg, hl.modes, fun l ⟨hlt, ha⟩ => ?_, fun r l hlt hr => ?_⟩
    · refine ⟨(hl.low (spanOf_pos _) hlt ha).trans (ofNat_whole c a.toNat l).1, fun hw => ?_⟩
      rw [spanOf_eq, if_pos hw] at hl
      exact (hl.high hlt ha).trans ((ofNat_whole c a.toNat l).2 hw)
    · exact hl.kept r l hlt (hr.imp_left fun hn => Bool.eq_false_iff.mpr fun ha => hn ⟨hlt, ha⟩)
  case movi =>
    exact (completes_copied h rfl rfl rfl).imp fun t c' hl => ⟨hl.still, hl.sreg, hl.modes, fun l ⟨hlt, ha⟩ => hl.movi hlt ha⟩
  case movhi =>
    refine (completes_lanesWritten h rfl rfl rfl).imp fun t c' hl =>
      ⟨hl.still, hl.sreg, hl.modes, fun l ⟨hlt, ha⟩ => ?_, fun r l hlt hr => ?_⟩
    · exact (hl.low one_pos hlt ha).trans (ofNat_high_low ..)
    · refine (hl.getV r l hlt).trans (if_neg ?_)
      rintro ⟨ha, hlo, hhi⟩
      exact hr.elim (fun hn => hn ⟨hlt, ha⟩) fun hne => hne (by omega)

end Sys2Proof.Machine
end

section
/-! PROOFS of O32 and O33, the layer of what a performance of accesses leaves outstanding. -/

namespace Sys2Proof.Machine

/-! ## Outstanding accesses but for their requests -/

/-- An outstanding access as if its lanes had asked for their lines (R155). -/
def Pend.spent (p : Pend) : Pend := { p with accs := p.accs.map fun a => { a with fresh := false } }

/-- A crew without its registers, and with its outstanding accesses as if they had asked for their lines. -/
def Crew.awaiting (c : Crew) : Crew := { c with sreg := [], vreg := [], pend := c.pend.map Pend.spent }

theorem Crew.awaiting_blindToRegs : BlindToRegs Crew.awaiting := fun _ _ _ => rfl

theorem Pend.spent_asked (p : Pend) (lines : List Nat) : ({ p with accs := p.accs.map fun a => a.asked lines } : Pend).spent = p.spent := by
  unfold Pend.spent
  simp only [List.map_map, Pend.mk.injEq, and_true, true_and]
  refine List.map_congr_left fun a _ => ?_
  show ({ a.asked lines with fresh := false } : LaneAcc) = { a with fresh := false }
  unfold LaneAcc.asked
  split <;> rfl

theorem State.awaiting_spendLines (s : State) (k seq : Nat) (lines : List Nat) :
    (s.spendLines k seq lines).scene Crew.awaiting = s.scene Crew.awaiting := by
  unfold State.spendLines
  split
  · rfl
  · refine s.scene_mapCrewAt _ k _ fun c => ?_
    unfold Crew.awaiting
    simp only [List.map_map]
    refine congrArg (fun ps => ({ c with sreg := [], vreg := [], pend := ps } : Crew)) (List.map_congr_left fun p _ => ?_)
    show (if p.seq = seq then _ else p : Pend).spent = p.spent
    split
    · exact p.spent_asked lines
    · rfl

/-- A performance takes its accesses from what the crew has outstanding, and leaves the rest as they are but for their requests. -/
theorem State.awaiting_perform {s : State} {k : Nat} {c : Crew} (hc : s.crews.get? k = some c) (want : Pend → Bool) :
    (s.perform k want).scene Crew.awaiting = (s.setCrewAt k { c with pend := leftover want c.pend }).scene Crew.awaiting := by
  have hset (g : Crew → Crew) : s.mapCrewAt k g = s.setCrewAt k (g c) := by
    unfold State.mapCrewAt
    rw [hc]
  unfold State.perform
  rw [hc]
  dsimp only
  split
  next hall =>
    rw [leftover_of_unmarked fun m hm => by simpa using List.all_eq_true.mp hall m (List.mem_reverse.mpr hm)]
    exact (s.scene_mapCrewAt _ k id fun _ => rfl).symm.trans (congrArg _ (hset id))
  · rw [hset]
    refine State.scene_foldl Crew.awaiting (fun u m => ?_) _ _
    rw [State.awaiting_spendLines, State.scene_performLanes Crew.awaiting_blindToRegs]

/-- `c'` is `c` but for its registers, and what it has outstanding `c` has too, but for requests, and with the property. -/
def Crew.Leaves (P : Pend → Prop) (c c' : Crew) : Prop := c'.still = c.still ∧ ∀ q ∈ c'.pend, ∃ p ∈ c.pend, q.spent = p.spent ∧ P p

theorem State.perform_leaves {s : State} {k : Nat} {c : Crew} (hc : s.crews.get? k = some c) (want : Pend → Bool) :
    ∃ c', (s.perform k want).crews.get? k = some c' ∧ c.Leaves (fun p => p.kind.isRemote = true ∨ want p = false) c' := by
  have hset : (s.setCrewAt k { c with pend := leftover want c.pend }).crews.get? k = some { c with pend := leftover want c.pend } := by
    rw [State.crews_setCrewAt, if_pos rfl]
  obtain ⟨c', hc', ho⟩ := State.crew_of_scene (State.awaiting_perform hc want) hset
  refine ⟨c', hc', (congrArg (fun x : Crew => { x with pend := [] }) ho :), fun q hq => ?_⟩
  have hpend : c'.pend.map Pend.spent = (leftover want c.pend).map Pend.spent := congrArg Crew.pend ho
  obtain ⟨p, hp, hpq⟩ := List.mem_map.mp (hpend ▸ List.mem_map_of_mem hq : q.spent ∈ (leftover want c.pend).map Pend.spent)
  obtain ⟨hmem, hleft⟩ := mem_leftover hp
  exact ⟨p, hmem, hpq.symm, hleft⟩

/-- What a crew has outstanding after a performance of some crew's accesses, it had outstanding before. -/
theorem State.pend_of_perform {s : State} {j k : Nat} {want : Pend → Bool} {c' : Crew} (h : (s.perform j want).crews.get? k = some c') :
    ∃ c, s.crews.get? k = some c ∧ ∀ q ∈ c'.pend, ∃ p ∈ c.pend, q.spent = p.spent ∧ (k = j → p.kind.isRemote = true ∨ want p = false) := by
  cases hc : s.crews.get? j with
  | none =>
    unfold State.perform at h
    rw [hc] at h
    exact ⟨c', h, fun q hq => ⟨q, hq, rfl, fun hk => by rw [hk, hc] at h; cases h⟩⟩
  | some c =>
    by_cases hk : k = j
    · subst hk
      obtain ⟨x, hx, -, hleft⟩ := State.perform_leaves hc want
      rw [hx] at h
      cases h
      exact ⟨c, hc, fun q hq => (hleft q hq).imp fun p ⟨hp, hpq, hw⟩ => ⟨hp, hpq, fun _ => hw⟩⟩
    · have hat := congrFun (congrArg Scene.crewAt (State.awaiting_perform hc want)) k
      have hmap : ((s.perform j want).crews.get? k).map Crew.awaiting = (s.crews.get? k).map Crew.awaiting :=
        hat.trans (congrArg (Option.map Crew.awaiting) (by rw [State.crews_setCrewAt, if_neg hk]))
      rw [h, Option.map_some] at hmap
      obtain ⟨x, hx, hxc⟩ := Option.map_eq_some_iff.mp hmap.symm
      refine ⟨x, hx, fun q hq => ?_⟩
      have hpend : x.pend.map Pend.spent = c'.pend.map Pend.spent := congrArg Crew.pend hxc
      obtain ⟨p, hp, hpq⟩ := List.mem_map.mp (hpend ▸ List.mem_map_of_mem hq : q.spent ∈ x.pend.map Pend.spent)
      exact ⟨p, hp, hpq.symm, fun h => absurd h hk⟩

/-- The cores afterwards are the body's, but for their counters. -/
theorem completes_of_done_cores {s u : State} {c x : Crew} {i : Instr} {body : State → Res} {P : State → Crew → Prop}
    (h : Issues s c i = true) (he : exec i s = issue i s body) (hb : body s = .done u) (hx : u.crew? = some x) (hf : u.fkey = s.fkey)
    (hk : x.pc = c.pc ∧ x.issued = c.issued ∧ x.frames = c.frames)
    (hP : ∀ t c', c'.Like x → (∀ n, (t.core n).uncounted = (u.core n).uncounted) → P t c') : Completes s c i P := by
  obtain ⟨t, c', hexec, hget, hpc, hissued, hframes, hwaiting, hl⟩ := completes_of_done (P := fun _ c' => c'.Like x) h he hb hx hf hk
    fun _ _ hl _ => hl
  refine ⟨t, c', hexec, hget, hpc, hissued, hframes, hwaiting, hP t c' hl fun n => ?_⟩
  rw [he, issue_of_issues h body, hb] at hexec
  cases hexec
  exact (finish_done i c u).cores n

end Sys2Proof.Machine
end

section
/-! PROOF of O32: fences. -/

namespace Sys2Proof.Machine

/-! ## The stores that releases have acknowledged for a core's agents (R179) -/

theorem Pend.coversCore_of_spent {p q : Pend} (h : q.spent = p.spent) (k core : Nat) : q.coversCore k core = p.coversCore k core := by
  unfold Pend.coversCore
  rw [show q.acked = p.acked from (congrArg Pend.acked h :)]

/-- The crew at `k` has no store outstanding that a release has acknowledged for the agents of `core`. -/
def State.ClearFor (s : State) (core k : Nat) : Prop :=
  ∀ c, s.crews.get? k = some c → ∀ p ∈ c.pend, p.kind.isRemote = true ∨ p.coversCore k core = false

theorem State.clearFor_perform_self (s : State) (core k : Nat) : (s.perform k fun p => p.coversCore k core).ClearFor core k := by
  intro c' hc' q hq
  obtain ⟨c, -, hleft⟩ := State.pend_of_perform hc'
  obtain ⟨p, -, hpq, hp⟩ := hleft q hq
  rw [show q.kind = p.kind from (congrArg Pend.kind hpq :), Pend.coversCore_of_spent hpq]
  exact hp rfl

theorem State.ClearFor.perform {s : State} {core k : Nat} (h : s.ClearFor core k) (j : Nat) (want : Pend → Bool) :
    (s.perform j want).ClearFor core k := by
  intro c' hc' q hq
  obtain ⟨c, hc, hleft⟩ := State.pend_of_perform hc'
  obtain ⟨p, hp, hpq, -⟩ := hleft q hq
  rw [show q.kind = p.kind from (congrArg Pend.kind hpq :), Pend.coversCore_of_spent hpq]
  exact h c hc p hp

/-- A crew is clear once its turn of the settling has come, and stays so. -/
theorem State.clearFor_foldl {self : Option Nat} {core k : Nat} (hself : some k ≠ self) (ks : List Nat) : ∀ {s : State},
    k ∈ ks ∨ s.ClearFor core k →
      (ks.foldl (fun s j => if some j = self then s else s.perform j fun p => p.coversCore j core) s).ClearFor core k := by
  induction ks with
  | nil => exact fun h => h.resolve_left List.not_mem_nil
  | cons j ks ih =>
    intro s h
    refine ih (or_iff_not_imp_left.mpr fun hnot => ?_)
    dsimp only
    by_cases hj : k = j
    · subst hj
      rw [if_neg hself]
      exact s.clearFor_perform_self core k
    · have hclear : s.ClearFor core k := h.resolve_left fun hmem => (List.mem_cons.mp hmem).elim hj hnot
      split
      · exact hclear
      · exact hclear.perform j _

theorem State.clearFor_settleScopes (s : State) {self : Option Nat} {core k : Nat} (hself : some k ≠ self) :
    (s.settleScopes core self).ClearFor core k := by
  refine State.clearFor_foldl hself _ ?_
  cases hc : s.crews.get? k with
  | none => exact .inr fun c h => by rw [hc] at h; cases h
  | some c => exact .inl (List.mem_map_of_mem (f := Prod.fst) (SMap.mem_of_get?_eq_some hc))

/-! ## Releases and acquires -/

/-- A store that a release at scope `k` leaves to its point of coherence, acknowledged for the agents of the scope (R179, R191). -/
def Pend.AckedAt (k : Nat) (p : Pend) : Prop :=
  (p.kind = .store ∨ p.kind = .tstore) ∧ k ≤ 2 ∧ k ≤ p.acked ∧ ∀ a ∈ p.accs, a.loc.cached = true

/-- A store that a release at scope `k` need not perform (R179). -/
def Pend.Trails (k : Nat) (p : Pend) : Prop := (p.kind = .store ∨ p.kind = .tstore) ∧ k ≤ 2 ∧ ∀ a ∈ p.accs, a.loc.cached = true

theorem Pend.Trails.of_spent {p q : Pend} {k : Nat} (h : q.spent = p.spent) (hp : p.Trails k) : q.Trails k := by
  obtain ⟨hkind, hk, hcached⟩ := hp
  refine ⟨by rwa [show q.kind = p.kind from (congrArg Pend.kind h :)], hk, fun a ha => ?_⟩
  have haccs : q.spent.accs = p.spent.accs := congrArg Pend.accs h
  obtain ⟨b, hb, hab⟩ := List.mem_map.mp (haccs ▸ List.mem_map_of_mem ha : ({ a with fresh := false } : LaneAcc) ∈ p.spent.accs)
  rw [show a.loc = b.loc from (congrArg LaneAcc.loc hab :).symm]
  exact hcached b hb

theorem Pend.trails_of_mayTrail {s : State} {core k : Nat} {p : Pend} (h : (!(decide (k < 3) && s.mayTrail core k p)) = false) : p.Trails k := by
  simp only [State.mayTrail, Bool.not_eq_false', Bool.and_eq_true, Bool.or_eq_true, decide_eq_true_eq, List.all_eq_true] at h
  obtain ⟨hk, ⟨hkind, hcached⟩, -⟩ := h
  exact ⟨hkind, by omega, hcached⟩

theorem Pend.AckedAt.of_spent {p q : Pend} {k : Nat} (h : q.spent = p.spent) (hp : p.AckedAt k) : q.AckedAt k := by
  obtain ⟨hkind, hk, hacked, hcached⟩ := hp
  obtain ⟨hkind', -, hcached'⟩ := Pend.Trails.of_spent h ⟨hkind, hk, hcached⟩
  exact ⟨hkind', hk, by rwa [show q.acked = p.acked from (congrArg Pend.acked h :)], hcached'⟩

theorem Pend.ackedAt_ackAt {p : Pend} {k : Nat} (h : p.kind.isRemote = true ∨ p.Trails k) :
    (p.ackAt k).kind.isRemote = true ∨ (p.ackAt k).AckedAt k := by
  unfold Pend.ackAt
  split
  next hr => exact .inl hr
  next hr =>
    obtain ⟨hkind, hk, hcached⟩ := h.resolve_left hr
    exact .inr ⟨hkind, hk, le_max_right _ _, hcached⟩

/-- A release leaves peers' accesses and, at core or die scope, stores that it acknowledges. -/
theorem State.release_leaves {s : State} {key : Nat} {c : Crew} (hc : s.crews.get? key = some c) (k : Nat) :
    ∃ x, (s.release key k).crews.get? key = some x ∧ x.still = c.still ∧ (∀ q ∈ x.pend, ∃ p ∈ c.pend, q.kind = p.kind) ∧
      (k ≠ 0 → ∀ q ∈ x.pend, q.kind.isRemote = true ∨ q.AckedAt k) ∧ (c.pend = [] → x = c) := by
  unfold State.release
  split
  next hk => exact ⟨c, hc, rfl, fun q hq => ⟨q, hq, rfl⟩, fun h => absurd hk h, fun _ => rfl⟩
  dsimp only
  obtain ⟨x, hx, hstill, hleft⟩ := State.perform_leaves hc fun p => !(decide (k < 3) && s.mayTrail (key / 64) k p)
  have hidle : c.pend = [] → x = c := fun h => by
    rw [State.perform_of_none hc (by simp [h]), hc] at hx
    exact (Option.some.inj hx).symm
  have hkinds : ∀ q ∈ x.pend, ∃ p ∈ c.pend, q.kind = p.kind := fun q hq =>
    (hleft q hq).imp fun p ⟨hp, hpq, _⟩ => ⟨hp, (congrArg Pend.kind hpq :)⟩
  have htrails : ∀ q ∈ x.pend, q.kind.isRemote = true ∨ q.Trails k := fun q hq => by
    obtain ⟨p, -, hpq, hp⟩ := hleft q hq
    rw [show q.kind = p.kind from (congrArg Pend.kind hpq :)]
    exact hp.imp_right fun h => (Pend.trails_of_mayTrail h).of_spent hpq
  rw [hx, apply_ite State.crews, State.writeBack_crews, ite_self, Option.elim_some]
  split
  next hall =>
    refine ⟨x, hx, hstill, hkinds, fun _ q hq => ?_, hidle⟩
    have hq' := List.all_eq_true.mp hall q hq
    rw [Bool.or_eq_true, decide_eq_true_eq] at hq'
    by_cases hr : q.kind.isRemote = true
    · exact .inl hr
    · obtain ⟨hkind, hk, hcached⟩ := (htrails q hq).resolve_left hr
      exact .inr ⟨hkind, hk, hq'.resolve_left hr, hcached⟩
  next hall =>
    refine ⟨{ x with pend := x.pend.map fun p => p.ackAt k }, ?_, hstill, fun q hq => ?_, fun _ q hq => ?_, fun h => ?_⟩
    · unfold State.mapCrewAt
      rw [hx]
      exact (State.crews_setCrewAt ..).trans (if_pos rfl)
    · obtain ⟨p, hp, rfl⟩ := List.mem_map.mp hq
      obtain ⟨r, hr, hpr⟩ := hkinds p hp
      refine ⟨r, hr, Eq.trans ?_ hpr⟩
      unfold Pend.ackAt
      split <;> rfl
    · obtain ⟨p, hp, rfl⟩ := List.mem_map.mp hq
      exact Pend.ackedAt_ackAt (htrails p hp)
    · exact absurd (by rw [hidle h, h]; rfl) hall

@[simp] theorem State.scene_writeBack (f : Crew → Crew) (s : State) (core : Nat) (which : Nat → Bool) :
    (s.writeBack core which).scene f = s.scene f := by
  unfold State.writeBack
  refine State.scene_foldl f (fun u m => ?_) _ _
  split
  · exact State.scene_foldl f (fun _ _ => State.scene_setBytes ..) _ _
  · rfl

theorem State.scene_release (s : State) (key k : Nat) : (s.release key k).scene Crew.still = s.scene Crew.still := by
  have hack (t : State) : (t.mapCrewAt key fun c => { c with pend := c.pend.map fun p => p.ackAt k }).scene Crew.still = t.scene Crew.still :=
    t.scene_mapCrewAt _ key _ fun _ => rfl
  unfold State.release
  split
  · rfl
  dsimp only
  split <;> split <;> simp only [State.scene_writeBack, hack, State.scene_still_perform]

/-- An acquire leaves no load but those of peers. -/
theorem State.acquire_leaves {s : State} {key : Nat} {c : Crew} (hc : s.crews.get? key = some c) (k : Nat) :
    ∃ x, (s.acquire key k).crews.get? key = some x ∧ c.Leaves (fun p => p.kind.isRemote = true ∨ p.kind.isLoad = false) x ∧
      (c.pend = [] → x = c) := by
  obtain ⟨x, hx, hleaves⟩ := State.perform_leaves hc fun p => p.kind.isLoad
  refine ⟨x, ?_, hleaves, fun h => ?_⟩
  · unfold State.acquire State.acquireL1
    rwa [apply_ite State.crews, State.mapCore_crews, ite_self]
  · rw [State.perform_of_none hc (by simp [h]), hc] at hx
    exact (Option.some.inj hx).symm

theorem State.acquireL1_empty (s : State) (core : Nat) {k : Nat} (hk : 2 ≤ k) : ((s.acquireL1 core k).core core).l1 = [] := by
  unfold State.acquireL1
  rw [if_pos hk, State.core_mapCore, if_pos rfl]

/-! ## Fences -/

/-- What the release of a fence of a kind at a scope leaves of a crew `c` (R187). -/
structure Released (kind scope : Nat) (c x : Crew) : Prop where
  still : x.still = c.still
  kinds : ∀ q ∈ x.pend, ∃ p ∈ c.pend, q.kind = p.kind
  acked : kind ≠ 0 → scope ≠ 0 → ∀ q ∈ x.pend, q.kind.isRemote = true ∨ q.AckedAt scope
  idle : c.pend = [] → x = c

section
variable {s : State} {key kind scope : Nat} {c y : Crew} (hkind : kind ≤ 2)
include hkind

theorem released_of_fence (hc : s.crews.get? key = some c) :
    ∃ x, (if kind = 1 ∨ kind = 2 then s.release key scope else s).crews.get? key = some x ∧ Released kind scope c x := by
  split
  · obtain ⟨x, hx, hstill, hkinds, hacked, hidle⟩ := State.release_leaves hc scope
    exact ⟨x, hx, hstill, hkinds, fun _ => hacked, hidle⟩
  · exact ⟨c, hc, rfl, fun q hq => ⟨q, hq, rfl⟩, fun h => by omega, fun _ => rfl⟩

/-- The acquire of a fence comes after its release (R189). -/
theorem Released.acquired (h : Released kind scope c y) (hy : s.crews.get? key = some y) :
    ∃ x, (if kind = 0 ∨ kind = 2 then s.acquire key scope else s).crews.get? key = some x ∧ Released kind scope c x ∧
      (kind ≠ 1 → ∀ q ∈ x.pend, q.kind.isRemote = true ∨ q.kind.isLoad = false) := by
  split
  · obtain ⟨x, hx, ⟨hstill, hleft⟩, hidle⟩ := State.acquire_leaves hy scope
    refine ⟨x, hx, ⟨hstill.trans h.still, fun q hq => ?_, fun hk hs q hq => ?_, fun hp => ?_⟩, fun _ q hq => ?_⟩
    · obtain ⟨p, hp, hpq, -⟩ := hleft q hq
      exact (h.kinds p hp).imp fun r ⟨hr, hpr⟩ => ⟨hr, (congrArg Pend.kind hpq :).trans hpr⟩
    · obtain ⟨p, hp, hpq, -⟩ := hleft q hq
      rw [show q.kind = p.kind from (congrArg Pend.kind hpq :)]
      exact (h.acked hk hs p hp).imp_right (Pend.AckedAt.of_spent hpq)
    · have hyc := h.idle hp
      rw [hidle (by rw [hyc, hp]), hyc]
    · obtain ⟨p, -, hpq, hp⟩ := hleft q hq
      rwa [show q.kind = p.kind from (congrArg Pend.kind hpq :)]
  · exact ⟨y, hy, h, fun hk => by omega⟩

end

/-- A fence that waits for no peer completes with its accesses released and acquired. -/
theorem fenceBody_done {s : State} {c : Crew} {kind scope : Nat} (hc : s.crew? = some c) (hkind : kind ≤ 2)
    (hacq : kind ≠ 1 → c.acquireReady = true) (hrel : kind ≠ 0 → c.releaseReady scope = true) :
    ∃ u x, fenceBody kind scope s = .done u ∧ u.crew? = some x ∧ u.fkey = s.fkey ∧ Released kind scope c x ∧
      (kind ≠ 1 → ∀ q ∈ x.pend, q.kind.isRemote = true ∨ q.kind.isLoad = false) ∧
      (kind ≠ 1 → 2 ≤ scope → (u.core (s.fkey / 64)).l1 = []) := by
  obtain ⟨y, hy, hreleased⟩ := released_of_fence (scope := scope) hkind hc
  obtain ⟨x, hx, hx', hloads⟩ := hreleased.acquired hkind hy
  have hready : ¬ ((kind = 0 ∨ kind = 2) ∧ c.acquireReady = false ∨ (kind = 1 ∨ kind = 2) ∧ c.releaseReady scope = false) := by
    rintro (⟨hk, h⟩ | ⟨hk, h⟩)
    · rw [hacq (by omega)] at h; cases h
    · rw [hrel (by omega)] at h; cases h
  have hscene : (if kind = 1 ∨ kind = 2 then s.release s.fkey scope else s).scene Crew.still = s.scene Crew.still := by
    split
    · exact s.scene_release ..
    · rfl
  have hkey := State.fkey_of_scene hscene
  generalize hr : (if kind = 1 ∨ kind = 2 then s.release s.fkey scope else s) = r at *
  have hkey' : (if kind = 0 ∨ kind = 2 then r.acquire s.fkey scope else r).fkey = s.fkey := by
    split
    · exact (State.fkey_of_scene (r.scene_acquire ..)).trans hkey
    · exact hkey
  refine ⟨if kind = 0 ∨ kind = 2 then r.acquire s.fkey scope else r, x, ?_, ?_, hkey', hx', hloads, fun hk hs => ?_⟩
  · unfold fenceBody
    dsimp only
    rw [State.crew_of_crew? hc, if_neg hready, hr, hkey]
  · unfold State.crew?
    rwa [hkey']
  · rw [if_pos (by omega)]
    exact State.acquireL1_empty _ _ hs

theorem fields_of_issues {s : State} {c : Crew} {i : Instr} (h : Issues s c i = true) : fieldsOk i = true := by
  by_contra hf
  have hnone := checkIssue_of_issues h
  rw [checkIssue_of_fields (by rw [Bool.eq_false_iff.mpr hf]; rfl)] at hnone
  cases hnone

section
variable {s : State} {c : Crew} {k : BitVec 2} {sc : BitVec 3} {i : Instr} (hi : i = .fence k sc ∨ i = .fencej k sc) (h : Issues s c i = true)
include hi h

/-- A fence's kind and scope are codes of R196. -/
theorem fence_codes : k.toNat ≤ 2 ∧ sc.toNat ≤ 4 := by
  have hf := fields_of_issues h
  rcases hi with rfl | rfl <;> simpa [fieldsOk] using hf

/-- A FENCEJ with no job to wait for or to observe is a FENCE (R197). -/
theorem exec_fence (hjobs : i = .fencej k sc → k ≠ 0 → s.hasJobs s.fkey = false) (hobs : i = .fencej k sc → c.unobs = []) :
    ∃ body, exec i s = issue i s body ∧ body s = fenceBody k.toNat sc.toNat s := by
  rcases hi with rfl | rfl
  · exact ⟨_, rfl, rfl⟩
  refine ⟨_, rfl, ?_⟩
  split
  next hk => rw [hk]
  next hk =>
    have hall : s.observeAll = s := by
      unfold State.observeAll
      rw [State.crew_of_crew? (crew?_of_issues h), hobs rfl]
      rfl
    rw [hjobs rfl fun h0 => hk (by rw [h0]; rfl), if_neg Bool.false_ne_true, hall]

end

/-- Settles O32: a fence releases and then acquires, and before a crew's turn the others' acknowledged stores are performed. -/
theorem fencesSettleTheirAccesses : Obligations.FencesSettleTheirAccesses := by
  unfold Obligations.FencesSettleTheirAccesses
  refine ⟨fun s c k sc i hi h hslot hget hpeer hjobs hobs => ?fence, fun s k c hk hc p hp hlocal => ?scope⟩
  case fence =>
    obtain ⟨hkind, hscope⟩ := fence_codes hi h
    obtain ⟨body, he, hbody⟩ := exec_fence hi h hjobs hobs
    have hk0 : k.toNat ≠ 0 ↔ k ≠ 0 := by simp [BitVec.toNat_eq]
    have hk1 : k.toNat ≠ 1 ↔ k ≠ 1 := by simp [BitVec.toNat_eq]
    have hs0 : sc.toNat ≠ 0 ↔ sc ≠ 0 := by simp [BitVec.toNat_eq]
    have hs4 : sc.toNat = 4 ↔ sc = 4 := by simp [BitVec.toNat_eq]
    have hcore : s.fkey / 64 = s.focusCore := by unfold State.fkey crewKey; omega
    have hnoget (hk : k ≠ 1) : ∀ p ∈ c.pend, p.kind.isRemote = false ∨ p.kind.isLoad = false := by simpa using hget hk
    have hnopeer (hk : k ≠ 0) (hs : sc = 4) : ∀ p ∈ c.pend, p.kind.isRemote = false := by simpa using hpeer hk hs
    obtain ⟨u, x, hu, hx, hkey, hreleased, hloads, hl1⟩ := fenceBody_done (crew?_of_issues h) hkind (scope := sc.toNat)
      (fun hk => by simpa [Crew.acquireReady, or_iff_not_imp_left] using hnoget (hk1.mp hk))
      (fun hk => by
        unfold Crew.releaseReady
        by_cases hs : sc = 4
        · simpa using .inr (hnopeer (hk0.mp hk) hs)
        · have : sc.toNat ≠ 4 := fun h => hs (hs4.mp h)
          simp; omega)
    have hkinds := hreleased.kinds
    have hstill := hreleased.still
    refine completes_of_done_cores h he (hbody.trans hu) hx hkey
      ⟨(congrArg Crew.pc hstill :), (congrArg Crew.issued hstill :), (congrArg Crew.frames hstill :)⟩ fun t c' hl hcores => ?_
    have hpend : c'.pend = x.pend := (congrArg Crew.pend hl.rest :)
    have hrest : c'.still.rest = c.still.rest := (congrArg (fun y : Crew => y.still) hl.rest :).trans (congrArg Crew.rest hstill)
    have hleft (hk : k ≠ 0) (hs : sc ≠ 0) := hreleased.acked (hk0.mpr hk) (hs0.mpr hs)
    refine ⟨fun hk hs p hp => hleft hk hs p (hpend ▸ hp), fun hk hs => ?none, fun hk p hp => ?loads, fun hk hs => ?l1, ?modes,
      (congrArg Crew.am hrest :), (congrArg Crew.live hrest :), (congrArg Crew.paths hrest :), fun hp => ?regs⟩
    case none =>
      rw [hpend]
      refine List.eq_nil_iff_forall_not_mem.mpr fun q hq => ?_
      rcases hleft hk (by rw [hs]; decide) q hq with hr | ⟨-, htwo, -⟩
      · obtain ⟨p, hp, hpq⟩ := hkinds q hq
        rw [hpq, hnopeer hk hs p hp] at hr
        cases hr
      · rw [hs] at htwo
        exact absurd htwo (by decide)
    case loads =>
      rw [hpend] at hp
      rcases hloads (hk1.mpr hk) p hp with hr | hno
      · obtain ⟨q, hq, hpq⟩ := hkinds p hp
        rw [hpq] at hr ⊢
        exact (hnoget hk q hq).resolve_left (hr ▸ Bool.noConfusion)
      · exact hno
    case l1 => exact (congrArg Core.l1 (hcores s.focusCore) :).trans (hcore ▸ hl1 (hk1.mpr hk) hs)
    case modes =>
      exact ⟨hl.mode.trans (congrArg Crew.mode hstill :), hl.modex.trans (congrArg Crew.modex hstill :),
        hl.preds.trans (congrArg Crew.preds hstill :), hl.bars.trans (congrArg Crew.bars hstill :), hl.gens.trans (congrArg Crew.gens hstill :)⟩
    case regs =>
      rw [hl.sreg, hl.vreg, hreleased.idle hp]
      exact ⟨rfl, rfl⟩
  case scope =>
    have hclear := State.clearFor_settleScopes s (core := s.focusCore) (fun h => hk (Option.some.inj h)) c hc p hp
    unfold Pend.coversCore dieOf at hclear
    simpa [hlocal] using hclear

end Sys2Proof.Machine
end

section
/-! PROOF of O33, the issue of an atomic (R200, R202). -/

namespace Sys2Proof.Machine

/-! ## What an atomic may change of its crew -/

/-- A crew without its registers, generators, accesses and translations, and whatever release it has performed. -/
def Crew.outline (c : Crew) : Crew := { c with sreg := [], vreg := [], gens := [], pend := [], lastPage := [], released := false }

theorem Crew.outline_blindToRegs : BlindToRegs Crew.outline := fun _ _ _ => rfl

theorem State.focus_of_scene {f : Crew → Crew} {s t : State} (h : t.scene f = s.scene f) {c : Crew} (hc : s.crew? = some c) :
    ∃ x, t.crew? = some x ∧ f x = f c := by
  obtain ⟨x, hx, hxc⟩ := State.crew_of_scene h hc
  exact ⟨x, by unfold State.crew?; rwa [State.fkey_of_scene h], hxc⟩

theorem State.scene_mapCrew {f g : Crew → Crew} {s : State} {c : Crew} (hc : s.crew? = some c) (h : ∀ c, f (g c) = f c) :
    (s.mapCrew g).scene f = s.scene f := by
  rw [State.mapCrew_eq_mapCrewAt (by rw [hc]; rfl)]
  exact s.scene_mapCrewAt f _ g h

theorem Crew.setGens_eq (c : Crew) (m : Mask) (f : Nat → Word) : ∃ g, c.setGens m f = { c with gens := g } := by
  have hone (c : Crew) (l : Nat) (x : Word) : ∃ g, c.setGen l x = { c with gens := g } := by
    unfold Crew.setGen
    exact ⟨_, rfl⟩
  unfold Crew.setGens
  generalize lanesOf m = ls
  induction ls generalizing c with
  | nil => exact ⟨c.gens, rfl⟩
  | cons l ls ih =>
    obtain ⟨g, hg⟩ := hone c l (f l)
    obtain ⟨g', hg'⟩ := ih { c with gens := g }
    exact ⟨g', by rw [List.foldl_cons, hg, hg']⟩

section
variable {s t : State}

theorem State.outline_of_still (h : t.scene Crew.still = s.scene Crew.still) : t.scene Crew.outline = s.scene Crew.outline :=
  State.scene_comp h Crew.outline

theorem State.outline_of_unplaced (h : t.scene Crew.unplaced = s.scene Crew.unplaced) : t.scene Crew.outline = s.scene Crew.outline :=
  State.scene_comp h Crew.outline

theorem State.outline_performNow (s : State) (p : Pend) : (s.performNow p).scene Crew.outline = s.scene Crew.outline := by
  unfold State.performNow State.performAll
  rw [State.scene_performLanes Crew.outline_blindToRegs]
  exact State.outline_of_still (s.scene_still_perform ..)

theorem State.scene_acquireL1 (f : Crew → Crew) (s : State) (core k : Nat) : (s.acquireL1 core k).scene f = s.scene f := by
  unfold State.acquireL1
  split
  · exact s.scene_mapCore f _ _ fun _ => rfl
  · rfl

/-- The draws of a float atomic change the generators alone (R201). -/
theorem State.drawn_crew {c : Crew} (hc : s.crew? = some c) (b : Bool) (m : Mask) (f : Nat → Word) :
    ∃ g, (if b = true then s.mapCrew fun c => c.setGens m f else s).crew? = some { c with gens := g } ∧
      (if b = true then s.mapCrew fun c => c.setGens m f else s).scene Crew.outline = s.scene Crew.outline := by
  split
  · obtain ⟨g, hg⟩ := c.setGens_eq m f
    refine ⟨g, by rw [State.crew?_mapCrew, State.crew_of_crew? hc, hg], State.scene_mapCrew hc fun c => ?_⟩
    obtain ⟨g, hg⟩ := c.setGens_eq m f
    rw [hg]
    rfl
  · exact ⟨c.gens, hc, rfl⟩

end

/-! ## The release before an atomic, and its lanes -/

/-- The state in which an atomic's lanes are classified: after a release where one is due (R200). -/
def State.atomicReleased (s : State) (c : Crew) : State :=
  if (modexOrd c.modex = 2 ∨ modexOrd c.modex = 3) ∧ c.released = false then
    (s.release s.fkey (modexScope c.modex)).mapCrew fun q => { q with released := true }
  else s

theorem State.outline_atomicReleased {s : State} {c : Crew} (hc : s.crew? = some c) :
    (s.atomicReleased c).scene Crew.outline = s.scene Crew.outline := by
  unfold State.atomicReleased
  split
  · obtain ⟨x, hx, -⟩ := State.focus_of_scene (s.scene_release s.fkey (modexScope c.modex)) hc
    rw [State.scene_mapCrew hx fun _ => by rfl]
    exact State.outline_of_still (s.scene_release ..)
  · rfl

theorem vectorAccess_go {s t : State} {size : Nat} {need : Need} {isLoad : Bool} {lanes : List (Nat × Nat)} {xs : List LaneXlat}
    (h : s.classify s.focusCore (some s.fkey) s.crew.ctx size need isLoad lanes = (.go xs [], t)) (act : State → List LaneXlat → State) :
    vectorAccess s size need isLoad lanes act = .done (act t xs) := by
  unfold vectorAccess
  rw [h]

/-- An atomic's addresses are those of its lanes, without an offset. -/
theorem laneAddrs_zero (c : Crew) (a : Nat) : c.laneAddrs a 0 = laneVas c a 0 1 := by
  rw [show (0 : DWord) = scaledImm 0 1 by decide]
  exact laneAddrs_eq c a 0 1

theorem classify_of_atomicGoes {s t : State} {c : Crew} {a : BitVec 8} {xs : List LaneXlat} (h : AtomicGoes s t c a xs) :
    (s.atomicReleased c).classify (s.atomicReleased c).focusCore (some (s.atomicReleased c).fkey) c.ctx c.typeSize .both true
      (laneVas c a.toNat 0 1) = (.go xs [], t) := h.2

theorem typeSize_ne_16 (c : Crew) : c.typeSize ≠ 16 := by
  unfold Crew.typeSize spanOf
  split <;> decide

/-- What an atomic that goes on leaves: its crew but for registers, generators and accesses, and, relaxed, one access more. -/
theorem atomicBody_done {s t : State} {c : Crew} {a : BitVec 8} {xs : List LaneXlat} (hc : s.crew? = some c) (h : AtomicGoes s t c a xs)
    (op d b : Nat) : ∃ u x, atomicBody op d a.toNat b s = .done u ∧ u.crew? = some x ∧ u.fkey = s.fkey ∧ x.outline = c.outline ∧
      (modexOrd c.modex = 0 → xs ≠ [] → x.sreg = c.sreg ∧ x.vreg = c.vreg ∧ ∃ p : Pend, ∃ r sat ftz, x.pend = c.pend ++ [p] ∧
        p.kind = .atomic d op (modeType c.mode) r sat ftz ∧ p.size = 4 * spanOf (modeType c.mode) ∧
        p.accs.map (fun x : LaneAcc => (x.lane, x.va, x.loc)) = xs.map fun x => (x.lane, x.va, x.loc)) := by
  have hrel := State.outline_atomicReleased hc
  obtain ⟨y, hy, hyc⟩ := State.focus_of_scene hrel hc
  have hgo := classify_of_atomicGoes h
  rw [← show (s.atomicReleased c).crew.ctx = c.ctx by rw [State.crew_of_crew? hy]; exact (congrArg Crew.ctx hyc :), ← laneAddrs_zero] at hgo
  have hscene : t.scene Crew.outline = s.scene Crew.outline := (State.outline_of_unplaced (State.classify_go hgo).2.1).trans hrel
  obtain ⟨x, hx, hxc⟩ := State.focus_of_scene hscene hc
  have hrelaxed (hord : modexOrd c.modex = 0) : t.scene Crew.unplaced = s.scene Crew.unplaced := by
    rw [State.atomicReleased, if_neg (by omega)] at hgo
    exact (State.classify_go hgo).2.1
  have hready : ¬ ((modexOrd c.modex = 2 ∨ modexOrd c.modex = 3) ∧ c.released = false ∧ c.releaseReady (modexScope c.modex) = false) := by
    rintro ⟨hord, hno, hwait⟩
    rw [h.1 ⟨hord, hno⟩] at hwait
    cases hwait
  unfold atomicBody
  dsimp only
  rw [State.crew_of_crew? hc, if_neg hready, ← State.atomicReleased, vectorAccess_go hgo]
  dsimp only
  generalize (decide (op = 139 ∧ c.isFloat = true) && decide (modeRnd c.mode = 5)) = drawing
  generalize (fun l => if drawing = true then c.draws (countOf (modeType c.mode)) l else []) = gens
  obtain ⟨g, hz, hdrawn⟩ := State.drawn_crew hx drawing (lanesMask xs) fun l => BitVec.ofNat 32 ((c.draws (countOf (modeType c.mode)) l).getLastD 0)
  generalize (if drawing = true then t.mapCrew _ else t) = z at *
  by_cases hacq : modexOrd c.modex = 1 ∨ modexOrd c.modex = 3
  case pos =>
    simp only [if_pos hacq]
    generalize c.pendOf _ _ _ _ _ _ = p
    have hu : ((z.performNow p).acquireL1 (z.performNow p).focusCore (modexScope c.modex)).scene Crew.outline = s.scene Crew.outline :=
      (State.scene_acquireL1 ..).trans ((z.outline_performNow p).trans (hdrawn.trans hscene))
    obtain ⟨x', hx', hxc'⟩ := State.focus_of_scene hu hc
    exact ⟨_, x', rfl, hx', State.fkey_of_scene hu, hxc', fun h => by omega⟩
  case neg =>
    simp only [if_neg hacq]
    refine ⟨_, _, rfl, State.enterPend_crew? hz _, (State.enterPend_fkey ..).trans (State.fkey_of_scene (hdrawn.trans hscene)), ?_,
      fun hord hxs => ?_⟩
    · exact hxc
    · obtain ⟨x', hx', hplace⟩ := State.focus_of_scene (hrelaxed hord) hc
      obtain rfl : x = x' := Option.some.inj (hx.symm.trans hx')
      obtain ⟨p, hp, hsize, hkind, haccs⟩ := entries_of_one (c := c) (clock := z.clock) (kind := .atomic d op (modeType c.mode) (modeRnd c.mode)
        (modeSat c.mode) (modexFtz c.modex)) (data := c.getVN (c.typeSize / 4) d) (cmp := c.getVN (c.typeSize / 4) b) (gens := gens)
        hxs (typeSize_ne_16 c)
      refine ⟨(congrArg Crew.sreg hplace :), (congrArg Crew.vreg hplace :), p, _, _, _, ?_, hkind, hsize, by rw [haccs, List.map_map]; rfl⟩
      rw [← hp, ← show x.pend = c.pend from (congrArg Crew.pend hplace :)]
      rfl

theorem completes_atomic {s t : State} {c : Crew} {i : Instr} {d a b : BitVec 8} {op : Nat} {xs : List LaneXlat}
    (hgo : AtomicGoes s t c a xs) (he : exec i s = issue i s (atomicBody op d.toNat a.toNat b.toNat)) (h : Issues s c i = true) :
    Completes s c i (fun _ c' => AtomicLeaves c c' op d xs) := by
  obtain ⟨u, x, hu, hx, hkey, hsame, hrelaxed⟩ := atomicBody_done (crew?_of_issues h) hgo op d.toNat b.toNat
  refine completes_of_done h he hu hx hkey
    ⟨(congrArg Crew.pc hsame :), (congrArg Crew.issued hsame :), (congrArg Crew.frames hsame :)⟩ fun t c' hl _ => ?_
  have hrest : c'.outline.rest = c.outline.rest := (congrArg Crew.outline hl.rest :).trans (congrArg Crew.rest hsame)
  refine ⟨(congrArg Crew.am hrest :), (congrArg Crew.live hrest :), (congrArg Crew.paths hrest :), hl.mode.trans (congrArg Crew.mode hsame :),
    hl.modex.trans (congrArg Crew.modex hsame :), hl.preds.trans (congrArg Crew.preds hsame :), fun hord hxs => ?_⟩
  obtain ⟨hsreg, hvreg, p, r, sat, ftz, hpend, hp⟩ := hrelaxed hord hxs
  exact ⟨hl.sreg.trans hsreg, hl.vreg.trans hvreg, p, r, sat, ftz, (congrArg Crew.pend hl.rest :).trans hpend, hp⟩

end Sys2Proof.Machine
end

section
/-! PROOF of O33, an atomic performed in one lane (Table 8.4). -/

namespace Sys2Proof.Machine

/-! ## Requests where no notification is asked for (R168) -/

/-- With MIGTHR 0 a request counts, and posts nothing. -/
theorem State.request_of_quiet {s : State} {core cn va : Nat} {loc : Loc} (h : bitsOf (s.ctx cn).migthr.toNat 15 0 = 0) :
    ∃ m, s.request core cn va loc = { s with pageCtr := m } := by
  have hcount (pa : Nat) : ∃ m, s.countPage core cn va pa = { s with pageCtr := m } := by
    unfold State.countPage
    split
    · exact ⟨s.pageCtr, rfl⟩
    · exact ⟨_, rfl⟩
  unfold State.request
  split
  · exact ⟨s.pageCtr, rfl⟩
  next pa _ =>
    obtain ⟨m, hm⟩ := hcount pa
    refine ⟨m, (if_neg ?_).trans hm⟩
    rw [hm]
    exact fun hthr => hthr.1 h

theorem State.requestIf_of_quiet {s : State} {b : Bool} {core cn va : Nat} {loc : Loc} (h : bitsOf (s.ctx cn).migthr.toNat 15 0 = 0) :
    ∃ m, s.requestIf b core cn va loc = { s with pageCtr := m } := by
  cases b
  · exact ⟨s.pageCtr, rfl⟩
  · exact State.request_of_quiet h

/-! ## Reads and writes at the point of coherence -/

/-- A read past L1 changes cores alone. -/
theorem State.readBypass_eq (s : State) (core : Nat) (loc : Loc) (size : Nat) :
    ∃ k, s.readBypass core loc size = (s.bytes loc.idx size, { s with cores := k }) := by
  unfold State.readBypass
  split
  · exact ⟨_, rfl⟩
  · exact ⟨s.cores, rfl⟩

/-- A write at the point of coherence writes its bytes and changes cores otherwise. -/
theorem State.writeAt_eq (s : State) (core : Nat) (loc : Loc) (size x : Nat) :
    ∃ k, s.writeAt core loc size x = { s.setBytes loc.idx x size with cores := k } := by
  unfold State.writeAt
  dsimp only
  split
  · exact ⟨(s.setBytes loc.idx x size).cores, rfl⟩
  · exact ⟨_, rfl⟩

theorem State.setBytes_withCores (n : Nat) : ∀ (s : State) (k : SMap Core) (a x : Nat),
    ({ s with cores := k } : State).setBytes a x n = { s.setBytes a x n with cores := k } := by
  induction n with
  | zero => exact fun _ _ _ _ => rfl
  | succ n ih => exact fun s k a x => ih (s.setByte a (BitVec.ofNat 8 x)) k (a + 1) (x / 256)

/-- A lane's request and its write of a register leave memory alone where no notification is asked for. -/
theorem State.asked_crew {s : State} {k : Nat} {c : Crew} {f : Crew → Crew} {b : Bool} {core va : Nat} {loc : Loc}
    (hc : s.crews.get? k = some c) (hq : bitsOf (s.ctx c.ctx).migthr.toNat 15 0 = 0) :
    ((s.requestIf b core (s.crews.getD k Crew.blank).ctx va loc).mapCrewAt k f).mem = s.mem ∧
      ((s.requestIf b core (s.crews.getD k Crew.blank).ctx va loc).mapCrewAt k f).crews.get? k = some (f c) := by
  rw [show s.crews.getD k Crew.blank = c by unfold SMap.getD; rw [hc]]
  obtain ⟨m, hm⟩ := State.requestIf_of_quiet (b := b) (core := core) (va := va) (loc := loc) hq
  rw [hm, State.mapCrewAt_mem]
  refine ⟨rfl, ?_⟩
  unfold State.mapCrewAt
  dsimp only
  rw [hc]
  exact (State.crews_setCrewAt ..).trans (if_pos rfl)

/-- Performing a lane of an atomic writes what Table 8.4 gives from the old value, and gives the old value to the destination. -/
theorem State.performLane_atomic {s : State} {k : Nat} {c : Crew} {p : Pend} {a : LaneAcc} {dst op ty r : Nat} {sat ftz : Bool}
    (hc : s.crews.get? k = some c) (hk : p.kind = .atomic dst op ty r sat ftz) (hq : bitsOf (s.ctx c.ctx).migthr.toNat 15 0 = 0) :
    (s.performLane k p a).1.mem = (atomicNew op ty ⟨r, sat, ftz, 0⟩ a.gens (s.bytes a.loc.idx p.size) a.data a.cmp).elim s.mem
        (fun x => (s.setBytes a.loc.idx x p.size).mem) ∧
      (s.performLane k p a).1.crews.get? k = some (c.setVN dst a.lane (s.bytes a.loc.idx p.size) (p.size / 4)) := by
  obtain ⟨k1, hread⟩ := s.readBypass_eq (k / 64) a.loc p.size
  unfold State.performLane
  rw [hk]
  dsimp only
  rw [hread]
  dsimp only
  cases atomicNew op ty ⟨r, sat, ftz, 0⟩ a.gens (s.bytes a.loc.idx p.size) a.data a.cmp with
  | none => exact State.asked_crew (s := { s with cores := k1 }) hc hq
  | some x =>
    obtain ⟨k2, hwrite⟩ := State.writeAt_eq { s with cores := k1 } (k / 64) a.loc p.size x
    obtain ⟨m, hm⟩ := State.setBytes_eq p.size s a.loc.idx x
    rw [State.setBytes_withCores, hm] at hwrite
    dsimp only [Option.elim_some]
    rw [hwrite, hm]
    exact State.asked_crew (s := { s with mem := m, cores := k2 }) hc hq

/-! ## An access of one lane completes -/

theorem State.setBytes_mem_congr (n : Nat) : ∀ {s t : State} (a x : Nat), t.mem = s.mem → (t.setBytes a x n).mem = (s.setBytes a x n).mem := by
  induction n with
  | zero => exact fun _ _ h => h
  | succ n ih => exact fun a x h => ih (a + 1) (x / 256) (congrArg (SMap.setD · a (BitVec.ofNat 8 x) 0) h)

theorem State.bytes_mem_congr {s t : State} (h : t.mem = s.mem) (a n : Nat) : t.bytes a n = s.bytes a n :=
  State.bytes_congr n a fun _ _ => congrArg (SMap.getD · _ 0) h

theorem State.spendLines_crew {s : State} {k : Nat} {c : Crew} (hc : s.crews.get? k = some c) (seq : Nat) (lines : List Nat) :
    ∃ ps, (s.spendLines k seq lines).crews.get? k = some { c with pend := ps } := by
  unfold State.spendLines State.mapCrewAt
  split
  · exact ⟨c.pend, hc⟩
  · rw [hc]
    exact ⟨_, (State.crews_setCrewAt ..).trans (if_pos rfl)⟩

/-- The lane that an event names is performed with those of its access that go with it, here itself alone. -/
theorem Pend.close_atomic {p : Pend} {a : LaneAcc} {m : Mask} {dst op ty r : Nat} {sat ftz : Bool}
    (hk : p.kind = .atomic dst op ty r sat ftz) (ha : p.accs = [a]) (hm : m.getLsbD a.lane = true) : p.close m a = true := by
  have hreach : a.lane ≤ p.reach 1 a.lane := by
    unfold Pend.reach Pend.reach
    rw [ha]
    simp only [List.filter_cons, List.filter_nil]
    split <;> simp
  unfold Pend.close
  rw [hk, ha]
  simpa [hm] using hreach

/-- The crew without entry `e` of what it has outstanding. -/
def Crew.dropPend (e : Nat) (c : Crew) : Crew := { c with pend := c.pend.eraseIdx e }

/-- The completion of an atomic's one lane performs the access as a whole. -/
theorem State.completeLanes_atomic {s : State} {k e : Nat} {m : Mask} {c : Crew} {p : Pend} {a : LaneAcc} {dst op ty r : Nat} {sat ftz : Bool}
    (hc : s.crews.get? k = some c) (hp : c.pend[e]? = some p) (hk : p.kind = .atomic dst op ty r sat ftz) (ha : p.accs = [a])
    (hm : m.getLsbD a.lane = true) (hfirst : (c.pend.take e).all (fun q => !q.precedes p) = true) :
    ∃ lines, s.completeLanes k e m PendKind.isLoad = ((s.mapCrewAt k (Crew.dropPend e)).performLane k p a).1.spendLines k p.seq lines := by
  have hclose := Pend.close_atomic hk ha hm
  have hnow : p.accs.filter (p.close m) = p.accs := by rw [ha]; simp [hclose]
  have hrest : p.accs.filter (fun a => !p.close m a) = [] := by rw [ha]; simp [hclose]
  have hgo : ¬ (p.kind.isRemote || !p.kind.isLoad || (c.pend.take e).any fun q => q.precedes p) = true := by
    rw [hk]
    simpa [PendKind.isRemote, PendKind.isLoad] using hfirst
  have hone (u : State) : (u.performLanes k p p.accs []).1 = (u.performLane k p a).1 := by rw [ha]; rfl
  refine ⟨((s.mapCrewAt k (Crew.dropPend e)).performLanes k p p.accs []).2, ?_⟩
  rw [← hone]
  unfold State.completeLanes
  rw [hc]
  dsimp only
  rw [hp]
  dsimp only
  rw [hnow, hrest, if_neg hgo]
  rfl

/-- What the completion leaves in memory, and in the crew: the old value in the destination's registers of the lane. -/
theorem State.completed_atomic {s : State} {k e : Nat} {m : Mask} {c : Crew} {p : Pend} {a : LaneAcc} {dst op ty r : Nat} {sat ftz : Bool}
    (hc : s.crews.get? k = some c) (hp : c.pend[e]? = some p) (hk : p.kind = .atomic dst op ty r sat ftz) (ha : p.accs = [a])
    (hm : m.getLsbD a.lane = true) (hfirst : (c.pend.take e).all (fun q => !q.precedes p) = true)
    (hq : bitsOf (s.ctx c.ctx).migthr.toNat 15 0 = 0) (hlane : a.lane < 64) :
    (s.completeLanes k e m PendKind.isLoad).mem =
        (atomicNew op ty ⟨r, sat, ftz, 0⟩ a.gens (s.bytes a.loc.idx p.size) a.data a.cmp).elim s.mem (fun x => (s.setBytes a.loc.idx x p.size).mem) ∧
      ∃ c', (s.completeLanes k e m PendKind.isLoad).crews.get? k = some c' ∧ c'.sreg = c.sreg ∧ c'.pc = c.pc ∧
        ∀ n l, l < 64 → c'.getV n l = if l = a.lane ∧ dst ≤ n ∧ n < dst + p.size / 4 then
          BitVec.ofNat 32 (s.bytes a.loc.idx p.size / 2 ^ (32 * (n - dst))) else c.getV n l := by
  obtain ⟨lines, hall⟩ := State.completeLanes_atomic hc hp hk ha hm hfirst
  have hcrew : (s.mapCrewAt k (Crew.dropPend e)).crews.get? k = some (c.dropPend e) := by
    unfold State.mapCrewAt
    rw [hc]
    exact (State.crews_setCrewAt ..).trans (if_pos rfl)
  have hmem := State.mapCrewAt_mem s k (Crew.dropPend e)
  obtain ⟨hpmem, hpcrew⟩ := State.performLane_atomic (a := a) hcrew hk (by unfold State.ctx; rw [State.mapCrewAt_ctxs]; exact hq)
  obtain ⟨ps, hps⟩ := State.spendLines_crew hpcrew p.seq lines
  obtain ⟨v, hv⟩ := Crew.setVN_eq a.lane (p.size / 4) dst (s.bytes a.loc.idx p.size) (c.dropPend e)
  rw [State.bytes_mem_congr hmem] at hpmem hps
  rw [hall, State.spendLines_mem, hpmem]
  refine ⟨?_, _, hps, (congrArg Crew.sreg hv :), (congrArg Crew.pc hv :), fun n l hl => Crew.getV_setVN hlane hl n _ _ _ (c.dropPend e)⟩
  cases atomicNew op ty ⟨r, sat, ftz, 0⟩ a.gens (s.bytes a.loc.idx p.size) a.data a.cmp with
  | none => exact hmem
  | some x => exact State.setBytes_mem_congr _ _ _ hmem

/-- Memory after a write that may not be made. -/
theorem State.bytes_of_written {s t : State} {i n : Nat} {w : Option Nat} (h : t.mem = w.elim s.mem fun x => (s.setBytes i x n).mem) :
    t.bytes i n = w.elim (s.bytes i n) (fun x => x % 2 ^ (8 * n)) ∧ ∀ b, b < i ∨ i + n ≤ b → t.byte b = s.byte b := by
  cases w with
  | none => exact ⟨State.bytes_mem_congr h i n, fun b _ => congrArg (SMap.getD · b 0) h⟩
  | some x =>
    refine ⟨(State.bytes_mem_congr h i n).trans ((State.bytes_setBytes n s i x).trans ?_), fun b hb =>
      (congrArg (SMap.getD · b 0) h).trans (State.byte_setBytes_out n s i x b hb)⟩
    rw [Option.elim_some, show 256 = 2 ^ 8 from rfl, ← pow_mul]

/-! ## Table 8.4 on integers -/

/-- An integer type of 32 or 64 bits reads a number below its modulus as the table does. -/
theorem IntFmt.read_of_lt (t : IntFmt) {n : Nat} (h : n < 2 ^ t.width) :
    t.read n = if t.signed = true ∧ 2 ^ (t.width - 1) ≤ n then (n : Int) - 2 ^ t.width else n := by
  unfold IntFmt.read
  dsimp only
  rw [Nat.mod_eq_of_lt h]

theorem atomicNew_eq_table {op ty : Nat} {it : IntFmt} {r : Rnd} {gens : List Nat} {old x y : Nat} (hty : elemKind ty = .int it)
    (hw : it.width = 8 * (4 * spanOf ty)) (hlo : 0x8B ≤ op) (hhi : op ≤ 0x94) (ho : old < 2 ^ it.width) (hy : y < 2 ^ it.width) :
    atomicNew op ty r gens old x y = atomicTable op it.signed it.width old x y := by
  have hwidth : (if ty = 12 ∨ ty = 13 then 64 else 32) = it.width := by
    rw [hw, spanOf]
    split <;> rfl
  unfold atomicNew atomicTable
  dsimp only
  rw [hwidth, hty]
  interval_cases op <;> simp [IntFmt.read_of_lt it ho, IntFmt.read_of_lt it hy]

theorem State.bytes_lt (s : State) (n : Nat) : ∀ a : Nat, s.bytes a n < 2 ^ (8 * n) := by
  induction n with
  | zero => exact fun _ => one_pos
  | succ n ih =>
    intro a
    have hbyte := (s.byte a).isLt
    have hrest := ih (a + 1)
    rw [State.bytes, show 8 * (n + 1) = 8 * n + 8 by omega, pow_add]
    omega

/-- Settles O33: an atomic that goes on is one access, and the completion of a lane writes Table 8.4's value. -/
theorem atomicsCompleteAndFollowTheTable : Obligations.AtomicsCompleteAndFollowTheTable := by
  unfold Obligations.AtomicsCompleteAndFollowTheTable
  refine ⟨fun s s2 c d a b xs hgo => ⟨completes_atomic hgo rfl, completes_atomic hgo rfl, completes_atomic hgo rfl, completes_atomic hgo rfl,
    completes_atomic hgo rfl, completes_atomic hgo rfl, completes_atomic hgo rfl, completes_atomic hgo rfl, completes_atomic hgo rfl,
    completes_atomic hgo rfl⟩, ?_⟩
  intro s core slot e m c p a dst op ty r sat ftz it hc hp hk ha hlo hhi hty hsize hwidth _ hcmp hm hlane _ hfirst hq
  obtain ⟨hmem, c', hcrew, hsreg, hpc, hregs⟩ := State.completed_atomic hc hp hk ha hm hfirst hq hlane
  rw [atomicNew_eq_table hty (hsize ▸ hwidth) hlo hhi (hwidth ▸ s.bytes_lt p.size a.loc.idx) hcmp] at hmem
  obtain ⟨hbytes, hframe⟩ := State.bytes_of_written hmem
  refine ⟨_, c', rfl, hcrew, ⟨fun j hj => ?value, ?table⟩, hframe, fun q l hl hne => (hregs q l hl).trans (if_neg fun h => hne h.1), hsreg, hpc⟩
  case value =>
    rw [hregs _ _ hlane, if_pos ⟨rfl, by omega⟩, Nat.add_sub_cancel_left, BitVec.toNat_ofNat]
  case table =>
    refine hbytes.trans ?_
    cases atomicTable op it.signed it.width (s.bytes a.loc.idx p.size) a.data a.cmp <;> rfl

end Sys2Proof.Machine
end

section
/-! On O34: its clause on LDACQ, and the free values (log 5) that decide whether a plain load hits L1 (R481). -/

namespace Sys2Proof.Machine

/-! ## A plain load of one lane -/

/-- What keeps the scene as it is keeps every crew. -/
theorem State.crews_of_scene {s t : State} (h : t.scene id = s.scene id) (k : Nat) : t.crews.get? k = s.crews.get? k := by
  have hk : (t.crews.get? k).map id = (s.crews.get? k).map id := congrFun (congrArg Scene.crewAt h) k
  simpa using hk

/-- A lane of a plain load writes what the read answers. -/
theorem State.performLane_load {s : State} {k : Nat} {c : Crew} {p : Pend} {a : LaneAcc} {dst : Nat} (hc : s.crews.get? k = some c)
    (hk : p.kind = .load dst false false) : (s.performLane k p a).1.crews.get? k =
      some (c.setVN dst a.lane (s.readPlain (k / 64) a.loc p.size).1 (if p.size ≤ 4 then 1 else p.size / 4)) := by
  unfold State.performLane
  rw [hk]
  dsimp only
  rw [if_neg Bool.false_ne_true, if_neg Bool.false_ne_true]
  generalize hu : (if (s.readPlain (k / 64) a.loc p.size).2.1 = true then _ else _ : State) = u
  have hscene : u.scene id = s.scene id := by
    rw [← hu]
    split <;> simp
  unfold State.mapCrewAt
  rw [State.crews_of_scene hscene, hc]
  exact (State.crews_setCrewAt ..).trans (if_pos rfl)

/-! ## A crew of a slot that its core does not have -/

/-- A crew at core scope with lane 0 active, address 0 in v6:v7, and the first page of memory in the lane's last-page register. -/
def strayCrew : Crew := { Crew.blank with am := 1, live := 1, modex := 2, lastPage := [(0, ⟨0, 0, 2 ^ 17, 0, true, false, false, false⟩)] }

/-- The crew in slot 64 of core 0, which is slot 0 of core 1, whose L1 holds line 0 with a first byte that memory has no more. -/
def strayState : State :=
  { State.reset with focusSlot := 64, crews := [(64, strayCrew)], cores := [(1, { Core.blank with l1 := [(0, 1)] })] }

/-- Lane 0 at its place in memory. -/
def strayLane : LaneXlat := ⟨0, 0, .ok ⟨0, true⟩⟩

theorem strayState_issues : Issues strayState strayCrew (.ldacq 0 6 0) = true ∧
    strayState.classify 0 (some 64) 0 4 .read true (laneVas strayCrew 6 0 4) = (.go [strayLane] [], strayState) := by
  decide +kernel

/-- The lane's access, and the load's entry. -/
def strayAcc : LaneAcc := strayLane.acc (fun _ => 0) (fun _ => 0) fun _ => []

/-- See `strayAcc`. -/
def strayPend : Pend := strayCrew.pendOf (.load 0 false false) 4 [strayLane] (fun _ => 0) (fun _ => 0) fun _ => []

/-- The LDACQ reads through core 1's L1 and leaves the value in v0. -/
theorem ldacq_stray : ∃ t c', exec (.ldacq 0 6 0) strayState = .next t ∧ t.crews.get? 64 = some c' ∧
    c'.getV 0 0 = BitVec.ofNat 32 (strayState.readPlain 1 ⟨0, true⟩ 4).1 := by
  obtain ⟨hissues, hgo⟩ := strayState_issues
  have hc : strayState.crews.get? strayState.fkey = some strayCrew := rfl
  have hperform : strayState.performNow strayPend = (strayState.performLane 64 strayPend strayAcc).1 := by
    unfold State.performNow
    rw [State.perform_of_none hc fun p hp => by cases hp]
    rfl
  have hlane := State.performLane_load (a := strayAcc) (p := strayPend) hc rfl
  have hkey : (strayState.performLane 64 strayPend strayAcc).1.fkey = 64 :=
    State.fkey_of_scene (State.scene_performLane Crew.outline_blindToRegs strayState 64 strayPend strayAcc)
  have hcrew : (strayState.performLane 64 strayPend strayAcc).1.crew? = _ := (congrArg _ hkey).trans hlane
  obtain ⟨c', hc', hu⟩ := finish_done_crew (.ldacq 0 6 0) strayCrew (strayState.performLane 64 strayPend strayAcc).1
  rw [hkey] at hc'
  refine ⟨_, c', (issue_of_issues hissues _).trans (congrArg (fun r => Host.Outcome.next (finish _ strayCrew r)) ?_), hc', ?_⟩
  · exact congrArg Res.done hperform
  · rw [State.crew_of_crew? hcrew] at hu
    have hregs : c'.vreg = (strayCrew.setVN 0 0 (strayState.readPlain 1 ⟨0, true⟩ 4).1 1).vreg := (congrArg Crew.vreg hu :)
    refine (congrArg (SMap.getD · 0 0) hregs).trans ?_
    exact (strayCrew.getV_setV_lane (l := 0) (j := 0) 0 0 _ (by decide) (by decide)).trans (if_pos ⟨rfl, rfl⟩)

/-- What O34 says of the free values, of which nothing is known (log 5): its clause on LDACQ does not exclude a crew of slot 64, whose accesses
go through the L1 of another core than the one named there, and holds of that crew only where the first free value has that L1 drop the line. -/
theorem freeBits_of_acquireLoadsReleaseStoresAndAwait (h : Obligations.AcquireLoadsReleaseStoresAndAwait) :
    (Config.freeBits 0).getLsbD 0 = false := by
  obtain ⟨hload, -⟩ := h
  obtain ⟨hissues, hgo⟩ := strayState_issues
  obtain ⟨t, c', hexec, hget, -, -, -, -, -, -, -, -, -, hidle⟩ := hload strayState strayState strayCrew 0 6 0 [strayLane] hissues hgo
  obtain ⟨-, -, -, hvalues⟩ := hidle rfl
  have hval := (hvalues (by decide) (.inr fun _ _ _ => rfl) strayLane (List.mem_singleton.mpr rfl)).1 (by decide)
  obtain ⟨t', x, hexec', hget', hx⟩ := ldacq_stray
  cases hexec.symm.trans hexec'
  cases hget.symm.trans hget'
  have hread : (strayState.readPlain 1 ⟨0, true⟩ 4).1 = if (Config.freeBits 0).getLsbD 0 then 1 else 0 := by
    unfold State.readPlain
    rw [if_neg (by decide), show (strayState.core 1).l1.get? (0 / 128) = some 1 from rfl]
    dsimp only
    split
    next h => exact (if_pos h).symm
    next h => exact (if_neg h).symm
  rw [show c'.getV (BitVec.toNat 0) strayLane.lane = _ from hx, hread] at hval
  by_contra hbit
  rw [if_pos (by simpa using hbit)] at hval
  exact absurd hval (by decide)

end Sys2Proof.Machine
end
